-- ==== Sys2Proof/Word.lean ====
section
/-! DEFINITION. The word types of the LX7240 (02, R23; 03, R29). -/

namespace Sys2Proof

/-- A byte, the unit of every memory and of the register space (R23). -/
abbrev Byte := BitVec 8
/-- A register or an instruction word (R29). -/
abbrev Word := BitVec 32
/-- A register pair or a virtual address (R23). -/
abbrev DWord := BitVec 64

end Sys2Proof
end

