-- ==== Sys2Proof/Config.lean ====
section
/-! DEFINITION. What the implementation or the outside world fixes: the free values of the model (constants without a body, so that
no proof can see them) and the data that an input from outside carries. -/

namespace Sys2Proof

/-- A choice that the manual leaves open, numbered by the machine's counter `fresh` and by a second index within one step. -/
opaque Config.free : Nat → Nat → Nat
/-- The node number of the eleven NODE strapping balls (18, R332, R343). -/
opaque Config.strapNode : BitVec 11
/-- The device serial and the ROM version (18, Table 18-5); bits 31:24 of the version are the count of failed ports (R343). -/
opaque Config.serial : BitVec 64
/-- The ROM version, without the count of failed ports. -/
opaque Config.romVersion : BitVec 24
/-- SHA-384 of the ROM (18, R342), whose bytes the manual does not give. -/
opaque Config.romMeasure : BitVec 384
/-- SHA-384, which the manual names and does not define (18, R342). -/
opaque Config.sha384 : List (BitVec 8) → BitVec 384
/-- The attestation public key, 97 bytes (18, Table 18-5). -/
opaque Config.publicKey : BitVec 776
/-- The ECDSA signature (r, s) over a digest with the fused key (18, R342). -/
opaque Config.sign : BitVec 384 → BitVec 384 × BitVec 384
/-- The L2 set of a line within its slice (07, R131; 10, R186), which the manual does not define. -/
opaque Config.l2Set : Nat → Nat
/-- The set of a line within its cluster cache (10, R169), which the manual does not define. -/
opaque Config.clusterSet : Nat → Nat

/-- The hash by which a device spreads its requests over the ports of a context (18, R332), which the manual does not define. -/
opaque Config.portHash : Nat → Nat

/-- The header of a host command: its sender, and CTX, TAG and CODE (18, Table 18-2). -/
structure CmdHead where
  node : BitVec 11
  ctx : BitVec 8
  tag : BitVec 16
  code : BitVec 8
  deriving DecidableEq, Repr

/-- A range of addresses: base and length in bytes. -/
structure Span where
  base : Nat
  size : Nat
  deriving DecidableEq, Repr

/-- The arguments of create context, in the order of Table 18-4. -/
structure ContextArgs where
  cores : BitVec 128
  ports : BitVec 64
  hbm : List Span
  deep : List Span
  root : Nat
  poolList : Nat
  poolCount : Nat
  reserve : Span
  saveArea : Span
  stopArea : Span
  ringBase : Nat
  ringN : Nat
  ringCounter : BitVec 64
  lockQuota : Nat
  threshold : Nat
  budget : Nat
  deriving DecidableEq, Repr

/-- The 32-bit atomic operations of Table 11-2. -/
inductive AtomOp where
  | add | and | or | xor | minN | minS | maxN | maxS | exch | cas | inc | faddF32
  deriving DecidableEq, Repr

/-- What a remote or host access does at its home (18, R335, R339). -/
inductive RemoteAcc where
  /-- Reads `len` bytes. -/
  | read (len : Nat)
  /-- Writes the bytes. -/
  | write (bytes : List (BitVec 8))
  /-- A 32-bit atomic with operand `v`, and `w` the swap value of a cas. -/
  | atom (op : AtomOp) (v w : BitVec 32)
  /-- A counter increment of 64 bits (R215, R339). -/
  | signal
  /-- The reading of the descriptor of a merge's destination, which the sketch engine beside its home checks (12, R225). -/
  | descriptor
  deriving DecidableEq, Repr

/-- A remote or host request that arrives: the requesting node, OFF, the access (Table 18-1, R335), and whether the requester's mapping of the page
is tracked (04, R59). -/
structure RemoteReq where
  node : BitVec 11
  off : Nat
  acc : RemoteAcc
  tracked : Bool
  deriving DecidableEq, Repr

/-- A merge that comes from another device (12, R225; 14, R261, R268): the requesting node, OFF of the destination descriptor, the shape, the
source counters each with its poison, the source's SAT, OFF of the counter to signal, and whether the mappings of the destination and of the counter are tracked (04, R59). -/
structure RemoteMerge where
  node : BitVec 11
  off : Nat
  rows : Nat
  logCols : Nat
  scale : Int
  seed : BitVec 64
  counters : List (Int × Bool)
  sat : Bool
  signal : Option (Nat × Bool)
  tracked : Bool
  deriving DecidableEq, Repr

/-- What the fabric answers to the requests of a step: nothing was asked of it, the bytes asked for in the order of the
accesses, or a refusal (18, R333, R335). -/
inductive RemoteReply where
  | none
  | data (bytes : List (BitVec 8))
  | refused
  deriving DecidableEq, Repr

/-- A request, by its number, with what the fabric answers to what it sends. -/
structure Answered where
  id : Nat
  remote : RemoteReply
  deriving DecidableEq, Repr

/-- Some of a sketch request's units (14, R269): the first and how many. -/
structure Units where
  first : Nat
  count : Nat
  deriving DecidableEq, Repr

/-- The lines, as column or row and number, that the Thermos refreshes on its own, and the elements that it leaves behind (04, R51). -/
structure Picks where
  refresh : List (Bool × Nat)
  behind : List (Bool × Nat)
  deriving DecidableEq, Repr

/-- The source of an image (18, Table 18-3): its system address and length, and what the fabric answers to the reading of it. -/
structure ImageSource where
  src : BitVec 64
  len : BitVec 64
  remote : RemoteReply
  deriving DecidableEq, Repr

/-- A cache that may write back or drop a line on its own (10, R170). -/
inductive CacheSel where
  | l1 (core : Nat)
  | cluster (n : Nat)
  | tileBuffer (core : Nat)
  deriving DecidableEq, Repr

/-- Where a workgroup is placed: its core, and the sub-core of each of its groups (06, R91, R94). -/
structure CorePlace where
  core : Nat
  subs : List Nat
  deriving DecidableEq, Repr

/-- A unit that stops when a halt line is raised (17, R318); each die has its Thermos (04, R61). -/
inductive StopUnit where
  | core (n : Nat)
  | copyEngine
  | matrixEngine
  | sketchEngines
  | thermos (die : Nat)
  deriving DecidableEq, Repr

/-- Where an uncorrectable error strikes (10, R191): a 32-byte word of HBM or deep memory, or words of a line that a cache holds: L1, cluster cache, tile
write buffer, tile cache, constant cache, or the remote-read lines of a die. -/
inductive ErrorAt where
  | home (word : Nat)
  | l1 (core line : Nat) (words : BitVec 4)
  | cluster (n line : Nat) (words : BitVec 4)
  | tileBuffer (core line : Nat) (words : BitVec 4)
  | tiles (core line : Nat)
  | constants (core line : Nat)
  | remote (die line : Nat)
  deriving DecidableEq, Repr

end Sys2Proof
end

