-- ==== Sys2Proof/Syntax.lean ====
section
/-! DEFINITION. The instruction set: one constructor for each row of the opcode table. A word carries the fields
the table gives it, the guard first (03, R29, R30); a device event or a host command carries what the environment decides in it. -/

namespace Sys2Proof

/-- Every step of the machine that has a row of the opcode table. -/
inductive Instr where
  /-- IADD_R (R135). Adds two registers modulo 2^32 in each active lane. -/
  | iaddR (g : BitVec 3) (d : BitVec 7) (a : BitVec 7) (b : BitVec 7) (x : BitVec 1)
  /-- IADD_I (R135). Adds a sign-extended or HIMM-widened immediate to a register. -/
  | iaddI (g : BitVec 3) (d : BitVec 7) (a : BitVec 7) (i : BitVec 8)
  /-- ISUB (R135). Subtracts B from A modulo 2^32. -/
  | isub (g : BitVec 3) (d : BitVec 7) (a : BitVec 7) (b : BitVec 7) (x : BitVec 1)
  /-- IADD64 (R135). Adds two register pairs modulo 2^64. -/
  | iadd64 (g : BitVec 3) (d : BitVec 7) (a : BitVec 7) (b : BitVec 7) (x : BitVec 1)
  /-- IMUL_R (R135). Writes the low 32 bits of the product of two registers. -/
  | imulR (g : BitVec 3) (d : BitVec 7) (a : BitVec 7) (b : BitVec 7) (x : BitVec 1)
  /-- IMUL_I (R135). Writes the low 32 bits of the product of a register and an immediate. -/
  | imulI (g : BitVec 3) (d : BitVec 7) (a : BitVec 7) (i : BitVec 8)
  /-- IMULH (R135). Writes the high 32 bits of the unsigned or signed 64-bit product. -/
  | imulh (g : BitVec 3) (d : BitVec 7) (a : BitVec 7) (b : BitVec 7) (s : BitVec 1)
  /-- IMAD (R135). Computes D := A·B + D modulo 2^32. -/
  | imad (g : BitVec 3) (d : BitVec 7) (a : BitVec 7) (b : BitVec 7) (x : BitVec 1)
  /-- IMADW (R135). Adds the widened product of A and B into the destination pair. -/
  | imadw (g : BitVec 3) (d : BitVec 7) (a : BitVec 7) (b : BitVec 7) (s : BitVec 1)
  /-- IMIN (R135). Writes the smaller of A and B, unsigned or signed. -/
  | imin (g : BitVec 3) (d : BitVec 7) (a : BitVec 7) (b : BitVec 7) (s : BitVec 1)
  /-- IMAX (R135). Writes the larger of A and B, unsigned or signed. -/
  | imax (g : BitVec 3) (d : BitVec 7) (a : BitVec 7) (b : BitVec 7) (s : BitVec 1)
  /-- IABS (R135). Writes the absolute value of A modulo 2^32. -/
  | iabs (g : BitVec 3) (d : BitVec 7) (a : BitVec 7)
  /-- INEG (R135). Writes 0 − A modulo 2^32. -/
  | ineg (g : BitVec 3) (d : BitVec 7) (a : BitVec 7)
  /-- NOT (R135). Writes the bitwise complement of A. -/
  | notW (g : BitVec 3) (d : BitVec 7) (a : BitVec 7)
  /-- POPC (R135). Writes the number of set bits of A. -/
  | popc (g : BitVec 3) (d : BitVec 7) (a : BitVec 7)
  /-- CLZ (R135). Writes the number of leading zero bits of A. -/
  | clz (g : BitVec 3) (d : BitVec 7) (a : BitVec 7)
  /-- BREV (R135). Writes A with its bit order reversed. -/
  | brev (g : BitVec 3) (d : BitVec 7) (a : BitVec 7)
  /-- MOV (R135). Copies A into D. -/
  | mov (g : BitVec 3) (d : BitVec 7) (a : BitVec 7)
  /-- SHL_R (R135). Shifts A left by B AND 31. -/
  | shlR (g : BitVec 3) (d : BitVec 7) (a : BitVec 7) (b : BitVec 7) (x : BitVec 1)
  /-- SHL_I (R135). Shifts A left by a constant amount. -/
  | shlI (g : BitVec 3) (d : BitVec 7) (a : BitVec 7) (n : BitVec 5)
  /-- SHR_R (R135). Shifts A right by B AND 31, logically or arithmetically. -/
  | shrR (g : BitVec 3) (d : BitVec 7) (a : BitVec 7) (b : BitVec 7) (s : BitVec 1)
  /-- SHR_N_I (R135). Shifts A right logically by a constant amount. -/
  | shrNI (g : BitVec 3) (d : BitVec 7) (a : BitVec 7) (n : BitVec 5)
  /-- SHR_S_I (R135). Shifts A right arithmetically by a constant amount. -/
  | shrSI (g : BitVec 3) (d : BitVec 7) (a : BitVec 7) (n : BitVec 5)
  /-- ROT (R135). Rotates A left by B AND 31. -/
  | rot (g : BitVec 3) (d : BitVec 7) (a : BitVec 7) (b : BitVec 7) (x : BitVec 1)
  /-- AND_R (R135). Bitwise AND of two registers. -/
  | andR (g : BitVec 3) (d : BitVec 7) (a : BitVec 7) (b : BitVec 7) (x : BitVec 1)
  /-- AND_I (R135). Bitwise AND of a register and an immediate. -/
  | andI (g : BitVec 3) (d : BitVec 7) (a : BitVec 7) (i : BitVec 8)
  /-- OR_R (R135). Bitwise OR of two registers. -/
  | orR (g : BitVec 3) (d : BitVec 7) (a : BitVec 7) (b : BitVec 7) (x : BitVec 1)
  /-- OR_I (R135). Bitwise OR of a register and an immediate. -/
  | orI (g : BitVec 3) (d : BitVec 7) (a : BitVec 7) (i : BitVec 8)
  /-- XOR_R (R135). Bitwise XOR of two registers. -/
  | xorR (g : BitVec 3) (d : BitVec 7) (a : BitVec 7) (b : BitVec 7) (x : BitVec 1)
  /-- XOR_I (R135). Bitwise XOR of a register and an immediate. -/
  | xorI (g : BitVec 3) (d : BitVec 7) (a : BitVec 7) (i : BitVec 8)
  /-- LUT3 (R137). Computes each bit from A, B and old D through an HIMM-supplied truth table. -/
  | lut3 (g : BitVec 3) (d : BitVec 7) (a : BitVec 7) (b : BitVec 7)
  /-- BFX (R136). Extracts a bit field of A, zero- or sign-extended. -/
  | bfx (g : BitVec 3) (d : BitVec 7) (a : BitVec 7) (b : BitVec 7) (s : BitVec 1)
  /-- BFI (R136). Inserts low bits of A into a field of D. -/
  | bfi (g : BitVec 3) (d : BitVec 7) (a : BitVec 7) (b : BitVec 7) (x : BitVec 1)
  /-- LEA_X1_X2 (R135). Adds B scaled by 1 or 2 to an address pair. -/
  | leaX1X2 (g : BitVec 3) (d : BitVec 7) (a : BitVec 7) (b : BitVec 7) (k : BitVec 1)
  /-- LEA_X4_X8 (R135). Adds B scaled by 4 or 8 to an address pair. -/
  | leaX4X8 (g : BitVec 3) (d : BitVec 7) (a : BitVec 7) (b : BitVec 7) (k : BitVec 1)
  /-- MOVI (R135). Writes an immediate to a register. -/
  | movi (g : BitVec 3) (d : BitVec 7) (i : BitVec 8)
  /-- ICMP_R (R138). Compares two integer registers and writes a predicate. -/
  | icmpR (g : BitVec 3) (p : BitVec 4) (c : BitVec 4) (a : BitVec 7) (b : BitVec 7)
  /-- ICMP_I (R138). Compares an integer register with an immediate and writes a predicate. -/
  | icmpI (g : BitVec 3) (p : BitVec 4) (c : BitVec 4) (a : BitVec 7) (i : BitVec 7)
  /-- FCMP_F32 (R139). Compares two FP32 values and writes a predicate, raising NV as Table 8-2. -/
  | fcmpF32 (g : BitVec 3) (p : BitVec 4) (c : BitVec 4) (a : BitVec 7) (b : BitVec 7)
  /-- FCMP_F64 (R139). Compares two FP64 pairs and writes a predicate. -/
  | fcmpF64 (g : BitVec 3) (p : BitVec 4) (c : BitVec 4) (a : BitVec 7) (b : BitVec 7)
  /-- FCMP_F16 (R139). Compares the low FP16 halves of two registers and writes a predicate. -/
  | fcmpF16 (g : BitVec 3) (p : BitVec 4) (c : BitVec 4) (a : BitVec 7) (b : BitVec 7)
  /-- PLUT (R140). Combines three predicates through an HIMM truth table. -/
  | plut (g : BitVec 3) (p : BitVec 4) (a : BitVec 4) (b : BitVec 4) (c : BitVec 4)
  /-- P2V (R141). Packs p0–p11 into a register. -/
  | p2v (g : BitVec 3) (d : BitVec 7)
  /-- V2P (R141). Sets p0–p11 from the low bits of a register. -/
  | v2p (g : BitVec 3) (a : BitVec 7)
  /-- PTEST_NR (R141). Copies NR to a predicate and clears NR. -/
  | ptestNr (g : BitVec 3) (p : BitVec 4)
  /-- SEL (R142). Copies A into D where a predicate, optionally negated, is true. -/
  | sel (g : BitVec 3) (d : BitVec 7) (a : BitVec 7) (p : BitVec 4) (n : BitVec 1)
  /-- BRA (R144). Uniform branch of the path to a B-format target. -/
  | bra (g : BitVec 3) (o : BitVec 22)
  /-- BRD (R83). Divergent branch that opens a frame and splits the path into two slots. -/
  | brd (g : BitVec 3) (t : BitVec 11) (j : BitVec 11)
  /-- CALL (R148). Checks the callee header and calls it, opening a call frame. -/
  | call (g : BitVec 3) (o : BitVec 22)
  /-- CALLI (R150). Indirect call that serves per-lane targets lowest first through the two slots. -/
  | calli (g : BitVec 3) (a : BitVec 7)
  /-- NOP (R152). Changes no state and counts as an issued word. -/
  | nop (g : BitVec 3)
  /-- RET (R149). Sets the path's PC to its join so that the path arrives. -/
  | ret (g : BitVec 3)
  /-- EXIT (R151). Ends every active lane. -/
  | exit (g : BitVec 3)
  /-- KILL (R151). Ends the active lanes whose predicate, optionally negated, is true. -/
  | kill (g : BitVec 3) (p : BitVec 4) (n : BitVec 1)
  /-- LPERM (R155). Permutes a register across lanes by an absolute, relative or XOR index. -/
  | lperm (g : BitVec 3) (p : BitVec 4) (c : BitVec 4) (a : BitVec 7) (b : BitVec 7)
  /-- QXCH_H (R156). Exchanges a value with lane L XOR 1 of the quad. -/
  | qxchH (g : BitVec 3) (d : BitVec 7) (a : BitVec 7)
  /-- QXCH_V (R156). Exchanges a value with lane L XOR 2 of the quad. -/
  | qxchV (g : BitVec 3) (d : BitVec 7) (a : BitVec 7)
  /-- QXCH_D (R156). Exchanges a value with lane L XOR 3 of the quad. -/
  | qxchD (g : BitVec 3) (d : BitVec 7) (a : BitVec 7)
  /-- QBCAST (R156). Broadcasts a value from quad lane q to its quad. -/
  | qbcast (g : BitVec 3) (d : BitVec 7) (a : BitVec 7) (q : BitVec 2)
  /-- POLL_AND (R157). Sets a predicate when every active lane's source predicate is true. -/
  | pollAnd (g : BitVec 3) (p : BitVec 4) (s : BitVec 4)
  /-- POLL_OR (R157). Sets a predicate when some active lane's source predicate is true. -/
  | pollOr (g : BitVec 3) (p : BitVec 4) (s : BitVec 4)
  /-- POLL_SAME (R157). Sets a predicate when all active lanes' source predicates agree. -/
  | pollSame (g : BitVec 3) (p : BitVec 4) (s : BitVec 4)
  /-- PICK (R157). Sets a predicate true in exactly one chosen active lane. -/
  | pick (g : BitVec 3) (p : BitVec 4)
  /-- PMASK (R158). Writes the mask of active lanes whose predicate is true. -/
  | pmask (g : BitVec 3) (d : BitVec 7) (p : BitVec 4) (n : BitVec 1)
  /-- XRED (R159). Reduces a register over the active lanes and writes the result to each. -/
  | xred (g : BitVec 3) (d : BitVec 7) (a : BitVec 7) (m : BitVec 7)
  /-- SMOV (R160). Reads a special register into a register or pair. -/
  | smov (g : BitVec 3) (d : BitVec 7) (m : BitVec 7)
  /-- SSET_FFLAGS (R162). Privileged write of FFLAGS bits 6:0 in each active non-helper lane. -/
  | ssetFflags (g : BitVec 3) (a : BitVec 7)
  /-- SSET_FRND (R162). Privileged write of the group's FRND from a uniform value. -/
  | ssetFrnd (g : BitVec 3) (a : BitVec 7)
  /-- SSET_FTRAP (R162). Privileged write of the group's FTRAP from a uniform value. -/
  | ssetFtrap (g : BitVec 3) (a : BitVec 7)
  /-- LD_G_B8 (R197). Loads one byte per lane from global memory, zero-extended. -/
  | ldGB8 (g : BitVec 3) (t : BitVec 7) (a : BitVec 7) (l : BitVec 4) (s : BitVec 2) (o : BitVec 2)
  /-- LD_G_B16 (R197). Loads two bytes per lane from global memory, zero-extended. -/
  | ldGB16 (g : BitVec 3) (t : BitVec 7) (a : BitVec 7) (l : BitVec 4) (s : BitVec 2) (o : BitVec 2)
  /-- LD_G_B32 (R197). Loads four bytes per lane from global memory. -/
  | ldGB32 (g : BitVec 3) (t : BitVec 7) (a : BitVec 7) (l : BitVec 4) (s : BitVec 2) (o : BitVec 2)
  /-- LD_G_B64 (R197). Loads eight bytes per lane into a pair. -/
  | ldGB64 (g : BitVec 3) (t : BitVec 7) (a : BitVec 7) (l : BitVec 4) (s : BitVec 2) (o : BitVec 2)
  /-- LD_G_B128 (R197). Loads sixteen bytes per lane into a quad. -/
  | ldGB128 (g : BitVec 3) (t : BitVec 7) (a : BitVec 7) (l : BitVec 4) (s : BitVec 2) (o : BitVec 2)
  /-- ST_G_B8 (R197). Stores one byte per lane to global memory. -/
  | stGB8 (g : BitVec 3) (t : BitVec 7) (a : BitVec 7) (s : BitVec 2) (o : BitVec 2)
  /-- ST_G_B16 (R197). Stores two bytes per lane to global memory. -/
  | stGB16 (g : BitVec 3) (t : BitVec 7) (a : BitVec 7) (s : BitVec 2) (o : BitVec 2)
  /-- ST_G_B32 (R197). Stores four bytes per lane to global memory. -/
  | stGB32 (g : BitVec 3) (t : BitVec 7) (a : BitVec 7) (s : BitVec 2) (o : BitVec 2)
  /-- ST_G_B64 (R197). Stores a pair per lane to global memory. -/
  | stGB64 (g : BitVec 3) (t : BitVec 7) (a : BitVec 7) (s : BitVec 2) (o : BitVec 2)
  /-- ST_G_B128 (R197). Stores a quad per lane to global memory. -/
  | stGB128 (g : BitVec 3) (t : BitVec 7) (a : BitVec 7) (s : BitVec 2) (o : BitVec 2)
  /-- LD_L (R198). Loads from the Local Store or a stash window. -/
  | ldL (g : BitVec 3) (t : BitVec 7) (a : BitVec 7) (l : BitVec 4) (w : BitVec 2)
  /-- ST_L (R198). Stores to the Local Store or a stash window. -/
  | stL (g : BitVec 3) (t : BitVec 7) (a : BitVec 7) (w : BitVec 2)
  /-- LDC (R199). Loads from the constant segment or argument block through class C. -/
  | ldc (g : BitVec 3) (t : BitVec 7) (a : BitVec 7) (l : BitVec 4) (w : BitVec 2)
  /-- LDT (R200). Loads global data through the tile cache, class T. -/
  | ldt (g : BitVec 3) (t : BitVec 7) (a : BitVec 7) (l : BitVec 4) (w : BitVec 2)
  /-- ST_T (R200). Stores global data through the tile write buffer, class T. -/
  | stT (g : BitVec 3) (t : BitVec 7) (a : BitVec 7) (w : BitVec 2)
  /-- ATOM_ADD (R202). Atomic add at the scope's level, returning the old value. -/
  | atomAdd (g : BitVec 3) (t : BitVec 6) (a : BitVec 6) (l : BitVec 4) (s : BitVec 2) (o : BitVec 2)
  /-- ATOM_AND (R202). Atomic AND returning the old value. -/
  | atomAnd (g : BitVec 3) (t : BitVec 6) (a : BitVec 6) (l : BitVec 4) (s : BitVec 2) (o : BitVec 2)
  /-- ATOM_OR (R202). Atomic OR returning the old value. -/
  | atomOr (g : BitVec 3) (t : BitVec 6) (a : BitVec 6) (l : BitVec 4) (s : BitVec 2) (o : BitVec 2)
  /-- ATOM_XOR (R202). Atomic XOR returning the old value. -/
  | atomXor (g : BitVec 3) (t : BitVec 6) (a : BitVec 6) (l : BitVec 4) (s : BitVec 2) (o : BitVec 2)
  /-- ATOM_MIN_N (R202). Atomic unsigned minimum returning the old value. -/
  | atomMinN (g : BitVec 3) (t : BitVec 6) (a : BitVec 6) (l : BitVec 4) (s : BitVec 2) (o : BitVec 2)
  /-- ATOM_MIN_S (R202). Atomic signed minimum returning the old value. -/
  | atomMinS (g : BitVec 3) (t : BitVec 6) (a : BitVec 6) (l : BitVec 4) (s : BitVec 2) (o : BitVec 2)
  /-- ATOM_MAX_N (R202). Atomic unsigned maximum returning the old value. -/
  | atomMaxN (g : BitVec 3) (t : BitVec 6) (a : BitVec 6) (l : BitVec 4) (s : BitVec 2) (o : BitVec 2)
  /-- ATOM_MAX_S (R202). Atomic signed maximum returning the old value. -/
  | atomMaxS (g : BitVec 3) (t : BitVec 6) (a : BitVec 6) (l : BitVec 4) (s : BitVec 2) (o : BitVec 2)
  /-- ATOM_EXCH (R202). Atomic exchange returning the old value. -/
  | atomExch (g : BitVec 3) (t : BitVec 6) (a : BitVec 6) (l : BitVec 4) (s : BitVec 2) (o : BitVec 2)
  /-- ATOM_CAS (R202). Atomic compare-and-swap of vT against the location, swapping in vT+1. -/
  | atomCas (g : BitVec 3) (t : BitVec 6) (a : BitVec 6) (l : BitVec 4) (s : BitVec 2) (o : BitVec 2)
  /-- ATOM_INC (R202). Atomic wrapping increment bounded by vT. -/
  | atomInc (g : BitVec 3) (t : BitVec 6) (a : BitVec 6) (l : BitVec 4) (s : BitVec 2) (o : BitVec 2)
  /-- ATOM_FADD_F32 (R202). Atomic FP32 add rounded RNE, returning the old value. -/
  | atomFaddF32 (g : BitVec 3) (t : BitVec 6) (a : BitVec 6) (l : BitVec 4) (s : BitVec 2) (o : BitVec 2)
  /-- RED_ADD (R202). Atomic add with no result. -/
  | redAdd (g : BitVec 3) (t : BitVec 6) (a : BitVec 6) (s : BitVec 2) (o : BitVec 2)
  /-- RED_AND (R202). Atomic AND with no result. -/
  | redAnd (g : BitVec 3) (t : BitVec 6) (a : BitVec 6) (s : BitVec 2) (o : BitVec 2)
  /-- RED_OR (R202). Atomic OR with no result. -/
  | redOr (g : BitVec 3) (t : BitVec 6) (a : BitVec 6) (s : BitVec 2) (o : BitVec 2)
  /-- RED_XOR (R202). Atomic XOR with no result. -/
  | redXor (g : BitVec 3) (t : BitVec 6) (a : BitVec 6) (s : BitVec 2) (o : BitVec 2)
  /-- RED_MIN_N (R202). Atomic unsigned minimum with no result. -/
  | redMinN (g : BitVec 3) (t : BitVec 6) (a : BitVec 6) (s : BitVec 2) (o : BitVec 2)
  /-- RED_MIN_S (R202). Atomic signed minimum with no result. -/
  | redMinS (g : BitVec 3) (t : BitVec 6) (a : BitVec 6) (s : BitVec 2) (o : BitVec 2)
  /-- RED_MAX_N (R202). Atomic unsigned maximum with no result. -/
  | redMaxN (g : BitVec 3) (t : BitVec 6) (a : BitVec 6) (s : BitVec 2) (o : BitVec 2)
  /-- RED_MAX_S (R202). Atomic signed maximum with no result. -/
  | redMaxS (g : BitVec 3) (t : BitVec 6) (a : BitVec 6) (s : BitVec 2) (o : BitVec 2)
  /-- RED_INC (R202). Atomic bounded increment with no result. -/
  | redInc (g : BitVec 3) (t : BitVec 6) (a : BitVec 6) (s : BitVec 2) (o : BitVec 2)
  /-- RED_FADD_F32 (R202). Atomic FP32 add with no result. -/
  | redFaddF32 (g : BitVec 3) (t : BitVec 6) (a : BitVec 6) (s : BitVec 2) (o : BitVec 2)
  /-- FENCE (R211). Acquire, release, acquire-release or sc fence at a scope. -/
  | fence (g : BitVec 3) (o : BitVec 2) (s : BitVec 3)
  /-- PFENCE (R122). Class fence that waits for, pushes and invalidates the named classes at a scope. -/
  | pfence (g : BitVec 3) (m : BitVec 4) (s : BitVec 3) (n : BitVec 4)
  /-- BAR (R213). Releases, arrives at a workgroup or cluster barrier instance, waits and acquires or exits. -/
  | bar (g : BitVec 3) (k : BitVec 1)
  /-- ARRIVE (R216). Releases and signals a counter once for the group. -/
  | arrive (g : BitVec 3) (a : BitVec 7)
  /-- WAITC (R217). Waits until a counter reaches a target, then acquires. -/
  | waitc (g : BitVec 3) (d : BitVec 7) (a : BitVec 7)
  /-- LAUNCH (R218). Releases, reads and validates a launch descriptor and offers it to admission. -/
  | launch (g : BitVec 3) (d : BitVec 7) (a : BitVec 7) (l : BitVec 4)
  /-- CP (R204). Starts one copy per active lane from a copy block. -/
  | cp (g : BitVec 3) (d : BitVec 7) (a : BitVec 7)
  /-- CPCLOSE (R206). Closes the group's open copies into the next batch and returns its number. -/
  | cpclose (g : BitVec 3) (d : BitVec 7) (l : BitVec 4)
  /-- CPWAIT (R206). Waits until every batch up to a number is complete. -/
  | cpwait (g : BitVec 3) (d : BitVec 7)
  /-- PREQ (R207). Requests residency of the lanes' pages and signals a counter when served. -/
  | preq (g : BitVec 3) (d : BitVec 7) (a : BitVec 7)
  /-- LOCK (R208). Pins the L2 line of each lane's address and returns a status code. -/
  | lock (g : BitVec 3) (d : BitVec 7) (a : BitVec 7) (l : BitVec 4)
  /-- UNLOCK (R208). Releases the locked L2 line of each lane's address. -/
  | unlock (g : BitVec 3) (a : BitVec 7)
  /-- STMAP (R209). Maps a stash window for the workgroup from a mapping block. -/
  | stmap (g : BitVec 3) (a : BitVec 7)
  /-- STUNMAP (R210). Writes back a stash window's dirty bytes and ends the window. -/
  | stunmap (g : BitVec 3) (a : BitVec 7)
  /-- STFLUSH (R210). Writes back a stash window's dirty bytes, leaving entries valid and clean. -/
  | stflush (g : BitVec 3) (a : BitVec 7)
  /-- LSADD_F32 (R203). Atomically adds an FP32 value into a Local Store word of the cluster. -/
  | lsaddF32 (g : BitVec 3) (d : BitVec 7) (a : BitVec 7)
  /-- LSADD_I32 (R203). Atomically adds an integer into a Local Store word of the cluster. -/
  | lsaddI32 (g : BitVec 3) (d : BitVec 7) (a : BitVec 7)
  /-- FADD (R272). FP32 or packed FP16 addition rounded once. -/
  | fadd (g : BitVec 3) (d : BitVec 7) (a : BitVec 7) (b : BitVec 7) (x : BitVec 1)
  /-- FSUB (R272). FP32 or packed FP16 subtraction rounded once. -/
  | fsub (g : BitVec 3) (d : BitVec 7) (a : BitVec 7) (b : BitVec 7) (x : BitVec 1)
  /-- FMUL (R272). FP32 or packed FP16 multiplication rounded once. -/
  | fmul (g : BitVec 3) (d : BitVec 7) (a : BitVec 7) (b : BitVec 7) (x : BitVec 1)
  /-- FFMA (R272). Fused multiply-add D := A·B + D with one rounding. -/
  | ffma (g : BitVec 3) (d : BitVec 7) (a : BitVec 7) (b : BitVec 7) (x : BitVec 1)
  /-- FADD_F64 (R272). FP64 addition on pairs. -/
  | faddF64 (g : BitVec 3) (d : BitVec 7) (a : BitVec 7) (b : BitVec 7)
  /-- FSUB_F64 (R272). FP64 subtraction on pairs. -/
  | fsubF64 (g : BitVec 3) (d : BitVec 7) (a : BitVec 7) (b : BitVec 7)
  /-- FMUL_F64 (R272). FP64 multiplication on pairs. -/
  | fmulF64 (g : BitVec 3) (d : BitVec 7) (a : BitVec 7) (b : BitVec 7)
  /-- FFMA_F64 (R272). FP64 fused multiply-add on pairs. -/
  | ffmaF64 (g : BitVec 3) (d : BitVec 7) (a : BitVec 7) (b : BitVec 7)
  /-- FMIN_F32 (R273). IEEE minimum of two FP32 values. -/
  | fminF32 (g : BitVec 3) (d : BitVec 7) (a : BitVec 7) (b : BitVec 7)
  /-- FMAX_F32 (R273). IEEE maximum of two FP32 values. -/
  | fmaxF32 (g : BitVec 3) (d : BitVec 7) (a : BitVec 7) (b : BitVec 7)
  /-- FMINNUM_F32 (R273). IEEE minimumNumber of two FP32 values. -/
  | fminnumF32 (g : BitVec 3) (d : BitVec 7) (a : BitVec 7) (b : BitVec 7)
  /-- FMAXNUM_F32 (R273). IEEE maximumNumber of two FP32 values. -/
  | fmaxnumF32 (g : BitVec 3) (d : BitVec 7) (a : BitVec 7) (b : BitVec 7)
  /-- FMIN_F64 (R273). IEEE minimum of two FP64 pairs. -/
  | fminF64 (g : BitVec 3) (d : BitVec 7) (a : BitVec 7) (b : BitVec 7)
  /-- FMAX_F64 (R273). IEEE maximum of two FP64 pairs. -/
  | fmaxF64 (g : BitVec 3) (d : BitVec 7) (a : BitVec 7) (b : BitVec 7)
  /-- FMINNUM_F64 (R273). IEEE minimumNumber of two FP64 pairs. -/
  | fminnumF64 (g : BitVec 3) (d : BitVec 7) (a : BitVec 7) (b : BitVec 7)
  /-- FMAXNUM_F64 (R273). IEEE maximumNumber of two FP64 pairs. -/
  | fmaxnumF64 (g : BitVec 3) (d : BitVec 7) (a : BitVec 7) (b : BitVec 7)
  /-- FSCALE (R272). Multiplies an FP32 or FP64 value by 2^B and rounds once. -/
  | fscale (g : BitVec 3) (d : BitVec 7) (a : BitVec 7) (b : BitVec 7) (x : BitVec 1)
  /-- VRSQE (R274). Computes 1/√(x′ + ε) with negative inputs clamped and CLAMP raised. -/
  | vrsqe (g : BitVec 3) (d : BitVec 7) (a : BitVec 7) (b : BitVec 7)
  /-- FDIV_F32 (R275). Long-latency FP32 division D := D / A. -/
  | fdivF32 (g : BitVec 3) (d : BitVec 7) (a : BitVec 7) (l : BitVec 4)
  /-- FDIV_F64 (R275). Long-latency FP64 division on pairs. -/
  | fdivF64 (g : BitVec 3) (d : BitVec 7) (a : BitVec 7) (l : BitVec 4)
  /-- FSQRT_F32 (R275). Long-latency FP32 square root. -/
  | fsqrtF32 (g : BitVec 3) (d : BitVec 7) (a : BitVec 7) (l : BitVec 4)
  /-- FSQRT_F64 (R275). Long-latency FP64 square root. -/
  | fsqrtF64 (g : BitVec 3) (d : BitVec 7) (a : BitVec 7) (l : BitVec 4)
  /-- FRCP_F32 (R275). Long-latency FP32 reciprocal. -/
  | frcpF32 (g : BitVec 3) (d : BitVec 7) (a : BitVec 7) (l : BitVec 4)
  /-- FRCP_F64 (R275). Long-latency FP64 reciprocal. -/
  | frcpF64 (g : BitVec 3) (d : BitVec 7) (a : BitVec 7) (l : BitVec 4)
  /-- FEXP2_F32 (R275). Long-latency correctly rounded 2^x. -/
  | fexp2F32 (g : BitVec 3) (d : BitVec 7) (a : BitVec 7) (l : BitVec 4)
  /-- FLOG2_F32 (R275). Long-latency correctly rounded log2. -/
  | flog2F32 (g : BitVec 3) (d : BitVec 7) (a : BitVec 7) (l : BitVec 4)
  /-- FSIN_F32 (R275). Long-latency correctly rounded sine. -/
  | fsinF32 (g : BitVec 3) (d : BitVec 7) (a : BitVec 7) (l : BitVec 4)
  /-- FCOS_F32 (R275). Long-latency correctly rounded cosine. -/
  | fcosF32 (g : BitVec 3) (d : BitVec 7) (a : BitVec 7) (l : BitVec 4)
  /-- FRND_F32 (R276). Rounds an FP32 value to an integral value in the mode in effect. -/
  | frndF32 (g : BitVec 3) (d : BitVec 7) (a : BitVec 7)
  /-- FRND_F64 (R276). Rounds an FP64 value to an integral value in the mode in effect. -/
  | frndF64 (g : BitVec 3) (d : BitVec 7) (a : BitVec 7)
  /-- FCLASS_F32 (R276). Writes the class bit of an FP32 value. -/
  | fclassF32 (g : BitVec 3) (d : BitVec 7) (a : BitVec 7)
  /-- FCLASS_F64 (R276). Writes the class bit of an FP64 value. -/
  | fclassF64 (g : BitVec 3) (d : BitVec 7) (a : BitVec 7)
  /-- FJOIN (R281). Rounds one EXA128 accumulator slot once into FP64. -/
  | fjoin (g : BitVec 3) (d : BitVec 7) (a : BitVec 7)
  /-- FSPLIT_ROW (R280). Cuts FP64 values into INT8 slices with a row exponent reduced over the active lanes. -/
  | fsplitRow (g : BitVec 3) (d : BitVec 7) (a : BitVec 7) (s : BitVec 4)
  /-- FSPLIT_COL (R280). Cuts FP64 values into INT8 slices with a per-lane exponent from vD+4. -/
  | fsplitCol (g : BitVec 3) (d : BitVec 7) (a : BitVec 7) (s : BitVec 4)
  /-- FCVT (R277). Converts between floating, integer and scaled block formats. -/
  | fcvt (g : BitVec 3) (d : BitVec 7) (a : BitVec 7) (s : BitVec 3) (t : BitVec 3) (n : BitVec 1) (x : BitVec 1)
  /-- MMA (R285). Group matrix multiply-accumulate of register fragments into an accumulator. -/
  | mma (g : BitVec 3) (t : BitVec 4) (c : BitVec 3) (a : BitVec 7) (l : BitVec 4) (f : BitVec 4)
  /-- MMAJ (R288). Joins a multi-group matrix instance over LS tiles described by a joint descriptor. -/
  | mmaj (g : BitVec 3) (b : BitVec 3) (a : BitVec 7) (f : BitVec 4)
  /-- MWAIT (R291). Waits until every MMAJ of the group has completed. -/
  | mwait (g : BitVec 3)
  /-- MACC (R292). Adds two accumulator registers element by element into a third. -/
  | macc (g : BitVec 3) (d : BitVec 3) (p : BitVec 3) (q : BitVec 3) (l : BitVec 4) (f : BitVec 4)
  /-- MZERO (R293). Zeroes an accumulator register and sets its row exponents EMPTY. -/
  | mzero (g : BitVec 3) (d : BitVec 3) (l : BitVec 4)
  /-- MLD (R295). Loads a tile from memory into an accumulator through class M. -/
  | mld (g : BitVec 3) (d : BitVec 3) (a : BitVec 7) (l : BitVec 4) (f : BitVec 4)
  /-- MDRAIN (R296). Converts an accumulator at issue and writes it to memory through class M. -/
  | mdrain (g : BitVec 3) (d : BitVec 3) (a : BitVec 7) (f : BitVec 3) (q : BitVec 1)
  /-- MQUANT (R297). Converts an accumulator into an A-fragment tile, with scales for scaled codes. -/
  | mquant (g : BitVec 3) (d : BitVec 4) (a : BitVec 3) (l : BitVec 4) (f : BitVec 4)
  /-- PBIND (R65). Reads a binding descriptor, registers capture and computes C from scratch. -/
  | pbind (g : BitVec 3) (d : BitVec 7) (a : BitVec 7) (l : BitVec 4)
  /-- PSTALE (R66). Returns a binding's pending difference count and status word. -/
  | pstale (g : BitVec 3) (d : BitVec 7) (a : BitVec 7) (l : BitVec 4)
  /-- PSTAT (R67). Returns refresh, peak-queue and drift figures and clears sticky counts. -/
  | pstat (g : BitVec 3) (d : BitVec 7) (a : BitVec 7) (l : BitVec 4)
  /-- PSETTLE (R68). Applies captured differences through q and acquires at a scope, waiting. -/
  | psettle (g : BitVec 3) (a : BitVec 7) (l : BitVec 4) (s : BitVec 3)
  /-- PSETTLE_ASYNC (R68). Requests a settle that signals a counter when complete. -/
  | psettleAsync (g : BitVec 3) (d : BitVec 7) (a : BitVec 7) (l : BitVec 4) (s : BitVec 3)
  /-- PUNBIND (R70). Stops capture, applies every difference and frees the binding. -/
  | punbind (g : BitVec 3) (a : BitVec 7) (l : BitVec 4) (s : BitVec 3)
  /-- PREFRESH (R71). Settles and then recomputes selected lines of C from scratch. -/
  | prefresh (g : BitVec 3) (d : BitVec 7) (a : BitVec 7) (l : BitVec 4) (s : BitVec 3)
  /-- SKADD (R264). Adds each lane's quantised value under its key into a sketch. -/
  | skadd (g : BitVec 3) (d : BitVec 7) (a : BitVec 7)
  /-- SKQRY (R265). Returns the median estimate of each lane's key from a sketch. -/
  | skqry (g : BitVec 3) (d : BitVec 7) (a : BitVec 7) (l : BitVec 4)
  /-- SKINIT (R263). Zeroes every counter of a sketch and clears SAT. -/
  | skinit (g : BitVec 3) (a : BitVec 7)
  /-- SKSCALE (R266). Multiplies every counter of a sketch by a Q1.15 factor. -/
  | skscale (g : BitVec 3) (d : BitVec 7) (a : BitVec 7)
  /-- SKSTAT (R267). Scans a sketch and returns its SAT, saturated-counter count and poison bit. -/
  | skstat (g : BitVec 3) (d : BitVec 7) (a : BitVec 7) (l : BitVec 4)
  /-- SKMERGE (R268). Adds a source sketch into a possibly remote destination sketch, optionally signalling. -/
  | skmerge (g : BitVec 3) (d : BitVec 7) (a : BitVec 7) (s : BitVec 1)
  /-- RTAG (R325). Tags a register or pair with a recipe so that it may be dropped. -/
  | rtag (g : BitVec 3) (d : BitVec 7) (k : BitVec 5) (p : BitVec 1)
  /-- RUNTAG (R326). Materialises a tagged register and releases its tag. -/
  | runtag (g : BitVec 3) (d : BitVec 7) (p : BitVec 1)
  /-- TRAP (R316). Raises a lane trap with cause TRAP and a code. -/
  | trap (g : BitVec 3) (n : BitVec 7)
  /-- BKPT (R316). Raises a lane trap with cause BKPT and a code. -/
  | bkpt (g : BitVec 3) (n : BitVec 7)
  /-- HRD (R315). Handler read of 4 or 8 bytes of the origin lane space. -/
  | hrd (g : BitVec 3) (d : BitVec 7) (a : BitVec 7) (l : BitVec 4) (w : BitVec 1)
  /-- HWR (R315). Handler write of 4 or 8 bytes of the origin lane space. -/
  | hwr (g : BitVec 3) (d : BitVec 7) (a : BitVec 7) (w : BitVec 1)
  /-- ERET_C (R315). Ends a handler lane, completing the origin word with a supplied value. -/
  | eretC (g : BitVec 3) (a : BitVec 7)
  /-- ERET_X (R315). Ends a handler lane, asking for the origin word to be executed again. -/
  | eretX (g : BitVec 3)
  /-- TLBINV (R329). Privileged invalidation of every translation of one page of the context. -/
  | tlbinv (g : BitVec 3) (a : BitVec 7)
  /-- TLBINV_CTX (R329). Privileged invalidation of every translation of the context. -/
  | tlbinvCtx (g : BitVec 3)
  /-- EBUD_RD (R330). Reads the launch's consumed energy and the context's remaining budget. -/
  | ebudRd (g : BitVec 3) (d : BitVec 7) (l : BitVec 4)
  /-- EBUD_SET (R330). Lowers the launch's reserved energy estimate. -/
  | ebudSet (g : BitVec 3) (a : BitVec 7)
  /-- STOPR (R322). Privileged read of a word of the context's latest stop records. -/
  | stopr (g : BitVec 3) (d : BitVec 7) (a : BitVec 7) (l : BitVec 4)
  /-- HIMM (R33). Hint supplying bits 31:8 of its consumer's immediate and its operand position. -/
  | himm (p : BitVec 1) (i : BitVec 24)
  /-- HOFF (R35). Hint supplying a signed byte offset to an M-format consumer. -/
  | hoff (o : BitVec 20)
  /-- HIVL (R89). Hint ending the interval and marking the chunks of the next one. -/
  | hivl (m : BitVec 16)
  /-- HGRD (R35). Hint supplying an extended, negated or never guard to its consumer. -/
  | hgrd (v : BitVec 1) (n : BitVec 1) (p : BitVec 4)
  /-- HSEM (R35). Hint selecting system scope and cache policy for its consumer. -/
  | hsem (s : BitVec 1) (c : BitVec 2)
  /-- HRND (R35). Hint overriding FRND for its consumer. -/
  | hrnd (m : BitVec 3)
  /-- HSAT (R35). Hint requesting saturation and/or stochastic rounding with a seed. -/
  | hsat (s : BitVec 16) (r : BitVec 1) (t : BitVec 1)
  /-- HDET (R214). Hint giving the following BAR its epilogue role. -/
  | hdet
  /-- CREATE_CONTEXT (R340). Host command creating a spatial partition with its resources. -/
  | createContext (h : CmdHead) (args : ContextArgs)
  /-- DESTROY_CONTEXT (R337). Host command halting a context, ending its bindings and freeing its resources. -/
  | destroyContext (h : CmdHead)
  /-- MAP (R345). Host command writing a leaf, migrating a mapped page and invalidating. -/
  | map (h : CmdHead) (va : BitVec 64) (size flags : BitVec 8) (frame : BitVec 64)
  /-- EXPORT (R346). Map with flag bit 7 making a local frame region reachable by a node. -/
  | exportFrame (h : CmdHead) (va : BitVec 64) (size flags : BitVec 8) (frame : BitVec 64)
  /-- UNMAP (R183). Host command clearing a leaf and invalidating its translations. -/
  | unmap (h : CmdHead) (va : BitVec 64)
  /-- WITHDRAW_EXPORT (R346). Unmap with VA bit 7 withdrawing an export to a node. -/
  | withdrawExport (h : CmdHead) (va : BitVec 64)
  /-- LOAD_IMAGE (R338). Host command writing an image's sections and keeping its kernel and recipe tables. -/
  | loadImage (h : CmdHead) (flags : BitVec 32) (image : ImageSource)
  /-- START (R338). Host command offering a root-grid descriptor to admission. -/
  | start (h : CmdHead) (desc : List (BitVec 8))
  /-- HALT (R318). Host command raising the halt line of a context with cause 0x20. -/
  | halt (h : CmdHead)
  /-- RESUME (R320). Host command restoring and continuing a halted context. -/
  | resume (h : CmdHead)
  /-- VACATE (R104). Host command vacating the context's last k cores in Trail order. -/
  | vacate (h : CmdHead) (k : BitVec 32)
  /-- READ_STOP_RECORD (R321). Host command returning one 64-byte stop record. -/
  | readStopRecord (h : CmdHead) (index : BitVec 32)
  /-- ATTEST (R342). Host command returning the measurement and an ECDSA signature over the nonce. -/
  | attest (h : CmdHead) (nonce : BitVec 384)
  /-- SET_ENERGY_BUDGET (R341). Host command replacing the context's energy budget. -/
  | setEnergyBudget (h : CmdHead) (budget : BitVec 64)
  /-- QUERY_IDENTITY (R341). Query selector 0 returning node number, serial and ROM version. -/
  | queryIdentity (h : CmdHead)
  /-- QUERY_PUBLIC_KEY (R342). Query selector 1 returning the attestation public key. -/
  | queryPublicKey (h : CmdHead)
  /-- QUERY_CONTEXT (R341). Query selector 2 returning energy, residency failures and broken promises. -/
  | queryContext (h : CmdHead)
  /-- QUERY_ERROR_COUNTS (R191). Query selector 3 returning per-die corrected and deferred error counts. -/
  | queryErrorCounts (h : CmdHead)
  /-- QUERY_THERMAL (R341). Query selector 4 returning per-die temperature and clock. -/
  | queryThermal (h : CmdHead)
  /-- RESET (R343). Power-on or RESET ball: self-test, memory and link training, NODE read, contexts destroyed. -/
  | reset (failed : BitVec 36)
  /-- THERMAL_THROTTLE (R344). A die reaching 105 °C lowers the clock. -/
  | thermalThrottle (die temp clock : Nat)
  /-- THERMAL_TRIP (R344). A die reaching 115 °C halts every context with cause 0x20. -/
  | thermalTrip (die temp : Nat)
  /-- TRIP_RESET (R344). The device resets 10 ms after a thermal trip. -/
  | tripReset (failed : BitVec 36)
  /-- CLOCK_LOWERING (R341). The device lowers a context's clock in 1/16 steps for budget or power. -/
  | clockLowering (ctx clock : Nat)
  /-- ENERGY_COUNT_UPDATE (R330). Energy counts are refreshed at least every 1,024 ns. -/
  | energyCountUpdate (ctx charge : Nat) (used : List (Nat × Nat))
  /-- LINK_RETRY (R333). A request over a failed link is retried on another plane. -/
  | linkRetry (id port : Nat)
  /-- REQUEST_TIMEOUT (R333). A fabric request unanswered for 10 ms raises an imprecise protection fault. -/
  | requestTimeout (id : Nat)
  /-- REMOTE_REQUEST_ARRIVAL (R335). A remote access arrives and is served in the exporting context or refused. -/
  | remoteRequestArrival (q : RemoteReq)
  /-- REMOTE_MERGE_ARRIVAL (R261). A remote SKMERGE arrives and is accepted or refused; SKMERGE_COMPLETE performs it. -/
  | remoteMergeArrival (q : RemoteMerge)
  /-- HOST_F_WRITE (R339). A host access lands at its home on arrival and is acknowledged. -/
  | hostFWrite (q : RemoteReq)
  /-- CACHE_WRITE_BACK (R170). L1 or cluster cache writes dirty bytes outward or drops a clean line at any time. -/
  | cacheWriteBack (c : CacheSel) (line : Nat) (drop : Bool) (remote : RemoteReply)
  /-- THERMOS_BACKGROUND_APPLY (R51). The Thermos applies differences of a background binding or a collapsed queue. -/
  | thermosBackgroundApply (ctx slot upTo : Nat) (refresh : Picks)
  /-- LOAD_DATA_RETURN (R197). A load's data returns and its destination bytes leave the pending set. -/
  | loadDataReturn (id : Nat) (remote : RemoteReply)
  /-- PAGE_MIGRATION_COMPLETE (R190). A migration switches FRAME, invalidates translations and frees the old frame. -/
  | pageMigrationComplete (id : Nat) (remote : RemoteReply)
  /-- SKMERGE_COMPLETE (R268). A merge finishes its destination adds and signals its counter. -/
  | skmergeComplete (id : Nat) (n : Units) (remote : RemoteReply)
  /-- HOTNESS_NOTIFICATION (R189). A count reaching the threshold writes a ring record and releases the counter. -/
  | hotnessNotification (ctx : Nat) (block : Nat) (req : Nat)
  /-- RELEASE_COMPLETE (R117). A release's pushes reach their level, with acknowledgements at system scope. -/
  | releaseComplete (id : Nat) (remote : RemoteReply)
  /-- WAITC_SATISFIED (R217). A waited counter reaches its target and the group acquires and continues. -/
  | waitcSatisfied (gid : Nat) (slotB : Bool) (remote : RemoteReply)
  /-- CLUSTER_PLACEMENT (R94). When resources free up and dependences are met, the next cluster is placed. -/
  | clusterPlacement (ctx launch : Nat) (place : List CorePlace)
  /-- WAITING_WORKGROUP_RESTORE (R99). A saved waiting workgroup is restored when its object is satisfied. -/
  | waitingWorkgroupRestore (wg : Nat) (place : CorePlace)
  /-- CLUSTER_RESTORE (R105). A moved cluster is restored whole on remaining cores. -/
  | clusterRestore (ctx launch cluster : Nat) (place : List CorePlace)
  /-- RECIPE_REPLAY (R327). A dropped tagged register is rebuilt by its recipe before a read. -/
  | recipeReplay (gid tag : Nat) (remote : RemoteReply)
  /-- ATOM_RESULT_RETURN (R202). An ATOM's old value returns from the level of its scope and its destination leaves the pending set. -/
  | atomResultReturn (id : Nat) (remote : RemoteReply)
  /-- PBIND_COMPLETE (R65). The Thermos finishes the from-scratch C and returns the handle. -/
  | pbindComplete (id : Nat)
  /-- PSETTLE_COMPLETE (R68). A settle finishes; the group resumes with an acquire or the counter is signalled. -/
  | psettleComplete (id : Answered)
  /-- PUNBIND_COMPLETE (R70). An unbind finishes applying and frees the binding's slot and reserve. -/
  | punbindComplete (id : Nat)
  /-- PREFRESH_COMPLETE (R71). A refresh finishes recomputing the selected lines. -/
  | prefreshComplete (id : Nat)
  /-- THERMOS_STATUS_REPLY (R66). The Thermos answers a PSTALE or PSTAT request. -/
  | thermosStatusReply (id : Nat)
  /-- FP_LONG_OP_COMPLETE (R275). A divide, root or transcendental result is written with its flags. -/
  | fpLongOpComplete (id : Nat)
  /-- MMA_COMPLETE (R285). An MMA finishes on its sub-core array and writes the accumulator. -/
  | mmaComplete (id : Nat)
  /-- MLD_COMPLETE (R295). The matrix engine finishes loading a tile into an accumulator. -/
  | mldComplete (id : Nat)
  /-- MDRAIN_WRITE_COMPLETE (R296). The matrix engine finishes landing an MDRAIN's writes. -/
  | mdrainWriteComplete (id : Nat)
  /-- MMAJ_INSTANCE_START (R288). A joint matrix instance starts when its last member issues. -/
  | mmajInstanceStart (id : Nat)
  /-- MMAJ_COMPLETE (R289). A joint matrix instance completes its blocks in the members' accumulators. -/
  | mmajComplete (id : Nat)
  /-- COPY_COMPLETE (R205). A copy finishes landing its destination bytes. -/
  | copyComplete (id : Nat) (overlap : Bool)
  /-- PAGE_REQUEST_SERVICE (R185). A PREQ page is copied into a pool frame or fails, and the counter is signalled. -/
  | pageRequestService (id : Answered)
  /-- SKETCH_REQUEST_PERFORMED (R259). A sketch engine performs a queued SKADD, SKQRY, SKINIT, SKSCALE or SKSTAT. -/
  | sketchRequestPerformed (id : Nat) (n : Units)
  /-- HOTNESS_DECAY (R188). Every 1,048,576 ns each hotness count is halved. -/
  | hotnessDecay
  /-- PFENCE_COMPLETE (R122). A PFENCE's waits, pushes and invalidations finish and its slot proceeds. -/
  | pfenceComplete (id : Answered)
  /-- TLBINV_SWEEP_COMPLETE (R329). The invalidation sweep of every translation holder finishes. -/
  | tlbinvSweepComplete (id : Nat)
  /-- LAUNCH_ADMISSION_REPLY (R95). The distributor answers a LAUNCH with a code and promise. -/
  | launchAdmissionReply (id : Nat)
  /-- LAUNCH_COMPLETION_SIGNAL (R221). An ended launch signals its completion counter, releasing its D accesses. -/
  | launchCompletionSignal (ctx launch : Nat) (remote : RemoteReply)
  /-- WAITING_WORKGROUP_SAVE (R99). A workgroup all in scheduler-visible waits is saved to free its core. -/
  | waitingWorkgroupSave (wg : Nat)
  /-- GROUP_VACATE_STOP (R104). A moved group stops at a unit boundary and its state is saved. -/
  | groupVacateStop (gid : Nat)
  /-- VACATE_REPLY (R105). The vacate is answered when every vacated core is free. -/
  | vacateReply (ctx : Nat)
  /-- FAST_FILE_CHUNK_FILL (R89). A marked or accessed register chunk arrives in the fast file. -/
  | fastFileChunkFill (gid chunk : Nat) (evict : List (Nat × Nat))
  /-- HANDLER_GROUP_FORMATION (R308). A handler group forms when 32 lanes are pooled or the oldest has waited 256 clocks. -/
  | handlerGroupFormation (core : Nat)
  /-- ORIGIN_SLOT_RESUME (R312). An origin slot resumes or re-issues once all its trapped lanes are served. -/
  | originSlotResume (gid : Nat) (slotB : Bool)
  /-- UNIT_STOP (R318). A core or engine stops the context's work within the skid and saves it. -/
  | unitStop (ctx : Nat) (unit : StopUnit)
  /-- LOCK_STATUS_RETURN (R208). The home slice answers a LOCK with each lane's status code and the pinning takes effect. -/
  | lockStatusReturn (id : Nat)
  /-- MACC_MZERO_MQUANT_COMPLETE (R292). A MACC, MZERO or MQUANT finishes and writes its accumulator or tile bytes. -/
  | maccMzeroMquantComplete (id : Nat)
  /-- REMOTE_READ_LINE_DROP (R194). The L2 drops a remote-read line, so the next read of that system address fetches it again. -/
  | remoteReadLineDrop (die line : Nat)
  /-- UNCORRECTABLE_ERROR (R191). An uncorrectable error strikes memory or a cached line, poisoning the words of a dirty line or forcing a refetch of a clean one. -/
  | uncorrectableError (at_ : ErrorAt)
  deriving DecidableEq, Repr

end Sys2Proof
end

