-- ==== Sys2Proof/WellFormed.lean ====
section
/-! DEFINITION. Which field values an instruction word may carry (03, R30): pairs even, quads multiples of four, and every
value of CC, PD, MINOR, F, SCOPE, ORD or a hint payload that the chapters assign. What depends on the hint run or on the state
(HIMM operands, LA against the window, privilege) is checked when the word issues. -/

namespace Sys2Proof

/-- A field that names a pair holds an even number (R30). -/
def evenField (r : BitVec n) : Bool := r.toNat % 2 == 0
/-- A field that names a block of four registers holds a multiple of 4 (R30). -/
def quadField (r : BitVec n) : Bool := r.toNat % 4 == 0
/-- A field that names a block of eight registers holds a multiple of 8 (Table 15-3). -/
def octoField (r : BitVec n) : Bool := r.toNat % 8 == 0
/-- A predicate field names p0 to p11 (R26, R30). -/
def predField (p : BitVec n) : Bool := p.toNat < 12
/-- The number of set bits of a mask. -/
def onesOf (m : BitVec n) : Nat := (List.range n).foldl (fun k i => if m.getLsbD i then k + 1 else k) 0
/-- The special registers that SMOV may read (Table 2-6). -/
def smovNumber (m : BitVec 7) : Bool :=
  let n := m.toNat
  n ≤ 0x0C || (0x10 ≤ n && n ≤ 0x13) || (0x18 ≤ n && n ≤ 0x1E)
/-- The scalar FCVT forms (Table 15-3, X = 0): two distinct floating types of codes 0 to 5, or INT32 with FP64, FP32, FP16 or BF16. -/
def fcvtScalar (s t : Nat) : Bool := (s != t && s ≤ 5 && t ≤ 5) || (s ≤ 3 && t == 7) || (s == 7 && t ≤ 3)
/-- The packed FCVT forms (Table 15-3, `.pk`). -/
def fcvtPacked (s t : Nat) : Bool := (s == 1 && (t == 2 || t == 3)) || ((s == 2 || s == 3) && t == 1) || (s == 2 && t == 3) || (s == 3 && t == 2)
/-- The block FCVT forms (Table 15-3, `.blk`). -/
def fcvtBlock (s t : Nat) : Bool := (s == 1 && 4 ≤ t && t ≤ 6) || (4 ≤ s && s ≤ 6 && t == 1)
/-- FCVT: a listed form, its register alignment, and the signedness bit only beside INT32 (Tables 3-17, 15-3). -/
def fcvtForm (d a : BitVec 7) (s t : BitVec 3) (n x : BitVec 1) : Bool :=
  let s := s.toNat
  let t := t.toNat
  (n == 0 || s == 7 || t == 7) &&
  (if x == 0 then fcvtScalar s t && (s != 0 || evenField a) && (t != 0 || evenField d)
   else if fcvtBlock s t then
     (if s == 1 then octoField a && (if t == 6 then evenField d else quadField d)
      else octoField d && (if s == 6 then evenField a else quadField a))
   else fcvtPacked s t && (s != 1 || evenField a) && (t != 1 || evenField d))

/-- The well-formed instructions: the words that raise no illegal-instruction fault of R30 by their own bits. Device events
and host commands have no encoding and nothing to check here. -/
def Instr.wf : Instr → Bool
  | .iaddR _ _ _ _ _ => true
  | .iaddI _ _ _ _ => true
  | .isub _ _ _ _ _ => true
  | .iadd64 _ d a _ _ => evenField d && evenField a
  | .imulR _ _ _ _ _ => true
  | .imulI _ _ _ _ => true
  | .imulh _ _ _ _ _ => true
  | .imad _ _ _ _ _ => true
  | .imadw _ d _ _ _ => evenField d
  | .imin _ _ _ _ _ => true
  | .imax _ _ _ _ _ => true
  | .iabs _ _ _ => true
  | .ineg _ _ _ => true
  | .notW _ _ _ => true
  | .popc _ _ _ => true
  | .clz _ _ _ => true
  | .brev _ _ _ => true
  | .mov _ _ _ => true
  | .shlR _ _ _ _ _ => true
  | .shlI _ _ _ _ => true
  | .shrR _ _ _ _ _ => true
  | .shrNI _ _ _ _ => true
  | .shrSI _ _ _ _ => true
  | .rot _ _ _ _ _ => true
  | .andR _ _ _ _ _ => true
  | .andI _ _ _ _ => true
  | .orR _ _ _ _ _ => true
  | .orI _ _ _ _ => true
  | .xorR _ _ _ _ _ => true
  | .xorI _ _ _ _ => true
  | .lut3 _ _ _ _ => true
  | .bfx _ _ _ _ _ => true
  | .bfi _ _ _ _ _ => true
  | .leaX1X2 _ d a _ _ => evenField d && evenField a
  | .leaX4X8 _ d a _ _ => evenField d && evenField a
  | .movi _ _ _ => true
  | .icmpR _ p c _ _ => predField p && c.toNat % 8 ≤ 5
  | .icmpI _ p c _ _ => predField p && c.toNat % 8 ≤ 5
  | .fcmpF32 _ p c _ _ => predField p && c.toNat ≤ 7
  | .fcmpF64 _ p c a b => predField p && c.toNat ≤ 7 && evenField a && evenField b
  | .fcmpF16 _ p c _ _ => predField p && c.toNat ≤ 7
  | .plut _ p a b c => predField p && predField a && predField b && predField c
  | .p2v _ _ => true
  | .v2p _ _ => true
  | .ptestNr _ p => predField p
  | .sel _ _ _ p _ => predField p
  | .bra _ _ => true
  | .brd _ _ _ => true
  | .call _ _ => true
  | .calli _ a => evenField a
  | .nop _ => true
  | .ret _ => true
  | .exit _ => true
  | .kill _ p _ => predField p
  | .lperm _ p _ _ _ => predField p || p == 15
  | .qxchH _ _ _ => true
  | .qxchV _ _ _ => true
  | .qxchD _ _ _ => true
  | .qbcast _ _ _ _ => true
  | .pollAnd _ p s => predField p && predField s
  | .pollOr _ p s => predField p && predField s
  | .pollSame _ p s => predField p && predField s
  | .pick _ p => predField p
  | .pmask _ _ p _ => predField p
  | .xred _ _ _ m => m.toNat ≤ 7
  | .smov _ d m => smovNumber m && (evenField d || (m != 0x12 && m != 0x13))
  | .ssetFflags _ _ => true
  | .ssetFrnd _ _ => true
  | .ssetFtrap _ _ => true
  | .ldGB8 _ _ a _ _ o => evenField a && o != 3
  | .ldGB16 _ _ a _ _ o => evenField a && o != 3
  | .ldGB32 _ _ a _ _ o => evenField a && o != 3
  | .ldGB64 _ t a _ _ o => evenField t && evenField a && o != 3
  | .ldGB128 _ t a _ _ o => quadField t && evenField a && o != 3
  | .stGB8 _ _ a _ o => evenField a && o != 3
  | .stGB16 _ _ a _ o => evenField a && o != 3
  | .stGB32 _ _ a _ o => evenField a && o != 3
  | .stGB64 _ t a _ o => evenField t && evenField a && o != 3
  | .stGB128 _ t a _ o => quadField t && evenField a && o != 3
  | .ldL _ t a _ w => evenField a && (w != 2 || evenField t) && (w != 3 || quadField t)
  | .stL _ t a w => evenField a && (w != 2 || evenField t) && (w != 3 || quadField t)
  | .ldc _ t a _ w => evenField a && (w != 2 || evenField t) && (w != 3 || quadField t)
  | .ldt _ t a _ w => evenField a && (w != 2 || evenField t) && (w != 3 || quadField t)
  | .stT _ t a w => evenField a && (w != 2 || evenField t) && (w != 3 || quadField t)
  | .atomAdd _ _ _ _ _ o => o != 3
  | .atomAnd _ _ _ _ _ o => o != 3
  | .atomOr _ _ _ _ _ o => o != 3
  | .atomXor _ _ _ _ _ o => o != 3
  | .atomMinN _ _ _ _ _ o => o != 3
  | .atomMinS _ _ _ _ _ o => o != 3
  | .atomMaxN _ _ _ _ _ o => o != 3
  | .atomMaxS _ _ _ _ _ o => o != 3
  | .atomExch _ _ _ _ _ o => o != 3
  | .atomCas _ t _ _ _ o => evenField t && o != 3
  | .atomInc _ _ _ _ _ o => o != 3
  | .atomFaddF32 _ _ _ _ _ o => o != 3
  | .redAdd _ _ _ _ o => o != 3
  | .redAnd _ _ _ _ o => o != 3
  | .redOr _ _ _ _ o => o != 3
  | .redXor _ _ _ _ o => o != 3
  | .redMinN _ _ _ _ o => o != 3
  | .redMinS _ _ _ _ o => o != 3
  | .redMaxN _ _ _ _ o => o != 3
  | .redMaxS _ _ _ _ o => o != 3
  | .redInc _ _ _ _ o => o != 3
  | .redFaddF32 _ _ _ _ o => o != 3
  | .fence _ _ s => s.toNat ≤ 4
  | .pfence _ m s n => s.toNat ≤ 4 && (m != 0 || n != 0)
  | .bar _ _ => true
  | .arrive _ a => evenField a
  | .waitc _ _ a => evenField a
  | .launch _ d a _ => evenField d && evenField a
  | .cp _ d a => evenField d && quadField a
  | .cpclose _ _ _ => true
  | .cpwait _ _ => true
  | .preq _ d a => evenField d && evenField a
  | .lock _ _ a _ => evenField a
  | .unlock _ a => evenField a
  | .stmap _ a => quadField a
  | .stunmap _ _ => true
  | .stflush _ _ => true
  | .lsaddF32 _ _ a => evenField a
  | .lsaddI32 _ _ a => evenField a
  | .fadd _ _ _ _ _ => true
  | .fsub _ _ _ _ _ => true
  | .fmul _ _ _ _ _ => true
  | .ffma _ _ _ _ _ => true
  | .faddF64 _ d a b => evenField d && evenField a && evenField b
  | .fsubF64 _ d a b => evenField d && evenField a && evenField b
  | .fmulF64 _ d a b => evenField d && evenField a && evenField b
  | .ffmaF64 _ d a b => evenField d && evenField a && evenField b
  | .fminF32 _ _ _ _ => true
  | .fmaxF32 _ _ _ _ => true
  | .fminnumF32 _ _ _ _ => true
  | .fmaxnumF32 _ _ _ _ => true
  | .fminF64 _ d a b => evenField d && evenField a && evenField b
  | .fmaxF64 _ d a b => evenField d && evenField a && evenField b
  | .fminnumF64 _ d a b => evenField d && evenField a && evenField b
  | .fmaxnumF64 _ d a b => evenField d && evenField a && evenField b
  | .fscale _ d a _ x => x == 0 || (evenField d && evenField a)
  | .vrsqe _ _ _ _ => true
  | .fdivF32 _ _ _ _ => true
  | .fdivF64 _ d a _ => evenField d && evenField a
  | .fsqrtF32 _ _ _ _ => true
  | .fsqrtF64 _ d a _ => evenField d && evenField a
  | .frcpF32 _ _ _ _ => true
  | .frcpF64 _ d a _ => evenField d && evenField a
  | .fexp2F32 _ _ _ _ => true
  | .flog2F32 _ _ _ _ => true
  | .fsinF32 _ _ _ _ => true
  | .fcosF32 _ _ _ _ => true
  | .frndF32 _ _ _ => true
  | .frndF64 _ d a => evenField d && evenField a
  | .fclassF32 _ _ _ => true
  | .fclassF64 _ _ a => evenField a
  | .fjoin _ d a => evenField d && quadField a
  | .fsplitRow _ d a s => s.toNat ≥ 1 && quadField d && d.toNat ≤ 120 && evenField a
  | .fsplitCol _ d a s => s.toNat ≥ 1 && quadField d && d.toNat ≤ 120 && evenField a
  | .fcvt _ d a s t n x => fcvtForm d a s t n x
  | .mma _ _ _ a _ _ => evenField a
  | .mmaj _ _ a _ => evenField a
  | .mwait _ => true
  | .macc _ _ _ _ _ f => f.toNat ≤ 2 || f == 8 || f == 9
  | .mzero _ _ _ => true
  | .mld _ _ a _ f => evenField a && (f.toNat ≤ 2 || f == 6 || f == 7)
  | .mdrain _ _ a _ _ => evenField a
  | .mquant _ _ _ _ f => f == 1 || f == 2 || f == 3 || f == 4 || f == 5 || f == 9 || f == 10
  | .pbind _ _ a _ => evenField a
  | .pstale _ d _ _ => evenField d
  | .pstat _ d _ _ => evenField d
  | .psettle _ _ _ s => s.toNat ≤ 4
  | .psettleAsync _ d _ _ s => evenField d && s.toNat ≤ 4
  | .punbind _ _ _ s => s.toNat ≤ 4
  | .prefresh _ _ _ _ s => s.toNat ≤ 4
  | .skadd _ d a => quadField d && evenField a
  | .skqry _ d a _ => evenField d && evenField a
  | .skinit _ a => evenField a
  | .skscale _ _ a => evenField a
  | .skstat _ _ a _ => evenField a
  | .skmerge _ d a _ => quadField d && evenField a
  | .rtag _ d _ p => p == 0 || evenField d
  | .runtag _ d p => p == 0 || evenField d
  | .trap _ _ => true
  | .bkpt _ _ => true
  | .hrd _ d _ _ w => w == 0 || evenField d
  | .hwr _ d _ w => w == 0 || evenField d
  | .eretC _ a => evenField a
  | .eretX _ => true
  | .tlbinv _ a => evenField a
  | .tlbinvCtx _ => true
  | .ebudRd _ d _ => evenField d
  | .ebudSet _ a => evenField a
  | .stopr _ _ _ _ => true
  | .himm _ _ => true
  | .hoff _ => true
  | .hivl m => onesOf m ≤ 8
  | .hgrd v n p => predField p && (v == 0 || (n == 0 && p == 0))
  | .hsem _ c => c != 3
  | .hrnd m => m.toNat ≤ 4
  | .hsat _ _ _ => true
  | .hdet => true
  | .createContext _ _ => true
  | .destroyContext _ => true
  | .map _ _ _ _ _ => true
  | .exportFrame _ _ _ _ _ => true
  | .unmap _ _ => true
  | .withdrawExport _ _ => true
  | .loadImage _ _ _ => true
  | .start _ _ => true
  | .halt _ => true
  | .resume _ => true
  | .vacate _ _ => true
  | .readStopRecord _ _ => true
  | .attest _ _ => true
  | .setEnergyBudget _ _ => true
  | .queryIdentity _ => true
  | .queryPublicKey _ => true
  | .queryContext _ => true
  | .queryErrorCounts _ => true
  | .queryThermal _ => true
  | .reset _ => true
  | .thermalThrottle _ _ _ => true
  | .thermalTrip _ _ => true
  | .tripReset _ => true
  | .clockLowering _ _ => true
  | .energyCountUpdate _ _ _ => true
  | .linkRetry _ _ => true
  | .requestTimeout _ => true
  | .remoteRequestArrival _ => true
  | .remoteMergeArrival _ => true
  | .hostFWrite _ => true
  | .cacheWriteBack _ _ _ _ => true
  | .thermosBackgroundApply _ _ _ _ => true
  | .loadDataReturn _ _ => true
  | .pageMigrationComplete _ _ => true
  | .skmergeComplete _ _ _ => true
  | .hotnessNotification _ _ _ => true
  | .releaseComplete _ _ => true
  | .waitcSatisfied _ _ _ => true
  | .clusterPlacement _ _ _ => true
  | .waitingWorkgroupRestore _ _ => true
  | .clusterRestore _ _ _ _ => true
  | .recipeReplay _ _ _ => true
  | .atomResultReturn _ _ => true
  | .pbindComplete _ => true
  | .psettleComplete _ => true
  | .punbindComplete _ => true
  | .prefreshComplete _ => true
  | .thermosStatusReply _ => true
  | .fpLongOpComplete _ => true
  | .mmaComplete _ => true
  | .mldComplete _ => true
  | .mdrainWriteComplete _ => true
  | .mmajInstanceStart _ => true
  | .mmajComplete _ => true
  | .copyComplete _ _ => true
  | .pageRequestService _ => true
  | .sketchRequestPerformed _ _ => true
  | .hotnessDecay => true
  | .pfenceComplete _ => true
  | .tlbinvSweepComplete _ => true
  | .launchAdmissionReply _ => true
  | .launchCompletionSignal _ _ _ => true
  | .waitingWorkgroupSave _ => true
  | .groupVacateStop _ => true
  | .vacateReply _ => true
  | .fastFileChunkFill _ _ _ => true
  | .handlerGroupFormation _ => true
  | .originSlotResume _ _ => true
  | .unitStop _ _ => true
  | .lockStatusReturn _ => true
  | .maccMzeroMquantComplete _ => true
  | .remoteReadLineDrop _ _ => true
  | .uncorrectableError _ => true

/-- An instruction is well-formed. -/
abbrev WellFormed (i : Instr) : Prop := i.wf = true

end Sys2Proof
end

