-- ==== Sys2Proof/Decode.lean ====
section
/-! DEFINITION. Decoding a 32-bit word (03, Tables 3-1 to 3-17), total on every word, and the encoder written from the same
tables. A reserved word is refused by name. -/

namespace Sys2Proof

/-- Why a word names no instruction. -/
inductive DecodeError where
  /-- A reserved OP, MINOR or F, or a field that must be zero and is not: the illegal-instruction fault (R30). -/
  | reserved
  /-- A hint word with a reserved SUB or payload: the fault comes at its consumer (R34, R35). -/
  | reservedHint
  /-- A register or code field breaks its own rule (R30), though the word names an instruction. -/
  | illFormed
  deriving DecidableEq, Repr

/-- The field of `len` bits of a word whose lowest bit is `lo`. -/
def fieldOf (w : BitVec 32) (lo len : Nat) : BitVec len := BitVec.ofNat len (w.toNat / 2 ^ lo)
/-- The `len` bits from `lo` up hold `v`. -/
def bitsAre (w lo len v : Nat) : Bool := w / 2 ^ lo % 2 ^ len == v

/-- The rows at OP 0x00: IADD_R. -/
def decodeOp00 (w : BitVec 32) : Option Instr :=
  some (.iaddR (fieldOf w 22 3) (fieldOf w 15 7) (fieldOf w 8 7) (fieldOf w 1 7) (fieldOf w 0 1))

/-- The rows at OP 0x01: IADD_I. -/
def decodeOp01 (w : BitVec 32) : Option Instr :=
  some (.iaddI (fieldOf w 22 3) (fieldOf w 15 7) (fieldOf w 8 7) (fieldOf w 0 8))

/-- The rows at OP 0x02: ISUB. -/
def decodeOp02 (w : BitVec 32) : Option Instr :=
  some (.isub (fieldOf w 22 3) (fieldOf w 15 7) (fieldOf w 8 7) (fieldOf w 1 7) (fieldOf w 0 1))

/-- The rows at OP 0x03: IADD64. -/
def decodeOp03 (w : BitVec 32) : Option Instr :=
  some (.iadd64 (fieldOf w 22 3) (fieldOf w 15 7) (fieldOf w 8 7) (fieldOf w 1 7) (fieldOf w 0 1))

/-- The rows at OP 0x04: IMUL_R. -/
def decodeOp04 (w : BitVec 32) : Option Instr :=
  some (.imulR (fieldOf w 22 3) (fieldOf w 15 7) (fieldOf w 8 7) (fieldOf w 1 7) (fieldOf w 0 1))

/-- The rows at OP 0x05: IMUL_I. -/
def decodeOp05 (w : BitVec 32) : Option Instr :=
  some (.imulI (fieldOf w 22 3) (fieldOf w 15 7) (fieldOf w 8 7) (fieldOf w 0 8))

/-- The rows at OP 0x06: IMULH. -/
def decodeOp06 (w : BitVec 32) : Option Instr :=
  some (.imulh (fieldOf w 22 3) (fieldOf w 15 7) (fieldOf w 8 7) (fieldOf w 1 7) (fieldOf w 0 1))

/-- The rows at OP 0x07: IMAD. -/
def decodeOp07 (w : BitVec 32) : Option Instr :=
  some (.imad (fieldOf w 22 3) (fieldOf w 15 7) (fieldOf w 8 7) (fieldOf w 1 7) (fieldOf w 0 1))

/-- The rows at OP 0x08: IMADW. -/
def decodeOp08 (w : BitVec 32) : Option Instr :=
  some (.imadw (fieldOf w 22 3) (fieldOf w 15 7) (fieldOf w 8 7) (fieldOf w 1 7) (fieldOf w 0 1))

/-- The rows at OP 0x09: IMIN. -/
def decodeOp09 (w : BitVec 32) : Option Instr :=
  some (.imin (fieldOf w 22 3) (fieldOf w 15 7) (fieldOf w 8 7) (fieldOf w 1 7) (fieldOf w 0 1))

/-- The rows at OP 0x0A: IMAX. -/
def decodeOp0A (w : BitVec 32) : Option Instr :=
  some (.imax (fieldOf w 22 3) (fieldOf w 15 7) (fieldOf w 8 7) (fieldOf w 1 7) (fieldOf w 0 1))

/-- The rows at OP 0x0B: IABS, INEG, NOT, POPC, CLZ, BREV, MOV. -/
def decodeOp0B (w : BitVec 32) : Option Instr :=
  if bitsAre w.toNat 0 8 0 then some (.iabs (fieldOf w 22 3) (fieldOf w 15 7) (fieldOf w 8 7))
  else if bitsAre w.toNat 0 8 2 then some (.ineg (fieldOf w 22 3) (fieldOf w 15 7) (fieldOf w 8 7))
  else if bitsAre w.toNat 0 8 4 then some (.notW (fieldOf w 22 3) (fieldOf w 15 7) (fieldOf w 8 7))
  else if bitsAre w.toNat 0 8 6 then some (.popc (fieldOf w 22 3) (fieldOf w 15 7) (fieldOf w 8 7))
  else if bitsAre w.toNat 0 8 8 then some (.clz (fieldOf w 22 3) (fieldOf w 15 7) (fieldOf w 8 7))
  else if bitsAre w.toNat 0 8 10 then some (.brev (fieldOf w 22 3) (fieldOf w 15 7) (fieldOf w 8 7))
  else if bitsAre w.toNat 0 8 12 then some (.mov (fieldOf w 22 3) (fieldOf w 15 7) (fieldOf w 8 7))
  else none

/-- The rows at OP 0x0C: SHL_R. -/
def decodeOp0C (w : BitVec 32) : Option Instr :=
  some (.shlR (fieldOf w 22 3) (fieldOf w 15 7) (fieldOf w 8 7) (fieldOf w 1 7) (fieldOf w 0 1))

/-- The rows at OP 0x0D: SHL_I. -/
def decodeOp0D (w : BitVec 32) : Option Instr :=
  if bitsAre w.toNat 5 3 0 then some (.shlI (fieldOf w 22 3) (fieldOf w 15 7) (fieldOf w 8 7) (fieldOf w 0 5))
  else none

/-- The rows at OP 0x0E: SHR_R. -/
def decodeOp0E (w : BitVec 32) : Option Instr :=
  some (.shrR (fieldOf w 22 3) (fieldOf w 15 7) (fieldOf w 8 7) (fieldOf w 1 7) (fieldOf w 0 1))

/-- The rows at OP 0x0F: SHR_N_I. -/
def decodeOp0F (w : BitVec 32) : Option Instr :=
  if bitsAre w.toNat 5 3 0 then some (.shrNI (fieldOf w 22 3) (fieldOf w 15 7) (fieldOf w 8 7) (fieldOf w 0 5))
  else none

/-- The rows at OP 0x10: SHR_S_I. -/
def decodeOp10 (w : BitVec 32) : Option Instr :=
  if bitsAre w.toNat 5 3 0 then some (.shrSI (fieldOf w 22 3) (fieldOf w 15 7) (fieldOf w 8 7) (fieldOf w 0 5))
  else none

/-- The rows at OP 0x11: ROT. -/
def decodeOp11 (w : BitVec 32) : Option Instr :=
  some (.rot (fieldOf w 22 3) (fieldOf w 15 7) (fieldOf w 8 7) (fieldOf w 1 7) (fieldOf w 0 1))

/-- The rows at OP 0x12: AND_R. -/
def decodeOp12 (w : BitVec 32) : Option Instr :=
  some (.andR (fieldOf w 22 3) (fieldOf w 15 7) (fieldOf w 8 7) (fieldOf w 1 7) (fieldOf w 0 1))

/-- The rows at OP 0x13: AND_I. -/
def decodeOp13 (w : BitVec 32) : Option Instr :=
  some (.andI (fieldOf w 22 3) (fieldOf w 15 7) (fieldOf w 8 7) (fieldOf w 0 8))

/-- The rows at OP 0x14: OR_R. -/
def decodeOp14 (w : BitVec 32) : Option Instr :=
  some (.orR (fieldOf w 22 3) (fieldOf w 15 7) (fieldOf w 8 7) (fieldOf w 1 7) (fieldOf w 0 1))

/-- The rows at OP 0x15: OR_I. -/
def decodeOp15 (w : BitVec 32) : Option Instr :=
  some (.orI (fieldOf w 22 3) (fieldOf w 15 7) (fieldOf w 8 7) (fieldOf w 0 8))

/-- The rows at OP 0x16: XOR_R. -/
def decodeOp16 (w : BitVec 32) : Option Instr :=
  some (.xorR (fieldOf w 22 3) (fieldOf w 15 7) (fieldOf w 8 7) (fieldOf w 1 7) (fieldOf w 0 1))

/-- The rows at OP 0x17: XOR_I. -/
def decodeOp17 (w : BitVec 32) : Option Instr :=
  some (.xorI (fieldOf w 22 3) (fieldOf w 15 7) (fieldOf w 8 7) (fieldOf w 0 8))

/-- The rows at OP 0x18: LUT3. -/
def decodeOp18 (w : BitVec 32) : Option Instr :=
  if bitsAre w.toNat 0 1 0 then some (.lut3 (fieldOf w 22 3) (fieldOf w 15 7) (fieldOf w 8 7) (fieldOf w 1 7))
  else none

/-- The rows at OP 0x19: BFX. -/
def decodeOp19 (w : BitVec 32) : Option Instr :=
  some (.bfx (fieldOf w 22 3) (fieldOf w 15 7) (fieldOf w 8 7) (fieldOf w 1 7) (fieldOf w 0 1))

/-- The rows at OP 0x1A: BFI. -/
def decodeOp1A (w : BitVec 32) : Option Instr :=
  some (.bfi (fieldOf w 22 3) (fieldOf w 15 7) (fieldOf w 8 7) (fieldOf w 1 7) (fieldOf w 0 1))

/-- The rows at OP 0x1B: LEA_X1_X2. -/
def decodeOp1B (w : BitVec 32) : Option Instr :=
  some (.leaX1X2 (fieldOf w 22 3) (fieldOf w 15 7) (fieldOf w 8 7) (fieldOf w 1 7) (fieldOf w 0 1))

/-- The rows at OP 0x1C: LEA_X4_X8. -/
def decodeOp1C (w : BitVec 32) : Option Instr :=
  some (.leaX4X8 (fieldOf w 22 3) (fieldOf w 15 7) (fieldOf w 8 7) (fieldOf w 1 7) (fieldOf w 0 1))

/-- The rows at OP 0x1D: MOVI. -/
def decodeOp1D (w : BitVec 32) : Option Instr :=
  if bitsAre w.toNat 8 7 0 then some (.movi (fieldOf w 22 3) (fieldOf w 15 7) (fieldOf w 0 8))
  else none

/-- The rows at OP 0x20: ICMP_R. -/
def decodeOp20 (w : BitVec 32) : Option Instr :=
  some (.icmpR (fieldOf w 22 3) (fieldOf w 18 4) (fieldOf w 14 4) (fieldOf w 7 7) (fieldOf w 0 7))

/-- The rows at OP 0x21: ICMP_I. -/
def decodeOp21 (w : BitVec 32) : Option Instr :=
  some (.icmpI (fieldOf w 22 3) (fieldOf w 18 4) (fieldOf w 14 4) (fieldOf w 7 7) (fieldOf w 0 7))

/-- The rows at OP 0x22: FCMP_F32. -/
def decodeOp22 (w : BitVec 32) : Option Instr :=
  some (.fcmpF32 (fieldOf w 22 3) (fieldOf w 18 4) (fieldOf w 14 4) (fieldOf w 7 7) (fieldOf w 0 7))

/-- The rows at OP 0x23: FCMP_F64. -/
def decodeOp23 (w : BitVec 32) : Option Instr :=
  some (.fcmpF64 (fieldOf w 22 3) (fieldOf w 18 4) (fieldOf w 14 4) (fieldOf w 7 7) (fieldOf w 0 7))

/-- The rows at OP 0x24: FCMP_F16. -/
def decodeOp24 (w : BitVec 32) : Option Instr :=
  some (.fcmpF16 (fieldOf w 22 3) (fieldOf w 18 4) (fieldOf w 14 4) (fieldOf w 7 7) (fieldOf w 0 7))

/-- The rows at OP 0x25: PLUT. -/
def decodeOp25 (w : BitVec 32) : Option Instr :=
  if bitsAre w.toNat 0 6 0 then some (.plut (fieldOf w 22 3) (fieldOf w 18 4) (fieldOf w 14 4) (fieldOf w 10 4) (fieldOf w 6 4))
  else none

/-- The rows at OP 0x26: P2V, V2P, PTEST_NR. -/
def decodeOp26 (w : BitVec 32) : Option Instr :=
  if bitsAre w.toNat 0 15 0 then some (.p2v (fieldOf w 22 3) (fieldOf w 15 7))
  else if bitsAre w.toNat 15 7 0 && bitsAre w.toNat 0 8 2 then some (.v2p (fieldOf w 22 3) (fieldOf w 8 7))
  else if bitsAre w.toNat 19 3 0 && bitsAre w.toNat 0 15 4 then some (.ptestNr (fieldOf w 22 3) (fieldOf w 15 4))
  else none

/-- The rows at OP 0x27: SEL. -/
def decodeOp27 (w : BitVec 32) : Option Instr :=
  if bitsAre w.toNat 1 3 0 then some (.sel (fieldOf w 22 3) (fieldOf w 15 7) (fieldOf w 8 7) (fieldOf w 4 4) (fieldOf w 0 1))
  else none

/-- The rows at OP 0x28: BRA. -/
def decodeOp28 (w : BitVec 32) : Option Instr :=
  some (.bra (fieldOf w 22 3) (fieldOf w 0 22))

/-- The rows at OP 0x29: BRD. -/
def decodeOp29 (w : BitVec 32) : Option Instr :=
  some (.brd (fieldOf w 22 3) (fieldOf w 11 11) (fieldOf w 0 11))

/-- The rows at OP 0x2A: CALL. -/
def decodeOp2A (w : BitVec 32) : Option Instr :=
  some (.call (fieldOf w 22 3) (fieldOf w 0 22))

/-- The rows at OP 0x2B: CALLI. -/
def decodeOp2B (w : BitVec 32) : Option Instr :=
  if bitsAre w.toNat 15 7 0 && bitsAre w.toNat 0 8 0 then some (.calli (fieldOf w 22 3) (fieldOf w 8 7))
  else none

/-- The rows at OP 0x2C: NOP, RET, EXIT. -/
def decodeOp2C (w : BitVec 32) : Option Instr :=
  if bitsAre w.toNat 0 22 0 then some (.nop (fieldOf w 22 3))
  else if bitsAre w.toNat 0 22 2 then some (.ret (fieldOf w 22 3))
  else if bitsAre w.toNat 0 22 4 then some (.exit (fieldOf w 22 3))
  else none

/-- The rows at OP 0x2D: KILL. -/
def decodeOp2D (w : BitVec 32) : Option Instr :=
  if bitsAre w.toNat 8 14 0 && bitsAre w.toNat 1 3 0 then some (.kill (fieldOf w 22 3) (fieldOf w 4 4) (fieldOf w 0 1))
  else none

/-- The rows at OP 0x30: LPERM. -/
def decodeOp30 (w : BitVec 32) : Option Instr :=
  some (.lperm (fieldOf w 22 3) (fieldOf w 18 4) (fieldOf w 14 4) (fieldOf w 7 7) (fieldOf w 0 7))

/-- The rows at OP 0x31: QXCH_H, QXCH_V, QXCH_D, QBCAST. -/
def decodeOp31 (w : BitVec 32) : Option Instr :=
  if bitsAre w.toNat 0 8 0 then some (.qxchH (fieldOf w 22 3) (fieldOf w 15 7) (fieldOf w 8 7))
  else if bitsAre w.toNat 0 8 2 then some (.qxchV (fieldOf w 22 3) (fieldOf w 15 7) (fieldOf w 8 7))
  else if bitsAre w.toNat 0 8 4 then some (.qxchD (fieldOf w 22 3) (fieldOf w 15 7) (fieldOf w 8 7))
  else if bitsAre w.toNat 3 5 1 && bitsAre w.toNat 0 1 0 then some (.qbcast (fieldOf w 22 3) (fieldOf w 15 7) (fieldOf w 8 7) (fieldOf w 1 2))
  else none

/-- The rows at OP 0x32: POLL_AND, POLL_OR, POLL_SAME, PICK. -/
def decodeOp32 (w : BitVec 32) : Option Instr :=
  if bitsAre w.toNat 11 7 0 && bitsAre w.toNat 0 7 0 then some (.pollAnd (fieldOf w 22 3) (fieldOf w 18 4) (fieldOf w 7 4))
  else if bitsAre w.toNat 11 7 8 && bitsAre w.toNat 0 7 0 then some (.pollOr (fieldOf w 22 3) (fieldOf w 18 4) (fieldOf w 7 4))
  else if bitsAre w.toNat 11 7 16 && bitsAre w.toNat 0 7 0 then some (.pollSame (fieldOf w 22 3) (fieldOf w 18 4) (fieldOf w 7 4))
  else if bitsAre w.toNat 0 18 49152 then some (.pick (fieldOf w 22 3) (fieldOf w 18 4))
  else none

/-- The rows at OP 0x33: PMASK. -/
def decodeOp33 (w : BitVec 32) : Option Instr :=
  if bitsAre w.toNat 8 7 0 && bitsAre w.toNat 1 3 0 then some (.pmask (fieldOf w 22 3) (fieldOf w 15 7) (fieldOf w 4 4) (fieldOf w 0 1))
  else none

/-- The rows at OP 0x34: XRED. -/
def decodeOp34 (w : BitVec 32) : Option Instr :=
  if bitsAre w.toNat 0 1 0 then some (.xred (fieldOf w 22 3) (fieldOf w 15 7) (fieldOf w 8 7) (fieldOf w 1 7))
  else none

/-- The rows at OP 0x35: SMOV. -/
def decodeOp35 (w : BitVec 32) : Option Instr :=
  if bitsAre w.toNat 8 7 0 && bitsAre w.toNat 0 1 0 then some (.smov (fieldOf w 22 3) (fieldOf w 15 7) (fieldOf w 1 7))
  else none

/-- The rows at OP 0x36: SSET_FFLAGS, SSET_FRND, SSET_FTRAP. -/
def decodeOp36 (w : BitVec 32) : Option Instr :=
  if bitsAre w.toNat 15 7 0 && bitsAre w.toNat 0 8 48 then some (.ssetFflags (fieldOf w 22 3) (fieldOf w 8 7))
  else if bitsAre w.toNat 15 7 0 && bitsAre w.toNat 0 8 52 then some (.ssetFrnd (fieldOf w 22 3) (fieldOf w 8 7))
  else if bitsAre w.toNat 15 7 0 && bitsAre w.toNat 0 8 54 then some (.ssetFtrap (fieldOf w 22 3) (fieldOf w 8 7))
  else none

/-- The rows at OP 0x38: LD_G_B8. -/
def decodeOp38 (w : BitVec 32) : Option Instr :=
  some (.ldGB8 (fieldOf w 22 3) (fieldOf w 15 7) (fieldOf w 8 7) (fieldOf w 4 4) (fieldOf w 2 2) (fieldOf w 0 2))

/-- The rows at OP 0x39: LD_G_B16. -/
def decodeOp39 (w : BitVec 32) : Option Instr :=
  some (.ldGB16 (fieldOf w 22 3) (fieldOf w 15 7) (fieldOf w 8 7) (fieldOf w 4 4) (fieldOf w 2 2) (fieldOf w 0 2))

/-- The rows at OP 0x3A: LD_G_B32. -/
def decodeOp3A (w : BitVec 32) : Option Instr :=
  some (.ldGB32 (fieldOf w 22 3) (fieldOf w 15 7) (fieldOf w 8 7) (fieldOf w 4 4) (fieldOf w 2 2) (fieldOf w 0 2))

/-- The rows at OP 0x3B: LD_G_B64. -/
def decodeOp3B (w : BitVec 32) : Option Instr :=
  some (.ldGB64 (fieldOf w 22 3) (fieldOf w 15 7) (fieldOf w 8 7) (fieldOf w 4 4) (fieldOf w 2 2) (fieldOf w 0 2))

/-- The rows at OP 0x3C: LD_G_B128. -/
def decodeOp3C (w : BitVec 32) : Option Instr :=
  some (.ldGB128 (fieldOf w 22 3) (fieldOf w 15 7) (fieldOf w 8 7) (fieldOf w 4 4) (fieldOf w 2 2) (fieldOf w 0 2))

/-- The rows at OP 0x3D: ST_G_B8. -/
def decodeOp3D (w : BitVec 32) : Option Instr :=
  if bitsAre w.toNat 4 4 0 then some (.stGB8 (fieldOf w 22 3) (fieldOf w 15 7) (fieldOf w 8 7) (fieldOf w 2 2) (fieldOf w 0 2))
  else none

/-- The rows at OP 0x3E: ST_G_B16. -/
def decodeOp3E (w : BitVec 32) : Option Instr :=
  if bitsAre w.toNat 4 4 0 then some (.stGB16 (fieldOf w 22 3) (fieldOf w 15 7) (fieldOf w 8 7) (fieldOf w 2 2) (fieldOf w 0 2))
  else none

/-- The rows at OP 0x3F: ST_G_B32. -/
def decodeOp3F (w : BitVec 32) : Option Instr :=
  if bitsAre w.toNat 4 4 0 then some (.stGB32 (fieldOf w 22 3) (fieldOf w 15 7) (fieldOf w 8 7) (fieldOf w 2 2) (fieldOf w 0 2))
  else none

/-- The rows at OP 0x40: ST_G_B64. -/
def decodeOp40 (w : BitVec 32) : Option Instr :=
  if bitsAre w.toNat 4 4 0 then some (.stGB64 (fieldOf w 22 3) (fieldOf w 15 7) (fieldOf w 8 7) (fieldOf w 2 2) (fieldOf w 0 2))
  else none

/-- The rows at OP 0x41: ST_G_B128. -/
def decodeOp41 (w : BitVec 32) : Option Instr :=
  if bitsAre w.toNat 4 4 0 then some (.stGB128 (fieldOf w 22 3) (fieldOf w 15 7) (fieldOf w 8 7) (fieldOf w 2 2) (fieldOf w 0 2))
  else none

/-- The rows at OP 0x42: LD_L. -/
def decodeOp42 (w : BitVec 32) : Option Instr :=
  if bitsAre w.toNat 0 2 0 then some (.ldL (fieldOf w 22 3) (fieldOf w 15 7) (fieldOf w 8 7) (fieldOf w 4 4) (fieldOf w 2 2))
  else none

/-- The rows at OP 0x43: ST_L. -/
def decodeOp43 (w : BitVec 32) : Option Instr :=
  if bitsAre w.toNat 4 4 0 && bitsAre w.toNat 0 2 0 then some (.stL (fieldOf w 22 3) (fieldOf w 15 7) (fieldOf w 8 7) (fieldOf w 2 2))
  else none

/-- The rows at OP 0x44: LDC. -/
def decodeOp44 (w : BitVec 32) : Option Instr :=
  if bitsAre w.toNat 0 2 0 then some (.ldc (fieldOf w 22 3) (fieldOf w 15 7) (fieldOf w 8 7) (fieldOf w 4 4) (fieldOf w 2 2))
  else none

/-- The rows at OP 0x45: LDT. -/
def decodeOp45 (w : BitVec 32) : Option Instr :=
  if bitsAre w.toNat 0 2 0 then some (.ldt (fieldOf w 22 3) (fieldOf w 15 7) (fieldOf w 8 7) (fieldOf w 4 4) (fieldOf w 2 2))
  else none

/-- The rows at OP 0x46: ST_T. -/
def decodeOp46 (w : BitVec 32) : Option Instr :=
  if bitsAre w.toNat 4 4 0 && bitsAre w.toNat 0 2 0 then some (.stT (fieldOf w 22 3) (fieldOf w 15 7) (fieldOf w 8 7) (fieldOf w 2 2))
  else none

/-- The rows at OP 0x47: ATOM_ADD, ATOM_AND, ATOM_OR, ATOM_XOR. -/
def decodeOp47 (w : BitVec 32) : Option Instr :=
  if bitsAre w.toNat 21 1 0 && bitsAre w.toNat 8 1 0 then some (.atomAdd (fieldOf w 22 3) (fieldOf w 15 6) (fieldOf w 9 6) (fieldOf w 4 4) (fieldOf w 2 2) (fieldOf w 0 2))
  else if bitsAre w.toNat 21 1 0 && bitsAre w.toNat 8 1 1 then some (.atomAnd (fieldOf w 22 3) (fieldOf w 15 6) (fieldOf w 9 6) (fieldOf w 4 4) (fieldOf w 2 2) (fieldOf w 0 2))
  else if bitsAre w.toNat 21 1 1 && bitsAre w.toNat 8 1 0 then some (.atomOr (fieldOf w 22 3) (fieldOf w 15 6) (fieldOf w 9 6) (fieldOf w 4 4) (fieldOf w 2 2) (fieldOf w 0 2))
  else if bitsAre w.toNat 21 1 1 && bitsAre w.toNat 8 1 1 then some (.atomXor (fieldOf w 22 3) (fieldOf w 15 6) (fieldOf w 9 6) (fieldOf w 4 4) (fieldOf w 2 2) (fieldOf w 0 2))
  else none

/-- The rows at OP 0x48: ATOM_MIN_N, ATOM_MIN_S, ATOM_MAX_N, ATOM_MAX_S. -/
def decodeOp48 (w : BitVec 32) : Option Instr :=
  if bitsAre w.toNat 21 1 0 && bitsAre w.toNat 8 1 0 then some (.atomMinN (fieldOf w 22 3) (fieldOf w 15 6) (fieldOf w 9 6) (fieldOf w 4 4) (fieldOf w 2 2) (fieldOf w 0 2))
  else if bitsAre w.toNat 21 1 0 && bitsAre w.toNat 8 1 1 then some (.atomMinS (fieldOf w 22 3) (fieldOf w 15 6) (fieldOf w 9 6) (fieldOf w 4 4) (fieldOf w 2 2) (fieldOf w 0 2))
  else if bitsAre w.toNat 21 1 1 && bitsAre w.toNat 8 1 0 then some (.atomMaxN (fieldOf w 22 3) (fieldOf w 15 6) (fieldOf w 9 6) (fieldOf w 4 4) (fieldOf w 2 2) (fieldOf w 0 2))
  else if bitsAre w.toNat 21 1 1 && bitsAre w.toNat 8 1 1 then some (.atomMaxS (fieldOf w 22 3) (fieldOf w 15 6) (fieldOf w 9 6) (fieldOf w 4 4) (fieldOf w 2 2) (fieldOf w 0 2))
  else none

/-- The rows at OP 0x49: ATOM_EXCH, ATOM_CAS, ATOM_INC, ATOM_FADD_F32. -/
def decodeOp49 (w : BitVec 32) : Option Instr :=
  if bitsAre w.toNat 21 1 0 && bitsAre w.toNat 8 1 0 then some (.atomExch (fieldOf w 22 3) (fieldOf w 15 6) (fieldOf w 9 6) (fieldOf w 4 4) (fieldOf w 2 2) (fieldOf w 0 2))
  else if bitsAre w.toNat 21 1 0 && bitsAre w.toNat 8 1 1 then some (.atomCas (fieldOf w 22 3) (fieldOf w 15 6) (fieldOf w 9 6) (fieldOf w 4 4) (fieldOf w 2 2) (fieldOf w 0 2))
  else if bitsAre w.toNat 21 1 1 && bitsAre w.toNat 8 1 0 then some (.atomInc (fieldOf w 22 3) (fieldOf w 15 6) (fieldOf w 9 6) (fieldOf w 4 4) (fieldOf w 2 2) (fieldOf w 0 2))
  else if bitsAre w.toNat 21 1 1 && bitsAre w.toNat 8 1 1 then some (.atomFaddF32 (fieldOf w 22 3) (fieldOf w 15 6) (fieldOf w 9 6) (fieldOf w 4 4) (fieldOf w 2 2) (fieldOf w 0 2))
  else none

/-- The rows at OP 0x4A: RED_ADD, RED_AND, RED_OR, RED_XOR. -/
def decodeOp4A (w : BitVec 32) : Option Instr :=
  if bitsAre w.toNat 21 1 0 && bitsAre w.toNat 4 5 0 then some (.redAdd (fieldOf w 22 3) (fieldOf w 15 6) (fieldOf w 9 6) (fieldOf w 2 2) (fieldOf w 0 2))
  else if bitsAre w.toNat 21 1 0 && bitsAre w.toNat 4 5 16 then some (.redAnd (fieldOf w 22 3) (fieldOf w 15 6) (fieldOf w 9 6) (fieldOf w 2 2) (fieldOf w 0 2))
  else if bitsAre w.toNat 21 1 1 && bitsAre w.toNat 4 5 0 then some (.redOr (fieldOf w 22 3) (fieldOf w 15 6) (fieldOf w 9 6) (fieldOf w 2 2) (fieldOf w 0 2))
  else if bitsAre w.toNat 21 1 1 && bitsAre w.toNat 4 5 16 then some (.redXor (fieldOf w 22 3) (fieldOf w 15 6) (fieldOf w 9 6) (fieldOf w 2 2) (fieldOf w 0 2))
  else none

/-- The rows at OP 0x4B: RED_MIN_N, RED_MIN_S, RED_MAX_N, RED_MAX_S. -/
def decodeOp4B (w : BitVec 32) : Option Instr :=
  if bitsAre w.toNat 21 1 0 && bitsAre w.toNat 4 5 0 then some (.redMinN (fieldOf w 22 3) (fieldOf w 15 6) (fieldOf w 9 6) (fieldOf w 2 2) (fieldOf w 0 2))
  else if bitsAre w.toNat 21 1 0 && bitsAre w.toNat 4 5 16 then some (.redMinS (fieldOf w 22 3) (fieldOf w 15 6) (fieldOf w 9 6) (fieldOf w 2 2) (fieldOf w 0 2))
  else if bitsAre w.toNat 21 1 1 && bitsAre w.toNat 4 5 0 then some (.redMaxN (fieldOf w 22 3) (fieldOf w 15 6) (fieldOf w 9 6) (fieldOf w 2 2) (fieldOf w 0 2))
  else if bitsAre w.toNat 21 1 1 && bitsAre w.toNat 4 5 16 then some (.redMaxS (fieldOf w 22 3) (fieldOf w 15 6) (fieldOf w 9 6) (fieldOf w 2 2) (fieldOf w 0 2))
  else none

/-- The rows at OP 0x4C: RED_INC, RED_FADD_F32. -/
def decodeOp4C (w : BitVec 32) : Option Instr :=
  if bitsAre w.toNat 21 1 0 && bitsAre w.toNat 4 5 0 then some (.redInc (fieldOf w 22 3) (fieldOf w 15 6) (fieldOf w 9 6) (fieldOf w 2 2) (fieldOf w 0 2))
  else if bitsAre w.toNat 21 1 0 && bitsAre w.toNat 4 5 16 then some (.redFaddF32 (fieldOf w 22 3) (fieldOf w 15 6) (fieldOf w 9 6) (fieldOf w 2 2) (fieldOf w 0 2))
  else none

/-- The rows at OP 0x4D: FENCE, PFENCE, BAR, ARRIVE, WAITC, LAUNCH. -/
def decodeOp4D (w : BitVec 32) : Option Instr :=
  if bitsAre w.toNat 20 2 0 && bitsAre w.toNat 0 15 0 then some (.fence (fieldOf w 22 3) (fieldOf w 18 2) (fieldOf w 15 3))
  else if bitsAre w.toNat 12 3 0 && bitsAre w.toNat 0 8 1 then some (.pfence (fieldOf w 22 3) (fieldOf w 18 4) (fieldOf w 15 3) (fieldOf w 8 4))
  else if bitsAre w.toNat 16 6 0 && bitsAre w.toNat 0 15 2 then some (.bar (fieldOf w 22 3) (fieldOf w 15 1))
  else if bitsAre w.toNat 15 7 0 && bitsAre w.toNat 0 8 3 then some (.arrive (fieldOf w 22 3) (fieldOf w 8 7))
  else if bitsAre w.toNat 0 8 4 then some (.waitc (fieldOf w 22 3) (fieldOf w 15 7) (fieldOf w 8 7))
  else if bitsAre w.toNat 0 4 5 then some (.launch (fieldOf w 22 3) (fieldOf w 15 7) (fieldOf w 8 7) (fieldOf w 4 4))
  else none

/-- The rows at OP 0x4E: CP, CPCLOSE, CPWAIT, PREQ, LOCK, UNLOCK, STMAP, STUNMAP, STFLUSH. -/
def decodeOp4E (w : BitVec 32) : Option Instr :=
  if bitsAre w.toNat 0 8 0 then some (.cp (fieldOf w 22 3) (fieldOf w 15 7) (fieldOf w 8 7))
  else if bitsAre w.toNat 8 7 0 && bitsAre w.toNat 0 4 1 then some (.cpclose (fieldOf w 22 3) (fieldOf w 15 7) (fieldOf w 4 4))
  else if bitsAre w.toNat 0 15 2 then some (.cpwait (fieldOf w 22 3) (fieldOf w 15 7))
  else if bitsAre w.toNat 0 8 3 then some (.preq (fieldOf w 22 3) (fieldOf w 15 7) (fieldOf w 8 7))
  else if bitsAre w.toNat 0 4 4 then some (.lock (fieldOf w 22 3) (fieldOf w 15 7) (fieldOf w 8 7) (fieldOf w 4 4))
  else if bitsAre w.toNat 15 7 0 && bitsAre w.toNat 0 8 5 then some (.unlock (fieldOf w 22 3) (fieldOf w 8 7))
  else if bitsAre w.toNat 15 7 0 && bitsAre w.toNat 0 8 6 then some (.stmap (fieldOf w 22 3) (fieldOf w 8 7))
  else if bitsAre w.toNat 15 7 0 && bitsAre w.toNat 0 8 7 then some (.stunmap (fieldOf w 22 3) (fieldOf w 8 7))
  else if bitsAre w.toNat 15 7 0 && bitsAre w.toNat 0 8 8 then some (.stflush (fieldOf w 22 3) (fieldOf w 8 7))
  else none

/-- The rows at OP 0x4F: LSADD_F32, LSADD_I32. -/
def decodeOp4F (w : BitVec 32) : Option Instr :=
  if bitsAre w.toNat 0 8 0 then some (.lsaddF32 (fieldOf w 22 3) (fieldOf w 15 7) (fieldOf w 8 7))
  else if bitsAre w.toNat 0 8 1 then some (.lsaddI32 (fieldOf w 22 3) (fieldOf w 15 7) (fieldOf w 8 7))
  else none

/-- The rows at OP 0x50: FADD. -/
def decodeOp50 (w : BitVec 32) : Option Instr :=
  some (.fadd (fieldOf w 22 3) (fieldOf w 15 7) (fieldOf w 8 7) (fieldOf w 1 7) (fieldOf w 0 1))

/-- The rows at OP 0x51: FSUB. -/
def decodeOp51 (w : BitVec 32) : Option Instr :=
  some (.fsub (fieldOf w 22 3) (fieldOf w 15 7) (fieldOf w 8 7) (fieldOf w 1 7) (fieldOf w 0 1))

/-- The rows at OP 0x52: FMUL. -/
def decodeOp52 (w : BitVec 32) : Option Instr :=
  some (.fmul (fieldOf w 22 3) (fieldOf w 15 7) (fieldOf w 8 7) (fieldOf w 1 7) (fieldOf w 0 1))

/-- The rows at OP 0x53: FFMA. -/
def decodeOp53 (w : BitVec 32) : Option Instr :=
  some (.ffma (fieldOf w 22 3) (fieldOf w 15 7) (fieldOf w 8 7) (fieldOf w 1 7) (fieldOf w 0 1))

/-- The rows at OP 0x54: FADD_F64, FSUB_F64. -/
def decodeOp54 (w : BitVec 32) : Option Instr :=
  if bitsAre w.toNat 0 1 0 then some (.faddF64 (fieldOf w 22 3) (fieldOf w 15 7) (fieldOf w 8 7) (fieldOf w 1 7))
  else if bitsAre w.toNat 0 1 1 then some (.fsubF64 (fieldOf w 22 3) (fieldOf w 15 7) (fieldOf w 8 7) (fieldOf w 1 7))
  else none

/-- The rows at OP 0x55: FMUL_F64, FFMA_F64. -/
def decodeOp55 (w : BitVec 32) : Option Instr :=
  if bitsAre w.toNat 0 1 0 then some (.fmulF64 (fieldOf w 22 3) (fieldOf w 15 7) (fieldOf w 8 7) (fieldOf w 1 7))
  else if bitsAre w.toNat 0 1 1 then some (.ffmaF64 (fieldOf w 22 3) (fieldOf w 15 7) (fieldOf w 8 7) (fieldOf w 1 7))
  else none

/-- The rows at OP 0x56: FMIN_F32, FMAX_F32. -/
def decodeOp56 (w : BitVec 32) : Option Instr :=
  if bitsAre w.toNat 0 1 0 then some (.fminF32 (fieldOf w 22 3) (fieldOf w 15 7) (fieldOf w 8 7) (fieldOf w 1 7))
  else if bitsAre w.toNat 0 1 1 then some (.fmaxF32 (fieldOf w 22 3) (fieldOf w 15 7) (fieldOf w 8 7) (fieldOf w 1 7))
  else none

/-- The rows at OP 0x57: FMINNUM_F32, FMAXNUM_F32. -/
def decodeOp57 (w : BitVec 32) : Option Instr :=
  if bitsAre w.toNat 0 1 0 then some (.fminnumF32 (fieldOf w 22 3) (fieldOf w 15 7) (fieldOf w 8 7) (fieldOf w 1 7))
  else if bitsAre w.toNat 0 1 1 then some (.fmaxnumF32 (fieldOf w 22 3) (fieldOf w 15 7) (fieldOf w 8 7) (fieldOf w 1 7))
  else none

/-- The rows at OP 0x58: FMIN_F64, FMAX_F64. -/
def decodeOp58 (w : BitVec 32) : Option Instr :=
  if bitsAre w.toNat 0 1 0 then some (.fminF64 (fieldOf w 22 3) (fieldOf w 15 7) (fieldOf w 8 7) (fieldOf w 1 7))
  else if bitsAre w.toNat 0 1 1 then some (.fmaxF64 (fieldOf w 22 3) (fieldOf w 15 7) (fieldOf w 8 7) (fieldOf w 1 7))
  else none

/-- The rows at OP 0x59: FMINNUM_F64, FMAXNUM_F64. -/
def decodeOp59 (w : BitVec 32) : Option Instr :=
  if bitsAre w.toNat 0 1 0 then some (.fminnumF64 (fieldOf w 22 3) (fieldOf w 15 7) (fieldOf w 8 7) (fieldOf w 1 7))
  else if bitsAre w.toNat 0 1 1 then some (.fmaxnumF64 (fieldOf w 22 3) (fieldOf w 15 7) (fieldOf w 8 7) (fieldOf w 1 7))
  else none

/-- The rows at OP 0x5A: FSCALE. -/
def decodeOp5A (w : BitVec 32) : Option Instr :=
  some (.fscale (fieldOf w 22 3) (fieldOf w 15 7) (fieldOf w 8 7) (fieldOf w 1 7) (fieldOf w 0 1))

/-- The rows at OP 0x5B: VRSQE. -/
def decodeOp5B (w : BitVec 32) : Option Instr :=
  if bitsAre w.toNat 0 1 0 then some (.vrsqe (fieldOf w 22 3) (fieldOf w 15 7) (fieldOf w 8 7) (fieldOf w 1 7))
  else none

/-- The rows at OP 0x5C: FDIV_F32, FDIV_F64, FSQRT_F32, FSQRT_F64, FRCP_F32, FRCP_F64, FEXP2_F32, FLOG2_F32, FSIN_F32, FCOS_F32. -/
def decodeOp5C (w : BitVec 32) : Option Instr :=
  if bitsAre w.toNat 0 4 0 then some (.fdivF32 (fieldOf w 22 3) (fieldOf w 15 7) (fieldOf w 8 7) (fieldOf w 4 4))
  else if bitsAre w.toNat 0 4 1 then some (.fdivF64 (fieldOf w 22 3) (fieldOf w 15 7) (fieldOf w 8 7) (fieldOf w 4 4))
  else if bitsAre w.toNat 0 4 2 then some (.fsqrtF32 (fieldOf w 22 3) (fieldOf w 15 7) (fieldOf w 8 7) (fieldOf w 4 4))
  else if bitsAre w.toNat 0 4 3 then some (.fsqrtF64 (fieldOf w 22 3) (fieldOf w 15 7) (fieldOf w 8 7) (fieldOf w 4 4))
  else if bitsAre w.toNat 0 4 4 then some (.frcpF32 (fieldOf w 22 3) (fieldOf w 15 7) (fieldOf w 8 7) (fieldOf w 4 4))
  else if bitsAre w.toNat 0 4 5 then some (.frcpF64 (fieldOf w 22 3) (fieldOf w 15 7) (fieldOf w 8 7) (fieldOf w 4 4))
  else if bitsAre w.toNat 0 4 6 then some (.fexp2F32 (fieldOf w 22 3) (fieldOf w 15 7) (fieldOf w 8 7) (fieldOf w 4 4))
  else if bitsAre w.toNat 0 4 7 then some (.flog2F32 (fieldOf w 22 3) (fieldOf w 15 7) (fieldOf w 8 7) (fieldOf w 4 4))
  else if bitsAre w.toNat 0 4 8 then some (.fsinF32 (fieldOf w 22 3) (fieldOf w 15 7) (fieldOf w 8 7) (fieldOf w 4 4))
  else if bitsAre w.toNat 0 4 9 then some (.fcosF32 (fieldOf w 22 3) (fieldOf w 15 7) (fieldOf w 8 7) (fieldOf w 4 4))
  else none

/-- The rows at OP 0x5D: FRND_F32, FRND_F64, FCLASS_F32, FCLASS_F64, FJOIN, FSPLIT_ROW, FSPLIT_COL. -/
def decodeOp5D (w : BitVec 32) : Option Instr :=
  if bitsAre w.toNat 0 8 0 then some (.frndF32 (fieldOf w 22 3) (fieldOf w 15 7) (fieldOf w 8 7))
  else if bitsAre w.toNat 0 8 2 then some (.frndF64 (fieldOf w 22 3) (fieldOf w 15 7) (fieldOf w 8 7))
  else if bitsAre w.toNat 0 8 4 then some (.fclassF32 (fieldOf w 22 3) (fieldOf w 15 7) (fieldOf w 8 7))
  else if bitsAre w.toNat 0 8 6 then some (.fclassF64 (fieldOf w 22 3) (fieldOf w 15 7) (fieldOf w 8 7))
  else if bitsAre w.toNat 0 8 8 then some (.fjoin (fieldOf w 22 3) (fieldOf w 15 7) (fieldOf w 8 7))
  else if bitsAre w.toNat 5 3 1 && bitsAre w.toNat 0 1 0 then some (.fsplitRow (fieldOf w 22 3) (fieldOf w 15 7) (fieldOf w 8 7) (fieldOf w 1 4))
  else if bitsAre w.toNat 5 3 1 && bitsAre w.toNat 0 1 1 then some (.fsplitCol (fieldOf w 22 3) (fieldOf w 15 7) (fieldOf w 8 7) (fieldOf w 1 4))
  else none

/-- The rows at OP 0x5E: FCVT. -/
def decodeOp5E (w : BitVec 32) : Option Instr :=
  some (.fcvt (fieldOf w 22 3) (fieldOf w 15 7) (fieldOf w 8 7) (fieldOf w 5 3) (fieldOf w 2 3) (fieldOf w 1 1) (fieldOf w 0 1))

/-- The rows at OP 0x60: MMA. -/
def decodeOp60 (w : BitVec 32) : Option Instr :=
  some (.mma (fieldOf w 22 3) (fieldOf w 18 4) (fieldOf w 15 3) (fieldOf w 8 7) (fieldOf w 4 4) (fieldOf w 0 4))

/-- The rows at OP 0x61: MMAJ. -/
def decodeOp61 (w : BitVec 32) : Option Instr :=
  if bitsAre w.toNat 18 4 0 && bitsAre w.toNat 4 4 0 then some (.mmaj (fieldOf w 22 3) (fieldOf w 15 3) (fieldOf w 8 7) (fieldOf w 0 4))
  else none

/-- The rows at OP 0x62: MWAIT. -/
def decodeOp62 (w : BitVec 32) : Option Instr :=
  if bitsAre w.toNat 0 22 0 then some (.mwait (fieldOf w 22 3))
  else none

/-- The rows at OP 0x63: MACC. -/
def decodeOp63 (w : BitVec 32) : Option Instr :=
  if bitsAre w.toNat 18 4 0 && bitsAre w.toNat 14 1 0 then some (.macc (fieldOf w 22 3) (fieldOf w 15 3) (fieldOf w 11 3) (fieldOf w 8 3) (fieldOf w 4 4) (fieldOf w 0 4))
  else none

/-- The rows at OP 0x64: MZERO. -/
def decodeOp64 (w : BitVec 32) : Option Instr :=
  if bitsAre w.toNat 18 4 0 && bitsAre w.toNat 8 7 0 && bitsAre w.toNat 0 4 0 then some (.mzero (fieldOf w 22 3) (fieldOf w 15 3) (fieldOf w 4 4))
  else none

/-- The rows at OP 0x65: MLD. -/
def decodeOp65 (w : BitVec 32) : Option Instr :=
  if bitsAre w.toNat 18 4 0 then some (.mld (fieldOf w 22 3) (fieldOf w 15 3) (fieldOf w 8 7) (fieldOf w 4 4) (fieldOf w 0 4))
  else none

/-- The rows at OP 0x66: MDRAIN. -/
def decodeOp66 (w : BitVec 32) : Option Instr :=
  if bitsAre w.toNat 18 4 0 && bitsAre w.toNat 4 4 0 then some (.mdrain (fieldOf w 22 3) (fieldOf w 15 3) (fieldOf w 8 7) (fieldOf w 1 3) (fieldOf w 0 1))
  else none

/-- The rows at OP 0x67: MQUANT. -/
def decodeOp67 (w : BitVec 32) : Option Instr :=
  if bitsAre w.toNat 19 3 0 && bitsAre w.toNat 11 4 0 then some (.mquant (fieldOf w 22 3) (fieldOf w 15 4) (fieldOf w 8 3) (fieldOf w 4 4) (fieldOf w 0 4))
  else none

/-- The rows at OP 0x68: PBIND. -/
def decodeOp68 (w : BitVec 32) : Option Instr :=
  if bitsAre w.toNat 0 4 0 then some (.pbind (fieldOf w 22 3) (fieldOf w 15 7) (fieldOf w 8 7) (fieldOf w 4 4))
  else none

/-- The rows at OP 0x69: PSTALE, PSTAT. -/
def decodeOp69 (w : BitVec 32) : Option Instr :=
  if bitsAre w.toNat 0 4 0 then some (.pstale (fieldOf w 22 3) (fieldOf w 15 7) (fieldOf w 8 7) (fieldOf w 4 4))
  else if bitsAre w.toNat 0 4 1 then some (.pstat (fieldOf w 22 3) (fieldOf w 15 7) (fieldOf w 8 7) (fieldOf w 4 4))
  else none

/-- The rows at OP 0x6A: PSETTLE, PSETTLE_ASYNC. -/
def decodeOp6A (w : BitVec 32) : Option Instr :=
  if bitsAre w.toNat 15 7 0 && bitsAre w.toNat 3 1 0 then some (.psettle (fieldOf w 22 3) (fieldOf w 8 7) (fieldOf w 4 4) (fieldOf w 0 3))
  else if bitsAre w.toNat 3 1 1 then some (.psettleAsync (fieldOf w 22 3) (fieldOf w 15 7) (fieldOf w 8 7) (fieldOf w 4 4) (fieldOf w 0 3))
  else none

/-- The rows at OP 0x6B: PUNBIND, PREFRESH. -/
def decodeOp6B (w : BitVec 32) : Option Instr :=
  if bitsAre w.toNat 15 7 0 && bitsAre w.toNat 3 1 0 then some (.punbind (fieldOf w 22 3) (fieldOf w 8 7) (fieldOf w 4 4) (fieldOf w 0 3))
  else if bitsAre w.toNat 3 1 1 then some (.prefresh (fieldOf w 22 3) (fieldOf w 15 7) (fieldOf w 8 7) (fieldOf w 4 4) (fieldOf w 0 3))
  else none

/-- The rows at OP 0x6C: SKADD. -/
def decodeOp6C (w : BitVec 32) : Option Instr :=
  if bitsAre w.toNat 0 8 0 then some (.skadd (fieldOf w 22 3) (fieldOf w 15 7) (fieldOf w 8 7))
  else none

/-- The rows at OP 0x6D: SKQRY. -/
def decodeOp6D (w : BitVec 32) : Option Instr :=
  if bitsAre w.toNat 0 4 0 then some (.skqry (fieldOf w 22 3) (fieldOf w 15 7) (fieldOf w 8 7) (fieldOf w 4 4))
  else none

/-- The rows at OP 0x6E: SKINIT, SKSCALE, SKSTAT. -/
def decodeOp6E (w : BitVec 32) : Option Instr :=
  if bitsAre w.toNat 15 7 0 && bitsAre w.toNat 0 8 0 then some (.skinit (fieldOf w 22 3) (fieldOf w 8 7))
  else if bitsAre w.toNat 0 8 1 then some (.skscale (fieldOf w 22 3) (fieldOf w 15 7) (fieldOf w 8 7))
  else if bitsAre w.toNat 0 4 2 then some (.skstat (fieldOf w 22 3) (fieldOf w 15 7) (fieldOf w 8 7) (fieldOf w 4 4))
  else none

/-- The rows at OP 0x6F: SKMERGE. -/
def decodeOp6F (w : BitVec 32) : Option Instr :=
  if bitsAre w.toNat 1 7 0 then some (.skmerge (fieldOf w 22 3) (fieldOf w 15 7) (fieldOf w 8 7) (fieldOf w 0 1))
  else none

/-- The rows at OP 0x70: RTAG. -/
def decodeOp70 (w : BitVec 32) : Option Instr :=
  if bitsAre w.toNat 8 7 0 && bitsAre w.toNat 1 2 0 then some (.rtag (fieldOf w 22 3) (fieldOf w 15 7) (fieldOf w 3 5) (fieldOf w 0 1))
  else none

/-- The rows at OP 0x71: RUNTAG. -/
def decodeOp71 (w : BitVec 32) : Option Instr :=
  if bitsAre w.toNat 1 14 0 then some (.runtag (fieldOf w 22 3) (fieldOf w 15 7) (fieldOf w 0 1))
  else none

/-- The rows at OP 0x72: TRAP, BKPT. -/
def decodeOp72 (w : BitVec 32) : Option Instr :=
  if bitsAre w.toNat 8 14 0 && bitsAre w.toNat 0 1 0 then some (.trap (fieldOf w 22 3) (fieldOf w 1 7))
  else if bitsAre w.toNat 8 14 0 && bitsAre w.toNat 0 1 1 then some (.bkpt (fieldOf w 22 3) (fieldOf w 1 7))
  else none

/-- The rows at OP 0x73: HRD. -/
def decodeOp73 (w : BitVec 32) : Option Instr :=
  if bitsAre w.toNat 1 3 0 then some (.hrd (fieldOf w 22 3) (fieldOf w 15 7) (fieldOf w 8 7) (fieldOf w 4 4) (fieldOf w 0 1))
  else none

/-- The rows at OP 0x74: HWR. -/
def decodeOp74 (w : BitVec 32) : Option Instr :=
  if bitsAre w.toNat 1 7 0 then some (.hwr (fieldOf w 22 3) (fieldOf w 15 7) (fieldOf w 8 7) (fieldOf w 0 1))
  else none

/-- The rows at OP 0x75: ERET_C, ERET_X. -/
def decodeOp75 (w : BitVec 32) : Option Instr :=
  if bitsAre w.toNat 15 7 0 && bitsAre w.toNat 0 8 0 then some (.eretC (fieldOf w 22 3) (fieldOf w 8 7))
  else if bitsAre w.toNat 0 22 1 then some (.eretX (fieldOf w 22 3))
  else none

/-- The rows at OP 0x76: TLBINV, TLBINV_CTX. -/
def decodeOp76 (w : BitVec 32) : Option Instr :=
  if bitsAre w.toNat 15 7 0 && bitsAre w.toNat 0 8 0 then some (.tlbinv (fieldOf w 22 3) (fieldOf w 8 7))
  else if bitsAre w.toNat 0 22 1 then some (.tlbinvCtx (fieldOf w 22 3))
  else none

/-- The rows at OP 0x77: EBUD_RD, EBUD_SET, STOPR. -/
def decodeOp77 (w : BitVec 32) : Option Instr :=
  if bitsAre w.toNat 8 7 0 && bitsAre w.toNat 0 4 0 then some (.ebudRd (fieldOf w 22 3) (fieldOf w 15 7) (fieldOf w 4 4))
  else if bitsAre w.toNat 15 7 0 && bitsAre w.toNat 0 8 1 then some (.ebudSet (fieldOf w 22 3) (fieldOf w 8 7))
  else if bitsAre w.toNat 0 4 2 then some (.stopr (fieldOf w 22 3) (fieldOf w 15 7) (fieldOf w 8 7) (fieldOf w 4 4))
  else none

/-- The rows at OP 0x7C: HIMM. -/
def decodeOp7C (w : BitVec 32) : Option Instr :=
  some (.himm (fieldOf w 24 1) (fieldOf w 0 24))

/-- The rows at OP 0x7D: HOFF. -/
def decodeOp7D (w : BitVec 32) : Option Instr :=
  if bitsAre w.toNat 20 5 0 then some (.hoff (fieldOf w 0 20))
  else none

/-- The rows at OP 0x7E: HIVL. -/
def decodeOp7E (w : BitVec 32) : Option Instr :=
  if bitsAre w.toNat 16 9 0 then some (.hivl (fieldOf w 0 16))
  else none

/-- The rows at OP 0x7F: HGRD, HSEM, HRND, HSAT, HDET. -/
def decodeOp7F (w : BitVec 32) : Option Instr :=
  if bitsAre w.toNat 6 19 0 then some (.hgrd (fieldOf w 5 1) (fieldOf w 4 1) (fieldOf w 0 4))
  else if bitsAre w.toNat 3 22 262144 then some (.hsem (fieldOf w 2 1) (fieldOf w 0 2))
  else if bitsAre w.toNat 3 22 524288 then some (.hrnd (fieldOf w 0 3))
  else if bitsAre w.toNat 18 7 24 then some (.hsat (fieldOf w 2 16) (fieldOf w 1 1) (fieldOf w 0 1))
  else if bitsAre w.toNat 0 25 8388608 then some (.hdet)
  else none

/-- OP 0x00 to 0x0F (R40). -/
def decodeFrom00 (op : Nat) (w : BitVec 32) : Option Instr :=
  if op = 0x00 then decodeOp00 w
  else if op = 0x01 then decodeOp01 w
  else if op = 0x02 then decodeOp02 w
  else if op = 0x03 then decodeOp03 w
  else if op = 0x04 then decodeOp04 w
  else if op = 0x05 then decodeOp05 w
  else if op = 0x06 then decodeOp06 w
  else if op = 0x07 then decodeOp07 w
  else if op = 0x08 then decodeOp08 w
  else if op = 0x09 then decodeOp09 w
  else if op = 0x0A then decodeOp0A w
  else if op = 0x0B then decodeOp0B w
  else if op = 0x0C then decodeOp0C w
  else if op = 0x0D then decodeOp0D w
  else if op = 0x0E then decodeOp0E w
  else if op = 0x0F then decodeOp0F w
  else none

/-- OP 0x10 to 0x1F (R40). -/
def decodeFrom10 (op : Nat) (w : BitVec 32) : Option Instr :=
  if op = 0x10 then decodeOp10 w
  else if op = 0x11 then decodeOp11 w
  else if op = 0x12 then decodeOp12 w
  else if op = 0x13 then decodeOp13 w
  else if op = 0x14 then decodeOp14 w
  else if op = 0x15 then decodeOp15 w
  else if op = 0x16 then decodeOp16 w
  else if op = 0x17 then decodeOp17 w
  else if op = 0x18 then decodeOp18 w
  else if op = 0x19 then decodeOp19 w
  else if op = 0x1A then decodeOp1A w
  else if op = 0x1B then decodeOp1B w
  else if op = 0x1C then decodeOp1C w
  else if op = 0x1D then decodeOp1D w
  else none

/-- OP 0x20 to 0x2F (R40). -/
def decodeFrom20 (op : Nat) (w : BitVec 32) : Option Instr :=
  if op = 0x20 then decodeOp20 w
  else if op = 0x21 then decodeOp21 w
  else if op = 0x22 then decodeOp22 w
  else if op = 0x23 then decodeOp23 w
  else if op = 0x24 then decodeOp24 w
  else if op = 0x25 then decodeOp25 w
  else if op = 0x26 then decodeOp26 w
  else if op = 0x27 then decodeOp27 w
  else if op = 0x28 then decodeOp28 w
  else if op = 0x29 then decodeOp29 w
  else if op = 0x2A then decodeOp2A w
  else if op = 0x2B then decodeOp2B w
  else if op = 0x2C then decodeOp2C w
  else if op = 0x2D then decodeOp2D w
  else none

/-- OP 0x30 to 0x3F (R40). -/
def decodeFrom30 (op : Nat) (w : BitVec 32) : Option Instr :=
  if op = 0x30 then decodeOp30 w
  else if op = 0x31 then decodeOp31 w
  else if op = 0x32 then decodeOp32 w
  else if op = 0x33 then decodeOp33 w
  else if op = 0x34 then decodeOp34 w
  else if op = 0x35 then decodeOp35 w
  else if op = 0x36 then decodeOp36 w
  else if op = 0x38 then decodeOp38 w
  else if op = 0x39 then decodeOp39 w
  else if op = 0x3A then decodeOp3A w
  else if op = 0x3B then decodeOp3B w
  else if op = 0x3C then decodeOp3C w
  else if op = 0x3D then decodeOp3D w
  else if op = 0x3E then decodeOp3E w
  else if op = 0x3F then decodeOp3F w
  else none

/-- OP 0x40 to 0x4F (R40). -/
def decodeFrom40 (op : Nat) (w : BitVec 32) : Option Instr :=
  if op = 0x40 then decodeOp40 w
  else if op = 0x41 then decodeOp41 w
  else if op = 0x42 then decodeOp42 w
  else if op = 0x43 then decodeOp43 w
  else if op = 0x44 then decodeOp44 w
  else if op = 0x45 then decodeOp45 w
  else if op = 0x46 then decodeOp46 w
  else if op = 0x47 then decodeOp47 w
  else if op = 0x48 then decodeOp48 w
  else if op = 0x49 then decodeOp49 w
  else if op = 0x4A then decodeOp4A w
  else if op = 0x4B then decodeOp4B w
  else if op = 0x4C then decodeOp4C w
  else if op = 0x4D then decodeOp4D w
  else if op = 0x4E then decodeOp4E w
  else if op = 0x4F then decodeOp4F w
  else none

/-- OP 0x50 to 0x5F (R40). -/
def decodeFrom50 (op : Nat) (w : BitVec 32) : Option Instr :=
  if op = 0x50 then decodeOp50 w
  else if op = 0x51 then decodeOp51 w
  else if op = 0x52 then decodeOp52 w
  else if op = 0x53 then decodeOp53 w
  else if op = 0x54 then decodeOp54 w
  else if op = 0x55 then decodeOp55 w
  else if op = 0x56 then decodeOp56 w
  else if op = 0x57 then decodeOp57 w
  else if op = 0x58 then decodeOp58 w
  else if op = 0x59 then decodeOp59 w
  else if op = 0x5A then decodeOp5A w
  else if op = 0x5B then decodeOp5B w
  else if op = 0x5C then decodeOp5C w
  else if op = 0x5D then decodeOp5D w
  else if op = 0x5E then decodeOp5E w
  else none

/-- OP 0x60 to 0x6F (R40). -/
def decodeFrom60 (op : Nat) (w : BitVec 32) : Option Instr :=
  if op = 0x60 then decodeOp60 w
  else if op = 0x61 then decodeOp61 w
  else if op = 0x62 then decodeOp62 w
  else if op = 0x63 then decodeOp63 w
  else if op = 0x64 then decodeOp64 w
  else if op = 0x65 then decodeOp65 w
  else if op = 0x66 then decodeOp66 w
  else if op = 0x67 then decodeOp67 w
  else if op = 0x68 then decodeOp68 w
  else if op = 0x69 then decodeOp69 w
  else if op = 0x6A then decodeOp6A w
  else if op = 0x6B then decodeOp6B w
  else if op = 0x6C then decodeOp6C w
  else if op = 0x6D then decodeOp6D w
  else if op = 0x6E then decodeOp6E w
  else if op = 0x6F then decodeOp6F w
  else none

/-- OP 0x70 to 0x7F (R40). -/
def decodeFrom70 (op : Nat) (w : BitVec 32) : Option Instr :=
  if op = 0x70 then decodeOp70 w
  else if op = 0x71 then decodeOp71 w
  else if op = 0x72 then decodeOp72 w
  else if op = 0x73 then decodeOp73 w
  else if op = 0x74 then decodeOp74 w
  else if op = 0x75 then decodeOp75 w
  else if op = 0x76 then decodeOp76 w
  else if op = 0x77 then decodeOp77 w
  else if op = 0x7C then decodeOp7C w
  else if op = 0x7D then decodeOp7D w
  else if op = 0x7E then decodeOp7E w
  else if op = 0x7F then decodeOp7F w
  else none

/-- The row of the opcode map at an OP (R40). -/
def decodeAt (op : Nat) (w : BitVec 32) : Option Instr :=
  if op < 0x10 then decodeFrom00 op w
  else if op < 0x20 then decodeFrom10 op w
  else if op < 0x30 then decodeFrom20 op w
  else if op < 0x40 then decodeFrom30 op w
  else if op < 0x50 then decodeFrom40 op w
  else if op < 0x60 then decodeFrom50 op w
  else if op < 0x70 then decodeFrom60 op w
  else decodeFrom70 op w

/-- The row of the opcode map that a word falls under (R40). -/
def decodeRow (w : BitVec 32) : Option Instr := decodeAt (w.toNat / 2 ^ 25) w

/-- The instruction that a word encodes, whatever its fields hold. A word of OP 0x7C to 0x7F that names no row is a hint with a
reserved payload, which faults at its consumer; any other such word is reserved. -/
def decode (w : BitVec 32) : Except DecodeError Instr :=
  match decodeRow w with
  | some i => .ok i
  | none => if 0x7C ≤ w.toNat / 2 ^ 25 then .error .reservedHint else .error .reserved

/-- Decoding with the checks of R30 on the fields: what a word may be when it issues. -/
def decodeWf (w : BitVec 32) : Except DecodeError Instr :=
  match decode w with
  | .ok i => if i.wf then .ok i else .error .illFormed
  | .error e => .error e

/-- The little-endian word that four bytes hold, the first at the lowest address (R29). -/
def wordOfBytes : List (BitVec 8) → BitVec 32
  | b0 :: b1 :: b2 :: b3 :: _ => BitVec.ofNat 32 (b0.toNat + 2 ^ 8 * b1.toNat + 2 ^ 16 * b2.toNat + 2 ^ 24 * b3.toNat)
  | _ => 0

/-- The four bytes of a word as it stands in memory (R29). -/
def bytesOfWord (w : BitVec 32) : List (BitVec 8) :=
  [BitVec.ofNat 8 w.toNat, BitVec.ofNat 8 (w.toNat / 2 ^ 8), BitVec.ofNat 8 (w.toNat / 2 ^ 16), BitVec.ofNat 8 (w.toNat / 2 ^ 24)]

/-- Decoding of bytes in memory order: the first word and what is left, or the reason it is refused. -/
def decodeBytes (bs : List (BitVec 8)) : Except DecodeError (Instr × List (BitVec 8)) :=
  if bs.length < 4 then .error .reserved
  else match decodeWf (wordOfBytes bs) with
    | .ok i => .ok (i, bs.drop 4)
    | .error e => .error e

/-- What the decoder reads from a row of the opcode table whose bits are `w` (every word has 32 bits). -/
def decodeTableWord (nbits w : Nat) : Option Instr :=
  if nbits ≤ 32 then (decodeRow (wordOfBytes (bytesOfWord (BitVec.ofNat 32 w)))) else none

/-- The bits of a word: the fixed bits and each field at its place. -/
def packWord (base : Nat) : List (Nat × Nat) → Nat
  | [] => base
  | (v, lo) :: rest => packWord (base + v * 2 ^ lo) rest

/-- The word of an instruction, written from the encoding tables; a step without an encoding has none. -/
def encode : Instr → Option (BitVec 32)
  | .iaddR g d a b x => some (BitVec.ofNat 32 (packWord 0x0 [(g.toNat, 22), (d.toNat, 15), (a.toNat, 8), (b.toNat, 1), (x.toNat, 0)]))
  | .iaddI g d a i => some (BitVec.ofNat 32 (packWord 0x2000000 [(g.toNat, 22), (d.toNat, 15), (a.toNat, 8), (i.toNat, 0)]))
  | .isub g d a b x => some (BitVec.ofNat 32 (packWord 0x4000000 [(g.toNat, 22), (d.toNat, 15), (a.toNat, 8), (b.toNat, 1), (x.toNat, 0)]))
  | .iadd64 g d a b x => some (BitVec.ofNat 32 (packWord 0x6000000 [(g.toNat, 22), (d.toNat, 15), (a.toNat, 8), (b.toNat, 1), (x.toNat, 0)]))
  | .imulR g d a b x => some (BitVec.ofNat 32 (packWord 0x8000000 [(g.toNat, 22), (d.toNat, 15), (a.toNat, 8), (b.toNat, 1), (x.toNat, 0)]))
  | .imulI g d a i => some (BitVec.ofNat 32 (packWord 0xA000000 [(g.toNat, 22), (d.toNat, 15), (a.toNat, 8), (i.toNat, 0)]))
  | .imulh g d a b s => some (BitVec.ofNat 32 (packWord 0xC000000 [(g.toNat, 22), (d.toNat, 15), (a.toNat, 8), (b.toNat, 1), (s.toNat, 0)]))
  | .imad g d a b x => some (BitVec.ofNat 32 (packWord 0xE000000 [(g.toNat, 22), (d.toNat, 15), (a.toNat, 8), (b.toNat, 1), (x.toNat, 0)]))
  | .imadw g d a b s => some (BitVec.ofNat 32 (packWord 0x10000000 [(g.toNat, 22), (d.toNat, 15), (a.toNat, 8), (b.toNat, 1), (s.toNat, 0)]))
  | .imin g d a b s => some (BitVec.ofNat 32 (packWord 0x12000000 [(g.toNat, 22), (d.toNat, 15), (a.toNat, 8), (b.toNat, 1), (s.toNat, 0)]))
  | .imax g d a b s => some (BitVec.ofNat 32 (packWord 0x14000000 [(g.toNat, 22), (d.toNat, 15), (a.toNat, 8), (b.toNat, 1), (s.toNat, 0)]))
  | .iabs g d a => some (BitVec.ofNat 32 (packWord 0x16000000 [(g.toNat, 22), (d.toNat, 15), (a.toNat, 8)]))
  | .ineg g d a => some (BitVec.ofNat 32 (packWord 0x16000002 [(g.toNat, 22), (d.toNat, 15), (a.toNat, 8)]))
  | .notW g d a => some (BitVec.ofNat 32 (packWord 0x16000004 [(g.toNat, 22), (d.toNat, 15), (a.toNat, 8)]))
  | .popc g d a => some (BitVec.ofNat 32 (packWord 0x16000006 [(g.toNat, 22), (d.toNat, 15), (a.toNat, 8)]))
  | .clz g d a => some (BitVec.ofNat 32 (packWord 0x16000008 [(g.toNat, 22), (d.toNat, 15), (a.toNat, 8)]))
  | .brev g d a => some (BitVec.ofNat 32 (packWord 0x1600000A [(g.toNat, 22), (d.toNat, 15), (a.toNat, 8)]))
  | .mov g d a => some (BitVec.ofNat 32 (packWord 0x1600000C [(g.toNat, 22), (d.toNat, 15), (a.toNat, 8)]))
  | .shlR g d a b x => some (BitVec.ofNat 32 (packWord 0x18000000 [(g.toNat, 22), (d.toNat, 15), (a.toNat, 8), (b.toNat, 1), (x.toNat, 0)]))
  | .shlI g d a n => some (BitVec.ofNat 32 (packWord 0x1A000000 [(g.toNat, 22), (d.toNat, 15), (a.toNat, 8), (n.toNat, 0)]))
  | .shrR g d a b s => some (BitVec.ofNat 32 (packWord 0x1C000000 [(g.toNat, 22), (d.toNat, 15), (a.toNat, 8), (b.toNat, 1), (s.toNat, 0)]))
  | .shrNI g d a n => some (BitVec.ofNat 32 (packWord 0x1E000000 [(g.toNat, 22), (d.toNat, 15), (a.toNat, 8), (n.toNat, 0)]))
  | .shrSI g d a n => some (BitVec.ofNat 32 (packWord 0x20000000 [(g.toNat, 22), (d.toNat, 15), (a.toNat, 8), (n.toNat, 0)]))
  | .rot g d a b x => some (BitVec.ofNat 32 (packWord 0x22000000 [(g.toNat, 22), (d.toNat, 15), (a.toNat, 8), (b.toNat, 1), (x.toNat, 0)]))
  | .andR g d a b x => some (BitVec.ofNat 32 (packWord 0x24000000 [(g.toNat, 22), (d.toNat, 15), (a.toNat, 8), (b.toNat, 1), (x.toNat, 0)]))
  | .andI g d a i => some (BitVec.ofNat 32 (packWord 0x26000000 [(g.toNat, 22), (d.toNat, 15), (a.toNat, 8), (i.toNat, 0)]))
  | .orR g d a b x => some (BitVec.ofNat 32 (packWord 0x28000000 [(g.toNat, 22), (d.toNat, 15), (a.toNat, 8), (b.toNat, 1), (x.toNat, 0)]))
  | .orI g d a i => some (BitVec.ofNat 32 (packWord 0x2A000000 [(g.toNat, 22), (d.toNat, 15), (a.toNat, 8), (i.toNat, 0)]))
  | .xorR g d a b x => some (BitVec.ofNat 32 (packWord 0x2C000000 [(g.toNat, 22), (d.toNat, 15), (a.toNat, 8), (b.toNat, 1), (x.toNat, 0)]))
  | .xorI g d a i => some (BitVec.ofNat 32 (packWord 0x2E000000 [(g.toNat, 22), (d.toNat, 15), (a.toNat, 8), (i.toNat, 0)]))
  | .lut3 g d a b => some (BitVec.ofNat 32 (packWord 0x30000000 [(g.toNat, 22), (d.toNat, 15), (a.toNat, 8), (b.toNat, 1)]))
  | .bfx g d a b s => some (BitVec.ofNat 32 (packWord 0x32000000 [(g.toNat, 22), (d.toNat, 15), (a.toNat, 8), (b.toNat, 1), (s.toNat, 0)]))
  | .bfi g d a b x => some (BitVec.ofNat 32 (packWord 0x34000000 [(g.toNat, 22), (d.toNat, 15), (a.toNat, 8), (b.toNat, 1), (x.toNat, 0)]))
  | .leaX1X2 g d a b k => some (BitVec.ofNat 32 (packWord 0x36000000 [(g.toNat, 22), (d.toNat, 15), (a.toNat, 8), (b.toNat, 1), (k.toNat, 0)]))
  | .leaX4X8 g d a b k => some (BitVec.ofNat 32 (packWord 0x38000000 [(g.toNat, 22), (d.toNat, 15), (a.toNat, 8), (b.toNat, 1), (k.toNat, 0)]))
  | .movi g d i => some (BitVec.ofNat 32 (packWord 0x3A000000 [(g.toNat, 22), (d.toNat, 15), (i.toNat, 0)]))
  | .icmpR g p c a b => some (BitVec.ofNat 32 (packWord 0x40000000 [(g.toNat, 22), (p.toNat, 18), (c.toNat, 14), (a.toNat, 7), (b.toNat, 0)]))
  | .icmpI g p c a i => some (BitVec.ofNat 32 (packWord 0x42000000 [(g.toNat, 22), (p.toNat, 18), (c.toNat, 14), (a.toNat, 7), (i.toNat, 0)]))
  | .fcmpF32 g p c a b => some (BitVec.ofNat 32 (packWord 0x44000000 [(g.toNat, 22), (p.toNat, 18), (c.toNat, 14), (a.toNat, 7), (b.toNat, 0)]))
  | .fcmpF64 g p c a b => some (BitVec.ofNat 32 (packWord 0x46000000 [(g.toNat, 22), (p.toNat, 18), (c.toNat, 14), (a.toNat, 7), (b.toNat, 0)]))
  | .fcmpF16 g p c a b => some (BitVec.ofNat 32 (packWord 0x48000000 [(g.toNat, 22), (p.toNat, 18), (c.toNat, 14), (a.toNat, 7), (b.toNat, 0)]))
  | .plut g p a b c => some (BitVec.ofNat 32 (packWord 0x4A000000 [(g.toNat, 22), (p.toNat, 18), (a.toNat, 14), (b.toNat, 10), (c.toNat, 6)]))
  | .p2v g d => some (BitVec.ofNat 32 (packWord 0x4C000000 [(g.toNat, 22), (d.toNat, 15)]))
  | .v2p g a => some (BitVec.ofNat 32 (packWord 0x4C000002 [(g.toNat, 22), (a.toNat, 8)]))
  | .ptestNr g p => some (BitVec.ofNat 32 (packWord 0x4C000004 [(g.toNat, 22), (p.toNat, 15)]))
  | .sel g d a p n => some (BitVec.ofNat 32 (packWord 0x4E000000 [(g.toNat, 22), (d.toNat, 15), (a.toNat, 8), (p.toNat, 4), (n.toNat, 0)]))
  | .bra g o => some (BitVec.ofNat 32 (packWord 0x50000000 [(g.toNat, 22), (o.toNat, 0)]))
  | .brd g t j => some (BitVec.ofNat 32 (packWord 0x52000000 [(g.toNat, 22), (t.toNat, 11), (j.toNat, 0)]))
  | .call g o => some (BitVec.ofNat 32 (packWord 0x54000000 [(g.toNat, 22), (o.toNat, 0)]))
  | .calli g a => some (BitVec.ofNat 32 (packWord 0x56000000 [(g.toNat, 22), (a.toNat, 8)]))
  | .nop g => some (BitVec.ofNat 32 (packWord 0x58000000 [(g.toNat, 22)]))
  | .ret g => some (BitVec.ofNat 32 (packWord 0x58000002 [(g.toNat, 22)]))
  | .exit g => some (BitVec.ofNat 32 (packWord 0x58000004 [(g.toNat, 22)]))
  | .kill g p n => some (BitVec.ofNat 32 (packWord 0x5A000000 [(g.toNat, 22), (p.toNat, 4), (n.toNat, 0)]))
  | .lperm g p c a b => some (BitVec.ofNat 32 (packWord 0x60000000 [(g.toNat, 22), (p.toNat, 18), (c.toNat, 14), (a.toNat, 7), (b.toNat, 0)]))
  | .qxchH g d a => some (BitVec.ofNat 32 (packWord 0x62000000 [(g.toNat, 22), (d.toNat, 15), (a.toNat, 8)]))
  | .qxchV g d a => some (BitVec.ofNat 32 (packWord 0x62000002 [(g.toNat, 22), (d.toNat, 15), (a.toNat, 8)]))
  | .qxchD g d a => some (BitVec.ofNat 32 (packWord 0x62000004 [(g.toNat, 22), (d.toNat, 15), (a.toNat, 8)]))
  | .qbcast g d a q => some (BitVec.ofNat 32 (packWord 0x62000008 [(g.toNat, 22), (d.toNat, 15), (a.toNat, 8), (q.toNat, 1)]))
  | .pollAnd g p s => some (BitVec.ofNat 32 (packWord 0x64000000 [(g.toNat, 22), (p.toNat, 18), (s.toNat, 7)]))
  | .pollOr g p s => some (BitVec.ofNat 32 (packWord 0x64004000 [(g.toNat, 22), (p.toNat, 18), (s.toNat, 7)]))
  | .pollSame g p s => some (BitVec.ofNat 32 (packWord 0x64008000 [(g.toNat, 22), (p.toNat, 18), (s.toNat, 7)]))
  | .pick g p => some (BitVec.ofNat 32 (packWord 0x6400C000 [(g.toNat, 22), (p.toNat, 18)]))
  | .pmask g d p n => some (BitVec.ofNat 32 (packWord 0x66000000 [(g.toNat, 22), (d.toNat, 15), (p.toNat, 4), (n.toNat, 0)]))
  | .xred g d a m => some (BitVec.ofNat 32 (packWord 0x68000000 [(g.toNat, 22), (d.toNat, 15), (a.toNat, 8), (m.toNat, 1)]))
  | .smov g d m => some (BitVec.ofNat 32 (packWord 0x6A000000 [(g.toNat, 22), (d.toNat, 15), (m.toNat, 1)]))
  | .ssetFflags g a => some (BitVec.ofNat 32 (packWord 0x6C000030 [(g.toNat, 22), (a.toNat, 8)]))
  | .ssetFrnd g a => some (BitVec.ofNat 32 (packWord 0x6C000034 [(g.toNat, 22), (a.toNat, 8)]))
  | .ssetFtrap g a => some (BitVec.ofNat 32 (packWord 0x6C000036 [(g.toNat, 22), (a.toNat, 8)]))
  | .ldGB8 g t a l s o => some (BitVec.ofNat 32 (packWord 0x70000000 [(g.toNat, 22), (t.toNat, 15), (a.toNat, 8), (l.toNat, 4), (s.toNat, 2), (o.toNat, 0)]))
  | .ldGB16 g t a l s o => some (BitVec.ofNat 32 (packWord 0x72000000 [(g.toNat, 22), (t.toNat, 15), (a.toNat, 8), (l.toNat, 4), (s.toNat, 2), (o.toNat, 0)]))
  | .ldGB32 g t a l s o => some (BitVec.ofNat 32 (packWord 0x74000000 [(g.toNat, 22), (t.toNat, 15), (a.toNat, 8), (l.toNat, 4), (s.toNat, 2), (o.toNat, 0)]))
  | .ldGB64 g t a l s o => some (BitVec.ofNat 32 (packWord 0x76000000 [(g.toNat, 22), (t.toNat, 15), (a.toNat, 8), (l.toNat, 4), (s.toNat, 2), (o.toNat, 0)]))
  | .ldGB128 g t a l s o => some (BitVec.ofNat 32 (packWord 0x78000000 [(g.toNat, 22), (t.toNat, 15), (a.toNat, 8), (l.toNat, 4), (s.toNat, 2), (o.toNat, 0)]))
  | .stGB8 g t a s o => some (BitVec.ofNat 32 (packWord 0x7A000000 [(g.toNat, 22), (t.toNat, 15), (a.toNat, 8), (s.toNat, 2), (o.toNat, 0)]))
  | .stGB16 g t a s o => some (BitVec.ofNat 32 (packWord 0x7C000000 [(g.toNat, 22), (t.toNat, 15), (a.toNat, 8), (s.toNat, 2), (o.toNat, 0)]))
  | .stGB32 g t a s o => some (BitVec.ofNat 32 (packWord 0x7E000000 [(g.toNat, 22), (t.toNat, 15), (a.toNat, 8), (s.toNat, 2), (o.toNat, 0)]))
  | .stGB64 g t a s o => some (BitVec.ofNat 32 (packWord 0x80000000 [(g.toNat, 22), (t.toNat, 15), (a.toNat, 8), (s.toNat, 2), (o.toNat, 0)]))
  | .stGB128 g t a s o => some (BitVec.ofNat 32 (packWord 0x82000000 [(g.toNat, 22), (t.toNat, 15), (a.toNat, 8), (s.toNat, 2), (o.toNat, 0)]))
  | .ldL g t a l w => some (BitVec.ofNat 32 (packWord 0x84000000 [(g.toNat, 22), (t.toNat, 15), (a.toNat, 8), (l.toNat, 4), (w.toNat, 2)]))
  | .stL g t a w => some (BitVec.ofNat 32 (packWord 0x86000000 [(g.toNat, 22), (t.toNat, 15), (a.toNat, 8), (w.toNat, 2)]))
  | .ldc g t a l w => some (BitVec.ofNat 32 (packWord 0x88000000 [(g.toNat, 22), (t.toNat, 15), (a.toNat, 8), (l.toNat, 4), (w.toNat, 2)]))
  | .ldt g t a l w => some (BitVec.ofNat 32 (packWord 0x8A000000 [(g.toNat, 22), (t.toNat, 15), (a.toNat, 8), (l.toNat, 4), (w.toNat, 2)]))
  | .stT g t a w => some (BitVec.ofNat 32 (packWord 0x8C000000 [(g.toNat, 22), (t.toNat, 15), (a.toNat, 8), (w.toNat, 2)]))
  | .atomAdd g t a l s o => some (BitVec.ofNat 32 (packWord 0x8E000000 [(g.toNat, 22), (t.toNat, 15), (a.toNat, 9), (l.toNat, 4), (s.toNat, 2), (o.toNat, 0)]))
  | .atomAnd g t a l s o => some (BitVec.ofNat 32 (packWord 0x8E000100 [(g.toNat, 22), (t.toNat, 15), (a.toNat, 9), (l.toNat, 4), (s.toNat, 2), (o.toNat, 0)]))
  | .atomOr g t a l s o => some (BitVec.ofNat 32 (packWord 0x8E200000 [(g.toNat, 22), (t.toNat, 15), (a.toNat, 9), (l.toNat, 4), (s.toNat, 2), (o.toNat, 0)]))
  | .atomXor g t a l s o => some (BitVec.ofNat 32 (packWord 0x8E200100 [(g.toNat, 22), (t.toNat, 15), (a.toNat, 9), (l.toNat, 4), (s.toNat, 2), (o.toNat, 0)]))
  | .atomMinN g t a l s o => some (BitVec.ofNat 32 (packWord 0x90000000 [(g.toNat, 22), (t.toNat, 15), (a.toNat, 9), (l.toNat, 4), (s.toNat, 2), (o.toNat, 0)]))
  | .atomMinS g t a l s o => some (BitVec.ofNat 32 (packWord 0x90000100 [(g.toNat, 22), (t.toNat, 15), (a.toNat, 9), (l.toNat, 4), (s.toNat, 2), (o.toNat, 0)]))
  | .atomMaxN g t a l s o => some (BitVec.ofNat 32 (packWord 0x90200000 [(g.toNat, 22), (t.toNat, 15), (a.toNat, 9), (l.toNat, 4), (s.toNat, 2), (o.toNat, 0)]))
  | .atomMaxS g t a l s o => some (BitVec.ofNat 32 (packWord 0x90200100 [(g.toNat, 22), (t.toNat, 15), (a.toNat, 9), (l.toNat, 4), (s.toNat, 2), (o.toNat, 0)]))
  | .atomExch g t a l s o => some (BitVec.ofNat 32 (packWord 0x92000000 [(g.toNat, 22), (t.toNat, 15), (a.toNat, 9), (l.toNat, 4), (s.toNat, 2), (o.toNat, 0)]))
  | .atomCas g t a l s o => some (BitVec.ofNat 32 (packWord 0x92000100 [(g.toNat, 22), (t.toNat, 15), (a.toNat, 9), (l.toNat, 4), (s.toNat, 2), (o.toNat, 0)]))
  | .atomInc g t a l s o => some (BitVec.ofNat 32 (packWord 0x92200000 [(g.toNat, 22), (t.toNat, 15), (a.toNat, 9), (l.toNat, 4), (s.toNat, 2), (o.toNat, 0)]))
  | .atomFaddF32 g t a l s o => some (BitVec.ofNat 32 (packWord 0x92200100 [(g.toNat, 22), (t.toNat, 15), (a.toNat, 9), (l.toNat, 4), (s.toNat, 2), (o.toNat, 0)]))
  | .redAdd g t a s o => some (BitVec.ofNat 32 (packWord 0x94000000 [(g.toNat, 22), (t.toNat, 15), (a.toNat, 9), (s.toNat, 2), (o.toNat, 0)]))
  | .redAnd g t a s o => some (BitVec.ofNat 32 (packWord 0x94000100 [(g.toNat, 22), (t.toNat, 15), (a.toNat, 9), (s.toNat, 2), (o.toNat, 0)]))
  | .redOr g t a s o => some (BitVec.ofNat 32 (packWord 0x94200000 [(g.toNat, 22), (t.toNat, 15), (a.toNat, 9), (s.toNat, 2), (o.toNat, 0)]))
  | .redXor g t a s o => some (BitVec.ofNat 32 (packWord 0x94200100 [(g.toNat, 22), (t.toNat, 15), (a.toNat, 9), (s.toNat, 2), (o.toNat, 0)]))
  | .redMinN g t a s o => some (BitVec.ofNat 32 (packWord 0x96000000 [(g.toNat, 22), (t.toNat, 15), (a.toNat, 9), (s.toNat, 2), (o.toNat, 0)]))
  | .redMinS g t a s o => some (BitVec.ofNat 32 (packWord 0x96000100 [(g.toNat, 22), (t.toNat, 15), (a.toNat, 9), (s.toNat, 2), (o.toNat, 0)]))
  | .redMaxN g t a s o => some (BitVec.ofNat 32 (packWord 0x96200000 [(g.toNat, 22), (t.toNat, 15), (a.toNat, 9), (s.toNat, 2), (o.toNat, 0)]))
  | .redMaxS g t a s o => some (BitVec.ofNat 32 (packWord 0x96200100 [(g.toNat, 22), (t.toNat, 15), (a.toNat, 9), (s.toNat, 2), (o.toNat, 0)]))
  | .redInc g t a s o => some (BitVec.ofNat 32 (packWord 0x98000000 [(g.toNat, 22), (t.toNat, 15), (a.toNat, 9), (s.toNat, 2), (o.toNat, 0)]))
  | .redFaddF32 g t a s o => some (BitVec.ofNat 32 (packWord 0x98000100 [(g.toNat, 22), (t.toNat, 15), (a.toNat, 9), (s.toNat, 2), (o.toNat, 0)]))
  | .fence g o s => some (BitVec.ofNat 32 (packWord 0x9A000000 [(g.toNat, 22), (o.toNat, 18), (s.toNat, 15)]))
  | .pfence g m s n => some (BitVec.ofNat 32 (packWord 0x9A000001 [(g.toNat, 22), (m.toNat, 18), (s.toNat, 15), (n.toNat, 8)]))
  | .bar g k => some (BitVec.ofNat 32 (packWord 0x9A000002 [(g.toNat, 22), (k.toNat, 15)]))
  | .arrive g a => some (BitVec.ofNat 32 (packWord 0x9A000003 [(g.toNat, 22), (a.toNat, 8)]))
  | .waitc g d a => some (BitVec.ofNat 32 (packWord 0x9A000004 [(g.toNat, 22), (d.toNat, 15), (a.toNat, 8)]))
  | .launch g d a l => some (BitVec.ofNat 32 (packWord 0x9A000005 [(g.toNat, 22), (d.toNat, 15), (a.toNat, 8), (l.toNat, 4)]))
  | .cp g d a => some (BitVec.ofNat 32 (packWord 0x9C000000 [(g.toNat, 22), (d.toNat, 15), (a.toNat, 8)]))
  | .cpclose g d l => some (BitVec.ofNat 32 (packWord 0x9C000001 [(g.toNat, 22), (d.toNat, 15), (l.toNat, 4)]))
  | .cpwait g d => some (BitVec.ofNat 32 (packWord 0x9C000002 [(g.toNat, 22), (d.toNat, 15)]))
  | .preq g d a => some (BitVec.ofNat 32 (packWord 0x9C000003 [(g.toNat, 22), (d.toNat, 15), (a.toNat, 8)]))
  | .lock g d a l => some (BitVec.ofNat 32 (packWord 0x9C000004 [(g.toNat, 22), (d.toNat, 15), (a.toNat, 8), (l.toNat, 4)]))
  | .unlock g a => some (BitVec.ofNat 32 (packWord 0x9C000005 [(g.toNat, 22), (a.toNat, 8)]))
  | .stmap g a => some (BitVec.ofNat 32 (packWord 0x9C000006 [(g.toNat, 22), (a.toNat, 8)]))
  | .stunmap g a => some (BitVec.ofNat 32 (packWord 0x9C000007 [(g.toNat, 22), (a.toNat, 8)]))
  | .stflush g a => some (BitVec.ofNat 32 (packWord 0x9C000008 [(g.toNat, 22), (a.toNat, 8)]))
  | .lsaddF32 g d a => some (BitVec.ofNat 32 (packWord 0x9E000000 [(g.toNat, 22), (d.toNat, 15), (a.toNat, 8)]))
  | .lsaddI32 g d a => some (BitVec.ofNat 32 (packWord 0x9E000001 [(g.toNat, 22), (d.toNat, 15), (a.toNat, 8)]))
  | .fadd g d a b x => some (BitVec.ofNat 32 (packWord 0xA0000000 [(g.toNat, 22), (d.toNat, 15), (a.toNat, 8), (b.toNat, 1), (x.toNat, 0)]))
  | .fsub g d a b x => some (BitVec.ofNat 32 (packWord 0xA2000000 [(g.toNat, 22), (d.toNat, 15), (a.toNat, 8), (b.toNat, 1), (x.toNat, 0)]))
  | .fmul g d a b x => some (BitVec.ofNat 32 (packWord 0xA4000000 [(g.toNat, 22), (d.toNat, 15), (a.toNat, 8), (b.toNat, 1), (x.toNat, 0)]))
  | .ffma g d a b x => some (BitVec.ofNat 32 (packWord 0xA6000000 [(g.toNat, 22), (d.toNat, 15), (a.toNat, 8), (b.toNat, 1), (x.toNat, 0)]))
  | .faddF64 g d a b => some (BitVec.ofNat 32 (packWord 0xA8000000 [(g.toNat, 22), (d.toNat, 15), (a.toNat, 8), (b.toNat, 1)]))
  | .fsubF64 g d a b => some (BitVec.ofNat 32 (packWord 0xA8000001 [(g.toNat, 22), (d.toNat, 15), (a.toNat, 8), (b.toNat, 1)]))
  | .fmulF64 g d a b => some (BitVec.ofNat 32 (packWord 0xAA000000 [(g.toNat, 22), (d.toNat, 15), (a.toNat, 8), (b.toNat, 1)]))
  | .ffmaF64 g d a b => some (BitVec.ofNat 32 (packWord 0xAA000001 [(g.toNat, 22), (d.toNat, 15), (a.toNat, 8), (b.toNat, 1)]))
  | .fminF32 g d a b => some (BitVec.ofNat 32 (packWord 0xAC000000 [(g.toNat, 22), (d.toNat, 15), (a.toNat, 8), (b.toNat, 1)]))
  | .fmaxF32 g d a b => some (BitVec.ofNat 32 (packWord 0xAC000001 [(g.toNat, 22), (d.toNat, 15), (a.toNat, 8), (b.toNat, 1)]))
  | .fminnumF32 g d a b => some (BitVec.ofNat 32 (packWord 0xAE000000 [(g.toNat, 22), (d.toNat, 15), (a.toNat, 8), (b.toNat, 1)]))
  | .fmaxnumF32 g d a b => some (BitVec.ofNat 32 (packWord 0xAE000001 [(g.toNat, 22), (d.toNat, 15), (a.toNat, 8), (b.toNat, 1)]))
  | .fminF64 g d a b => some (BitVec.ofNat 32 (packWord 0xB0000000 [(g.toNat, 22), (d.toNat, 15), (a.toNat, 8), (b.toNat, 1)]))
  | .fmaxF64 g d a b => some (BitVec.ofNat 32 (packWord 0xB0000001 [(g.toNat, 22), (d.toNat, 15), (a.toNat, 8), (b.toNat, 1)]))
  | .fminnumF64 g d a b => some (BitVec.ofNat 32 (packWord 0xB2000000 [(g.toNat, 22), (d.toNat, 15), (a.toNat, 8), (b.toNat, 1)]))
  | .fmaxnumF64 g d a b => some (BitVec.ofNat 32 (packWord 0xB2000001 [(g.toNat, 22), (d.toNat, 15), (a.toNat, 8), (b.toNat, 1)]))
  | .fscale g d a b x => some (BitVec.ofNat 32 (packWord 0xB4000000 [(g.toNat, 22), (d.toNat, 15), (a.toNat, 8), (b.toNat, 1), (x.toNat, 0)]))
  | .vrsqe g d a b => some (BitVec.ofNat 32 (packWord 0xB6000000 [(g.toNat, 22), (d.toNat, 15), (a.toNat, 8), (b.toNat, 1)]))
  | .fdivF32 g d a l => some (BitVec.ofNat 32 (packWord 0xB8000000 [(g.toNat, 22), (d.toNat, 15), (a.toNat, 8), (l.toNat, 4)]))
  | .fdivF64 g d a l => some (BitVec.ofNat 32 (packWord 0xB8000001 [(g.toNat, 22), (d.toNat, 15), (a.toNat, 8), (l.toNat, 4)]))
  | .fsqrtF32 g d a l => some (BitVec.ofNat 32 (packWord 0xB8000002 [(g.toNat, 22), (d.toNat, 15), (a.toNat, 8), (l.toNat, 4)]))
  | .fsqrtF64 g d a l => some (BitVec.ofNat 32 (packWord 0xB8000003 [(g.toNat, 22), (d.toNat, 15), (a.toNat, 8), (l.toNat, 4)]))
  | .frcpF32 g d a l => some (BitVec.ofNat 32 (packWord 0xB8000004 [(g.toNat, 22), (d.toNat, 15), (a.toNat, 8), (l.toNat, 4)]))
  | .frcpF64 g d a l => some (BitVec.ofNat 32 (packWord 0xB8000005 [(g.toNat, 22), (d.toNat, 15), (a.toNat, 8), (l.toNat, 4)]))
  | .fexp2F32 g d a l => some (BitVec.ofNat 32 (packWord 0xB8000006 [(g.toNat, 22), (d.toNat, 15), (a.toNat, 8), (l.toNat, 4)]))
  | .flog2F32 g d a l => some (BitVec.ofNat 32 (packWord 0xB8000007 [(g.toNat, 22), (d.toNat, 15), (a.toNat, 8), (l.toNat, 4)]))
  | .fsinF32 g d a l => some (BitVec.ofNat 32 (packWord 0xB8000008 [(g.toNat, 22), (d.toNat, 15), (a.toNat, 8), (l.toNat, 4)]))
  | .fcosF32 g d a l => some (BitVec.ofNat 32 (packWord 0xB8000009 [(g.toNat, 22), (d.toNat, 15), (a.toNat, 8), (l.toNat, 4)]))
  | .frndF32 g d a => some (BitVec.ofNat 32 (packWord 0xBA000000 [(g.toNat, 22), (d.toNat, 15), (a.toNat, 8)]))
  | .frndF64 g d a => some (BitVec.ofNat 32 (packWord 0xBA000002 [(g.toNat, 22), (d.toNat, 15), (a.toNat, 8)]))
  | .fclassF32 g d a => some (BitVec.ofNat 32 (packWord 0xBA000004 [(g.toNat, 22), (d.toNat, 15), (a.toNat, 8)]))
  | .fclassF64 g d a => some (BitVec.ofNat 32 (packWord 0xBA000006 [(g.toNat, 22), (d.toNat, 15), (a.toNat, 8)]))
  | .fjoin g d a => some (BitVec.ofNat 32 (packWord 0xBA000008 [(g.toNat, 22), (d.toNat, 15), (a.toNat, 8)]))
  | .fsplitRow g d a s => some (BitVec.ofNat 32 (packWord 0xBA000020 [(g.toNat, 22), (d.toNat, 15), (a.toNat, 8), (s.toNat, 1)]))
  | .fsplitCol g d a s => some (BitVec.ofNat 32 (packWord 0xBA000021 [(g.toNat, 22), (d.toNat, 15), (a.toNat, 8), (s.toNat, 1)]))
  | .fcvt g d a s t n x => some (BitVec.ofNat 32 (packWord 0xBC000000 [(g.toNat, 22), (d.toNat, 15), (a.toNat, 8), (s.toNat, 5), (t.toNat, 2), (n.toNat, 1), (x.toNat, 0)]))
  | .mma g t c a l f => some (BitVec.ofNat 32 (packWord 0xC0000000 [(g.toNat, 22), (t.toNat, 18), (c.toNat, 15), (a.toNat, 8), (l.toNat, 4), (f.toNat, 0)]))
  | .mmaj g b a f => some (BitVec.ofNat 32 (packWord 0xC2000000 [(g.toNat, 22), (b.toNat, 15), (a.toNat, 8), (f.toNat, 0)]))
  | .mwait g => some (BitVec.ofNat 32 (packWord 0xC4000000 [(g.toNat, 22)]))
  | .macc g d p q l f => some (BitVec.ofNat 32 (packWord 0xC6000000 [(g.toNat, 22), (d.toNat, 15), (p.toNat, 11), (q.toNat, 8), (l.toNat, 4), (f.toNat, 0)]))
  | .mzero g d l => some (BitVec.ofNat 32 (packWord 0xC8000000 [(g.toNat, 22), (d.toNat, 15), (l.toNat, 4)]))
  | .mld g d a l f => some (BitVec.ofNat 32 (packWord 0xCA000000 [(g.toNat, 22), (d.toNat, 15), (a.toNat, 8), (l.toNat, 4), (f.toNat, 0)]))
  | .mdrain g d a f q => some (BitVec.ofNat 32 (packWord 0xCC000000 [(g.toNat, 22), (d.toNat, 15), (a.toNat, 8), (f.toNat, 1), (q.toNat, 0)]))
  | .mquant g d a l f => some (BitVec.ofNat 32 (packWord 0xCE000000 [(g.toNat, 22), (d.toNat, 15), (a.toNat, 8), (l.toNat, 4), (f.toNat, 0)]))
  | .pbind g d a l => some (BitVec.ofNat 32 (packWord 0xD0000000 [(g.toNat, 22), (d.toNat, 15), (a.toNat, 8), (l.toNat, 4)]))
  | .pstale g d a l => some (BitVec.ofNat 32 (packWord 0xD2000000 [(g.toNat, 22), (d.toNat, 15), (a.toNat, 8), (l.toNat, 4)]))
  | .pstat g d a l => some (BitVec.ofNat 32 (packWord 0xD2000001 [(g.toNat, 22), (d.toNat, 15), (a.toNat, 8), (l.toNat, 4)]))
  | .psettle g a l s => some (BitVec.ofNat 32 (packWord 0xD4000000 [(g.toNat, 22), (a.toNat, 8), (l.toNat, 4), (s.toNat, 0)]))
  | .psettleAsync g d a l s => some (BitVec.ofNat 32 (packWord 0xD4000008 [(g.toNat, 22), (d.toNat, 15), (a.toNat, 8), (l.toNat, 4), (s.toNat, 0)]))
  | .punbind g a l s => some (BitVec.ofNat 32 (packWord 0xD6000000 [(g.toNat, 22), (a.toNat, 8), (l.toNat, 4), (s.toNat, 0)]))
  | .prefresh g d a l s => some (BitVec.ofNat 32 (packWord 0xD6000008 [(g.toNat, 22), (d.toNat, 15), (a.toNat, 8), (l.toNat, 4), (s.toNat, 0)]))
  | .skadd g d a => some (BitVec.ofNat 32 (packWord 0xD8000000 [(g.toNat, 22), (d.toNat, 15), (a.toNat, 8)]))
  | .skqry g d a l => some (BitVec.ofNat 32 (packWord 0xDA000000 [(g.toNat, 22), (d.toNat, 15), (a.toNat, 8), (l.toNat, 4)]))
  | .skinit g a => some (BitVec.ofNat 32 (packWord 0xDC000000 [(g.toNat, 22), (a.toNat, 8)]))
  | .skscale g d a => some (BitVec.ofNat 32 (packWord 0xDC000001 [(g.toNat, 22), (d.toNat, 15), (a.toNat, 8)]))
  | .skstat g d a l => some (BitVec.ofNat 32 (packWord 0xDC000002 [(g.toNat, 22), (d.toNat, 15), (a.toNat, 8), (l.toNat, 4)]))
  | .skmerge g d a s => some (BitVec.ofNat 32 (packWord 0xDE000000 [(g.toNat, 22), (d.toNat, 15), (a.toNat, 8), (s.toNat, 0)]))
  | .rtag g d k p => some (BitVec.ofNat 32 (packWord 0xE0000000 [(g.toNat, 22), (d.toNat, 15), (k.toNat, 3), (p.toNat, 0)]))
  | .runtag g d p => some (BitVec.ofNat 32 (packWord 0xE2000000 [(g.toNat, 22), (d.toNat, 15), (p.toNat, 0)]))
  | .trap g n => some (BitVec.ofNat 32 (packWord 0xE4000000 [(g.toNat, 22), (n.toNat, 1)]))
  | .bkpt g n => some (BitVec.ofNat 32 (packWord 0xE4000001 [(g.toNat, 22), (n.toNat, 1)]))
  | .hrd g d a l w => some (BitVec.ofNat 32 (packWord 0xE6000000 [(g.toNat, 22), (d.toNat, 15), (a.toNat, 8), (l.toNat, 4), (w.toNat, 0)]))
  | .hwr g d a w => some (BitVec.ofNat 32 (packWord 0xE8000000 [(g.toNat, 22), (d.toNat, 15), (a.toNat, 8), (w.toNat, 0)]))
  | .eretC g a => some (BitVec.ofNat 32 (packWord 0xEA000000 [(g.toNat, 22), (a.toNat, 8)]))
  | .eretX g => some (BitVec.ofNat 32 (packWord 0xEA000001 [(g.toNat, 22)]))
  | .tlbinv g a => some (BitVec.ofNat 32 (packWord 0xEC000000 [(g.toNat, 22), (a.toNat, 8)]))
  | .tlbinvCtx g => some (BitVec.ofNat 32 (packWord 0xEC000001 [(g.toNat, 22)]))
  | .ebudRd g d l => some (BitVec.ofNat 32 (packWord 0xEE000000 [(g.toNat, 22), (d.toNat, 15), (l.toNat, 4)]))
  | .ebudSet g a => some (BitVec.ofNat 32 (packWord 0xEE000001 [(g.toNat, 22), (a.toNat, 8)]))
  | .stopr g d a l => some (BitVec.ofNat 32 (packWord 0xEE000002 [(g.toNat, 22), (d.toNat, 15), (a.toNat, 8), (l.toNat, 4)]))
  | .himm p i => some (BitVec.ofNat 32 (packWord 0xF8000000 [(p.toNat, 24), (i.toNat, 0)]))
  | .hoff o => some (BitVec.ofNat 32 (packWord 0xFA000000 [(o.toNat, 0)]))
  | .hivl m => some (BitVec.ofNat 32 (packWord 0xFC000000 [(m.toNat, 0)]))
  | .hgrd v n p => some (BitVec.ofNat 32 (packWord 0xFE000000 [(v.toNat, 5), (n.toNat, 4), (p.toNat, 0)]))
  | .hsem s c => some (BitVec.ofNat 32 (packWord 0xFE200000 [(s.toNat, 2), (c.toNat, 0)]))
  | .hrnd m => some (BitVec.ofNat 32 (packWord 0xFE400000 [(m.toNat, 0)]))
  | .hsat s r t => some (BitVec.ofNat 32 (packWord 0xFE600000 [(s.toNat, 2), (r.toNat, 1), (t.toNat, 0)]))
  | .hdet => some (BitVec.ofNat 32 (packWord 0xFE800000 []))
  | .createContext _ _ => none
  | .destroyContext _ => none
  | .map _ _ _ _ _ => none
  | .exportFrame _ _ _ _ _ => none
  | .unmap _ _ => none
  | .withdrawExport _ _ => none
  | .loadImage _ _ _ => none
  | .start _ _ => none
  | .halt _ => none
  | .resume _ => none
  | .vacate _ _ => none
  | .readStopRecord _ _ => none
  | .attest _ _ => none
  | .setEnergyBudget _ _ => none
  | .queryIdentity _ => none
  | .queryPublicKey _ => none
  | .queryContext _ => none
  | .queryErrorCounts _ => none
  | .queryThermal _ => none
  | .reset _ => none
  | .thermalThrottle _ _ _ => none
  | .thermalTrip _ _ => none
  | .tripReset _ => none
  | .clockLowering _ _ => none
  | .energyCountUpdate _ _ _ => none
  | .linkRetry _ _ => none
  | .requestTimeout _ => none
  | .remoteRequestArrival _ => none
  | .remoteMergeArrival _ => none
  | .hostFWrite _ => none
  | .cacheWriteBack _ _ _ _ => none
  | .thermosBackgroundApply _ _ _ _ => none
  | .loadDataReturn _ _ => none
  | .pageMigrationComplete _ _ => none
  | .skmergeComplete _ _ _ => none
  | .hotnessNotification _ _ _ => none
  | .releaseComplete _ _ => none
  | .waitcSatisfied _ _ _ => none
  | .clusterPlacement _ _ _ => none
  | .waitingWorkgroupRestore _ _ => none
  | .clusterRestore _ _ _ _ => none
  | .recipeReplay _ _ _ => none
  | .atomResultReturn _ _ => none
  | .pbindComplete _ => none
  | .psettleComplete _ => none
  | .punbindComplete _ => none
  | .prefreshComplete _ => none
  | .thermosStatusReply _ => none
  | .fpLongOpComplete _ => none
  | .mmaComplete _ => none
  | .mldComplete _ => none
  | .mdrainWriteComplete _ => none
  | .mmajInstanceStart _ => none
  | .mmajComplete _ => none
  | .copyComplete _ _ => none
  | .pageRequestService _ => none
  | .sketchRequestPerformed _ _ => none
  | .hotnessDecay => none
  | .pfenceComplete _ => none
  | .tlbinvSweepComplete _ => none
  | .launchAdmissionReply _ => none
  | .launchCompletionSignal _ _ _ => none
  | .waitingWorkgroupSave _ => none
  | .groupVacateStop _ => none
  | .vacateReply _ => none
  | .fastFileChunkFill _ _ _ => none
  | .handlerGroupFormation _ => none
  | .originSlotResume _ _ => none
  | .unitStop _ _ => none
  | .lockStatusReturn _ => none
  | .maccMzeroMquantComplete _ => none
  | .remoteReadLineDrop _ _ => none
  | .uncorrectableError _ => none

/-- The steps that are words: they have an encoding. -/
def Instr.isWord (i : Instr) : Bool := (encode i).isSome

end Sys2Proof
end

