-- ==== Sys2Proof/Machine/State.lean ====
section
/-! DEFINITION. Everything the machine holds (INVENTORY.md, State), and the machine right after reset. -/

namespace Sys2Proof.Machine

/-- A memory: address and byte pairs, addresses strictly rising, no byte zero; an unlisted byte reads 0 (10, R175; 18, R343; log 2). -/
abbrev Mem := List Host.Cell

/-- The canonical form of a memory. -/
def Mem.wfFrom : Nat → Mem → Bool
  | _, [] => true
  | lo, (a, b) :: m => lo ≤ a && b != 0 && Mem.wfFrom (a + 1) m

/-- Addresses strictly rise and no listed byte is zero. -/
def Mem.wf (m : Mem) : Bool := Mem.wfFrom 0 m

/-- Bytes `off` to `off + size - 1` of a lane's register space (02, R21). -/
structure RegSpan where
  off : Nat
  size : Nat
  deriving DecidableEq, Repr

/-- A leaf translation: the page of `2^bits` bytes at `page` in context `ctx` lies at `frame` (10, Tables 10-4, 10-5). -/
structure Leaf where
  ctx : Nat
  page : Nat
  bits : Nat
  frame : Nat
  res : Bool
  w : Bool
  x : Bool
  trk : Bool
  hot : Bool
  deriving DecidableEq, Repr

/-- A 128-byte line of a private cache (10, R169, R170): its number, the bytes it holds, which are valid, which dirty, which of
the dirty bytes were written through an untracked mapping (04, R59), poison of the words as they were fetched, the dirty bytes that carry poison
themselves (10, R191, R193), the groups that dirtied it, and whether it stands first for eviction (10, R174). -/
structure Line where
  no : Nat
  bytes : Mem
  valid : BitVec 128
  dirty : BitVec 128
  untracked : BitVec 128
  poison : BitVec 4
  taint : BitVec 128
  by_ : List Nat
  first : Bool
  deriving DecidableEq, Repr

/-- One lane (02, R21, R26–R28; 10, R182; 13, R244). `poison` marks the register words that an engine wrote poisoned (15, R295). -/
structure Lane where
  regs : Mem
  poison : BitVec 256
  preds : BitVec 12
  fflags : BitVec 7
  nr : Bool
  rowExp : List (BitVec 16)
  lastPage : Option Leaf
  deriving DecidableEq, Repr

/-- A path: PC, lanes, join (06, R82), and the divergences it descends from, innermost first (07, R109). -/
structure Path where
  pc : DWord
  mask : BitVec 32
  join : Option DWord
  line : List (Nat × Bool)
  deriving DecidableEq, Repr

/-- A frame: join address, lanes arrived, outer join, and the line of descent of the merged path (06, R82, R83). -/
structure Frame where
  join : DWord
  arrived : BitVec 32
  outer : Option DWord
  line : List (Nat × Bool)
  deriving DecidableEq, Repr

/-- The hint run that a slot holds (03, R34, R35): one of each kind at most, how many words, where it began, and whether a fault
waits for its consumer. -/
structure Hints where
  himm : Option (Bool × BitVec 24)
  hoff : Option (BitVec 20)
  hivl : Option (BitVec 16)
  hgrd : Option (Bool × Bool × BitVec 4)
  hsem : Option (Bool × BitVec 2)
  hrnd : Option (BitVec 3)
  hsat : Option (Bool × Bool × BitVec 16)
  hdet : Bool
  count : Nat
  bad : Bool
  start : Option DWord
  deriving DecidableEq, Repr

/-- No hint is held. -/
def Hints.empty : Hints := ⟨.none, .none, .none, .none, .none, .none, .none, false, 0, false, .none⟩

/-- What an interrupted word delivered to all its lanes at its first execution (17, R313): the band scales or the e of FSPLIT. -/
structure Delivered where
  scales : List Int
  deriving DecidableEq, Repr

/-- A word whose lanes trapped (17, R307, R312): the word and its run, its active lanes, the trapped lanes with cause and code,
the flags it would have raised, the register bytes it would have written, the lanes served so far, and those of them that asked for
the word to be executed again or whose handler lane exited. -/
structure TrapWord where
  pc : DWord
  word : Word
  hints : Hints
  act : BitVec 32
  lanes : BitVec 32
  causes : List (Nat × Nat × Nat)
  flags : List (Nat × BitVec 7)
  dests : List (Nat × List RegSpan)
  served : BitVec 32
  redo : BitVec 32
  exits : BitVec 32
  delivered : Option Delivered
  joint : Option Nat
  deriving DecidableEq, Repr

/-- A word that is to be executed again in the lanes `lanes` (17, R312, R313). -/
structure Redo where
  pc : DWord
  act : BitVec 32
  lanes : BitVec 32
  delivered : Option Delivered
  deriving DecidableEq, Repr

/-- What a slot waits for (06, Table 6-4, R99). -/
inductive Wait where
  /-- A request that holds the slot until it completes (FENCE, PFENCE, TLBINV, CALLI pieces and the like). -/
  | request (id : Nat)
  /-- BAR: the instance's kind (cluster or workgroup) and number. -/
  | bar (cluster : Bool) (k : Nat)
  /-- WAITC: counter address, target, system scope, when the wait began, and when the counter was last asked for (18, R333). -/
  | counter (va : Nat) (target : Nat) (sys : Bool) (since asked : Nat)
  /-- CPWAIT: the batch number. -/
  | batch (n : Nat)
  /-- MWAIT. -/
  | mmaj
  /-- Trapped lanes are being served. -/
  | lanes (t : TrapWord)
  deriving DecidableEq, Repr

/-- A PC slot (06, R82–R87): its path, hint run, wait, the word it must execute again after a trap, and whether its next word has
issued already and only goes on, after remote lines were fetched for it or after it was saved. -/
structure Slot where
  path : Option Path
  hints : Hints
  wait : Option Wait
  redo : Option Redo
  again : Bool
  deriving DecidableEq, Repr

/-- A divergence-stack entry (06, Table 6-2). A path is parked with all that its slot held for it: an issued word that it waits for goes on waiting
(06, R83). -/
inductive Entry where
  | path (x : Slot)
  | frame (f : Frame)
  deriving DecidableEq, Repr

/-- A lookahead window (03, R37, R38): the request that opened it, the slot, the words left, the register bytes its word reads
and writes, whether it runs on to an MWAIT (R39), and whether its word has completed: the window then lasts for its words all the same.
No word that opens a window writes a predicate (03, Tables 3-6 to 3-13). -/
structure Window where
  id : Nat
  slotB : Bool
  left : Nat
  reads : List RegSpan
  writes : List RegSpan
  joint : Bool
  complete : Bool
  deriving DecidableEq, Repr

/-- A live recipe tag (17, R325): the register's byte offset, pair or single, the recipe, dropped or held; and the first attempt to fetch what a replay
of it reads from another device, while that is outstanding (18, R333). -/
structure Tag where
  off : Nat
  pair : Bool
  recipe : Nat
  dropped : Bool
  asked : Option Nat
  deriving DecidableEq, Repr

/-- The origin of a handler lane (17, R308, R309, R312). -/
structure Origin where
  gid : Nat
  slotB : Bool
  lane : Nat
  cause : Nat
  code : Nat
  deriving DecidableEq, Repr

/-- A fault or stop that raises the halt line: cause and origin (17, Tables 17-4, 17-6), faulting lane, address, detail. -/
structure Halt where
  cause : Nat
  origin : Nat
  lane : Nat
  addr : DWord
  detail : BitVec 32
  deriving DecidableEq, Repr

/-- What a path of a deterministic launch knows to lie behind it (07, R119, R130, R131): the accesses of a group in its intervals below `upto`, on paths
that no open divergence separates from `line`. `seen` is the line of descent of the path that learnt it, whose group's paths know it where no
divergence separates them from that one (R109). -/
structure Clock where
  gid : Nat
  upto : Nat
  line : List (Nat × Bool)
  seen : List (Nat × Bool)
  deriving DecidableEq, Repr

/-- A group (06, R79–R89; 02; 17). A handler group has its lanes' origins in `origins`. `since` orders the groups of a sub-core by when they became
resident (06, R88), and `refetch` says that a restored group has not issued yet (06, R106). `budget` is the register budget that the host wrote into its
image, where it is not its kernel's (17, R320). -/
structure Group where
  gid : Nat
  ctx : Nat
  launch : Nat
  clu : Nat
  wgc : Nat
  grp : Nat
  core : Nat
  sub : Nat
  slotNo : Nat
  resident : Bool
  lanesOn : BitVec 32
  helpers : BitVec 32
  exited : BitVec 32
  lanes : List Lane
  frnd : BitVec 3
  ftrap : BitVec 6
  a : Slot
  b : Slot
  jr : Option Frame
  stack : List Entry
  frames : Nat
  lastB : Bool
  keep : Option Bool
  windows : List Window
  marked : BitVec 16
  fast : BitVec 16
  count : Nat
  batch : Nat
  barsW : Nat
  barsC : Nat
  joints : Nat
  tags : List Tag
  interval : Nat
  clocks : List Clock
  origins : Option (List Origin)
  fault : Option Halt
  saveAt : Option Nat
  since : Nat
  refetch : Bool
  budget : Option Nat
  deriving DecidableEq, Repr

/-- An entry of a stash window: the line within the window, whether it is valid, its bytes, dirty mask, poison by 32-byte word, and the groups that wrote
it. One that is not valid holds dirty bytes that could not be written back, their page not resident (10, R178, Table 10-6). -/
structure StashEntry where
  no : Nat
  valid : Bool
  bytes : Mem
  dirty : BitVec 128
  poison : BitVec 4
  by_ : List Nat
  deriving DecidableEq, Repr

/-- A live stash window (10, R177, R178): number, global base, LS base, length, its entries. -/
structure Stash where
  win : Nat
  gbase : Nat
  lbase : Nat
  len : Nat
  entries : List StashEntry
  deriving DecidableEq, Repr

/-- A write to a Local Store by a group, which class T may not see yet (15, R290): the class it took (its mask bit, Table 7-2), what the bytes it
changed held, how far a PFENCE of the writer naming that class and T carries it (0 none, then group, workgroup, cluster), whether a barrier of the
writer has passed since, and the groups, with the scopes, that have fenced so in their turn (07, R123). -/
structure LateWrite where
  gid : Nat
  cls : Nat
  old : List Host.Cell
  fence : Nat
  passed : Bool
  seen : List (Nat × Nat)
  deriving DecidableEq, Repr

/-- A workgroup with its Local Store (06, R91; 10, R175, R177; `late` lists the writes to it in their order): `slots` are the group slots it takes on
its core, `gone` that it has left them, `moved` that a vacate moves it (06, R104). -/
structure Workgroup where
  wid : Nat
  ctx : Nat
  launch : Nat
  clu : Nat
  wgc : Nat
  core : Nat
  lsSize : Nat
  ls : Mem
  lsPoison : List Nat
  late : List LateWrite
  stashes : List Stash
  slots : List Nat
  resident : Bool
  ended : Bool
  freed : Bool
  gone : Bool
  moved : Bool
  saveAt : Option Nat
  deriving DecidableEq, Repr

/-- A barrier instance (11, R213, R214): kind, number, role, and the groups that arrived, in order, each with the clock. -/
structure Bar where
  ctx : Nat
  launch : Nat
  clu : Nat
  wgc : Nat
  cluster : Bool
  k : Nat
  role : Bool
  arrived : List (Nat × Nat)
  deriving DecidableEq, Repr

/-- Register bytes to be written in one lane. -/
structure LaneWrite where
  lane : Nat
  off : Nat
  bytes : List (BitVec 8)
  deriving DecidableEq, Repr

/-- An access to global memory by one lane: virtual and physical address, the bytes (stored, or as many zeros as are wanted),
and the leaf's TRK and HOT bits. -/
structure Access where
  lane : Nat
  va : Nat
  pa : Nat
  bytes : List (BitVec 8)
  trk : Bool
  hot : Bool
  deriving DecidableEq, Repr

/-- One lane's atomic operation on a location. -/
structure AtomAct where
  lane : Nat
  va : Nat
  pa : Nat
  trk : Bool
  hot : Bool
  op : AtomOp
  v : Word
  swap : Word
  helper : Bool
  deriving DecidableEq, Repr

/-- A scope (07, Table 7-1). -/
inductive Scope where
  | grp | wg | clu | dev | sys
  deriving DecidableEq, Repr

/-- What a release at a counter tells those that acquire from it (07, R119, R131), in its scope's instance (R114): the counter's home, the scope, the
group that released, with its place, and what it knew. -/
structure Published where
  pa : Nat
  scope : Scope
  ctx : Nat
  launch : Nat
  clu : Nat
  wgc : Nat
  gid : Nat
  clocks : List Clock
  deriving DecidableEq, Repr

/-- One lane's part of a load whose bytes come from another device; `held` are those that a cache held when the load issued, which it returns (07,
R110). -/
structure RemotePart where
  lane : Nat
  off : Nat
  pa : Nat
  size : Nat
  width : Nat
  held : List (Option (BitVec 8))
  deriving DecidableEq, Repr

/-- What follows a release once its pushes have reached their level (07, R117): the operation that carried it. -/
inductive After where
  /-- A fence, which also acquires when `acq`. -/
  | fence (acq : Bool)
  /-- A releasing store, which also acquires when `acq` (`.strong`); `policy` is the HSEM policy. -/
  | store (acq : Bool) (policy : BitVec 2) (writes : List Access)
  /-- An atomic or RED with `.ar` or `.strong`; an ATOM delivers into register `dest`. -/
  | atom (dest : Option Nat) (acts : List AtomAct) (zeros : List Nat)
  /-- A relaxed atomic or RED of a location on another device of which dirty bytes are still held here: they go there first (07, R110). -/
  | atomAway (dest : Option Nat) (acts : List AtomAct) (zeros : List Nat)
  /-- A load that is also a release (`.strong`). -/
  | load (policy : BitVec 2) (writes : List LaneWrite) (reads : List Access) (dest width : Nat)
  /-- ARRIVE: the counter's virtual address. -/
  | arrive (va : Nat)
  /-- BAR: arrive at the instance. -/
  | bar (cluster : Bool) (k : Nat) (role : Bool)
  /-- LAUNCH: offer the descriptor at this physical address; destination offset and active lanes. -/
  | launch (va : Nat) (dest : Nat) (act : BitVec 32)
  deriving DecidableEq, Repr

/-- A copy of one lane (11, Table 11-3): kind, tile layout word (or none), length, rows, pitch, source and destination. -/
structure Copy where
  kind : Nat
  tile : Option (BitVec 32)
  len : Nat
  rows : Nat
  pitch : Nat
  src : DWord
  dst : DWord
  deriving DecidableEq, Repr

/-- A sketch as its descriptor was read (14, R252): counter base, rows, log2 of the columns, scale, seed; the descriptor's virtual and
physical address and the TRK bit of its page. -/
structure Sketch where
  base : Nat
  rows : Nat
  logCols : Nat
  scale : Int
  seed : DWord
  descVa : Nat
  descPa : Nat
  trk : Bool
  deriving DecidableEq, Repr

/-- A request to a sketch engine (14, R259–R267). -/
inductive SketchOp where
  | init
  | add (adds : List (Nat × DWord × Word))
  | query (dest : Nat) (keys : List (Nat × DWord))
  | scale (factor : Int)
  | stat (dest : Nat) (act : BitVec 32)
  deriving DecidableEq, Repr

/-- A row of bytes that the matrix engine is to write at a virtual address, each with its poison. -/
structure RowBytes where
  va : Nat
  bytes : List (BitVec 8 × Bool)
  deriving DecidableEq, Repr

/-- The work of a request that has issued and not completed. -/
inductive Job where
  /-- A load (LD, LDC, LDT, LD.l, HRD, STOPR, EBUD.rd, CPCLOSE): bytes to deliver, parts that come over the fabric, the parts that
  were read on the D path (to be read again after a halt, R320), and the scope at which it then acquires. -/
  | load (writes : List LaneWrite) (parts src : List RemotePart) (acq : Option Scope)
  /-- Remote lines fetched for a word that then goes on (stash fills, engine-free reads). -/
  | fetch (lines : List Nat)
  /-- A load in flight that is performed again after a halt (17, R320), and needs lines of another device first: what it would have written. -/
  | reload (writes : List LaneWrite) (lines : List Nat)
  /-- A long floating-point operation: bytes and flags (15, R275). -/
  | fpLong (writes : List LaneWrite) (flags : List (Nat × BitVec 7))
  /-- MMA (15, R285): register bytes, row exponents and flags; its class-T reads are done. -/
  | mma (writes : List LaneWrite) (exps : List (Nat × Nat × BitVec 16)) (flags : List (Nat × BitVec 7))
  /-- MACC, MZERO, MQUANT. -/
  | acc (writes : List LaneWrite) (exps : List (Nat × Nat × BitVec 16)) (flags : List (Nat × BitVec 7))
  /-- MLD: the descriptor's address, its base, pitch, M, N, the format, the accumulator's number, the active lanes and the lanes the word
  writes, and the rows read so far, each byte with its poison. -/
  | mld (desc base pitch rows cols fmt acc : Nat) (act lanes : BitVec 32) (got : List (List (BitVec 8 × Bool)))
  /-- MDRAIN: the descriptor's address, how many elements the tile has, the row bytes still to land at virtual addresses, and how many have landed. -/
  | mdrain (desc elems : Nat) (writes : List RowBytes) (landed : Nat)
  /-- ATOM: the old values have been read at their level, or come from another device. -/
  | atom (writes : List LaneWrite) (dest : Nat) (remote : List AtomAct) (acq : Option Scope)
  /-- RED at system scope on another device, until it is acknowledged; the scope at which it then acquires. -/
  | remoteRed (acts : List AtomAct) (acq : Option Scope)
  /-- Bytes sent to another device at once, from this address on, until they are acknowledged (18, R333). -/
  | remoteWrite (pa : Nat)
  /-- LOCK: the lanes with their physical lines, or none where the page is not resident or remote. -/
  | lock (dest : Nat) (wanted : List (Nat × Option Nat)) (helpers : BitVec 32)
  /-- A release to the level of a scope, and what it precedes. -/
  | release (scope : Scope) (after : After)
  /-- PFENCE: class mask and scope. -/
  | pfence (mask : BitVec 8) (scope : Scope)
  /-- TLBINV: one page of the context, or all of it. -/
  | tlbinv (page : Option Nat)
  /-- A copy, the batch that closed it (none while open), its workgroup, and how many of its bytes have landed. -/
  | copy (c : Copy) (batch : Option Nat) (wid done : Nat)
  /-- PREQ: the pages still to serve, the counter. -/
  | preq (pages : List Nat) (counter : Nat)
  /-- A migration asked for by a map command: leaf, old frame, new frame (10, R190). -/
  | migrate (va : Nat) (leaf : Leaf) (frame : Nat) (tag : BitVec 16) (node : BitVec 11)
  /-- The end of a migration (10, R190): accesses that arrive for the old frame of a page go on to its new one, until they are over. -/
  | forward (old size frame : Nat)
  /-- A sketch request (14), with the spans of counters, or of lanes of an add, that are done. -/
  | sketch (sk : Sketch) (op : SketchOp) (done : List (Nat × Nat))
  /-- SKMERGE: source, destination, the counter's virtual address, the spans of counters done, the source counters read, each with its poison, for a
  destination on another device, and whether the merge has gone there. -/
  | skmerge (src dst : Sketch) (counter : Option Nat) (done : List (Nat × Nat)) (got : List (Nat × Int × Bool)) (sent : Bool)
  /-- A merge that another device asked for and this one has accepted (R261): its destination, and the spans of counters done. -/
  | merging (dst : Sketch) (q : RemoteMerge) (done : List (Nat × Nat))
  /-- LAUNCH offered to admission: the 64 bytes, destination offset, active lanes. -/
  | launch (desc : List (BitVec 8)) (dest : Nat) (act : BitVec 32)
  /-- PBIND: the word to be written, destination register, active lanes, and the binding made, if it was. -/
  | pbind (word : Nat) (dest : Nat) (act : BitVec 32) (slot : Option Nat)
  /-- PSTALE (`stat` false) or PSTAT of a binding. -/
  | pstatus (stat : Bool) (slot : Nat) (dest : Nat) (act : BitVec 32)
  /-- PSETTLE: binding, the capture number it covers, scope, counter of the async form, and what its signal publishes there. -/
  | psettle (slot : Nat) (q : Nat) (scope : Scope) (counter : Option Nat) (told : List Published)
  /-- PUNBIND. -/
  | punbind (slot : Nat) (q : Nat) (scope : Scope)
  /-- PREFRESH with its selector. -/
  | prefresh (slot : Nat) (q : Nat) (scope : Scope) (sel : Word)
  /-- A joint matrix instance in progress (15, R288, R289). -/
  | mmaj (wid k : Nat)
  deriving DecidableEq, Repr

/-- A request outstanding: its number, its issuer (context, launch, group, slot, word address, word and run), the job, the time
of its first attempt on the fabric, if it has gone out there, the port that a retry took in place of its own (18, R332, R333), and its issuer's core × 128 +
group slot, as records give it once the group has ended (17, Table 17-8). -/
structure Request where
  id : Nat
  ctx : Nat
  launch : Nat
  gid : Nat
  slotB : Bool
  pc : DWord
  word : Word
  hints : Hints
  job : Job
  since : Option Nat
  port : Option Nat
  place : Nat
  deriving DecidableEq, Repr

/-- A member's part of a joint matrix instance (15, R288). -/
structure JointMember where
  gid : Nat
  slotB : Bool
  accBase : Nat
  act : BitVec 32
  desc : Nat
  flags : BitVec 4
  pc : DWord
  word : Word
  hints : Hints
  traps : BitVec 6
  deriving DecidableEq, Repr

/-- What one lane's row of a joint matrix result raises at the member's MWAIT: group, lane, flags, the cause of its trap, if it traps, and
its register bytes (15, R291). -/
structure JointRow where
  gid : Nat
  lane : Nat
  flags : BitVec 7
  cause : Option Nat
  dest : List RegSpan
  deriving DecidableEq, Repr

/-- A joint matrix instance (15, R288–R291) with its membership mask; the Local Store as it was when its last member issued, which of the writes to it
were ordered before that, and the descriptor as it was read then (R290); and what its rows raise. -/
structure Joint where
  wid : Nat
  k : Nat
  mask : BitVec 8
  members : List JointMember
  started : Bool
  complete : Bool
  ls : Mem
  settled : List Bool
  desc : List (BitVec 8)
  rows : List JointRow
  deriving DecidableEq, Repr

/-- A recipe (18, Table 18-9): number, target, pair, and its lines, each an HIMM word (0 for none) and a word. -/
structure Recipe where
  k : Nat
  target : Nat
  pair : Bool
  lines : List (Word × Word)
  deriving DecidableEq, Repr

/-- A kernel of a loaded image (18, Table 18-8). -/
structure Kernel where
  handle : Nat
  regs : Nat
  vwv : Nat
  vwt : Nat
  vwa : Nat
  det : Bool
  handler : Nat
  constBase : Nat
  clen : Nat
  calls : List Nat
  defaults : List (BitVec 8)
  recipes : List Recipe
  codeBase : Nat
  deriving DecidableEq, Repr

/-- The code of a loaded image, as ranges of base and size, and whether the image is privileged (18, R338; 08, R161). -/
structure Image where
  code : List (Nat × Nat)
  privileged : Bool
  deriving DecidableEq, Repr

/-- A cluster of a launch that has been placed: index, core cluster, ended, its cores released. -/
structure Placed where
  clu : Nat
  cc : Nat
  ended : Bool
  released : Bool
  deriving DecidableEq, Repr

/-- An accepted launch (11, Table 11-5; 06, R94–R98; 18, R341), with its kernel as the image gave it at launch (02, R22). Times in ns; `hTime`,
`sTime` and the disjoint spans of `wSpans` extend the promise; `began` is the time of its first placement,
`sent` that of the first attempt to read its dependence counter at another device, or to send its end there (18, R333). -/
structure Launch where
  no : Nat
  handle : Nat
  kernel : Kernel
  argPtr : Nat
  counter : Nat
  depCounter : Nat
  depTarget : Nat
  dep : Bool
  gx : Nat
  gy : Nat
  wgs : Nat
  groups : Nat
  lanes : Nat
  prio : Nat
  ls : Nat
  frnd : BitVec 3
  ftrap : BitVec 6
  bound : Nat
  energy : Nat
  deadline : Nat
  det : Bool
  root : Bool
  accepted : Nat
  began : Nat
  r : Option Nat
  promise : Nat
  hTime : Nat
  sTime : Nat
  wSpans : List (Nat × Nat)
  reserved : Nat
  used : Nat
  placed : List Placed
  ended : Bool
  signalled : Bool
  sent : Option Nat
  deriving DecidableEq, Repr

/-- A captured difference (04, R46): its number, matrix A or B, element row and column, old and new element bits, whether it is lost, and whether the
queue was full (R57); and whether an element has been corrected by it, so that its line has had it (R56). -/
structure Diff where
  no : Nat
  inB : Bool
  row : Nat
  col : Nat
  old : Nat
  new : Nat
  lost : Bool
  full : Bool
  begun : Bool
  deriving DecidableEq, Repr

/-- A line of C: row or column, and its number. -/
structure LineRef where
  col : Bool
  no : Nat
  deriving DecidableEq, Repr

/-- The fields of a binding descriptor (04, Tables 1-2, 4-1). -/
structure BindDesc where
  cBase : Nat
  aBase : Nat
  bBase : Nat
  m : Nat
  n : Nat
  k : Nat
  ldc : Nat
  lda : Nat
  ldb : Nat
  ta : Nat
  tb : Nat
  tc : Nat
  exact : Bool
  background : Bool
  refresh : Nat
  threshold : Word
  queue : Nat
  deriving DecidableEq, Repr

/-- A shadow row of an `.exact` binding (04, R54): row exponent, slots, and the non-finite mark of each element with the value it
holds in C's format. -/
structure Shadow where
  x : BitVec 16
  slots : List Int
  marks : List (Option Nat)
  deriving DecidableEq, Repr

/-- A standing product (04). The pages of A, B and C hold virtual page and physical base (R43); `aInit` and `bInit` are the operands
at number `applied`, and `diffs` holds the differences numbered above it; `points` are the elements' applied points, row by row, none below `applied` (R50), `rowQ` and `colQ` the
numbers at which lines were last refreshed (R55). -/
structure Binding where
  slot : Nat
  gen : Nat
  live : Bool
  ready : Bool
  capturing : Bool
  desc : BindDesc
  aPages : List (Nat × Nat)
  bPages : List (Nat × Nat)
  cPages : List (Nat × Nat)
  aInit : List Nat
  bInit : List Nat
  diffs : List Diff
  lastNo : Nat
  applied : Nat
  points : List Nat
  rowQ : List Nat
  colQ : List Nat
  drift : List Word
  rowCount : List Nat
  colCount : List Nat
  marked : List (LineRef × Nat)
  aliased : Bool
  exactLost : Bool
  refreshed : Bool
  nonfin : Bool
  collapsed : Bool
  poison : Bool
  refr : Nat
  peak : Nat
  shadow : List Shadow
  boundAt : Nat
  collapsedAt : Option Nat
  deriving DecidableEq, Repr

/-- The state of a context's halt line (17, R318). -/
inductive RunState where
  | running | raised | halted
  deriving DecidableEq, Repr

/-- What the summary record of a stop will say (17, Table 17-6). -/
structure StopInfo where
  halt : Halt
  place : DWord
  grid : Nat
  raisedAt : Nat
  raisedClock : Nat
  core : Nat
  slotNo : Nat
  lastStop : Nat
  pending : List StopUnit
  deriving DecidableEq, Repr

/-- A context (18, R340, R341; 17, R318–R323). `vacating` and `halting` are a vacate and a halt that have begun and are not answered yet,
`waiting` the commands that wait behind them (R337), `saves` the blocks in use in the save area: owner, base and length. -/
structure Context where
  no : Nat
  args : ContextArgs
  pool : List Nat
  run : RunState
  stop : Option StopInfo
  records : List (List (BitVec 8))
  nrec : Nat
  residencyFailures : Nat
  brokenPromises : Nat
  deferred : Nat
  charges : Nat
  finished : Nat
  budget : Nat
  clock : Nat
  measurement : BitVec 384
  images : List Image
  kernels : List Kernel
  nextGrid : Nat
  launches : List Launch
  bindings : List Binding
  waiting : List Instr
  vacating : Option (CmdHead × Nat)
  halting : Option CmdHead
  saves : List (Nat × Nat × Nat)
  deriving DecidableEq, Repr

/-- A lane in a core's trap pool (17, R308). -/
structure Pooled where
  origin : Origin
  at_ : Nat
  deriving DecidableEq, Repr

/-- A core (10, R169, R182; 17, R308; 06, R88): L1, constant cache, tile cache, tile write buffer, TLB, trap pool, and the
rotation pointer of each sub-core: the class and the residence number of the group that it moved past last. -/
structure Core where
  l1 : List Line
  constants : List Line
  tiles : List Line
  tileBuf : List Line
  tlb : List Leaf
  pool : List Pooled
  last : List (Nat × Nat × Nat)
  deriving DecidableEq, Repr

/-- A core that holds nothing. -/
def Core.empty : Core := ⟨[], [], [], [], [], [], []⟩

/-- A non-leaf entry of a die's walk cache (10, R182): context, level, the index bits consumed so far, the next table. -/
structure WalkEntry where
  ctx : Nat
  level : Nat
  key : Nat
  next : Nat
  deriving DecidableEq, Repr

/-- A die (10, R182, R191, R194; 18, Table 18-5). -/
structure Die where
  walk : List WalkEntry
  remote : List Line
  corrected : Nat
  deferred : Nat
  temp : Nat
  clock : Nat
  deriving DecidableEq, Repr

/-- A die after reset: nothing cached, no errors counted; temperature and clock of log entry 3. -/
def Die.reset : Die := ⟨[], [], 0, 0, 250, 16⟩

/-- A stamp of a deterministic launch (07, R131): who touched which bytes of a granule in which interval. `line` is the line of
descent of the path, `red` the operation of a RED and its scope, `sk` an SKADD's sketch. -/
structure Stamp where
  ctx : Nat
  launch : Nat
  gid : Nat
  clu : Nat
  wgc : Nat
  interval : Nat
  line : List (Nat × Bool)
  addr : Nat
  size : Nat
  write : Bool
  red : Option (AtomOp × Scope)
  sk : Option Nat
  deriving DecidableEq, Repr

/-- A hotness count (10, R188): block, requester (0–3 local die, 0x8000 + n remote), and count. -/
structure HotCount where
  block : Nat
  req : Nat
  count : Nat
  deriving DecidableEq, Repr

/-- An export (18, R346). -/
structure Grant where
  ctx : Nat
  node : BitVec 11
  base : Nat
  size : Nat
  deriving DecidableEq, Repr

/-- A message that the device has sent on the fabric (18, R333, R336): the bytes of the reply to a command, the answer to a remote request
(done with data, or refused), a request of its own, through a tracked mapping or not (04, R59), or a merge. -/
inductive Message where
  | reply (node : BitVec 11) (bytes : List (BitVec 8))
  | answer (node : BitVec 11) (done : Bool) (data : List (BitVec 8))
  | request (node off : Nat) (acc : RemoteAcc) (tracked : Bool)
  | merge (node : Nat) (m : RemoteMerge)
  deriving DecidableEq, Repr

/-- The word that is being issued: group, slot, its address, the word, its hint run; when it is executed again after a trap, the
active lanes of the first execution, the lanes whose effects count (R312, R313), and what the first execution delivered; the
register bytes its operands read and write (R38); and the tags that its group had before the word released any (R317, R327). -/
structure Issue where
  gid : Nat
  slotB : Bool
  pc : DWord
  word : Word
  hints : Hints
  redo : Bool
  act : BitVec 32
  eff : BitVec 32
  delivered : Option Delivered
  reads : List RegSpan
  writes : List RegSpan
  tags : Option (List Tag)
  deriving DecidableEq, Repr

/-- What moves next: a slot issues, an event or command comes about, the bytes of a command's message arrive from a node, with what the fabric answers
where the command reads a source there (18, R336), a read corrects a single-bit error (10, R191), an engine's request gets on with a part of its work (17,
R318; 10, R190), the distributor reads a launch's dependence counter at another device (11, R221), or only time passes. -/
inductive Act where
  | message (node : BitVec 11) (bytes : List (BitVec 8)) (source : RemoteReply)
  | issue (gid : Nat) (slotB : Bool)
  | event (i : Instr)
  | corrected (die : Nat)
  | part (id n : Nat)
  | readDep (ctx launch : Nat) (remote : RemoteReply)
  | idle
  deriving DecidableEq, Repr

/-- A move: what moves, and the clocks and nanoseconds it takes. -/
structure Move where
  clocks : Nat
  ns : Nat
  act : Act
  deriving DecidableEq, Repr

/-- The machine. `agenda`, `issue` and `fresh` are the model's own (log 1); every other field is the spec's. `counterVcs` holds what the
releases at a counter publish (07, R119, R131), `decays` how often the hotness counts were halved (10, R188), `notices` the blocks and requesters whose
notification is still to be written (10, R188), `copied` the lines of pages in migration that are copied, each with its new line (10, R190), and `leaving` the
lines that caches write to other devices, each with the time of the first attempt (18, R333). -/
structure State where
  mem : Mem
  poison : List Nat
  l2 : List Nat
  locked : List (Nat × Nat)
  stamps : List Stamp
  hot : List HotCount
  notices : List (Nat × Nat)
  copied : List (Nat × Nat)
  leaving : List (CacheSel × Nat × Nat)
  cores : List (Nat × Core)
  clusters : List (Nat × List Line)
  dies : List Die
  engineTlb : List (StopUnit × List Leaf)
  contexts : List Context
  workgroups : List Workgroup
  groups : List Group
  bars : List Bar
  joints : List Joint
  requests : List Request
  grants : List Grant
  outbox : List Message
  hostNode : Option (BitVec 11)
  node : BitVec 11
  failedPorts : BitVec 36
  trippedAt : Option Nat
  time : Nat
  clock : Nat
  decays : Nat
  counterVcs : List Published
  fresh : Nat
  agenda : List Move
  issue : Option Issue
  deriving DecidableEq, Repr

/-- The machine right after reset (18, R343): HBM zero, no context, no host node, NODE read from the balls; the values of log
entries 2, 3 and 4 elsewhere. -/
def State.reset : State where
  mem := []
  poison := []
  l2 := []
  locked := []
  stamps := []
  hot := []
  notices := []
  copied := []
  leaving := []
  cores := []
  clusters := []
  dies := [Die.reset, Die.reset, Die.reset, Die.reset]
  engineTlb := []
  contexts := []
  workgroups := []
  groups := []
  bars := []
  joints := []
  requests := []
  grants := []
  outbox := []
  hostNode := none
  node := Config.strapNode
  failedPorts := 0
  trippedAt := none
  time := 0
  clock := 0
  decays := 0
  counterVcs := []
  fresh := 0
  agenda := []
  issue := none

/-- Why a step stops with a fault. -/
inductive Fault where
  /-- A word was given a meaning while no slot issues it: every word has an issuing group (06, R86). Raised by every word's
  meaning; `step` never reaches it. Safe: the hardware has no such case. -/
  | noIssuer
  deriving DecidableEq, Repr

/-- Why a step is refused. -/
inductive Refusal where
  /-- The instruction has no meaning yet. Raised by exec's arms only. Safe. -/
  | notModelled (mnemonic : String)
  deriving DecidableEq, Repr

end Sys2Proof.Machine
end

