-- ==== Sys2Proof/Machine/Bits.lean ====
section
/-! DEFINITION. Bytes, sign extension, byte memories and lists of keyed records. -/

namespace Sys2Proof.Machine

/-- The `n` bytes of a number, little-endian (R23). -/
def leBytes : Nat → Nat → List (BitVec 8)
  | 0, _ => []
  | n + 1, v => BitVec.ofNat 8 v :: leBytes n (v / 256)

/-- The number that bytes hold, little-endian (R23). -/
def leNat : List (BitVec 8) → Nat
  | [] => 0
  | b :: bs => b.toNat + 256 * leNat bs

/-- The 32-bit word that bytes hold. -/
def leWord (bs : List (BitVec 8)) : Word := BitVec.ofNat 32 (leNat bs)

/-- A number read as a signed two's-complement number of `n` bits. -/
def toSigned (n v : Nat) : Int := let v := v % 2 ^ n; if 2 * v < 2 ^ n then (v : Int) else (v : Int) - (2 ^ n : Nat)

/-- The low `n` bits of an integer. -/
def ofSigned (n : Nat) (v : Int) : Nat := (v % ((2 ^ n : Nat) : Int)).toNat

/-- The bit field of `len` bits from `lo`. -/
def bits (v lo len : Nat) : Nat := v / 2 ^ lo % 2 ^ len

/-- Round up to a multiple. -/
def roundUp (v m : Nat) : Nat := (v + m - 1) / m * m

/-- The byte at an address; an unlisted one reads 0. -/
def Mem.get : Mem → Nat → BitVec 8
  | [], _ => 0
  | (k, b) :: m, a => if a < k then 0 else if a = k then b else Mem.get m a

/-- The cells above an address. -/
def Mem.above (a : Nat) : Mem → Mem
  | [] => []
  | (k, b) :: m => if k ≤ a then Mem.above a m else (k, b) :: m

/-- Write one byte, keeping the canonical form. -/
def Mem.set : Mem → Nat → BitVec 8 → Mem
  | [], a, v => if v = 0 then [] else [(a, v)]
  | (k, b) :: m, a, v =>
    if a < k then (if v = 0 then (k, b) :: m else (a, v) :: (k, b) :: m)
    else if a = k then (if v = 0 then Mem.above a m else (k, v) :: m)
    else (k, b) :: Mem.set m a v

/-- The `n` bytes from an address up. -/
def Mem.read (m : Mem) (a : Nat) : Nat → List (BitVec 8)
  | 0 => []
  | n + 1 => m.get a :: Mem.read m (a + 1) n

/-- Write bytes from an address up. -/
def Mem.write (m : Mem) (a : Nat) : List (BitVec 8) → Mem
  | [] => m
  | b :: bs => Mem.write (m.set a b) (a + 1) bs

/-- The number that `n` bytes at an address hold. -/
def Mem.nat (m : Mem) (a n : Nat) : Nat := leNat (m.read a n)

/-- Clear a range of bytes. -/
def Mem.clear (m : Mem) (lo size : Nat) : Mem := m.filter (fun c => c.1 < lo || lo + size ≤ c.1)

/-- The value under a key, or a default. -/
def lookupD (d : α) : List (Nat × α) → Nat → α
  | [], _ => d
  | (k, v) :: r, a => if a < k then d else if a = k then v else lookupD d r a

/-- Set the value under a key, keys rising. -/
def setKey : List (Nat × α) → Nat → α → List (Nat × α)
  | [], a, v => [(a, v)]
  | (k, w) :: r, a, v => if a < k then (a, v) :: (k, w) :: r else if a = k then (k, v) :: r else (k, w) :: setKey r a v

/-- Replace the element at an index. -/
def setNth : List α → Nat → α → List α
  | [], _, _ => []
  | _ :: r, 0, v => v :: r
  | x :: r, n + 1, v => x :: setNth r n v

/-- Add a number to a rising list of numbers. -/
def insertNat : List Nat → Nat → List Nat
  | [], a => [a]
  | k :: r, a => if a < k then a :: k :: r else if a = k then k :: r else k :: insertNat r a

/-- Replace the records that satisfy a test. -/
def mapWhere (p : α → Bool) (f : α → α) (l : List α) : List α := l.map (fun x => if p x then f x else x)

/-- Lanes 0 to 31. -/
def allLanes : List Nat :=
  [0, 1, 2, 3, 4, 5, 6, 7, 8, 9, 10, 11, 12, 13, 14, 15, 16, 17, 18, 19, 20, 21, 22, 23, 24, 25, 26, 27, 28, 29, 30, 31]

/-- The lanes of a mask, ascending. -/
def lanesOf (m : BitVec 32) : List Nat := allLanes.filter (fun i => m.getLsbD i)

/-- The mask of a list of lanes. -/
def maskOf (l : List Nat) : BitVec 32 := l.foldl (fun m i => m ||| (1#32 <<< i)) 0

/-- The number of set bits. -/
def popcount (m : BitVec 32) : Nat := (lanesOf m).length

/-- Fold over a list, stopping at the first error. -/
def foldE (f : β → α → Except ε β) : β → List α → Except ε β
  | b, [] => .ok b
  | b, x :: r => match f b x with
    | .ok b' => foldE f b' r
    | .error e => .error e

/-- Map over a list, stopping at the first error. -/
def mapE (f : α → Except ε β) : List α → Except ε (List β)
  | [] => .ok []
  | x :: r => match f x with
    | .error e => .error e
    | .ok y => match mapE f r with
      | .error e => .error e
      | .ok ys => .ok (y :: ys)

/-- Repeat a step a number of times. -/
def iter (f : α → α) : Nat → α → α
  | 0, x => x
  | n + 1, x => iter f n (f x)

end Sys2Proof.Machine
end

