-- ==== Sys2Proof/Machine/Ops.lean ====
section
/-! DEFINITION. The named operations over the state: finding and replacing its parts, registers and predicates, paths and their
merge, retiring a word, the halt line and lane traps. -/

namespace Sys2Proof.Machine

/-! ### Parts of the state -/

def State.core (s : State) (n : Nat) : Core := lookupD Core.empty s.cores n
def State.setCore (s : State) (n : Nat) (c : Core) : State := { s with cores := setKey s.cores n c }
def State.clusterCache (s : State) (n : Nat) : List Line := lookupD [] s.clusters n
def State.setClusterCache (s : State) (n : Nat) (l : List Line) : State := { s with clusters := setKey s.clusters n l }
def State.die (s : State) (n : Nat) : Die := s.dies.getD n Die.reset
def State.setDie (s : State) (n : Nat) (d : Die) : State := { s with dies := setNth s.dies n d }
def State.group? (s : State) (gid : Nat) : Option Group := s.groups.find? (fun g => g.gid == gid)
def State.setGroup (s : State) (g : Group) : State := { s with groups := mapWhere (fun x => x.gid == g.gid) (fun _ => g) s.groups }
def State.updGroup (s : State) (gid : Nat) (f : Group → Group) : State := { s with groups := mapWhere (fun x => x.gid == gid) f s.groups }
def State.ctx? (s : State) (n : Nat) : Option Context := s.contexts.find? (fun c => c.no == n)
def State.updCtx (s : State) (n : Nat) (f : Context → Context) : State := { s with contexts := mapWhere (fun c => c.no == n) f s.contexts }
def Context.launch? (c : Context) (n : Nat) : Option Launch := c.launches.find? (fun l => l.no == n)
def Context.kernel? (c : Context) (h : Nat) : Option Kernel := c.kernels.find? (fun k => k.handle == h)
def Context.updLaunch (c : Context) (n : Nat) (f : Launch → Launch) : Context := { c with launches := mapWhere (fun l => l.no == n) f c.launches }
def State.updLaunch (s : State) (ctx n : Nat) (f : Launch → Launch) : State := s.updCtx ctx (fun c => c.updLaunch n f)
def State.wg? (s : State) (wid : Nat) : Option Workgroup := s.workgroups.find? (fun w => w.wid == wid)
def State.updWg (s : State) (wid : Nat) (f : Workgroup → Workgroup) : State := { s with workgroups := mapWhere (fun w => w.wid == wid) f s.workgroups }
/-- The workgroup at a place of a launch. -/
def State.wgAt (s : State) (ctx launch clu wgc : Nat) : Option Workgroup :=
  s.workgroups.find? (fun w => w.ctx == ctx && w.launch == launch && w.clu == clu && w.wgc == wgc)
/-- The workgroup of a group; for a handler group there is none of its own. -/
def State.wgOf (s : State) (g : Group) : Option Workgroup := s.wgAt g.ctx g.launch g.clu g.wgc
def State.request? (s : State) (id : Nat) : Option Request := s.requests.find? (fun r => r.id == id)
def State.dropRequest (s : State) (id : Nat) : State := { s with requests := s.requests.filter (fun r => r.id != id) }
/-- The next number of the counter of free values and requests. -/
def State.tick (s : State) : State := { s with fresh := s.fresh + 1 }

/-- Whether an image's code holds an address. -/
def Image.holds (im : Image) (va : Nat) : Bool := im.code.any (fun r => r.1 ≤ va && va < r.1 + r.2)
/-- The image whose code holds an address. -/
def Context.imageOf (c : Context) (va : Nat) : Option Image := c.images.find? (fun im => im.holds va)

/-- Whether a physical address lies in memory that a context owns. -/
def Context.owns (c : Context) (pa : Nat) : Bool := (c.args.hbm ++ c.args.deep).any (fun r => r.base ≤ pa && pa < r.base + r.size)

/-! ### Homes (10, R171, R172) -/

def deepBase : Nat := 0x0100000000000
def hbmSize : Nat := 0xC000000000
def deepEnd : Nat := 0x0140000000000
def systemBase : Nat := 0x8000000000000

/-- The stack number of an HBM or deep-memory address (R172). -/
def homeStack (pa : Nat) : Nat := ((if pa < hbmSize then pa else pa - deepBase) / 2 ^ 12) % 12
/-- The die of a home (R172). -/
def homeDie (pa : Nat) : Nat := homeStack pa / 3

/-- Core clusters hold eight cores and dies thirty-two (00, R1). -/
def clusterOf (core : Nat) : Nat := core / 8
def dieOf (core : Nat) : Nat := core / 32

/-! ### Registers, predicates and status of one lane -/

/-- Bytes of the register space (02, R21). -/
def Lane.bytes (l : Lane) (off n : Nat) : List (BitVec 8) := l.regs.read off n
def Lane.nat (l : Lane) (off n : Nat) : Nat := leNat (l.bytes off n)
def Lane.word (l : Lane) (off : Nat) : Word := leWord (l.bytes off 4)
def Lane.dword (l : Lane) (off : Nat) : DWord := BitVec.ofNat 64 (l.nat off 8)
/-- The 4-byte words that a range covers wholly. -/
def coveredWords (off n : Nat) : BitVec 256 :=
  (List.range 256).foldl (fun m i => if off ≤ 4 * i && 4 * i + 4 ≤ off + n then m ||| (1#256 <<< i) else m) 0
/-- Write bytes; a register word written whole is no longer marked poisoned. -/
def Lane.put (l : Lane) (off : Nat) (bs : List (BitVec 8)) : Lane :=
  { l with regs := l.regs.write off bs, poison := if l.poison == 0 then 0 else l.poison &&& ~~~ (coveredWords off bs.length) }
def Lane.putNat (l : Lane) (off n v : Nat) : Lane := l.put off (leBytes n v)
def Lane.putWord (l : Lane) (off : Nat) (v : Word) : Lane := l.putNat off 4 v.toNat
def Lane.putDword (l : Lane) (off : Nat) (v : DWord) : Lane := l.putNat off 8 v.toNat
/-- Whether a range meets a poisoned register word. -/
def Lane.poisoned (l : Lane) (off n : Nat) : Bool :=
  l.poison != 0 && (List.range 256).any (fun i => l.poison.getLsbD i && 4 * i < off + n && off < 4 * i + 4)
def Lane.pred (l : Lane) (p : Nat) : Bool := l.preds.getLsbD p
def Lane.putPred (l : Lane) (p : Nat) (v : Bool) : Lane :=
  { l with preds := if v then l.preds ||| (1#12 <<< p) else l.preds &&& ~~~ (1#12 <<< p) }
/-- Raise flags: FFLAGS bits are only ever set by arithmetic (R27). -/
def Lane.raise (l : Lane) (f : BitVec 7) : Lane := { l with fflags := l.fflags ||| f }

def Group.lane (g : Group) (i : Nat) : Lane := g.lanes.getD i ⟨[], 0, 0, 0, false, [], none⟩
def Group.setLane (g : Group) (i : Nat) (l : Lane) : Group := { g with lanes := setNth g.lanes i l }
def Group.updLane (g : Group) (i : Nat) (f : Lane → Lane) : Group := g.setLane i (f (g.lane i))
/-- Whether a lane is a helper lane (06, R79). -/
def Group.isHelper (g : Group) (i : Nat) : Bool := g.helpers.getLsbD i
/-- The lanes that exist and have not exited. -/
def Group.live (g : Group) : BitVec 32 := g.lanesOn &&& ~~~ g.exited
/-- Apply register writes. -/
def Group.writes (g : Group) (ws : List LaneWrite) : Group := ws.foldl (fun g w => g.updLane w.lane (fun l => l.put w.off w.bytes)) g
/-- Raise flags in lanes that are not helper lanes (Table 6-1). -/
def Group.raiseFlags (g : Group) (fs : List (Nat × BitVec 7)) : Group :=
  fs.foldl (fun g f => if g.isHelper f.1 then g else g.updLane f.1 (fun l => l.raise f.2)) g
/-- Set row exponents: lane, accumulator, exponent. -/
def Group.setExps (g : Group) (es : List (Nat × Nat × BitVec 16)) : Group :=
  es.foldl (fun g e => g.updLane e.1 (fun l => { l with rowExp := setNth l.rowExp e.2.1 e.2.2 })) g
def Group.slot (g : Group) (b : Bool) : Slot := if b then g.b else g.a
def Group.setSlot (g : Group) (b : Bool) (x : Slot) : Group := if b then { g with b := x } else { g with a := x }
def Group.updSlot (g : Group) (b : Bool) (f : Slot → Slot) : Group := g.setSlot b (f (g.slot b))
def Group.isHandler (g : Group) : Bool := g.origins.isSome
/-- The register budget of a group: its kernel's, unless a reloaded image said otherwise (02, R20; 17, R320). -/
def Group.regs (g : Group) (k : Kernel) : Nat := g.budget.getD k.regs
/-- Apply a change to a parked path. -/
def Entry.upd (f : Slot → Slot) : Entry → Entry
  | .path x => .path (f x)
  | .frame j => .frame j
/-- The slots of a group, and what its parked paths' slots held. -/
def Group.places (g : Group) : List Slot := g.a :: g.b :: g.stack.filterMap (fun x => match x with
  | .path x => some x
  | .frame _ => none)
def Group.updPlaces (g : Group) (f : Slot → Slot) : Group := { g with a := f g.a, b := f g.b, stack := g.stack.map (Entry.upd f) }
/-- The trapping word of a lane, in the slot or the parked path that waits for it (17, R307). -/
def Slot.traps (x : Slot) (lane : Nat) : Option TrapWord :=
  match x.wait with
  | some (.lanes t) => if t.lanes.getLsbD lane then some t else none
  | _ => none
def Group.trapWord (g : Group) (lane : Nat) : Option TrapWord := g.places.findSome? (fun x => x.traps lane)

/-- A slot that holds nothing. -/
def Slot.free : Slot := ⟨none, Hints.empty, none, none, false⟩
def Slot.ofPath (p : Path) : Slot := ⟨some p, Hints.empty, none, none, false⟩

/-! ### Paths, arrival and merge (06, R83, R84) -/

/-- What a slot holds when it is parked (R83). A path that waits for its group's copies or joint matrix requests asks again when it is popped. -/
def Slot.parked (x : Slot) : Slot :=
  match x.wait with
  | some (.batch _) => { x with wait := none, again := true }
  | some .mmaj => { x with wait := none, again := true }
  | _ => x

/-- Pop a path entry into a free slot. -/
def Group.popPath (g : Group) (b : Bool) : Group :=
  match g.stack with
  | .path x :: r => if (g.slot b).path.isNone then { g.setSlot b x with stack := r } else g
  | _ => g

/-- Pop a frame entry into an invalid JR. -/
def Group.popFrame (g : Group) : Group :=
  match g.stack with
  | .frame f :: r => if g.jr.isNone then { g with jr := some f, stack := r } else g
  | _ => g

/-- The merge part of R84 after the path of slot `b` has been taken out: with no sibling left the frame's path is formed, and
its arrival, or that of an empty path at the outer join, goes on. The fuel is the number of frames that can be open. -/
def Group.merge : Nat → Bool → Group → Group
  | 0, _, g => g
  | n + 1, b, g =>
    if (g.slot b).path.isSome || (g.slot (!b)).path.isSome then g else
    match g.jr with
    | none => g
    | some f =>
      let g := { g with jr := none }
      let g := if f.arrived != 0 then g.setSlot b (Slot.ofPath ⟨f.join, f.arrived, f.outer, f.line⟩) else g
      let g := ((g.popPath b).popPath (!b)).popFrame
      if f.arrived != 0 then
        (if f.outer == some f.join then
          match g.jr with
          | none => g
          | some o => Group.merge n b ({ g with jr := some { o with arrived := o.arrived ||| f.arrived } }.setSlot b Slot.free)
         else g)
      else if g.jr.isSome then Group.merge n b g else g

/-- The arrival test of R84 for the path of slot `b`: its PC equals its own join, or it has no lane left. -/
def Group.arriveTest (g : Group) (b : Bool) : Group :=
  match (g.slot b).path with
  | none => g
  | some p =>
    if p.mask == 0 || p.join == some p.pc then
      match g.jr with
      | none => if p.mask == 0 then g.setSlot b Slot.free else g
      | some f => Group.merge (g.stack.length + 2) b ({ g with jr := some { f with arrived := f.arrived ||| p.mask } }.setSlot b Slot.free)
    else g

/-- The parked paths of a stack that a test picks go on to the word after `pc`; one that so arrives at its join joins its frame, which lies below it (R84). -/
def resumeEntries (p : Slot → Bool) (pc : DWord) : List Entry → List Entry
  | [] => []
  | .path x :: r =>
    if !p x then .path x :: resumeEntries p pc r else
    match x.path with
    | none => .path x :: r
    | some q =>
      let on : Entry := .path (Slot.ofPath { q with pc := pc + 4 })
      if q.mask != 0 && q.join != some (pc + 4) then on :: r else
      match r with
      | .frame f :: r => .frame { f with arrived := f.arrived ||| q.mask } :: r
      | _ => on :: r
  | .frame f :: r => .frame f :: resumeEntries p pc r

/-- Move a path to another word, dropping the hints its consumer used. -/
def Group.goto (g : Group) (b : Bool) (pc : DWord) : Group :=
  (g.updSlot b (fun x => { x with path := x.path.map (fun p => { p with pc := pc }), hints := Hints.empty, redo := none, again := false })).arriveTest b

/-! ### The word being issued -/

/-- All that the meaning of a word reads beside the state: its issue, group, context, launch and kernel. -/
structure Env where
  iss : Issue
  g : Group
  c : Context
  l : Launch
  k : Kernel

/-- The issuing word's surroundings; none while no word is being issued. -/
def State.env (s : State) : Option Env :=
  match s.issue with
  | none => none
  | some iss =>
    match s.group? iss.gid with
    | none => none
    | some g =>
      match s.ctx? g.ctx with
      | none => none
      | some c => (c.launch? g.launch).map (fun l => ⟨iss, g, c, l, l.kernel⟩)

/-- A group as the word of a request sees it: where its path waits parked on the stack for the request (06, R83), that path stands in its slot. -/
def Group.seenBy (g : Group) (r : Request) : Group :=
  match g.stack.findSome? (fun x => match x with
    | .path x => if x.wait == some (.request r.id) then some x else none
    | .frame _ => none) with
  | some x => g.updSlot r.slotB (fun _ => x)
  | none => g

/-- The surroundings of the word that made a request, for the part of its meaning that comes later. -/
def State.reqEnv (s : State) (r : Request) : Option Env :=
  ({ s with issue := some ⟨r.gid, r.slotB, r.pc, r.word, r.hints, false, 0, 0, none, [], [], none⟩ } : State).env.map (fun (e : Env) => { e with g := e.g.seenBy r })

/-- The path that issues. -/
def Env.path (e : Env) : Path := ((e.g.slot e.iss.slotB).path).getD ⟨0, 0, none, []⟩
def Env.hints (e : Env) : Hints := e.iss.hints
/-- The byte offset of vN, of tN, and of aN (02, R22). -/
def Env.v (e : Env) (n : BitVec w) : Nat := e.k.vwv + 4 * n.toNat
def Env.t (e : Env) (n : Nat) : Nat := e.k.vwt + 64 * n
def Env.acc (e : Env) (n : Nat) : Nat := e.k.vwa + 128 * n

/-- Whether the guard is true in a lane (03, R32): G, or the HGRD hint. -/
def guardHolds (g : BitVec 3) (h : Hints) (l : Lane) : Bool :=
  match h.hgrd with
  | some (never, neg, p) => !never && (l.pred p.toNat != neg)
  | none => if g = 0 then true else l.pred (g.toNat - 1)

/-- The lanes of the path for which the guard is true. -/
def guardMask (g : BitVec 3) (h : Hints) (grp : Group) (m : BitVec 32) : BitVec 32 :=
  maskOf ((lanesOf m).filter (fun i => guardHolds g h (grp.lane i)))

/-- The active lanes of the word: the guard's, or those of the first execution when it is executed again (R313). -/
def Env.act (e : Env) (g : BitVec 3) : BitVec 32 :=
  if e.iss.redo then e.iss.act else guardMask g e.hints e.g e.path.mask

/-- Whether some active lane is not a helper lane (06, R80; 14, R262). -/
def Env.writes (e : Env) (g : BitVec 3) : Bool := e.act g &&& ~~~ e.g.helpers != 0

/-- The lanes in which the word's effects count (R312, R313). -/
def Env.eff (e : Env) (g : BitVec 3) : BitVec 32 := if e.iss.redo then e.iss.eff &&& e.iss.act else e.act g

/-- Nothing is being issued any more, and the slot goes on to another word. -/
def Env.retireTo (e : Env) (pc : DWord) (s : State) : State :=
  { s.updGroup e.g.gid (fun g => g.goto e.iss.slotB pc) with issue := none }

/-- The word is done and its slot goes on to the next word (06, R84). -/
def Env.retire (e : Env) (s : State) : State := e.retireTo (e.iss.pc + 4) s

/-- The word is done and its slot waits; its PC stays at the word until the wait ends. -/
def Env.await (e : Env) (w : Wait) (s : State) : State :=
  { s.updGroup e.g.gid (fun g => g.updSlot e.iss.slotB (fun x => { x with wait := some w, redo := none })) with issue := none }

/-- The wait of a slot is over: it goes on to the word after `pc`. -/
def State.resumeSlot (s : State) (gid : Nat) (slotB : Bool) (pc : DWord) : State :=
  s.updGroup gid (fun g => (g.updSlot slotB (fun x => { x with wait := none })).goto slotB (pc + 4))

/-- The slot, or the parked path, that waits as a test says goes on to the word after `pc`. -/
def State.resumeWhere (s : State) (gid : Nat) (p : Slot → Bool) (pc : DWord) : State :=
  match s.group? gid with
  | none => s
  | some g =>
    if p g.a then s.resumeSlot gid false pc
    else if p g.b then s.resumeSlot gid true pc
    else s.updGroup gid (fun g => { g with stack := resumeEntries p pc g.stack })

/-- A choice that the manual leaves open: a number below `n` (n positive). -/
def choose (s : State) (i n : Nat) : Nat := Config.free s.fresh i % n

/-- One of some addresses, where which one it is stands open. -/
def oneOf (s : State) : List Nat → Option Nat
  | [] => none
  | [a] => some a
  | as => as[choose s 8 as.length]?

/-- The addresses at other devices to which a job goes out as soon as it is one. -/
def Job.aways : Job → List Nat
  | .load _ ps _ _ => ps.map (fun p => p.pa)
  | .fetch ls => ls.map (fun l => 128 * l)
  | .reload _ ls => ls.map (fun l => 128 * l)
  | .atom _ _ as _ => as.map (fun a => a.pa)
  | .remoteRed as _ => as.map (fun a => a.pa)
  | .remoteWrite a => [a]
  | .skmerge _ dst _ _ _ true => [dst.descPa]
  | _ => []
def Job.away (j : Job) : Option Nat := j.aways.head?

/-- A request of the word being issued. -/
def Env.request (e : Env) (s : State) (job : Job) : Request :=
  ⟨s.fresh, e.g.ctx, e.g.launch, e.g.gid, e.iss.slotB, e.iss.pc, e.iss.word, e.hints, job, job.away.map (fun _ => s.time), none, e.g.core * 128 + e.g.slotNo⟩

/-- Replace the job of a request, which goes out now if it goes to another device. -/
def State.setJob (s : State) (id : Nat) (j : Job) : State :=
  { s with requests := mapWhere (fun r => r.id == id) (fun r => { r with job := j, since := j.away.map (fun _ => s.time) <|> r.since }) s.requests }

/-- Add a request of the word; its number is the counter's. -/
def Env.submit (e : Env) (job : Job) (s : State) : State := ({ s with requests := s.requests ++ [e.request s job] }).tick

/-- A long-latency word issues: its request is outstanding and its lookahead window is open (03, R37), or that of an MMAJ. -/
def Env.openWindow (e : Env) (la : Nat) (job : Job) (s : State) : State :=
  let w : Window := ⟨s.fresh, e.iss.slotB, la, e.iss.reads, e.iss.writes, false, false⟩
  e.submit job (s.updGroup e.g.gid (fun g => { g with windows := g.windows ++ [w] }))

/-- A long-latency word issues and its slot goes on (03, R37). -/
def Env.launchLong (e : Env) (la : BitVec 4) (job : Job) (s : State) : State := e.retire (e.openWindow la.toNat job s)

/-- The windows of a group close, and words that issue from now on are not checked against them (03, R38); the word of one whose result is still
outstanding completes before its slot goes on. That of an MMAJ holds back no word but its MWAIT. -/
def Group.closeWindows (g : Group) : Group :=
  { g with windows := (g.windows.filter (fun w => !w.joint && !w.complete)).map (fun w => { w with left := 0 }) }

/-! ### The halt line (17, R317–R319) -/

/-- A precise fault of the word in the given lane, which touches no address. A fault of no single lane names lane 0, which is the model's choice
(log 36). -/
def Halt.word (cause lane : Nat) : Halt := ⟨cause, 0, lane, 0, 1#32 <<< lane⟩
/-- A precise fault of the word in some lanes; the record names the lowest of them, and lane 0 where a fault is of no lane (log 36). -/
def Halt.lanes (cause : Nat) (m : BitVec 32) : Halt := ⟨cause, 0, (lanesOf m).headD 0, 0, m⟩
/-- A protection fault at an address (10, R171; 11, R195). -/
def Halt.protection (lane : Nat) (addr : Nat) : Halt := ⟨0x06, 0, lane, BitVec.ofNat 64 addr, 1#32 <<< lane⟩
def Halt.illegal : Halt := Halt.word 0x01 0
def Halt.operand : Halt := Halt.word 0x0B 0

/-- The code offset of an address: from the base of the image's code segment (06, R82). -/
def codeOffset (k : Kernel) (pc : DWord) : Nat := (pc.toNat - k.codeBase) % 2 ^ 32

/-- The layout of Table 17-1 with CAUSE and CODE 0: where a lane of a group stands. -/
def whereTag (g : Group) (k : Kernel) (pc : DWord) (lane : Nat) : DWord :=
  BitVec.ofNat 64 (codeOffset k pc + 2 ^ 32 * (lane % 32) + 2 ^ 37 * (g.slotNo % 64) + 2 ^ 43 * (g.core % 128)
    + if g.isHandler then 2 ^ 54 else 0)

/-- The origin tag of a handler lane (17, Table 17-1; R311 in a deterministic launch). -/
def originTag (o : Origin) (g : Group) (k : Kernel) (pc : DWord) (det : Bool) : DWord :=
  BitVec.ofNat 64 (codeOffset k pc + 2 ^ 32 * (o.lane % 32) + (if det then 0 else 2 ^ 37 * (g.slotNo % 64) + 2 ^ 43 * (g.core % 128))
    + 2 ^ 50 * (o.cause % 8) + 2 ^ 57 * (o.code % 128))

/-- The engine that carries a job out, if an engine does (17, R318); which die's Thermos it is only the binding says. -/
def Job.unit : Job → Option StopUnit
  | .copy .. => some .copyEngine
  | .preq .. => some .copyEngine
  | .mld .. => some .matrixEngine
  | .mdrain .. => some .matrixEngine
  | .mmaj .. => some .matrixEngine
  | .sketch .. => some .sketchEngines
  | .skmerge .. => some .sketchEngines
  | .merging .. => some .sketchEngines
  | .pbind .. => some (.thermos 0)
  | .pstatus .. => some (.thermos 0)
  | .psettle .. => some (.thermos 0)
  | .punbind .. => some (.thermos 0)
  | .prefresh .. => some (.thermos 0)
  | _ => none

/-- Whether a unit carries on with a context's work: the halt line is down, or the unit has not stopped yet (17, R318). -/
def Context.goesOn (c : Context) (u : StopUnit) : Bool :=
  match c.run with
  | .running => true
  | .raised => (c.stop.map (fun i => i.pending.contains u)).getD true
  | .halted => false

/-- The physical address under the pages of an operand. -/
def pageOf (pages : List (Nat × Nat)) (va : Nat) : Option Nat :=
  (pages.find? (fun p => p.1 ≤ va && va < p.1 + 65536)).map (fun p => p.2 + (va - p.1))

/-- The die of C[0][0]'s home, whose Thermos serves the binding (04, R61). -/
def Binding.die (b : Binding) : Nat := homeDie ((pageOf b.cPages b.desc.cBase).getD 0)

/-- The binding slot of a job of the Thermos. -/
def Job.slot : Job → Option Nat
  | .pbind _ _ _ k => k
  | .pstatus _ k .. => some k
  | .psettle k .. => some k
  | .punbind k .. => some k
  | .prefresh k .. => some k
  | _ => none

/-- The die whose Thermos serves a binding slot of a context: that of C[0][0]'s home (04, R61). -/
def State.servingDie (s : State) (ctx : Nat) (slot : Option Nat) : Nat :=
  ((slot.bind (fun k => (s.ctx? ctx).bind (fun c => c.bindings.find? (fun b => b.slot == k)))).map Binding.die).getD 0

/-- The unit that carries a request out: an engine, or the core of its group. -/
def State.unitOf (s : State) (r : Request) : StopUnit :=
  match r.job.unit with
  | some (.thermos _) => .thermos (s.servingDie r.ctx r.job.slot)
  | some u => u
  | none => .core (((s.group? r.gid).map (fun g => g.core)).getD 0)

/-- What a group has outstanding that need not complete before its state is saved: requests of engines whose word has read its registers, and,
where `waiting`, those that it waits for. -/
def Job.outlives (waiting : Bool) : Job → Bool
  | .preq .. => true
  | .mdrain .. => true
  | .skmerge .. => true
  | .sketch _ (.query ..) _ => false
  | .sketch _ (.stat ..) _ => false
  | .sketch .. => true
  | .psettle _ _ _ c _ => waiting || c.isSome
  | .punbind .. => waiting
  | .prefresh .. => waiting
  | _ => false

/-- A request of a group that is off its cores, which waits until the group is restored (06, R104; 17, R320). -/
def State.stranded (s : State) (r : Request) : Bool := !r.job.outlives true && ((s.group? r.gid).map (fun g => !g.resident)).getD false

/-- A request that can be carried on: it is outstanding, its unit has not stopped, and its group is not off its cores. -/
def State.live? (s : State) (id : Nat) : Option Request :=
  match s.request? id with
  | none => none
  | some r => if s.stranded r then none else match s.ctx? r.ctx with
    | none => some r
    | some c => if c.goesOn (s.unitOf r) then some r else none

/-- The units that hold work of a context; each die's Thermos, which keeps its bindings, is always one (17, R318). -/
def State.unitsOf (s : State) (ctx : Nat) : List StopUnit :=
  let cores := ((s.groups.filter (fun g => g.ctx == ctx && g.resident)).map (fun g => StopUnit.core g.core)).eraseDups
  let engines := (s.requests.filter (fun r => r.ctx == ctx)).filterMap (fun r => r.job.unit)
  cores ++ [StopUnit.copyEngine, .matrixEngine, .sketchEngines].filter (fun u => engines.contains u) ++ (List.range 4).map StopUnit.thermos

/-- Raise the halt line of a context. A line already raised stays with its first cause; ties of one clock go to the lower core,
then the lower slot (17, R318, R319). -/
def State.raiseLine (s : State) (ctx : Nat) (i : StopInfo) : State :=
  let units := s.unitsOf ctx
  s.updCtx ctx (fun c =>
    match c.run, c.stop with
    | .running, _ => { c with run := .raised, stop := some { i with pending := units } }
    | .raised, some j =>
      if i.raisedClock == j.raisedClock && (i.core < j.core || (i.core == j.core && i.slotNo < j.slotNo)) then
        { c with stop := some { i with pending := j.pending, lastStop := j.lastStop } } else c
    | _, _ => c)

/-- Change what holds the word at an address: a parked path that waits at it, or else the slot. -/
def Group.updWord (g : Group) (b : Bool) (pc : DWord) (f : Slot → Slot) : Group :=
  let held := fun (x : Slot) => x.wait.isSome && (x.path.map (fun p => p.pc)) == some pc
  if !held (g.slot b) && g.stack.any (fun x => match x with
    | .path x => held x
    | .frame _ => false) then { g with stack := g.stack.map (Entry.upd (fun x => if held x then f x else x)) }
  else g.updSlot b f

/-- A fault as the stop record shows it: one of a handler lane gives the lane's origin tag in ADDR and DETAIL (17, R319). -/
def State.blamed (s : State) (e : Env) (h : Halt) : Halt :=
  match (e.g.origins.bind (fun os => os[h.lane]?)).bind (fun o =>
      (s.group? o.gid).bind (fun og => (og.trapWord o.lane).map (fun t => originTag o og e.k t.pc e.k.det))) with
  | some tag => { h with addr := tag, detail := tag.truncate 32 }
  | none => h

/-- TAKING A CONTEXT-FATAL FAULT, the one operation that does it (17, R317–R320): the halt line is raised with the cause, where it
was and the address; the group records its own fault and stands at the first hint of its run, to issue it again after a resume. -/
def Env.takeFault (e : Env) (h : Halt) (s : State) : State :=
  let h := s.blamed e h
  let back := e.hints.start.getD e.iss.pc
  let issuing := s.issue.isSome
  let s := s.updGroup e.g.gid (fun g => { (if issuing then g.updSlot e.iss.slotB else g.updWord e.iss.slotB e.iss.pc) (fun x =>
      { x with path := x.path.map (fun p => { p with pc := back }), hints := Hints.empty, wait := none, again := false,
               redo := if e.iss.redo then some ⟨e.iss.pc, e.iss.act, e.iss.eff, e.iss.delivered⟩ else none })
    with fault := some h, keep := none, tags := e.iss.tags.getD g.tags })
  { s.raiseLine e.g.ctx ⟨h, whereTag e.g e.k e.iss.pc h.lane, e.l.no, s.time, s.clock, e.g.core, e.g.slotNo, 0, []⟩ with issue := none }

/-- A precise fault of a word in flight whose slot has gone on (03, R37): the word has had no effect, and stays in flight, to be performed again after
a resume (17, R317, R320). -/
def Env.flightFault (e : Env) (h : Halt) (s : State) : State :=
  let h := s.blamed e h
  (s.updGroup e.g.gid (fun g => { g with fault := some h })).raiseLine e.g.ctx
    ⟨h, whereTag e.g e.k e.iss.pc h.lane, e.l.no, s.time, s.clock, e.g.core, e.g.slotNo, 0, []⟩

/-- A fault that an engine or the fabric raises for a request: it is not precise (17, R317; 11, R205; 18, R333). -/
def State.engineFault (s : State) (r : Request) (cause addr : Nat) : State :=
  let (place, core, slotNo) := match s.group? r.gid with
    | some g => (match ((s.ctx? g.ctx).bind (fun c => c.launch? g.launch)).map (fun l => l.kernel) with
      | some k => (whereTag g k r.pc 0, g.core, g.slotNo)
      | none => (0, g.core, g.slotNo))
    | none => (0, 0, 0)
  s.raiseLine r.ctx ⟨⟨cause, 2, 0, BitVec.ofNat 64 addr, 0⟩, place, r.launch, s.time, s.clock, core, slotNo, 0, []⟩

/-- The meaning of a word: its effect, or the fault it takes. Without an issuing slot there is no such step. -/
def inWord (s : State) (body : Env → Except Halt State) : Host.Outcome State Fault Refusal :=
  match s.env with
  | none => .fault .noIssuer
  | some e =>
    match body e with
    | .ok s' => .next s'
    | .error h => .next (e.takeFault h s)

/-! ### Lane traps (17, R307, R308) -/

/-- A lane's trap: cause and code of Table 17-1, and the flags the word would have raised (Table 17-3) and the register bytes it would
have written in the lane. -/
structure LaneTrap where
  lane : Nat
  cause : Nat
  code : Nat
  flags : BitVec 7
  dest : List RegSpan
  deriving DecidableEq, Repr

/-- The word of trapping lanes, as its slot holds it until they are served. -/
def Env.trapsOf (e : Env) (ts : List LaneTrap) (g : BitVec 3) (delivered : Option Delivered) : TrapWord :=
  ⟨e.iss.pc, e.iss.word, e.hints, e.act g, maskOf (ts.map (·.lane)), ts.map (fun t => (t.lane, t.cause, t.code)),
    ts.map (fun t => (t.lane, t.flags)), ts.map (fun t => (t.lane, t.dest)), 0, 0, 0, delivered, none⟩

/-- Trapping lanes enter the core's trap pool as one batch in ascending order, or, without a handler, the halt line is raised with cause 0x21. -/
def Env.pool (e : Env) (ts : List LaneTrap) (s : State) : State :=
  match ts with
  | [] => s
  | t :: _ =>
    let lanes := maskOf (ts.map (·.lane))
    if e.k.handler != 0 then
      let c := s.core e.g.core
      s.setCore e.g.core { c with pool := c.pool ++ ts.map (fun t => ⟨⟨e.g.gid, e.iss.slotB, t.lane, t.cause, t.code⟩, s.clock⟩) }
    else
      s.raiseLine e.g.ctx ⟨⟨0x21, 0, t.lane, 0, lanes⟩, whereTag e.g e.k e.iss.pc t.lane, e.l.no, s.time, s.clock, e.g.core, e.g.slotNo, 0, []⟩

/-- Stop lanes at the word: they are pooled, and the slot waits until they are served. With no trapping lane the word is simply done. -/
def Env.trapOr (e : Env) (ts : List LaneTrap) (g : BitVec 3) (delivered : Option Delivered) (done : State → State) (s : State) : State :=
  match ts with
  | [] => done s
  | _ => e.pool ts (e.await (.lanes (e.trapsOf ts g delivered)) s)

/-- Stop lanes at a word whose slot, or parked path, waits for its request. -/
def Env.trapAt (e : Env) (id : Nat) (ts : List LaneTrap) (done : State → State) (s : State) : State :=
  match ts with
  | [] => done s
  | _ => e.pool ts (s.updGroup e.g.gid (fun g => g.updPlaces (fun x =>
      if x.wait == some (.request id) then { x with wait := some (.lanes (e.trapsOf ts 0 none)) } else x)))

end Sys2Proof.Machine
end

