-- ==== Sys2Proof/Machine/MatrixOperands.lean ====
section
/-! DEFINITION. The register bytes of the matrix words, which their control word and descriptors decide (15, R282–R285, R289, R292–R297). -/

namespace Sys2Proof.Machine

/-- The registers aN to aN+n−1, as far as they exist: an accumulator that would run past a7 is an operand-format fault of its word (R282,
R289, R296), which touches no register past a7. -/
def aspan (k : Kernel) (a : BitVec w) (n : Nat) : RegSpan := ⟨k.vwa + 128 * a.toNat, 128 * min n (8 - a.toNat)⟩
/-- A tile register's first bytes. -/
def tspan (k : Kernel) (t n : Nat) : RegSpan := ⟨k.vwt + 64 * t, n⟩

/-- The bytes of a fragment's tile: an FP32 fragment has no more than 32, but for a transposed one, which has 4 in each lane for each of `n` rows of A or
columns of B (R283). -/
def fragBytes (type n : Nat) (transposed : Bool) : Nat := if type == 0 then (if transposed then max 32 (min 64 (4 * n)) else 32) else 64

/-- The bytes of an accumulator of MMA: those that the layout of R283 gives to elements. -/
def accSpan (k : Kernel) (c : BitVec 3) (tc n : Nat) : RegSpan :=
  if tc == 9 then aspan k c ((n - 1) / 8 + 1) else ⟨k.vwa + 128 * c.toNat, if tc == 1 || tc == 2 then 64 else 128⟩

/-- What a matrix word reads and writes in each lane. `ctl` is MMA's control pair; for MMAJ, MLD and MDRAIN it is the number of accumulator
registers that their descriptors give them. -/
def matrixSpans (k : Kernel) (ctl : Nat) (i : Instr) : List RegSpan × List RegSpan :=
  let pair := fun (a : BitVec 7) => (⟨k.vwv + 4 * a.toNat, 8⟩ : RegSpan)
  match i with
  | .mma _ t c a _ f =>
    let ta := bits ctl 0 4
    let tc := bits ctl 8 4
    let acc := accSpan k c tc (bits ctl 22 10)
    let scales := if tc == 9 then [tspan k (bits ctl 46 4) 4] else if 5 ≤ ta && ta ≤ 7 then [tspan k (bits ctl 46 4) 36] else []
    ([tspan k t.toNat (fragBytes ta (bits ctl 12 10) (f.getLsbD 3)), tspan k (bits ctl 42 4) (fragBytes (bits ctl 4 4) (bits ctl 22 10) (f.getLsbD 2)),
      pair a, acc] ++ scales, [acc])
  | .mmaj _ b a _ => ([pair a, aspan k b ctl], [aspan k b ctl])
  | .macc _ d p q _ _ => ([aspan k p 1, aspan k q 1], [aspan k d 1])
  | .mzero _ d _ => ([], [aspan k d 1])
  | .mld _ d a _ _ => ([pair a], [aspan k d ctl])
  | .mdrain _ d a _ _ => ([pair a, aspan k d ctl], [])
  | .mquant _ d a _ f =>
    ([aspan k a 1], if 3 ≤ f.toNat && f.toNat ≤ 5 && d.toNat ≤ 14 then [tspan k d.toNat 128] else [tspan k d.toNat 64])
  | _ => ([], [])

end Sys2Proof.Machine
end

