-- ==== Sys2Proof/Machine/Operands.lean ====
section
/-! DEFINITION. Operand forms: register and immediate operands (03, R33), uniform operands of group-level words (11, R196), the hint
words and where each is legal (03, R34–R36), and the register bytes that each word reads and writes (R24, R38). -/

namespace Sys2Proof.Machine

/-! ### Values -/

/-- The immediate of an R-format or I-format word under HIMM: payload 23:0, then the low eight bits of the word (R33). -/
def himmWord (hi : BitVec 24) (lo : BitVec 8) : Word := hi ++ lo

/-- The operands A and B of an R-format word with no variant: registers, or with an HIMM an immediate on the side it names. X must
be 0 when no HIMM stands before it (R33, R133). -/
def Env.operands (e : Env) (a b : BitVec 7) (x : BitVec 1) : Except Halt (Lane → Word × Word) :=
  match e.hints.himm with
  | none => if x = 0 then .ok (fun l => (l.word (e.v a), l.word (e.v b))) else .error .illegal
  | some (first, hi) =>
    let imm := himmWord hi (b ++ x)
    .ok (fun l => if first then (imm, l.word (e.v a)) else (l.word (e.v a), imm))

/-- The operands A and B of an I-format word (R33). -/
def Env.operandsI (e : Env) (a : BitVec 7) (i : BitVec 8) (l : Lane) : Word × Word :=
  match e.hints.himm with
  | none => (l.word (e.v a), i.signExtend 32)
  | some (first, hi) => if first then (himmWord hi i, l.word (e.v a)) else (l.word (e.v a), himmWord hi i)

/-- The truth table that LUT3 and PLUT take from their HIMM (R33): payload bits 7:0, bits 24:8 zero. -/
def Env.table (e : Env) : Except Halt (BitVec 8) :=
  match e.hints.himm with
  | some (false, hi) => if hi.toNat < 256 then .ok (hi.truncate 8) else .error .illegal
  | _ => .error .illegal

/-- Change the registers of every lane in which the word's effects count. -/
def Env.eachLane (e : Env) (g : BitVec 3) (f : Nat → Lane → Lane) (s : State) : State :=
  s.updGroup e.g.gid (fun grp => (lanesOf (e.eff g)).foldl (fun grp i => grp.updLane i (f i)) grp)

/-- The value that an operand has in every active lane, if it is the same in all of them; helper lanes count (R79, R196). -/
def Env.uniform [DecidableEq α] (e : Env) (g : BitVec 3) (f : Lane → α) : Except Halt (Option α) :=
  match (lanesOf (e.act g)).map (fun i => f (e.g.lane i)) with
  | [] => .ok none
  | v :: vs => if vs.all (fun w => w = v) then .ok (some v) else .error .operand

/-- The scope of an M-format SCOPE field, with the SYS bit of an HSEM (R35, R197). -/
def Env.scope (e : Env) (sc : BitVec 2) : Scope :=
  match sc.toNat with
  | 0 => .grp
  | 1 => .wg
  | 2 => .clu
  | _ => match e.hints.hsem with
    | some (true, _) => .sys
    | _ => .dev

/-- The scope of ARRIVE and WAITC: device, or system with the SYS bit of an HSEM (R35). -/
def Env.counterScope (e : Env) : Scope :=
  match e.hints.hsem with
  | some (true, _) => .sys
  | _ => .dev

/-- The scope codes of Table 3-15. -/
def scopeCode (c : Nat) : Scope :=
  match c with
  | 0 => .grp
  | 1 => .wg
  | 2 => .clu
  | 3 => .dev
  | _ => .sys

/-- The HSEM cache policy; 0 without one (10, R174). -/
def Env.policy (e : Env) : BitVec 2 :=
  match e.hints.hsem with
  | some (_, p) => p
  | none => 0

/-- The rounding mode in effect: HRND, or FRND (R27). -/
def Env.mode (e : Env) : BitVec 3 := e.hints.hrnd.getD e.g.frnd

/-- The HOFF offset of an M-format word, sign-extended (R35). -/
def Env.offset (e : Env) : DWord :=
  match e.hints.hoff with
  | some o => o.signExtend 64
  | none => 0

/-! ### Hints (03, R34–R36) -/

/-- The OP of a word. -/
def opOf (w : Word) : Nat := w.toNat / 2 ^ 25

/-- The OP values that take an HIMM as an operand or a truth table (Table 3-4). -/
def himmConsumers : List Nat :=
  [0x00, 0x01, 0x02, 0x03, 0x04, 0x05, 0x07, 0x0C, 0x11, 0x12, 0x13, 0x14, 0x15, 0x16, 0x17, 0x1A, 0x1D, 0x21, 0x18, 0x25]

/-- The consumers of HRND (Table 3-4). -/
def takesHrnd (w : Word) : Bool :=
  let op := opOf w
  let minor := bits w.toNat 1 7
  (0x50 ≤ op && op ≤ 0x55) || op == 0x5A || op == 0x5C || op == 0x5E || op == 0x60 || op == 0x63 || op == 0x66 || op == 0x67 ||
    (op == 0x5D && (minor == 0 || minor == 1 || minor == 4))

/-- The L-format words ARRIVE and WAITC, which take an HSEM of policy 0 (Table 3-4). -/
def isCounterWord (w : Word) : Bool := opOf w == 0x4D && (bits w.toNat 0 4 == 3 || bits w.toNat 0 4 == 4)

/-- LD.g, ST.g, ATOM and RED, which take an HSEM (Table 3-4). -/
def isScopedMemory (w : Word) : Bool := let op := opOf w; (0x38 ≤ op && op ≤ 0x41) || (0x47 ≤ op && op ≤ 0x4C)

/-- HSAT SR is a reserved payload with a consumer whose destination is not a floating format narrower than its source, EXA128
counting as the widest (Table 3-3, R296). -/
def srLegal (w : Word) : Bool :=
  let op := opOf w
  let n := w.toNat
  if op == 0x5E then
    let s := bits n 5 3
    let t := bits n 2 3
    t ≤ 6 && ((s == 7 && (t == 2 || t == 3)) || (s == 0 && 1 ≤ t) || (s == 1 && 2 ≤ t) || ((s == 2 || s == 3) && 4 ≤ t) || ((s == 4 || s == 5) && t == 6))
  else if op == 0x66 then (let c := bits n 1 3; c != 0 && c != 6)
  else op == 0x67

/-- Whether the hint run may stand before this consumer (R34–R36, Tables 3-3, 3-4). -/
def hintsLegal (h : Hints) (w : Word) : Bool :=
  let op := opOf w
  !h.bad && h.count ≤ 3 &&
  (h.himm.isNone || himmConsumers.contains op) &&
  (h.hoff.isNone || (0x38 ≤ op && op ≤ 0x4C)) &&
  (h.hgrd.isNone || bits w.toNat 22 3 == 0) &&
  (match h.hsem with
   | none => true
   | some (sys, pol) =>
     (isCounterWord w && pol == 0) ||
     (isScopedMemory w && (!sys || bits w.toNat 2 2 == 3))) &&
  (h.hrnd.isNone || takesHrnd w) &&
  (match h.hsat with
   | none => true
   | some (_, sr, _) => (op == 0x5E || op == 0x66 || op == 0x67) && (!sr || srLegal w)) &&
  (!h.hdet || (op == 0x4D && bits w.toNat 0 4 == 2))

/-! ### Register bytes (03, R24, R38) -/

/-- The bytes of `n` registers from vN. -/
def vspan (k : Kernel) (r : BitVec w) (n : Nat) : RegSpan := ⟨k.vwv + 4 * r.toNat, 4 * n⟩

/-- The registers of a memory width code (Table 3-15). -/
def widthRegs (w : BitVec 2) : Nat := match w.toNat with | 2 => 2 | 3 => 4 | _ => 1

/-- The registers of an FCVT operand: of type `t`, in form `x`, as the side that is FP32 in a block form or not. -/
def fcvtRegs (other t : Nat) (x : BitVec 1) : Nat :=
  if x = 0 then (if t == 0 then 2 else 1)
  else if t == 1 then (if 4 ≤ other && other ≤ 6 then 8 else 2)
  else if t == 4 || t == 5 then 3
  else if t == 6 then 2
  else 1

/-- The operands read under HIMM or without it: A, and B where it is a register. -/
def rspans (k : Kernel) (h : Hints) (a b : BitVec 7) (n m : Nat) : List RegSpan :=
  if h.himm.isSome then [vspan k a n] else [vspan k a n, vspan k b m]

/-- What a word reads and writes in each lane, from its encoded operands. `ctl` is the matrix control pair (15). -/
def spans (k : Kernel) (h : Hints) (ctl : Nat) (i : Instr) : List RegSpan × List RegSpan :=
  let v := fun (r : BitVec 7) (n : Nat) => vspan k r n
  let v6 := fun (r : BitVec 6) (n : Nat) => vspan k r n
  match i with
  | .iaddR _ d a b _ | .isub _ d a b _ | .imulR _ d a b _ | .shlR _ d a b _ | .rot _ d a b _ | .andR _ d a b _ | .orR _ d a b _
  | .xorR _ d a b _ => (rspans k h a b 1 1, [v d 1])
  | .imad _ d a b _ | .bfi _ d a b _ => (v d 1 :: rspans k h a b 1 1, [v d 1])
  | .iadd64 _ d a b _ => (rspans k h a b 2 2, [v d 2])
  | .iaddI _ d a _ | .imulI _ d a _ | .andI _ d a _ | .orI _ d a _ | .xorI _ d a _ | .shlI _ d a _ | .shrNI _ d a _ | .shrSI _ d a _ =>
    ([v a 1], [v d 1])
  | .imulh _ d a b _ | .imin _ d a b _ | .imax _ d a b _ | .shrR _ d a b _ | .bfx _ d a b _ => ([v a 1, v b 1], [v d 1])
  | .imadw _ d a b _ => ([v a 1, v b 1, v d 2], [v d 2])
  | .iabs _ d a | .ineg _ d a | .notW _ d a | .popc _ d a | .clz _ d a | .brev _ d a | .mov _ d a => ([v a 1], [v d 1])
  | .lut3 _ d a b => ([v a 1, v b 1, v d 1], [v d 1])
  | .leaX1X2 _ d a b _ | .leaX4X8 _ d a b _ => ([v a 2, v b 1], [v d 2])
  | .movi _ d _ => ([], [v d 1])
  | .icmpR _ _ _ a b | .fcmpF32 _ _ _ a b | .fcmpF16 _ _ _ a b => ([v a 1, v b 1], [])
  | .icmpI _ _ _ a _ => ([v a 1], [])
  | .fcmpF64 _ _ _ a b => ([v a 2, v b 2], [])
  | .p2v _ d | .pmask _ d _ _ => ([], [v d 1])
  | .v2p _ a | .ssetFflags _ a | .ssetFrnd _ a | .ssetFtrap _ a => ([v a 1], [])
  | .sel _ d a _ _ => ([v a 1], [v d 1])
  | .calli _ a => ([v a 2], [])
  | .lperm _ _ c a b => (if c.getLsbD 2 then [v a 1] else [v a 1, v b 1], [v a 1])
  | .qxchH _ d a | .qxchV _ d a | .qxchD _ d a | .qbcast _ d a _ | .xred _ d a _ => ([v a 1], [v d 1])
  | .smov _ d m => ([], [v d (if m = 0x12 || m = 0x13 then 2 else 1)])
  | .ldGB8 _ t a _ _ _ | .ldGB16 _ t a _ _ _ | .ldGB32 _ t a _ _ _ => ([v a 2], [v t 1])
  | .ldGB64 _ t a _ _ _ => ([v a 2], [v t 2])
  | .ldGB128 _ t a _ _ _ => ([v a 2], [v t 4])
  | .stGB8 _ t a _ _ | .stGB16 _ t a _ _ | .stGB32 _ t a _ _ => ([v a 2, v t 1], [])
  | .stGB64 _ t a _ _ => ([v a 2, v t 2], [])
  | .stGB128 _ t a _ _ => ([v a 2, v t 4], [])
  | .ldL _ t a _ w | .ldc _ t a _ w | .ldt _ t a _ w => ([v a 2], [v t (widthRegs w)])
  | .stL _ t a w | .stT _ t a w => ([v a 2, v t (widthRegs w)], [])
  | .atomAdd _ t a _ _ _ | .atomAnd _ t a _ _ _ | .atomOr _ t a _ _ _ | .atomXor _ t a _ _ _ | .atomMinN _ t a _ _ _
  | .atomMinS _ t a _ _ _ | .atomMaxN _ t a _ _ _ | .atomMaxS _ t a _ _ _ | .atomExch _ t a _ _ _ | .atomInc _ t a _ _ _
  | .atomFaddF32 _ t a _ _ _ => ([⟨k.vwv + 8 * a.toNat, 8⟩, v6 t 1], [v6 t 1])
  | .atomCas _ t a _ _ _ => ([⟨k.vwv + 8 * a.toNat, 8⟩, v6 t 2], [v6 t 1])
  | .redAdd _ t a _ _ | .redAnd _ t a _ _ | .redOr _ t a _ _ | .redXor _ t a _ _ | .redMinN _ t a _ _ | .redMinS _ t a _ _
  | .redMaxN _ t a _ _ | .redMaxS _ t a _ _ | .redInc _ t a _ _ | .redFaddF32 _ t a _ _ => ([⟨k.vwv + 8 * a.toNat, 8⟩, v6 t 1], [])
  | .arrive _ a | .unlock _ a => ([v a 2], [])
  | .waitc _ d a => ([v d 1, v a 2], [])
  | .launch _ d a _ => ([v a 2], [v d 2])
  | .cp _ d a => ([v d 2, v a 4], [])
  | .cpclose _ d _ => ([], [v d 1])
  | .cpwait _ d => ([v d 1], [])
  | .preq _ d a => ([v d 2, v a 2], [])
  | .lock _ d a _ => ([v a 2], [v d 1])
  | .stmap _ a => ([v a 4], [])
  | .stunmap _ a | .stflush _ a => ([v a 1], [])
  | .lsaddF32 _ d a | .lsaddI32 _ d a => ([v a 2, v d 1], [])
  | .fadd _ d a b _ | .fsub _ d a b _ | .fmul _ d a b _ => ([v a 1, v b 1], [v d 1])
  | .ffma _ d a b _ => ([v a 1, v b 1, v d 1], [v d 1])
  | .faddF64 _ d a b | .fsubF64 _ d a b | .fmulF64 _ d a b | .fminF64 _ d a b | .fmaxF64 _ d a b | .fminnumF64 _ d a b
  | .fmaxnumF64 _ d a b => ([v a 2, v b 2], [v d 2])
  | .ffmaF64 _ d a b => ([v a 2, v b 2, v d 2], [v d 2])
  | .fminF32 _ d a b | .fmaxF32 _ d a b | .fminnumF32 _ d a b | .fmaxnumF32 _ d a b | .vrsqe _ d a b => ([v a 1, v b 1], [v d 1])
  | .fscale _ d a b x => if x = 0 then ([v a 1, v b 1], [v d 1]) else ([v a 2, v b 1], [v d 2])
  | .fdivF32 _ d a _ => ([v d 1, v a 1], [v d 1])
  | .fdivF64 _ d a _ => ([v d 2, v a 2], [v d 2])
  | .fsqrtF32 _ d a _ | .frcpF32 _ d a _ | .fexp2F32 _ d a _ | .flog2F32 _ d a _ | .fsinF32 _ d a _ | .fcosF32 _ d a _ => ([v a 1], [v d 1])
  | .fsqrtF64 _ d a _ | .frcpF64 _ d a _ => ([v a 2], [v d 2])
  | .frndF32 _ d a | .fclassF32 _ d a => ([v a 1], [v d 1])
  | .frndF64 _ d a => ([v a 2], [v d 2])
  | .fclassF64 _ d a => ([v a 2], [v d 1])
  | .fjoin _ d a => ([v a 4], [v d 2])
  | .fsplitRow _ d a _ => ([v a 2], [v d 5])
  | .fsplitCol _ d a _ => ([v a 2, ⟨k.vwv + 4 * d.toNat + 16, 4⟩], [v d 4])
  | .fcvt _ d a s t _ x => ([v a (fcvtRegs t.toNat s.toNat x)], [v d (fcvtRegs s.toNat t.toNat x)])
  | .pbind _ d a _ => ([v a 2], [v d 1])
  | .pstale _ d a _ | .pstat _ d a _ => ([v a 1], [v d 2])
  | .psettle _ a _ _ | .punbind _ a _ _ => ([v a 1], [])
  | .psettleAsync _ d a _ _ => ([v d 2, v a 1], [])
  | .prefresh _ d a _ _ => ([v d 1, v a 1], [])
  | .skadd _ d a => ([v d 3, v a 2], [])
  | .skqry _ d a _ => ([v d 2, v a 2], [v d 1])
  | .skinit _ a => ([v a 2], [])
  | .skscale _ d a => ([v d 1, v a 2], [])
  | .skstat _ d a _ => ([v a 2], [v d 1])
  | .skmerge _ d a s => ([v a 2, v d (if s = 1 then 4 else 2)], [])
  | .rtag _ _ _ _ | .runtag _ _ _ => ([], [])
  | .hrd _ d a _ w => ([v a 1], [v d (if w = 1 then 2 else 1)])
  | .hwr _ d a w => ([v a 1, v d (if w = 1 then 2 else 1)], [])
  | .eretC _ a => ([v a 2], [])
  | .tlbinv _ a | .ebudSet _ a => ([v a 2], [])
  | .ebudRd _ d _ => ([], [v d 2])
  | .stopr _ d a _ => ([v a 1], [v d 1])
  | i => matrixSpans k ctl i

/-- Whether two byte ranges meet. -/
def RegSpan.meets (p q : RegSpan) : Bool := p.size != 0 && q.size != 0 && p.off < q.off + q.size && q.off < p.off + p.size

/-- The lookahead test of R38 against one open window: no read of a byte it writes, no write of a byte it reads or writes. -/
def Window.breach (w : Window) (reads writes : List RegSpan) : Bool :=
  reads.any (fun r => w.writes.any r.meets) || writes.any (fun r => w.writes.any r.meets || w.reads.any r.meets)

/-- The words that wait for every pending result of their slot and are not themselves checked (R39). -/
def waitsPending : Instr → Bool
  | .brd .. | .call .. | .calli .. | .ret .. | .exit .. | .kill .. | .bar .. | .waitc .. | .cpwait .. | .mwait .. => true
  | .eretC .. | .eretX .. => true
  | _ => false

end Sys2Proof.Machine
end

