-- ==== Sys2Proof/Machine/Flags.lean ====
section
/-! DEFINITION. Number formats, exact values, the one rounding of every operation, and its flags (13, R231–R248). -/

namespace Sys2Proof.Machine

/-! ### Flags (02, Table 2-7) -/

def flagNV : BitVec 7 := 1
def flagDZ : BitVec 7 := 2
def flagOF : BitVec 7 := 4
def flagUF : BitVec 7 := 8
def flagNX : BitVec 7 := 16
def flagCLAMP : BitVec 7 := 32
def flagXL : BitVec 7 := 64

/-- The trap that flags and signalling inputs cause under FTRAP: the first of SN, NV, DZ, OF, UF, NX (R242, Table 17-1). -/
def trapCause (ftrap : BitVec 6) (sn : Bool) (flags : BitVec 7) : Option Nat :=
  if sn && ftrap.getLsbD 5 then some 0
  else ((List.range 5).find? (fun b => ftrap.getLsbD b && flags.getLsbD b)).map (· + 1)

/-! ### Formats (Table 13-1) -/

/-- A floating-point format: width, fraction bits, bias; E4M3 has one NaN pattern and no infinity, E2M1 neither. -/
structure Fmt where
  width : Nat
  p : Nat
  bias : Nat
  noInf : Bool
  noNan : Bool
  deriving DecidableEq, Repr

def fp64 : Fmt := ⟨64, 52, 1023, false, false⟩
def fp32 : Fmt := ⟨32, 23, 127, false, false⟩
def fp16 : Fmt := ⟨16, 10, 15, false, false⟩
def bf16 : Fmt := ⟨16, 7, 127, false, false⟩
def e4m3 : Fmt := ⟨8, 3, 7, true, false⟩
def e5m2 : Fmt := ⟨8, 2, 15, false, false⟩
def e2m1 : Fmt := ⟨4, 1, 1, true, true⟩

def Fmt.ebits (f : Fmt) : Nat := f.width - 1 - f.p
/-- All exponent bits ones. -/
def Fmt.emax (f : Fmt) : Nat := 2 ^ f.ebits - 1
def Fmt.sign (f : Fmt) (neg : Bool) : Nat := if neg then 2 ^ (f.width - 1) else 0
/-- The largest finite pattern, without sign. -/
def Fmt.maxBits (f : Fmt) : Nat := if f.noNan then 2 ^ (f.width - 1) - 1 else if f.noInf then 2 ^ (f.width - 1) - 2 else f.emax * 2 ^ f.p - 1
/-- The default NaN (R232). -/
def Fmt.defaultNan (f : Fmt) : Nat := if f.noInf then f.emax * 2 ^ f.p + (2 ^ f.p - 1) else f.emax * 2 ^ f.p + 2 ^ (f.p - 1)
/-- The infinity of a sign, or what stands for it: the NaN of the sign in E4M3 (R239). -/
def Fmt.infBits (f : Fmt) (neg : Bool) : Nat := f.sign neg + (if f.noInf then f.defaultNan else f.emax * 2 ^ f.p)

/-- A value: a NaN with sign and fraction of `p` bits, an infinity, or the number (−1)^neg · n/d (d positive). -/
inductive FVal where
  | nan (neg : Bool) (frac p : Nat)
  | inf (neg : Bool)
  | num (neg : Bool) (n d : Nat)
  deriving DecidableEq, Repr

/-- The value of a pattern (R231). -/
def Fmt.value (f : Fmt) (x : Nat) : FVal :=
  let neg := x / 2 ^ (f.width - 1) % 2 == 1
  let e := x / 2 ^ f.p % 2 ^ f.ebits
  let fr := x % 2 ^ f.p
  let finite : FVal :=
    let m := if e == 0 then fr else fr + 2 ^ f.p
    let s := (if e == 0 then 1 else e)
    if f.bias + f.p ≤ s then .num neg (m * 2 ^ (s - f.bias - f.p)) 1 else .num neg m (2 ^ (f.bias + f.p - s))
  if e != f.emax || f.noNan then finite
  else if f.noInf then (if fr == 2 ^ f.p - 1 then .nan neg fr f.p else finite)
  else if fr == 0 then .inf neg else .nan neg fr f.p

/-- Whether a value is a NaN, and whether it is signalling: its top fraction bit is 0 (R232). -/
def FVal.isNan : FVal → Bool
  | .nan .. => true
  | _ => false
def FVal.isSnan : FVal → Bool
  | .nan _ fr p => fr / 2 ^ (p - 1) % 2 == 0
  | _ => false
def FVal.isFinite : FVal → Bool
  | .num .. => true
  | _ => false
def FVal.isZero : FVal → Bool
  | .num _ n _ => n == 0
  | _ => false
def FVal.isNeg : FVal → Bool
  | .nan s _ _ => s
  | .inf s => s
  | .num s _ _ => s
def FVal.negate : FVal → FVal
  | .nan s f p => .nan (!s) f p
  | .inf s => .inf (!s)
  | .num s n d => .num (!s) n d

/-- A NaN delivered in a format: quieted, its sign and highest fraction bits kept (R233). -/
def Fmt.nanBits (f : Fmt) (neg : Bool) (fr p : Nat) : Nat :=
  let q := if fr / 2 ^ (p - 1) % 2 == 0 then fr + 2 ^ (p - 1) else fr
  if f.noInf then f.sign neg + f.defaultNan
  else f.sign neg + f.emax * 2 ^ f.p + (if p ≤ f.p then q * 2 ^ (f.p - p) else q / 2 ^ (p - f.p))

/-! ### Rounding (R239, R240) -/

/-- The modes of R239, encoded as FRND (Table 2-7). -/
inductive Mode where
  | rne | rtz | rup | rdn | rna
  deriving DecidableEq, Repr

def Mode.ofBits (b : BitVec 3) : Mode :=
  match b.toNat with
  | 0 => .rne
  | 1 => .rtz
  | 2 => .rup
  | 3 => .rdn
  | _ => .rna

/-- The finaliser MIX64 (14, R254). -/
def mix64 (z : BitVec 64) : BitVec 64 :=
  let z := (z ^^^ (z >>> 30)) * 0xBF58476D1CE4E5B9#64
  let z := (z ^^^ (z >>> 27)) * 0x94D049BB133111EB#64
  z ^^^ (z >>> 31)

/-- How a result is rounded: the mode, saturation, and the seed and element index of stochastic rounding. -/
structure Rounding where
  mode : Mode
  sat : Bool
  sr : Option (Nat × Nat)
  deriving DecidableEq, Repr

/-- Rounding in a mode and nothing else. -/
def Rounding.plain (m : Mode) : Rounding := ⟨m, false, none⟩

/-- Whether a quotient with remainder r of den, floor m, is taken up (away from zero). -/
def Rounding.up (k : Rounding) (neg : Bool) (m r den : Nat) : Bool :=
  match k.sr with
  | some (seed, i) =>
    let u := (mix64 (BitVec.ofNat 64 (seed * 2 ^ 48 + i % 2 ^ 48))).toNat / 2 ^ 32
    decide (u < 2 ^ 32 * r / den)
  | none => match k.mode with
    | .rne => 2 * r > den || (2 * r == den && m % 2 == 1)
    | .rtz => false
    | .rup => !neg && r != 0
    | .rdn => neg && r != 0
    | .rna => 2 * r ≥ den

/-- Floor of log2 (n/d), n and d positive. -/
def ilog2 (n d : Nat) : Int :=
  let e : Int := (n.log2 : Int) - (d.log2 : Int)
  let less := if 0 ≤ e then decide (n < d * 2 ^ e.toNat) else decide (n * 2 ^ (-e).toNat < d)
  if less then e - 1 else e

/-- n/d in units of 2^q: floor and remainder over a denominator. -/
def quantum (n d : Nat) (q : Int) : Nat × Nat × Nat :=
  let (a, b) := if 0 ≤ q then (n, d * 2 ^ q.toNat) else (n * 2 ^ (-q).toNat, d)
  (a / b, a % b, b)

/-- The result of an operation: the pattern, the flags, and whether a signalling NaN went in. -/
structure FRes where
  bits : Nat
  flags : BitVec 7
  sn : Bool
  deriving DecidableEq, Repr

/-- The one rounding of (−1)^neg · n/d into a format, with the flags of Table 13-3; tininess is detected after rounding. -/
def Fmt.round (f : Fmt) (k : Rounding) (neg : Bool) (n d : Nat) : Nat × BitVec 7 :=
  if n == 0 then (f.sign neg, 0) else
  let e := ilog2 n d
  let emin : Int := 1 - (f.bias : Int)
  let q : Int := (if emin ≤ e then e else emin) - f.p
  let (m, r, den) := quantum n d q
  let m' := if k.up neg m r den then m + 1 else m
  let inexact := r != 0
  let tiny :=
    if emin ≤ e then false
    else if k.sr.isSome then decide (0 < m' && m' < 2 ^ f.p)
    else
      let (mu, ru, du) := quantum n d (e - f.p)
      let mu' := if k.up neg mu ru du then mu + 1 else mu
      !(e == emin - 1 && mu' == 2 ^ (f.p + 1))
  let (m2, q2) := if m' == 2 ^ (f.p + 1) then (2 ^ f.p, q + 1) else (m', q)
  let body : Nat := if m2 < 2 ^ f.p then m2 else (q2 + f.p + f.bias).toNat * 2 ^ f.p + (m2 - 2 ^ f.p)
  if body > f.maxBits then
    let toInf := match k.sr with
      | some _ => true
      | none => match k.mode with
        | .rne => true
        | .rna => true
        | .rtz => false
        | .rup => !neg
        | .rdn => neg
    (if k.sat || f.noNan || !toInf then f.sign neg + f.maxBits else f.infBits neg, flagOF ||| flagNX)
  else (f.sign neg + body, (if inexact then flagNX else 0) ||| (if tiny && inexact then flagUF else 0))

/-- An exact result before rounding: invalid, an infinity (with DZ or not), or a number. -/
inductive Exact where
  | invalid
  | inf (neg dz : Bool)
  | num (neg : Bool) (n d : Nat)
  deriving DecidableEq, Repr

/-- Deliver a result: the first NaN operand quieted, the default NaN of an invalid operation, an infinity, or the rounded number
(R233, R239, R241). -/
def Fmt.deliver (f : Fmt) (k : Rounding) (ins : List FVal) (x : Exact) : FRes :=
  let sn := ins.any FVal.isSnan
  match ins.find? FVal.isNan with
  | some (.nan s fr p) => ⟨f.nanBits s fr p, if sn then flagNV else 0, sn⟩
  | _ => match x with
    | .invalid => ⟨f.defaultNan, flagNV, false⟩
    | .inf neg dz => ⟨f.infBits neg, if dz then flagDZ else 0, false⟩
    | .num neg n d => let (b, fl) := f.round k neg n d; ⟨b, fl, false⟩

/-- The exact sum; an exact zero sum of unlike zeros is +0, or −0 when rounding toward −∞ (IEEE 754). -/
def exactAdd (m : Mode) (a b : FVal) : Exact :=
  match a, b with
  | .inf s, .inf t => if s == t then .inf s false else .invalid
  | .inf s, _ => .inf s false
  | _, .inf t => .inf t false
  | .num s n d, .num t n' d' =>
    let x : Int := (if s then -(n : Int) else n) * d' + (if t then -(n' : Int) else n') * d
    if x == 0 then
      (if n == 0 && n' == 0 && s == t then .num s 0 1 else .num (m == .rdn) 0 1)
    else .num (x < 0) x.natAbs (d * d')
  | _, _ => .invalid

/-- The exact product. -/
def exactMul (a b : FVal) : Exact :=
  match a, b with
  | .num s n d, .num t n' d' => .num (s != t) (n * n') (d * d')
  | .nan .., _ => .invalid
  | _, .nan .. => .invalid
  | x, y => if x.isZero || y.isZero then .invalid else .inf (x.isNeg != y.isNeg) false

/-- The exact A·B + D. -/
def exactFma (m : Mode) (a b d : FVal) : Exact :=
  match exactMul a b with
  | .invalid => .invalid
  | .inf s _ => exactAdd m (.inf s) d
  | .num s n k => exactAdd m (.num s n k) d

/-- The exact quotient (IEEE 754): x/0 raises DZ, 0/0 and ∞/∞ are invalid. -/
def exactDiv (a b : FVal) : Exact :=
  match a, b with
  | .inf _, .inf _ => .invalid
  | .inf s, y => .inf (s != y.isNeg) false
  | x, .inf t => .num (x.isNeg != t) 0 1
  | .num s n d, .num t n' d' =>
    if n' == 0 then (if n == 0 then .invalid else .inf (s != t) true)
    else .num (s != t) (n * d') (d * n')
  | _, _ => .invalid

/-- One bit of an integer square root after another. -/
def isqrtGo (n : Nat) : Nat → Nat → Nat
  | 0, r => r
  | k + 1, r => let t := r + 2 ^ k; isqrtGo n k (if t * t ≤ n then t else r)

/-- The integer square root. -/
def isqrt (n : Nat) : Nat := isqrtGo n (n.log2 / 2 + 1) 0

/-- The square root of n/d: exact where it is, else a number strictly between the neighbours that 90 bits tell apart. -/
def sqrtRat (n d : Nat) : Nat × Nat :=
  let k := 90 + (d.log2 + 2) / 2
  let a := n * 2 ^ (2 * k)
  let s := isqrt (a / d)
  if s * s * d == a then (s, 2 ^ k) else (2 * s + 1, 2 ^ (k + 1))

/-- The exact square root: of −0 it is −0, of another negative number invalid. -/
def exactSqrt (a : FVal) : Exact :=
  match a with
  | .inf s => if s then .invalid else .inf false false
  | .num s n d => if n == 0 then .num s 0 1 else if s then .invalid else let (x, y) := sqrtRat n d; .num false x y
  | .nan .. => .invalid

/-- How two values compare: less, equal, greater, or unordered. -/
inductive Cmp where
  | lt | eq | gt | un
  deriving DecidableEq, Repr

def FVal.cmp (a b : FVal) : Cmp :=
  match a, b with
  | .nan .., _ => .un
  | _, .nan .. => .un
  | .inf s, .inf t => if s == t then .eq else if s then .lt else .gt
  | .inf s, _ => if s then .lt else .gt
  | _, .inf t => if t then .gt else .lt
  | .num s n d, .num t n' d' =>
    let x : Int := (if s then -(n : Int) else n) * d'
    let y : Int := (if t then -(n' : Int) else n') * d
    if x < y then .lt else if x == y then .eq else .gt

/-- A value rounded to an integer in a mode: sign and magnitude, and whether it was inexact. -/
def roundInt (m : Mode) (neg : Bool) (n d : Nat) : Nat × Bool :=
  let q := n / d
  let r := n % d
  (if (Rounding.plain m).up neg q r d then q + 1 else q, r != 0)

/-- The rounding that FADD and the like use: FRND or HRND (R239). -/
def Env.rounding (e : Env) : Rounding := .plain (Mode.ofBits e.mode)

/-- The rounding of an HSAT consumer with element index i (R239, R240). -/
def Env.satRounding (e : Env) (i : Nat) : Rounding :=
  match e.hints.hsat with
  | none => e.rounding
  | some (sat, sr, seed) => ⟨Mode.ofBits e.mode, sat, if sr then some (seed.toNat, i) else none⟩

/-- One IEEE 754 addition of FP32 rounded RNE with the default NaN for every NaN, as an atomic does it (11, R202). -/
def fadd32Rne (a b : Word) : Word :=
  let x := fp32.value a.toNat
  let y := fp32.value b.toNat
  if x.isNan || y.isNan then 0x7FC00000
  else BitVec.ofNat 32 (fp32.deliver (.plain .rne) [] (exactAdd .rne x y)).bits

/-! ### EXA128 (R244–R247) -/

/-- An EXA128 row: its exponent (0x8000 EMPTY, 0x7FFF NONFIN) and its slots. -/
structure ExaRow where
  x : BitVec 16
  slots : List Int
  deriving DecidableEq, Repr

def exaEmpty : BitVec 16 := 0x8000
def exaNonfin : BitVec 16 := 0x7FFF

def fits128 (n : Int) : Bool := -((2 ^ 127 : Nat) : Int) ≤ n && n < ((2 ^ 127 : Nat) : Int)

/-- The largest k at most `lim` such that a slot shifted left by k fits: 0 fits always, and -1 down to -2^127. -/
def slotRoom (lim : Nat) (n : Int) : Nat :=
  if n == 0 then lim else if n == -1 then min lim 127 else min lim (126 - (if n < 0 then (-n - 1).toNat else n.toNat).log2)

/-- The largest k at most `lim` such that every slot shifted left by k fits. -/
def roomLeft (slots : List Int) (lim : Nat) : Nat := slots.foldl (fun m n => min m (slotRoom lim n)) lim

/-- The least g such that every slot fits after an arithmetic shift right by g. -/
def growth (slots : List Int) : Nat :=
  let top := slots.foldl (fun m n => max m (if n < 0 then (-n - 1).toNat else n.toNat)) 0
  if top == 0 then 0 else top.log2 + 1 - 127

/-- Arithmetic shift right: floor of a division by a power of two. -/
def shrInt (n : Int) (k : Nat) : Int := n / ((2 ^ k : Nat) : Int)

/-- One add of T·2^Y into slot j (R245); the flag says that a nonzero bit was discarded or the row became NONFIN. -/
def ExaRow.add (r : ExaRow) (j : Nat) (t y : Int) : ExaRow × Bool :=
  if r.x == exaNonfin then (r, false) else
  let (x0, slots) : Int × List Int :=
    if r.x == exaEmpty then (max (-32767) (min y 32766), r.slots.map (fun _ => 0)) else (r.x.toInt, r.slots)
  let k := if y < x0 then roomLeft slots (min (x0 - y).toNat (x0 + 32767).toNat) else 0
  let slots := slots.map (· * ((2 ^ k : Nat) : Int))
  let x1 : Int := x0 - k
  let term : Int := if x1 ≤ y then t * ((2 ^ (y - x1).toNat : Nat) : Int) else shrInt t (x1 - y).toNat
  let lost := decide (y < x1) && term * ((2 ^ (x1 - y).toNat : Nat) : Int) != t
  let sum := slots.getD j 0 + term
  let slots' := setNth slots j sum
  let g := growth slots'
  if g == 0 then (⟨BitVec.ofInt 16 x1, slots'⟩, lost)
  else if x1 + g > 32766 then (⟨exaNonfin, slots⟩, true)
  else
    let shifted := slots'.map (fun n => shrInt n g)
    let cut := slots'.any (fun n => shrInt n g * ((2 ^ g : Nat) : Int) != n)
    (⟨BitVec.ofInt 16 (x1 + g), shifted⟩, lost || cut)

/-- The value of a slot: +0 in an EMPTY row, none in a NONFIN one (R247). -/
def exaValue (x : BitVec 16) (n : Int) : Option FVal :=
  if x == exaNonfin then none
  else if x == exaEmpty then some (.num false 0 1)
  else
    let e := x.toInt
    some (if 0 ≤ e then .num (n < 0) (n.natAbs * 2 ^ e.toNat) 1 else .num (n < 0) n.natAbs (2 ^ (-e).toNat))

/-- A slot rounded out into a format (R247). -/
def exaRound (f : Fmt) (k : Rounding) (x : BitVec 16) (n : Int) : Nat × BitVec 7 :=
  match exaValue x n with
  | some (.num s a b) => f.round k s a b
  | _ => (f.defaultNan, 0)

/-- A finite value as T·2^Y, for an exact term. Which T and Y stand for a value decides the row exponent and the slots of a row that was EMPTY (R245): that T
is the numerator as it was unpacked or multiplied, not reduced, and Y the negative of its denominator's exponent, 0 for a whole number, is the model's choice
where no rule names them: an FP64 element of MLD (15, R295) and a term of the Thermos (04, R54; log 68). -/
def FVal.dyadic : FVal → Option (Int × Int)
  | .num s n d => some (if s then -(n : Int) else n, -(d.log2 : Int))
  | _ => none

/-! ### Scaled elements (R235–R238) -/

/-- The value of an E3M5 block scale; `none` marks an invalid block. -/
def e3m5 (b : Nat) : Option (Nat × Nat) :=
  if b == 0xFF then none else
  let e := b / 32
  let m := 32 + b % 32
  some (if 8 ≤ e then (m * 2 ^ (e - 8), 1) else (m, 2 ^ (8 - e)))

/-- A quotient rounded up into E3M5, at least 0x00 = 0.125 (R237). -/
def e3m5Up (n d : Nat) : Nat :=
  ((List.range 255).find? (fun b => match e3m5 b with
    | some (p, q) => n * q ≤ p * d
    | none => false)).getD 0xFE

/-- The largest magnitude of each scaled element format (R237). -/
def scaledMax (f : Fmt) : Nat := if f.width == 4 then 6 else if f.noInf then 448 else 57344

/-- The largest magnitude over finite values, as a fraction. -/
def largest (xs : List FVal) : Nat × Nat :=
  xs.foldl (fun m x => match x with
    | .num _ n d => if m.1 * d < n * m.2 then (n, d) else m
    | _ => m) (0, 1)

/-- The band scale of a band's elements as a BF16 pattern (R237). -/
def bandScale (f : Fmt) (xs : List FVal) : Nat :=
  let (n, d) := largest xs
  if n == 0 then 0x3F80 else (bf16.round (.plain .rup) false n (d * (scaledMax f * 31))).1

/-- The block scale of a block (R237): 0xFF where it holds an infinity or a NaN (R238). -/
def quantScale (f : Fmt) (band : Nat) (xs : List FVal) : Nat :=
  if xs.any (fun x => !x.isFinite) then 0xFF else
  match bf16.value band with
  | .num _ bn bd => let (n, d) := largest xs; e3m5Up (n * bd) (d * (scaledMax f * bn))
  | _ => 0xFF

/-- The elements of a block under its scales, each with its flags (R237, R238). -/
def quantElems (f : Fmt) (band sc : Nat) (sr : Nat → Option (Nat × Nat)) (xs : List FVal) : List (Nat × BitVec 7) :=
  match e3m5 sc, bf16.value band with
  | some (p, q), .num _ bn bd => (xs.zip (List.range xs.length)).map (fun (x, i) => match x with
      | .num s a b => let r := f.round ⟨.rne, false, sr i⟩ s (a * q * bd) (b * p * bn); (r.1, r.2 &&& flagNX)
      | _ => (0, 0))
  | _, _ => xs.map (fun _ => (0, flagNV))

/-- A quantised block: the scale byte, the element patterns, the flags, and whether a signalling NaN went in (R237, R238). -/
def quantBlock (f : Fmt) (band : Nat) (sr : Nat → Option (Nat × Nat)) (xs : List FVal) : Nat × List Nat × BitVec 7 × Bool :=
  let sc := quantScale f band xs
  let es := quantElems f band sc sr xs
  (sc, es.map (fun e => e.1), es.foldl (fun m e => m ||| e.2) 0, xs.any FVal.isSnan)

/-- The worth of a scaled element: of an invalid block, an invalid product (∞ · 0), or a value (R235). -/
inductive Worth where
  | block
  | invalid
  | value (x : FVal)
  deriving DecidableEq, Repr

/-- The exact worth of a scaled element: element · blockscale · bandscale. -/
def scaledWorth (f : Fmt) (band block elem : Nat) : Worth :=
  match e3m5 block with
  | none => .block
  | some (p, q) =>
    match f.value elem, bf16.value band with
    | .nan s fr pp, _ => .value (.nan s fr pp)
    | _, .nan s fr pp => .value (.nan s fr pp)
    | .num s a b, .num t bn bd => .value (.num (s != t) (a * p * bn) (b * q * bd))
    | x, y => if x.isZero || y.isZero then .invalid else .value (.inf (x.isNeg != y.isNeg))

end Sys2Proof.Machine
end

