-- ==== Sys2Proof/Machine/Translate.lean ====
section
/-! DEFINITION. Physical regions and homes (10, R171, R172), the page-table walk and where translations are held (R180–R184). -/

namespace Sys2Proof.Machine

/-- The regions of the physical space (Table 10-2). -/
inductive Region where
  | hbm | deep | system | reserved
  deriving DecidableEq, Repr

/-- The region of a physical address (Table 10-2). -/
def regionOf (pa : Nat) : Region :=
  if pa < hbmSize then .hbm
  else if deepBase ≤ pa && pa < deepEnd then .deep
  else if systemBase ≤ pa && pa < 2 ^ 52 then .system
  else .reserved

/-- The slice of a home on its die (R172). -/
def homeSlice (pa : Nat) : Nat := 8 * (homeStack pa % 3) + Nat.xor (pa / 2 ^ 8) (pa / 2 ^ 15) % 8
/-- The byte of its stack at which an HBM address lies (R172). -/
def stackByte (pa : Nat) : Nat := (pa / 2 ^ 12) / 12 * 4096 + pa % 4096

/-- NODE and OFF of a system address (Table 18-1). -/
def sysNode (pa : Nat) : Nat := bits pa 40 11
def sysOff (pa : Nat) : Nat := pa % 2 ^ 40

/-- The levels of a walk (Table 10-4): lowest VA bit indexed, index bits, and whether a leaf may stand there. -/
def walkLevels : List (Nat × Nat × Bool) :=
  [(46, 10, false), (36, 10, false), (30, 6, true), (25, 5, true), (21, 4, true), (16, 5, true)]

/-- The leaf that an entry makes at a level, if it breaks none of R181. -/
def leafOf (ctx va lo e : Nat) : Option Leaf :=
  let size := 2 ^ lo
  let frame := bits e 16 36 * 2 ^ 16
  let res := bits e 2 1 == 1
  if bits e 7 9 != 0 || frame % size != 0 then none
  else if regionOf frame == .reserved || regionOf frame != regionOf (frame + size - 1) then none
  else if !res && regionOf frame != .deep then none
  else some ⟨ctx, va / size * size, lo, frame, res, bits e 3 1 == 1, bits e 4 1 == 1, bits e 5 1 == 1, bits e 6 1 == 1⟩

/-- The walk from a table, reading entries at their homes; cached non-leaf entries of the die serve where `cache` has them. The
answer is the leaf, with the non-leaf entries passed. -/
def walkFrom (mem : Mem) (ctx va : Nat) (cache : List WalkEntry) : List (Nat × Nat × Bool) → Nat → Nat → Option (Leaf × List WalkEntry)
  | [], _, _ => none
  | (lo, n, leafOk) :: rest, level, table =>
    let key := va / 2 ^ lo
    match cache.find? (fun w => w.ctx == ctx && w.level == level && w.key == key) with
    | some w => walkFrom mem ctx va cache rest (level + 1) w.next
    | none =>
      let e := mem.nat (table + 8 * bits va lo n) 8
      if bits e 0 1 == 0 then none
      else if bits e 1 1 == 1 then (if leafOk then (leafOf ctx va lo e).map (fun l => (l, [])) else none)
      else if bits e 2 5 != 0 || rest.isEmpty then none
      else
        let next := bits e 7 45 * 2 ^ 7
        (walkFrom mem ctx va cache rest (level + 1) next).map (fun r => (r.1, ⟨ctx, level, key, next⟩ :: r.2))

/-- The walk of a context's tables from the homes, without any cached entry (R183). -/
def State.walkHome (s : State) (ctx va : Nat) : Option Leaf :=
  match s.ctx? ctx with
  | none => none
  | some c => if va < 2 ^ 56 then (walkFrom s.mem ctx va [] walkLevels 0 c.args.root).map (·.1) else none

/-- What an access needs of its leaf (R181). -/
inductive Need where
  | read | write | code
  deriving DecidableEq, Repr

def Leaf.permits (l : Leaf) (n : Need) : Bool :=
  match n with
  | .read => true
  | .write => l.w
  | .code => l.x
def Leaf.covers (l : Leaf) (ctx va : Nat) : Bool := l.ctx == ctx && va / 2 ^ l.bits * 2 ^ l.bits == l.page
/-- The physical address under a leaf. -/
def Leaf.pa (l : Leaf) (va : Nat) : Nat := l.frame + va % 2 ^ l.bits

/-- The translation that an agent uses: a held one that permits the access, else the walk through the die's cache, else (before
a missing permission or a non-resident page counts) the walk from the homes (R182, R183). `none` is a protection fault. -/
def State.findLeaf (s : State) (ctx die : Nat) (held : List Leaf) (va : Nat) (n : Need) : Option Leaf :=
  let good := fun (l : Leaf) => l.permits n && l.res
  match held.find? (fun l => l.covers ctx va) with
  | some l => if good l then some l else (s.walkHome ctx va).filter (fun l => l.permits n)
  | none =>
    match s.ctx? ctx with
    | none => none
    | some c =>
      match if va < 2 ^ 56 then walkFrom s.mem ctx va (s.die die).walk walkLevels 0 c.args.root else none with
      | some (l, _) => if good l then some l else (s.walkHome ctx va).filter (fun l => l.permits n)
      | none => (s.walkHome ctx va).filter (fun l => l.permits n)

/-- Put a leaf into a translation holder of bounded size, in place of an older one of the same page. A full holder keeps those noted last: which one it
gives up is the model's choice (log 53). -/
def holdLeaf (size : Nat) (l : Leaf) (held : List Leaf) : List Leaf :=
  (l :: held.filter (fun k => !(k.ctx == l.ctx && k.page == l.page && k.bits == l.bits))).take size

/-- A core's translation is held in its TLB, and the non-leaf entries of its walk in the die's cache (R182). -/
def State.noteLeaf (s : State) (core : Nat) (l : Leaf) : State :=
  let c := s.core core
  if c.tlb.head? == some l then s else
  let s := s.setCore core { c with tlb := holdLeaf 2048 l c.tlb }
  match s.ctx? l.ctx with
  | none => s
  | some cx =>
    let d := s.die (dieOf core)
    match walkFrom s.mem l.ctx l.page [] walkLevels 0 cx.args.root with
    | none => s
    | some (_, ws) => s.setDie (dieOf core) { d with walk := (ws ++ d.walk).eraseDups }

/-- The translations that an engine holds; the distributor and other parts of the device hold none (R182). -/
def State.engineHeld (s : State) (u : Option StopUnit) : List Leaf := (s.engineTlb.find? (fun x => some x.1 == u)).elim [] (fun x => x.2)

/-- An engine's translation: its own cache, then the walk from the homes (R182, R183; log 53). -/
def State.engineLeaf (s : State) (u : Option StopUnit) (ctx va : Nat) (n : Need) : Option Leaf :=
  match (s.engineHeld u).find? (fun l => l.covers ctx va && l.permits n && l.res) with
  | some l => some l
  | none => (s.walkHome ctx va).filter (fun l => l.permits n)

/-- An engine holds the translation it used, of as many as a core's TLB (log 53). -/
def State.noteEngine (s : State) (u : Option StopUnit) (l : Leaf) : State :=
  match u with
  | none => s
  | some u => if (s.engineHeld (some u)).head? == some l then s else
      { s with engineTlb := (u, holdLeaf 2048 l (s.engineHeld (some u))) :: s.engineTlb.filter (fun x => x.1 != u) }

/-- Every translation of a page of a context, or of all its pages, leaves every holder: last-page registers, core TLBs, walk and
engine caches (R183; 17, R329). -/
def State.sweepTlb (s : State) (ctx : Nat) (page : Option Nat) : State :=
  let hit := fun (l : Leaf) => l.ctx == ctx && (match page with | none => true | some va => l.covers ctx va)
  let hitW := fun (w : WalkEntry) => w.ctx == ctx
  { s with
    groups := s.groups.map (fun g => { g with lanes := g.lanes.map (fun l =>
      match l.lastPage with
      | some p => if hit p then { l with lastPage := none } else l
      | none => l) })
    cores := s.cores.map (fun c => (c.1, { c.2 with tlb := c.2.tlb.filter (fun l => !hit l) }))
    dies := s.dies.map (fun d => { d with walk := d.walk.filter (fun w => !hitW w) })
    engineTlb := s.engineTlb.map (fun x => (x.1, x.2.filter (fun l => !hit l))) }

/-- The checks of R195 on one lane's global access: bits 63:56, alignment, translation and permission, reserved region. A leaf
with RES = 0 is answered as it is: the page is non-resident. -/
def State.checkAccess (s : State) (e : Env) (lane : Nat) (ea : DWord) (width : Nat) (n : Need) : Option Leaf :=
  let va := ea.toNat
  if 2 ^ 56 ≤ va then none
  else if va % width != 0 then none
  else
    let held := ((e.g.lane lane).lastPage).toList ++ (s.core e.g.core).tlb
    match s.findLeaf e.g.ctx (dieOf e.g.core) held va n with
    | none => none
    | some l => if regionOf (l.pa va) == .reserved then none else some l

/-- The system addresses of the writes and signals among messages, which a release and the other senders of such requests wait for. -/
def sentAll (ms : List Message) : List Nat :=
  ms.filterMap (fun m => match m with
    | .request node off (.write _) _ => some (systemBase + node * 2 ^ 40 + off)
    | .request node off .signal _ => some (systemBase + node * 2 ^ 40 + off)
    | _ => none)

/-- The system addresses of what was sent between two states, but for what a request of its own stands for. -/
def State.unheard (s t : State) : List Nat :=
  (sentAll (t.outbox.drop s.outbox.length)).filter (fun a => !t.requests.any (fun q => s.fresh ≤ q.id && q.job == .remoteWrite a))

/-- One of them: which it is that another device refuses, or does not answer, stands open. -/
def State.sentTo (s t : State) : Option Nat := oneOf s (s.unheard t)

/-- A request with the plane on which it is out. -/
def State.setSend (s : State) (id : Nat) (port since : Option Nat) : State :=
  { s with requests := mapWhere (fun r => r.id == id) (fun r => { r with port := port, since := since }) s.requests }

/-- A lane's access to a resident page: the lane holds the page's translation, and so does its core (R182). -/
def State.noteLane (s : State) (e : Env) (lane : Nat) (l : Leaf) : State :=
  (s.noteLeaf e.g.core l).updGroup e.g.gid (fun g => g.updLane lane (fun x => { x with lastPage := some l }))

/-- How writes and signals that an event sends to other devices fare (18, R333, R335): nothing waits for an answer any more, an answer is still to
come, or the request fails at an address, refused or not answered within 10 ms of its first attempt. -/
inductive Acked where
  | done
  | waits
  | fails (addr : Nat)
  deriving DecidableEq, Repr

/-- How a request to an address at another device fares, its first attempt having been at `since`, if there was one. -/
def State.fares (s : State) (remote : RemoteReply) (since : Option Nat) (a : Nat) : Acked :=
  match remote with
  | .data _ => .done
  | .refused => .fails a
  | .none => if (since.map (fun x => decide (x + 10000000 ≤ s.time))).getD false then .fails a else .waits

/-- How what was sent between two states fares. -/
def State.acked (s : State) (remote : RemoteReply) (since : Option Nat) (t : State) : Acked :=
  match s.sentTo t with
  | none => .done
  | some a => s.fares remote since a

/-- The event of a request takes place once other devices have acknowledged what it sends; until then the request has gone out. -/
def State.withAck (s : State) (r : Request) (remote : RemoteReply) (t : State) : State :=
  match s.acked remote r.since t with
  | .done => t
  | .waits => s.setSend r.id r.port (some (r.since.getD s.time))
  | .fails a => (s.engineFault r 0x06 a).setSend r.id r.port (some s.time)

/-- What the device sent to other devices on its own, for a launch of a context, stays outstanding until it is acknowledged (18, R333). -/
def State.track (s t : State) (ctx launch : Nat) : State :=
  (s.unheard t).foldl (fun t a =>
    ({ t with requests := t.requests ++ [⟨t.fresh, ctx, launch, 0, false, 0, 0, Hints.empty, .remoteWrite a, some t.time, none, 0xFFFF⟩] } : State).tick) t

/-- A word that sent bytes to another device at once has a request outstanding for each of them until it is acknowledged. -/
def Env.sends (e : Env) (s t : State) : State := (sentAll (t.outbox.drop s.outbox.length)).foldl (fun t a => e.submit (.remoteWrite a) t) t

end Sys2Proof.Machine
end

