-- ==== Sys2Proof/Machine/Capture.lean ====
section
/-! DEFINITION. Landing at the home: capture of differences, stores to a bound C, ALIAS, and the merge into poisoned words
(04, R46–R49, R54, R57–R59; 10, R192). -/

namespace Sys2Proof.Machine

/-- The formats of the type codes of R4. -/
def typeFmt (t : Nat) : Fmt :=
  match t with
  | 0 => fp32
  | 1 => fp16
  | 2 => bf16
  | 3 => e4m3
  | _ => e5m2
def typeSize (t : Nat) : Nat := (typeFmt t).width / 8

/-- The elements of an operand that hold the byte at a physical address: row, column, and the address of the element (R43). -/
def elemsAt (pages : List (Nat × Nat)) (base ld rows cols size pa : Nat) : List (Nat × Nat × Nat) :=
  pages.filterMap (fun pg =>
    if pg.2 ≤ pa && pa < pg.2 + 65536 then
      let va := pg.1 + (pa - pg.2)
      if va < base then none else
      let off := va - base
      let row := off / size / ld
      let col := off / size % ld
      if row < rows && col < cols then some (row, col, pa - off % size) else none
    else none)

def Binding.aAt (b : Binding) (pa : Nat) : List (Nat × Nat × Nat) :=
  elemsAt b.aPages b.desc.aBase b.desc.lda b.desc.m b.desc.k (typeSize b.desc.ta) pa
def Binding.bAt (b : Binding) (pa : Nat) : List (Nat × Nat × Nat) :=
  elemsAt b.bPages b.desc.bBase b.desc.ldb b.desc.k b.desc.n (typeSize b.desc.tb) pa
def Binding.cAt (b : Binding) (pa : Nat) : List (Nat × Nat × Nat) :=
  elemsAt b.cPages b.desc.cBase b.desc.ldc b.desc.m b.desc.n (typeSize b.desc.tc) pa

/-- Whether a physical page range holds an element of a binding (R45). -/
def Binding.holds (b : Binding) (lo size : Nat) : Bool :=
  b.live && (b.aPages ++ b.bPages ++ b.cPages).any (fun p => p.2 < lo + size && lo < p.2 + 65536)

/-- The line of C that a difference corrects (R57). -/
def Diff.line (d : Diff) : LineRef := if d.inB then ⟨true, d.col⟩ else ⟨false, d.row⟩

/-- An element's applied point (R50). -/
def Binding.point (b : Binding) (i j : Nat) : Nat := b.points.getD (i * b.desc.n + j) 0

/-- The elements of a line of C. -/
def Binding.cells (b : Binding) (l : LineRef) : List (Nat × Nat) :=
  if l.col then (List.range b.desc.m).map (fun i => (i, l.no)) else (List.range b.desc.n).map (fun j => (l.no, j))

/-- Whether a captured difference is not applied everywhere; a lost one counts until its line is refreshed (R66). -/
def Binding.stale (b : Binding) (d : Diff) : Bool :=
  if d.lost then decide ((if d.line.col then b.colQ else b.rowQ).getD d.line.no 0 < d.no)
  else (b.cells d.line).any (fun c => decide (b.point c.1 c.2 < d.no))

/-- The entries of the queue: captured, not lost, not yet applied (R57). -/
def Binding.occupancy (b : Binding) : Nat := (b.diffs.filter (fun d => !d.lost && b.stale d)).length

/-- Mark a line with the number of its latest lost difference. -/
def markLine (l : LineRef) (no : Nat) (ms : List (LineRef × Nat)) : List (LineRef × Nat) := (l, no) :: ms.filter (fun m => m.1 != l)

/-- Record one changed element (R46, R47, R57): lost where the old value is poisoned or the queue is full. -/
def Binding.record (b : Binding) (time : Nat) (inB : Bool) (row col old new : Nat) (poisoned : Bool) : Binding :=
  let full := b.occupancy ≥ b.desc.queue
  let d : Diff := ⟨b.lastNo + 1, inB, row, col, old, new, full || poisoned, full, false⟩
  let b := { b with diffs := b.diffs ++ [d], lastNo := b.lastNo + 1, poison := b.poison || poisoned }
  let b := if d.lost then { b with marked := markLine d.line d.no b.marked } else b
  let b := if full then { b with collapsed := true, refreshed := true, collapsedAt := some time } else b
  { b with peak := max b.peak b.occupancy }

/-- A shadow row as it stands in the engine reserve (13, R244): a header of 16 bytes that holds the row's exponent, and 16 bytes a slot; the slot of a
marked element holds its value in C's format (04, R54). -/
def Shadow.bytes (r : Shadow) : List (BitVec 8) :=
  leBytes 2 r.x.toNat ++ List.replicate 14 0 ++
  (r.slots.zip r.marks).flatMap (fun x => match x.2 with
    | some p => leBytes 16 p
    | none => leBytes 16 (ofSigned 128 x.1))

/-- A slot of a shadow row set to an exact value T·2^Y, its mark cleared; the flags say that a bit was lost, and that the row became NONFIN
(R54; 13, R245). -/
def Shadow.setSum (r : Shadow) (j : Nat) (t : Int × Int) : Shadow × Bool × Bool :=
  let (e, lost) := (ExaRow.mk r.x (setNth r.slots j 0)).add j t.1 t.2
  ({ r with x := e.x, slots := e.slots, marks := setNth r.marks j none }, lost, r.x != exaNonfin && e.x == exaNonfin)

/-- An element of a shadow row marked with an infinity or a NaN in C's format (R54). -/
def Shadow.setMark (r : Shadow) (j pattern : Nat) : Shadow :=
  { r with slots := setNth r.slots j 0, marks := setNth r.marks j (some pattern) }

/-- Shadow row `i` of a binding. -/
def Binding.shadowRow (b : Binding) (i : Nat) : Shadow := b.shadow.getD i ⟨exaEmpty, [], []⟩

/-- A shadow row replaced, with the statuses that the change raises. -/
def Binding.setShadow (b : Binding) (i : Nat) (r : Shadow × Bool × Bool) : Binding :=
  { b with shadow := setNth b.shadow i r.1, exactLost := b.exactLost || r.2.1, nonfin := b.nonfin || r.2.2 }

/-- A store to a bound element of C (R58). -/
def Binding.storeC (b : Binding) (row col pattern : Nat) : Binding :=
  if !b.desc.exact then { b with drift := setNth b.drift (row * b.desc.n + col) 0 } else
  match ((typeFmt b.desc.tc).value pattern).dyadic with
  | some t => b.setShadow row ((b.shadowRow row).setSum col t)
  | none => { b.setShadow row ((b.shadowRow row).setMark col pattern, false, false) with nonfin := true }

/-- What one landing does to a binding: differences in ascending address order, an A difference before a B difference of the same
bytes, then stores to C, and ALIAS for a write through an untracked mapping. That a landing which changes no bit of a poisoned element records nothing and
sets no POISON is the model's choice: R47 speaks of a difference (log 50). -/
def Binding.capture (b : Binding) (time : Nat) (before after : Mem) (poison : List Nat) (ws : List (Nat × Bool)) : Binding :=
  if !b.live then b else
  let sa := typeSize b.desc.ta
  let sb := typeSize b.desc.tb
  let elems := (ws.flatMap (fun w => (b.aAt w.1).map (fun x => (false, x)) ++ (b.bAt w.1).map (fun x => (true, x)))).eraseDups
  let cs := (ws.flatMap (fun w => b.cAt w.1)).eraseDups
  let touched := ws.any (fun w => w.2 && (!(b.aAt w.1).isEmpty || !(b.bAt w.1).isEmpty || !(b.cAt w.1).isEmpty))
  let b := if touched then { b with aliased := true } else b
  let b := if !b.capturing then b else elems.foldl (fun b x =>
    let (inB, row, col, pa) := x
    let n := if inB then sb else sa
    let old := before.nat pa n
    let new := after.nat pa n
    if old == new then b else b.record time inB row col old new (poison.contains (pa / 32))) b
  if !b.ready then b else
  cs.foldl (fun b x => b.storeC x.1 x.2.1 (after.nat x.2.2 (typeSize b.desc.tc))) b

/-- The 32-byte words that a landing touches, with how many of their bytes it writes. -/
def touchedWords (ws : List (Nat × BitVec 8)) : List (Nat × Nat) :=
  ((ws.map (fun w => w.1 / 32)).eraseDups).map (fun k => (k, (ws.filter (fun w => w.1 / 32 == k)).length))

/-- Bytes written at their homes: memory, poison (10, R192; `poisoned` names words that arrive poisoned), and the deferred errors of context
`ctx` and of the dies. -/
def State.landBytes (s : State) (ctx : Option Nat) (bytes : List (Nat × BitVec 8)) (poisoned : List Nat) : State :=
  let words := touchedWords bytes
  let cleared := (words.filter (fun w => w.2 == 32)).map (·.1)
  let merged := words.filter (fun w => w.2 != 32 && s.poison.contains w.1)
  let kept := s.poison.filter (fun k => !cleared.contains k)
  let s := match ctx with
    | some n => s.updCtx n (fun c => { c with deferred := c.deferred + merged.length })
    | none => s
  let s := merged.foldl (fun s w => let d := homeDie (w.1 * 32); s.setDie d { s.die d with deferred := (s.die d).deferred + 1 }) s
  { s with mem := bytes.foldl (fun m w => m.set w.1 w.2) s.mem, poison := poisoned.foldl insertNat kept }

/-- ONE LANDING of bytes at their homes, with capture. Each byte says whether it came through an untracked mapping (R59). -/
def State.land (s : State) (ctx : Option Nat) (ws : List (Nat × BitVec 8 × Bool)) (poisoned : List Nat) : State :=
  let t := s.landBytes ctx (ws.map (fun w => (w.1, w.2.1))) poisoned
  let marks := ws.map (fun w => (w.1, w.2.2))
  let seen := fun (c : Context) => { c with bindings := c.bindings.map (fun b => b.capture s.time s.mem t.mem s.poison marks) }
  { t with contexts := t.contexts.map seen }

end Sys2Proof.Machine
end

