-- ==== Sys2Proof/Machine/Cache.lean ====
section
/-! DEFINITION. The D path: L1, cluster cache, home and remote-read lines; fills, stores, write-backs, release pushes and acquires
(10, R169–R174, R188, R191, R194; 07, R117, R118, R121, R128). -/

namespace Sys2Proof.Machine

/-! ### Lines -/

def lineNo (pa : Nat) : Nat := pa / 128
def findLine (ls : List Line) (no : Nat) : Option Line := ls.find? (fun l => l.no == no)
def dropLine (ls : List Line) (no : Nat) : List Line := ls.filter (fun l => l.no != no)
/-- Put a line in; a line that holds nothing is dropped. -/
def putLine (ls : List Line) (l : Line) : List Line := if l.valid == 0 then dropLine ls l.no else l :: dropLine ls l.no
/-- The mask of `n` bytes from an offset. -/
def byteMask (off n : Nat) : BitVec 128 := BitVec.ofNat 128 ((2 ^ n - 1) * 2 ^ off)
/-- Words of 32 bytes that a byte mask meets. -/
def wordsMet (m : BitVec 128) : BitVec 4 :=
  (List.range 4).foldl (fun p i => if (m >>> (32 * i)).truncate 32 != 0#32 then p ||| (1#4 <<< i) else p) 0
/-- Words of 32 bytes that a byte mask covers. -/
def wordsFull (m : BitVec 128) : BitVec 4 := ~~~ (wordsMet (~~~ m))
/-- The bytes of some words of 32 bytes. -/
def wordBytes (p : BitVec 4) : BitVec 128 :=
  (List.range 4).foldl (fun m i => if p.getLsbD i then m ||| byteMask (32 * i) 32 else m) 0

def Line.fresh (no : Nat) : Line := ⟨no, [], 0, 0, 0, 0, 0, [], false⟩
/-- A line as it was fetched, all of it clean. -/
def Line.clean (no : Nat) (bytes : Mem) (poison : BitVec 4) : Line := ⟨no, bytes, BitVec.allOnes 128, 0, 0, poison, 0, [], false⟩

/-- The words whose poison a read meets (10, R193). -/
def Line.poisoned (l : Line) : BitVec 4 := l.poison ||| wordsMet l.taint

/-- A fetched line merged under the dirty mask of the copy held (R170). -/
def Line.fill (held : Option Line) (no : Nat) (bytes : Mem) (poison : BitVec 4) : Line :=
  match held with
  | none => Line.clean no bytes poison
  | some l =>
    let own := l.bytes.filter (fun c => l.dirty.getLsbD c.1)
    let rest := bytes.filter (fun c => !l.dirty.getLsbD c.1)
    { l with bytes := own.foldl (fun m c => m.set c.1 c.2) rest, valid := BitVec.allOnes 128, poison := poison &&& ~~~ (wordsFull l.dirty) }

/-- Bytes written into a line: valid, dirty unless they are sent on at once, marked untracked or not. A word that its dirty bytes come
to cover is fresh (10, R192). -/
def Line.write (l : Line) (off : Nat) (bs : List (BitVec 8)) (dirty untracked : Bool) (gid : Nat) : Line :=
  let m := byteMask off bs.length
  { l with
    bytes := l.bytes.write off bs
    valid := l.valid ||| m
    dirty := if dirty then l.dirty ||| m else l.dirty &&& ~~~ m
    untracked := if untracked then l.untracked ||| m else l.untracked &&& ~~~ m
    poison := l.poison &&& ~~~ (wordsFull (if dirty then l.dirty ||| m else m))
    taint := l.taint &&& ~~~ m
    by_ := if dirty then insertNat l.by_ gid else l.by_ }

/-- Bytes of a line that carry poison: what an atomic made of a poisoned location (10, R193). Sent on at once, they leave the copy poisoned. -/
def Line.stain (l : Line) (off n : Nat) : Line :=
  { l with taint := l.taint ||| (byteMask off n &&& l.dirty), poison := l.poison ||| wordsMet (byteMask off n &&& ~~~ l.dirty) }

/-- Some of the dirty bytes of a line, as a landing carries them: address, byte, untracked. -/
def Line.dirtyIn (l : Line) (m : BitVec 128) : List (Nat × BitVec 8 × Bool) :=
  ((List.range 128).filter (fun i => (l.dirty &&& m).getLsbD i)).map (fun i => (l.no * 128 + i, l.bytes.get i, l.untracked.getLsbD i))
def Line.dirtyBytes (l : Line) : List (Nat × BitVec 8 × Bool) := l.dirtyIn (BitVec.allOnes 128)

/-- The words that dirty bytes which carry poison leave poisoned where they land. -/
def Line.poisonedIn (l : Line) (m : BitVec 128) : List Nat :=
  ((List.range 4).filter (fun i => (wordsMet (l.taint &&& m)).getLsbD i)).map (fun i => l.no * 4 + i)
def Line.poisonedWords (l : Line) : List Nat := l.poisonedIn (BitVec.allOnes 128)

/-- The line after some of its dirty bytes have gone outward: they are clean, and as poisoned as they were. -/
def Line.cleanedIn (l : Line) (m : BitVec 128) : Line :=
  { l with dirty := l.dirty &&& ~~~ m, untracked := l.untracked &&& ~~~ m, poison := l.poison ||| wordsMet (l.taint &&& m), taint := l.taint &&& ~~~ m,
           by_ := if l.dirty &&& ~~~ m == 0 then [] else l.by_ }
def Line.cleaned (l : Line) : Line := l.cleanedIn (BitVec.allOnes 128)

/-- Dirty bytes of a line merged over the copy of the next level outward (R170). -/
def Line.take (k l : Line) (m : BitVec 128) : Line :=
  let m := l.dirty &&& m
  { k with
    bytes := (l.bytes.filter (fun c => m.getLsbD c.1)).foldl (fun b c => b.set c.1 c.2) (k.bytes.filter (fun c => !m.getLsbD c.1))
    valid := k.valid ||| m
    dirty := k.dirty ||| m
    untracked := (k.untracked &&& ~~~ m) ||| (l.untracked &&& m)
    poison := k.poison &&& ~~~ (wordsFull (k.dirty ||| m))
    taint := (k.taint &&& ~~~ m) ||| (l.taint &&& m)
    by_ := l.by_.foldl insertNat k.by_
    first := k.first || l.first }

/-- The line without its clean bytes (an acquire, R118). -/
def Line.onlyDirty (l : Line) : Line := { l with bytes := l.bytes.filter (fun c => l.dirty.getLsbD c.1), valid := l.dirty, poison := 0 }

/-- The line without some of its bytes. -/
def Line.forget (l : Line) (m : BitVec 128) : Line :=
  { l with bytes := l.bytes.filter (fun c => !m.getLsbD c.1), valid := l.valid &&& ~~~ m, dirty := l.dirty &&& ~~~ m,
           untracked := l.untracked &&& ~~~ m, taint := l.taint &&& ~~~ m, poison := l.poison &&& wordsMet (l.valid &&& ~~~ m) }

/-- The line that leaves a full cache: which one is open, but the lines placed first for eviction go first (R170, R174). -/
def victim (s : State) (at_ : Nat) (ls : List Line) : Option Line :=
  let firsts := ls.filter (fun l => l.first)
  let ls := if firsts.isEmpty then ls else firsts
  ls[choose s at_ (max 1 ls.length)]?

/-- Put a clean line into a cache of `n` lines that holds nothing dirty. -/
def putCapped (s : State) (n : Nat) (ls : List Line) (l : Line) : List Line :=
  let ls := putLine ls l
  if ls.length ≤ n then ls else
  match victim s l.no (ls.filter (fun x => x.no != l.no)) with
  | none => ls
  | some v => dropLine ls v.no

/-- Whether a line's bytes are held by a remote home (R194). -/
def isRemote (pa : Nat) : Bool := regionOf pa == .system

/-! ### Home lines, L2 presence and hotness (R173, R188) -/

/-- The bytes of a home line. -/
def homeBytes (mem : Mem) (no : Nat) : Mem := (mem.filter (fun c => c.1 / 128 == no)).map (fun c => (c.1 - no * 128, c.2))
/-- The poison of a home line, by 32-byte word (R191). -/
def homePoison (poison : List Nat) (no : Nat) : BitVec 4 :=
  (List.range 4).foldl (fun p i => if poison.contains (no * 4 + i) then p ||| (1#4 <<< i) else p) 0

/-- The requester tag of a hotness count that takes a new remote device: the lowest count (R188). That of tags with the same count the one that holds the
lowest device number counts as the lowest-numbered is the model's choice, since the tags are numbered nowhere (log 50). -/
def hotVictim (cs : List HotCount) : Option Nat :=
  (cs.foldl (fun (best : Option HotCount) c => match best with
    | none => some c
    | some b => if c.count < b.count || (c.count == b.count && c.req < b.req) then some c else some b) none).map (·.req)

/-- The threshold of the context that a block belongs to; 0 for none. -/
def State.threshold (s : State) (block : Nat) : Nat :=
  ((s.contexts.find? (fun c => c.owns (65536 * block))).map (fun c => c.args.threshold)).getD 0

/-- Whether a count with one more fill reaches the threshold, where there is one. -/
def HotCount.reaches (t : Nat) (h : HotCount) : Bool := t != 0 && t ≤ min 65535 (h.count + 1)

/-- A count with one more fill: saturating, and 0 again once it has reached the threshold. -/
def HotCount.more (t : Nat) (h : HotCount) : HotCount := { h with count := if h.reaches t then 0 else min 65535 (h.count + 1) }

/-- The counts of a block make room for a requester: a fifth remote device takes over the tag whose count is lowest, and starts from 0. -/
def hotRoom (block req : Nat) (hs : List HotCount) : List HotCount :=
  let remote := hs.filter (fun h => h.block == block && 0x8000 ≤ h.req)
  if req < 0x8000 || remote.length < 4 then hs else
  match hotVictim remote with
  | some v => hs.filter (fun h => !(h.block == block && h.req == v))
  | none => hs

/-- Count a line fill from memory for a requester; a count that reaches the threshold makes a notification due (R188). -/
def State.countHot (s : State) (block req : Nat) : State :=
  let t := s.threshold block
  let mine := fun (h : HotCount) => h.block == block && h.req == req
  let old := (s.hot.find? mine).getD ⟨block, req, 0⟩
  { s with
    hot := if s.hot.any mine then mapWhere mine (HotCount.more t) s.hot else hotRoom block req s.hot ++ [old.more t]
    notices := if old.reaches t then s.notices ++ [(block, req)] else s.notices }

/-- The set of a line within an L2 slice of 2,048 sets, and within a cluster cache of 4,096 (R169). -/
def l2SetOf (no : Nat) : Nat := Config.l2Set no % 2048
def clusterSetOf (no : Nat) : Nat := Config.clusterSet no % 4096

/-- The L2 set of a line within the device: its die, slice and set (R169, R172). -/
def lineSet (no : Nat) : Nat × Nat × Nat := (homeDie (no * 128), homeSlice (no * 128), l2SetOf no)

/-- The L2 set of a remote-read line in a die: the slice comes from the low 48 bits of its address (R194). That the hash takes low 48 bits that lie neither in
HBM nor in deep memory as stack 0 is the model's choice (log 51). -/
def remoteSet (die no : Nat) : Nat × Nat × Nat := (die, homeSlice (no * 128 % 2 ^ 48), l2SetOf no)

/-- The home lines that an L2 set must keep: locked ones and those that hold stamps (R186; 07, R131). -/
def State.kept (s : State) (no : Nat) : Bool := s.locked.any (fun k => k.2 == no) || s.stamps.any (fun t => lineNo t.addr == no)

/-- An L2 set of 16 ways with one line too many gives up a line, a home line that need not stay or a remote-read line; which one is open. -/
def State.trimSet (s : State) (set : Nat × Nat × Nat) (new : Nat) : State :=
  let d := s.die set.1
  if s.l2.length + d.remote.length ≤ 16 then s else
  let homes := s.l2.filter (fun k => lineSet k == set)
  let away := d.remote.filter (fun l => remoteSet set.1 l.no == set)
  if homes.length + away.length ≤ 16 then s else
  let out := (homes.filter (fun k => !s.kept k && k != new)).map (fun k => (true, k)) ++ ((away.filter (fun l => l.no != new)).map (fun l => (false, l.no)))
  match out[choose s new (max 1 out.length)]? with
  | none => s
  | some (true, k) => { s with l2 := s.l2.filter (fun x => x != k) }
  | some (false, k) => s.setDie set.1 { d with remote := dropLine d.remote k }

/-- A line of a home stands in its L2 set. -/
def State.putHome (s : State) (no : Nat) : State :=
  if s.l2.contains no then s else ({ s with l2 := insertNat s.l2 no } : State).trimSet (lineSet no) no

/-- A remote-read line stands in the L2 of a die, where such lines take at most 4 ways of a set (R194). -/
def State.putRemote (s : State) (die : Nat) (l : Line) : State :=
  let d := s.die die
  let ls := putLine d.remote l
  let mine := ls.filter (fun x => x.no != l.no && (ls.length ≤ 4 || remoteSet die x.no == remoteSet die l.no))
  let ls := if mine.length < 4 then ls else (match victim s l.no mine with
    | some v => dropLine ls v.no
    | none => ls)
  (s.setDie die { d with remote := ls }).trimSet (remoteSet die l.no) l.no

/-- A read of a home line: on a miss in L2 it is filled from memory and counted where the page is hot. A line of another device has no home here. -/
def State.readHome (s : State) (no : Nat) (hot : Bool) (req : Nat) : State :=
  if s.l2.contains no || isRemote (no * 128) then s else
  let s := s.putHome no
  if hot then s.countHot (no / 512) req else s

/-- A read of bytes at their homes by an engine or an atomic, which fills lines as any read does (R173, R188). -/
def State.readLines (s : State) (pa n : Nat) (hot : Bool) (req : Nat) : State :=
  (List.range ((pa + n - 1) / 128 + 1 - pa / 128)).foldl (fun s i => s.readHome (pa / 128 + i) hot req) s

/-! ### Fills -/

/-- The bytes of a line outside the cluster cache: its home, or a remote-read line of the die. -/
def State.outerLine (s : State) (die no : Nat) : Option (Mem × BitVec 4) :=
  if isRemote (no * 128) then (findLine (s.die die).remote no).map (fun l => (l.bytes, l.poison))
  else some (homeBytes s.mem no, homePoison s.poison no)

/-! ### Write-backs -/

/-- The runs of consecutive addresses of a list of bytes, tracked and untracked ones apart. -/
def byteRuns : List (Nat × BitVec 8 × Bool) → List (Nat × Bool × List (BitVec 8))
  | [] => []
  | w :: r => match byteRuns r with
    | (a, u, bs) :: q => if a == w.1 + 1 && u == w.2.2 then (w.1, u, w.2.1 :: bs) :: q else (w.1, w.2.2, [w.2.1]) :: (a, u, bs) :: q
    | [] => [(w.1, w.2.2, [w.2.1])]

/-- A remote-read line that a write to another device passes (R194). -/
def Line.pass (l : Line) (ws : List (Nat × BitVec 8 × Bool)) : Line :=
  { l with bytes := (ws.filter (fun w => w.1 / 128 == l.no)).foldl (fun m w => m.set (w.1 % 128) w.2.1) l.bytes }

/-- Bytes sent to another device from a die: the remote-read lines there, which they pass, take them (R194), and the request goes out. -/
def State.sendRemote (s : State) (die : Nat) (ws : List (Nat × BitVec 8 × Bool)) : State :=
  let d := s.die die
  { s.setDie die { d with remote := d.remote.map (fun l => l.pass ws) } with
    outbox := s.outbox ++ (byteRuns ws).map (fun r => Message.request (sysNode r.1) (sysOff r.1) (.write r.2.2) (!r.2.1)) }

/-- Bytes of one line landing at their home, wherever it is; `die` is where they come from. -/
def State.landAny (s : State) (die : Nat) (ctx : Option Nat) (ws : List (Nat × BitVec 8 × Bool)) (poison : List Nat) : State :=
  match ws with
  | [] => s
  | w :: _ => if isRemote w.1 then s.sendRemote die ws else s.land ctx ws poison

/-- A line of a cache has nothing more on its way to another device. -/
def State.unleave (s : State) (c : CacheSel) (line : Nat) : State :=
  { s with leaving := s.leaving.filter (fun k => !(k.1 == c && k.2.1 == line)) }

/-- The context whose groups dirtied a line: where they have ended, the one that owns its home. -/
def State.lineOwner (s : State) (l : Line) : Option Nat :=
  (l.by_.findSome? (fun gid => s.group? gid)).map (fun g => g.ctx) <|> (s.contexts.find? (fun c => c.owns (128 * l.no))).map (fun c => c.no)

/-- A cluster cache writes back some dirty bytes of a line (R170). -/
def State.backClusterIn (s : State) (ctx : Option Nat) (cc no : Nat) (m : BitVec 128) : State :=
  match findLine (s.clusterCache cc) no with
  | none => s
  | some l =>
    if l.dirty &&& m == 0 then s else
    ((s.landAny (cc / 4) ctx (l.dirtyIn m) (l.poisonedIn m)).setClusterCache cc (putLine (s.clusterCache cc) (l.cleanedIn m))).unleave (.cluster cc) no
def State.backCluster (s : State) (ctx : Option Nat) (cc no : Nat) : State := s.backClusterIn ctx cc no (BitVec.allOnes 128)

/-- Put a line into a cluster cache, 16 ways in each of 4,096 sets (R169). A full set gives up a line, its dirty bytes written back; a line with dirty bytes
of another device stays until its write there is acknowledged (18, R333; CACHE_WRITE_BACK; log 51). -/
def State.putCluster (s : State) (cc : Nat) (l : Line) : State :=
  let s := s.setClusterCache cc (putLine (s.clusterCache cc) l)
  let ls := s.clusterCache cc
  if ls.length ≤ 16 then s else
  let mine := ls.filter (fun x => clusterSetOf x.no == clusterSetOf l.no)
  if mine.length ≤ 16 then s else
  match victim s l.no (mine.filter (fun x => x.no != l.no && !(x.dirty != 0 && isRemote (x.no * 128)))) with
  | none => s
  | some v =>
    let s := s.backCluster (s.lineOwner v) cc v.no
    s.setClusterCache cc (dropLine (s.clusterCache cc) v.no)

/-- L1 writes back some dirty bytes of a line into its cluster cache (R170). -/
def State.backL1In (s : State) (core no : Nat) (m : BitVec 128) : State :=
  let c := s.core core
  match findLine c.l1 no with
  | none => s
  | some l =>
    if l.dirty &&& m == 0 then s else
    let cc := clusterOf core
    let held := (findLine (s.clusterCache cc) no).getD (Line.fresh no)
    (s.setCore core { c with l1 := putLine c.l1 (l.cleanedIn m) }).putCluster cc (held.take l m)
def State.backL1 (s : State) (core no : Nat) : State := s.backL1In core no (BitVec.allOnes 128)

/-- Put a line into an L1 of 2,048 lines (R169). A full L1 gives up a line, its dirty bytes written back. -/
def State.putL1 (s : State) (core : Nat) (l : Line) : State :=
  let c := s.core core
  let s := s.setCore core { c with l1 := putLine c.l1 l }
  if (s.core core).l1.length ≤ 2048 then s else
  match victim s l.no ((s.core core).l1.filter (fun x => x.no != l.no)) with
  | none => s
  | some v =>
    let s := s.backL1 core v.no
    let c := s.core core
    s.setCore core { c with l1 := dropLine c.l1 v.no }

/-! ### Reads on the D path -/

/-- Fill the cluster cache's copy of a line. -/
def State.fillCluster (s : State) (cc die no : Nat) (hot first : Bool) : State :=
  let held := findLine (s.clusterCache cc) no
  if (held.map (fun l => l.valid == BitVec.allOnes 128)).getD false then s else
  match s.outerLine die no with
  | none => s
  | some (b, p) => (s.readHome no hot die).putCluster cc { Line.fill held no b p with first := first }

/-- Fill L1's copy of a line, through the cluster cache; what another device has not sent yet fills nothing. -/
def State.fillL1 (s : State) (core no : Nat) (hot first : Bool) : State :=
  let held := findLine (s.core core).l1 no
  if (held.map (fun l => l.valid == BitVec.allOnes 128)).getD false then s else
  let s := s.fillCluster (clusterOf core) (dieOf core) no hot first
  match findLine (s.clusterCache (clusterOf core)) no with
  | none => s
  | some l => if l.valid == BitVec.allOnes 128 then s.putL1 core { Line.fill held no l.bytes l.poisoned with first := first } else s

/-- What a D-path read of one byte sees: L1, then the cluster cache, then the home or the remote-read line; with its poison.
`none`: the byte must first be fetched over the fabric. -/
def State.seeD (s : State) (core pa : Nat) : Option (BitVec 8 × Bool) :=
  let no := lineNo pa
  let off := pa % 128
  let from_ := fun (o : Option Line) => match o with
    | some l => if l.valid.getLsbD off then some (l.bytes.get off, l.poisoned.getLsbD (off / 32)) else none
    | none => none
  match from_ (findLine (s.core core).l1 no) with
  | some r => some r
  | none => match from_ (findLine (s.clusterCache (clusterOf core)) no) with
    | some r => some r
    | none =>
      if isRemote pa then from_ (findLine (s.die (dieOf core)).remote no)
      else some (s.mem.get pa, s.poison.contains (pa / 32))

/-- The bytes of an access, each as `seeD` gives it. -/
def State.seeBytes (s : State) (core pa : Nat) : Nat → Option (List (BitVec 8) × Bool)
  | 0 => some ([], false)
  | n + 1 => match s.seeD core pa, State.seeBytes s core (pa + 1) n with
    | some (b, p), some (bs, q) => some (b :: bs, p || q)
    | _, _ => none

/-- The lines that an access of `n` bytes touches. -/
def linesOf (pa n : Nat) : List Nat := (List.range ((pa + n - 1) / 128 + 1 - pa / 128)).map (fun i => pa / 128 + i)

/-- Allocation by a load: L1 and cluster cache under policies 0 and 1, under policy 1 first for eviction, nothing under policy 2 (R174). -/
def State.allocate (s : State) (core pa n : Nat) (policy : BitVec 2) (hot : Bool) : State :=
  (linesOf pa n).foldl (fun s no =>
    if policy = 2 then
      (if (findLine (s.core core).l1 no).isSome || (findLine (s.clusterCache (clusterOf core)) no).isSome || isRemote (no * 128) then s
       else s.readHome no hot (dieOf core))
    else s.fillL1 core no hot (policy == 1)) s

/-! ### Stores, pushes and acquires -/

/-- A store of bytes on the D path (R170, R174), carrying poison if `tainted`: dirty in L1, or under policy 2 sent on to the home at once, with the copies that L1
and the cluster cache hold taking the bytes on the way. -/
def State.storeD (s : State) (ctx core gid pa : Nat) (bs : List (BitVec 8)) (policy : BitVec 2) (trk tainted : Bool) : State :=
  let no := lineNo pa
  let off := pa % 128
  let c := s.core core
  let put := fun (l : Line) (dirty : Bool) =>
    let l := l.write off bs dirty (dirty && !trk) gid
    if tainted then l.stain off bs.length else l
  if policy = 2 then
    let cc := clusterOf core
    let s := match findLine c.l1 no with
      | some l => s.setCore core { c with l1 := putLine c.l1 (put l false) }
      | none => s
    let s := match findLine (s.clusterCache cc) no with
      | some l => s.setClusterCache cc (putLine (s.clusterCache cc) (put l false))
      | none => s
    s.landAny (dieOf core) (some ctx) ((bs.zip (List.range bs.length)).map (fun b => (pa + b.2, b.1, !trk))) (if tainted then [pa / 32] else [])
  else
    s.putL1 core { put ((findLine c.l1 no).getD (Line.fresh no)) true with first := policy == 1 }

/-- The lines of a cache that hold dirty bytes of a group, in ascending order. -/
def dirtyOf (gid : Nat) (ls : List Line) : List Nat := ((ls.filter (fun l => l.by_.contains gid)).map (·.no)).foldl insertNat []

/-- The pushes of a release (R117): the lines with the group's dirty bytes, from L1 to the cluster cache at `.clu`, and on to the homes
at `.dev` and `.sys`. -/
def State.push (s : State) (ctx core gid : Nat) (sc : Scope) : State :=
  match sc with
  | .grp => s
  | .wg => s
  | .clu => (dirtyOf gid (s.core core).l1).foldl (fun s no => s.backL1 core no) s
  | _ =>
    let s := (dirtyOf gid (s.core core).l1).foldl (fun s no => s.backL1 core no) s
    (dirtyOf gid (s.clusterCache (clusterOf core))).foldl (fun s no => s.backCluster (some ctx) (clusterOf core) no) s

/-- Drop the clean bytes of every line. -/
def cleanOut (ls : List Line) : List Line := (ls.map Line.onlyDirty).filter (fun l => l.valid != 0)

/-- The invalidations of an acquire in the caches (R118): nothing at `.grp` and `.wg`, L1 at `.clu`, the cluster cache too at `.dev`, the
remote-read lines too at `.sys`. -/
def State.invalidate (s : State) (core : Nat) (sc : Scope) : State :=
  let l1 := fun (s : State) => let c := s.core core; s.setCore core { c with l1 := cleanOut c.l1 }
  let cc := fun (s : State) => s.setClusterCache (clusterOf core) (cleanOut (s.clusterCache (clusterOf core)))
  match sc with
  | .grp => s
  | .wg => s
  | .clu => l1 s
  | .dev => cc (l1 s)
  | .sys => let s := cc (l1 s); s.setDie (dieOf core) { s.die (dieOf core) with remote := [] }

/-- Before an access at a level outside L1, the copies inside must not hide it: their dirty bytes of the line go outward (R170), and
the bytes of the access are dropped. -/
def State.expose (s : State) (ctx core pa n : Nat) (sc : Scope) : State :=
  let no := lineNo pa
  let m := byteMask (pa % 128) n
  match sc with
  | .grp => s
  | .wg => s
  | .clu =>
    let s := s.backL1 core no
    let c := s.core core
    s.setCore core { c with l1 := c.l1.map (fun l => if l.no == no then l.forget m else l) }
  | _ =>
    let s := (s.backL1 core no).backCluster (some ctx) (clusterOf core) no
    let c := s.core core
    let s := s.setCore core { c with l1 := c.l1.map (fun l => if l.no == no then l.forget m else l) }
    s.setClusterCache (clusterOf core) ((s.clusterCache (clusterOf core)).map (fun l => if l.no == no then l.forget m else l))

/-- The atomic operations of Table 11-2. -/
def atomNew (op : AtomOp) (old v swap : Word) : Word :=
  match op with
  | .add => old + v
  | .and => old &&& v
  | .or => old ||| v
  | .xor => old ^^^ v
  | .minN => if v.toNat < old.toNat then v else old
  | .minS => if v.toInt < old.toInt then v else old
  | .maxN => if old.toNat < v.toNat then v else old
  | .maxS => if old.toInt < v.toInt then v else old
  | .exch => v
  | .cas => if old = v then swap else old
  | .inc => if v.toNat ≤ old.toNat then 0 else old + 1
  | .faddF32 => fadd32Rne old v

/-- One atomic step on a local location at the level of a scope (R121; 11, R202): the old value, whether it was poisoned, which leaves the location
poisoned (10, R193), and the state with the new value written in all four bytes, held as the cache policy says (R174). -/
def State.atomStep (s : State) (ctx core gid : Nat) (sc : Scope) (policy : BitVec 2) (a : AtomAct) : Word × Bool × State :=
  let s := s.expose ctx core a.pa 4 sc
  let no := lineNo a.pa
  let landed := fun (new : List (BitVec 8)) => (new.zip (List.range 4)).map (fun b => (a.pa + b.2, b.1, !a.trk))
  match sc with
  | .grp | .wg =>
    let s := s.fillL1 core no a.hot (policy == 1)
    let (bs, p) := (s.seeBytes core a.pa 4).getD ([], false)
    let old := leWord bs
    (old, p, s.storeD ctx core gid a.pa (leBytes 4 (atomNew a.op old a.v a.swap).toNat) policy a.trk p)
  | .clu =>
    let cc := clusterOf core
    let s := s.fillCluster cc (dieOf core) no a.hot (policy == 1)
    let l := (findLine (s.clusterCache cc) no).getD (Line.fresh no)
    let old := leWord (l.bytes.read (a.pa % 128) 4)
    let p := l.poisoned.getLsbD (a.pa % 128 / 32)
    let new := leBytes 4 (atomNew a.op old a.v a.swap).toNat
    let l := l.write (a.pa % 128) new (policy != 2) (!a.trk) gid
    let t := s.putCluster cc (if p then l.stain (a.pa % 128) 4 else l)
    (old, p, if policy = 2 then t.landAny (dieOf core) (some ctx) (landed new) (if p then [a.pa / 32] else []) else t)
  | _ =>
    let s := s.readHome no a.hot (dieOf core)
    let old := leWord (s.mem.read a.pa 4)
    (old, s.poison.contains (a.pa / 32), s.land (some ctx) (landed (leBytes 4 (atomNew a.op old a.v a.swap).toNat)) [])

/-- A span that ends no earlier than those before it joins them, so that they stay disjoint. -/
def addSpan (spans : List (Nat × Nat)) (from_ till : Nat) : List (Nat × Nat) :=
  let met := spans.filter (fun x => from_ ≤ x.2)
  spans.filter (fun x => x.2 < from_) ++ [(met.foldl (fun m x => min m x.1) from_, till)]

/-- When a group began each wait that ends as the counter at `pa` goes from `old` to `new` (06, R96). -/
def Group.waitsMet (g : Group) (home : Nat → Option Nat) (pa old new : Nat) : List Nat :=
  if g.isHandler then [] else g.places.filterMap (fun x => match x.wait with
    | some (.counter va t _ since _) => if old < t && t ≤ new && home va == some pa then some since else none
    | _ => none)

/-- The waits that an increment from outside their launch ends extend the launch's promise, up to this time (06, R96). -/
def State.countWaits (s : State) (source : Nat × Nat) (pa old new : Nat) : State :=
  (s.groups.filter (fun g => source != (g.ctx, g.launch + 1))).foldl (fun s g =>
    (g.waitsMet (fun va => (s.walkHome g.ctx va).map (fun l => l.pa va)) pa old new).foldl (fun s since =>
      s.updLaunch g.ctx g.launch (fun l => { l with wSpans := addSpan l.wSpans since s.time })) s) s

/-- A counter signal at its home: adds 1 modulo 2^64 in one atomic step (11, R215); behind another device it is a request. `source` says who
signals: a context and a launch's number plus 1, or nothing of the kind. -/
def State.signal (s : State) (ctx : Option Nat) (source : Nat × Nat) (pa : Nat) (trk : Bool) : State :=
  if isRemote pa then { s with outbox := s.outbox ++ [.request (sysNode pa) (sysOff pa) .signal trk] }
  else
    let v := (s.mem.nat pa 8 + 1) % 2 ^ 64
    (s.countWaits source pa (s.mem.nat pa 8) v).land ctx (((leBytes 8 v).zip (List.range 8)).map (fun b => (pa + b.2, b.1, !trk))) []

/-- An order of the lanes of one word that the manual leaves open (R108; 11, R202): each lane is put in at a free place. -/
def freeOrder (s : State) (l : List α) : List α :=
  (l.zip (List.range l.length)).foldl (fun acc x => acc.take (choose s x.2 (acc.length + 1)) ++ x.1 :: acc.drop (choose s x.2 (acc.length + 1))) []

end Sys2Proof.Machine
end

