-- ==== Sys2Proof/Machine/Det.lean ====
section
/-! DEFINITION. Deterministic launches: happens-before by interval clocks, stamps, conflicts and det-capacity (07, R108, R109, R129–R131;
17, R310). -/

namespace Sys2Proof.Machine

/-- One access to be stamped: the lane, its address and size. Local Store bytes stand above 2^60, by workgroup. -/
structure Touch where
  lane : Nat
  addr : Nat
  size : Nat
  deriving DecidableEq, Repr

/-- The address under which a Local Store byte is stamped. -/
def lsAddr (wid off : Nat) : Nat := 2 ^ 60 + wid * 2 ^ 20 + off

/-- Two lines of descent that a divergence still open separates (R109): they pass one frame on different sides. -/
def divergent (p q : List (Nat × Bool)) : Bool := p.any (fun x => q.any (fun y => x.1 == y.1 && x.2 != y.2))

/-- Whether a clock takes in an access of a group in an interval on a path. -/
def Clock.covers (c : Clock) (gid interval : Nat) (line : List (Nat × Bool)) : Bool := c.gid == gid && interval < c.upto && !divergent c.line line

/-- Whether a path of the group that learnt a clock knows it. -/
def Clock.known (c : Clock) (line : List (Nat × Bool)) : Bool := !divergent c.seen line

/-- Two clocks that differ in how far they reach at most. -/
def Clock.alike (a b : Clock) : Bool := a.gid == b.gid && a.line == b.line && a.seen == b.seen

/-- The clocks of both lists, of those that are alike the furthest. -/
def joinClocks (a b : List Clock) : List Clock :=
  b.foldl (fun a c => if a.any (fun x => x.alike c && c.upto ≤ x.upto) then a else c :: a.filter (fun x => !x.alike c)) a

/-- What a path of a group knows: the group's own accesses on it, and what the group learnt on paths that it goes on from. -/
def Group.told (g : Group) (line : List (Nat × Bool)) : List Clock :=
  ⟨g.gid, g.interval, line, []⟩ :: (g.clocks.filter (fun c => c.known line)).map (fun c => { c with seen := [] })

/-- A path of a group learns. -/
def Group.learn (g : Group) (line : List (Nat × Bool)) (cs : List Clock) : Group :=
  { g with clocks := joinClocks g.clocks (cs.map (fun c => { c with seen := line })) }

/-- Whether a stamp's access is ordered before every present access of a group on a path: by its program order (R109, R110), or by what the path
knows. -/
def Stamp.orderedBefore (t : Stamp) (gid : Nat) (clocks : List Clock) (line : List (Nat × Bool)) : Bool :=
  (t.gid == gid && !(divergent t.line line)) || clocks.any (fun c => c.known line && c.covers t.gid t.interval t.line)

/-- Whether the instance of a scope holds both groups (Table 7-1). -/
def scopeHolds (sc : Scope) (sameGroup sameWg sameClu : Bool) : Bool :=
  match sc with
  | .grp => sameGroup
  | .wg => sameWg
  | .clu => sameClu
  | _ => true

/-- The operations of a RED of which two on one location leave the same bits in either order (R130). -/
def commutes : AtomOp → Bool
  | .inc => false
  | .faddF32 => false
  | .exch => false
  | .cas => false
  | _ => true

/-- The two kinds of pair that do not conflict (R130). -/
def Stamp.exempt (t : Stamp) (g : Group) (red : Option (AtomOp × Scope)) (sk : Option Nat) : Bool :=
  let sameGroup := t.gid == g.gid
  let sameClu := t.clu == g.clu
  let sameWg := sameClu && t.wgc == g.wgc
  (match t.red, red with
   | some (o, a), some (o', b) => o == o' && commutes o && scopeHolds a sameGroup sameWg sameClu && scopeHolds b sameGroup sameWg sameClu
   | _, _ => false) ||
  (match t.sk, sk with
   | some a, some b => a == b
   | _, _ => false)

/-- Whether a group is ordered after the interval of a stamp (R131): of its own stamps, when it has ended the interval and none of its paths is still
unordered with the access (R109). -/
def Group.passed (g : Group) (t : Stamp) : Bool :=
  (t.gid != g.gid || decide (t.interval < g.interval)) &&
  g.places.all (fun x => (x.path.map (fun p => t.orderedBefore g.gid g.clocks p.line)).getD true)

/-- Drop the stamps that every group of the launch that can still run is ordered after (R131). -/
def State.pruneStamps (s : State) (l : Launch) (ctx : Nat) : State :=
  if l.placed.length < l.gx * l.gy then s else
  let live := s.groups.filter (fun g => g.ctx == ctx && g.launch == l.no && !g.isHandler)
  { s with stamps := s.stamps.filter (fun t => !(t.ctx == ctx && t.launch == l.no && live.all (fun g => g.passed t))) }

/-- The group that an access of a lane counts for: the origin group of a handler lane (17, R310). -/
def State.agentOf (s : State) (g : Group) (lane : Nat) : Group :=
  match g.origins.bind (fun os => os[lane]?) with
  | none => g
  | some o => (s.group? o.gid).getD g

/-- The line of descent under which an access of a lane counts: a handler lane's goes on from that of the path that trapped, its own divergences under
numbers that no path of the origin group has (17, R310). -/
def State.lineOf (s : State) (g : Group) (lane : Nat) (line : List (Nat × Bool)) : List (Nat × Bool) :=
  match g.origins.bind (fun os => os[lane]?) with
  | none => line
  | some o => line.map (fun x => (2 ^ 32 * (g.gid + 1) + x.1, x.2)) ++
      ((((s.group? o.gid).bind (fun og => og.places.find? (fun x => (x.traps o.lane).isSome))).bind (fun x => x.path)).map (fun p => p.line)).getD []

/-- The local lines that hold stamps: a stamp stands at each 128-byte line that its bytes lie in, which is the model's choice for a granule of two
lines (R131; log 50). -/
def State.stampedLines (s : State) : List Nat :=
  ((s.stamps.filter (fun p => p.addr < 2 ^ 60 && !isRemote p.addr)).map (fun p => lineNo p.addr)).eraseDups

/-- Two lanes of one word that touch one byte (R108). -/
def Touch.meets (t u : Touch) : Bool := u.lane != t.lane && u.addr < t.addr + t.size && t.addr < u.addr + u.size
def lanesMeet (ts us : List Touch) : Option Touch := ts.find? (fun t => us.any t.meets)

/-- The same for lanes whose accesses count for groups of one launch. -/
def State.lanesClash (s : State) (g : Group) (ts : List Touch) : Option Touch :=
  ts.find? (fun t => ts.any (fun u => t.meets u && (s.agentOf g t.lane).launch == (s.agentOf g u.lane).launch))

/-- Prune the stamps of the launches for which the lanes of a word count. -/
def State.pruneFor (s : State) (g : Group) (l : Launch) (ts : List Touch) : State :=
  ((ts.map (fun t => (s.agentOf g t.lane).launch)).eraseDups.filterMap (fun n => (s.ctx? g.ctx).bind (fun c => c.launch? n))).foldl
    (fun s m => s.pruneStamps m g.ctx) (s.pruneStamps l g.ctx)

/-- The conflict of a touch (R130). -/
def conflictAt (t : Touch) : Halt := ⟨0x08, 0, t.lane, BitVec.ofNat 64 (t.addr % 2 ^ 60), 1#32 <<< t.lane⟩

/-- Whether an access conflicts with a stamp. -/
def Stamp.clashes (p : Stamp) (ag : Group) (line : List (Nat × Bool)) (write : Bool) (red : Option (AtomOp × Scope)) (sk : Option Nat) (t : Touch) : Bool :=
  p.addr < t.addr + t.size && t.addr < p.addr + p.size && (p.write || write) && !p.orderedBefore ag.gid ag.clocks line && !p.exempt ag red sk

/-- Stamp the accesses of one word, each in the launch for which its lane counts (17, R310), or raise the conflict or det-capacity fault at the lowest lane
concerned (R130, R131). `line` is the path's line of descent. -/
def State.stampAll (s : State) (g : Group) (l : Launch) (line : List (Nat × Bool)) (write : Bool) (red : Option (AtomOp × Scope))
    (sk : Option Nat) (ts : List Touch) : Except Halt State :=
  let s := s.pruneFor g l ts
  let alone := sk.isSome || (red.map (fun r => commutes r.1)).getD false
  let clash := (ts.find? (fun t => s.stamps.any (fun p => p.ctx == g.ctx && p.launch == (s.agentOf g t.lane).launch &&
    p.clashes (s.agentOf g t.lane) (s.lineOf g t.lane line) write red sk t))) <|> (if write && !alone then s.lanesClash g ts else none)
  match clash with
  | some t => .error (conflictAt t)
  | none =>
    foldE (fun (s : State) (t : Touch) =>
      let ag := s.agentOf g t.lane
      let st : Stamp := ⟨g.ctx, ag.launch, ag.gid, ag.clu, ag.wgc, ag.interval, s.lineOf g t.lane line, t.addr, t.size, write, red, sk⟩
      let s' := { s with stamps := if s.stamps.contains st then s.stamps else st :: s.stamps }
      if 2 ^ 60 ≤ t.addr || isRemote t.addr then .ok s' else
      let no := lineNo t.addr
      let stamped := s.stampedLines
      if stamped.contains no then .ok s' else
      let inSet := (stamped.filter (fun k => lineSet k == lineSet no)).length
      let lockedIn := ((s.locked.map (fun k => k.2)).eraseDups.filter (fun k => lineSet k == lineSet no)).length
      if min 12 (16 - lockedIn) ≤ inSet then .error ⟨0x09, 0, t.lane, BitVec.ofNat 64 t.addr, 1#32 <<< t.lane⟩
      else .ok s') s ts

/-- The stamps of a word in a deterministic launch; any other launch is not checked. -/
def Env.stamp (e : Env) (s : State) (write : Bool) (red : Option (AtomOp × Scope)) (sk : Option Nat) (ts : List Touch) : Except Halt State :=
  if e.l.det then s.stampAll e.g e.l e.path.line write red sk ts else .ok s

/-- A group ends its sync interval (R131). -/
def Group.nextInterval (g : Group) : Group := { g with interval := g.interval + 1 }

/-- The groups for which a group acts: itself, or a handler group's origin groups (17, R310). -/
def State.agents (s : State) (g : Group) : List Group :=
  match g.origins with
  | none => [g]
  | some os => ((os.map (·.gid)).eraseDups).filterMap s.group?

/-- Every group that a word acts for ends its sync interval (R131). -/
def State.endIntervals (s : State) (g : Group) : State := (s.agents g).foldl (fun s a => s.updGroup a.gid Group.nextInterval) s

/-- The lines of descent under which a path of a group counts for a group that it acts for. -/
def State.linesFor (s : State) (g a : Group) (line : List (Nat × Bool)) : List (List (Nat × Bool)) :=
  match g.origins with
  | none => [line]
  | some os => (((List.range os.length).filter (fun i => ((os[i]?).map (fun o => o.gid)) == some a.gid)).map (fun i => s.lineOf g i line)).eraseDups

/-- What a release of a path at a scope publishes, for each group that it acts for. -/
def State.releases (s : State) (g : Group) (line : List (Nat × Bool)) (sc : Scope) : List Published :=
  (s.agents g).map (fun a => ⟨0, sc, a.ctx, a.launch, a.clu, a.wgc, a.gid, (s.linesFor g a line).foldl (fun cs l => joinClocks cs (a.told l)) []⟩)

/-- A signal that is a release publishes at its counter what its group knew (R119, R131). -/
def State.publish (s : State) (pa : Nat) (ps : List Published) : State :=
  ps.foldl (fun s p =>
    let like := fun (x : Published) => { x with clocks := [] } == { p with pa := pa, clocks := [] }
    { s with counterVcs := if s.counterVcs.any like then mapWhere like (fun x => { x with clocks := joinClocks x.clocks p.clocks }) s.counterVcs
        else s.counterVcs ++ [{ p with pa := pa }] }) s

/-- A WAITC's acquire takes what was published at its counter by releases whose scope's instance holds its group (R114, R119). -/
def State.acquired (s : State) (pa : Nat) (a : Group) : List Clock :=
  (s.counterVcs.filter (fun p => p.pa == pa && p.ctx == a.ctx && scopeHolds p.scope (p.gid == a.gid)
    (p.launch == a.launch && p.clu == a.clu && p.wgc == a.wgc) (p.launch == a.launch && p.clu == a.clu))).foldl (fun cs p => joinClocks cs p.clocks) []

end Sys2Proof.Machine
end

