-- ==== Sys2Proof/Machine/Local.lean ====
section
/-! DEFINITION. The Local Store and its stash windows (10, R175, R177–R179; 11, R198, R203, R209, R210), and what a release and an acquire do
with them (07, R117, R118). -/

namespace Sys2Proof.Machine

/-! ### Stash windows -/

def Stash.covers (w : Stash) (off : Nat) : Bool := w.lbase ≤ off && off < w.lbase + w.len
def Workgroup.stashAt (w : Workgroup) (off : Nat) : Option Stash := w.stashes.find? (fun x => x.covers off)
def Stash.entry? (w : Stash) (no : Nat) : Option StashEntry := w.entries.find? (fun x => x.no == no)
/-- The valid entry of a line. -/
def Stash.valid? (w : Stash) (no : Nat) : Option StashEntry := (w.entry? no).filter (fun x => x.valid)
def Stash.putEntry (w : Stash) (x : StashEntry) : Stash := { w with entries := x :: w.entries.filter (fun y => y.no != x.no) }
def Workgroup.putStash (g : Workgroup) (w : Stash) : Workgroup := { g with stashes := mapWhere (fun x => x.win == w.win) (fun _ => w) g.stashes }

/-- How a stash entry's dirty bytes go out: to the home, or into the cluster cache as dirty bytes. -/
inductive Reach where
  | home | cluster
  deriving DecidableEq, Repr

/-- The outcome of writing entries back: a protection fault at an address, or the state and whether a page was not resident. -/
abbrev BackResult := Except Nat (State × Bool)

/-- Write back the dirty bytes of one entry (R178): through the translation of the workgroup's context; on a non-resident page it keeps its
dirty bytes (Table 10-6). -/
def State.backEntry (s : State) (g : Workgroup) (win : Nat) (no : Nat) (reach : Reach) : BackResult :=
  match (g.stashes.find? (fun w => w.win == win)).bind (fun w => (w.entry? no).map (fun x => (w, x))) with
  | none => .ok (s, false)
  | some (w, x) =>
    if x.dirty == 0 then .ok (s, false) else
    let va := w.gbase + 128 * no
    match s.findLeaf g.ctx (dieOf g.core) (s.core g.core).tlb va .write with
    | none => .error va
    | some leaf =>
      if regionOf (leaf.pa va) == .reserved then .error va
      else if !leaf.res then .ok (s, true)
      else
        let pa := leaf.pa va
        let bytes : List (Nat × BitVec 8 × Bool) :=
          ((List.range 128).filter (fun i => x.dirty.getLsbD i)).map (fun i => (pa + i, x.bytes.get i, !leaf.trk))
        let s := match reach with
          | .home => s.landAny (dieOf g.core) (some g.ctx) bytes []
          | .cluster =>
            let cc := clusterOf g.core
            let l : Line := { Line.fresh (lineNo pa) with
              bytes := x.bytes, valid := x.dirty, dirty := x.dirty, untracked := if leaf.trk then 0 else x.dirty, by_ := x.by_ }
            s.putCluster cc (((findLine (s.clusterCache cc) (lineNo pa)).getD (Line.fresh (lineNo pa))).take l x.dirty)
        .ok (s.updWg g.wid (fun (g : Workgroup) => match g.stashes.find? (fun (w : Stash) => w.win == win) with
          | none => g
          | some w => g.putStash (w.putEntry { x with dirty := 0, by_ := [] })), false)

/-- Write back every dirty entry of a window, or of every window of the workgroup. -/
def State.backStashes (s : State) (g : Workgroup) (win : Option Nat) (reach : Reach) : BackResult :=
  let work := (g.stashes.filter (fun w => win.isNone || win == some w.win)).flatMap (fun w => w.entries.map (fun x => (w.win, x.no)))
  foldE (fun (acc : State × Bool) k =>
    match acc.1.backEntry g k.1 k.2 reach with
    | .error a => .error a
    | .ok (s, nr) => .ok (s, acc.2 || nr)) (s, false) work

/-- The bytes that an entry leaves in the Local Store: those of a valid one, and dirty ones. -/
def StashEntry.leaves (x : StashEntry) : List Nat := (List.range 128).filter (fun i => x.valid || x.dirty.getLsbD i)

/-- End a window: the Local Store keeps what the valid entries hold (11, R210), with their poison. Dirty bytes that could not be written back, their
page not resident, stay there only (log 52). -/
def Workgroup.endStash (g : Workgroup) (win : Nat) : Workgroup :=
  match g.stashes.find? (fun w => w.win == win) with
  | none => g
  | some w =>
    { g with
      ls := w.entries.foldl (fun m x => x.leaves.foldl (fun m i => m.set (w.lbase + 128 * x.no + i) (x.bytes.get i)) m) g.ls
      lsPoison := w.entries.foldl (fun ps x => (List.range 4).foldl (fun ps i =>
        let k := (w.lbase + 128 * x.no) / 32 + i
        if x.poison.getLsbD i then insertNat ps k else ps.filter (fun p => p != k)) ps) g.lsPoison
      stashes := g.stashes.filter (fun x => x.win != win) }

/-- Set NR in the lanes of a mask that are no helper lanes (R28, Table 10-6). -/
def Group.setNr (g : Group) (m : BitVec 32) : Group :=
  (lanesOf (m &&& ~~~ g.helpers)).foldl (fun g i => g.updLane i (fun l => { l with nr := true })) g

/-- The workgroups for which a group acts. -/
def State.wgsOf (s : State) (g : Group) : List Workgroup := ((s.agents g).filterMap s.wgOf).eraseDups

/-- Write back the windows of a group's workgroup and set NR in the lanes `m` where a page was not resident. -/
def State.stashOut (s : State) (g : Group) (m : BitVec 32) (reach : Reach) : Except Nat State :=
  foldE (fun (s : State) (w : Workgroup) =>
    match s.backStashes w none reach with
    | .error a => .error a
    | .ok (s, nr) => .ok (if nr then s.updGroup g.gid (fun g => g.setNr m) else s)) s (s.wgsOf g)

/-- The pushes of every group for which a group acts. -/
def State.pushAll (s : State) (g : Group) (sc : Scope) : State := (s.agents g).foldl (fun s a => s.push g.ctx g.core a.gid sc) s

/-- THE PUSHES OF A RELEASE (R117, R178): the stash entries of the workgroup at `.clu` and wider, then the group's dirty bytes. The error is
the address of a write-back that the translation does not permit. -/
def State.release (s : State) (g : Group) (m : BitVec 32) (sc : Scope) : Except Nat State :=
  match sc with
  | .grp | .wg => .ok s
  | .clu => match s.stashOut g m .cluster with
    | .error a => .error a
    | .ok s => .ok (s.pushAll g sc)
  | _ => match s.stashOut g m .home with
    | .error a => .error a
    | .ok s => .ok (s.pushAll g sc)

/-- Every entry of a window becomes invalid; one with dirty bytes keeps these. -/
def Stash.dropClean (w : Stash) : Stash :=
  { w with entries := (w.entries.filter (fun y => y.dirty != 0)).map (fun y =>
      { y with valid := false, bytes := y.bytes.filter (fun c => y.dirty.getLsbD c.1), poison := 0 }) }
def Workgroup.dropClean (g : Workgroup) : Workgroup := { g with stashes := g.stashes.map Stash.dropClean }

/-- THE INVALIDATIONS OF AN ACQUIRE (R118, R178): at `.dev` and wider the windows' dirty bytes go home and every entry becomes invalid (one
that could not be written back keeps its dirty bytes); then the caches. -/
def State.acquire (s : State) (g : Group) (m : BitVec 32) (sc : Scope) : Except Nat State :=
  match sc with
  | .dev | .sys => match s.stashOut g m .home with
    | .error a => .error a
    | .ok s =>
      let s := (s.wgsOf g).foldl (fun s w => s.updWg w.wid Workgroup.dropClean) s
      .ok (s.invalidate g.core sc)
  | _ => .ok (s.invalidate g.core sc)

/-! ### Local Store addresses -/

/-- The target of an LS address word (Table 10-3): the workgroup and the offset, or nothing where R175 faults. `hi` is the high word. -/
def Env.lsTarget (e : Env) (s : State) (hi lo : Word) (width : Nat) : Option (Workgroup × Nat) :=
  let w := lo.toNat
  let off := bits w 0 20
  let wgc := bits w 20 4
  let rem := bits w 24 1 == 1
  if hi != 0 || bits w 25 7 != 0 || (!rem && wgc != 0) || e.l.wgs ≤ wgc && rem || off % width != 0 then none
  else match s.wgAt e.g.ctx e.g.launch e.g.clu (if rem then wgc else e.g.wgc) with
    | none => none
    | some t =>
      if t.freed || t.lsSize < off + width then none
      else if t.wgc != e.g.wgc && (t.stashAt off).isSome then none
      else some (t, off)

/-- The 32-byte words of the Local Store that an access meets and an engine wrote poisoned (R193). -/
def Workgroup.lsPoisoned (w : Workgroup) (off n : Nat) : Bool := w.lsPoison.any (fun k => 32 * k < off + n && off < 32 * k + 32)

/-- What filling an entry finds (R178). -/
inductive FillResult where
  | ready (s : State)
  | notResident
  | protection
  | remote (line : Nat)

/-- An entry filled with the bytes of its line, under its own dirty ones. -/
def StashEntry.filled (held : Option StashEntry) (no : Nat) (bytes : Mem) (poison : BitVec 4) : StashEntry :=
  match held with
  | none => ⟨no, true, bytes, 0, poison, []⟩
  | some y => { y with
      valid := true
      bytes := y.bytes.foldl (fun m c => m.set c.1 c.2) (bytes.filter (fun c => !y.dirty.getLsbD c.1))
      poison := poison &&& ~~~ (wordsFull y.dirty) }

/-- Make the entry of an LS offset inside a window valid: the 128 global bytes come from the cluster cache or the home, not through L1. -/
def State.fillEntry (s : State) (e : Env) (lane : Nat) (w : Workgroup) (x : Stash) (off : Nat) : FillResult :=
  let no := (off - x.lbase) / 128
  if (x.valid? no).isSome then .ready s else
  let va := x.gbase + 128 * no
  match s.checkAccess e lane (BitVec.ofNat 64 va) 128 .read with
  | none => .protection
  | some leaf =>
    if !leaf.res then .notResident else
    let pa := leaf.pa va
    let line := lineNo pa
    let held := findLine (s.clusterCache (clusterOf e.g.core)) line
    let full := (held.map (fun l => l.valid == BitVec.allOnes 128)).getD false
    if isRemote pa && !full && (findLine (s.die (dieOf e.g.core)).remote line).isNone then .remote line
    else
      let (bs, p) := match held with
        | some l => if full then (l.bytes, l.poisoned) else
            let f := Line.fill (some l) line ((s.outerLine (dieOf e.g.core) line).getD ([], 0)).1 ((s.outerLine (dieOf e.g.core) line).getD ([], 0)).2
            (f.bytes, f.poisoned)
        | none => (s.outerLine (dieOf e.g.core) line).getD ([], 0)
      let s := if full then s else s.readHome line leaf.hot (dieOf e.g.core)
      .ready ((s.noteLane e lane leaf).updWg w.wid (fun g => match g.stashes.find? (fun y => y.win == x.win) with
        | none => g
        | some y => g.putStash (y.putEntry (StashEntry.filled (y.entry? no) no bs p))))

/-- Read bytes at an LS offset, through the window that covers it; whether they are poisoned. -/
def Workgroup.lsRead (w : Workgroup) (off n : Nat) : List (BitVec 8) × Bool :=
  match w.stashAt off with
  | some x => match x.valid? ((off - x.lbase) / 128) with
    | some y => (y.bytes.read ((off - x.lbase) % 128) n, (y.poison &&& wordsMet (byteMask ((off - x.lbase) % 128) n)) != 0)
    | none => (List.replicate n 0, false)
  | none => (w.ls.read off n, w.lsPoisoned off n)

/-- A write covering a whole 32-byte word of the Local Store ends its poison. -/
def Workgroup.lsClear (w : Workgroup) (off n : Nat) : List Nat := w.lsPoison.filter (fun k => !(off ≤ 32 * k && 32 * k + 32 ≤ off + n))

/-- A write of a group through a class to a Local Store has changed the bytes at some offsets, from those of `was`. -/
def Workgroup.noteLate (w : Workgroup) (was : Mem) (gid cls : Nat) (offs : List Nat) : Workgroup :=
  match offs.filterMap (fun o => if was.get o == w.ls.get o then none else some (o, was.get o)) with
  | [] => w
  | old => { w with late := w.late ++ [⟨gid, cls, old, 0, false, []⟩] }

/-- Write bytes at an LS offset, through the window that covers it. -/
def Workgroup.lsWrite (w : Workgroup) (gid off : Nat) (bs : List (BitVec 8)) : Workgroup :=
  match w.stashAt off with
  | some x => match x.valid? ((off - x.lbase) / 128) with
    | some y =>
      let o := (off - x.lbase) % 128
      let dirty := y.dirty ||| byteMask o bs.length
      w.putStash (x.putEntry { y with bytes := y.bytes.write o bs, dirty := dirty, poison := y.poison &&& ~~~ (wordsFull dirty), by_ := insertNat y.by_ gid })
    | none => w
  | none => { w with ls := w.ls.write off bs, lsPoison := w.lsClear off bs.length : Workgroup }.noteLate w.ls gid 0 ((List.range bs.length).map (fun i => off + i))

/-! ### What class T sees of the Local Store (07, R123; 15, R290) -/

/-- How far a scope reaches, for two groups that access one Local Store: the group, its workgroup, or its cluster. -/
def Scope.reach : Scope → Nat
  | .grp => 1
  | .wg => 2
  | _ => 3

/-- A PFENCE of a group: of the writer, or, once a barrier has passed, of a group that is to read. -/
def LateWrite.fencedBy (t : LateWrite) (gid : Nat) (mask : BitVec 8) (sc : Scope) : LateWrite :=
  if !(mask.getLsbD t.cls && mask.getLsbD 2) then t else
  { t with fence := if t.gid == gid && !t.passed then max t.fence sc.reach else t.fence,
           seen := if t.passed then (gid, sc.reach) :: t.seen else t.seen }

def State.updLate (s : State) (f : LateWrite → LateWrite) : State := { s with workgroups := s.workgroups.map (fun w => { w with late := w.late.map f }) }

/-- A barrier has passed for some groups: their fenced writes have left them. -/
def LateWrite.passedBy (t : LateWrite) (gids : List Nat) : LateWrite := { t with passed := t.passed || (1 ≤ t.fence && gids.contains t.gid) }

/-- Whether a write is ordered before what class T reads for a group: within one group by one PFENCE, and otherwise by two with a barrier between
them. Orders that other synchronisation gives are not counted, so that the old value stays possible (log 58). -/
def State.lateSettled (s : State) (g : Group) (t : LateWrite) : Bool :=
  if t.gid == g.gid then 1 ≤ t.fence else
  let need := if ((s.group? t.gid).map (fun x => x.clu == g.clu && x.wgc == g.wgc)).getD false then 2 else 3
  need ≤ t.fence && t.passed && t.seen.any (fun x => x.1 == g.gid && need ≤ x.2)

/-- The Local Store as class T may read it: as it was when the instance could start, as it is now, and the writes, each with whether it was ordered
before. -/
structure LsView where
  old : Mem
  now : Mem
  late : List (LateWrite × Bool)

/-- What an element held before the writes that are not ordered, the latest of them first; a byte that an ordered write has set since then stays. -/
def lateValues (late : List (LateWrite × Bool)) (ls : Mem) (off n : Nat) : List Nat :=
  (late.reverse.foldl (fun (k : List (BitVec 8) × List Nat × List Nat) (t : LateWrite × Bool) =>
    if !t.1.old.any (fun c => off ≤ c.1 && c.1 < off + n) then k
    else if t.2 then (k.1, k.2.1 ++ t.1.old.map (fun c => c.1), k.2.2)
    else
      let bs := (k.1.zip (List.range n)).map (fun b => if k.2.1.contains (off + b.2) then b.1 else lookupD b.1 t.1.old (off + b.2))
      (bs, k.2.1, k.2.2 ++ [leNat bs])) (ls.read off n, [], [])).2.2

/-- An element as class T reads it: which of its values, where a write is not ordered before, is open, for each element by itself (R290). -/
def LsView.element (v : LsView) (s : State) (off n : Nat) : Nat :=
  let a := v.now.nat off n
  let vs := v.old.nat off n :: lateValues v.late v.now off n
  if vs.all (fun x => x == a) then a else ((a :: vs)[choose s off (vs.length + 1)]?).getD a

/-- A workgroup's Local Store as an instance would read it that a group's MMAJ starts now. -/
def State.lsView (s : State) (w : Workgroup) (g : Group) : LsView := ⟨w.ls, w.ls, w.late.map (fun t => (t, s.lateSettled g t))⟩

/-- The word cannot go on before remote lines are fetched: its slot waits, and then issues it again uncounted. -/
def Env.fetchFirst (e : Env) (lines : List Nat) (s : State) : State :=
  e.await (.request s.fresh) (e.submit (.fetch lines) s)

end Sys2Proof.Machine
end

