-- ==== Sys2Proof/Machine/LoadStore.lean ====
section
/-! DEFINITION. Loads and stores, OP 0x38 to 0x46 (11, R195–R200), and the return of a load's data. -/

namespace Sys2Proof.Machine

/-! ### Addresses and the checks of R195 -/

/-- The effective address of an M-format word whose address pair stands at byte `off` (R195). -/
def Env.ea (e : Env) (off : Nat) (l : Lane) : DWord := l.dword off + e.offset

/-- One lane's access after the checks of R195; without a leaf it is a helper lane's that would fault (R80). -/
structure Target where
  lane : Nat
  va : Nat
  leaf : Option Leaf
  deriving DecidableEq, Repr

/-- A precise fault at the lowest lane of those that fail; DETAIL names them all (17, Table 17-6). -/
def laneFault (cause : Nat) (bad : List Nat) (addr : Nat → Nat) : Option Halt :=
  match bad with
  | [] => none
  | i :: _ => some ⟨cause, 0, i, BitVec.ofNat 64 (addr i), maskOf bad⟩

/-- The checks of R195 in every lane named. -/
def Env.targets (e : Env) (s : State) (lanes : List Nat) (off width : Nat) (n : Need) : Except Halt (List Target) :=
  let ts := lanes.map (fun i => (⟨i, (e.ea off (e.g.lane i)).toNat, s.checkAccess e i (e.ea off (e.g.lane i)) width n⟩ : Target))
  let bad := (ts.filter (fun t => t.leaf.isNone && !e.g.isHelper t.lane)).map (·.lane)
  match laneFault 0x06 bad (fun i => (e.ea off (e.g.lane i)).toNat) with
  | some h => .error h
  | none => .ok ts

/-- The lanes hold their last page, and the core its translation (R182). -/
def Env.noteTargets (e : Env) (ts : List Target) (s : State) : State :=
  ts.foldl (fun s t => match t.leaf with
    | some l => if l.res then s.noteLane e t.lane l else s
    | none => s) s

/-- The accesses that take place, each of `n` bytes. -/
def accesses (ts : List Target) (bytes : Nat → List (BitVec 8)) : List Access :=
  ts.filterMap (fun t => match t.leaf with
    | some l => if l.res then some ⟨t.lane, t.va, l.pa t.va, bytes t.lane, l.trk, l.hot⟩ else none
    | none => none)

/-- The lanes whose page is not resident (Table 10-6). -/
def absentLanes (ts : List Target) : List Nat :=
  (ts.filter (fun t => match t.leaf with
    | some l => !l.res
    | none => false)).map (·.lane)

/-- The stamps of accesses (07, R131). -/
def touches (as : List Access) : List Touch := as.map (fun a => ⟨a.lane, a.pa, a.bytes.length⟩)

/-- Whether a group has stores or atomics on their way to lines of another device that some accesses touch. The fabric orders nothing, so the program order of
accesses to one location holds these back until the answers are there (07, R110; 18, R333). -/
def State.behind (s : State) (g : Group) (as : List Access) : Bool :=
  as.any (fun a => isRemote a.pa && s.requests.any (fun r =>
    (r.gid == g.gid || (s.agents g).any (fun x => x.gid == r.gid)) && (match r.job with
      | .load .. => false
      | .fetch .. => false
      | .skmerge .. => false
      | j => j.aways.any (fun p => lineNo a.pa ≤ lineNo p && lineNo p ≤ lineNo (a.pa + a.bytes.length - 1)))))

/-- Whether a core or its cluster holds dirty bytes of a location on another device. -/
def State.dirtyAway (s : State) (core pa n : Nat) : Bool :=
  isRemote pa && ([findLine (s.core core).l1 (lineNo pa), findLine (s.clusterCache (clusterOf core)) (lineNo pa)]).any (fun l =>
    (l.map (fun l => l.dirty &&& byteMask (pa % 128) n != 0)).getD false)

/-- The word is issued again later, uncounted: something it must wait for is not over. -/
def Env.retry (e : Env) (s : State) : State :=
  { s.updGroup e.g.gid (fun g => g.updSlot e.iss.slotB (fun x => { x with again := true })) with issue := none }

/-- The registers that a loaded value of `width` bytes fills: b8 and b16 are zero-extended (R197). -/
def loaded (width : Nat) (bs : List (BitVec 8)) : List (BitVec 8) := bs ++ List.replicate (4 - width) 0

/-! ### Reading on the D path -/

/-- What the lanes of a load read: register bytes, parts that must come over the fabric, the parts read here, and lanes that meet
poison. -/
structure Reading where
  s : State
  writes : List LaneWrite
  parts : List RemotePart
  src : List RemotePart
  poisoned : List Nat

/-- Whether a cache holds a clean copy of a line that is not what a fill would bring now. -/
def outdated (ls : List Line) (no : Nat) (fill : Option (Mem × BitVec 4)) : Bool :=
  ((findLine ls no).map (fun l => l.dirty == 0 && !(l.valid == BitVec.allOnes 128 && fill == some (l.bytes, l.poisoned)))).getD false

/-- A core's L1 and its cluster cache may drop a clean line at any time, between the reads of one word's lanes too (10, R170): a word can tell where
the copy is outdated. -/
def State.mayDrop (s : State) (core no i : Nat) : State :=
  let cc := clusterOf core
  let outer := s.outerLine (dieOf core) no
  let s := if outdated (s.clusterCache cc) no outer && choose s (96 + i) 2 == 1 then s.setClusterCache cc (dropLine (s.clusterCache cc) no) else s
  let inner := ((findLine (s.clusterCache cc) no).map (fun l => (l.bytes, l.poisoned))) <|> outer
  let c := s.core core
  if outdated c.l1 no inner && choose s (64 + i) 2 == 1 then s.setCore core { c with l1 := dropLine c.l1 no } else s

/-- One lane's read on the D path (10, R170, R174). -/
def Reading.step (g : Group) (policy : BitVec 2) (dest width : Nat) (r : Reading) (a : Access) : Reading :=
  let part : RemotePart := ⟨a.lane, dest, a.pa, a.bytes.length, width, []⟩
  let s := ((linesOf a.pa a.bytes.length).foldl (fun s no => s.mayDrop g.core no a.lane) r.s).allocate g.core a.pa a.bytes.length policy a.hot
  match s.seeBytes g.core a.pa a.bytes.length with
  | none =>
    let seen := (List.range a.bytes.length).map (fun i => s.seeD g.core (a.pa + i))
    let bad := seen.any (fun b => (b.map (·.2)).getD false)
    if bad && g.isHelper a.lane then { r with s := s, writes := r.writes ++ [⟨a.lane, dest, loaded width (a.bytes.map (fun _ => 0))⟩] }
    else { r with
      s := s
      parts := r.parts ++ [{ part with held := seen.map (fun b => b.map (·.1)) }]
      poisoned := if bad then r.poisoned ++ [a.lane] else r.poisoned }
  | some (bs, p) =>
    if p && g.isHelper a.lane then { r with s := s, writes := r.writes ++ [⟨a.lane, dest, loaded width (bs.map (fun _ => 0))⟩] }
    else { r with
      s := s
      writes := r.writes ++ [⟨a.lane, dest, loaded width bs⟩]
      src := r.src ++ [part]
      poisoned := if p then r.poisoned ++ [a.lane] else r.poisoned }

/-- A load performed (R197): zeros in some lanes, reads in the others, in an order that is open where lines are held (07, R108). Consumed poison
faults (10, R193). -/
def State.performLoad (s : State) (g : Group) (policy : BitVec 2) (zeros : List LaneWrite) (reads : List Access) (dest width : Nat) :
    Except Halt Reading :=
  let held := reads.any (fun a => (linesOf a.pa a.bytes.length).any (fun no =>
    (findLine (s.core g.core).l1 no).isSome || (findLine (s.clusterCache (clusterOf g.core)) no).isSome))
  let r := (if held then freeOrder s reads else reads).foldl (Reading.step g policy dest width) ⟨s, zeros, [], [], []⟩
  match laneFault 0x07 r.poisoned (fun i => ((reads.find? (fun a => a.lane == i)).map (·.va)).getD 0) with
  | some h => .error h
  | none => .ok r

/-- An acquire within a word: a write-back that the translation does not permit is a protection fault of the word. -/
def State.acquireE (s : State) (g : Group) (m : BitVec 32) (sc : Scope) : Except Halt State :=
  match s.acquire g m sc with
  | .ok s => .ok s
  | .error a => .error ⟨0x06, 0, 0, BitVec.ofNat 64 a, m⟩

/-- The slot waits for a release, after which its operation goes on; `la` opens the word's window (07, R117). -/
def Env.awaitRelease (e : Env) (la : Option Nat) (sc : Scope) (after : After) (s : State) : State :=
  e.await (.request s.fresh) (match la with
    | some n => e.openWindow n (.release sc after) s
    | none => e.submit (.release sc after) s)

/-- A load goes on: at once, or with its slot held where it acquires and bytes are still to come. -/
def Env.sendLoad (e : Env) (la : BitVec 4) (act : BitVec 32) (r : Reading) (acq : Option Scope) : Except Halt State :=
  match acq with
  | none => .ok (e.launchLong la (.load r.writes r.parts r.src none) r.s)
  | some sc =>
    if r.parts.isEmpty then
      match r.s.acquireE e.g act sc with
      | .error h => .error h
      | .ok t => .ok (e.launchLong la (.load r.writes [] r.src none) (e.sends r.s t))
    else .ok (e.await (.request r.s.fresh) (e.openWindow la.toNat (.load r.writes r.parts r.src (some sc)) r.s))

/-- LD.g (R197). -/
def loadGlobal (width : Nat) (g : BitVec 3) (t a : BitVec 7) (la : BitVec 4) (sc o : BitVec 2) (s : State) : Host.Outcome State Fault Refusal :=
  inWord s fun e =>
    if e.l.det && o != 0 then .error .illegal else
    let act := e.act g
    match e.targets s (lanesOf act) (e.v a) width .read with
    | .error h => .error h
    | .ok ts =>
      let reads := accesses ts (fun _ => List.replicate width 0)
      if s.behind e.g reads then .ok (e.retry s) else
      let absent := absentLanes ts
      let zeros := (ts.filter (fun x => !(reads.any (fun r => r.lane == x.lane)))).map (fun x =>
        (⟨x.lane, e.v t, loaded width (List.replicate width 0)⟩ : LaneWrite))
      match e.stamp (e.noteTargets ts s) false none none ((touches reads).filter (fun x => !e.g.isHelper x.lane)) with
      | .error h => .error h
      | .ok s =>
        let s := s.updGroup e.g.gid (fun x => x.setNr (maskOf absent))
        if o = 2 && act != 0 then .ok (e.awaitRelease (some la.toNat) (e.scope sc) (.load e.policy zeros reads (e.v t) width) s)
        else match s.performLoad e.g e.policy zeros reads (e.v t) width with
          | .error h => .error h
          | .ok r => e.sendLoad la act r (if o = 1 && act != 0 then some (e.scope sc) else none)

def execLdGB8 (g : BitVec 3) (t a : BitVec 7) (l : BitVec 4) (sc o : BitVec 2) (s : State) := loadGlobal 1 g t a l sc o s
def execLdGB16 (g : BitVec 3) (t a : BitVec 7) (l : BitVec 4) (sc o : BitVec 2) (s : State) := loadGlobal 2 g t a l sc o s
def execLdGB32 (g : BitVec 3) (t a : BitVec 7) (l : BitVec 4) (sc o : BitVec 2) (s : State) := loadGlobal 4 g t a l sc o s
def execLdGB64 (g : BitVec 3) (t a : BitVec 7) (l : BitVec 4) (sc o : BitVec 2) (s : State) := loadGlobal 8 g t a l sc o s
def execLdGB128 (g : BitVec 3) (t a : BitVec 7) (l : BitVec 4) (sc o : BitVec 2) (s : State) := loadGlobal 16 g t a l sc o s

/-! ### Stores on the D path -/

/-- Two accesses that share a byte. -/
def Access.meets (a b : Access) : Bool := a.pa < b.pa + b.bytes.length && b.pa < a.pa + a.bytes.length

/-- The order in which the lanes of one store write: free where two of them share a byte (07, R108). -/
def laneOrder (s : State) (as : List Access) : List Access :=
  if as.any (fun a => as.any (fun b => a.lane != b.lane && a.meets b)) then freeOrder s as else as

/-- Stores performed on the D path, for the group that each lane counts for. -/
def State.performStores (s : State) (g : Group) (policy : BitVec 2) (as : List Access) : State :=
  ((laneOrder s as).foldl (fun s a => s.storeD g.ctx g.core (s.agentOf g a.lane).gid a.pa a.bytes policy a.trk false) s).tick

/-- The lines of a releasing store reach the level of its scope: its own bytes land as part of it (07, R117, Table 7-4). -/
def State.pushLines (s : State) (g : Group) (sc : Scope) (as : List Access) : State :=
  as.foldl (fun s a => s.expose g.ctx g.core a.pa 0 sc) s

/-- ST.g (R197). -/
def storeGlobal (width : Nat) (g : BitVec 3) (t a : BitVec 7) (sc o : BitVec 2) (s : State) : Host.Outcome State Fault Refusal :=
  inWord s fun e =>
    if e.l.det && o != 0 then .error .illegal else
    let act := e.act g
    match e.targets s ((lanesOf act).filter (fun i => !e.g.isHelper i)) (e.v a) width .write with
    | .error h => .error h
    | .ok ts =>
      let writes := accesses ts (fun i => (e.g.lane i).bytes (e.v t) width)
      if s.behind e.g writes then .ok (e.retry s) else
      match e.stamp (e.noteTargets ts s) true none none (touches writes) with
      | .error h => .error h
      | .ok s =>
        let s := s.updGroup e.g.gid (fun x => x.setNr (maskOf (absentLanes ts)))
        if o != 0 && act != 0 then .ok (e.awaitRelease none (e.scope sc) (.store (o == 2) e.policy writes) s)
        else .ok (e.retire (e.sends s (s.performStores e.g e.policy writes)))

def execStGB8 (g : BitVec 3) (t a : BitVec 7) (sc o : BitVec 2) (s : State) := storeGlobal 1 g t a sc o s
def execStGB16 (g : BitVec 3) (t a : BitVec 7) (sc o : BitVec 2) (s : State) := storeGlobal 2 g t a sc o s
def execStGB32 (g : BitVec 3) (t a : BitVec 7) (sc o : BitVec 2) (s : State) := storeGlobal 4 g t a sc o s
def execStGB64 (g : BitVec 3) (t a : BitVec 7) (sc o : BitVec 2) (s : State) := storeGlobal 8 g t a sc o s
def execStGB128 (g : BitVec 3) (t a : BitVec 7) (sc o : BitVec 2) (s : State) := storeGlobal 16 g t a sc o s

/-! ### Local Store -/

/-- The bytes of the width field of Table 3-15. -/
def widthBytes (w : BitVec 2) : Nat := 2 * 2 ^ w.toNat

/-- What a word has found on its way through the lanes of the Local Store: lanes that fault, remote lines that it needs first, those that only helper lanes
need, lanes that find a page absent. -/
structure LsWalk where
  s : State
  bad : List Nat
  lines : List Nat
  help : List Nat
  absent : List Nat
  at_ : List (Nat × Nat × Nat)

/-- One lane's LS address, with the fill of its stash entry (R175, R178). A helper lane whose line another device denies goes on without it (06, R80). -/
def LsWalk.step (e : Env) (deny : List Nat) (off width : Nat) (k : LsWalk) (i : Nat) : LsWalk :=
  let ea := e.ea off (e.g.lane i)
  match e.lsTarget k.s ((ea >>> 32).truncate 32) (ea.truncate 32) width with
  | none => { k with bad := k.bad ++ [i] }
  | some (w, o) =>
    match w.stashAt o with
    | none => { k with at_ := k.at_ ++ [(i, w.wid, o)] }
    | some x => match k.s.fillEntry e i w x o with
      | .ready s => { k with s := s, at_ := k.at_ ++ [(i, w.wid, o)] }
      | .notResident => { k with absent := k.absent ++ [i] }
      | .protection => { k with bad := k.bad ++ [i] }
      | .remote n =>
        if !e.g.isHelper i then { k with lines := insertNat k.lines n }
        else if deny.contains n then k
        else { k with help := insertNat k.help n }

/-- The byte under which an LS access is stamped: its own, or the global byte that a window maps (R179). -/
def State.lsStampAddr (s : State) (e : Env) (wid off : Nat) : Nat :=
  match s.wg? wid with
  | none => lsAddr wid off
  | some w => match w.stashAt off with
    | none => lsAddr wid off
    | some x =>
      let va := x.gbase + (off - x.lbase)
      match s.findLeaf e.g.ctx (dieOf e.g.core) (s.core e.g.core).tlb va .read with
      | some l => l.pa va
      | none => lsAddr wid off

/-- The LS accesses of a word in the lanes named. -/
def Env.lsWalk (e : Env) (s : State) (deny lanes : List Nat) (off width : Nat) : LsWalk :=
  lanes.foldl (LsWalk.step e deny off width) ⟨s, [], [], [], [], []⟩

/-- The lines that a word fetches first: those that its other lanes need, and then those of its helper lanes. -/
def LsWalk.first (k : LsWalk) : List Nat := if k.lines.isEmpty then k.help else k.lines

/-- The fault of an LS word: its first faulting lane that is no helper lane. -/
def LsWalk.fault (k : LsWalk) (e : Env) (off : Nat) : Option Halt :=
  laneFault 0x06 (k.bad.filter (fun i => !e.g.isHelper i)) (fun i => (e.ea off (e.g.lane i)).toNat)

/-- LD.l (R198), whose helper lanes get zero for the lines that another device denies (06, R80). -/
def loadLocal (deny : List Nat) (g : BitVec 3) (t a : BitVec 7) (l : BitVec 4) (w : BitVec 2) (s : State) : Host.Outcome State Fault Refusal :=
  inWord s fun e =>
    if e.g.isHandler then .error .illegal else
    let width := widthBytes w
    let lanes := lanesOf (e.act g)
    let k := e.lsWalk s deny lanes (e.v a) width
    match k.fault e (e.v a) with
    | some h => .error h
    | none =>
      if !k.first.isEmpty then .ok (e.fetchFirst k.first s) else
      let got := k.at_.map (fun x => (x.1, ((k.s.wg? x.2.1).map (fun w => w.lsRead x.2.2 width)).getD ([], false)))
      match laneFault 0x07 ((got.filter (fun x => x.2.2 && !e.g.isHelper x.1)).map (·.1)) (fun i => (e.ea (e.v a) (e.g.lane i)).toNat) with
      | some h => .error h
      | none =>
        match e.stamp k.s false none none ((k.at_.filter (fun x => !e.g.isHelper x.1)).map (fun x =>
            ⟨x.1, k.s.lsStampAddr e x.2.1 x.2.2, width⟩)) with
        | .error h => .error h
        | .ok s =>
          let value := fun (i : Nat) => match got.find? (fun x => x.1 == i) with
            | some x => if x.2.2 then List.replicate width 0 else x.2.1
            | none => List.replicate width 0
          let s := s.updGroup e.g.gid (fun x => x.setNr (maskOf k.absent))
          .ok (e.launchLong l (.load (lanes.map (fun i => ⟨i, e.v t, loaded width (value i)⟩)) [] [] none) s)

def execLdL (g : BitVec 3) (t a : BitVec 7) (l : BitVec 4) (w : BitVec 2) (s : State) := loadLocal [] g t a l w s

/-- ST.l (R198). -/
def execStL (g : BitVec 3) (t a : BitVec 7) (w : BitVec 2) (s : State) : Host.Outcome State Fault Refusal :=
  inWord s fun e =>
    if e.g.isHandler then .error .illegal else
    let width := widthBytes w
    let k := e.lsWalk s [] ((lanesOf (e.act g)).filter (fun i => !e.g.isHelper i)) (e.v a) width
    match k.fault e (e.v a) with
    | some h => .error h
    | none =>
      if !k.first.isEmpty then .ok (e.fetchFirst k.first s) else
      match e.stamp k.s true none none (k.at_.map (fun x => ⟨x.1, k.s.lsStampAddr e x.2.1 x.2.2, width⟩)) with
      | .error h => .error h
      | .ok s =>
        let shared := k.at_.any (fun x => k.at_.any (fun y => x.1 != y.1 && x.2.1 == y.2.1 && x.2.2 < y.2.2 + width && y.2.2 < x.2.2 + width))
        let order := if shared then freeOrder s k.at_ else k.at_
        let s := order.foldl (fun s x => s.updWg x.2.1 (fun w => w.lsWrite e.g.gid x.2.2 ((e.g.lane x.1).bytes (e.v t) width))) s
        .ok (e.retire (s.tick.updGroup e.g.gid (fun x => x.setNr (maskOf k.absent))))

/-! ### Constants (R199) -/

/-- One byte of a read through a private cache of clean lines; a remote line must be fetched first. -/
structure CacheRead where
  s : State
  bytes : List (BitVec 8)
  poisoned : Bool
  absent : Bool
  bad : Bool
  lines : List Nat

/-- Which private cache of the core a read goes through. -/
inductive Cached where
  | constants | tiles
  deriving DecidableEq, Repr

def Cached.lines (k : Cached) (c : Core) : List Line :=
  match k with
  | .constants => c.constants
  | .tiles => c.tiles
/-- Each of the two holds 512 lines (10, R169). -/
def Cached.put (k : Cached) (s : State) (c : Core) (l : Line) : Core :=
  match k with
  | .constants => { c with constants := putCapped s 512 c.constants l }
  | .tiles => { c with tiles := putCapped s 512 c.tiles l }

/-- The dirty byte of the tile write buffer, which the tile path reads before anything else (R200; 07, R110). -/
def Core.buffered (c : Core) (pa : Nat) : Option (BitVec 8 × Bool) :=
  match findLine c.tileBuf (lineNo pa) with
  | some l => if l.dirty.getLsbD (pa % 128) then some (l.bytes.get (pa % 128), l.poisoned.getLsbD (pa % 128 / 32)) else none
  | none => none

/-- Read one byte at a virtual address through a private cache. -/
def CacheRead.byte (k : Cached) (e : Env) (lane : Nat) (r : CacheRead) (va : Nat) : CacheRead :=
  match r.s.checkAccess e lane (BitVec.ofNat 64 va) 1 .read with
  | none => { r with bad := true, bytes := r.bytes ++ [0] }
  | some l =>
    if !l.res then { r with absent := true, bytes := r.bytes ++ [0] } else
    let pa := l.pa va
    let no := lineNo pa
    let s := r.s.noteLane e lane l
    match if k == .tiles then (s.core e.g.core).buffered pa else none with
    | some (b, p) => { r with s := s, bytes := r.bytes ++ [b], poisoned := r.poisoned || p }
    | none =>
      match findLine (k.lines (s.core e.g.core)) no with
      | some x => { r with s := s, bytes := r.bytes ++ [x.bytes.get (pa % 128)], poisoned := r.poisoned || x.poisoned.getLsbD (pa % 128 / 32) }
      | none =>
        match s.outerLine (dieOf e.g.core) no with
        | none => { r with lines := insertNat r.lines no, bytes := r.bytes ++ [0] }
        | some (bs, p) =>
          let s := if isRemote pa then s else s.readHome no l.hot (dieOf e.g.core)
          let s := s.setCore e.g.core (k.put s (s.core e.g.core) (Line.clean no bs p))
          { r with s := s, bytes := r.bytes ++ [bs.get (pa % 128)], poisoned := r.poisoned || p.getLsbD (pa % 128 / 32) }

/-- Read `n` bytes at a virtual address through a private cache. -/
def State.cacheRead (s : State) (k : Cached) (e : Env) (lane va n : Nat) : CacheRead :=
  (List.range n).foldl (fun r i => CacheRead.byte k e lane r (va + i)) ⟨s, [], false, false, false, []⟩

/-- The value of the constant space at an offset: the kernel's segment, zeros past its end, the argument block (R199). -/
def State.constRead (s : State) (e : Env) (lane off n : Nat) : CacheRead :=
  (List.range n).foldl (fun (r : CacheRead) i =>
    let o := off + i
    if o < 0x10000 then
      (if o < e.k.clen && e.k.constBase != 0 then CacheRead.byte .constants e lane r (e.k.constBase + o) else { r with bytes := r.bytes ++ [0] })
    else if e.l.argPtr == 0 then { r with bytes := r.bytes ++ [0] }
    else CacheRead.byte .constants e lane r ((e.l.argPtr + (o - 0x10000)) % 2 ^ 64)) ⟨s, [], false, false, false, []⟩

/-- The loads that go through a private cache, lane after lane. -/
structure CacheWalk where
  s : State
  writes : List LaneWrite
  bad : List Nat
  poisoned : List Nat
  absent : List Nat
  lines : List Nat
  help : List Nat

/-- One lane of such a load; `read` is none where the address itself faults. A helper lane gets zero where another device denies its lines (06, R80). -/
def CacheWalk.step (e : Env) (deny : List Nat) (dest width : Nat) (read : State → Nat → Option CacheRead) (k : CacheWalk) (i : Nat) : CacheWalk :=
  let zero : LaneWrite := ⟨i, dest, loaded width (List.replicate width 0)⟩
  match read k.s i with
  | none => { k with bad := if e.g.isHelper i then k.bad else k.bad ++ [i], writes := k.writes ++ [zero] }
  | some r =>
    if r.bad then { k with bad := if e.g.isHelper i then k.bad else k.bad ++ [i], writes := k.writes ++ [zero] }
    else if r.absent then { k with s := r.s, absent := k.absent ++ [i], writes := k.writes ++ [zero] }
    else if !r.lines.isEmpty then
      (if !e.g.isHelper i then { k with lines := r.lines.foldl insertNat k.lines }
      else if r.lines.all (fun n => deny.contains n) then { k with writes := k.writes ++ [zero] }
      else { k with help := r.lines.foldl insertNat k.help })
    else if r.poisoned then
      { k with s := r.s, poisoned := if e.g.isHelper i then k.poisoned else k.poisoned ++ [i], writes := k.writes ++ [zero] }
    else { k with s := r.s, writes := k.writes ++ [⟨i, dest, loaded width r.bytes⟩] }

/-- The lines that a word fetches first: those that its other lanes need, and then those of its helper lanes. -/
def CacheWalk.first (k : CacheWalk) : List Nat := if k.lines.isEmpty then k.help else k.lines

/-- A load through a private cache: faults, fetches of remote lines, stamps of the bytes read, then the long-latency delivery. -/
def Env.cacheLoad (e : Env) (deny : List Nat) (g : BitVec 3) (la : BitVec 4) (dest off width : Nat) (read : State → Nat → Option CacheRead)
    (touched : State → Nat → List Touch) (s : State) : Except Halt State :=
  let lanes := lanesOf (e.act g)
  let k := lanes.foldl (CacheWalk.step e deny dest width read) ⟨s, [], [], [], [], [], []⟩
  let addr := fun i => (e.ea off (e.g.lane i)).toNat
  match laneFault 0x06 k.bad addr with
  | some h => .error h
  | none =>
    if !k.first.isEmpty then .ok (e.fetchFirst k.first s) else
    match laneFault 0x07 k.poisoned addr with
    | some h => .error h
    | none =>
      match e.stamp k.s false none none ((lanes.filter (fun i => !e.g.isHelper i && !k.absent.contains i)).flatMap (touched k.s)) with
      | .error h => .error h
      | .ok s => .ok (e.launchLong la (.load k.writes [] [] none) (s.updGroup e.g.gid (fun x => x.setNr (maskOf k.absent))))

/-- The physical byte of a virtual address, for a stamp. -/
def State.stampAt (s : State) (e : Env) (lane va n : Nat) : List Touch :=
  match s.findLeaf e.g.ctx (dieOf e.g.core) (s.core e.g.core).tlb va .read with
  | some l => [⟨lane, l.pa va, n⟩]
  | none => []

/-- LDC (R199). -/
def loadConstant (deny : List Nat) (g : BitVec 3) (t a : BitVec 7) (l : BitVec 4) (w : BitVec 2) (s : State) : Host.Outcome State Fault Refusal :=
  inWord s fun e =>
    let width := widthBytes w
    let offOf := fun (i : Nat) => (e.ea (e.v a) (e.g.lane i)).toNat
    let read := fun (s : State) (i : Nat) =>
      let o := offOf i
      if 2 ^ 32 ≤ o || o % width != 0 || 0x11000 ≤ o then none else some (s.constRead e i o width)
    let touched := fun (s : State) (i : Nat) =>
      let o := offOf i
      if o < 0x10000 then (if o < e.k.clen && e.k.constBase != 0 then s.stampAt e i (e.k.constBase + o) (min width (e.k.clen - o)) else [])
      else if e.l.argPtr == 0 then []
      else (List.range width).flatMap (fun j => s.stampAt e i (e.l.argPtr + (o - 0x10000) + j) 1)
    e.cacheLoad deny g l (e.v t) (e.v a) width read touched s

def execLdc (g : BitVec 3) (t a : BitVec 7) (l : BitVec 4) (w : BitVec 2) (s : State) := loadConstant [] g t a l w s

/-! ### The tile path (R200) -/

/-- LDT (R200). -/
def loadTile (deny : List Nat) (g : BitVec 3) (t a : BitVec 7) (l : BitVec 4) (w : BitVec 2) (s : State) : Host.Outcome State Fault Refusal :=
  inWord s fun e =>
    let width := widthBytes w
    let addr := fun (i : Nat) => (e.ea (e.v a) (e.g.lane i)).toNat
    let read := fun (s : State) (i : Nat) =>
      if 2 ^ 56 ≤ addr i || addr i % width != 0 then none else some (s.cacheRead .tiles e i (addr i) width)
    e.cacheLoad deny g l (e.v t) (e.v a) width read (fun s i => s.stampAt e i (addr i) width) s

def execLdt (g : BitVec 3) (t a : BitVec 7) (l : BitVec 4) (w : BitVec 2) (s : State) := loadTile [] g t a l w s

/-- A tile write buffer of 128 lines (10, R169) with one too many lands a line; which one is open. Lines of another device stay until their write there is
acknowledged (18, R333; log 51). -/
def State.trimBuffer (s : State) (core new : Nat) : State :=
  let c := s.core core
  if c.tileBuf.length ≤ 128 then s else
  match victim s new (c.tileBuf.filter (fun x => x.no != new && !isRemote (x.no * 128))) with
  | none => s
  | some v => (s.landAny (dieOf core) (s.lineOwner v) v.dirtyBytes v.poisonedWords).setCore core { c with tileBuf := dropLine c.tileBuf v.no }

/-- A store on the tile path: dirty in the write buffer of the core, and in the tile cache's copy of the line. -/
def State.storeT (s : State) (core gid pa : Nat) (bs : List (BitVec 8)) (trk : Bool) : State :=
  let c := s.core core
  let no := lineNo pa
  let buf := ((findLine c.tileBuf no).getD (Line.fresh no)).write (pa % 128) bs true (!trk) gid
  let tiles := match findLine c.tiles no with
    | some l => putLine c.tiles (l.write (pa % 128) bs false false gid)
    | none => c.tiles
  (s.setCore core { c with tileBuf := putLine c.tileBuf buf, tiles := tiles }).trimBuffer core no

/-- ST.t (R200). -/
def execStT (g : BitVec 3) (t a : BitVec 7) (w : BitVec 2) (s : State) : Host.Outcome State Fault Refusal :=
  inWord s fun e =>
    let width := widthBytes w
    match e.targets s ((lanesOf (e.act g)).filter (fun i => !e.g.isHelper i)) (e.v a) width .write with
    | .error h => .error h
    | .ok ts =>
      let writes := accesses ts (fun i => (e.g.lane i).bytes (e.v t) width)
      match e.stamp (e.noteTargets ts s) true none none (touches writes) with
      | .error h => .error h
      | .ok s =>
        let s := (laneOrder s writes).foldl (fun s x => s.storeT e.g.core (s.agentOf e.g x.lane).gid x.pa x.bytes x.trk) s
        .ok (e.retire (s.tick.updGroup e.g.gid (fun x => x.setNr (maskOf (absentLanes ts)))))

/-! ### The return of a load -/

/-- The lines that a list of parts needs, in the order of first need. -/
def partLines (ps : List RemotePart) : List Nat := (ps.map (fun p => lineNo p.pa)).eraseDups

/-- Cut bytes into lines of 128. -/
def cutLines : List Nat → List (BitVec 8) → List (Nat × List (BitVec 8))
  | [], _ => []
  | n :: r, bs => (n, bs.take 128) :: cutLines r (bs.drop 128)

/-- Remote-read lines fill in the L2 of a die (10, R194). -/
def State.fillRemote (s : State) (die : Nat) (ls : List (Nat × List (BitVec 8))) : State :=
  ls.foldl (fun s l => s.putRemote die (Line.clean l.1 (Mem.write [] 0 l.2) 0)) s

/-- A word has completed: its window stalls its slot no longer, and lasts for the words that it has left (03, R37, R38). -/
def State.closeWindow (s : State) (gid id : Nat) : State :=
  let mark := fun (w : Window) => if w.id == id then { w with complete := true } else w
  s.updGroup gid (fun g => { g with windows := (g.windows.map mark).filter (fun w => !(w.complete && w.left == 0)) })

/-- A window of a word that has completed already, over the words that its LA names (03, R38, R39). -/
def Env.openDone (e : Env) (la : BitVec 4) (s : State) : State :=
  if la = 0 then s else
  let w : Window := ⟨s.fresh, e.iss.slotB, la.toNat, e.iss.reads, e.iss.writes, false, true⟩
  (s.updGroup e.g.gid (fun g => { g with windows := g.windows ++ [w] })).tick

/-- Deliver a request's register bytes; its window closes and it is done. -/
def State.deliver (s : State) (r : Request) (ws : List LaneWrite) : State :=
  ((s.updGroup r.gid (fun g => g.writes ws)).closeWindow r.gid r.id).dropRequest r.id

/-- The slot, or the parked path, that waits for a request goes on after its word. -/
def State.wake (s : State) (r : Request) : State :=
  s.resumeWhere r.gid (fun x => x.wait == some (.request r.id)) r.pc

/-- The bytes that the fabric brought for a request of `ls` lines, if they are whole. -/
def replyLines (x : RemoteReply) (ls : List Nat) : Option (List (Nat × List (BitVec 8))) :=
  match x with
  | .data bs => if bs.length == 128 * ls.length then some (cutLines ls bs) else none
  | _ => none

/-- The active lanes of the word that made a request (its guard stands in bits 24:22). -/
def Env.actWord (e : Env) : BitVec 32 := e.act (BitVec.ofNat 3 (bits e.iss.word.toNat 22 3))

/-- The register bytes of a load that waited for the fabric are written, and its acquire takes effect. -/
def State.endRemoteLoad (s : State) (e : Env) (r : Request) (ws : List LaneWrite) (acq : Option Scope) : Except Halt State :=
  let s := s.deliver r ws
  match acq with
  | none => .ok s
  | some sc => match s.acquireE e.g e.actWord sc with
    | .error h => .error h
    | .ok t => .ok ((e.sends s t).wake r)

/-- The bytes of a part: those that a cache held when the load issued, and the others as the fabric brought their lines. -/
def RemotePart.bytes (p : RemotePart) (ls : List (Nat × List (BitVec 8))) : List (BitVec 8) :=
  (List.range p.size).map (fun i => ((p.held[i]?).join).getD ((lookupD [] ls (lineNo (p.pa + i))).getD ((p.pa + i) % 128) 0))

/-- The end of a load with parts from another device: its lines fill, it has their bytes, and an acquire takes effect. -/
def State.finishRemoteLoad (s : State) (e : Env) (r : Request) (ws : List LaneWrite) (ps : List RemotePart) (acq : Option Scope)
    (ls : List (Nat × List (BitVec 8))) : Except Halt State :=
  let s := ps.foldl (fun s p => s.allocate e.g.core p.pa p.size e.policy false) (s.fillRemote (dieOf e.g.core) ls)
  s.endRemoteLoad e r (ws ++ ps.map (fun p => ⟨p.lane, p.off, loaded p.width (p.bytes ls)⟩)) acq

/-- The word of a request is executed with the lines that another device denies it, for its helper lanes (06, R80). -/
def State.withDenied (s : State) (e : Env) (r : Request) (lines : List Nat) : Host.Outcome State Fault Refusal :=
  let go := fun (i : Instr) => ({ (s.dropRequest r.id).updGroup r.gid (fun g =>
      g.updPlaces (fun x => if x.wait == some (.request r.id) then { x with wait := none } else x)) with
    issue := some { e.iss with reads := (spans e.k e.hints 0 i).1, writes := (spans e.k e.hints 0 i).2 } } : State)
  match decodeWf r.word with
  | .ok (.ldc g d a l w) => loadConstant lines g d a l w (go (.ldc g d a l w))
  | .ok (.ldt g d a l w) => loadTile lines g d a l w (go (.ldt g d a l w))
  | .ok (.ldL g d a l w) => loadLocal lines g d a l w (go (.ldL g d a l w))
  | _ => .next s

/-- Whether lines that a word fetched are those of its helper lanes alone: a load fetches these last, so that its execution without them asks for none of
them again. -/
def State.onlyHelpers (s : State) (e : Env) (r : Request) (lines : List Nat) : Bool :=
  e.g.helpers != 0 && (match s.withDenied e r lines with
    | .next t => !t.requests.any (fun q => q.gid == r.gid && s.fresh ≤ q.id && (match q.job with
        | .fetch ls => ls.any (fun n => lines.contains n)
        | _ => false))
    | _ => false) && (match decodeWf r.word with
    | .ok (.ldc ..) => true
    | .ok (.ldt ..) => true
    | .ok (.ldL ..) => true
    | _ => false)

/-- What a reply to the lines that a word fetched comes to where it brings none: the fault of the word, or of the request, or the word goes on without
them where only helper lanes asked (at once, or issued again where its path is parked). The descriptor of a merge's destination is read for the word itself, so that its faults are precise: a refusal at the
descriptor's address, and one that its home found ill-formed, which answers without bytes (12, R225; 14, R259, R268). -/
def State.fetchFails (s : State) (e : Env) (r : Request) (refused : Bool) (lines : List Nat) : Host.Outcome State Fault Refusal :=
  if opOf r.word == 0x6F then
    let lane := (lanesOf e.actWord).headD 0
    let va := ((e.g.lane lane).dword (e.v (fieldOf r.word 15 7))).toNat
    .next (e.takeFault (if refused then .protection lane va else .operand) (s.dropRequest r.id))
  else if !refused then .next s
  else if s.onlyHelpers e r lines then
    (if ((s.group? r.gid).map (fun g => (g.slot r.slotB).wait == some (.request r.id))).getD false then s.withDenied e r lines else
    .next ((s.dropRequest r.id).updGroup r.gid (fun g =>
      g.updPlaces (fun x => if x.wait == some (.request r.id) then { x with wait := none, again := true } else x))))
  else .next (s.engineFault r 0x06 ((oneOf s (lines.map (fun n => 128 * n))).getD 0))

/-- A load performed again faults: at its slot where that still stands at it, and otherwise as a word that stays in flight. -/
def State.reperformFails (s : State) (e : Env) (r : Request) (h : Halt) : State :=
  if e.g.places.any (fun x => x.wait == some (.request r.id)) then e.takeFault h ((s.closeWindow r.gid r.id).dropRequest r.id)
  else e.flightFault h s

/-- The meaning of a load that does not read the D path, without lines that another device denies its helper lanes. -/
def privateLoad (deny : List Nat) (i : Instr) : Option (State → Host.Outcome State Fault Refusal) :=
  match i with
  | .ldL g t a l w => some (loadLocal deny g t a l w)
  | .ldc g t a l w => some (loadConstant deny g t a l w)
  | .ldt g t a l w => some (loadTile deny g t a l w)
  | _ => none

/-- A word is executed once more for a request of its own: what its group reads anew replaces the request's job, and the group's slots stay as they
were. Lines of another device that it needs are fetched first. -/
def State.readAgain (s : State) (e : Env) (r : Request) (ws : List LaneWrite) (f : State → Host.Outcome State Fault Refusal) : State :=
  let lanes := maskOf (ws.map (fun w => w.lane))
  match f { s with issue := some { e.iss with redo := true, act := lanes, eff := lanes } } with
  | .next t => (match t.group? r.gid with
    | some g => (match g.fault, t.requests.filter (fun q => s.requests.all (fun p => p.id != q.id)) with
      | some h, _ => s.reperformFails e r h
      | none, [q] => (match q.job with
        | .load .. => ({ t with requests := s.requests, issue := none } : State).setGroup { e.g with lanes := g.lanes } |>.setJob r.id q.job
        | .fetch lines => ({ s with fresh := t.fresh } : State).setJob r.id (.reload ws lines)
        | _ => s)
      | none, _ => s)
    | none => s)
  | _ => s

/-- The lines that a request still waits for. -/
def State.waitsLines (s : State) (id : Nat) : List Nat :=
  match s.request? id with
  | none => []
  | some r => match r.job with
    | .reload _ ls => ls
    | _ => []

/-- The lines of a load that is performed again have come, or another device denies them: it is the fault of R333, unless only helper lanes asked for them,
which a load asks for last. -/
def State.reloaded (s : State) (e : Env) (r : Request) (ws : List LaneWrite) (lines deny : List Nat) : State :=
  match (decodeWf r.word).toOption.bind (privateLoad deny) with
  | none => s
  | some f =>
    let t := s.readAgain e r ws f
    if deny.isEmpty then t
    else if e.g.helpers != 0 && !(t.waitsLines r.id).any (fun n => lines.contains n) then t
    else s.engineFault r 0x06 ((oneOf s (lines.map (fun n => 128 * n))).getD 0)

/-- LOAD_DATA_RETURN (R197; 03, R37): the bytes of a load are written and its window closes; lines fetched for a word that waits come in.
With parts on another device the reply must bring their lines; a refusal is the protection fault of R333, unless only helper lanes asked, whose loads
then give zero (06, R80). -/
def execLoadDataReturn (id : Nat) (remote : RemoteReply) (s : State) : Host.Outcome State Fault Refusal :=
  match s.live? id with
  | none => .next s
  | some r =>
    match r.job with
    | .load ws [] _ none => .next (s.deliver r ws)
    | .load ws ps _ acq =>
      (match remote, replyLines remote (partLines ps), s.reqEnv r with
      | .refused, _, some e => (match oneOf s ((ps.filter (fun p => !e.g.isHelper p.lane)).map (fun p => p.pa)) with
        | some pa => .next (s.engineFault r 0x06 pa)
        | none => match s.endRemoteLoad e r (ws ++ ps.map (fun p => ⟨p.lane, p.off, loaded p.width (List.replicate p.size 0)⟩)) acq with
          | .ok s => .next s
          | .error h => .next (e.takeFault h ((s.closeWindow r.gid id).dropRequest id)))
      | _, some ls, some e => match s.finishRemoteLoad e r ws ps acq ls with
        | .ok s => .next s
        | .error h => .next (e.takeFault h ((s.closeWindow r.gid id).dropRequest id))
      | _, _, _ => .next s)
    | .fetch lines =>
      (match remote, replyLines remote lines, s.reqEnv r with
      | .refused, _, some e => s.fetchFails e r true lines
      | .refused, _, none => .next (s.engineFault r 0x06 (128 * lines.headD 0))
      | .data [], none, some e => s.fetchFails e r false []
      | _, some ls, some e => .next (((s.fillRemote (dieOf e.g.core) ls).dropRequest id).updGroup r.gid (fun g =>
          g.updPlaces (fun x => if x.wait == some (.request r.id) then { x with wait := none, again := true } else x)))
      | _, _, _ => .next s)
    | .reload ws lines =>
      (match remote, replyLines remote lines, s.reqEnv r with
      | .refused, _, some e => .next (s.reloaded e r ws lines lines)
      | .refused, _, none => .next (s.engineFault r 0x06 (128 * lines.headD 0))
      | _, some ls, some e => .next ((s.fillRemote (dieOf e.g.core) ls).reloaded e r ws lines [])
      | _, _, _ => .next s)
    | _ => .next s

end Sys2Proof.Machine
end

