-- ==== Sys2Proof/Machine/Atomic.lean ====
section
/-! DEFINITION. ATOM and RED, OP 0x47 to 0x4C, and LSADD, OP 0x4F (11, R201–R203). -/

namespace Sys2Proof.Machine

/-- The atomic steps of a word done so far: old values, steps that go to another device, lanes whose location is poisoned. -/
structure AtomRun where
  s : State
  olds : List (Nat × Word)
  remote : List AtomAct
  poisoned : List Nat

/-- The copies of a location on another device leave a core, its cluster and its die, dirty bytes with a write to it (07, R110; 10, R194). -/
def State.exposeAway (s : State) (ctx core pa : Nat) : State :=
  let s := s.expose ctx core pa 4 .sys
  s.setDie (dieOf core) { s.die (dieOf core) with remote := dropLine (s.die (dieOf core)).remote (lineNo pa) }

/-- One lane's atomic step, here or as a request to the remote home (R202; 07, R128). -/
def AtomRun.step (g : Group) (sc : Scope) (policy : BitVec 2) (r : AtomRun) (a : AtomAct) : AtomRun :=
  if isRemote a.pa then
    { r with
      s := { r.s.exposeAway g.ctx g.core a.pa with outbox := (r.s.exposeAway g.ctx g.core a.pa).outbox ++ [.request (sysNode a.pa) (sysOff a.pa) (.atom a.op a.v a.swap) a.trk] }
      remote := r.remote ++ [a] }
  else
    let (old, p, s) := r.s.atomStep g.ctx g.core (r.s.agentOf g a.lane).gid sc policy a
    { r with s := s, olds := r.olds ++ [(a.lane, old)], poisoned := if p then r.poisoned ++ [a.lane] else r.poisoned }

/-- The order of the lanes of one word: free where two of them name one location (R202). -/
def atomOrder (s : State) (as : List AtomAct) : List AtomAct :=
  if as.any (fun a => as.any (fun b => a.lane != b.lane && a.pa == b.pa)) then freeOrder s as else as

/-- All the atomic steps of a word. -/
def State.performAtoms (s : State) (g : Group) (sc : Scope) (policy : BitVec 2) (as : List AtomAct) : AtomRun :=
  let r := (atomOrder s as).foldl (AtomRun.step g sc policy) ⟨s, [], [], []⟩
  { r with s := r.s.tick }

/-- The targets of an atomic: R195, and a system address needs `.sys` (R201). -/
def Env.atomTargets (e : Env) (s : State) (lanes : List Nat) (off : Nat) (sc : Scope) : Except Halt (List Target) :=
  match e.targets s lanes off 4 .write with
  | .error h => .error h
  | .ok ts =>
    let bad := (ts.filter (fun t => match t.leaf with
      | some l => isRemote (l.pa t.va) && sc != .sys
      | none => false)).map (·.lane)
    match laneFault 0x06 bad (fun i => (e.ea off (e.g.lane i)).toNat) with
    | some h => .error h
    | none => .ok ts

/-- The lanes' steps: operand at `dest`, the swap value of a cas behind it. -/
def Env.atomActs (e : Env) (op : AtomOp) (dest : Nat) (as : List Access) : List AtomAct :=
  as.map (fun a => ⟨a.lane, a.va, a.pa, a.trk, a.hot, op, (e.g.lane a.lane).word dest, (e.g.lane a.lane).word (dest + 4), false⟩)

/-- An ATOM performed: poison in a delivered value is consumption (10, R193); its old values are delivered later. -/
def Env.performAtom (e : Env) (dest : Nat) (zeros : List Nat) (acts : List AtomAct) (sc : Scope) (acq : Bool) (act : BitVec 32)
    (s : State) : Except Halt (State × Job) :=
  let r := s.performAtoms e.g sc e.policy acts
  match laneFault 0x07 r.poisoned (fun i => ((acts.find? (fun a => a.lane == i)).map (fun a => a.va)).getD 0) with
  | some h => .error h
  | none =>
    let ws := (zeros.map (fun i => (⟨i, dest, leBytes 4 0⟩ : LaneWrite))) ++ r.olds.map (fun o => ⟨o.1, dest, leBytes 4 o.2.toNat⟩)
    let job := Job.atom ws dest r.remote (if acq && !r.remote.isEmpty then some sc else none)
    if !acq || !r.remote.isEmpty then .ok (r.s, job)
    else match r.s.acquireE e.g act sc with
      | .error h => .error h
      | .ok s => .ok (s, job)

/-- ATOM with an operation (R201, R202). -/
def atomic (op : AtomOp) (g : BitVec 3) (t a : BitVec 6) (la : BitVec 4) (scf o : BitVec 2) (s : State) : Host.Outcome State Fault Refusal :=
  inWord s fun e =>
    if e.l.det then .error .illegal else
    let act := e.act g
    let off := e.k.vwv + 8 * a.toNat
    let sc := e.scope scf
    match e.atomTargets s ((lanesOf act).filter (fun i => !e.g.isHelper i)) off sc with
    | .error h => .error h
    | .ok ts =>
      let as := accesses ts (fun _ => List.replicate 4 0)
      if s.behind e.g as then .ok (e.retry s) else
      let acts := e.atomActs op (e.v t) as
      let zeros := (lanesOf act).filter (fun i => !(as.any (fun x => x.lane == i)))
      let s := (e.noteTargets ts s).updGroup e.g.gid (fun x => x.setNr (maskOf (absentLanes ts)))
      if o != 0 && act != 0 then .ok (e.awaitRelease (some la.toNat) sc (.atom (some (e.v t)) acts zeros) s)
      else if acts.any (fun a => s.dirtyAway e.g.core a.pa 4) then .ok (e.awaitRelease (some la.toNat) .grp (.atomAway (some (e.v t)) acts zeros) s)
      else match e.performAtom (e.v t) zeros acts sc false act s with
        | .error h => .error h
        | .ok (s, job) => .ok (e.launchLong la job s)

def execAtomAdd (g : BitVec 3) (t a : BitVec 6) (l : BitVec 4) (sc o : BitVec 2) (s : State) := atomic .add g t a l sc o s
def execAtomAnd (g : BitVec 3) (t a : BitVec 6) (l : BitVec 4) (sc o : BitVec 2) (s : State) := atomic .and g t a l sc o s
def execAtomOr (g : BitVec 3) (t a : BitVec 6) (l : BitVec 4) (sc o : BitVec 2) (s : State) := atomic .or g t a l sc o s
def execAtomXor (g : BitVec 3) (t a : BitVec 6) (l : BitVec 4) (sc o : BitVec 2) (s : State) := atomic .xor g t a l sc o s
def execAtomMinN (g : BitVec 3) (t a : BitVec 6) (l : BitVec 4) (sc o : BitVec 2) (s : State) := atomic .minN g t a l sc o s
def execAtomMinS (g : BitVec 3) (t a : BitVec 6) (l : BitVec 4) (sc o : BitVec 2) (s : State) := atomic .minS g t a l sc o s
def execAtomMaxN (g : BitVec 3) (t a : BitVec 6) (l : BitVec 4) (sc o : BitVec 2) (s : State) := atomic .maxN g t a l sc o s
def execAtomMaxS (g : BitVec 3) (t a : BitVec 6) (l : BitVec 4) (sc o : BitVec 2) (s : State) := atomic .maxS g t a l sc o s
def execAtomExch (g : BitVec 3) (t a : BitVec 6) (l : BitVec 4) (sc o : BitVec 2) (s : State) := atomic .exch g t a l sc o s
def execAtomCas (g : BitVec 3) (t a : BitVec 6) (l : BitVec 4) (sc o : BitVec 2) (s : State) := atomic .cas g t a l sc o s
def execAtomInc (g : BitVec 3) (t a : BitVec 6) (l : BitVec 4) (sc o : BitVec 2) (s : State) := atomic .inc g t a l sc o s
def execAtomFaddF32 (g : BitVec 3) (t a : BitVec 6) (l : BitVec 4) (sc o : BitVec 2) (s : State) := atomic .faddF32 g t a l sc o s

/-- RED performed (R202): steps on another device stay outstanding until they are acknowledged. -/
def Env.performRed (e : Env) (acts : List AtomAct) (sc : Scope) (s : State) : State :=
  let r := s.performAtoms e.g sc e.policy acts
  if r.remote.isEmpty then r.s else e.submit (.remoteRed r.remote none) r.s

/-- RED with an operation (R201, R202). In a deterministic launch `.ar`, `.strong` and `.fadd.f32` are illegal (07, R129). -/
def reduce (op : AtomOp) (g : BitVec 3) (t a : BitVec 6) (scf o : BitVec 2) (s : State) : Host.Outcome State Fault Refusal :=
  inWord s fun e =>
    if e.l.det && (o != 0 || op == .faddF32) then .error .illegal else
    let act := e.act g
    let off := e.k.vwv + 8 * a.toNat
    let sc := e.scope scf
    match e.atomTargets s ((lanesOf act).filter (fun i => !e.g.isHelper i)) off sc with
    | .error h => .error h
    | .ok ts =>
      let as := accesses ts (fun _ => List.replicate 4 0)
      if s.behind e.g as then .ok (e.retry s) else
      let acts := e.atomActs op (e.v t) as
      match e.stamp (e.noteTargets ts s) true (some (op, sc)) none (touches as) with
      | .error h => .error h
      | .ok s =>
        let s := s.updGroup e.g.gid (fun x => x.setNr (maskOf (absentLanes ts)))
        if o != 0 && act != 0 then .ok (e.awaitRelease none sc (.atom none acts []) s)
        else if acts.any (fun a => s.dirtyAway e.g.core a.pa 4) then .ok (e.awaitRelease none .grp (.atomAway none acts []) s)
        else .ok (e.retire (e.performRed acts sc s))

def execRedAdd (g : BitVec 3) (t a : BitVec 6) (sc o : BitVec 2) (s : State) := reduce .add g t a sc o s
def execRedAnd (g : BitVec 3) (t a : BitVec 6) (sc o : BitVec 2) (s : State) := reduce .and g t a sc o s
def execRedOr (g : BitVec 3) (t a : BitVec 6) (sc o : BitVec 2) (s : State) := reduce .or g t a sc o s
def execRedXor (g : BitVec 3) (t a : BitVec 6) (sc o : BitVec 2) (s : State) := reduce .xor g t a sc o s
def execRedMinN (g : BitVec 3) (t a : BitVec 6) (sc o : BitVec 2) (s : State) := reduce .minN g t a sc o s
def execRedMinS (g : BitVec 3) (t a : BitVec 6) (sc o : BitVec 2) (s : State) := reduce .minS g t a sc o s
def execRedMaxN (g : BitVec 3) (t a : BitVec 6) (sc o : BitVec 2) (s : State) := reduce .maxN g t a sc o s
def execRedMaxS (g : BitVec 3) (t a : BitVec 6) (sc o : BitVec 2) (s : State) := reduce .maxS g t a sc o s
def execRedInc (g : BitVec 3) (t a : BitVec 6) (sc o : BitVec 2) (s : State) := reduce .inc g t a sc o s
def execRedFaddF32 (g : BitVec 3) (t a : BitVec 6) (sc o : BitVec 2) (s : State) := reduce .faddF32 g t a sc o s

/-- The answer of another device to a write or an atomic is there: the clean copies of those lines leave the caches of the core that asked, since they may
have been fetched before it (07, R110; 10, R194). -/
def State.dropAway (s : State) (r : Request) : State :=
  match s.group? r.gid with
  | none => s
  | some g => r.job.aways.foldl (fun s pa =>
    let out := fun (l : Line) => if l.no == lineNo pa then l.onlyDirty else l
    let c := s.core g.core
    let s := s.setCore g.core { c with l1 := (c.l1.map out).filter (fun l => l.valid != 0) }
    let s := s.setClusterCache (clusterOf g.core) (((s.clusterCache (clusterOf g.core)).map out).filter (fun l => l.valid != 0))
    s.setDie (dieOf g.core) { s.die (dieOf g.core) with remote := dropLine (s.die (dieOf g.core)).remote (lineNo pa) }) s

/-- ATOM_RESULT_RETURN (R202): the old values are delivered, those of another device from its answer; a RED, or bytes that were
sent there at once, are acknowledged. An acquire that faults once another device has performed the step is not precise: the request stays in flight
(17, R317, R320). -/
def execAtomResultReturn (id : Nat) (remote : RemoteReply) (s : State) : Host.Outcome State Fault Refusal :=
  match s.live? id with
  | none => .next s
  | some r =>
    match r.job with
    | .atom ws dest acts acq =>
      if acts.isEmpty then .next (s.deliver r ws) else
      (match remote with
      | .none => .next s
      | .refused => .next (s.engineFault r 0x06 ((oneOf s (acts.map (fun a => a.pa))).getD 0))
      | .data bs =>
        if bs.length != 4 * acts.length then .next s else
        let olds := (acts.zip (List.range acts.length)).map (fun x => (⟨x.1.lane, dest, (bs.drop (4 * x.2)).take 4⟩ : LaneWrite))
        let t := (s.dropAway r).deliver r (ws ++ olds)
        match acq, s.reqEnv r with
        | some sc, some e => (match t.acquireE e.g e.actWord sc with
          | .ok u => .next ((e.sends t u).wake r)
          | .error h => .next (s.engineFault r 0x06 h.addr.toNat))
        | _, _ => .next t)
    | .remoteRed acts acq =>
      (match remote with
      | .none => .next s
      | .refused => .next (s.engineFault r 0x06 ((oneOf s (acts.map (fun a => a.pa))).getD 0))
      | .data _ =>
        let t := (s.dropAway r).dropRequest id
        match acq, s.reqEnv r with
        | some sc, some e => (match t.acquireE e.g e.actWord sc with
          | .ok u => .next ((e.sends t u).wake r)
          | .error h => .next (s.engineFault r 0x06 h.addr.toNat))
        | _, _ => .next (t.wake r))
    | .remoteWrite pa =>
      (match remote with
      | .none => .next s
      | .refused => .next (s.engineFault r 0x06 pa)
      | .data _ => .next ((s.dropAway r).dropRequest id))
    | _ => .next s

/-! ### LSADD (R203) -/

/-- One lane's add at its target: the LS word there. -/
def State.lsAdd (s : State) (f32 : Bool) (gid wid off : Nat) (v : Word) : State :=
  s.updWg wid (fun w =>
    let old := leWord (w.ls.read off 4)
    let new := if f32 then fadd32Rne old v else old + v
    ({ w with ls := w.ls.write off (leBytes 4 new.toNat) } : Workgroup).noteLate w.ls gid 0 [off, off + 1, off + 2, off + 3])

/-- LSADD (R203): an address inside any live window is a protection fault; `.f32` is illegal in a deterministic launch (07, R129). -/
def lsadd (f32 : Bool) (g : BitVec 3) (d a : BitVec 7) (s : State) : Host.Outcome State Fault Refusal :=
  inWord s fun e =>
    if e.g.isHandler || (e.l.det && f32) then .error .illegal else
    let lanes := (lanesOf (e.act g)).filter (fun i => !e.g.isHelper i)
    let word := fun (i : Nat) => (e.g.lane i).dword (e.v a)
    let target := fun (i : Nat) => match e.lsTarget s ((word i >>> 32).truncate 32) ((word i).truncate 32) 4 with
      | some (w, o) => if (w.stashAt o).isSome then none else some (i, w.wid, o)
      | none => none
    let hits := lanes.filterMap target
    match laneFault 0x06 (lanes.filter (fun i => (target i).isNone)) (fun i => (word i).toNat) with
    | some h => .error h
    | none =>
      match e.stamp s true none none (hits.map (fun x => ⟨x.1, lsAddr x.2.1 x.2.2, 4⟩)) with
      | .error h => .error h
      | .ok s =>
        let order := if f32 && hits.any (fun x => hits.any (fun y => x.1 != y.1 && x.2 == y.2)) then freeOrder s hits else hits
        .ok (e.retire (order.foldl (fun s x => s.lsAdd f32 e.g.gid x.2.1 x.2.2 ((e.g.lane x.1).word (e.v d))) s).tick)

def execLsaddF32 (g : BitVec 3) (d a : BitVec 7) (s : State) := lsadd true g d a s
def execLsaddI32 (g : BitVec 3) (d a : BitVec 7) (s : State) := lsadd false g d a s

end Sys2Proof.Machine
end

