-- ==== Sys2Proof/Machine/IntLogic.lean ====
section
/-! DEFINITION. The integer and logic words, OP 0x00 to 0x1D (08, R133–R137, Table 8-1). -/

namespace Sys2Proof.Machine

/-- An R-format word with two sources and no variant: D := f A B (R133, R135). -/
def binary (g : BitVec 3) (d a b : BitVec 7) (x : BitVec 1) (f : Word → Word → Word) (s : State) : Host.Outcome State Fault Refusal :=
  inWord s fun e =>
    match e.operands a b x with
    | .error h => .error h
    | .ok o => .ok (e.retire (e.eachLane g (fun _ l => l.putWord (e.v d) (f (o l).1 (o l).2)) s))

/-- An R-format word that also reads its destination: D := f A B D. -/
def binaryAcc (g : BitVec 3) (d a b : BitVec 7) (x : BitVec 1) (f : Word → Word → Word → Word) (s : State) : Host.Outcome State Fault Refusal :=
  inWord s fun e =>
    match e.operands a b x with
    | .error h => .error h
    | .ok o => .ok (e.retire (e.eachLane g (fun _ l => l.putWord (e.v d) (f (o l).1 (o l).2 (l.word (e.v d)))) s))

/-- An I-format word: D := f A imm (R33, R135). -/
def binaryI (g : BitVec 3) (d a : BitVec 7) (i : BitVec 8) (f : Word → Word → Word) (s : State) : Host.Outcome State Fault Refusal :=
  inWord s fun e =>
    .ok (e.retire (e.eachLane g (fun _ l => l.putWord (e.v d) (f (e.operandsI a i l).1 (e.operandsI a i l).2)) s))

/-- An R-format word whose X bit is its variant: D := f A B, both registers. -/
def variant (g : BitVec 3) (d a b : BitVec 7) (f : Word → Word → Word) (s : State) : Host.Outcome State Fault Refusal :=
  inWord s fun e => .ok (e.retire (e.eachLane g (fun _ l => l.putWord (e.v d) (f (l.word (e.v a)) (l.word (e.v b)))) s))

/-- A one-source word: D := f A. -/
def unary (g : BitVec 3) (d a : BitVec 7) (f : Word → Word) (s : State) : Host.Outcome State Fault Refusal :=
  inWord s fun e => .ok (e.retire (e.eachLane g (fun _ l => l.putWord (e.v d) (f (l.word (e.v a)))) s))

/-- `ext`: widen to 64 bits, with the sign for `.s` (R135). -/
def widen (s : BitVec 1) (w : Word) : DWord := if s = 1 then w.signExtend 64 else w.zeroExtend 64

/-- The number of set bits. -/
def popWord (w : Word) : Word := BitVec.ofNat 32 ((List.range 32).foldl (fun n i => if w.getLsbD i then n + 1 else n) 0)
/-- The number of zero bits above the highest set bit; 32 for zero. -/
def clzWord (w : Word) : Word := BitVec.ofNat 32 (if w = 0 then 32 else 31 - w.toNat.log2)
/-- The word with its bit order reversed. -/
def revWord (w : Word) : Word := (List.range 32).foldl (fun r i => if w.getLsbD i then r ||| (1#32 <<< (31 - i)) else r) 0
/-- A shift amount: B AND 31. -/
def amount (b : Word) : Nat := b.toNat % 32
/-- A right shift, filling with zeros or with the sign. -/
def shiftRight (s : BitVec 1) (a : Word) (n : Nat) : Word := if s = 1 then a.sshiftRight n else a >>> n
/-- The smaller of two words, unsigned or signed. -/
def lessWord (s : BitVec 1) (a b : Word) : Bool := if s = 1 then decide (a.toInt < b.toInt) else decide (a.toNat < b.toNat)

/-- The field of BFX (R136): bits pos to pos + len − 1 of A extended without limit, then extended to 32 bits. -/
def bfxWord (s : BitVec 1) (a b : Word) : Word :=
  let pos := bits b.toNat 0 8
  let len := min (bits b.toNat 8 8) 32
  let ext : Int := if s = 1 then a.toInt else (a.toNat : Int)
  let f := ofSigned len (ext / ((2 ^ pos : Nat) : Int))
  if s = 1 then BitVec.ofInt 32 (toSigned len f) else BitVec.ofNat 32 f

/-- The insertion of BFI (R136). -/
def bfiWord (a b d : Word) : Word :=
  let pos := bits b.toNat 0 8
  let len := min (bits b.toNat 8 8) 32
  (List.range 32).foldl (fun r i =>
    if i < len && pos + i ≤ 31 then (if a.getLsbD i then r ||| (1#32 <<< (pos + i)) else r &&& ~~~ (1#32 <<< (pos + i))) else r) d

/-- The bitwise table of LUT3 (R137). -/
def lut3Word (tt : BitVec 8) (a b d : Word) : Word :=
  (List.range 32).foldl (fun r i =>
    let j := (if a.getLsbD i then 1 else 0) + (if b.getLsbD i then 2 else 0) + (if d.getLsbD i then 4 else 0)
    if tt.getLsbD j then r ||| (1#32 <<< i) else r) 0

/-- A field of n bits as a Word amount. -/
def constAmount (n : BitVec 5) : Nat := n.toNat

def execIaddR (g : BitVec 3) (d a b : BitVec 7) (x : BitVec 1) (s : State) := binary g d a b x (fun p q => p + q) s
def execIaddI (g : BitVec 3) (d a : BitVec 7) (i : BitVec 8) (s : State) := binaryI g d a i (fun p q => p + q) s
def execIsub (g : BitVec 3) (d a b : BitVec 7) (x : BitVec 1) (s : State) := binary g d a b x (fun p q => p - q) s
def execImulR (g : BitVec 3) (d a b : BitVec 7) (x : BitVec 1) (s : State) := binary g d a b x (fun p q => p * q) s
def execImulI (g : BitVec 3) (d a : BitVec 7) (i : BitVec 8) (s : State) := binaryI g d a i (fun p q => p * q) s
def execImad (g : BitVec 3) (d a b : BitVec 7) (x : BitVec 1) (s : State) := binaryAcc g d a b x (fun p q r => p * q + r) s
def execShlR (g : BitVec 3) (d a b : BitVec 7) (x : BitVec 1) (s : State) := binary g d a b x (fun p q => p <<< amount q) s
def execRot (g : BitVec 3) (d a b : BitVec 7) (x : BitVec 1) (s : State) := binary g d a b x (fun p q => p.rotateLeft (amount q)) s
def execAndR (g : BitVec 3) (d a b : BitVec 7) (x : BitVec 1) (s : State) := binary g d a b x (fun p q => p &&& q) s
def execAndI (g : BitVec 3) (d a : BitVec 7) (i : BitVec 8) (s : State) := binaryI g d a i (fun p q => p &&& q) s
def execOrR (g : BitVec 3) (d a b : BitVec 7) (x : BitVec 1) (s : State) := binary g d a b x (fun p q => p ||| q) s
def execOrI (g : BitVec 3) (d a : BitVec 7) (i : BitVec 8) (s : State) := binaryI g d a i (fun p q => p ||| q) s
def execXorR (g : BitVec 3) (d a b : BitVec 7) (x : BitVec 1) (s : State) := binary g d a b x (fun p q => p ^^^ q) s
def execXorI (g : BitVec 3) (d a : BitVec 7) (i : BitVec 8) (s : State) := binaryI g d a i (fun p q => p ^^^ q) s
def execBfi (g : BitVec 3) (d a b : BitVec 7) (x : BitVec 1) (s : State) := binaryAcc g d a b x bfiWord s
def execImulh (g : BitVec 3) (d a b : BitVec 7) (sg : BitVec 1) (s : State) :=
  variant g d a b (fun p q => ((widen sg p * widen sg q) >>> 32).truncate 32) s
def execImin (g : BitVec 3) (d a b : BitVec 7) (sg : BitVec 1) (s : State) := variant g d a b (fun p q => if lessWord sg q p then q else p) s
def execImax (g : BitVec 3) (d a b : BitVec 7) (sg : BitVec 1) (s : State) := variant g d a b (fun p q => if lessWord sg p q then q else p) s
def execShrR (g : BitVec 3) (d a b : BitVec 7) (sg : BitVec 1) (s : State) := variant g d a b (fun p q => shiftRight sg p (amount q)) s
def execBfx (g : BitVec 3) (d a b : BitVec 7) (sg : BitVec 1) (s : State) := variant g d a b (bfxWord sg) s
def execIabs (g : BitVec 3) (d a : BitVec 7) (s : State) := unary g d a (fun p => if p.toInt < 0 then 0 - p else p) s
def execIneg (g : BitVec 3) (d a : BitVec 7) (s : State) := unary g d a (fun p => 0 - p) s
def execNotW (g : BitVec 3) (d a : BitVec 7) (s : State) := unary g d a (fun p => ~~~ p) s
def execPopc (g : BitVec 3) (d a : BitVec 7) (s : State) := unary g d a popWord s
def execClz (g : BitVec 3) (d a : BitVec 7) (s : State) := unary g d a clzWord s
def execBrev (g : BitVec 3) (d a : BitVec 7) (s : State) := unary g d a revWord s
def execMov (g : BitVec 3) (d a : BitVec 7) (s : State) := unary g d a (fun p => p) s
def execShlI (g : BitVec 3) (d a : BitVec 7) (n : BitVec 5) (s : State) := unary g d a (fun p => p <<< constAmount n) s
def execShrNI (g : BitVec 3) (d a : BitVec 7) (n : BitVec 5) (s : State) := unary g d a (fun p => shiftRight 0 p (constAmount n)) s
def execShrSI (g : BitVec 3) (d a : BitVec 7) (n : BitVec 5) (s : State) := unary g d a (fun p => shiftRight 1 p (constAmount n)) s

/-- IADD64 on pairs; an immediate is sign-extended to 64 bits (R33, R135). Without HIMM the B field must be even and X 0 (R30, R133). -/
def execIadd64 (g : BitVec 3) (d a b : BitVec 7) (x : BitVec 1) (s : State) : Host.Outcome State Fault Refusal :=
  inWord s fun e =>
    let sum (f : Lane → DWord) := .ok (e.retire (e.eachLane g (fun _ l => l.putDword (e.v d) (l.dword (e.v a) + f l)) s))
    match e.hints.himm with
    | none => if x = 0 && evenField b then sum (fun l => l.dword (e.v b)) else .error .illegal
    | some (_, hi) => sum (fun _ => (himmWord hi (b ++ x)).signExtend 64)

/-- IMADW: D pair := ext(A)·ext(B) + D pair (R135). -/
def execImadw (g : BitVec 3) (d a b : BitVec 7) (sg : BitVec 1) (s : State) : Host.Outcome State Fault Refusal :=
  inWord s fun e => .ok (e.retire (e.eachLane g (fun _ l =>
    l.putDword (e.v d) (widen sg (l.word (e.v a)) * widen sg (l.word (e.v b)) + l.dword (e.v d))) s))

/-- LEA with the given shift: D pair := A pair + (sext64(B) << k) (R135). -/
def lea (g : BitVec 3) (d a b : BitVec 7) (k : Nat) (s : State) : Host.Outcome State Fault Refusal :=
  inWord s fun e => .ok (e.retire (e.eachLane g (fun _ l =>
    l.putDword (e.v d) (l.dword (e.v a) + ((l.word (e.v b)).signExtend 64 <<< k))) s))
def execLeaX1X2 (g : BitVec 3) (d a b : BitVec 7) (k : BitVec 1) (s : State) := lea g d a b k.toNat s
def execLeaX4X8 (g : BitVec 3) (d a b : BitVec 7) (k : BitVec 1) (s : State) := lea g d a b (2 + k.toNat) s

/-- MOVI: the immediate, whichever operand position its HIMM names (R33, R134). -/
def execMovi (g : BitVec 3) (d : BitVec 7) (i : BitVec 8) (s : State) : Host.Outcome State Fault Refusal :=
  inWord s fun e =>
    let imm : Word := match e.hints.himm with
      | none => i.signExtend 32
      | some (_, hi) => himmWord hi i
    .ok (e.retire (e.eachLane g (fun _ l => l.putWord (e.v d) imm) s))

/-- LUT3 (R137). -/
def execLut3 (g : BitVec 3) (d a b : BitVec 7) (s : State) : Host.Outcome State Fault Refusal :=
  inWord s fun e =>
    match e.table with
    | .error h => .error h
    | .ok tt => .ok (e.retire (e.eachLane g (fun _ l =>
        l.putWord (e.v d) (lut3Word tt (l.word (e.v a)) (l.word (e.v b)) (l.word (e.v d)))) s))

end Sys2Proof.Machine
end

