-- ==== Sys2Proof/Machine/CrossLane.lean ====
section
/-! DEFINITION. Cross-lane words and special registers, OP 0x30 to 0x36 (08, R153–R162; 02, R25–R27; 17, R309, R311). -/

namespace Sys2Proof.Machine

/-- The value taken from a source lane (Table 8-5): its register, or 0 from an exited or nonexistent lane. -/
def Env.source (e : Env) (off i : Nat) : Word := if e.g.live.getLsbD i then (e.g.lane i).word off else 0

/-- R154: in a deterministic launch, with a frame open, a value taken from a lane outside the path's mask is a conflict. -/
def Env.crossConflict (e : Env) (srcs : List Nat) : Bool :=
  e.l.det && e.g.jr.isSome && srcs.any (fun i => e.g.live.getLsbD i && !e.path.mask.getLsbD i)

/-- R311: words that a handler group of a deterministic launch may not issue. -/
def Env.detHandler (e : Env) : Bool := e.l.det && e.g.isHandler

/-- A word that moves values between lanes: each active lane L writes `f L` of the sources, read before any write. A conflict is no single lane's; the
record names lane 0 (log 36). -/
def crossLane (g : BitVec 3) (srcs : Env → List Nat) (put : Env → Nat → Lane → Lane) (s : State) : Host.Outcome State Fault Refusal :=
  inWord s fun e =>
    if e.detHandler then .error .illegal
    else if e.crossConflict (srcs e) then .error (.word 0x08 0)
    else .ok (e.retire (e.eachLane g (put e) s))

/-- The index that LPERM computes (R155), `none` where it lies outside the group. -/
def lpermIndex (c : BitVec 4) (lane : Nat) (sel : Nat) : Option Nat :=
  let i : Int := match c.toNat % 4 with
    | 0 => sel
    | 1 => (lane : Int) - sel
    | 2 => lane + sel
    | _ => (Nat.xor lane sel : Nat)
  let i := if c.getLsbD 3 then i % 32 else i
  if 0 ≤ i && i ≤ 31 then some i.toNat else none

/-- The selector of LPERM in a lane. -/
def Env.lpermSel (e : Env) (c : BitVec 4) (b : BitVec 7) (i : Nat) : Nat :=
  if c.getLsbD 2 then b.toNat else ((e.g.lane i).word (e.v b)).toNat

def execLperm (g : BitVec 3) (p c : BitVec 4) (a b : BitVec 7) (s : State) : Host.Outcome State Fault Refusal :=
  crossLane g (fun e => (lanesOf (e.act g)).filterMap (fun i => lpermIndex c i (e.lpermSel c b i)))
    (fun e i l =>
      let j := lpermIndex c i (e.lpermSel c b i)
      let l := l.putWord (e.v a) (match j with | some j => e.source (e.v a) j | none => 0)
      if p = 15 then l else l.putPred p.toNat j.isSome) s

/-- A quad exchange: lane L takes from lane `src L` of its quad (R156). -/
def quadMove (g : BitVec 3) (d a : BitVec 7) (src : Nat → Nat) (s : State) : Host.Outcome State Fault Refusal :=
  crossLane g (fun e => (lanesOf (e.act g)).map src) (fun e i l => l.putWord (e.v d) (e.source (e.v a) (src i))) s
def execQxchH (g : BitVec 3) (d a : BitVec 7) (s : State) := quadMove g d a (fun i => Nat.xor i 1) s
def execQxchV (g : BitVec 3) (d a : BitVec 7) (s : State) := quadMove g d a (fun i => Nat.xor i 2) s
def execQxchD (g : BitVec 3) (d a : BitVec 7) (s : State) := quadMove g d a (fun i => Nat.xor i 3) s
def execQbcast (g : BitVec 3) (d a : BitVec 7) (q : BitVec 2) (s : State) := quadMove g d a (fun i => 4 * (i / 4) + q.toNat) s

/-- A vote over the active lanes (R157). -/
def poll (g : BitVec 3) (p src : BitVec 4) (f : List Bool → Bool) (s : State) : Host.Outcome State Fault Refusal :=
  crossLane g (fun _ => []) (fun e _ l =>
    l.putPred p.toNat (f ((lanesOf (e.act g)).map (fun i => (e.g.lane i).pred src.toNat)))) s
def execPollAnd (g : BitVec 3) (p src : BitVec 4) (s : State) := poll g p src (fun l => l.all id) s
def execPollOr (g : BitVec 3) (p src : BitVec 4) (s : State) := poll g p src (fun l => l.any id) s
def execPollSame (g : BitVec 3) (p src : BitVec 4) (s : State) := poll g p src (fun l => l.all id || l.all not) s

/-- The lane that PICK chooses: the lowest active lane that is no helper lane, else the lowest active lane (R157). -/
def Env.picked (e : Env) (g : BitVec 3) : Option Nat :=
  match (lanesOf (e.act g)).filter (fun i => !e.g.isHelper i) with
  | i :: _ => some i
  | [] => (lanesOf (e.act g)).head?
def execPick (g : BitVec 3) (p : BitVec 4) (s : State) : Host.Outcome State Fault Refusal :=
  crossLane g (fun _ => []) (fun e i l => l.putPred p.toNat (e.picked g == some i)) s

/-- PMASK (R158). -/
def execPmask (g : BitVec 3) (d : BitVec 7) (p : BitVec 4) (n : BitVec 1) (s : State) : Host.Outcome State Fault Refusal :=
  crossLane g (fun _ => []) (fun e _ l =>
    l.putWord (e.v d) (maskOf ((lanesOf (e.act g)).filter (fun i => (e.g.lane i).pred p.toNat != (n == 1))))) s

/-- The reductions of XRED (R159). -/
def xredOp (m : BitVec 7) (a b : Word) : Word :=
  match m.toNat with
  | 0 => a + b
  | 1 => a &&& b
  | 2 => a ||| b
  | 3 => a ^^^ b
  | 4 => if lessWord 0 b a then b else a
  | 5 => if lessWord 1 b a then b else a
  | 6 => if lessWord 0 a b then b else a
  | _ => if lessWord 1 a b then b else a
def Env.xred (e : Env) (g : BitVec 3) (a m : BitVec 7) : Word :=
  match (lanesOf (e.act g)).map (fun i => (e.g.lane i).word (e.v a)) with
  | [] => 0
  | w :: ws => ws.foldl (xredOp m) w
def execXred (g : BitVec 3) (d a m : BitVec 7) (s : State) : Host.Outcome State Fault Refusal :=
  crossLane g (fun _ => []) (fun e _ l => l.putWord (e.v d) (e.xred g a m)) s

/-! ### Special registers -/

/-- The lane's group as its launch-constant registers show it: a handler lane shows its origin's (R309). -/
def State.shown (s : State) (e : Env) (i : Nat) : Group × Launch × Nat :=
  match e.g.origins.bind (fun os => os[i]?) with
  | none => (e.g, e.l, i)
  | some o =>
    match s.group? o.gid with
    | none => (e.g, e.l, i)
    | some og => (og, ((s.ctx? og.ctx).bind (fun c => c.launch? og.launch)).getD e.l, o.lane)

/-- `%nlane` of an ordinary group is `lanes` of the launch; of a handler group its own lane count (R309), or its origin's in a
deterministic launch (R311). -/
def State.nlane (_s : State) (e : Env) (l : Launch) : Nat := if e.g.isHandler && !e.l.det then popcount e.g.lanesOn else l.lanes

/-- The `%orig` tag of a lane; 0 outside a handler group. -/
def State.origOf (s : State) (e : Env) (i : Nat) : DWord :=
  match e.g.origins.bind (fun os => os[i]?) with
  | none => 0
  | some o =>
    ((s.group? o.gid).bind (fun og => (og.trapWord o.lane).map (fun t => originTag o og e.k t.pc e.l.det))).getD 0

/-- OR of FFLAGS over the lanes that have not exited (Table 2-6); a helper lane's are 0 (R80). -/
def Group.gflags (g : Group) : BitVec 7 := (lanesOf g.live).foldl (fun f i => f ||| (g.lane i).fflags) 0

/-- The value of a special register in a lane (Table 2-6). -/
def State.special (s : State) (e : Env) (m : BitVec 7) (i : Nat) : Nat :=
  let (og, l, ol) := s.shown e i
  let self := if e.g.isHandler && e.l.det then ol else i
  match m.toNat with
  | 0x00 => self
  | 0x01 => self / 4
  | 0x02 => og.grp
  | 0x03 => og.clu * l.wgs + og.wgc
  | 0x04 => og.wgc
  | 0x05 => og.clu
  | 0x06 => l.no
  | 0x07 => if e.g.isHelper i then 1 else 0
  | 0x08 => s.nlane e l
  | 0x09 => l.groups
  | 0x0A => l.wgs
  | 0x0B => l.wgs * (l.gx * l.gy)
  | 0x0C => l.gx * l.gy
  | 0x10 => e.g.core
  | 0x11 => dieOf e.g.core
  | 0x12 => s.time
  | 0x13 => (s.origOf e i).toNat
  | 0x18 => (e.g.lane i).fflags.toNat
  | 0x19 => e.g.gflags.toNat
  | 0x1A => e.g.frnd.toNat
  | 0x1B => e.g.ftrap.toNat
  | 0x1C => e.k.vwv
  | 0x1D => e.k.vwt
  | _ => e.k.vwa

/-- SMOV (R160): `%dtime` and `%orig` go to a pair. In a deterministic launch `%core`, `%die` and `%dtime` are illegal, and so is
`%gflags` in a handler group (R311); with a frame open `%gflags` is a conflict (R154). -/
def execSmov (g : BitVec 3) (d m : BitVec 7) (s : State) : Host.Outcome State Fault Refusal :=
  inWord s fun e =>
    if e.l.det && (m = 0x10 || m = 0x11 || m = 0x12) then .error .illegal
    else if e.detHandler && m = 0x19 then .error .illegal
    else if e.l.det && m = 0x19 && e.g.jr.isSome then .error (.word 0x08 0)
    else .ok (e.retire (e.eachLane g (fun i l =>
      if m = 0x12 || m = 0x13 then l.putDword (e.v d) (BitVec.ofNat 64 (s.special e m i))
      else l.putWord (e.v d) (BitVec.ofNat 32 (s.special e m i))) s))

/-- Whether the word stands in the code of a privileged image (R161). -/
def Env.privileged (e : Env) : Bool := ((e.c.imageOf e.iss.pc.toNat).map (fun im => im.privileged)) == some true

/-- The protection fault of a privileged word in unprivileged code (R161). -/
def Env.privilege (e : Env) : Except Halt Unit := if e.privileged then .ok () else .error (.word 0x06 0)

/-- SSET of `%fflags` (R162): each active lane that is no helper lane. -/
def execSsetFflags (g : BitVec 3) (a : BitVec 7) (s : State) : Host.Outcome State Fault Refusal :=
  inWord s fun e =>
    match e.privilege with
    | .error h => .error h
    | .ok _ => .ok (e.retire (e.eachLane g (fun i l =>
        if e.g.isHelper i then l else { l with fflags := (l.word (e.v a)).truncate 7 }) s))

/-- SSET of a group register from a uniform value (R162); with no active lane nothing is written. -/
def ssetGroup (g : BitVec 3) (a : BitVec 7) (check : Env → Word → Bool) (put : Word → Group → Group) (s : State) : Host.Outcome State Fault Refusal :=
  inWord s fun e =>
    match e.privilege with
    | .error h => .error h
    | .ok _ => match e.uniform g (fun l => l.word (e.v a)) with
      | .error h => .error h
      | .ok none => .ok (e.retire s)
      | .ok (some w) => if check e w then .ok (e.retire (s.updGroup e.g.gid (put w))) else .error .illegal

/-- SSET of `%frnd`: a mode of 5 to 7 is illegal and changes nothing (R27). -/
def execSsetFrnd (g : BitVec 3) (a : BitVec 7) (s : State) : Host.Outcome State Fault Refusal :=
  ssetGroup g a (fun _ w => w.toNat % 8 ≤ 4) (fun w grp => { grp with frnd := w.truncate 3 }) s

/-- SSET of `%ftrap`; illegal in a handler group (R309). That a handler group of unprivileged code takes the illegal-instruction fault there, and not the
protection fault of R161, which would apply too, is the model's choice (log 10). -/
def execSsetFtrap (g : BitVec 3) (a : BitVec 7) (s : State) : Host.Outcome State Fault Refusal :=
  inWord s fun e =>
    if e.g.isHandler then .error .illegal else
    match e.privilege with
    | .error h => .error h
    | .ok _ => match e.uniform g (fun l => l.word (e.v a)) with
      | .error h => .error h
      | .ok none => .ok (e.retire s)
      | .ok (some w) => .ok (e.retire (s.updGroup e.g.gid (fun grp => { grp with ftrap := w.truncate 6 })))

end Sys2Proof.Machine
end

