-- ==== Sys2Proof/Machine/Control.lean ====
section
/-! DEFINITION. Control flow, OP 0x28 to 0x2D (08, R143–R152; 06, R83, R84), what ends with a lane, a group and a workgroup (06, R81), and
the departure from a barrier (11, R213, R214). -/

namespace Sys2Proof.Machine

/-! ### Code (03, R29; 10, R181; 08, R147) -/

/-- The word of code at a virtual address: its leaf must be executable, and its page no other device's. -/
def State.codeWord (s : State) (ctx core va : Nat) : Option Word :=
  if va % 4 != 0 then none else
  match s.findLeaf ctx (dieOf core) (s.core core).tlb va .code with
  | none => none
  | some l =>
    let pa := l.pa va
    if regionOf pa == .reserved || isRemote pa then none else some (leWord (s.mem.read pa 4))


/-- The checks of a call target, in the order of R147. -/
def Env.checkCall (e : Env) (s : State) (target : DWord) : Except Halt Unit :=
  let t := target.toNat
  let inImage := (e.c.imageOf e.k.handle).map (fun im => im.holds t) == some true
  if !inImage || t % 4 != 0 then .error (.protection 0 t) else
  match s.codeWord e.g.ctx e.g.core t with
  | none => .error (.protection 0 t)
  | some w =>
    if opOf w != 0x78 || bits w.toNat 4 21 != 0 then .error .illegal
    else if e.k.regs < 64 * (bits w.toNat 0 4 + 1) then .error (.word 0x05 0)
    else .ok ()

/-! ### Paths -/

/-- Whether a uniform transfer is taken (R143): the guard holds in every lane of the path, or in none. -/
def Env.taken (e : Env) (g : BitVec 3) : Except Halt Bool :=
  let t := e.act g
  if t = 0 then .ok false else if t = e.path.mask then .ok true else .error .operand

/-- A branch target: the address of the word plus 4 times the signed offset (03, R31). -/
def Env.target (e : Env) (off : BitVec w) : DWord := e.iss.pc + 4 * off.signExtend 64

/-- Open a frame with the given join: JR and a path in the other slot go to the stack (R83). A 65th entry is the overflow fault. -/
def Group.openFrame (g : Group) (b : Bool) (j : DWord) (outer : Option DWord) (line : List (Nat × Bool)) : Except Halt Group :=
  let s1 := match g.jr with
    | some f => Entry.frame f :: g.stack
    | none => g.stack
  let s2 := if (g.slot (!b)).path.isSome then Entry.path (g.slot (!b)).parked :: s1 else s1
  if 64 < s2.length then .error (.word 0x04 0)
  else .ok { g.setSlot (!b) Slot.free with stack := s2, jr := some ⟨j, 0, outer, line⟩, frames := g.frames + 1 }

/-- Replace a group and end the issue. -/
def Env.become (_e : Env) (g : Group) (s : State) : State := { s.setGroup g with issue := none }

/-- BRA (R144). -/
def execBra (g : BitVec 3) (i : BitVec 22) (s : State) : Host.Outcome State Fault Refusal :=
  inWord s fun e =>
    match e.taken g with
    | .error h => .error h
    | .ok t => .ok (if t then e.retireTo (e.target i) s else e.retire s)

/-- The two paths of a divergence (R83), each tested at once for arrival: that of slot `b` first, which is the model's choice (log 50). -/
def Group.diverge (g : Group) (b : Bool) (p q : Path) : Group :=
  (((g.setSlot b (Slot.ofPath p)).setSlot (!b) (Slot.ofPath q)).arriveTest b).arriveTest (!b)

/-- BRD (R145; 06, R83). -/
def execBrd (g : BitVec 3) (t j : BitVec 11) (s : State) : Host.Outcome State Fault Refusal :=
  inWord s fun e =>
    let taken := e.act g
    let p := e.path
    let rest := p.mask &&& ~~~ taken
    if taken = 0 then .ok (e.retire s)
    else if rest = 0 then .ok (e.retireTo (e.target t) s)
    else
      let join := e.target j
      match e.g.openFrame e.iss.slotB join p.join p.line with
      | .error h => .error h
      | .ok grp => .ok (e.become (grp.diverge e.iss.slotB ⟨e.iss.pc + 4, rest, some join, (e.g.frames, false) :: p.line⟩
          ⟨e.target t, taken, some join, (e.g.frames, true) :: p.line⟩) s)

/-- The group in which a call has its frame: a new one, unless the path's join is the return address already (R148). -/
def Env.callFrame (e : Env) : Except Halt Group :=
  let ret := e.iss.pc + 4
  if e.path.join == some ret then .ok e.g else e.g.openFrame e.iss.slotB ret e.path.join e.path.line

/-- CALL (R148). -/
def execCall (g : BitVec 3) (i : BitVec 22) (s : State) : Host.Outcome State Fault Refusal :=
  inWord s fun e =>
    match e.taken g with
    | .error h => .error h
    | .ok false => .ok (e.retire s)
    | .ok true =>
      match e.checkCall s (e.target i), e.callFrame with
      | .error h, _ => .error h
      | _, .error h => .error h
      | .ok _, .ok grp => .ok (e.become ((grp.setSlot e.iss.slotB
          (Slot.ofPath ⟨e.target i + 4, e.path.mask, some (e.iss.pc + 4), e.path.line⟩)).arriveTest e.iss.slotB) s)

/-- CALLI (R150): the frame is opened, then the lowest target is checked and served, and the lanes of other targets issue the word again from the
other slot, without its hints. -/
def execCalli (g : BitVec 3) (a : BitVec 7) (s : State) : Host.Outcome State Fault Refusal :=
  inWord s fun e =>
    match e.taken g with
    | .error h => .error h
    | .ok false => .ok (e.retire s)
    | .ok true =>
      let addr := fun (i : Nat) => (e.g.lane i).dword (e.v a)
      let lanes := lanesOf e.path.mask
      let tau := (lanes.map addr).foldl (fun m t => if t.toNat < m.toNat then t else m) (BitVec.allOnes 64)
      match e.callFrame, e.checkCall s tau with
      | .error h, _ => .error h
      | _, .error h => .error h
      | .ok grp, .ok _ =>
        let here := maskOf (lanes.filter (fun i => addr i == tau))
        let rest := e.path.mask &&& ~~~ here
        let join := some (e.iss.pc + 4)
        let grp := grp.setSlot e.iss.slotB (Slot.ofPath ⟨tau + 4, here, join, e.path.line⟩)
        let grp := if rest = 0 then grp else grp.setSlot (!e.iss.slotB) (Slot.ofPath ⟨e.iss.pc, rest, join, e.path.line⟩)
        .ok (e.become (grp.arriveTest e.iss.slotB) s)

/-- RET (R149). -/
def execRet (g : BitVec 3) (s : State) : Host.Outcome State Fault Refusal :=
  inWord s fun e =>
    match e.taken g with
    | .error h => .error h
    | .ok false => .ok (e.retire s)
    | .ok true => match e.path.join with
      | none => .error .illegal
      | some j => .ok (e.retireTo j s)

/-- NOP (R152). -/
def execNop (_g : BitVec 3) (s : State) : Host.Outcome State Fault Refusal := inWord s fun e => .ok (e.retire s)

/-! ### The end of lanes, groups, workgroups, clusters and launches (06, R81, R102; 10, R178, R187) -/

/-- Lanes of a slot's path exit: they leave every mask. -/
def Group.exitLanes (g : Group) (b : Bool) (m : BitVec 32) : Group :=
  { g.updSlot b (fun x => { x with path := x.path.map (fun p => { p with mask := p.mask &&& ~~~ m }) }) with exited := g.exited ||| m }

/-- A group has ended when every lane that is no helper lane has exited. -/
def Group.isOver (g : Group) : Bool := g.live &&& ~~~ g.helpers == 0

/-- The requests of an ending group: copies that it left open are closed into its next batch (R187), and each keeps the group's place, for its record
(17, Table 17-8). -/
def closeRequest (g : Group) (r : Request) : Request :=
  if r.gid != g.gid then r else
  { r with
    place := g.core * 128 + g.slotNo
    job := match r.job with
      | .copy c none w n => .copy c (some (g.batch + 1)) w n
      | j => j }

/-- A member that ends before it issues its part of a joint matrix instance: an operand-format fault that is not precise (15, R288). -/
def State.endJoints (s : State) (g : Group) (wid : Nat) : State :=
  (s.joints.filter (fun j => j.wid == wid && !j.started && j.mask.getLsbD g.grp && !(j.members.any (fun m => m.gid == g.gid)))).foldl
    (fun s j => match s.requests.find? (fun r => match r.job with
        | .mmaj w k => w == wid && k == j.k
        | _ => false) with
      | some r => s.engineFault r 0x0B 0
      | none => s) s

/-- Every window of a workgroup ends. -/
def Workgroup.endWindows (w : Workgroup) : Workgroup := w.stashes.foldl (fun w x => w.endStash x.win) w

/-- A group ends. With the last group its workgroup ends: every live window is written back to the homes and ended; windows with bytes of pages that
are not resident stay (log 23), and what goes to another device is outstanding until it is acknowledged. The error is the address of a write-back that the
translation does not permit. -/
def State.endGroup (s : State) (g : Group) : Except Nat State :=
  if g.isHandler then .ok { s with groups := s.groups.filter (fun x => x.gid != g.gid) } else
  let w? := s.wgOf g
  let s := { s with requests := s.requests.map (closeRequest g) }
  let s := match w? with
    | some w => s.endJoints g w.wid
    | none => s
  let s := { s with groups := s.groups.filter (fun x => x.gid != g.gid) }
  match w? with
  | none => .ok s
  | some w =>
    if s.groups.any (fun x => x.ctx == g.ctx && x.launch == g.launch && x.clu == g.clu && x.wgc == g.wgc && !x.isHandler) then .ok s
    else match s.backStashes w none .home with
      | .error a => .error a
      | .ok (t, nr) => .ok ((s.track t g.ctx g.launch).updWg w.wid (fun w => { (if nr then w else w.endWindows) with ended := true }))

/-- Whether copies of a workgroup's groups are still running. -/
def State.copiesOf (s : State) (wid : Nat) : Bool :=
  s.requests.any (fun r => match r.job with
    | .copy _ _ w _ => w == wid
    | _ => false)

/-- The windows that a workgroup left at its end are written back as soon as their pages are resident (R178). A write-back that the translation does
not permit is a protection fault that no word takes. -/
def State.flushEnded (s : State) : State :=
  (s.workgroups.filter (fun w => w.ended && !w.stashes.isEmpty)).foldl (fun s w => match s.backStashes w none .home with
    | .ok (t, nr) => if nr then s.track t w.ctx w.launch else (s.track t w.ctx w.launch).updWg w.wid Workgroup.endWindows
    | .error a => (s.raiseLine w.ctx ⟨⟨0x06, 2, 0, BitVec.ofNat 64 a, 0⟩, 0, w.launch, s.time, s.clock, w.core, 0, 0, []⟩).updWg w.wid
        Workgroup.endWindows) s

/-- A workgroup that has ended frees its Local Store once its copies are complete and its windows written back (R175, R178, R187). -/
def State.freeWorkgroups (s : State) : State :=
  let s := s.flushEnded
  { s with workgroups := s.workgroups.map (fun w =>
      if w.ended && !w.freed && w.stashes.isEmpty && !s.copiesOf w.wid then { w with freed := true, ls := [], lsPoison := [], late := [] } else w) }

/-- The clusters of a launch that have ended with their last workgroups (R81), and those that have released their cores, their Local Stores freed:
in a deterministic launch only after every cluster before them on the Trail has (06, R102). -/
def markPlaced (s : State) (ctx : Nat) (l : Launch) : List Placed → Bool → List Placed
  | [], _ => []
  | p :: r, before =>
    let ws := s.workgroups.filter (fun w => w.ctx == ctx && w.launch == l.no && w.clu == p.clu)
    let out := ws.all (fun w => w.freed) && (!l.det || before)
    { p with ended := ws.all (fun w => w.ended), released := out } :: markPlaced s ctx l r (before && out)

/-- The length of disjoint spans of time. -/
def spanTime (spans : List (Nat × Nat)) : Nat := (spans.map (fun x => x.2 - x.1)).sum

/-- The time that a launch has been promised to end by (06, R96). -/
def Launch.due (l : Launch) : Nat := (l.r.getD l.accepted) + l.promise + l.hTime + l.sTime + spanTime l.wSpans

/-- A launch whose every cluster was placed and has ended ends; one that ends after its promised time is counted (18, R341). -/
def endLaunches (s : State) (c : Context) : Context :=
  let ls := c.launches.map (fun l => { l with placed := markPlaced s c.no l l.placed true })
  let done := fun (l : Launch) => !l.ended && l.placed.length == l.gx * l.gy && l.placed.all (fun p => p.ended)
  { c with
    launches := ls.map (fun l => if done l then { l with ended := true, reserved := 0 } else l)
    finished := c.finished + (ls.filter done).foldl (fun n l => n + l.used) 0
    brokenPromises := c.brokenPromises + (ls.filter (fun l => done l && l.due < s.time)).length }

/-- What follows when groups end or copies complete: Local Stores are freed, workgroups leave their cores, launches end. A workgroup leaves its core
when it ends (R91), in a deterministic launch with its cluster (R102). -/
def State.settleEnds (s : State) : State :=
  let s := s.freeWorkgroups
  let s := { s with contexts := s.contexts.map (endLaunches s) }
  { s with workgroups := s.workgroups.map (fun w =>
      match (s.ctx? w.ctx).bind (fun c => c.launch? w.launch) with
      | some l => if (!l.det && w.ended) || l.placed.any (fun p => p.clu == w.clu && p.released) then { w with gone := true } else w
      | none => w) }

/-! ### Unit boundaries and waits (03, R34; 06, R99) -/

/-- No run of hints is held without its consumer. -/
def Slot.atBoundary (x : Slot) : Bool := x.hints.count == 0 || x.wait.isSome || x.again
def Group.atBoundary (g : Group) : Bool := g.a.atBoundary && g.b.atBoundary

/-- The Thermos requests whose waiting forms are scheduler-visible (06, R99). -/
def Job.settles : Job → Bool
  | .psettle _ _ _ c _ => c.isNone
  | .punbind .. => true
  | .prefresh .. => true
  | _ => false

/-- Whether a slot is in a scheduler-visible wait. -/
def State.slotWaits (s : State) (g : Group) (b : Bool) : Bool :=
  match (g.slot b).wait with
  | some (.bar ..) => true
  | some (.counter ..) => true
  | some (.batch ..) => true
  | some .mmaj => true
  | some _ => false
  | none => g.windows.any (fun w => w.slotB == b && w.left == 0 && !w.complete && s.requests.any (fun r => r.id == w.id && r.job.settles))

/-- Whether a group is in a scheduler-visible wait: each of its paths is. -/
def State.waitsVisible (s : State) (g : Group) : Bool :=
  ((g.a.path.isSome && s.slotWaits g false) || (g.b.path.isSome && s.slotWaits g true)) &&
  (g.a.path.isNone || s.slotWaits g false) && (g.b.path.isNone || s.slotWaits g true)

/-- Whether a group waits for trapped lanes. -/
def Group.waitsLanes (g : Group) : Bool :=
  g.places.any (fun x => match x.wait with
    | some (.lanes _) => true
    | _ => false)

/-! ### Barriers (11, R213, R214) -/

/-- The participants of a barrier instance that have not ended. -/
def State.barMembers (s : State) (b : Bar) : List Group :=
  s.groups.filter (fun g => g.ctx == b.ctx && g.launch == b.launch && g.clu == b.clu && (b.cluster || g.wgc == b.wgc) && !g.isHandler)

/-- The flat index of a participant. -/
def flatIndex (b : Bar) (ngrp : Nat) (g : Group) : Nat := if b.cluster then g.wgc * ngrp + g.grp else g.grp

/-- The last arriver (R214): the latest arrival, the highest flat index among those of its clock; in a deterministic launch the highest
flat index of all. -/
def lastArriver (b : Bar) (det : Bool) (ngrp : Nat) (gs : List Group) : Option Nat :=
  let stamped := gs.filterMap (fun g => (b.arrived.find? (fun a => a.1 == g.gid)).map (fun a => (if det then 0 else a.2, flatIndex b ngrp g, g.gid)))
  (stamped.foldl (fun (m : Option (Nat × Nat × Nat)) x => match m with
    | none => some x
    | some y => if y.1 < x.1 || (y.1 == x.1 && y.2.1 < x.2.1) then some x else some y) none).map (·.2.2)

/-- The surroundings of a word that its slot holds while it waits. -/
def State.slotEnv (s : State) (g : Group) (b : Bool) : Option Env :=
  let x := g.slot b
  let pc := (x.path.map (·.pc)).getD 0
  { s with issue := some ⟨g.gid, b, pc, (s.codeWord g.ctx g.core pc.toNat).getD 0, x.hints, false, 0, 0, none, [], [], none⟩ }.env

/-- The fault of a word whose slot waits, at the address of a write-back. -/
def State.faultAt (s : State) (gid : Nat) (b : Bool) (addr : Nat) : State :=
  match s.group? gid with
  | none => s
  | some g => match s.slotEnv g b with
    | none => s
    | some e => e.takeFault ⟨0x06, 0, 0, BitVec.ofNat 64 addr, e.path.mask⟩ s

/-- One group departs: it acquires and goes on, or all its lanes exit (R213). -/
def State.depart (s : State) (b : Bar) (exits : Bool) (gid : Nat) : State :=
  match s.group? gid with
  | none => s
  | some g =>
    let slotB := g.b.wait == some (.bar b.cluster b.k)
    if (g.slot slotB).wait != some (.bar b.cluster b.k) then s else
    let pc := ((g.slot slotB).path.map (·.pc)).getD 0
    if exits then
      (match s.endGroup g with
      | .ok s => s
      | .error a => s.faultAt gid slotB a)
    else if !g.resident then s.resumeSlot gid slotB pc
    else match s.acquire g g.live (if b.cluster then .clu else .wg) with
      | .ok s => s.resumeSlot gid slotB pc
      | .error a => s.faultAt gid slotB a

/-- The line of descent of the path that waits at a barrier instance. -/
def Group.barLine (g : Group) (b : Bar) : List (Nat × Bool) :=
  (((g.slot (g.b.wait == some (.bar b.cluster b.k))).path).map (fun p => p.line)).getD []

/-- The participants' sync intervals end, and each is ordered after all (07, R131). -/
def State.barClocks (s : State) (b : Bar) (gs : List Group) : State :=
  let gs := gs.map Group.nextInterval
  let all := gs.foldl (fun cs g => joinClocks cs (g.told (g.barLine b))) []
  gs.foldl (fun s g => s.updGroup g.gid (fun x => { x.learn (g.barLine b) all with interval := g.interval })) s

/-- The first instance that every participant has reached completes; what ends with its departures may complete others. -/
def State.settleBars : Nat → State → State
  | 0, s => s
  | n + 1, s =>
    match s.bars.find? (fun b => (s.barMembers b).all (fun g => b.arrived.any (fun a => a.1 == g.gid))) with
    | none => s
    | some b =>
      let gs := s.barMembers b
      let l? := (s.ctx? b.ctx).bind (fun c => c.launch? b.launch)
      let last := lastArriver b ((l?.map (·.det)).getD false) ((l?.map (·.groups)).getD 1) gs
      let s := { s with bars := s.bars.filter (fun x => x != b) }
      let s := (s.barClocks b gs).updLate (fun t => t.passedBy (gs.map (fun g => g.gid)))
      let s := gs.foldl (fun s g => s.depart b (b.role && last != some g.gid) g.gid) s
      State.settleBars n s

/-- All that follows from the end of groups: barriers they alone held back, and the ends of R81. -/
def State.afterEnds (s : State) : State := (s.settleBars (s.bars.length + s.groups.length + 1)).settleEnds

/-! ### EXIT and KILL -/

/-- A handler lane has ended: its origin lane has been served (17, R312). -/
def State.serve (s : State) (o : Origin) (exits redo : Bool) : State :=
  let bit : BitVec 32 := 1#32 <<< o.lane
  s.updGroup o.gid (fun g => g.updPlaces (fun x => match x.traps o.lane with
    | some t => { x with wait := some (.lanes { t with
        served := t.served ||| bit
        exits := if exits then t.exits ||| bit else t.exits
        redo := if redo then t.redo ||| bit else t.redo }) }
    | none => x))

/-- The origins of the handler lanes of a mask. -/
def Group.originsOf (g : Group) (m : BitVec 32) : List Origin :=
  match g.origins with
  | none => []
  | some os => (lanesOf m).filterMap (fun i => os[i]?)

/-- End lanes of the issuing path; the path goes on with the others, or arrives (R151). -/
def Env.endLanes (e : Env) (m : BitVec 32) (s : State) : Except Halt State :=
  let g := (e.g.exitLanes e.iss.slotB m).goto e.iss.slotB (e.iss.pc + 4)
  let s := e.become g s
  if g.isOver then
    match s.endGroup g with
    | .ok s => .ok s.afterEnds
    | .error a => .error ⟨0x06, 0, 0, BitVec.ofNat 64 a, m⟩
  else .ok s

/-- EXIT and KILL: in a handler group the origin lanes exit too (17, R312). -/
def Env.exit (e : Env) (m : BitVec 32) (s : State) : Except Halt State :=
  e.endLanes m ((e.g.originsOf m).foldl (fun s o => s.serve o true false) s)

def execExit (g : BitVec 3) (s : State) : Host.Outcome State Fault Refusal := inWord s fun e => e.exit (e.act g) s

def execKill (g : BitVec 3) (p : BitVec 4) (n : BitVec 1) (s : State) : Host.Outcome State Fault Refusal :=
  inWord s fun e => e.exit (maskOf ((lanesOf (e.act g)).filter (fun i => (e.g.lane i).pred p.toNat != (n == 1)))) s

end Sys2Proof.Machine
end

