-- ==== Sys2Proof/Machine/Residency.lean ====
section
/-! DEFINITION. Page residency and migration, PREQ, LOCK, UNLOCK (10, R184–R186, R190; 11, R207, R208), and counter signals (11, R215). -/

namespace Sys2Proof.Machine

/-! ### Page tables as the device writes them -/

/-- The address and the value of the leaf entry that a walk from the homes ends at. -/
def leafSlot (mem : Mem) (va : Nat) : List (Nat × Nat × Bool) → Nat → Option (Nat × Nat × Nat)
  | [], _ => none
  | (lo, n, leafOk) :: rest, table =>
    let a := table + 8 * bits va lo n
    let e := mem.nat a 8
    if bits e 0 1 == 0 then none
    else if bits e 1 1 == 1 then (if leafOk then some (a, e, lo) else none)
    else leafSlot mem va rest (bits e 7 45 * 2 ^ 7)

/-- Write eight bytes at a home as the device's own landing. -/
def State.landWord (s : State) (a v : Nat) : State :=
  s.land none (((leBytes 8 v).zip (List.range 8)).map (fun b => (a + b.2, b.1, false))) []

/-- An entry with a new frame, resident. -/
def entryAt (e frame : Nat) : Nat := e / 2 ^ 52 * 2 ^ 52 + frame / 2 ^ 16 % 2 ^ 36 * 2 ^ 16 + e % 2 ^ 16 / 8 * 8 + 4 + e % 4

/-! ### Moving a frame (R190) -/

/-- Every dirty byte of a range of lines that a core's L1 or a cluster cache holds goes to its home, so that no access is lost. -/
def State.drainRange (s : State) (lo size : Nat) : State :=
  let within := fun (l : Line) => lo / 128 ≤ l.no && l.no < (lo + size) / 128 && l.dirty != 0
  let s := s.cores.foldl (fun s c => (c.2.l1.filter within).foldl (fun s l => s.backL1 c.1 l.no) s) s
  let s := s.clusters.foldl (fun s c => (c.2.filter within).foldl (fun s l => s.backCluster (s.lineOwner l) c.1 l.no) s) s
  s.cores.foldl (fun s c => (c.2.tileBuf.filter within).foldl (fun s l =>
    let t := s.core c.1
    (s.landAny (dieOf c.1) (s.lineOwner l) l.dirtyBytes l.poisonedWords).setCore c.1 { t with tileBuf := dropLine t.tileBuf l.no }) s) s

/-- The lines of a range leave every private cache. -/
def State.forgetRange (s : State) (lo size : Nat) : State :=
  let out := fun (ls : List Line) => ls.filter (fun l => !(lo / 128 ≤ l.no && l.no < (lo + size) / 128))
  { s with
    cores := s.cores.map (fun c => (c.1, { c.2 with l1 := out c.2.l1, constants := out c.2.constants, tiles := out c.2.tiles, tileBuf := out c.2.tileBuf }))
    clusters := s.clusters.map (fun c => (c.1, out c.2))
    l2 := s.l2.filter (fun n => !(lo / 128 ≤ n && n < (lo + size) / 128)) }

/-- Copy a frame with its poison to another place. -/
def State.copyFrame (s : State) (old new size : Nat) : State :=
  let moved := s.mem.filter (fun c => old ≤ c.1 && c.1 < old + size)
  let poisoned := s.poison.filter (fun k => old / 32 ≤ k && k < (old + size) / 32)
  { s with
    mem := moved.foldl (fun m c => m.set (c.1 - old + new) c.2) (s.mem.clear new size)
    poison := poisoned.foldl (fun p k => insertNat p (k - old / 32 + new / 32))
      (s.poison.filter (fun k => !(new / 32 ≤ k && k < (new + size) / 32))) }

/-- Bytes sent to a frame on another device, a line at a time. -/
def State.sendFrame (s : State) (frame : Nat) (bs : List (BitVec 8)) : State :=
  (List.range (bs.length / 128)).foldl (fun s i =>
    { s with outbox := s.outbox ++ [.request (sysNode frame) (sysOff frame + 128 * i) (.write ((bs.drop (128 * i)).take 128)) true] }) s

/-- Whether a live binding has elements in a range of physical addresses, which its capture units watch (04, R43). -/
def State.bound (s : State) (lo size : Nat) : Bool := s.contexts.any (fun c => c.bindings.any (fun b => b.holds lo size))

/-- Bytes land in a frame that a binding watches, line by line, with their poison; a page copy sets no ALIAS (04, R59). -/
def State.landFrame (s : State) (new : Nat) (bs : List (BitVec 8)) (poison : List Nat) : State :=
  (List.range ((bs.length + 127) / 128)).foldl (fun s i =>
    let here := (bs.drop (128 * i)).take 128
    s.land none ((here.zip (List.range here.length)).map (fun b => (new + 128 * i + b.2, b.1, false)))
      (poison.filter (fun k => (new + 128 * i) / 32 ≤ k && k < (new + 128 * i) / 32 + 4))) s

/-- The bytes of a frame on another device with the dirty ones that caches here hold of it, L1 before the cluster caches. -/
def State.overlay (s : State) (old size : Nat) (data : List (BitVec 8)) : List (BitVec 8) :=
  let within := fun (l : Line) => old / 128 ≤ l.no && l.no < (old + size) / 128 && l.dirty != 0
  let lines := s.clusters.flatMap (fun c => c.2.filter within) ++ s.cores.flatMap (fun c => c.2.tileBuf.filter within ++ c.2.l1.filter within)
  (lines.flatMap Line.dirtyBytes).foldl (fun bs d => setNth bs (d.1 - old) d.2.1) data

/-- A frame's bytes go to a new frame; `data` are those of a frame on another device. -/
def State.moveFrame (s : State) (old new size : Nat) (data : List (BitVec 8)) : State :=
  if isRemote new then s.sendFrame new (if isRemote old then data else s.mem.read old size)
  else if s.bound new size then
    s.landFrame new (if isRemote old then data else s.mem.read old size)
      (if isRemote old then [] else (s.poison.filter (fun k => old / 32 ≤ k && k < (old + size) / 32)).map (fun k => k - old / 32 + new / 32))
  else if isRemote old then
    { s with mem := Mem.write (s.mem.clear new size) new data, poison := s.poison.filter (fun k => !(new / 32 ≤ k && k < (new + size) / 32)) }
  else s.copyFrame old new size

/-- Where a physical address stands after its frame has moved within the device. -/
def movedTo (old size new pa : Nat) : Nat := if old ≤ pa && pa < old + size then pa - old + new else pa

/-- Accesses that are on their way to a frame go on to its new place (R190). -/
def After.moved (f : Nat → Nat) : After → After
  | .store acq policy ws => .store acq policy (ws.map (fun a => { a with pa := f a.pa }))
  | .atom dest acts zeros => .atom dest (acts.map (fun a => { a with pa := f a.pa })) zeros
  | .load policy ws rs dest width => .load policy ws (rs.map (fun a => { a with pa := f a.pa })) dest width
  | a => a
def Job.moved (f : Nat → Nat) : Job → Job
  | .load ws parts src acq => .load ws parts (src.map (fun p => { p with pa := f p.pa })) acq
  | .lock dest wanted helpers => .lock dest (wanted.map (fun w => (w.1, w.2.map (fun n => f (128 * n) / 128)))) helpers
  | .release sc after => .release sc (after.moved f)
  | .sketch sk op done => .sketch { sk with descPa := f sk.descPa } op done
  | .skmerge src dst counter done got sent => .skmerge { src with descPa := f src.descPa } { dst with descPa := f dst.descPa } counter done got sent
  | .merging dst q done => .merging { dst with descPa := f dst.descPa } { q with signal := q.signal.map (fun a => (f a.1, a.2)) } done
  | j => j

/-- What the machine holds by physical address follows a frame within the device: accesses on their way, stamps, and clocks published at counters. -/
def State.follow (s : State) (old size new : Nat) : State :=
  if isRemote old || isRemote new then s else
  let f := movedTo old size new
  { s with
    requests := s.requests.map (fun r => { r with job := r.job.moved f })
    stamps := s.stamps.map (fun t => { t with addr := f t.addr, sk := t.sk.map f })
    counterVcs := s.counterVcs.map (fun k => { k with pa := f k.pa }) }

/-- Whether a migration of a page is refused: it holds an element of a live binding or a locked line (R190; 04, R45). -/
def State.pinned (s : State) (lo size : Nat) : Bool :=
  s.bound lo size ||
  s.locked.any (fun k => lo / 128 ≤ k.2 && k.2 < (lo + size) / 128)

/-- A page moves to a new frame: its bytes are copied, FRAME is switched and RES set, every translation of it is invalidated. -/
def State.migratePage (s : State) (ctx va frame : Nat) (data : List (BitVec 8)) : State :=
  match s.ctx? ctx with
  | none => s
  | some c => match leafSlot s.mem va walkLevels c.args.root with
    | none => s
    | some (a, e, lo) =>
      let old := bits e 16 36 * 2 ^ 16
      let size := 2 ^ lo
      let data := s.overlay old size data
      let s := if isRemote old then s else s.drainRange old size
      let s := s.moveFrame old frame size data
      let s := (s.forgetRange old size).forgetRange frame size
      ((s.landWord a (entryAt e frame)).sweepTlb ctx (some va)).follow old size frame

/-! ### Lines copied before the switch (R190) -/

/-- One line of a page in migration is copied, with its poison. -/
def State.copyLine (s : State) (old new : Nat) : State :=
  let t := if s.bound (128 * new) 128 then
      s.landFrame (128 * new) (s.mem.read (128 * old) 128)
        ((s.poison.filter (fun k => 4 * old ≤ k && k < 4 * old + 4)).map (fun k => k - 4 * old + 4 * new))
    else s.copyFrame (128 * old) (128 * new) 128
  { t with copied := t.copied ++ [(old, new)] }

/-- What a place holds of the two frames of a copied line: what a step changed at the new place holds at both, and otherwise what it left at the old one. -/
def mirrored [BEq α] (before after : Nat → α) (a b : Nat) : List (Nat × α) :=
  if after a == after b then [] else if after b == before b then [(b, after a)] else [(a, after b)]

/-- A copied line after a step that led from `s` to `t`: what the step performed at the old home is performed at the new one, to which accesses are
forwarded (R190), and captured there. -/
def State.mirrorLine (s t : State) (k : Nat × Nat) : State :=
  let put := (List.range 128).flatMap (fun i => mirrored s.mem.get t.mem.get (128 * k.1 + i) (128 * k.2 + i))
  let words := (List.range 4).flatMap (fun i => mirrored s.poison.contains t.poison.contains (4 * k.1 + i) (4 * k.2 + i))
  let mem := put.foldl (fun m x => m.set x.1 x.2) t.mem
  { t with
    mem := mem
    poison := words.foldl (fun p w => if w.2 then insertNat p w.1 else p.filter (fun n => n != w.1)) t.poison
    contexts := t.contexts.map (fun c => { c with bindings := c.bindings.map (fun b =>
      b.capture t.time t.mem mem t.poison (put.map (fun x => (x.1, false)))) }) }

/-- All the copied lines after a step. -/
def State.mirror (s t : State) : State := t.copied.foldl s.mirrorLine t

/-- The copy of a page is over. -/
def State.endCopied (s : State) (old size : Nat) : State :=
  { s with copied := s.copied.filter (fun k => !(old / 128 ≤ k.1 && k.1 < (old + size) / 128)) }

/-- Where an access that arrives for a physical address is performed: at the new frame of a page that has moved (10, R190). -/
def State.forwarded (s : State) (pa : Nat) : Nat :=
  (s.requests.findSome? (fun r => match r.job with
    | .forward old size frame => if old ≤ pa && pa < old + size then some (movedTo old size frame pa) else none
    | _ => none)).getD pa

/-- A frame of a pool that a page of a size can take, aligned to it; which one is open. -/
def poolFrame (s : State) (pool : List Nat) (size : Nat) : Option Nat :=
  let fit := pool.filter (fun f => f % size == 0)
  fit[choose s 3 (max 1 fit.length)]?

/-- The service of one page (R185): whether it is resident now. An empty pool is a residency failure. -/
def State.servePage (s : State) (ctx va : Nat) : State × Bool :=
  match s.walkHome ctx va, s.ctx? ctx with
  | some l, some c =>
    if l.res then (s, true)
    else if s.pinned l.frame (2 ^ l.bits) then (s, false)
    else match poolFrame s c.pool (2 ^ l.bits) with
      | none => (s.updCtx ctx (fun c => { c with residencyFailures := c.residencyFailures + 1 }), false)
      | some f => ((s.updCtx ctx (fun c => { c with pool := c.pool.filter (fun x => x != f) })).tick.migratePage ctx va f [], true)
  | _, _ => (s, false)

/-- The translation of an engine's or the distributor's access (Table 10-6): a non-resident page is requested first. The error is the state in which the
access is a protection fault: a request that failed on an empty pool has been counted (R185). -/
def State.engineAccess (s : State) (u : Option StopUnit) (ctx va : Nat) (n : Need) : Except State (State × Leaf) :=
  if 2 ^ 56 ≤ va then .error s else
  match s.engineLeaf u ctx va n with
  | none => .error s
  | some l =>
    if regionOf (l.pa va) == .reserved then .error s
    else if l.res then .ok (s.noteEngine u l, l)
    else match s.servePage ctx va with
      | (s, false) => .error s
      | (s, true) => match s.engineLeaf u ctx va n with
        | some l => if l.res then .ok (s.noteEngine u l, l) else .error s
        | none => .error s

/-- A state that keeps of another, in which a part of an engine's work faulted, only the residency failures that it counted (R185): the part has had no
other effect. -/
def State.missed (s t : State) : State :=
  { s with contexts := s.contexts.map (fun c => { c with residencyFailures := ((t.ctx? c.no).map (fun d => d.residencyFailures)).getD c.residencyFailures }) }

/-- A signal of a counter by its virtual address (R215). The error is the state of a protection fault. -/
def State.signalVa (s : State) (ctx : Nat) (source : Nat × Nat) (va : Nat) : Except State State :=
  match s.engineAccess none ctx va .write with
  | .error s => .error s
  | .ok (s, l) => .ok (s.signal (some ctx) source (l.pa va) l.trk)

/-- The check of a counter operand at a word (R216): 8-byte aligned, translated, writable or readable; a system address needs SYS. -/
def Env.counterLeaf (e : Env) (s : State) (va : DWord) (n : Need) (sys : Bool) : Option Leaf :=
  match s.checkAccess e 0 va 8 n with
  | none => none
  | some l => if isRemote (l.pa va.toNat) && !sys then none else some l

/-! ### PREQ (R207) -/

def execPreq (g : BitVec 3) (d a : BitVec 7) (s : State) : Host.Outcome State Fault Refusal :=
  inWord s fun e =>
    match e.uniform g (fun l => l.dword (e.v d)) with
    | .error h => .error h
    | .ok none => .ok (e.retire s)
    | .ok (some ctr) =>
      if (e.counterLeaf s ctr .write true).isNone then .error (.protection 0 ctr.toNat) else
      let lanes := (lanesOf (e.act g)).filter (fun i => !e.g.isHelper i)
      let addr := fun (i : Nat) => (e.g.lane i).dword (e.v a)
      match laneFault 0x06 (lanes.filter (fun i => (s.checkAccess e i (addr i) 1 .read).isNone)) (fun i => (addr i).toNat) with
      | some h => .error h
      | none => .ok (e.retire (e.submit (.preq ((lanes.filterMap (fun i => (s.checkAccess e i (addr i) 1 .read).map (fun l => l.page))).eraseDups) ctr.toNat) s))

/-- PAGE_REQUEST_SERVICE (R185): every page is served or has failed, and the counter is signalled, which another device
must acknowledge (18, R333). Windows of ended workgroups may then be written
back (R178). -/
def execPageRequestService (a : Answered) (s : State) : Host.Outcome State Fault Refusal :=
  match s.live? a.id with
  | none => .next s
  | some r =>
    match r.job with
    | .preq pages ctr =>
      let s := (pages.foldl (fun s va => (s.servePage r.ctx va).1) s).setJob a.id (.preq [] ctr)
      .next (match s.signalVa r.ctx (r.ctx, r.launch + 1) ctr with
        | .ok t => s.withAck r a.remote (t.dropRequest a.id).settleEnds
        | .error t => t.engineFault r 0x06 ctr)
    | _ => .next s

/-! ### LOCK and UNLOCK (R186, R208) -/

/-- The physical line of a lane's address; none where the page is not resident or on another device. -/
def lockLine (l : Leaf) (va : Nat) : Option Nat := if l.res && !isRemote (l.pa va) then some (lineNo (l.pa va)) else none

def execLock (g : BitVec 3) (d a : BitVec 7) (l : BitVec 4) (s : State) : Host.Outcome State Fault Refusal :=
  inWord s fun e =>
    let lanes := lanesOf (e.act g)
    let addr := fun (i : Nat) => (e.g.lane i).dword (e.v a)
    let leaf := fun (i : Nat) => s.checkAccess e i (addr i) 1 .read
    match laneFault 0x06 (lanes.filter (fun i => !e.g.isHelper i && (leaf i).isNone)) (fun i => (addr i).toNat) with
    | some h => .error h
    | none =>
      let wanted := (lanes.filter (fun i => !e.g.isHelper i)).map (fun i => (i, (leaf i).bind (fun x => lockLine x (addr i).toNat)))
      .ok (e.launchLong l (.lock (e.v d) wanted (e.act g &&& e.g.helpers)) s)

/-- One lane's lock and its status code, in the order of the checks of R186. -/
def State.lockOne (s : State) (ctx : Nat) (line : Option Nat) : State × Nat :=
  match line with
  | none => (s, 2)
  | some n =>
    if homePoison s.poison n != 0 then (s, 3)
    else if s.locked.contains (ctx, n) then (s, 0)
    else
      let quota := ((s.ctx? ctx).map (fun c => c.args.lockQuota)).getD 0
      if quota ≤ (s.locked.filter (fun k => k.1 == ctx)).length || 8 ≤ ((s.locked.map (·.2)).eraseDups.filter (fun k => lineSet k == lineSet n)).length
      then (s, 1)
      else (({ s with locked := (ctx, n) :: s.locked } : State).putHome n, 0)

/-- LOCK_STATUS_RETURN (R186): the lines are pinned and the codes written. -/
def execLockStatusReturn (id : Nat) (s : State) : Host.Outcome State Fault Refusal :=
  match s.live? id with
  | none => .next s
  | some r =>
    match r.job with
    | .lock dest wanted helpers =>
      let (s, ws) := wanted.foldl (fun (k : State × List LaneWrite) w =>
        let (s, c) := k.1.lockOne r.ctx w.2
        (s, k.2 ++ [⟨w.1, dest, leBytes 4 c⟩])) (s, (lanesOf helpers).map (fun i => ⟨i, dest, leBytes 4 0⟩))
      .next (s.deliver r ws)
    | _ => .next s

def execUnlock (g : BitVec 3) (a : BitVec 7) (s : State) : Host.Outcome State Fault Refusal :=
  inWord s fun e =>
    let lanes := (lanesOf (e.act g)).filter (fun i => !e.g.isHelper i)
    let addr := fun (i : Nat) => (e.g.lane i).dword (e.v a)
    let leaf := fun (i : Nat) => s.checkAccess e i (addr i) 1 .read
    match laneFault 0x06 (lanes.filter (fun i => (leaf i).isNone)) (fun i => (addr i).toNat) with
    | some h => .error h
    | none =>
      let out := lanes.filterMap (fun i => (leaf i).bind (fun x => lockLine x (addr i).toNat))
      .ok (e.retire { s with locked := s.locked.filter (fun k => !(k.1 == e.g.ctx && out.contains k.2)) })

end Sys2Proof.Machine
end

