-- ==== Sys2Proof/Machine/Copy.lean ====
section
/-! DEFINITION. Copies and their batches (11, R204–R206; 10, R187), and the stash-window instructions (11, R209, R210). -/

namespace Sys2Proof.Machine

/-! ### Engine access to global memory -/

/-- Cut a range of virtual addresses where 64 KiB pages end. The fuel is the number of pieces. -/
def pieces : Nat → Nat → Nat → List (Nat × Nat)
  | 0, _, _ => []
  | k + 1, va, n => if n = 0 then [] else
    let m := min n (65536 - va % 65536)
    (va, m) :: pieces k (va + m) (n - m)
def piecesOf (va n : Nat) : List (Nat × Nat) := pieces (n / 65536 + 2) va n

/-- The physical bytes of a range, as an engine translates it, each with the leaf's TRK bit; an address that faults otherwise. What it reads fills L2
lines, for the die of the group that asked (10, R173, R188). No program
reaches another device through an engine (18, R335). With the address comes the state in which it faults. -/
def State.engineRange (s : State) (u : StopUnit) (die ctx va n : Nat) (need : Need) : Except (State × Nat) (State × List (Nat × Bool)) :=
  foldE (fun (k : State × List (Nat × Bool)) p =>
    match k.1.engineAccess (some u) ctx p.1 need with
    | .error s => .error (s, p.1)
    | .ok (s, l) => if isRemote (l.pa p.1) then .error (s, p.1)
      else .ok (if need == .read then s.readLines (l.pa p.1) p.2 l.hot die else s, k.2 ++ (List.range p.2).map (fun i => (l.pa p.1 + i, l.trk)))) (s, []) (piecesOf va n)

/-- Bytes at physical addresses, each with its poison. -/
def State.homeRead (s : State) (pas : List (Nat × Bool)) : List (BitVec 8 × Bool) := pas.map (fun p => (s.mem.get p.1, s.poison.contains (p.1 / 32)))

/-- An engine's landing: bytes at physical addresses; poisoned bytes poison the words they land in (10, R193). -/
def State.engineLand (s : State) (ctx : Nat) (pas : List (Nat × Bool)) (bs : List (BitVec 8 × Bool)) : State :=
  let z := pas.zip bs
  s.land (some ctx) (z.map (fun x => (x.1.1, x.2.1, !x.1.2))) ((z.filter (fun x => x.2.2)).map (fun x => x.1.1 / 32)).eraseDups

/-! ### Tiles in the Local Store (15, R286) -/

/-- The fields of a tile layout word. -/
structure Layout where
  base : Nat
  pitch : Nat
  swz : Nat
  ew : Nat
  ord : Bool
  deriving DecidableEq, Repr

/-- A layout word, if its fields are legal. -/
def layoutOf (w : Nat) : Option Layout :=
  let l : Layout := ⟨bits w 0 20, 16 * bits w 20 12, bits w 32 3, bits w 35 3, bits w 38 1 == 1⟩
  if l.base % 16 != 0 || l.pitch == 0 || 3 < l.swz || 4 < l.ew || bits w 39 25 != 0 then none else some l

/-- The LS offset of byte `b` of stored row `r`. -/
def Layout.at_ (l : Layout) (r b : Nat) : Nat :=
  let o := r * l.pitch + b
  l.base + 16 * Nat.xor (o / 16) (r % 2 ^ l.swz) + o % 16

/-! ### CP -/

/-- The workgroup that an LS address word names, for the workgroup `w` of a cluster. -/
def State.lsWorkgroup (s : State) (w : Workgroup) (a : Nat) : Option Workgroup :=
  if bits a 24 1 == 1 then s.wgAt w.ctx w.launch w.clu (bits a 20 4) else some w

/-- A copy block (Table 11-3), without its tile layout. -/
def copyOf (l : Lane) (a d : Nat) : Copy :=
  let w2 := (l.word (a + 8)).toNat
  let w3 := (l.word (a + 12)).toNat
  ⟨bits w2 0 2, if bits w2 2 1 == 1 then some 0 else none, bits w2 8 24, if bits w2 2 1 == 1 then bits w3 0 16 else 1,
    16 * bits w3 16 16, l.dword a, l.dword d⟩

/-- The operand-format checks of a copy block that need no memory (R205). -/
def copyFormatOk (l : Lane) (a : Nat) (c : Copy) : Bool :=
  let w2 := (l.word (a + 8)).toNat
  let w3 := (l.word (a + 12)).toNat
  let glob := if c.kind == 0 then c.src else c.dst
  c.kind != 3 && bits w2 3 5 == 0 &&
  (match c.tile with
   | none => c.len != 0 && w3 == 0
   | some _ => c.kind != 2 && c.len != 0 && c.len % 16 == 0 && 1 ≤ c.rows && 16 ≤ c.pitch && c.len ≤ c.pitch && glob.toNat % 16 == 0)

/-- The LS bytes of a copy, in the order of the bytes copied: rows, and positions within them. -/
def Copy.lsBytes (c : Copy) (base : Nat) (lay : Option Layout) : List Nat :=
  match lay with
  | none => (List.range c.len).map (fun i => base + i)
  | some l => (List.range c.rows).flatMap (fun r => (List.range c.len).map (fun b => l.at_ r b))

/-- What the checks of a CP word find for one lane: its copy, or the cause of its fault (R205). -/
def Env.checkCopy (e : Env) (s : State) (i a d : Nat) : Except Nat Copy :=
  let l := e.g.lane i
  let c := copyOf l a d
  let ls := if c.kind == 0 then c.dst else c.src
  if !copyFormatOk l a c then .error 0x0B
  else if (c.kind != 0 && 2 ^ 56 ≤ c.dst.toNat) || (c.kind != 1 && 2 ^ 56 ≤ c.src.toNat) then .error 0x06
  else if c.kind == 2 then .ok c
  else match e.lsTarget s ((ls >>> 32).truncate 32) (ls.truncate 32) (if c.tile.isSome then 8 else 1) with
    | none => .error 0x06
    | some (w, off) =>
      match c.tile with
      | none => if w.lsSize < off + c.len || (w.wgc != e.g.wgc && w.stashes.any (fun x => x.lbase < off + c.len && off < x.lbase + x.len))
        then .error 0x06 else .ok c
      | some _ =>
        match layoutOf (leNat (w.lsRead off 8).1) with
        | none => .error 0x0B
        | some y =>
          if y.ord || (1 ≤ y.ew && c.len % 2 ^ (y.ew - 1) != 0) then .error 0x0B
          else if (c.lsBytes 0 (some y)).any (fun o => w.lsSize ≤ o || (w.wgc != e.g.wgc && (w.stashAt o).isSome)) then .error 0x06
          else .ok c

/-- The stamps of a copy's Local Store side (07, R130): its bytes as a source or as a destination, and the layout word that a tile copy reads. -/
def State.copyLsTouches (s : State) (e : Env) (i : Nat) (c : Copy) (dst : Bool) : List Touch :=
  if c.kind == 2 then [] else
  let ls := if c.kind == 0 then c.dst else c.src
  match e.lsTarget s ((ls >>> 32).truncate 32) (ls.truncate 32) 1 with
  | none => []
  | some (w, off) =>
    let mine := (c.kind == 0) == dst
    match c.tile.bind (fun _ => layoutOf (leNat (w.lsRead off 8).1)) with
    | none => if mine then [⟨i, lsAddr w.wid off, c.len⟩] else []
    | some y =>
      (if mine then (List.range c.rows).flatMap (fun r => (List.range (c.len / 16)).map (fun u => (⟨i, lsAddr w.wid (y.at_ r (16 * u)), 16⟩ : Touch))) else []) ++
      (if dst then [] else [⟨i, lsAddr w.wid off, 8⟩])

/-- The stamps of a copy's global ranges, line by line (07, R131); a range without a translation has none yet. -/
def State.copyTouches (s : State) (e : Env) (i : Nat) (c : Copy) (dst : Bool) : List Touch :=
  (if (dst && c.kind == 1) || (!dst && c.kind == 0) || (c.kind == 2) then
    let base := (if dst then c.dst else c.src).toNat
    (List.range c.rows).flatMap (fun r => ((List.range ((c.len + 127) / 128 + 1)).flatMap (fun k =>
      let lo := max (base + c.pitch * r) ((base + c.pitch * r) / 128 * 128 + 128 * k)
      let hi := min (base + c.pitch * r + c.len) ((base + c.pitch * r) / 128 * 128 + 128 * k + 128)
      if lo < hi then s.stampAt e i lo (hi - lo) else [])))
  else []) ++ s.copyLsTouches e i c dst

/-- CP (R204): each active lane that is no helper lane starts one copy. A handler group may not name an LS side (17, R309). -/
def execCp (g : BitVec 3) (d a : BitVec 7) (s : State) : Host.Outcome State Fault Refusal :=
  inWord s fun e =>
    let lanes := (lanesOf (e.act g)).filter (fun i => !e.g.isHelper i)
    let found := lanes.map (fun i => (i, e.checkCopy s i (e.v a) (e.v d)))
    if e.g.isHandler && found.any (fun x => (copyOf (e.g.lane x.1) (e.v a) (e.v d)).kind < 2) then .error .illegal else
    match found.find? (fun x => match x.2 with
      | .error _ => true
      | .ok _ => false) with
    | some (i, .error c) => .error ⟨c, 0, i, if c == 0x06 then (copyOf (e.g.lane i) (e.v a) (e.v d)).dst else 0,
        maskOf ((found.filter (fun x => match x.2 with
          | .error c' => c' == c
          | .ok _ => false)).map (·.1))⟩
    | _ =>
      let cs := found.filterMap (fun x => match x.2 with
        | .ok c => some (x.1, c)
        | .error _ => none)
      let reads := cs.flatMap (fun x => s.copyTouches e x.1 x.2 false)
      let writes := cs.flatMap (fun x => s.copyTouches e x.1 x.2 true)
      match if e.l.det then lanesMeet reads writes else none with
      | some t => .error (conflictAt t)
      | none =>
      match e.stamp s false none none reads with
      | .error h => .error h
      | .ok s => match e.stamp s true none none writes with
        | .error h => .error h
        | .ok s =>
          let wid := ((s.wgOf e.g).map (fun w => w.wid)).getD 0
          .ok (e.retire (cs.foldl (fun s x => e.submit (.copy x.2 none wid 0) s) s))

/-- Bytes `lo` to `lo + n - 1` of the global side of a copy, row by row from its base address. -/
def State.copyRange (s : State) (die ctx : Nat) (c : Copy) (base : Nat) (need : Need) (lo n : Nat) : Except (State × Nat) (State × List (Nat × Bool)) :=
  foldE (fun (k : State × List (Nat × Bool)) r =>
    let from_ := max lo (c.len * r)
    match k.1.engineRange .copyEngine die ctx (base + c.pitch * r + (from_ - c.len * r)) (min (lo + n) (c.len * r + c.len) - from_) need with
    | .error a => .error a
    | .ok (s, ps) => .ok (s, k.2 ++ ps)) (s, []) (List.range c.rows)

/-- The bytes of a copy whose source and destination overlap, as R205 allows: a byte whose source this copy writes holds what stood there before, or
what the copy wrote there; which one is open, for each byte by itself. -/
def smear (s : State) (src dst : List (Nat × Bool)) (bs : List (BitVec 8 × Bool)) : List (BitVec 8 × Bool) :=
  let up : Bool := ((src.head?).map (fun x => x.1)).getD 0 ≤ ((dst.head?).map (fun x => x.1)).getD 0
  let xs := src.zip (dst.zip (bs.zip (List.range bs.length)))
  let vs := ((if up then xs else xs.reverse).foldl (fun (k : List (Nat × BitVec 8 × Bool) × List (BitVec 8 × Bool)) x =>
    let v := match k.1.find? (fun y => y.1 == x.1.1) with
      | some y => if choose s x.2.2.2 2 == 1 then y.2 else x.2.2.1
      | none => x.2.2.1
    ((x.2.1.1, v) :: k.1, k.2 ++ [v])) (([] : List (Nat × BitVec 8 × Bool)), [])).2
  if up then vs else vs.reverse

/-- Bytes that an engine writes into a Local Store; a word written whole is fresh, one that takes a poisoned byte is poisoned (10, R193). -/
def Workgroup.landAll (w : Workgroup) (gid : Nat) (bs : List (Nat × BitVec 8 × Bool)) : Workgroup :=
  let words := (bs.map (fun x => x.1 / 32)).eraseDups
  let whole := words.filter (fun k => (bs.filter (fun x => x.1 / 32 == k)).length == 32)
  let bad := ((bs.filter (fun x => x.2.2)).map (fun x => x.1 / 32)).eraseDups
  ({ w with
    ls := bs.foldl (fun m x => m.set x.1 x.2.1) w.ls
    lsPoison := bad.foldl insertNat (w.lsPoison.filter (fun k => !whole.contains k)) } : Workgroup).noteLate w.ls gid 3 (bs.map (fun x => x.1)).eraseDups

/-- Bytes `lo` to `lo + n - 1` of a running copy (R205): they are read, and written once. The error is the state and the address of a fault. -/
def State.runPart (s : State) (ctx gid wid : Nat) (c : Copy) (overlap : Bool) (lo n : Nat) : Except (State × Nat) State :=
  let die := dieOf (((s.wg? wid).map (fun w => w.core)).getD 0)
  let lsSide := fun (a : DWord) =>
    match (s.wg? wid).bind (fun w => s.lsWorkgroup w (bits a.toNat 0 32)) with
    | none => none
    | some w => if w.freed then none else
      let off := bits a.toNat 0 20
      some (w, ((c.lsBytes off (c.tile.bind (fun _ => layoutOf (leNat (w.lsRead off 8).1)))).drop lo).take n)
  match c.kind with
  | 0 =>
    match lsSide c.dst, s.copyRange die ctx c c.src.toNat .read lo n with
    | none, _ => .error (s, c.dst.toNat)
    | _, .error a => .error a
    | some (w, offs), .ok (s, pas) =>
      .ok (s.updWg w.wid (fun w => w.landAll gid (offs.zip (s.homeRead pas))))
  | 1 =>
    match lsSide c.src, s.copyRange die ctx c c.dst.toNat .write lo n with
    | none, _ => .error (s, c.src.toNat)
    | _, .error a => .error a
    | some (w, offs), .ok (s, pas) => .ok (s.engineLand ctx pas (offs.map (fun o => (w.ls.get o, w.lsPoisoned o 1))))
  | _ =>
    match s.copyRange die ctx c c.src.toNat .read lo n with
    | .error a => .error a
    | .ok (s, src) => match s.copyRange die ctx c c.dst.toNat .write lo n with
      | .error a => .error a
      | .ok (s, dst) =>
        let bs := s.homeRead src
        .ok (s.engineLand ctx dst (if overlap then smear s src dst bs else bs)).tick

/-- How many bytes a copy has. -/
def Copy.total (c : Copy) : Nat := c.len * c.rows

/-- All the bytes of a copy. -/
def State.runCopy (s : State) (ctx gid wid : Nat) (c : Copy) (overlap : Bool) : Except (State × Nat) State := s.runPart ctx gid wid c overlap 0 c.total

/-- Whether a copy may pause after some of its bytes: no aligned 4-byte word of the destination is torn (R205). -/
def Copy.pauses (c : Copy) (k : Nat) : Bool := c.total ≤ k || ((if c.tile.isSome then 0 else c.dst.toNat) + k) % 4 == 0

/-- The copy engine gets on with a copy by some bytes. A part that faults lands nothing, and the fault is left to the copy's end. -/
def State.copyPart (s : State) (r : Request) (c : Copy) (batch : Option Nat) (wid done n : Nat) : State :=
  if !c.pauses (done + n) then s else
  match s.runPart r.ctx r.gid wid c true done n with
  | .error _ => s
  | .ok t => t.setJob r.id (.copy c batch wid (min c.total (done + n)))

/-! ### Batches (R187, R206) -/

/-- Whether a copy of a group's batch numbered `n` or below is still running. -/
def State.batchBusy (s : State) (gid n : Nat) : Bool :=
  s.requests.any (fun r => match r.job with
    | .copy _ (some b) _ _ => r.gid == gid && b ≤ n
    | _ => false)

/-- Slots whose awaited batches are complete go on; a parked path that waits for a batch asks again when it is popped. -/
def State.settleBatches (s : State) : State :=
  s.groups.foldl (fun s g => [false, true].foldl (fun s b =>
    match (g.slot b).wait, (g.slot b).path with
    | some (.batch n), some p => if s.batchBusy g.gid n then s else s.resumeSlot g.gid b p.pc
    | _, _ => s) s) s

/-- COPY_COMPLETE (R205): the copy's destination bytes have landed; batches, Local Stores and launches that waited for it go on. A page
that does not allow the access is a protection fault that is not precise. -/
def execCopyComplete (id : Nat) (overlap : Bool) (s : State) : Host.Outcome State Fault Refusal :=
  match s.live? id with
  | none => .next s
  | some r =>
    match r.job with
    | .copy c _ wid done => .next (match s.runPart r.ctx r.gid wid c overlap done (c.total - done) with
      | .error (s, a) => s.engineFault r 0x06 a
      | .ok s => (s.dropRequest id).settleBatches.settleEnds)
    | _ => .next s

/-- The group's open copies join a batch. -/
def State.closeBatch (s : State) (gid n : Nat) : State :=
  { s with requests := s.requests.map (fun r => match r.job with
      | .copy c none w k => if r.gid == gid then { r with job := .copy c (some n) w k } else r
      | _ => r) }

/-- CPCLOSE (R206). -/
def execCpclose (g : BitVec 3) (d : BitVec 7) (l : BitVec 4) (s : State) : Host.Outcome State Fault Refusal :=
  inWord s fun e =>
    let n := e.g.batch + 1
    if 2 ^ 32 ≤ n then .error .operand else
    let s := (s.closeBatch e.g.gid n).updGroup e.g.gid (fun x => { x with batch := n })
    .ok (e.launchLong l (.load ((lanesOf (e.act g)).map (fun i => ⟨i, e.v d, leBytes 4 n⟩)) [] [] none) s)

/-- CPWAIT (R206). -/
def execCpwait (g : BitVec 3) (d : BitVec 7) (s : State) : Host.Outcome State Fault Refusal :=
  inWord s fun e =>
    match e.uniform g (fun l => l.word (e.v d)) with
    | .error h => .error h
    | .ok none => .ok (e.retire s)
    | .ok (some n) =>
      if e.g.batch < n.toNat then .error .operand
      else if s.batchBusy e.g.gid n.toNat then .ok (e.await (.batch n.toNat) s)
      else .ok (e.retire s)

/-! ### Stash windows (R209, R210) -/

/-- Write back a window of the issuing workgroup to the homes; NR where a page is not resident. -/
def Env.flush (e : Env) (act : BitVec 32) (w : Workgroup) (win : Nat) (s : State) : Except Halt State :=
  match s.backStashes w (some win) .home with
  | .error a => .error ⟨0x06, 0, 0, BitVec.ofNat 64 a, act⟩
  | .ok (t, nr) => .ok (if nr then (e.sends s t).updGroup e.g.gid (fun g => g.setNr act) else e.sends s t)

/-- STMAP (R209). -/
def execStmap (g : BitVec 3) (a : BitVec 7) (s : State) : Host.Outcome State Fault Refusal :=
  inWord s fun e =>
    if e.g.isHandler then .error .illegal else
    match e.uniform g (fun l => l.nat (e.v a) 16), s.wgOf e.g with
    | .error h, _ => .error h
    | .ok none, _ => .ok (e.retire s)
    | .ok (some _), none => .ok (e.retire s)
    | .ok (some b), some w =>
      let gbase := bits b 0 64
      let lbase := bits b 64 32
      let len := bits b 96 19
      let win := bits b 120 3
      let others := w.stashes.filter (fun x => x.win != win)
      if gbase % 128 != 0 || 2 ^ 56 ≤ gbase || bits lbase 20 12 != 0 || lbase % 128 != 0 || len % 128 != 0 || len == 0 || 262144 < len ||
          bits b 115 5 != 0 || bits b 123 5 != 0 ||
          others.any (fun x => (x.lbase < lbase + len && lbase < x.lbase + x.len) || (x.gbase < gbase + len && gbase < x.gbase + x.len))
      then .error .operand
      else if w.lsSize < lbase + len then .error (.protection 0 lbase)
      else match e.flush (e.act g) w win s with
        | .error h => .error h
        | .ok s => .ok (e.retire (s.updWg w.wid (fun w =>
            let w := w.endStash win
            { w with stashes := w.stashes ++ [⟨win, gbase, lbase, len, []⟩] })))

/-- The live window that STFLUSH and STUNMAP name; where every active lane is a helper lane they write nothing back (06, R80). -/
def withWindow (g : BitVec 3) (a : BitVec 7) (after : Workgroup → Nat → Workgroup) (s : State) : Host.Outcome State Fault Refusal :=
  inWord s fun e =>
    if e.g.isHandler then .error .illegal else
    match e.uniform g (fun l => l.word (e.v a)), s.wgOf e.g with
    | .error h, _ => .error h
    | .ok none, _ => .ok (e.retire s)
    | .ok (some _), none => .ok (e.retire s)
    | .ok (some n), some w =>
      if 8 ≤ n.toNat || !(w.stashes.any (fun x => x.win == n.toNat)) then .error .operand
      else match if e.writes g then e.flush (e.act g) w n.toNat s else .ok s with
        | .error h => .error h
        | .ok s => .ok (e.retire (s.updWg w.wid (fun w => after w n.toNat)))

def execStflush (g : BitVec 3) (a : BitVec 7) (s : State) : Host.Outcome State Fault Refusal := withWindow g a (fun w _ => w) s
def execStunmap (g : BitVec 3) (a : BitVec 7) (s : State) : Host.Outcome State Fault Refusal := withWindow g a (fun w n => w.endStash n) s

end Sys2Proof.Machine
end

