-- ==== Sys2Proof/Machine/Launch.lean ====
section
/-! DEFINITION. Launch descriptors, admission and promises (11, R218–R221; 06, R94–R98), the Trail (06, R101–R103) and the placement of
clusters (06, R91–R94; 07, R125). -/

namespace Sys2Proof.Machine

/-! ### Descriptors (11, Table 11-5) -/

/-- A kernel with no fields set, for a descriptor whose kernel does not matter. -/
def Kernel.none : Kernel := ⟨0, 0, 0, 0, 0, false, 0, 0, 0, [], [], [], 0⟩

/-- The launch of a kernel that a descriptor describes, not yet admitted. -/
def launchOf (d : List (BitVec 8)) (k : Kernel) (root : Bool) (no time : Nat) : Launch :=
  let f := fun (o n : Nat) => leNat ((d.drop o).take n)
  let flags := f 0x32 2
  { no := no, handle := f 0 8, kernel := k, argPtr := f 8 8, counter := f 0x10 8, depCounter := f 0x18 8, depTarget := f 0x20 4,
    dep := bits flags 0 1 == 1, gx := f 0x24 4, gy := f 0x28 4, wgs := f 0x2C 1, groups := f 0x2D 1, lanes := f 0x2E 1, prio := f 0x2F 1,
    ls := 4096 * f 0x30 2, frnd := BitVec.ofNat 3 (bits flags 1 3), ftrap := BitVec.ofNat 6 (bits flags 4 6), bound := f 0x34 4,
    energy := f 0x38 4, deadline := f 0x3C 4, det := k.det, root := root, accepted := time, began := time, r := none, promise := 0, hTime := 0,
    sTime := 0, wSpans := [], reserved := 0, used := 0, placed := [], ended := false, signalled := false, sent := none }

/-- Whether every field of a descriptor is in its range, its reserved bits are zero, and its kernel is loaded in the context (R219). That a dependence
counter address which DEP = 0 leaves unused need not be 8-byte aligned is the model's choice: Table 11-5 asks for both in one entry (log 65). -/
def descLegal (c : Context) (d : List (BitVec 8)) : Bool :=
  let l := launchOf d .none false 0 0
  let flags := leNat ((d.drop 0x32).take 2)
  (c.kernel? l.handle).isSome && l.counter % 8 == 0 && (!l.dep || l.depCounter % 8 == 0) &&
  1 ≤ l.gx && l.gx ≤ 65535 && 1 ≤ l.gy && l.gy ≤ 65535 && l.gx * l.gy ≤ 16777216 &&
  1 ≤ l.wgs && l.wgs ≤ 16 && 1 ≤ l.groups && l.groups ≤ 32 && 1 ≤ l.lanes && l.lanes ≤ 32 && l.prio ≤ 7 &&
  l.ls ≤ 256 * 4096 && l.frnd.toNat ≤ 4 && bits flags 10 6 == 0 && 1 ≤ l.bound && 1 ≤ l.energy

/-- The counters of a descriptor translate, with the permission that their use needs (R219); a non-resident page is no fault. -/
def State.countersOk (s : State) (ctx : Nat) (l : Launch) : Bool :=
  let ok := fun (va : Nat) (n : Need) => va < 2 ^ 56 && (match s.engineLeaf none ctx va n with
    | some x => regionOf (x.pa va) != .reserved
    | none => false)
  (l.counter == 0 || ok l.counter .write) && (!l.dep || ok l.depCounter .read)

/-! ### Admission (06, R95, R96) -/

/-- The cores of a context, in Trail order (R103): ascending die, core cluster and core are ascending core numbers. -/
def Context.coreList (c : Context) : List Nat := (List.range 128).filter (fun i => c.args.cores.getLsbD i)
/-- The core clusters of a context, ascending. -/
def Context.coreClusters (c : Context) : List Nat := (c.coreList.map clusterOf).eraseDups

/-- How many workgroups of a launch a core can take with the given free group slots and Local Store bytes. -/
def coreRoom (l : Launch) (slots ls : Nat) : Nat := if l.ls = 0 then slots / l.groups else min (slots / l.groups) (ls / l.ls)

/-- Whether a cluster of a launch fits a core cluster of the context that is empty (admission code 1). -/
def shapeFits (c : Context) (cores : List Nat) (l : Launch) : Bool :=
  c.coreClusters.any (fun cc => l.wgs ≤ ((cores.filter (fun i => clusterOf i == cc)).map (fun _ => coreRoom l 64 1048576)).sum)

/-- The remaining budget of a context (18, R341); it may be below zero. -/
def Context.remaining (c : Context) : Int :=
  (c.budget : Int) - c.charges - c.finished - ((c.launches.filter (fun l => !l.ended)).map (fun l => ((max l.reserved l.used : Nat) : Int))).sum

/-- The save area that a launch's kernel needs (admission code 6). -/
def saveNeed (c : Context) (regs : Nat) : Nat := 64 * c.coreList.length * (0x700 + 32 * regs) + 1048576 * c.coreList.length

/-- The promise that the distributor would make, whose method is the device's own (R96), and whether one can be made. -/
def State.promiseOf (s : State) : Nat := Config.free s.fresh 0 % 2 ^ 48
def State.promiseBreaks (s : State) (c : Context) : Bool := c.launches.any (fun l => !l.ended) && choose s 1 2 == 1

/-- The admission code of Table 6-5: the first condition that holds. -/
def State.admission (s : State) (c : Context) (l : Launch) (regs : Nat) : Nat :=
  let open_ := fun (c : Context) => (c.launches.filter (fun l => !l.ended)).length
  if !shapeFits c c.coreList l then 1
  else if 1024 ≤ open_ c || 4096 ≤ (s.contexts.map open_).sum then 2
  else if c.remaining < (l.energy : Int) then 3
  else if s.promiseBreaks c then 4
  else if l.deadline != 0 && l.deadline < s.promiseOf then 5
  else if c.args.saveArea.size < saveNeed c regs then 6
  else 0

/-- Accept a launch: it takes the next grid number and its promise, and its estimate is reserved. -/
def State.accept (s : State) (ctx : Nat) (l : Launch) : State :=
  (s.updCtx ctx (fun c => { c with
    nextGrid := (c.nextGrid + 1) % 2 ^ 32
    launches := c.launches ++ [{ l with no := c.nextGrid, promise := s.promiseOf, reserved := l.energy, r := if l.dep then none else some s.time }] })).tick

/-- The result of Table 11-6. -/
def launchResult (code promise : Nat) : Nat := code * 2 ^ 48 + (if code == 0 then promise % 2 ^ 48 else 0)

/-- LAUNCH (R218): illegal in a deterministic launch and in a handler group. The release comes first, then the rest at the distributor. -/
def execLaunch (g : BitVec 3) (d a : BitVec 7) (l : BitVec 4) (s : State) : Host.Outcome State Fault Refusal :=
  inWord s fun e =>
    if e.l.det || e.g.isHandler then .error .illegal else
    match e.uniform g (fun x => x.dword (e.v a)) with
    | .error h => .error h
    | .ok none => .ok (e.launchLong l (.load [] [] [] none) s)
    | .ok (some va) => .ok (e.awaitRelease (some l.toNat) .dev (.launch va.toNat (e.v d) (e.act g)) s)

/-- What follows LAUNCH's release: the descriptor is read at its home, where a page that is not resident is asked for, and validated. The
bytes of a descriptor on another device come with the fabric's answer. A fault of the word comes with the state in which it is taken. -/
def State.readDesc (s : State) (e : Env) (va : Nat) (remote : RemoteReply) : Except (State × Halt) (State × List (BitVec 8)) :=
  match if va % 64 == 0 then s.engineAccess none e.g.ctx va .read else .error s with
  | .error s => .error (s, .protection 0 va)
  | .ok (s, x) =>
    let pa := x.pa va
    let d := match replyLines remote [lineNo pa] with
      | some [(_, bs)] => if isRemote pa then (bs.drop (pa % 128)).take 64 else s.mem.read pa 64
      | _ => s.mem.read pa 64
    match s.ctx? e.g.ctx with
    | none => .error (s, .operand)
    | some c =>
      let l := launchOf d .none false 0 0
      if !descLegal c d then .error (s, .operand)
      else if !s.countersOk e.g.ctx l then .error (s, .protection 0 va)
      else .ok (s, d)

/-- Where LAUNCH's descriptor stands on another device, if it does. -/
def State.remoteDesc (s : State) (e : Env) (va : Nat) : Option Nat :=
  if va % 64 != 0 then none else ((s.engineLeaf none e.g.ctx va .read).map (fun x => x.pa va)).filter isRemote

/-- LAUNCH_ADMISSION_REPLY (R218, R220): the distributor admits or refuses the launch, and the result is written. -/
def execLaunchAdmissionReply (id : Nat) (s : State) : Host.Outcome State Fault Refusal :=
  match s.live? id with
  | none => .next s
  | some r =>
    match r.job, s.ctx? r.ctx with
    | .launch desc dest act, some c =>
      (match c.kernel? (leNat (desc.take 8)) with
      | none => .next s
      | some k =>
        let l := launchOf desc k false 0 s.time
        let code := s.admission c l k.regs
        let out := leBytes 8 (launchResult code s.promiseOf)
        let t := if code == 0 then s.accept r.ctx l else s.tick
        .next (t.deliver r ((lanesOf act).map (fun i => ⟨i, dest, out⟩))))
    | _, _ => .next s

/-! ### The Trail (06, R101, R102) -/

/-- One level of d2xy. -/
def trailStep (q t x y : Nat) : Nat × Nat :=
  let rx := t / 2 % 2
  let ry := Nat.xor t rx % 2
  let (x, y) := if ry == 0 then (let (x, y) := if rx == 1 then (q - 1 - x, q - 1 - y) else (x, y); (y, x)) else (x, y)
  (x + q * rx, y + q * ry)

/-- d2xy(s, d) for s = 2^n: the levels from q = 1 up. -/
def d2xyGo : Nat → Nat → Nat → Nat → Nat → Nat × Nat
  | 0, _, _, x, y => (x, y)
  | n + 1, q, t, x, y => let (x, y) := trailStep q t x y; d2xyGo n (2 * q) (t / 4) x y
def d2xy (n d : Nat) : Nat × Nat := d2xyGo n 1 d 0 0

/-- The exponent of the smallest power of two not below m. -/
def ceilLog (m : Nat) : Nat := if m ≤ 1 then 0 else (m - 1).log2 + 1

/-- The clusters of an X × Y grid in Trail order. -/
def trail (gx gy : Nat) : List Nat :=
  let n := ceilLog (max gx gy)
  (List.range (2 ^ n * 2 ^ n)).filterMap (fun d => let (x, y) := d2xy n d; if x < gx && y < gy then some (x + gx * y) else none)

/-- The cluster that a launch places next. -/
def Launch.nextCluster (l : Launch) : Nat := if l.det then (trail l.gx l.gy).getD l.placed.length 0 else l.placed.length

/-- The core cluster of the cluster at Trail position k of a deterministic launch (R102). -/
def trailHome (c : Context) (l : Launch) (k : Nat) : Nat :=
  let dies := (c.coreList.map dieOf).eraseDups
  let die := dies.getD (k * dies.length / (l.gx * l.gy)) 0
  let ccs := c.coreClusters.filter (fun cc => cc / 4 == die)
  ccs.getD (k % ccs.length) 0

/-! ### Room on a core (06, R91; 17, R324) -/

/-- The workgroups that hold group slots of a core. -/
def State.residents (s : State) (core : Nat) : List Workgroup := s.workgroups.filter (fun w => w.core == core && w.resident && !w.gone)

/-- The free group slots of a sub-core. -/
def State.freeSlots (s : State) (core sub : Nat) : List Nat :=
  let taken := (s.residents core).flatMap (fun w => w.slots)
  ((List.range 16).map (fun i => 16 * sub + i)).filter (fun n => !taken.contains n)

/-- The free Local Store bytes of a core. -/
def State.freeLs (s : State) (core : Nat) : Nat :=
  1048576 - ((s.workgroups.filter (fun w => w.core == core && w.resident && !(w.gone && w.freed))).map (fun w => w.lsSize)).sum

/-- The kernel of a launch of a context. -/
def State.kernelOf (s : State) (ctx launch : Nat) : Option Kernel :=
  (s.ctx? ctx).bind (fun c => (c.launch? launch).map (fun l => l.kernel))

/-- Whether a core's recipe table has room for a kernel: 256 recipes in all (R324). -/
def State.recipeRoom (s : State) (core : Nat) (k : Kernel) : Bool :=
  let ks := ((s.residents core).filterMap (fun w => s.kernelOf w.ctx w.launch)).eraseDups
  ks.contains k || (ks.map (fun x => x.recipes.length)).sum + k.recipes.length ≤ 256

/-- How many workgroups of a launch fit a core now. -/
def State.roomFor (s : State) (l : Launch) (k : Kernel) (core : Nat) : Nat :=
  if s.recipeRoom core k then coreRoom l (([0, 1, 2, 3].map (fun sub => (s.freeSlots core sub).length)).sum) (s.freeLs core) else 0

/-- Whether `n` workgroups of a launch fit a core cluster of the given cores now. -/
def State.fitsNow (s : State) (cores : List Nat) (l : Launch) (n cc : Nat) : Bool :=
  n ≤ ((cores.filter (fun i => clusterOf i == cc)).map (s.roomFor l l.kernel)).sum

/-- The core clusters where the next cluster of a launch may go. -/
def Context.homesFor (c : Context) (l : Launch) : List Nat := if l.det then [trailHome c l l.placed.length] else c.coreClusters

/-! ### Dependences (06, R94, R96; 11, R219, R221) -/

/-- Read a launch's dependence counter: whether its target is met; none where its translation is gone. One at another device is met once a read of it has
come back with its target (`State.readDep`). -/
def State.depMet (s : State) (ctx : Nat) (l : Launch) : Option Bool :=
  match s.engineLeaf none ctx l.depCounter .read with
  | none => none
  | some x =>
    if !x.res then some false
    else if regionOf (x.pa l.depCounter) == .reserved then none
    else if isRemote (x.pa l.depCounter) then some false
    else some (decide (l.depTarget ≤ s.mem.nat (x.pa l.depCounter) 8))

/-- A fault of a launch that no word raises (R219): reported with origin 2. -/
def State.launchFault (s : State) (ctx : Nat) (l : Launch) (addr : Nat) : State :=
  s.raiseLine ctx ⟨⟨0x06, 2, 0, BitVec.ofNat 64 addr, 0⟩, 0, l.no, s.time, s.clock, 0, 0, 0, []⟩

/-- Launches whose dependence is met for the first time have their r; one whose counter cannot be read faults. A non-resident counter page
is asked for. -/
def State.settleDeps (s : State) : State :=
  let waiting := s.contexts.flatMap (fun c => if c.run != .running then [] else
    (c.launches.filter (fun l => l.dep && l.r.isNone && !l.ended)).map (fun l => (c.no, l)))
  waiting.foldl (fun s x =>
    let (ctx, l) := x
    match s.depMet ctx l with
    | some true => s.updLaunch ctx l.no (fun l => { l with r := some s.time })
    | some false => (match s.engineLeaf none ctx l.depCounter .read with
      | some p => if p.res then s else (match s.engineAccess none ctx l.depCounter .read with
        | .ok (s, _) => s
        | .error s => s.launchFault ctx l l.depCounter)
      | none => s)
    | none => s.launchFault ctx l l.depCounter) s

/-- The distributor reads a waiting launch's dependence counter at another device: a value that has reached the target meets the dependence, a refusal
is the protection fault of R219 (18, R335), and so is no answer within 10 ms of the first attempt of a read (18, R333). -/
def State.readDep (s : State) (ctx launch : Nat) (remote : RemoteReply) : State :=
  match (s.ctx? ctx).bind (fun c => if c.run != .running then none else c.launch? launch) with
  | none => s
  | some l =>
    if !l.dep || l.r.isSome || l.ended then s else
    match (s.engineLeaf none ctx l.depCounter .read).map (fun x => x.pa l.depCounter) with
    | none => s
    | some pa =>
      if !isRemote pa then s else
      match remote, s.fares remote l.sent pa with
      | .data bs, _ => if bs.length != 8 then s else
          s.updLaunch ctx launch (fun l => { l with sent := none, r := if l.depTarget ≤ leNat bs then some s.time else none })
      | _, .fails a => (s.launchFault ctx l a).updLaunch ctx launch (fun l => { l with sent := none })
      | _, _ => s.updLaunch ctx launch (fun l => { l with sent := some (l.sent.getD s.time) })

/-! ### Groups at their start (02, R21, R22, R26–R28; 06, R79; 13, R244) -/

/-- A lane at launch: registers, predicates, flags and NR clear, every row exponent EMPTY. -/
def Lane.start : Lane := ⟨[], 0, 0, 0, false, List.replicate 8 0x8000, none⟩

/-- The lanes that exist in a group of a launch, and its helper lanes (R79). -/
def groupLanes (l : Launch) (grp : Nat) : BitVec 32 × BitVec 32 :=
  if grp + 1 < l.groups then (BitVec.allOnes 32, 0)
  else
    let n := (l.lanes + 3) / 4 * 4
    (maskOf (List.range n), maskOf ((List.range n).filter (fun i => l.lanes ≤ i)))

/-- A group at its start: slot A holds its one path at the kernel's first word. -/
def Group.start (gid : Nat) (ctx : Nat) (l : Launch) (clu wgc grp core slot : Nat) : Group :=
  let (on, helpers) := groupLanes l grp
  { gid := gid, ctx := ctx, launch := l.no, clu := clu, wgc := wgc, grp := grp, core := core, sub := slot / 16, slotNo := slot, resident := true,
    lanesOn := on, helpers := helpers, exited := 0, lanes := List.replicate 32 Lane.start, frnd := l.frnd, ftrap := l.ftrap,
    a := Slot.ofPath ⟨BitVec.ofNat 64 l.handle, on, none, []⟩, b := Slot.free, jr := none, stack := [], frames := 0, lastB := true,
    keep := none, windows := [], marked := 0, fast := 0, count := 0, batch := 0, barsW := 0, barsC := 0, joints := 0, tags := [],
    interval := 0, clocks := [], origins := none, fault := none, saveAt := none, since := gid, refetch := false, budget := none }

/-! ### Placement (06, R91–R94) -/

/-- Take group slots of a core's sub-cores, one for each entry. -/
def takeSlots (s : State) (core : Nat) : List Nat → List Nat → Option (List Nat)
  | [], _ => some []
  | sub :: r, used =>
    match (s.freeSlots core sub).find? (fun n => !used.contains n) with
    | none => none
    | some n => if 4 ≤ sub then none else (takeSlots s core r (n :: used)).map (n :: ·)

/-- An acquire at device scope for every class, as groups start with on their core (07, R116, R125): it drops the clean lines of L1 and the cluster
cache, and the constant and tile caches. -/
def State.freshCore (s : State) (core : Nat) : State :=
  let s := s.invalidate core .dev
  s.setCore core { s.core core with constants := [], tiles := [] }

/-- Put a new workgroup of a launch on a core; its groups start with an acquire at device scope (07, R125). -/
def State.placeWorkgroup (s : State) (c : Context) (l : Launch) (k : Kernel) (clu wgc : Nat) (p : CorePlace) : Option State :=
  if !c.args.cores.getLsbD p.core || p.subs.length != l.groups || s.freeLs p.core < l.ls || !s.recipeRoom p.core k then none else
  match takeSlots s p.core p.subs [] with
  | none => none
  | some slots =>
    let wid := s.fresh + 1
    let w : Workgroup := ⟨wid, c.no, l.no, clu, wgc, p.core, l.ls, [], [], [], [], slots, true, false, false, false, false, none⟩
    let gs := (slots.zip (List.range slots.length)).map (fun x => Group.start (s.fresh + 2 + x.2) c.no l clu wgc x.2 p.core x.1)
    some (({ s with workgroups := s.workgroups ++ [w], groups := s.groups ++ gs, fresh := s.fresh + 2 + slots.length }).freshCore p.core)

/-- Place the workgroups of a cluster one after another. -/
def State.placeAll (s : State) (c : Context) (l : Launch) (k : Kernel) (clu : Nat) : List (Nat × CorePlace) → Option State
  | [] => some s
  | (wgc, p) :: r => match s.placeWorkgroup c l k clu wgc p with
    | none => none
    | some s => State.placeAll s c l k clu r

/-- Whether a launch has a cluster waiting whose dependence is met. -/
def Launch.waiting (l : Launch) : Bool := !l.ended && l.r.isSome && l.placed.length < l.gx * l.gy

/-- The cores of a vacate that has begun take no new work (R104). -/
def Context.openCores (c : Context) : List Nat :=
  match c.vacating with
  | none => c.coreList
  | some (_, k) => c.coreList.take (c.coreList.length - k)

/-- The groups of a workgroup that are no handler groups. -/
def State.groupsIn (s : State) (w : Workgroup) : List Group :=
  s.groups.filter (fun g => g.ctx == w.ctx && g.launch == w.launch && g.clu == w.clu && g.wgc == w.wgc && !g.isHandler)

/-- The workgroups of a cluster. -/
def State.clusterWgs (s : State) (ctx launch clu : Nat) : List Workgroup :=
  s.workgroups.filter (fun w => w.ctx == ctx && w.launch == launch && w.clu == clu)

/-- The clusters of a launch that a vacate has moved off their cores and that wait to be restored, in the order in which they were placed: ascending
`%clu`, or the Trail's in a deterministic launch (R94, R105). -/
def State.movedClusters (s : State) (ctx launch : Nat) : List Nat :=
  match (s.ctx? ctx).bind (fun c => c.launch? launch) with
  | none => []
  | some l => (l.placed.map (fun p => p.clu)).filter (fun n => (s.clusterWgs ctx launch n).any (fun w => w.moved && !w.resident && !w.ended))

/-- A saved waiting workgroup whose object is satisfied: a group of it waits no more (R99). -/
def State.satisfied (s : State) (w : Workgroup) : Bool := !w.resident && !w.moved && !w.ended && !(s.groupsIn w).all s.waitsVisible

/-- The core clusters to which a saved workgroup may return: the one that holds others of its cluster, or else any with cores that the context has. -/
def State.returnHomes (s : State) (c : Context) (l : Launch) (w : Workgroup) : List Nat :=
  if (s.clusterWgs w.ctx w.launch w.clu).any (fun x => x.resident && !x.ended) then (l.placed.filter (fun p => p.clu == w.clu)).map (fun p => p.cc)
  else (c.openCores.map clusterOf).eraseDups

/-- A cluster of a launch has its place in a core cluster. -/
def Launch.homeAt (l : Launch) (clu cc : Nat) : Launch := { l with placed := mapWhere (fun p => p.clu == clu) (fun p => { p with cc := cc }) l.placed }

/-- Whether the first moved cluster of a launch, of which the workgroups that have not ended return, fits now. -/
def State.couldRestore (s : State) (c : Context) (m : Launch) : Bool :=
  match s.movedClusters c.no m.no with
  | [] => false
  | n :: _ => c.coreClusters.any (s.fitsNow c.openCores m ((s.clusterWgs c.no m.no n).filter (fun w => !w.ended)).length)

/-- A cluster's place in the order in which its launch takes clusters (R94): those that were placed come before the next one. -/
def Launch.order (l : Launch) (clu : Nat) : Nat := l.placed.findIdx (fun p => p.clu == clu)

/-- A saved workgroup of a launch whose wait is over, which fits now, comes before a cluster's workgroup (R94, R99). -/
def State.firstBack (s : State) (c : Context) (l : Launch) (clu wgc : Nat) : Bool :=
  s.workgroups.any (fun w => w.ctx == c.no && w.launch == l.no && s.satisfied w &&
    (l.order w.clu < l.order clu || (w.clu == clu && w.wgc < wgc)) && (s.returnHomes c l w).any (s.fitsNow c.openCores l 1))

/-- Whether a launch has a cluster to place or to restore, or a saved workgroup whose wait is over, that fits now. -/
def State.couldPlace (s : State) (c : Context) (m : Launch) : Bool :=
  (m.waiting && (c.homesFor m).any (s.fitsNow c.openCores m m.wgs)) || s.couldRestore c m ||
  s.workgroups.any (fun w => w.ctx == c.no && w.launch == m.no && s.satisfied w && (s.returnHomes c m w).any (s.fitsNow c.openCores m 1))

/-- A launch of the context that comes before this one, by class and acceptance, could have a cluster placed now: the distributor takes it
first (R94). -/
def State.passed (s : State) (ctx : Nat) (l : Launch) : Bool :=
  s.contexts.any (fun c => c.no == ctx && c.run == .running && c.launches.any (fun m => m.no != l.no &&
    (l.prio < m.prio || (m.prio == l.prio && m.accepted ≤ l.accepted && c.launches.findIdx (fun x => x.no == m.no) < c.launches.findIdx (fun x => x.no == l.no))) &&
    s.couldPlace c m))

/-- CLUSTER_PLACEMENT (R92, R94, R102): the next cluster of a launch becomes resident whole, on cores of one core cluster. A placement that
those rules do not allow changes nothing. -/
def execClusterPlacement (ctx launch : Nat) (place : List CorePlace) (s : State) : Host.Outcome State Fault Refusal :=
  match s.ctx? ctx with
  | none => .next s
  | some c =>
    match c.launch? launch with
    | none => .next s
    | some l =>
        let k := l.kernel
        let ccs := (place.map (fun p => clusterOf p.core)).eraseDups
        if c.run != .running || !l.waiting || place.length != l.wgs || s.passed ctx l || s.couldRestore c l ||
          s.firstBack c l l.nextCluster 0 ||
          !place.all (fun p => c.openCores.contains p.core) then .next s
        else match ccs with
          | [cc] =>
            if !(c.homesFor l).contains cc then .next s else
            (match s.placeAll c l k l.nextCluster ((List.range place.length).zip place) with
            | none => .next s
            | some t => .next (t.updLaunch ctx launch (fun l =>
                let here : Placed := ⟨l.nextCluster, cc, false, false⟩
                { l with placed := l.placed ++ [here], began := if l.placed.isEmpty then s.time else l.began })))
          | _ => .next s

/-! ### The completion signal (11, R221; 07, Table 7-3) -/

/-- Every dirty byte of some cores and of their core clusters reaches its home, for the context whose groups made it dirty, or else for `ctx`. -/
def State.pushCores (s : State) (ctx : Nat) (cores : List Nat) : State :=
  let s := cores.foldl (fun s i => ((s.core i).l1.filter (fun l => l.dirty != 0)).foldl (fun s l => s.backL1 i l.no) s) s
  ((cores.map clusterOf).eraseDups).foldl (fun s cc => ((s.clusterCache cc).filter (fun l => l.dirty != 0)).foldl (fun s l =>
    s.backCluster (some ((s.lineOwner l).getD ctx)) cc l.no) s) s

/-- Every dirty byte of the context's cores reaches its home. -/
def State.pushContext (s : State) (c : Context) : State := s.pushCores c.no c.coreList

/-- Whether a request is a D access of a group that is still on its way to another device. -/
def Request.remoteAccess (r : Request) : Bool :=
  match r.job with
  | .load _ ps _ _ => !ps.isEmpty
  | .atom _ _ acts _ => !acts.isEmpty
  | .remoteRed .. => true
  | .remoteWrite .. => true
  | _ => false

/-- Whether D accesses of a launch are on their way to other devices: those that its groups made, and what the device itself sent for it. -/
def State.launchBusy (s : State) (ctx launch : Nat) : Bool := s.requests.any (fun r => r.ctx == ctx && (r.launch == launch || r.gid == 0) && r.remoteAccess)

/-- LAUNCH_COMPLETION_SIGNAL (R221): a launch that has ended signals its counter, after its copies are complete and its Local Stores freed (10, R187),
and after every D access of the launch has reached the device level, and those to other devices are acknowledged. No launch of a halted context signals (17, R318). What
goes to another device must be acknowledged (18, R333). -/
def execLaunchCompletionSignal (ctx launch : Nat) (remote : RemoteReply) (s : State) : Host.Outcome State Fault Refusal :=
  match s.ctx? ctx with
  | none => .next s
  | some c =>
    match c.launch? launch with
    | none => .next s
    | some l =>
      let held := s.workgroups.any (fun w => w.ctx == ctx && w.launch == launch && !w.freed)
      if !l.ended || l.signalled || held || s.launchBusy ctx launch || c.run != .running then .next s else
      let done := fun (s : State) => { s.updLaunch ctx launch (fun l => { l with signalled := true }) with
        stamps := s.stamps.filter (fun t => !(t.ctx == ctx && t.launch == launch))
        workgroups := s.workgroups.filter (fun w => !(w.ctx == ctx && w.launch == launch)) }
      let pushed := s.pushContext c
      let t := if l.counter == 0 then .ok pushed else pushed.signalVa ctx (ctx, launch + 1) l.counter
      let failed := fun (s : State) (a : Nat) => (s.updLaunch ctx launch (fun l => { l with signalled := true })).launchFault ctx l a
      match t with
      | .error t => .next (failed t l.counter)
      | .ok t => match s.acked remote l.sent t with
        | .done => .next (done t)
        | .waits => .next (s.updLaunch ctx launch (fun l => { l with sent := some (l.sent.getD s.time) }))
        | .fails a => .next (failed s a)

end Sys2Proof.Machine
end

