-- ==== Sys2Proof/Machine/Sync.lean ====
section
/-! DEFINITION. Fences, barriers and counters, OP 0x4D (11, R211–R217; 07, R117–R122), and the end of a release and what it precedes. -/

namespace Sys2Proof.Machine

/-! ### What must be over before a release or a fence -/

/-- Whether a group has D accesses on their way to other devices that issued before request `id`. -/
def State.remoteBusy (s : State) (gid id : Nat) : Bool := s.requests.any (fun r => r.gid == gid && r.id < id && r.remoteAccess)

/-! ### FENCE (R211) -/

def execFence (g : BitVec 3) (o : BitVec 2) (sc : BitVec 3) (s : State) : Host.Outcome State Fault Refusal :=
  inWord s fun e =>
    if e.l.det then .error .illegal
    else if o = 0 then
      (if s.remoteBusy e.g.gid s.fresh then .ok (e.retry s) else
      match s.acquireE e.g (e.act g) (scopeCode sc.toNat) with
      | .error h => .error h
      | .ok t => .ok (e.retire (e.sends s t)))
    else .ok (e.awaitRelease none (scopeCode sc.toNat) (.fence (o != 1)) s)

/-! ### PFENCE (R212; 07, R122) -/

/-- PFENCE: D 6:3 hold mask bits 3:0, A 3:0 mask bits 7:4. -/
def execPfence (_g : BitVec 3) (m : BitVec 4) (sc : BitVec 3) (n : BitVec 4) (s : State) : Host.Outcome State Fault Refusal :=
  inWord s fun e => .ok (e.await (.request s.fresh) (e.submit (.pfence (n ++ m) (scopeCode sc.toNat)) s))

/-- The mask bit of the class (Table 7-2) of what a word reads and writes on the core's own paths. -/
def pathClass : Instr → Option Nat
  | .ldc .. => some 1
  | .ldt .. => some 2
  | .stT .. => some 2
  | .hrd .. => none
  | .stopr .. => none
  | .ebudRd .. => none
  | .cpclose .. => none
  | .skmerge .. => some 5
  | .bar .. => none
  | .fence .. => none
  | _ => some 0

/-- The classes of a request (Table 7-2), as their mask bits. A settle's writes of C are class D, its reads of A and B class P (04, R69). -/
def Request.maskBits (r : Request) : List Nat :=
  let ofWord := match decodeWf r.word with
    | .ok i => (pathClass i).toList
    | .error _ => []
  match r.job with
  | .load .. => ofWord
  | .fetch .. => ofWord
  | .launch .. => [0]
  | .release .. => ofWord
  | .atom .. => [0]
  | .remoteRed .. => [0]
  | .remoteWrite .. => [0]
  | .mma .. => [2]
  | .mmaj .. => [2]
  | .copy .. => [3]
  | .mld .. => [4]
  | .mdrain .. => [4]
  | .sketch .. => [5]
  | .skmerge .. => [5]
  | .merging .. => [5]
  | .pbind .. => [6]
  | .prefresh .. => [0, 6]
  | .psettle .. => [0, 6]
  | .punbind .. => [0, 6]
  | _ => []

/-- Push the tile write buffer's lines that a group wrote to their homes. -/
def State.pushTiles (s : State) (g : Group) : State :=
  (s.agents g).foldl (fun s a => (dirtyOf a.gid (s.core g.core).tileBuf).foldl (fun s no =>
    let c := s.core g.core
    match findLine c.tileBuf no with
    | none => s
    | some l => ((s.landAny (dieOf g.core) (some g.ctx) l.dirtyBytes l.poisonedWords).setCore g.core { c with
        tileBuf := dropLine c.tileBuf no }).unleave (.tileBuffer g.core) no) s) s

/-- The addresses of the lines of other devices to which a group's dirty bytes go. -/
def State.pushAddrs (s : State) (g : Group) : List Nat :=
  let c := s.core g.core
  ((dirtyOf g.gid c.l1 ++ dirtyOf g.gid (s.clusterCache (clusterOf g.core)) ++ dirtyOf g.gid c.tileBuf).map (fun n => 128 * n)).filter isRemote

/-- PFENCE_COMPLETE (R122): every earlier request of the group through a masked class has completed; its writes are pushed and its private
copies invalidated. What goes to another device must be acknowledged (18, R333). -/
def execPfenceComplete (a : Answered) (s : State) : Host.Outcome State Fault Refusal :=
  match s.live? a.id with
  | none => .next s
  | some r =>
    match r.job, s.reqEnv r with
    | .pfence mask sc, some e =>
      let busy := s.requests.any (fun q => q.gid == r.gid && q.id < a.id && q.maskBits.any (fun b => mask.getLsbD b))
      if busy then .next s else
      let t := (s.dropRequest a.id).updLate (fun t => t.fencedBy r.gid mask sc)
      let t := if mask.getLsbD 2 then t.pushTiles e.g else t
      let c := t.core e.g.core
      let t := if mask.getLsbD 1 then t.setCore e.g.core { (c : Core) with constants := [] } else t
      let c := t.core e.g.core
      let t := if mask.getLsbD 2 then t.setCore e.g.core { c with tiles := [] } else t
      if !mask.getLsbD 0 then .next (s.withAck r a.remote (t.wake r)) else
      (match t.release e.g e.actWord sc with
      | .error a => .next (e.takeFault ⟨0x06, 0, 0, BitVec.ofNat 64 a, e.actWord⟩ t)
      | .ok t => match t.acquireE e.g e.actWord sc with
        | .error h => .next (e.takeFault h t)
        | .ok t => .next (s.withAck r a.remote (t.wake r)))
    | _, _ => .next s

/-! ### BAR (R213) -/

def execBar (_g : BitVec 3) (k : BitVec 1) (s : State) : Host.Outcome State Fault Refusal :=
  inWord s fun e =>
    if e.g.isHandler then .error .illegal
    else if e.g.live &&& ~~~ e.path.mask != 0 then .error .operand
    else
      let cluster := k == 1
      let n := if cluster then e.g.barsC else e.g.barsW
      .ok (e.awaitRelease none (if cluster then .clu else .wg) (.bar cluster n e.hints.hdet) s)

/-- A group arrives at its instance (R213, R214). A role unlike that of an earlier arrival is an operand-format fault. -/
def State.arriveBar (s : State) (e : Env) (cluster : Bool) (k : Nat) (role : Bool) : Except Halt State :=
  let same := fun (b : Bar) => b.ctx == e.g.ctx && b.launch == e.g.launch && b.clu == e.g.clu && b.cluster == cluster && b.k == k &&
    (cluster || b.wgc == e.g.wgc)
  let arrival := (e.g.gid, s.clock)
  let waits := fun (g : Group) =>
    let g := g.updSlot e.iss.slotB (fun x => { x with wait := some (.bar cluster k) })
    if cluster then { g with barsC := g.barsC + 1 } else { g with barsW := g.barsW + 1 }
  match s.bars.find? same with
  | some b =>
    if b.role != role then .error .operand else
    let t : State := { s with bars := mapWhere same (fun x => { x with arrived := x.arrived ++ [arrival] }) s.bars }
    .ok (t.updGroup e.g.gid waits).afterEnds
  | none =>
    let b : Bar := ⟨e.g.ctx, e.g.launch, e.g.clu, e.g.wgc, cluster, k, role, [arrival]⟩
    let t : State := { s with bars := s.bars ++ [b] }
    .ok (t.updGroup e.g.gid waits).afterEnds

/-! ### ARRIVE and WAITC (R215–R217) -/

def execArrive (g : BitVec 3) (a : BitVec 7) (s : State) : Host.Outcome State Fault Refusal :=
  inWord s fun e =>
    match e.uniform g (fun l => l.dword (e.v a)) with
    | .error h => .error h
    | .ok none => .ok (e.retire s)
    | .ok (some va) =>
      let sc := e.counterScope
      if (e.counterLeaf s va .write (sc == .sys)).isNone then .error (.protection 0 va.toNat)
      else .ok (e.awaitRelease none sc (.arrive va.toNat) s)

/-- The physical address of a counter, for the clocks published at it. -/
def State.counterPa (s : State) (ctx va : Nat) : Nat := ((s.engineLeaf none ctx va .read).map (fun l => l.pa va)).getD 0

/-- The release of a signal in a deterministic launch: the intervals end, and what was known is published (07, R131). -/
def State.publishArrive (s : State) (e : Env) (va : Nat) : State :=
  let s := s.endIntervals e.g
  s.publish (s.counterPa e.g.ctx va) (s.releases ((s.group? e.g.gid).getD e.g) e.path.line e.counterScope)

def execWaitc (g : BitVec 3) (d a : BitVec 7) (s : State) : Host.Outcome State Fault Refusal :=
  inWord s fun e =>
    match e.uniform g (fun l => (l.word (e.v d), l.dword (e.v a))) with
    | .error h => .error h
    | .ok none => .ok (e.retire s)
    | .ok (some (t, va)) =>
      let sys := e.counterScope == .sys
      if (e.counterLeaf s va .read sys).isNone then .error (.protection 0 va.toNat)
      else .ok (e.await (.counter va.toNat t.toNat sys s.time s.time) s)

/-- The value of a counter at its home: here, or as another device answers. One on a page that is not resident has none as yet, and the WAITC waits
without asking for the page, which is the model's choice (log 61). -/
def State.counterValue (s : State) (ctx va : Nat) (remote : RemoteReply) : Option Nat :=
  match s.engineLeaf none ctx va .read with
  | none => none
  | some l =>
    if !l.res then none
    else if isRemote (l.pa va) then (match remote with
      | .data bs => if bs.length == 8 then some (leNat bs) else none
      | _ => none)
    else some (s.mem.nat (l.pa va) 8)

/-- WAITC_SATISFIED (R217): the counter has reached the target; the group acquires and goes on. In a deterministic launch its sync interval
ends and it is ordered after the signals. A counter of another device extends the promise as it is read (06, R96; log 19). A read that another device
refuses, or does not answer within 10 ms, is the protection fault of R333. -/
def execWaitcSatisfied (gid : Nat) (slotB : Bool) (remote : RemoteReply) (s : State) : Host.Outcome State Fault Refusal :=
  match s.group? gid with
  | none => .next s
  | some g =>
    match (g.slot slotB).wait, s.slotEnv g slotB with
    | some (.counter va t sys since asked), some e =>
      let pa := s.counterPa g.ctx va
      let again := fun (s : State) => s.updGroup gid (fun g => g.updSlot slotB (fun x => { x with wait := some (.counter va t sys since s.time) }))
      (match s.counterValue g.ctx va remote with
      | none =>
        .next (if !isRemote pa then s else match s.fares remote (some asked) pa with
          | .fails a => again (s.engineFault (e.request s (.fetch [])) 0x06 a)
          | _ => s)
      | some v =>
        if v < t then .next (if isRemote pa then again s else s) else
        match if g.resident then s.acquireE g e.actWord (if sys then .sys else .dev) else .ok s with
        | .error h => .next (e.takeFault h s)
        | .ok u =>
          let s := e.sends s u
          let s := if isRemote pa && !g.isHandler then s.updLaunch g.ctx g.launch (fun l => { l with wSpans := addSpan l.wSpans since s.time }) else s
          let s := (s.agents g).foldl (fun s a => s.updGroup a.gid (fun x =>
            ((s.linesFor g a e.path.line).foldl (fun x l => x.learn l (s.acquired pa a)) x).nextInterval)) s
          .next (s.resumeSlot gid slotB e.iss.pc))
    | _, _ => .next s

/-! ### The end of a release (07, R117) -/

/-- What a completed release precedes takes place. -/
def State.afterRelease (s : State) (e : Env) (r : Request) (sc : Scope) (after : After) (remote : RemoteReply) : Except Halt State :=
  let m := e.actWord
  match after with
  | .fence acq =>
    if !acq then .ok ((s.dropRequest r.id).wake r) else
    (match s.acquireE e.g m sc with
    | .error h => .error h
    | .ok s => .ok ((s.dropRequest r.id).wake r))
  | .store acq policy ws =>
    let s := (s.performStores e.g policy ws).pushLines e.g sc ws
    if !acq then .ok ((s.dropRequest r.id).wake r) else
    (match s.acquireE e.g m sc with
    | .error h => .error h
    | .ok s => .ok ((s.dropRequest r.id).wake r))
  | .atom (some dest) acts zeros =>
    (match e.performAtom dest zeros acts sc true m s with
    | .error h => .error h
    | .ok (s, job) =>
      let s := s.setJob r.id job
      match job with
      | .atom _ _ [] _ => .ok (s.wake r)
      | _ => .ok s)
  | .atom none acts _ =>
    let k := s.performAtoms e.g sc e.policy acts
    if !k.remote.isEmpty then .ok (k.s.setJob r.id (.remoteRed k.remote (some sc))) else
    (match k.s.acquireE e.g m sc with
    | .error h => .error h
    | .ok s => .ok ((s.dropRequest r.id).wake r))
  | .atomAway (some dest) acts zeros =>
    (match e.performAtom dest zeros acts .sys false m s with
    | .error h => .error h
    | .ok (s, job) => .ok ((s.setJob r.id job).wake r))
  | .atomAway none acts _ =>
    let k := s.performAtoms e.g .sys e.policy acts
    .ok (if k.remote.isEmpty then (k.s.dropRequest r.id).wake r else (k.s.setJob r.id (.remoteRed k.remote none)).wake r)
  | .load policy zeros reads dest width =>
    (match s.acquireE e.g m sc with
    | .error h => .error h
    | .ok s => match s.performLoad e.g policy zeros reads dest width with
      | .error h => .error h
      | .ok k =>
        if !k.parts.isEmpty then .ok (k.s.setJob r.id (.load k.writes k.parts k.src (some sc))) else
        match k.s.acquireE e.g m sc with
        | .error h => .error h
        | .ok s => .ok ((s.setJob r.id (.load k.writes [] k.src none)).wake r))
  | .arrive va =>
    .ok (match s.signalVa e.g.ctx (e.g.ctx, e.g.launch + 1) va with
    | .error s => e.takeFault (.protection 0 va) (s.dropRequest r.id)
    | .ok s => ((s.publishArrive e va).dropRequest r.id).wake r)
  | .bar cluster k role => (s.dropRequest r.id).arriveBar e cluster k role
  | .launch va dest act =>
    let go := match s.readDesc e va remote with
      | .error (s, h) => e.takeFault h ((s.closeWindow r.gid r.id).dropRequest r.id)
      | .ok (s, d) => (s.setJob r.id (.launch d dest act)).wake r
    .ok (match s.remoteDesc e va with
    | none => go
    | some pa => if (replyLines remote [lineNo pa]).isSome then go else match s.fares remote r.since pa with
      | .fails a => (s.engineFault r 0x06 a).setSend r.id r.port (some s.time)
      | _ => s.setSend r.id r.port (some (r.since.getD s.time)))

/-- RELEASE_COMPLETE (R117): the group's dirty bytes have reached the level of the scope, writes to other devices are acknowledged, and the
operation that the release precedes takes place. -/
def execReleaseComplete (id : Nat) (remote : RemoteReply) (s : State) : Host.Outcome State Fault Refusal :=
  match s.live? id with
  | none => .next s
  | some r =>
    match r.job, s.reqEnv r with
    | .release sc after, some e =>
      if s.remoteBusy r.gid id then .next s else
      (match s.release e.g e.actWord sc with
      | .error a => .next (e.takeFault ⟨0x06, 0, 0, BitVec.ofNat 64 a, e.actWord⟩ ((s.closeWindow r.gid id).dropRequest id))
      | .ok t =>
        .next (s.withAck r remote (match t.afterRelease e r sc after remote with
        | .error h => e.takeFault h ((t.closeWindow r.gid id).dropRequest id)
        | .ok t => t)))
    | _, _ => .next s

end Sys2Proof.Machine
end

