-- ==== Sys2Proof/Machine/FpVector.lean ====
section
/-! DEFINITION. The vector floating-point words, OP 0x22 to 0x24 (08, R139), 0x50 to 0x5B and 0x5D (15, R272–R276, R280, R281). -/

namespace Sys2Proof.Machine

/-! ### How a floating-point word ends in its lanes (R241, R242) -/

/-- What a word does in one lane: what it writes there, the flags it raises, and whether a signalling NaN went in. -/
structure FpLane where
  lane : Nat
  put : Lane → Lane
  flags : BitVec 7
  sn : Bool

/-- The traps of the lanes that trap: lanes in which the word counts, helper lanes never (R80). -/
def Env.fpTraps (e : Env) (g : BitVec 3) (rs : List FpLane) : List LaneTrap :=
  rs.filterMap (fun r =>
    if !(e.eff g).getLsbD r.lane || e.g.isHelper r.lane then none
    else (trapCause e.g.ftrap r.sn r.flags).map (fun c => ⟨r.lane, c, 0, r.flags, e.iss.writes⟩))

/-- The lanes that the word completes in. -/
def Env.fpDone (e : Env) (g : BitVec 3) (rs : List FpLane) : List FpLane :=
  let ts := e.fpTraps g rs
  rs.filter (fun r => (e.eff g).getLsbD r.lane && !(ts.any (fun t => t.lane == r.lane)))

/-- A floating-point word completes: results and flags in the lanes that do not trap, and traps in those that do. -/
def Env.finishFp (e : Env) (g : BitVec 3) (delivered : Option Delivered) (rs : List FpLane) (s : State) : State :=
  let s := s.updGroup e.g.gid (fun grp => ((e.fpDone g rs).foldl (fun grp r => grp.updLane r.lane r.put) grp).raiseFlags
    ((e.fpDone g rs).map (fun r => (r.lane, r.flags))))
  e.trapOr (e.fpTraps g rs) g delivered e.retire s

/-- A lane that writes a number of `n` bytes. -/
def FRes.at_ (r : FRes) (lane off n : Nat) : FpLane := ⟨lane, fun l => l.putNat off n r.bits, r.flags, r.sn⟩

/-- A word that computes one value of a format in each active lane. -/
def fpWord (f : Fmt) (g : BitVec 3) (d : BitVec 7) (op : Env → Lane → FRes) (s : State) : Host.Outcome State Fault Refusal :=
  inWord s fun e => .ok (e.finishFp g none ((lanesOf (e.act g)).map (fun i => (op e (e.g.lane i)).at_ i (e.v d) (f.width / 8))) s)

/-- Two FP16 results side by side (R272). -/
def pairUp (lo hi : FRes) : FRes := ⟨lo.bits + 2 ^ 16 * hi.bits, lo.flags ||| hi.flags, lo.sn || hi.sn⟩

/-- A word that is FP32 with X = 0 and two independent FP16 operations with X = 1. -/
def fp32Or16 (g : BitVec 3) (d a b : BitVec 7) (x : BitVec 1) (op : Fmt → Env → Nat → Nat → Nat → FRes) (s : State) :
    Host.Outcome State Fault Refusal :=
  fpWord fp32 g d (fun e l =>
    let p := (l.word (e.v a)).toNat
    let q := (l.word (e.v b)).toNat
    let r := (l.word (e.v d)).toNat
    if x = 0 then op fp32 e p q r
    else pairUp (op fp16 e (bits p 0 16) (bits q 0 16) (bits r 0 16)) (op fp16 e (bits p 16 16) (bits q 16 16) (bits r 16 16))) s

/-- A word on FP64 pairs. -/
def fp64Word (g : BitVec 3) (d a b : BitVec 7) (op : Fmt → Env → Nat → Nat → Nat → FRes) (s : State) : Host.Outcome State Fault Refusal :=
  fpWord fp64 g d (fun e l => op fp64 e (l.nat (e.v a) 8) (l.nat (e.v b) 8) (l.nat (e.v d) 8)) s

/-! ### Arithmetic (Table 15-1) -/

def addOp (f : Fmt) (e : Env) (a b _d : Nat) : FRes :=
  f.deliver e.rounding [f.value a, f.value b] (exactAdd e.rounding.mode (f.value a) (f.value b))
def subOp (f : Fmt) (e : Env) (a b _d : Nat) : FRes :=
  f.deliver e.rounding [f.value a, f.value b] (exactAdd e.rounding.mode (f.value a) (f.value b).negate)
def mulOp (f : Fmt) (e : Env) (a b _d : Nat) : FRes := f.deliver e.rounding [f.value a, f.value b] (exactMul (f.value a) (f.value b))
def fmaOp (f : Fmt) (e : Env) (a b d : Nat) : FRes :=
  f.deliver e.rounding [f.value a, f.value b, f.value d] (exactFma e.rounding.mode (f.value a) (f.value b) (f.value d))

def execFadd (g : BitVec 3) (d a b : BitVec 7) (x : BitVec 1) (s : State) := fp32Or16 g d a b x addOp s
def execFsub (g : BitVec 3) (d a b : BitVec 7) (x : BitVec 1) (s : State) := fp32Or16 g d a b x subOp s
def execFmul (g : BitVec 3) (d a b : BitVec 7) (x : BitVec 1) (s : State) := fp32Or16 g d a b x mulOp s
def execFfma (g : BitVec 3) (d a b : BitVec 7) (x : BitVec 1) (s : State) := fp32Or16 g d a b x fmaOp s
def execFaddF64 (g : BitVec 3) (d a b : BitVec 7) (s : State) := fp64Word g d a b addOp s
def execFsubF64 (g : BitVec 3) (d a b : BitVec 7) (s : State) := fp64Word g d a b subOp s
def execFmulF64 (g : BitVec 3) (d a b : BitVec 7) (s : State) := fp64Word g d a b mulOp s
def execFfmaF64 (g : BitVec 3) (d a b : BitVec 7) (s : State) := fp64Word g d a b fmaOp s

/-! ### Minimum and maximum (R273) -/

/-- Whether the first of two numbers is the lesser, −0 below +0. -/
def lesser (a b : FVal) : Bool :=
  match a.cmp b with
  | .lt => true
  | .gt => false
  | _ => a.isNeg || !b.isNeg

/-- Minimum or maximum; `num` prefers a number to a NaN. -/
def minMax (max num : Bool) (f : Fmt) (_e : Env) (a b _d : Nat) : FRes :=
  let x := f.value a
  let y := f.value b
  let sn := x.isSnan || y.isSnan
  let flags : BitVec 7 := if sn then flagNV else 0
  if num && x.isNan && !y.isNan then ⟨b, flags, sn⟩
  else if num && y.isNan && !x.isNan then ⟨a, flags, sn⟩
  else if x.isNan || y.isNan then f.deliver (.plain .rne) [x, y] .invalid
  else ⟨if lesser x y != max then a else b, 0, false⟩

/-- FMIN and the like in FP32. -/
def minMax32 (max num : Bool) (g : BitVec 3) (d a b : BitVec 7) (s : State) : Host.Outcome State Fault Refusal :=
  fpWord fp32 g d (fun e l => minMax max num fp32 e (l.word (e.v a)).toNat (l.word (e.v b)).toNat 0) s
def execFminF32 (g : BitVec 3) (d a b : BitVec 7) (s : State) := minMax32 false false g d a b s
def execFmaxF32 (g : BitVec 3) (d a b : BitVec 7) (s : State) := minMax32 true false g d a b s
def execFminnumF32 (g : BitVec 3) (d a b : BitVec 7) (s : State) := minMax32 false true g d a b s
def execFmaxnumF32 (g : BitVec 3) (d a b : BitVec 7) (s : State) := minMax32 true true g d a b s
def execFminF64 (g : BitVec 3) (d a b : BitVec 7) (s : State) := fp64Word g d a b (minMax false false) s
def execFmaxF64 (g : BitVec 3) (d a b : BitVec 7) (s : State) := fp64Word g d a b (minMax true false) s
def execFminnumF64 (g : BitVec 3) (d a b : BitVec 7) (s : State) := fp64Word g d a b (minMax false true) s
def execFmaxnumF64 (g : BitVec 3) (d a b : BitVec 7) (s : State) := fp64Word g d a b (minMax true true) s

/-! ### FSCALE and VRSQE -/

/-- A value times 2^b. -/
def FVal.scale (x : FVal) (b : Int) : Exact :=
  match x with
  | .nan .. => .invalid
  | .inf s => .inf s false
  | .num s n d => if 0 ≤ b then .num s (n * 2 ^ b.toNat) d else .num s n (d * 2 ^ (-b).toNat)

/-- FSCALE (Table 15-1). Beyond ±5000 every finite value overflows or is tiny, so the exponent is held there. -/
def scaleOp (f : Fmt) (e : Env) (a : Nat) (b : Word) : FRes :=
  f.deliver e.rounding [f.value a] ((f.value a).scale (max (-5000) (min 5000 b.toInt)))

def execFscale (g : BitVec 3) (d a b : BitVec 7) (x : BitVec 1) (s : State) : Host.Outcome State Fault Refusal :=
  if x = 0 then fpWord fp32 g d (fun e l => scaleOp fp32 e (l.word (e.v a)).toNat (l.word (e.v b))) s
  else fpWord fp64 g d (fun e l => scaleOp fp64 e (l.nat (e.v a) 8) (l.word (e.v b))) s

/-- The exact 1/√x of R274, x the sum. -/
def exactRsqrt (x : FVal) : Exact :=
  match x with
  | .nan .. => .invalid
  | .inf s => if s then .invalid else .num false 0 1
  | .num s n d => if n == 0 then .inf false true else if s then .invalid else let (p, q) := sqrtRat d n; .num false p q

/-- VRSQE in one lane (R274). -/
def vrsqeOp (x eps : Nat) : FRes :=
  let a := fp32.value x
  let b := fp32.value eps
  let clamp : BitVec 7 := if a.isFinite && a.isNeg && !a.isZero then flagCLAMP else 0
  let pos : FVal := if a.isNeg || a.isZero then .num false 0 1 else a
  if a.isNan || b.isNan then fp32.deliver (.plain .rne) [a, b] .invalid
  else match a with
    | .inf s => if s then ⟨fp32.defaultNan, flagNV, false⟩ else ⟨0, 0, false⟩
    | _ =>
      let r := match b with
        | .inf s => fp32.deliver (.plain .rne) [] (exactRsqrt (.inf s))
        | _ => match exactAdd .rne pos b with
          | .num s n d => fp32.deliver (.plain .rne) [] (exactRsqrt (.num s n d))
          | x => fp32.deliver (.plain .rne) [] x
      { r with flags := r.flags ||| clamp }

def execVrsqe (g : BitVec 3) (d a b : BitVec 7) (s : State) : Host.Outcome State Fault Refusal :=
  fpWord fp32 g d (fun e l => vrsqeOp (l.word (e.v a)).toNat (l.word (e.v b)).toNat) s

/-! ### FCMP (R139) -/

/-- The relation of a condition code and its flags (Table 8-2). -/
def fcmpOp (f : Fmt) (c : BitVec 4) (a b : Nat) : Bool × BitVec 7 × Bool :=
  let x := f.value a
  let y := f.value b
  let sn := x.isSnan || y.isSnan
  let r := x.cmp y
  let nv : BitVec 7 := if sn || (r == .un && 2 ≤ c.toNat && c.toNat ≤ 5) then flagNV else 0
  let v := match c.toNat with
    | 0 => r == .eq
    | 1 => r != .eq
    | 2 => r == .lt
    | 3 => r == .lt || r == .eq
    | 4 => r == .gt
    | 5 => r == .gt || r == .eq
    | 6 => r != .un
    | _ => r == .un
  (v, nv, sn)

/-- FCMP of a format. -/
def fcmpWord (f : Fmt) (g : BitVec 3) (p c : BitVec 4) (a b : BitVec 7) (s : State) : Host.Outcome State Fault Refusal :=
  inWord s fun e => .ok (e.finishFp g none ((lanesOf (e.act g)).map (fun i =>
    let l := e.g.lane i
    let (v, flags, sn) := fcmpOp f c (l.nat (e.v a) (f.width / 8)) (l.nat (e.v b) (f.width / 8))
    (⟨i, fun l => l.putPred p.toNat v, flags, sn⟩ : FpLane))) s)
def execFcmpF32 (g : BitVec 3) (p c : BitVec 4) (a b : BitVec 7) (s : State) := fcmpWord fp32 g p c a b s
def execFcmpF64 (g : BitVec 3) (p c : BitVec 4) (a b : BitVec 7) (s : State) := fcmpWord fp64 g p c a b s
def execFcmpF16 (g : BitVec 3) (p c : BitVec 4) (a b : BitVec 7) (s : State) := fcmpWord fp16 g p c a b s

/-! ### FRND and FCLASS (R276) -/

/-- FRND: an integral value in the mode in effect; the sign of a zero is kept. -/
def frndOp (f : Fmt) (m : Mode) (a : Nat) : FRes :=
  match f.value a with
  | .num s n d =>
    let (q, inexact) := roundInt m s n d
    ⟨(f.round (.plain .rne) s q 1).1, if inexact then flagNX else 0, false⟩
  | .inf _ => ⟨a, 0, false⟩
  | x => f.deliver (.plain .rne) [x] .invalid

def execFrndF32 (g : BitVec 3) (d a : BitVec 7) (s : State) : Host.Outcome State Fault Refusal :=
  fpWord fp32 g d (fun e l => frndOp fp32 e.rounding.mode (l.word (e.v a)).toNat) s
def execFrndF64 (g : BitVec 3) (d a : BitVec 7) (s : State) : Host.Outcome State Fault Refusal :=
  fpWord fp64 g d (fun e l => frndOp fp64 e.rounding.mode (l.nat (e.v a) 8)) s

/-- The class bit of a pattern. -/
def fclassBit (f : Fmt) (a : Nat) : Nat :=
  match f.value a with
  | .nan s fr p => if FVal.isSnan (.nan s fr p) then 8 else 9
  | .inf s => if s then 0 else 7
  | .num s n _ =>
    let sub := a / 2 ^ f.p % 2 ^ f.ebits == 0
    if n == 0 then (if s then 3 else 4)
    else if sub then (if s then 2 else 5)
    else if s then 1 else 6

/-- FCLASS of a format. -/
def fclassWord (f : Fmt) (g : BitVec 3) (d a : BitVec 7) (s : State) : Host.Outcome State Fault Refusal :=
  fpWord fp32 g d (fun e l =>
    let x := l.nat (e.v a) (f.width / 8)
    ⟨2 ^ fclassBit f x, 0, (f.value x).isSnan⟩) s
def execFclassF32 (g : BitVec 3) (d a : BitVec 7) (s : State) := fclassWord fp32 g d a s
def execFclassF64 (g : BitVec 3) (d a : BitVec 7) (s : State) := fclassWord fp64 g d a s

/-! ### FJOIN and FSPLIT (R280, R281; 13, R248) -/

/-- The accumulator register and slot that a quad is. -/
def Env.joinSlot (e : Env) (a : BitVec 7) : Option (Nat × Nat) :=
  let o := e.v a
  if o < e.k.vwa || (o - e.k.vwa) % 16 != 0 || 1024 ≤ o - e.k.vwa then none
  else some ((o - e.k.vwa) / 128, (o - e.k.vwa) % 128 / 16)

/-- The slot that 16 bytes hold. -/
def slotInt (bs : List (BitVec 8)) : Int := toSigned 128 (leNat bs)

def execFjoin (g : BitVec 3) (d a : BitVec 7) (s : State) : Host.Outcome State Fault Refusal :=
  inWord s fun e =>
    match e.joinSlot a with
    | none => .error .operand
    | some (n, _) =>
      let m := Mode.ofBits (e.hints.hrnd.getD 0)
      .ok (e.finishFp g none ((lanesOf (e.act g)).map (fun i =>
        let l := e.g.lane i
        let (b, fl) := exaRound fp64 (.plain m) (l.rowExp.getD n exaEmpty) (slotInt (l.bytes (e.v a) 16))
        (⟨b, fl, false⟩ : FRes).at_ i (e.v d) 8)) s)

/-- The slices of a magnitude below 1 (R248), and whether a remainder is left. -/
def sliceGo (d : Nat) : Nat → Nat → List Nat × Bool
  | 0, n => ([], n != 0)
  | k + 1, n => let (r, rest) := sliceGo d k (n * 128 % d); (n * 128 / d :: r, rest)

/-- FSPLIT of one value with exponent e into s slices: the 16 bytes, and the flags. An exponent beyond the range of FP64 and of sixteen
slices acts as the nearest one held here. -/
def splitValue (x : FVal) (e : Int) (s : Nat) : List (BitVec 8) × BitVec 7 :=
  let e := max (-1200) (min 1300 e)
  match x with
  | .num neg n d =>
    let (n, d) := if 0 ≤ e then (n, d * 2 ^ e.toNat) else (n * 2 ^ (-e).toNat, d)
    if d ≤ n then (List.replicate 16 0, flagNV) else
    let (sl, rest) := sliceGo d s n
    ((sl.map (fun (t : Nat) => if neg then BitVec.ofInt 8 (-(t : Int)) else BitVec.ofNat 8 t)) ++ List.replicate (16 - s) 0, if rest then flagNX else 0)
  | _ => (List.replicate 16 0, flagNV)

/-- The exponent of `.row`: 1 + the largest unbiased exponent of a nonzero finite value, 0 if there is none. -/
def rowExponent (xs : List FVal) : Int :=
  ((xs.foldl (fun (m : Option Int) x => match x with
    | .num _ n d => if n == 0 then m else some (match m with
      | none => ilog2 n d
      | some k => max k (ilog2 n d))
    | _ => m) none).map (· + 1)).getD 0

/-- FSPLIT in the lanes, each with its exponent. -/
def Env.split (e : Env) (g : BitVec 3) (d a : BitVec 7) (n : BitVec 4) (exp : Lane → Int) (col : Bool) (delivered : Option Delivered) (s : State) : State :=
  e.finishFp g delivered ((lanesOf (e.act g)).map (fun i =>
    let l := e.g.lane i
    let x := fp64.value (l.nat (e.v a) 8)
    let (bs, fl) := splitValue x (exp l) (n.toNat + 1)
    let tail := if col then [] else leBytes 4 (ofSigned 32 (exp l))
    (⟨i, fun l => l.put (e.v d) (bs ++ tail), fl, x.isSnan⟩ : FpLane))) s

/-- FSPLIT.row: when it is executed again, its exponent must be the one delivered at first (17, R313). -/
def execFsplitRow (g : BitVec 3) (d a : BitVec 7) (n : BitVec 4) (s : State) : Host.Outcome State Fault Refusal :=
  inWord s fun e =>
    let x := rowExponent ((lanesOf (e.act g)).map (fun i => fp64.value ((e.g.lane i).nat (e.v a) 8)))
    match e.iss.delivered with
    | some k => if k.scales != [x] then .error .operand else .ok (e.split g d a n (fun _ => x) false (some ⟨[x]⟩) s)
    | none => .ok (e.split g d a n (fun _ => x) false (some ⟨[x]⟩) s)

def execFsplitCol (g : BitVec 3) (d a : BitVec 7) (n : BitVec 4) (s : State) : Host.Outcome State Fault Refusal :=
  inWord s fun e => .ok (e.split g d a n (fun l => (l.word (e.v d + 16)).toInt) true none s)

end Sys2Proof.Machine
end

