-- ==== Sys2Proof/Machine/FpLong.lean ====
section
/-! DEFINITION. The long-latency floating-point words, OP 0x5C (15, R275, Table 15-2), and their completion. -/

namespace Sys2Proof.Machine

/-! ### Transcendental values

Each is computed in binary fixed point far beyond the precision that separates it from a rounding boundary of FP32; the last unit
stands for the rest of the value, which is irrational except where it is given exactly. -/

/-- Fraction bits of exponentials and logarithms, and of circular functions, whose arguments reach 2^128. -/
def logBits : Nat := 256
def sinBits : Nat := 512

/-- The sum of z^(2i+1)/(2i+1) from the term `t` = z^(2i+1) on, z² = p/q, signs alternating if `alt`. -/
def oddSeries (p q : Nat) (alt : Bool) : Nat → Nat → Nat → Int
  | 0, _, _ => 0
  | n + 1, i, t => (if alt && i % 2 == 1 then -((t / (2 * i + 1) : Nat) : Int) else ((t / (2 * i + 1) : Nat) : Int)) +
      oddSeries p q alt n (i + 1) (t * p / q)

/-- ln 2 = 2·artanh(1/3), in units of 2^-b. -/
def lnTwo (b : Nat) : Nat := (2 * oddSeries 1 9 false (b / 3 + 4) 0 (2 ^ b / 3)).toNat

/-- π = 16·arctan(1/5) − 4·arctan(1/239), in units of 2^-b. -/
def piBits (b : Nat) : Nat :=
  (16 * oddSeries 1 25 true (b / 4 + 4) 0 (2 ^ b / 5) - 4 * oddSeries 1 57121 true (b / 15 + 4) 0 (2 ^ b / 239)).toNat

/-- The sum of the terms z^i/i! from `t` on; `z` and `t` in units of 2^-b. -/
def expSeries (b z : Nat) : Nat → Nat → Nat → Nat
  | 0, _, _ => 0
  | n + 1, i, t => t + expSeries b z n (i + 1) (t * z / 2 ^ b / (i + 1))

/-- The alternating sum of the terms z^i/i!, i rising by two, from the term `t` of index i on; `zz` = z². -/
def circSeries (b zz : Nat) : Nat → Nat → Int → Int
  | 0, _, _ => 0
  | n + 1, i, t => t - circSeries b zz n (i + 2) (t * zz / ((2 ^ b : Nat) : Int) / ((i + 1) * (i + 2) : Nat))

/-- A fixed-point number with more to come below its last unit. -/
def beyond (neg : Bool) (v b : Nat) : Exact := .num neg (2 * v + 1) (2 ^ (b + 1))

/-- 2^x of a finite x: a power of two where x is integral; beyond ±200 FP32 has only overflow and underflow. -/
def exactExp2 (neg : Bool) (n d : Nat) : Exact :=
  let q : Int := if neg then -(n : Int) else n
  let k := max (-200) (min 200 (q / (d : Int)))
  let r := (q % (d : Int)).toNat
  let pow := fun (v b : Nat) (more : Bool) =>
    let (a, c) := if 0 ≤ k then (v * 2 ^ k.toNat, 2 ^ b) else (v, 2 ^ (b + (-k).toNat))
    if more then Exact.num false (2 * a + 1) (2 * c) else .num false a c
  if r == 0 then pow 1 0 false
  else pow (expSeries logBits (r * 2 ^ logBits / d * lnTwo logBits / 2 ^ logBits) 64 0 (2 ^ logBits)) logBits true

/-- log2 of a positive finite number: an integer where it is a power of two. -/
def exactLog2 (n d : Nat) : Exact :=
  let e := ilog2 n d
  let (a, b) := if 0 ≤ e then (n, d * 2 ^ e.toNat) else (n * 2 ^ (-e).toNat, d)
  if a == b then .num (e < 0) e.natAbs 1 else
  let z := (a - b) * 2 ^ logBits / (a + b)
  let ln := 2 * oddSeries (z * z / 2 ^ logBits) (2 ^ logBits) false 90 0 z
  let v : Int := e * ((2 ^ logBits : Nat) : Int) + ln * ((2 ^ logBits : Nat) : Int) / (lnTwo logBits : Int)
  if v < 0 then beyond true (-v - 1).toNat logBits else beyond false v.toNat logBits

/-- sin and cos of n/d, n positive: the argument is reduced to the nearest multiple of π/2. -/
def exactCirc (cos neg : Bool) (n d : Nat) : Exact :=
  let b := sinBits
  let half := piBits b / 2
  let x := n * 2 ^ b / d
  let k := (2 * x + half) / (2 * half)
  let r : Int := (x : Int) - (k * half : Nat)
  let quad := (if cos then k + 1 else k) % 4
  let rr := (r * r / ((2 ^ b : Nat) : Int)).toNat
  let v : Int := if quad % 2 == 0 then circSeries b rr 64 1 r else circSeries b rr 64 0 ((2 ^ b : Nat) : Int)
  let v := if 2 ≤ quad then -v else v
  let v := if neg && !cos then -v else v
  if v < 0 then beyond true (-v - 1).toNat b else beyond false v.toNat b

/-! ### The operations of Table 15-2 -/

def divOp (f : Fmt) (k : Rounding) (d a : Nat) : FRes := f.deliver k [f.value a, f.value d] (exactDiv (f.value d) (f.value a))
def sqrtOp (f : Fmt) (k : Rounding) (a : Nat) : FRes := f.deliver k [f.value a] (exactSqrt (f.value a))
def rcpOp (f : Fmt) (k : Rounding) (a : Nat) : FRes := f.deliver k [f.value a] (exactDiv (.num false 1 1) (f.value a))
def exp2Op (k : Rounding) (a : Nat) : FRes :=
  fp32.deliver k [fp32.value a] (match fp32.value a with
    | .num s n d => exactExp2 s n d
    | .inf s => if s then .num false 0 1 else .inf false false
    | _ => .invalid)
def log2Op (k : Rounding) (a : Nat) : FRes :=
  fp32.deliver k [fp32.value a] (match fp32.value a with
    | .num s n d => if n == 0 then .inf true true else if s then .invalid else exactLog2 n d
    | .inf s => if s then .invalid else .inf false false
    | _ => .invalid)
def circOp (cos : Bool) (k : Rounding) (a : Nat) : FRes :=
  fp32.deliver k [fp32.value a] (match fp32.value a with
    | .num s n d => if n == 0 then (if cos then .num false 1 1 else .num s 0 1) else exactCirc cos s n d
    | _ => .invalid)

/-! ### The words -/

/-- A long-latency word: the result of each lane is fixed at issue, where the lane traps or not, and delivered at completion. -/
def longWord (f : Fmt) (g : BitVec 3) (d : BitVec 7) (la : BitVec 4) (op : Env → Lane → FRes) (s : State) : Host.Outcome State Fault Refusal :=
  inWord s fun e =>
    let n := f.width / 8
    let rs := (lanesOf (e.act g)).map (fun i => (i, op e (e.g.lane i)))
    let ends := rs.map (fun r => r.2.at_ r.1 (e.v d) n)
    let done := e.fpDone g ends
    let ws := (rs.filter (fun r => done.any (fun x => x.lane == r.1))).map (fun r => (⟨r.1, e.v d, leBytes n r.2.bits⟩ : LaneWrite))
    .ok (e.trapOr (e.fpTraps g ends) g none e.retire (e.openWindow la.toNat (.fpLong ws (done.map (fun r => (r.lane, r.flags)))) s))

/-- A long-latency word of one operand vA. -/
def longUnary (f : Fmt) (g : BitVec 3) (d a : BitVec 7) (la : BitVec 4) (op : Rounding → Nat → FRes) (s : State) : Host.Outcome State Fault Refusal :=
  longWord f g d la (fun e l => op e.rounding (l.nat (e.v a) (f.width / 8))) s

/-- FDIV: vD := vD / vA. -/
def longDiv (f : Fmt) (g : BitVec 3) (d a : BitVec 7) (la : BitVec 4) (s : State) : Host.Outcome State Fault Refusal :=
  longWord f g d la (fun e l => divOp f e.rounding (l.nat (e.v d) (f.width / 8)) (l.nat (e.v a) (f.width / 8))) s

def execFdivF32 (g : BitVec 3) (d a : BitVec 7) (l : BitVec 4) (s : State) := longDiv fp32 g d a l s
def execFdivF64 (g : BitVec 3) (d a : BitVec 7) (l : BitVec 4) (s : State) := longDiv fp64 g d a l s
def execFsqrtF32 (g : BitVec 3) (d a : BitVec 7) (l : BitVec 4) (s : State) := longUnary fp32 g d a l (sqrtOp fp32) s
def execFsqrtF64 (g : BitVec 3) (d a : BitVec 7) (l : BitVec 4) (s : State) := longUnary fp64 g d a l (sqrtOp fp64) s
def execFrcpF32 (g : BitVec 3) (d a : BitVec 7) (l : BitVec 4) (s : State) := longUnary fp32 g d a l (rcpOp fp32) s
def execFrcpF64 (g : BitVec 3) (d a : BitVec 7) (l : BitVec 4) (s : State) := longUnary fp64 g d a l (rcpOp fp64) s
def execFexp2F32 (g : BitVec 3) (d a : BitVec 7) (l : BitVec 4) (s : State) := longUnary fp32 g d a l exp2Op s
def execFlog2F32 (g : BitVec 3) (d a : BitVec 7) (l : BitVec 4) (s : State) := longUnary fp32 g d a l log2Op s
def execFsinF32 (g : BitVec 3) (d a : BitVec 7) (l : BitVec 4) (s : State) := longUnary fp32 g d a l (circOp false) s
def execFcosF32 (g : BitVec 3) (d a : BitVec 7) (l : BitVec 4) (s : State) := longUnary fp32 g d a l (circOp true) s

/-- Flags raised as a request's results are delivered (R241). -/
def State.deliverFlags (s : State) (r : Request) (ws : List LaneWrite) (fs : List (Nat × BitVec 7)) : State :=
  (s.deliver r ws).updGroup r.gid (fun g => g.raiseFlags fs)

/-- FP_LONG_OP_COMPLETE (R275; 03, R37). -/
def execFpLongOpComplete (id : Nat) (s : State) : Host.Outcome State Fault Refusal :=
  match s.live? id with
  | none => .next s
  | some r =>
    match r.job with
    | .fpLong ws fs => .next (s.deliverFlags r ws fs)
    | _ => .next s

end Sys2Proof.Machine
end

