-- ==== Sys2Proof/Machine/Convert.lean ====
section
/-! DEFINITION. FCVT, OP 0x5E (15, R277–R279; 13, R233, R234, R237–R240). -/

namespace Sys2Proof.Machine

/-- The formats of the type codes of Table 3-17; INT32 has code 7. -/
def cvtFmt (t : Nat) : Fmt :=
  match t with
  | 0 => fp64
  | 1 => fp32
  | 2 => fp16
  | 3 => bf16
  | 4 => e4m3
  | 5 => e5m2
  | _ => e2m1

/-- A value delivered in a floating format by a conversion: an infinity in E4M3 raises NV, and under SAT it is the largest finite
value, with no flag (R239, R241). -/
def Fmt.convert (f : Fmt) (k : Rounding) (x : FVal) : FRes :=
  match x with
  | .inf s => if k.sat then ⟨f.sign s + f.maxBits, 0, false⟩ else ⟨f.infBits s, if f.noInf then flagNV else 0, false⟩
  | .num s n d => f.deliver k [x] (.num s n d)
  | .nan .. => f.deliver k [x] .invalid

/-- A value converted to INT32 (R234). -/
def toInt32 (k : Rounding) (signed : Bool) (x : FVal) : FRes :=
  let lo : Int := if signed then -2147483648 else 0
  let hi : Int := if signed then 2147483647 else 4294967295
  match x with
  | .nan .. => ⟨0, flagNV, x.isSnan⟩
  | .inf s => ⟨ofSigned 32 (if s then lo else hi), flagNV, false⟩
  | .num s n d =>
    let (q, inexact) := roundInt k.mode s n d
    let v : Int := if s then -(q : Int) else q
    if v < lo then ⟨ofSigned 32 lo, flagNV, false⟩ else if hi < v then ⟨ofSigned 32 hi, flagNV, false⟩
    else ⟨ofSigned 32 v, if inexact then flagNX else 0, false⟩

/-- One element converted from type `s` to type `t`; `n` is the signedness of an INT32. -/
def cvtElem (s t : Nat) (n : BitVec 1) (k : Rounding) (x : Nat) : FRes :=
  if t == 7 then toInt32 k (n == 1) ((cvtFmt s).value (x % 2 ^ (cvtFmt s).width))
  else if s == 7 then
    let v : Int := if n = 1 then toSigned 32 x else (x % 2 ^ 32 : Nat)
    (cvtFmt t).convert k (.num (v < 0) v.natAbs 1)
  else (cvtFmt t).convert k ((cvtFmt s).value (x % 2 ^ (cvtFmt s).width))

/-- The register bytes of a scalar operand of a type. -/
def cvtBytes (t : Nat) : Nat := if t == 0 then 8 else 4

/-- Scalar FCVT. -/
def Env.cvtScalar (e : Env) (d a : BitVec 7) (s t : Nat) (n : BitVec 1) (i : Nat) : FpLane :=
  (cvtElem s t n (e.satRounding i) ((e.g.lane i).nat (e.v a) (cvtBytes s))).at_ i (e.v d) (cvtBytes t)

/-- Packed FCVT: the two elements, 32 bits apart on an FP32 side, 16 on another. -/
def Env.cvtPacked (e : Env) (d a : BitVec 7) (s t : Nat) (i : Nat) : FpLane :=
  let src := (e.g.lane i).nat (e.v a) (if s == 1 then 8 else 4)
  let ws := if s == 1 then 32 else 16
  let wt := if t == 1 then 32 else 16
  let lo := cvtElem s t 0 (e.satRounding (2 * i)) (bits src 0 ws)
  let hi := cvtElem s t 0 (e.satRounding (2 * i + 1)) (bits src ws ws)
  (⟨lo.bits + 2 ^ wt * hi.bits, lo.flags ||| hi.flags, lo.sn || hi.sn⟩ : FRes).at_ i (e.v d) (if t == 1 then 8 else 4)

/-- The stochastic seed and index of element i, where the word's HSAT says SR (R240). -/
def Env.srAt (e : Env) (i : Nat) : Option (Nat × Nat) :=
  match e.hints.hsat with
  | some (_, true, seed) => some (seed.toNat, i)
  | _ => none

/-- Elements packed, element 0 lowest, `w` bits each. -/
def packElems (w : Nat) : List Nat → Nat
  | [] => 0
  | x :: r => x + 2 ^ w * packElems w r

/-- The eight FP32 values of a lane's block. -/
def Lane.block (l : Lane) (off : Nat) : List FVal := (List.range 8).map (fun k => fp32.value (l.nat (off + 4 * k) 4))

/-- FCVT to a block form (R279): elements, then the scales register. -/
def Env.cvtBlock (e : Env) (d a : BitVec 7) (t band : Nat) (i : Nat) : FpLane :=
  let f := cvtFmt t
  let (sc, es, fl, sn) := quantBlock f band (fun k => e.srAt (8 * i + k)) ((e.g.lane i).block (e.v a))
  let n := f.width
  (⟨packElems f.width es + 2 ^ (8 * n) * (sc + 2 ^ 16 * band), fl, sn⟩ : FRes).at_ i (e.v d) (n + 4)

/-- One element of a block delivered in FP32 (R279). -/
def fromWorth (k : Rounding) (w : Worth) : FRes :=
  match w with
  | .block => ⟨fp32.defaultNan, flagNV, false⟩
  | .invalid => ⟨fp32.defaultNan, flagNV, false⟩
  | .value x => fp32.convert k x

/-- FCVT from a block form (R279). -/
def Env.cvtUnblock (e : Env) (d a : BitVec 7) (s : Nat) (i : Nat) : FpLane :=
  let f := cvtFmt s
  let n := f.width
  let src := (e.g.lane i).nat (e.v a) (n + 4)
  let sc := bits src (8 * n) 8
  let band := bits src (8 * n + 16) 16
  let rs := (List.range 8).map (fun k => fromWorth (e.satRounding (8 * i + k)) (scaledWorth f band sc (bits src (f.width * k) f.width)))
  ⟨i, fun l => l.put (e.v d) (rs.flatMap (fun r => leBytes 4 r.bits)), rs.foldl (fun m r => m ||| r.flags) 0, rs.any (fun r => r.sn)⟩

/-- FCVT (R277): its legal forms are those that decode as well formed. A block form that is executed again must find the band scale that it
delivered at first (17, R313). -/
def execFcvt (g : BitVec 3) (d a : BitVec 7) (s t : BitVec 3) (n x : BitVec 1) (st : State) : Host.Outcome State Fault Refusal :=
  inWord st fun e =>
    let lanes := lanesOf (e.act g)
    if x = 0 then .ok (e.finishFp g none (lanes.map (e.cvtScalar d a s.toNat t.toNat n)) st)
    else if s.toNat == 1 && 4 ≤ t.toNat then
      let band := bandScale (cvtFmt t.toNat) (lanes.flatMap (fun i => (e.g.lane i).block (e.v a)))
      let now : Delivered := ⟨[(band : Int)]⟩
      match e.iss.delivered with
      | some k => if k != now then .error .operand else .ok (e.finishFp g (some now) (lanes.map (e.cvtBlock d a t.toNat band)) st)
      | none => .ok (e.finishFp g (some now) (lanes.map (e.cvtBlock d a t.toNat band)) st)
    else if 4 ≤ s.toNat then .ok (e.finishFp g none (lanes.map (e.cvtUnblock d a s.toNat)) st)
    else .ok (e.finishFp g none (lanes.map (e.cvtPacked d a s.toNat t.toNat)) st)

end Sys2Proof.Machine
end

