-- ==== Sys2Proof/Machine/Matrix.lean ====
section
/-! DEFINITION. Matrix arithmetic in registers: MMA, MACC, MZERO and MQUANT, OP 0x60, 0x63, 0x64, 0x67 (15, R282–R285, R292, R293, R297; 13, R243,
R245), and their completion. -/

namespace Sys2Proof.Machine

/-! ### Elements -/

/-- The formats of the matrix type codes (Table 15-4): 0 FP32, 1 FP16, 2 BF16, 3 and 5 E4M3, 4 and 6 E5M2, 7 E2M1; 8 is INT8. -/
def mmaFmt (t : Nat) : Fmt :=
  match t with
  | 0 => fp32
  | 1 => fp16
  | 2 => bf16
  | 3 => e4m3
  | 5 => e4m3
  | 7 => e2m1
  | _ => e5m2
/-- The bits of an element. -/
def mmaWidth (t : Nat) : Nat := if t == 8 then 8 else (mmaFmt t).width
/-- Scaled types. -/
def isScaled (t : Nat) : Bool := 5 ≤ t && t ≤ 7

/-- Kmax of Table 15-5; 0 for a combination that it does not list. -/
def kmaxOf (ta tb tc : Nat) : Nat :=
  if ta == 0 && tb == 0 && tc == 0 then 8
  else if ta == 1 && tb == 1 && tc ≤ 1 then 32
  else if ta == 2 && tb == 2 && (tc == 0 || tc == 2) then 32
  else if (ta == 3 || ta == 4) && (tb == 3 || tb == 4) && tc ≤ 2 then 64
  else if (ta == 5 || ta == 6) && (tb == 5 || tb == 6) && tc == 0 then 64
  else if ta == 7 && tb == 7 && tc == 0 then 128
  else if ta == 8 && tb == 8 && (tc == 8 || tc == 9) then 64
  else 0

/-- A line of elements along K: their worths, or the integers of INT8. -/
structure KLine where
  worths : List Worth
  ints : List Int
  deriving DecidableEq, Repr

/-- A line from its patterns: negated exactly where asked (R283); scaled by its blocks and its band where the type is. -/
def kLine (t : Nat) (neg : Bool) (blocks : List Nat) (band : Nat) (pats : List Nat) : KLine :=
  if t == 8 then ⟨[], pats.map (fun p => if neg then -(toSigned 8 p) else toSigned 8 p)⟩
  else
    let f := mmaFmt t
    let flip := fun (p : Nat) => if neg then Nat.xor p (2 ^ (f.width - 1)) else p
    ⟨(pats.zip (List.range pats.length)).map (fun x =>
      if isScaled t then scaledWorth f band (blocks.getD (x.2 / 8) 0xFF) (flip x.1) else .value (f.value (flip x.1))), []⟩

/-- The operand value that a worth stands for: an element of an invalid block is the quiet default NaN (R235, R243). -/
def Worth.asOperand : Worth → FVal
  | .block => .nan false (2 ^ 22) 23
  | .invalid => .num false 0 1
  | .value x => x

/-! ### Sums (R243) -/

/-- Add two dyadic numbers T·2^Y. -/
def dyAdd (a b : Int × Int) : Int × Int :=
  if a.2 ≤ b.2 then (a.1 + b.1 * ((2 ^ (b.2 - a.2).toNat : Nat) : Int), a.2) else (a.1 * ((2 ^ (a.2 - b.2).toNat : Nat) : Int) + b.1, b.2)

/-- The exact sum of terms as if computed in IEEE arithmetic; a zero sum of zeros of one sign keeps it. -/
def sumExact (m : Mode) (ts : List Exact) : Exact :=
  let infs := ts.filterMap (fun t => match t with
    | .inf s _ => some s
    | _ => none)
  if ts.any (fun t => t == .invalid) || (infs.any id && infs.any not) then .invalid
  else match infs with
    | s :: _ => .inf s false
    | [] =>
      let nums : List (Bool × Int × Int) := ts.map (fun t => match t with
        | .num s n d => (s, (if s then -(n : Int) else (n : Int)), -(d.log2 : Int))
        | _ => (false, 0, 0))
      let t : Int × Int := nums.foldl (fun a x => dyAdd a x.2) (0, 0)
      if t.1 == 0 then
        (if nums.all (fun x => x.2.1 == 0 && x.1) then .num true 0 1
         else if nums.all (fun x => x.2.1 == 0 && !x.1) then .num false 0 1
         else .num (m == .rdn) 0 1)
      else if 0 ≤ t.2 then .num (t.1 < 0) (t.1.natAbs * 2 ^ t.2.toNat) 1 else .num (t.1 < 0) t.1.natAbs (2 ^ (-t.2).toNat)

/-- A finite value as an exact term. -/
def FVal.exact : FVal → Exact
  | .num s n d => .num s n d
  | .inf s => .inf s false
  | .nan .. => .invalid

/-- One floating-point accumulator element: c + Σ a·b, rounded once (R243). Products and sums of operands that are no NaN raise NV where they are
invalid, whatever NaN the result is. -/
def dotRound (f : Fmt) (k : Rounding) (a b : KLine) (c : Nat) : FRes :=
  let as := a.worths.map Worth.asOperand
  let bs := b.worths.map Worth.asOperand
  let bad := a.worths.any (fun w => w == .invalid) || b.worths.any (fun w => w == .invalid)
  let terms := ((as.zip bs).filter (fun p => !p.1.isNan && !p.2.isNan)).map (fun p => exactMul p.1 p.2) ++
    (if (f.value c).isNan then [] else [(f.value c).exact])
  let x := if bad then .invalid else sumExact k.mode terms
  let r := f.deliver k (as ++ bs ++ [f.value c]) x
  { r with flags := r.flags ||| (if x == .invalid then flagNV else 0) }

/-- The sum of integer products. -/
def dotInt (a b : KLine) : Int := (a.ints.zip b.ints).foldl (fun s p => s + p.1 * p.2) 0

/-! ### Rows of the accumulator -/

/-- What a word gives one lane: bytes from an offset, row exponents, flags, and whether a signalling NaN went in. -/
structure RowOut where
  lane : Nat
  writes : List LaneWrite
  exps : List (Nat × Nat × BitVec 16)
  flags : BitVec 7
  sn : Bool
  deriving DecidableEq, Repr

/-- The format of a floating-point accumulator type. -/
def accFmt (tc : Nat) : Fmt := if tc == 1 then fp16 else if tc == 2 then bf16 else fp32

/-- Adds of terms T·2^Y to the slots of one EXA128 row, slot 0 first; the flag says that something was lost. -/
def ExaRow.addAll (r : ExaRow) (ts : List (Nat × Int × Int)) : ExaRow × Bool :=
  ts.foldl (fun (acc : ExaRow × Bool) t => let (r, l) := acc.1.add t.1 t.2.1 t.2.2; (r, acc.2 || l)) (r, false)

/-- The flags of a loss in EXA128 (R245). -/
def lossFlags (lost : Bool) : BitVec 7 := if lost then flagXL ||| flagNX else 0

/-- The row of accumulator `n` of a lane, at byte `off`. -/
def Lane.exaRow (l : Lane) (n off : Nat) : ExaRow :=
  ⟨l.rowExp.getD n exaEmpty, (List.range 8).map (fun s => slotInt (l.bytes (off + 16 * s) 16))⟩

/-- The bytes of an EXA128 row's slots. -/
def ExaRow.slotBytes (r : ExaRow) : List (BitVec 8) := r.slots.flatMap (fun n => leBytes 16 (ofSigned 128 n))

/-- One row of an accumulator: element j of lane `i` takes the products of row line `a` and column line `bs[j]`; `c` is the accumulator's
number, `off` its first byte; `y j` is the exponent of a TC 9 term. -/
def rowProduct (k : Rounding) (tc i c off : Nat) (l : Lane) (a : KLine) (bs : List KLine) (y : Nat → Int) : RowOut :=
  let js := bs.zip (List.range bs.length)
  if tc == 8 then
    let es := js.flatMap (fun b => leBytes 4 (ofSigned 32 ((l.nat (off + 4 * b.2) 4 : Int) + dotInt a b.1)))
    ⟨i, [⟨i, off, es⟩], [], 0, false⟩
  else if tc == 9 then
    let segs := (List.range ((bs.length + 7) / 8)).map (fun g =>
      (g, (l.exaRow (c + g) (off + 128 * g)).addAll ((js.filter (fun b => b.2 / 8 == g)).map (fun b => (b.2 % 8, dotInt a b.1, y b.2)))))
    ⟨i, segs.map (fun g => ⟨i, off + 128 * g.1, g.2.1.slotBytes⟩), segs.map (fun g => (i, c + g.1, g.2.1.x)),
      lossFlags (segs.any (fun g => g.2.2)), false⟩
  else
    let f := accFmt tc
    let n := f.width / 8
    let rs := js.map (fun b => dotRound f k a b.1 (l.nat (off + n * b.2) n))
    ⟨i, [⟨i, off, rs.flatMap (fun r => leBytes n r.bits)⟩], [], rs.foldl (fun m r => m ||| r.flags) 0, rs.any (fun r => r.sn)⟩

/-- The traps of a word's rows, among the lanes `eff`; neither helper lanes nor lanes that have exited trap. -/
def Env.rowTraps (e : Env) (eff : BitVec 32) (rs : List RowOut) : List LaneTrap :=
  rs.filterMap (fun r =>
    if !eff.getLsbD r.lane || !e.g.live.getLsbD r.lane || e.g.isHelper r.lane then none
    else (trapCause e.g.ftrap r.sn r.flags).map (fun c => ⟨r.lane, c, 0, r.flags, r.writes.map (fun w => ⟨w.off, w.bytes.length⟩)⟩))

/-- The rows that the word completes. -/
def Env.rowsDone (e : Env) (eff : BitVec 32) (rs : List RowOut) : List RowOut :=
  let ts := e.rowTraps eff rs
  rs.filter (fun r => eff.getLsbD r.lane && !(ts.any (fun t => t.lane == r.lane)))

/-- A long-latency word that writes rows: fixed at issue, where its lanes trap, and delivered at completion. -/
def Env.sendRows (e : Env) (g : BitVec 3) (eff : BitVec 32) (la : BitVec 4) (delivered : Option Delivered) (rs : List RowOut)
    (job : List LaneWrite → List (Nat × Nat × BitVec 16) → List (Nat × BitVec 7) → Job) (s : State) : State :=
  let done := e.rowsDone eff rs
  e.trapOr (e.rowTraps eff rs) g delivered e.retire (e.openWindow la.toNat
    (job (done.flatMap (fun r => r.writes)) (done.flatMap (fun r => r.exps)) (done.map (fun r => (r.lane, r.flags)))) s)

/-- The lanes whose rows a word that acts once for the group writes: all that exist, exited or not, or those that execute it again
(R285; 17, R313). -/
def Env.groupEff (e : Env) : BitVec 32 := if e.iss.redo then e.iss.eff else e.g.lanesOn

/-! ### MMA (R282–R285) -/

/-- The check of a word that acts once for the group (R285): whether it acts at all, or the fault. -/
def Env.whole (e : Env) (g : BitVec 3) : Except Halt Bool :=
  let act := e.act g
  if act = 0 then .ok false
  else if e.iss.redo || act = e.g.live then .ok true
  else .error .operand

/-- MMA's control word and modifiers, as numbers. -/
structure MmaCtl where
  ta : Nat
  tb : Nat
  tc : Nat
  m : Nat
  n : Nat
  k : Nat
  tbr : Nat
  tsr : Nat
  w : Int
  tra : Bool
  trb : Bool
  na : Bool
  nb : Bool
  deriving DecidableEq, Repr

def mmaCtl (ctl : Nat) (f : BitVec 4) : MmaCtl :=
  ⟨bits ctl 0 4, bits ctl 4 4, bits ctl 8 4, bits ctl 12 10, bits ctl 22 10, bits ctl 32 10, bits ctl 42 4, bits ctl 46 4,
    toSigned 8 (bits ctl 50 8), f.getLsbD 3, f.getLsbD 2, f.getLsbD 1, f.getLsbD 0⟩

/-- The checks of R282 and R283. -/
def mmaLegal (ctl : Nat) (x : MmaCtl) (c : Nat) (on : BitVec 32) : Bool :=
  let wa := mmaWidth x.ta / 8
  let wb := mmaWidth x.tb / 8
  let lanes := max (max x.m x.n) (if x.tra || x.trb then x.k else 0)
  bits ctl 58 6 == 0 && 1 ≤ x.m && x.m ≤ 32 && 1 ≤ x.n && x.n ≤ 32 && 1 ≤ x.k && x.k ≤ kmaxOf x.ta x.tb x.tc &&
  (x.tc == 9 || (x.w == 0 && (isScaled x.ta || x.tsr == 0))) &&
  (!x.tra || (!isScaled x.ta && x.k ≤ 32 && x.m * wa ≤ 64)) &&
  (!x.trb || (!isScaled x.tb && x.k ≤ 32 && x.n * wb ≤ 64)) &&
  (x.tc != 9 || c + (x.n - 1) / 8 ≤ 7) &&
  (List.range lanes).all (fun i => on.getLsbD i)

/-- The pattern of element `ix` of a tile register at byte `off` of a lane. -/
def Lane.elem (l : Lane) (off t ix : Nat) : Nat :=
  let w := mmaWidth t
  if w == 4 then bits (l.nat (off + ix / 2) 1) (4 * (ix % 2)) 4 else l.nat (off + w / 8 * ix) (w / 8)

/-- A line of `k` elements of an operand: along lane `i`, or across the lanes at position `i` (R283). -/
def Group.kPatterns (g : Group) (off t : Nat) (across : Bool) (i k : Nat) : List Nat :=
  (List.range k).map (fun q => if across then (g.lane q).elem off t i else (g.lane i).elem off t q)

/-- The rows of an MMA. -/
def Env.mmaRows (e : Env) (x : MmaCtl) (t : BitVec 4) (c : BitVec 3) : List RowOut :=
  let g := e.g
  let ta := e.t t.toNat
  let tb := e.t x.tbr
  let ts := e.t x.tsr
  let blocks := fun (i o : Nat) => (List.range 16).map (fun b => (g.lane i).nat (ts + o + b) 1)
  let bandA := (g.lane 0).nat (ts + 32) 2
  let bandB := (g.lane 0).nat (ts + 34) 2
  let bs := (List.range x.n).map (fun j => kLine x.tb x.nb (blocks j 16) bandB (g.kPatterns tb x.tb x.trb j x.k))
  (List.range x.m).map (fun i =>
    let a := kLine x.ta x.na (blocks i 0) bandA (g.kPatterns ta x.ta x.tra i x.k)
    rowProduct e.rounding x.tc i c.toNat (e.acc c.toNat) (g.lane i) a bs
      (fun j => toSigned 16 ((g.lane i).nat ts 2) + toSigned 16 ((g.lane j).nat (ts + 2) 2) + x.w))

/-- MMA. With its guard false in every lane it does nothing (R285); that it then opens no window either is the model's choice, as it is for MLD (log 50). -/
def execMma (g : BitVec 3) (t : BitVec 4) (c : BitVec 3) (a : BitVec 7) (l f : BitVec 4) (s : State) : Host.Outcome State Fault Refusal :=
  inWord s fun e =>
    match e.whole g, e.uniform g (fun x => x.nat (e.v a) 8) with
    | .error h, _ => .error h
    | .ok false, _ => .ok (e.retire s)
    | .ok true, .error h => .error h
    | .ok true, .ok none => .ok (e.retire s)
    | .ok true, .ok (some ctl) =>
      let x := mmaCtl ctl f
      if !mmaLegal ctl x c.toNat e.g.lanesOn then .error .operand
      else .ok (e.sendRows g e.groupEff l none (e.mmaRows x t c) .mma s)

/-- Rows delivered: bytes, exponents and flags; the window closes. -/
def State.deliverRows (s : State) (r : Request) (ws : List LaneWrite) (es : List (Nat × Nat × BitVec 16)) (fs : List (Nat × BitVec 7)) : State :=
  (s.deliverFlags r ws fs).updGroup r.gid (fun g => g.setExps es)

/-- Whether a request is an MMA of the same sub-core that issued earlier: the array runs them one at a time (R285). -/
def State.mmaBefore (s : State) (r : Request) : Bool :=
  let place := fun (gid : Nat) => (s.group? gid).map (fun g => (g.core, g.sub))
  s.requests.any (fun q => q.id < r.id && place q.gid == place r.gid && (match q.job with
    | .mma .. => true
    | _ => false))

/-- MMA_COMPLETE (R285). -/
def execMmaComplete (id : Nat) (s : State) : Host.Outcome State Fault Refusal :=
  match s.live? id with
  | none => .next s
  | some r =>
    match r.job with
    | .mma ws es fs => .next (if s.mmaBefore r then s else s.deliverRows r ws es fs)
    | _ => .next s

/-! ### MACC and MZERO (R292, R293) -/

/-- The elements of an accumulator register, each sum rounded once. -/
def maccRow (f : Fmt) (k : Rounding) (l : Lane) (i d x y : Nat) : RowOut :=
  let n := f.width / 8
  let rs := (List.range (128 / n)).map (fun j =>
    let p := f.value (l.nat (x + n * j) n)
    let q := f.value (l.nat (y + n * j) n)
    f.deliver k [p, q] (exactAdd k.mode p q))
  ⟨i, [⟨i, d, rs.flatMap (fun r => leBytes n r.bits)⟩], [], rs.foldl (fun m r => m ||| r.flags) 0, rs.any (fun r => r.sn)⟩

/-- MACC.exa: row X with the slots of row Y added in order. -/
def maccExa (l : Lane) (i dn d xn x yn y : Nat) : RowOut :=
  let p := l.exaRow xn x
  let q := l.exaRow yn y
  let (r, lost) :=
    if q.x == exaNonfin then ({ p with x := exaNonfin }, false)
    else if q.x == exaEmpty then (p, false)
    else p.addAll ((q.slots.zip (List.range 8)).map (fun n => (n.2, n.1, q.x.toInt)))
  ⟨i, [⟨i, d, r.slotBytes⟩], [(i, dn, r.x)], lossFlags lost, false⟩

def execMacc (g : BitVec 3) (d p q : BitVec 3) (l f : BitVec 4) (s : State) : Host.Outcome State Fault Refusal :=
  inWord s fun e =>
    let dn := e.acc d.toNat
    let x := e.acc p.toNat
    let y := e.acc q.toNat
    let row := fun (i : Nat) =>
      let k := e.g.lane i
      if f = 9 then maccExa k i d.toNat dn p.toNat x q.toNat y
      else if f = 8 then
        ⟨i, [⟨i, dn, (List.range 32).flatMap (fun j => leBytes 4 (k.nat (x + 4 * j) 4 + k.nat (y + 4 * j) 4))⟩], [], 0, false⟩
      else maccRow (accFmt f.toNat) e.rounding k i dn x y
    .ok (e.sendRows g (e.eff g) l none ((lanesOf (e.act g)).map row) .acc s)

def execMzero (g d : BitVec 3) (l : BitVec 4) (s : State) : Host.Outcome State Fault Refusal :=
  inWord s fun e => .ok (e.sendRows g (e.eff g) l none ((lanesOf (e.act g)).map (fun i =>
    ⟨i, [⟨i, e.acc d.toNat, List.replicate 128 0⟩], [(i, d.toNat, exaEmpty)], 0, false⟩)) .acc s)

/-! ### MQUANT (R297) -/

/-- The FP32 elements of an accumulator register. -/
def Lane.fp32s (l : Lane) (off n : Nat) : List Nat := (List.range n).map (fun c => l.nat (off + 4 * c) 4)

/-- The format of an MQUANT code. -/
def mquantFmt (f : Nat) : Fmt :=
  match f with
  | 1 => fp16
  | 2 => bf16
  | 3 => e4m3
  | 4 => e5m2
  | 5 => e2m1
  | 9 => e4m3
  | _ => e5m2

/-- Cut a list into blocks of eight. -/
def blocks8 : Nat → List α → List (List α)
  | 0, _ => []
  | n + 1, l => if l.isEmpty then [] else l.take 8 :: blocks8 n (l.drop 8)

/-- A line quantised in blocks of eight: scale bytes, element patterns, flags, signalling NaN; `i` is the index of its first element. -/
def quantLine (f : Fmt) (band : Nat) (sr : Nat → Option (Nat × Nat)) (i : Nat) (xs : List FVal) : List Nat × List Nat × BitVec 7 × Bool :=
  let bs := blocks8 xs.length xs
  let qs := (bs.zip (List.range bs.length)).map (fun b => quantBlock f band (fun k => sr (i + 8 * b.2 + k)) b.1)
  (qs.map (fun q => q.1), qs.flatMap (fun q => q.2.1), qs.foldl (fun m q => m ||| q.2.2.1) 0, qs.any (fun q => q.2.2.2))

/-- Bytes padded with zeros to a length. -/
def padTo (n : Nat) (bs : List (BitVec 8)) : List (BitVec 8) := bs ++ List.replicate (n - bs.length) 0

/-- The fragment's bytes of element patterns. -/
def fragOf (f : Fmt) (es : List Nat) : List (BitVec 8) := padTo 64 (leBytes (f.width * es.length / 8) (packElems f.width es))

/-- MQUANT to an unscaled format in one lane. -/
def Env.mquantPlain (e : Env) (f : Fmt) (d a i : Nat) : RowOut :=
  let es := (((e.g.lane i).fp32s a 32).zip (List.range 32)).map (fun x => f.convert (e.satRounding (32 * i + x.2)) (fp32.value x.1))
  ⟨i, [⟨i, d, fragOf f (es.map (·.bits))⟩], [], es.foldl (fun m r => m ||| r.flags) 0, es.any (fun r => r.sn)⟩

/-- MQUANT to a scaled format in one lane. -/
def Env.mquantScaled (e : Env) (f : Fmt) (band d d1 a i : Nat) : RowOut :=
  let (sc, es, fl, sn) := quantLine f band e.srAt (32 * i) (((e.g.lane i).fp32s a 32).map fp32.value)
  ⟨i, [⟨i, d, fragOf f es⟩, ⟨i, d1, padTo 64 (padTo 32 (sc.map (fun b => BitVec.ofNat 8 b)) ++ leBytes 2 band)⟩], [], fl, sn⟩

def execMquant (g : BitVec 3) (d : BitVec 4) (a : BitVec 3) (l f : BitVec 4) (s : State) : Host.Outcome State Fault Refusal :=
  inWord s fun e =>
    let lanes := lanesOf (e.act g)
    let src := e.acc a.toNat
    let fm := mquantFmt f.toNat
    if 3 ≤ f.toNat && f.toNat ≤ 5 then
      if 14 < d.toNat then .error .operand else
      let band := bandScale fm (lanes.flatMap (fun i => ((e.g.lane i).fp32s src 32).map fp32.value))
      let now : Delivered := ⟨[(band : Int)]⟩
      let rows := lanes.map (e.mquantScaled fm band (e.t d.toNat) (e.t (d.toNat + 1)) src)
      match e.iss.delivered with
      | some k => if k != now then .error .operand else .ok (e.sendRows g (e.eff g) l (some now) rows .acc s)
      | none => .ok (e.sendRows g (e.eff g) l (some now) rows .acc s)
    else .ok (e.sendRows g (e.eff g) l none (lanes.map (e.mquantPlain fm (e.t d.toNat) src)) .acc s)

/-- MACC_MZERO_MQUANT_COMPLETE (R292, R293, R297). -/
def execMaccMzeroMquantComplete (id : Nat) (s : State) : Host.Outcome State Fault Refusal :=
  match s.live? id with
  | none => .next s
  | some r =>
    match r.job with
    | .acc ws es fs => .next (s.deliverRows r ws es fs)
    | _ => .next s

end Sys2Proof.Machine
end

