-- ==== Sys2Proof/Machine/MatrixMemory.lean ====
section
/-! DEFINITION. MLD and MDRAIN, OP 0x65 and 0x66 (15, R294–R296), and the completion of their requests. -/

namespace Sys2Proof.Machine

/-- The die of a group's core, for which an engine reads. -/
def State.dieOfGroup (s : State) (gid : Nat) : Nat := dieOf (((s.group? gid).map (fun g => g.core)).getD 0)

/-! ### Tile descriptors (Table 15-11) -/

/-- The fields of a tile descriptor. -/
structure TileDesc where
  base : Nat
  pitch : Nat
  m : Nat
  n : Nat
  scales : Nat
  band : Nat
  tbase : Nat
  tpitch : Nat
  zero : Nat
  tscales : Nat
  tband : Nat
  deriving DecidableEq, Repr

def tileDescOf (bs : List (BitVec 8)) : TileDesc :=
  let f := fun (o n : Nat) => leNat ((bs.drop o).take n)
  ⟨f 0 8, f 8 4, f 0xC 2, f 0xE 2, f 0x10 8, f 0x18 8, f 0x20 8, f 0x28 4, f 0x2C 4, f 0x30 8, f 0x38 8⟩

/-- The bits of an element in memory, by format code (Table 15-12). -/
def codeWidth (code : Nat) : Nat :=
  match code with
  | 0 => 32
  | 1 => 16
  | 2 => 16
  | 3 => 8
  | 4 => 8
  | 5 => 4
  | 6 => 32
  | _ => 64

/-- The bytes of a row of n elements of w bits. -/
def rowSpan (w n : Nat) : Nat := (w * n + 7) / 8

/-- The checks of R294; the accumulator registers stay within a7, and every row has its lane. -/
def TileDesc.legal (d : TileDesc) (code acc : Nat) (tq : Bool) (on : BitVec 32) : Bool :=
  let w := codeWidth code
  (w < 8 || d.base % (w / 8) == 0) && d.pitch % 16 == 0 && 1 ≤ d.m && d.m ≤ 32 && 1 ≤ d.n && d.n ≤ 32 && rowSpan w d.n ≤ d.pitch &&
  (!tq || (d.tpitch % 16 == 0 && rowSpan w d.m ≤ d.tpitch && d.zero == 0)) &&
  (code != 7 || acc + (d.n - 1) / 8 ≤ 7) && (List.range d.m).all (fun i => on.getLsbD i)

/-- The stamps of a range of global memory, line by line (07, R131); bytes without a translation have none. -/
def State.rangeTouches (s : State) (e : Env) (lane va n : Nat) : List Touch :=
  (List.range ((n + 127) / 128 + 1)).flatMap (fun k =>
    let lo := max va (va / 128 * 128 + 128 * k)
    let hi := min (va + n) (va / 128 * 128 + 128 * k + 128)
    if lo < hi then s.stampAt e lane lo (hi - lo) else [])

/-- The descriptor that a uniform address pair names, read through class M at the word (R294): its first n bytes. The error is the fault, with the state
in which the word takes it. -/
def Env.readTile (e : Env) (va n : Nat) (s : State) : Except (State × Halt) (State × TileDesc) :=
  if va % 64 != 0 then .error (s, .protection 0 va) else
  match s.engineAccess (some .matrixEngine) e.g.ctx va .read with
  | .error t => .error (t, .protection 0 va)
  | .ok (t, l) =>
    if isRemote (l.pa va) then .error (t, .protection 0 va) else
    match e.stamp t false none none [⟨0, l.pa va, n⟩] with
    | .error h => .error (t, h)
    | .ok t => .ok (t, tileDescOf (t.mem.read (l.pa va) n))

/-! ### MLD (R295) -/

/-- MLD: the request is checked at the word. A word whose lanes may trap holds its slot until it completes, so that its traps are precise. With its guard
false in every lane it does nothing, and opens no window, which is the model's choice (log 50). -/
def execMld (g : BitVec 3) (d : BitVec 3) (a : BitVec 7) (l f : BitVec 4) (s : State) : Host.Outcome State Fault Refusal :=
  inWord s fun e =>
    match e.whole g, e.uniform g (fun x => x.dword (e.v a)) with
    | .error h, _ => .error h
    | .ok false, _ => .ok (e.retire s)
    | .ok true, .error h => .error h
    | .ok true, .ok none => .ok (e.retire s)
    | .ok true, .ok (some va) =>
      match e.readTile va.toNat 16 s with
      | .error (s, h) => .ok (e.takeFault h s)
      | .ok (s, t) =>
        if !t.legal f.toNat d.toNat false e.g.lanesOn then .error .operand else
        let touched := (List.range t.m).flatMap (fun r => s.rangeTouches e r (t.base + r * t.pitch) (rowSpan (codeWidth f.toNat) t.n))
        match e.stamp s false none none touched with
        | .error h => .error h
        | .ok s =>
          let job : Job := .mld va.toNat t.base t.pitch t.m t.n f.toNat d.toNat (e.act g) e.groupEff []
          .ok (if e.g.ftrap = 0 then e.launchLong l job s else e.await (.request s.fresh) (e.openWindow l.toNat job s))

/-- FP64 values added one after another to the slots of an EXA128 row, with the flags raised; the first that is not finite ends the adds (13, R245). -/
def exaLoad : ExaRow → List (Nat × FVal) → ExaRow × BitVec 7
  | r, [] => (r, 0)
  | r, (j, v) :: vs =>
    if r.x == exaNonfin then (r, 0) else
    match v.dyadic with
    | none => ({ r with x := exaNonfin }, flagXL)
    | some t =>
      let (r, lost) := r.add j t.1 t.2
      let (q, fl) := exaLoad r vs
      (q, lossFlags lost ||| fl)

/-- One row that MLD writes, from its bytes: the row, and the register bytes that poison marks. -/
def mldRow (code acc off i : Nat) (n : Nat) (bs : List (BitVec 8 × Bool)) : RowOut × List (Nat × Nat × Nat) :=
  let w := codeWidth code / 8
  let elem := fun (c : Nat) => leNat (((bs.drop (w * c)).take w).map (fun b => b.1))
  let bad := fun (c : Nat) => ((bs.drop (w * c)).take w).any (fun b => b.2)
  let cs := List.range n
  if code == 7 then
    let vals := cs.map (fun c => (c, fp64.value (elem c)))
    let segs := (List.range ((n + 7) / 8)).map (fun g =>
      let mine := vals.filter (fun v => v.1 / 8 == g)
      (g, exaLoad ⟨exaEmpty, List.replicate 8 0⟩ (mine.map (fun v => (v.1 % 8, v.2)))))
    let sn := vals.any (fun v => v.2.isSnan)
    (⟨i, segs.map (fun g => ⟨i, off + 128 * g.1, g.2.1.slotBytes⟩), segs.map (fun g => (i, acc + g.1, g.2.1.x)),
      segs.foldl (fun m g => m ||| g.2.2) (if sn then flagNV else 0), sn⟩,
     (cs.filter bad).map (fun c => (i, off + 16 * c, 16)))
  else
    let rs := cs.map (fun c =>
      let x := elem c
      if code == 1 || code == 2 then fp32.convert (.plain .rne) ((if code == 1 then fp16 else bf16).value x) else (⟨x, 0, false⟩ : FRes))
    (⟨i, [⟨i, off, rs.flatMap (fun r => leBytes 4 r.bits)⟩], [], rs.foldl (fun m r => m ||| r.flags) 0, rs.any (fun r => r.sn)⟩,
     (cs.filter bad).map (fun c => (i, off + 4 * c, 4)))

/-- Mark register words as poisoned by an engine (R295; 10, R193). -/
def Lane.taint (l : Lane) (off n : Nat) : Lane := { l with poison := l.poison ||| coveredWords off n }

/-- Rows of an MLD from row `lo` on, read through class M after those in `got`. The error is the state and the address of a fault. -/
def State.mldRows (s : State) (die ctx base pitch span lo n : Nat) (got : List (List (BitVec 8 × Bool))) :
    Except (State × Nat) (State × List (List (BitVec 8 × Bool))) :=
  foldE (fun (k : State × List (List (BitVec 8 × Bool))) r =>
    match k.1.engineRange .matrixEngine die ctx (base + r * pitch) span .read with
    | .error a => .error a
    | .ok (s, pas) => .ok (s, k.2 ++ [s.homeRead pas])) (s, got) ((List.range n).map (fun r => lo + r))

/-- The matrix engine gets on with an MLD by some rows. A part that faults reads nothing, and the fault is left to the end. -/
def State.mldPart (s : State) (r : Request) (n : Nat) : State :=
  match r.job with
  | .mld desc base pitch m cols code acc act lanes got =>
    (match s.mldRows (s.dieOfGroup r.gid) r.ctx base pitch (rowSpan (codeWidth code) cols) got.length (min n (m - got.length)) got with
    | .error _ => s
    | .ok (t, got) => t.setJob r.id (.mld desc base pitch m cols code acc act lanes got))
  | _ => s

/-- MLD_COMPLETE (R295). -/
def execMldComplete (id : Nat) (s : State) : Host.Outcome State Fault Refusal :=
  match s.live? id with
  | none => .next s
  | some r =>
    match r.job, s.reqEnv r with
    | .mld _ base pitch m n code acc act lanes got, some e0 =>
      let held := e0.g.places.any (fun x => x.wait == some (.request id))
      let grp : Group := { e0.g with ftrap := if held then e0.g.ftrap else 0 }
      let iss : Issue := { e0.iss with redo := true, act := act, eff := lanes }
      let e : Env := { e0 with g := grp, iss := iss }
      (match s.mldRows (s.dieOfGroup r.gid) r.ctx base pitch (rowSpan (codeWidth code) n) got.length (m - got.length) got with
      | .error (s, a) => .next (s.engineFault r 0x06 a)
      | .ok (s, got) =>
        let rows := (got.zip (List.range m)).map (fun x => mldRow code acc (e.acc acc) x.2 n x.1)
        let rs := rows.map (fun x => x.1)
        let done := e.rowsDone lanes rs
        let marks := (rows.filter (fun x => done.any (fun d => d.lane == x.1.lane))).flatMap (fun x => x.2)
        let s := s.deliverRows r (done.flatMap (fun d => d.writes)) (done.flatMap (fun d => d.exps)) (done.map (fun d => (d.lane, d.flags)))
        let s := s.updGroup r.gid (fun g => marks.foldl (fun g x => g.updLane x.1 (fun l => l.taint x.2.1 x.2.2)) g)
        .next (e.trapAt id (e.rowTraps lanes rs) (fun s => s.wake r) s))
    | _, _ => .next s

/-! ### MDRAIN (R296) -/

/-- A tile as MDRAIN drains it: the rows' lanes with their flags, and what they write. -/
structure Drained where
  rows : List RowOut
  writes : List (BitVec 32 × RowBytes)
  deriving DecidableEq, Repr

/-- Bytes with one poison mark. -/
def marked (p : Bool) (bs : List (BitVec 8)) : List (BitVec 8 × Bool) := bs.map (fun b => (b, p))

/-- A row drained to an unscaled format. -/
def Env.drainPlain (e : Env) (t : TileDesc) (code acc : Nat) (r : Nat) : RowOut × RowBytes :=
  let l := e.g.lane r
  let off := e.acc acc
  let es := (List.range t.n).map (fun c =>
    let k := e.satRounding (r * t.n + c)
    let src := l.nat (off + 4 * c) 4
    if code == 7 then
      let (b, fl) := exaRound fp64 k (l.rowExp.getD (acc + c / 8) exaEmpty) (slotInt (l.bytes (off + 16 * c) 16))
      ((⟨b, fl, false⟩ : FRes), l.poisoned (off + 16 * c) 16)
    else if code == 6 then (⟨src, 0, false⟩, l.poisoned (off + 4 * c) 4)
    else ((if code == 0 then fp32 else if code == 1 then fp16 else bf16).convert k (fp32.value src), l.poisoned (off + 4 * c) 4))
  (⟨r, [], [], es.foldl (fun m x => m ||| x.1.flags) 0, es.any (fun x => x.1.sn)⟩,
   ⟨t.base + r * t.pitch, es.flatMap (fun x => marked x.2 (leBytes (codeWidth code / 8) x.1.bits))⟩)

/-- A tile drained to an unscaled format. -/
def Env.drainTile (e : Env) (t : TileDesc) (code acc : Nat) : Drained :=
  let rs := (List.range t.m).map (e.drainPlain t code acc)
  ⟨rs.map (fun r => r.1), rs.map (fun r => (1#32 <<< r.1.lane, r.2))⟩

/-- The FP32 values of a tile, row by row. -/
def Env.tileValues (e : Env) (t : TileDesc) (acc : Nat) : List (List FVal) :=
  (List.range t.m).map (fun r => ((e.g.lane r).fp32s (e.acc acc) t.n).map fp32.value)

/-- Lines of a tile quantised: for each line its scales, and its elements with their flags (R237). -/
def quantLines (f : Fmt) (band : Nat) (sr : Nat → Option (Nat × Nat)) (first : Nat) (ls : List (List FVal)) : List (List Nat × List (Nat × BitVec 7)) :=
  (ls.zip (List.range ls.length)).map (fun x =>
    let i := first + x.2 * x.1.length
    let bs := blocks8 x.1.length x.1
    let qs := (bs.zip (List.range bs.length)).map (fun b =>
      let sc := quantScale f band b.1
      (sc, quantElems f band sc (fun k => sr (i + 8 * b.2 + k)) b.1))
    (qs.map (fun q => q.1), qs.flatMap (fun q => q.2)))

/-- The transpose of a tile of n columns. -/
def transposed (n : Nat) (d : α) (rows : List (List α)) : List (List α) := (List.range n).map (fun c => rows.map (fun r => r.getD c d))

/-- The bytes of a line's elements: whole blocks of 8, in which the missing elements of a short last block are 0x0 (R236). -/
def lineBytes (f : Fmt) (es : List (Nat × BitVec 7)) : List (BitVec 8) := leBytes ((es.length + 7) / 8 * f.width) (packElems f.width (es.map (fun e => e.1)))

/-- The lanes of a transposed line's block `b`. -/
def blockLanes (m b : Nat) : BitVec 32 := maskOf ((List.range m).filter (fun r => r / 8 == b))
/-- The lanes of the elements in byte `b` of a transposed line; a byte of missing elements only goes with its block, which takes `w` bytes. -/
def byteLanes (w m b : Nat) : BitVec 32 :=
  let own := maskOf ((List.range m).filter (fun r => w * r / 8 == b))
  if own = 0 then blockLanes m (b / w) else own

/-- The writes of the transposed copy, byte by byte, each with the lanes whose elements it holds. -/
def transposedWrites (f : Fmt) (t : TileDesc) (p : Bool) (cols : List (List Nat × List (Nat × BitVec 7))) : List (BitVec 32 × RowBytes) :=
  (cols.zip (List.range cols.length)).flatMap (fun x =>
    let bs := lineBytes f x.1.2
    let nb := (t.m + 7) / 8
    (bs.zip (List.range bs.length)).map (fun b => (byteLanes f.width t.m b.2, (⟨t.tbase + x.2 * t.tpitch + b.2, [(b.1, p)]⟩ : RowBytes))) ++
    (x.1.1.zip (List.range nb)).map (fun b => (blockLanes t.m b.2, (⟨t.tscales + x.2 * nb + b.2, [(BitVec.ofNat 8 b.1, p)]⟩ : RowBytes))))

/-- A tile quantised (R296, codes 3 to 5): the M rows are one band; with `.tq` the transpose is quantised separately. A lane's result then depends on the
other lanes of its transposed blocks too, whose signalling NaNs make its elements 0x0 (R238, R242). -/
def Env.drainScaled (e : Env) (t : TileDesc) (code acc : Nat) (tq : Bool) : Drained × Nat :=
  let f := if code == 3 then e4m3 else if code == 4 then e5m2 else e2m1
  let rows := e.tileValues t acc
  let p := (List.range t.m).any (fun r => (e.g.lane r).poisoned (e.acc acc) (4 * t.n))
  let band := bandScale f rows.flatten
  let q := quantLines f band e.srAt 0 rows
  let cols := if tq then quantLines f band e.srAt (t.m * t.n) (transposed t.n (.num false 0 1) rows) else []
  let nb := (t.n + 7) / 8
  let snan := rows.map (fun r => r.any FVal.isSnan)
  let outs := (q.zip (List.range t.m)).map (fun x =>
    let own := x.1.2.foldl (fun m y => m ||| y.2) (0 : BitVec 7)
    (⟨x.2, [], [], cols.foldl (fun m c => m ||| (c.2.getD x.2 (0, 0)).2) own,
      snan.getD x.2 false || (tq && ((snan.drop (x.2 / 8 * 8)).take 8).any id)⟩ : RowOut))
  let writes := (q.zip (List.range t.m)).flatMap (fun x =>
    [(1#32 <<< x.2, (⟨t.base + x.2 * t.pitch, marked p (lineBytes f x.1.2)⟩ : RowBytes)),
     (1#32 <<< x.2, ⟨t.scales + x.2 * nb, marked p (x.1.1.map (fun b => BitVec.ofNat 8 b))⟩)])
  let bands := if e.iss.redo then [] else
    (BitVec.allOnes 32, (⟨t.band, marked p (leBytes 2 band)⟩ : RowBytes)) :: (if tq then [(BitVec.allOnes 32, ⟨t.tband, marked p (leBytes 2 band)⟩)] else [])
  (⟨outs, writes ++ bands ++ transposedWrites f t p cols⟩, band)

/-- The bytes that MDRAIN lands for the lanes it completes. -/
def Drained.landed (d : Drained) (done : List RowOut) : List RowBytes :=
  let lanes := maskOf (done.map (fun r => r.lane))
  (d.writes.filter (fun w => w.1 == BitVec.allOnes 32 || w.1 &&& lanes != 0)).map (fun w => w.2)

/-- MDRAIN goes on: traps at the word, the writes of the lanes that complete as a request. -/
def Env.sendDrain (e : Env) (g : BitVec 3) (desc elems : Nat) (d : Drained) (delivered : Option Delivered) (s : State) : Except Halt State :=
  let done := e.rowsDone e.groupEff d.rows
  let ws := d.landed done
  match e.stamp s true none none (ws.flatMap (fun w => s.rangeTouches e 0 w.va w.bytes.length)) with
  | .error h => .error h
  | .ok s =>
    let s := s.updGroup e.g.gid (fun x => x.raiseFlags (done.map (fun r => (r.lane, r.flags))))
    .ok (e.trapOr (e.rowTraps e.groupEff d.rows) g delivered e.retire (e.submit (.mdrain desc elems ws 0) s))

def execMdrain (g : BitVec 3) (d : BitVec 3) (a : BitVec 7) (f : BitVec 3) (q : BitVec 1) (s : State) : Host.Outcome State Fault Refusal :=
  inWord s fun e =>
    match e.whole g, e.uniform g (fun x => x.dword (e.v a)) with
    | .error h, _ => .error h
    | .ok false, _ => .ok (e.retire s)
    | .ok true, .error h => .error h
    | .ok true, .ok none => .ok (e.retire s)
    | .ok true, .ok (some va) =>
      match e.readTile va.toNat 64 s with
      | .error (s, h) => .ok (e.takeFault h s)
      | .ok (s, t) =>
        let code := f.toNat
        let scaled := 3 ≤ code && code ≤ 5
        if !t.legal code d.toNat (q == 1) e.g.lanesOn || (q == 1 && !scaled) then .error .operand
        else if !scaled then e.sendDrain g va.toNat (t.m * t.n) (e.drainTile t code d.toNat) none s
        else
          let (w, band) := e.drainScaled t code d.toNat (q == 1)
          let now : Delivered := ⟨[(band : Int)]⟩
          match e.iss.delivered with
          | some k => if k != now then .error .operand else e.sendDrain g va.toNat (t.m * t.n) w (some now) s
          | none => e.sendDrain g va.toNat (t.m * t.n) w (some now) s

/-- Rows of an MDRAIN land, and may be captured (04, R46). The error is the state and the address of a fault. -/
def State.landRows (s : State) (r : Request) (ws : List RowBytes) : Except (State × Nat) State :=
  foldE (fun (s : State) (w : RowBytes) =>
    match s.engineRange .matrixEngine (s.dieOfGroup r.gid) r.ctx w.va w.bytes.length .write with
    | .error a => .error a
    | .ok (s, pas) => .ok (s.engineLand r.ctx pas w.bytes)) s ws

/-- The matrix engine gets on with an MDRAIN by some rows. A part that faults lands nothing, and the fault is left to the end. -/
def State.drainPart (s : State) (r : Request) (n : Nat) : State :=
  match r.job with
  | .mdrain desc elems ws landed =>
    (match s.landRows r (ws.take n) with
    | .error _ => s
    | .ok t => t.setJob r.id (.mdrain desc elems (ws.drop n) (landed + min n ws.length)))
  | _ => s

/-- MDRAIN_WRITE_COMPLETE (R296): the bytes that are still to land do. -/
def execMdrainWriteComplete (id : Nat) (s : State) : Host.Outcome State Fault Refusal :=
  match s.live? id with
  | none => .next s
  | some r =>
    match r.job with
    | .mdrain _ _ ws _ => .next (match s.landRows r ws with
        | .error a => (s.missed a.1).engineFault r 0x06 a.2
        | .ok s => s.dropRequest id)
    | _ => .next s

end Sys2Proof.Machine
end

