-- ==== Sys2Proof/Machine/MatrixJoint.lean ====
section
/-! DEFINITION. Joint matrix operations: MMAJ and MWAIT, OP 0x61 and 0x62 (15, R286–R291), the start and the completion of an instance. -/

namespace Sys2Proof.Machine

/-! ### Joint descriptors (Table 15-9) -/

structure JointDesc where
  layA : Nat
  layB : Nat
  ta : Nat
  tb : Nat
  tc : Nat
  w : Int
  m : Nat
  n : Nat
  k : Nat
  zero : Nat
  scale : Nat
  deriving DecidableEq, Repr

def jointDescOf (bs : List (BitVec 8)) : JointDesc :=
  let f := fun (o n : Nat) => leNat ((bs.drop o).take n)
  ⟨f 0 8, f 8 8, f 0x10 1, f 0x11 1, f 0x12 1, toSigned 8 (f 0x13 1), f 0x14 2, f 0x16 2, f 0x18 2, f 0x1A 2, f 0x1C 4⟩

/-- The bytes of the scale area. -/
def JointDesc.scaleBytes (d : JointDesc) : Nat :=
  let b := (d.m + d.n) * ((d.k + 7) / 8)
  if isScaled d.ta then b + b % 2 + 2 * ((d.m + 63) / 64 + (d.n + 63) / 64)
  else if d.tc == 9 then 2 * (d.m + d.n)
  else 0

/-- One operand's tile: its effective ORD, its stored rows and columns, and whether its layout is legal in an allocation of `size` bytes
(R286, R287). `rows` and `cols` are those of the operand; `alongRows` says that K runs along them. -/
def tileLegal (lay : Nat) (t rows cols : Nat) (tr needOrd : Bool) (scaled : Bool) (size : Nat) : Bool :=
  match layoutOf lay with
  | none => false
  | some l =>
    let ord := l.ord != tr
    let (sr, sc) := if ord then (cols, rows) else (rows, cols)
    let span := rowSpan (mmaWidth t) sc
    l.ew == (if mmaWidth t == 4 then 0 else if mmaWidth t == 8 then 1 else if mmaWidth t == 16 then 2 else 3) &&
    (!ord || (l.base % 128 == 0 && l.pitch % 128 == 0 && span % 128 == 0)) &&
    (!scaled || ord == needOrd) &&
    (List.range sr).all (fun r => (List.range ((span + 15) / 16)).all (fun u =>
      l.at_ r (16 * u) + min 16 (span - 16 * u) ≤ size))

/-- The checks of Tables 15-9 and 15-5 and of R287. -/
def JointDesc.legal (d : JointDesc) (f : BitVec 4) (size : Nat) : Bool :=
  kmaxOf d.ta d.tb d.tc != 0 && 1 ≤ d.m && d.m ≤ 256 && 1 ≤ d.n && d.n ≤ 256 && 1 ≤ d.k && d.k ≤ 256 && d.zero == 0 &&
  (d.tc == 9 || d.w == 0) &&
  (if isScaled d.ta || d.tc == 9 then bits d.scale 20 12 == 0 && bits d.scale 0 20 + d.scaleBytes ≤ size else d.scale == 0) &&
  tileLegal d.layA d.ta d.m d.k (f.getLsbD 3) false (isScaled d.ta) size &&
  tileLegal d.layB d.tb d.k d.n (f.getLsbD 2) true (isScaled d.tb) size

/-- The blocks of a result (R289). -/
def JointDesc.blocksAcross (d : JointDesc) : Nat := (d.n + 31) / 32
def JointDesc.blockCount (d : JointDesc) : Nat := (d.m + 31) / 32 * d.blocksAcross

/-- The number of accumulator registers that the member of rank `r` of `n` holds from its base on. -/
def JointDesc.registers (d : JointDesc) (r n : Nat) : Nat :=
  ((List.range d.blockCount).filter (fun b => b % n == r)).foldl (fun m b =>
    let cols := min 32 (d.n - 32 * (b % d.blocksAcross))
    max m (if d.tc == 9 then 4 * (b / n) + (cols - 1) / 8 + 1 else b / n + 1)) 0

/-- The rank of a group within a membership mask, and the number of members. -/
def rankIn (mask : BitVec 8) (grp : Nat) : Nat := ((List.range 8).filter (fun i => mask.getLsbD i && i < grp)).length
def membersOf (mask : BitVec 8) : List Nat := (List.range 8).filter (fun i => mask.getLsbD i)

/-- Whether every member has issued its part. -/
def Joint.full (j : Joint) : Bool := j.members.length == (membersOf j.mask).length

/-- Whether a joint matrix instance of a cluster waits for the parts of some of its members, which those go on to issue (06, R104). -/
def State.jointOpen (s : State) (ctx launch clu : Nat) : Bool :=
  s.joints.any (fun j => !j.full && (match s.wg? j.wid with
    | some w => w.ctx == ctx && w.launch == launch && w.clu == clu
    | none => false))

/-- The lanes that a result needs: one for each row of its tallest block. -/
def JointDesc.lanesOk (d : JointDesc) (on : BitVec 32) : Bool := (List.range (min 32 d.m)).all (fun i => on.getLsbD i)

/-! ### MMAJ -/

/-- MMAJ's operands: the LS address word of the descriptor, the mask, the reserved bits. -/
def mmajOperands (v : Nat) : Nat × BitVec 8 × Nat := (bits v 0 32, BitVec.ofNat 8 (bits v 32 8), bits v 40 24)

/-- The group of a workgroup with a number. -/
def State.peer (s : State) (g : Group) (grp : Nat) : Option Group :=
  s.groups.find? (fun x => x.ctx == g.ctx && x.launch == g.launch && x.clu == g.clu && x.wgc == g.wgc && x.grp == grp && !x.isHandler)

/-- Whether an instance concerns a member with a mask: it names the member, or it has a member that the mask names. -/
def Joint.concerns (j : Joint) (s : State) (wid k : Nat) (grp : Nat) (mask : BitVec 8) : Bool :=
  j.wid == wid && j.k == k && (j.mask.getLsbD grp || j.members.any (fun m => match s.group? m.gid with
    | some g => mask.getLsbD g.grp
    | none => false))

/-- The checks of R288 on a member's MMAJ. -/
def Env.memberOk (e : Env) (s : State) (wid k : Nat) (mask : BitVec 8) (desc : Nat) (f : BitVec 4) : Bool :=
  let n := (membersOf mask).length
  2 ≤ n && mask.getLsbD e.g.grp && e.g.grp < 8 &&
  (membersOf mask).all (fun i => match s.peer e.g i with
    | some p => p.joints < k || s.joints.any (fun j => j.wid == wid && j.k == k && j.mask == mask && j.members.any (fun m => m.gid == p.gid))
    | none => false) &&
  s.joints.all (fun j => !j.concerns s wid k e.g.grp mask ||
    (j.mask == mask && j.members.all (fun m => m.desc == desc && m.flags == f)))

/-- The window of an MMAJ: its accumulator bytes are pending until its MWAIT (03, R39; 15, R290). That its operand pair, which it reads at issue, is not is
the model's choice: 03, R38 counts the bytes that a word reads, and R39 and R290 name the accumulator bytes only (log 50). -/
def Env.openJoint (e : Env) (span : RegSpan) (job : Job) (s : State) : State :=
  let w : Window := ⟨s.fresh, e.iss.slotB, 0, [span], [span], true, false⟩
  e.submit job (s.updGroup e.g.gid (fun g => { g with windows := g.windows ++ [w], joints := g.joints + 1 }))

/-- The bytes of the descriptor, as class T reads them for a group's MMAJ (R288, R290). -/
def State.jointBytes (s : State) (w : Workgroup) (g : Group) (off : Nat) : List (BitVec 8) := leBytes 32 ((s.lsView w g).element s off 32)

/-- A member joins its instance; the last one fixes the Local Store that the instance may read (R290). -/
def State.joinJoint (s : State) (wid k : Nat) (mask : BitVec 8) (m : JointMember) (v : LsView) (desc : List (BitVec 8)) : State :=
  let mine := fun (j : Joint) => j.wid == wid && j.k == k && j.mask == mask
  if s.joints.any mine then
    { s with joints := mapWhere mine (fun j => { j with members := j.members ++ [m], ls := v.now, settled := v.late.map (fun t => t.2), desc := desc }) s.joints }
  else { s with joints := s.joints ++ [⟨wid, k, mask, [m], false, false, v.now, v.late.map (fun t => t.2), desc, []⟩] }


/-- The stamps of one operand's tile in the Local Store, in units of 16 bytes (07, R130). -/
def tileTouches (wid lane lay t rows cols : Nat) (tr : Bool) : List Touch :=
  match layoutOf lay with
  | none => []
  | some l =>
    let (sr, sc) := if l.ord != tr then (cols, rows) else (rows, cols)
    let span := rowSpan (mmaWidth t) sc
    (List.range sr).flatMap (fun r => (List.range ((span + 15) / 16)).map (fun u =>
      (⟨lane, lsAddr wid (l.at_ r (16 * u)), min 16 (span - 16 * u)⟩ : Touch)))

/-- What an instance reads from its Local Store: the descriptor, the scale area and the tiles. They are reads of the last member's MMAJ (R288). -/
def JointDesc.touches (d : JointDesc) (wid lane off : Nat) (f : BitVec 4) : List Touch :=
  [(⟨lane, lsAddr wid off, 32⟩ : Touch)] ++
  (if d.scaleBytes == 0 then [] else [(⟨lane, lsAddr wid (bits d.scale 0 20), d.scaleBytes⟩ : Touch)]) ++
  tileTouches wid lane d.layA d.ta d.m d.k (f.getLsbD 3) ++ tileTouches wid lane d.layB d.tb d.k d.n (f.getLsbD 2)

def execMmaj (g : BitVec 3) (b : BitVec 3) (a : BitVec 7) (f : BitVec 4) (s : State) : Host.Outcome State Fault Refusal :=
  inWord s fun e =>
    if e.g.isHandler then .error .illegal else
    match e.whole g, e.uniform g (fun x => x.nat (e.v a) 8), s.wgOf e.g with
    | .error h, _, _ => .error h
    | .ok false, _, _ => .ok (e.retire s)
    | .ok true, .error h, _ => .error h
    | .ok true, .ok none, _ => .ok (e.retire s)
    | .ok true, .ok (some _), none => .ok (e.retire s)
    | .ok true, .ok (some v), some w =>
      let (addr, mask, rest) := mmajOperands v
      let k := e.g.joints + 1
      if rest != 0 || bits addr 24 1 == 1 then .error .operand else
      match e.lsTarget s 0 (BitVec.ofNat 32 addr) 32 with
      | none => .error (.protection 0 addr)
      | some (_, off) =>
        if !e.memberOk s w.wid k mask off f then .error .operand else
        let d := jointDescOf (s.jointBytes w e.g off)
        let rank := rankIn mask e.g.grp
        let n := (membersOf mask).length
        let used := if d.legal f w.lsSize then min (8 - b.toNat) (d.registers rank n) else 0
        let span : RegSpan := ⟨e.acc b.toNat, 128 * used⟩
        let m : JointMember := ⟨e.g.gid, e.iss.slotB, b.toNat, e.act g, off, f, e.iss.pc, e.iss.word, e.hints, e.g.ftrap⟩
        let t := s.joinJoint w.wid k mask m (s.lsView w e.g) (s.jointBytes w e.g off)
        let full := t.joints.any (fun j => j.wid == w.wid && j.k == k && j.mask == mask && j.full)
        let fits := t.joints.all (fun j => !(j.wid == w.wid && j.k == k && j.mask == mask) || j.members.all (fun x => match s.group? x.gid with
          | some y => x.accBase + d.registers (rankIn mask y.grp) n ≤ 8 && d.lanesOk y.lanesOn
          | none => false))
        if full && !(d.legal f w.lsSize && fits) then .error .operand
        else match e.stamp t false none none (if full then d.touches w.wid ((lanesOf (e.act g)).headD 0) off f else []) with
          | .error h => .error h
          | .ok t => .ok (e.retire (e.openJoint span (.mmaj w.wid k) t))

/-! ### The work of an instance -/

/-- The joint instance that a request of a member belongs to. -/
def State.jointOf (s : State) (r : Request) : Option Joint :=
  match r.job with
  | .mmaj wid k => s.joints.find? (fun j => j.wid == wid && j.k == k && j.members.any (fun m => m.gid == r.gid))
  | _ => none

/-- MMAJ_INSTANCE_START (R288): the engine takes up an instance whose every member has issued. -/
def execMmajInstanceStart (id : Nat) (s : State) : Host.Outcome State Fault Refusal :=
  match (s.live? id).bind s.jointOf with
  | none => .next s
  | some j => .next (if j.full && !j.started then { s with joints := mapWhere (fun x => x == j) (fun x => { x with started := true }) s.joints } else s)

/-- The offset and the nibble of element (r, c) of a tile, as stored. -/
def Layout.elem (l : Layout) (t r c : Nat) : Nat × Nat := let w := mmaWidth t; if w == 4 then (l.at_ r (c / 2), c % 2) else (l.at_ r (w / 8 * c), 0)

/-- The pattern of element (row, col) of an operand. -/
def tileElem (s : State) (ls : LsView) (lay : Nat) (t : Nat) (tr : Bool) (row col : Nat) : Nat :=
  match layoutOf lay with
  | none => 0
  | some l =>
    let (r, c) := if l.ord != tr then (col, row) else (row, col)
    let (o, h) := l.elem t r c
    if mmaWidth t == 4 then bits (ls.element s o 1) (4 * h) 4 else ls.element s o (mmaWidth t / 8)

/-- The line of A of a row, and the line of B of a column. -/
def jointA (s : State) (ls : LsView) (d : JointDesc) (f : BitVec 4) (i : Nat) : KLine :=
  let sc := bits d.scale 0 20
  let nb := (d.k + 7) / 8
  let bandBase := sc + (d.m + d.n) * nb + (d.m + d.n) * nb % 2
  kLine d.ta (f.getLsbD 1) ((List.range nb).map (fun b => ls.element s (sc + i * nb + b) 1)) (ls.element s (bandBase + 2 * (i / 64)) 2)
    ((List.range d.k).map (fun q => tileElem s ls d.layA d.ta (f.getLsbD 3) i q))
def jointB (s : State) (ls : LsView) (d : JointDesc) (f : BitVec 4) (j : Nat) : KLine :=
  let sc := bits d.scale 0 20
  let nb := (d.k + 7) / 8
  let bandBase := sc + (d.m + d.n) * nb + (d.m + d.n) * nb % 2 + 2 * ((d.m + 63) / 64)
  kLine d.tb (f.getLsbD 0) ((List.range nb).map (fun b => ls.element s (sc + d.m * nb + j * nb + b) 1)) (ls.element s (bandBase + 2 * (j / 64)) 2)
    ((List.range d.k).map (fun q => tileElem s ls d.layB d.tb (f.getLsbD 2) q j))

/-- The exponents of TC 9: of row i, and of column j. -/
def jointExp (s : State) (ls : LsView) (d : JointDesc) (col : Bool) (i : Nat) : Int :=
  toSigned 16 (ls.element s (bits d.scale 0 20 + 2 * (if col then d.m + i else i)) 2)

/-- The rows of one block in a member (R289). MMAJ takes no HRND, so it rounds to nearest even whatever FRND holds (13, R239; 03, Table 3-4). -/
def jointBlock (s : State) (ls : LsView) (d : JointDesc) (f : BitVec 4) (k : Kernel) (m : JointMember) (g : Group) (n b : Nat) : List RowOut :=
  let q := b / d.blocksAcross
  let p := b % d.blocksAcross
  let reg := m.accBase + (if d.tc == 9 then 4 else 1) * (b / n)
  let cols := (List.range (min 32 (d.n - 32 * p))).map (fun j => 32 * p + j)
  let bs := cols.map (jointB s ls d f)
  (List.range (min 32 (d.m - 32 * q))).map (fun i =>
    rowProduct (.plain .rne) d.tc i reg (k.vwa + 128 * reg) (g.lane i) (jointA s ls d f (32 * q + i)) bs
      (fun j => jointExp s ls d false (32 * q + i) + jointExp s ls d true (32 * p + j) + d.w))

/-- The Local Store bytes that an instance reads hold poison (10, R193). -/
def Workgroup.jointPoison (w : Workgroup) (d : JointDesc) (f : BitVec 4) : Bool :=
  let tile := fun (lay t rows cols : Nat) (tr : Bool) => match layoutOf lay with
    | none => false
    | some l =>
      let (sr, sc) := if l.ord != tr then (cols, rows) else (rows, cols)
      (List.range sr).any (fun r => (List.range ((rowSpan (mmaWidth t) sc + 15) / 16)).any (fun u => w.lsPoisoned (l.at_ r (16 * u)) 16))
  !w.lsPoison.isEmpty && (w.lsPoisoned (bits d.scale 0 20) d.scaleBytes || tile d.layA d.ta d.m d.k (f.getLsbD 3) || tile d.layB d.tb d.k d.n (f.getLsbD 2))

/-- One member's result: rows of lanes that do not trap are delivered; what each row raises waits for the MWAIT. A lane traps if any of its
rows does. -/
def State.jointMember (s : State) (k : Kernel) (d : JointDesc) (ls : LsView) (mask : BitVec 8) (m : JointMember) : State × List JointRow :=
  match s.group? m.gid with
  | none => (s, [])
  | some g =>
    let n := (membersOf mask).length
    let blocks := (List.range d.blockCount).filter (fun b => b % n == rankIn mask g.grp)
    let rows := blocks.flatMap (jointBlock s ls d m.flags k m g n)
    let all := rows.map (fun r =>
      (r, (⟨g.gid, r.lane, r.flags, if g.isHelper r.lane || !g.live.getLsbD r.lane then none else trapCause m.traps r.sn r.flags,
        r.writes.map (fun w => ⟨w.off, w.bytes.length⟩)⟩ : JointRow)))
    let done := all.filter (fun x => !(all.any (fun y => y.2.lane == x.2.lane && y.2.cause.isSome)))
    (s.updGroup g.gid (fun g => (g.writes (done.flatMap (fun x => x.1.writes))).setExps (done.flatMap (fun x => x.1.exps))), all.map (fun x => x.2))

/-! ### MWAIT (R291) -/

/-- Whether a group has MMAJ requests outstanding. -/
def State.jointBusy (s : State) (gid : Nat) : Bool :=
  s.requests.any (fun r => r.gid == gid && (match r.job with
    | .mmaj .. => true
    | _ => false))

/-- The complete instances whose result a group has yet to take. -/
def State.jointsOf (s : State) (gid : Nat) : List Joint := s.joints.filter (fun j => j.complete && j.members.any (fun m => m.gid == gid))

/-- What an instance raises in one lane of a group: its flags, and the first cause. -/
def Joint.raises (j : Joint) (gid lane : Nat) : BitVec 7 × Option Nat :=
  let rows := j.rows.filter (fun r => r.gid == gid && r.lane == lane)
  (rows.foldl (fun m r => m ||| r.flags) 0, (rows.filterMap (fun r => r.cause)).foldl (fun m c => match m with
    | none => some c
    | some x => some (min x c)) none)

/-- The traps of a group's lanes at its MWAIT, each of the first instance that traps in the lane. What ERET.c completes is every row of the lane that an
instance which traps there writes, since the lane receives none of them (17, R313). -/
def State.jointTraps (s : State) (gid : Nat) : List LaneTrap :=
  allLanes.filterMap (fun i => ((s.jointsOf gid).findSome? (fun j => match j.raises gid i with
    | (fl, some c) => some (⟨i, c, 0, fl, (s.jointsOf gid).flatMap (fun j =>
        if (j.raises gid i).2.isNone then [] else (j.rows.filter (fun r => r.gid == gid && r.lane == i)).flatMap (fun r => r.dest))⟩ : LaneTrap)
    | _ => none)))

/-- A group has taken an instance's result; the instance goes with its last member. `trapped` keeps those whose lanes are still to be served. -/
def State.leaveJoints (s : State) (gid : Nat) (trapped : Bool) : State :=
  let out := fun (j : Joint) =>
    if !j.complete || (trapped && j.rows.any (fun r => r.gid == gid && r.cause.isSome)) then j
    else { j with members := j.members.filter (fun m => m.gid != gid) }
  { s with joints := (s.joints.map out).filter (fun j => !j.members.isEmpty) }

/-- MWAIT's end: every instance that the group issued is complete. Its windows close, and flags and traps of its elements are raised (R242). -/
def Env.endMwait (e : Env) (s : State) : State :=
  let gid := e.g.gid
  let flags := (s.jointsOf gid).flatMap (fun j => allLanes.filterMap (fun i => match j.raises gid i with
    | (_, some _) => none
    | (fl, none) => if fl = 0 then none else some (i, fl)))
  let traps := s.jointTraps gid
  let s := s.updGroup gid (fun g => { g.raiseFlags flags with windows := g.windows.filter (fun w => !w.joint) })
  match traps with
  | [] => { (s.leaveJoints gid false).resumeSlot gid e.iss.slotB e.iss.pc with issue := none }
  | _ =>
    let s := e.trapOr traps 0 none (fun s => s) (s.leaveJoints gid true)
    s.updGroup gid (fun g => g.updSlot e.iss.slotB (fun x => match x.wait with
      | some (.lanes t) => { x with wait := some (.lanes { t with joint := some 0 }) }
      | _ => x))

/-- MWAIT. -/
def execMwait (_g : BitVec 3) (s : State) : Host.Outcome State Fault Refusal :=
  inWord s fun e =>
    if e.g.isHandler then .error .illegal
    else if s.jointBusy e.g.gid then .ok (e.await .mmaj s)
    else .ok (e.endMwait s)

/-- The slots that wait at an MWAIT with nothing outstanding any more go on. -/
def State.settleJoints (s : State) (gids : List Nat) : State :=
  (gids.eraseDups).foldl (fun s gid => [false, true].foldl (fun s b => match s.group? gid with
    | none => s
    | some g => if (g.slot b).wait == some .mmaj && !s.jointBusy gid then (match s.slotEnv g b with
      | some e => e.endMwait s
      | none => s) else s) s) s

/-- Whether an earlier instance with a member in common is not complete: accumulators are updated in program order (R289). -/
def State.jointBefore (s : State) (j : Joint) : Bool :=
  s.joints.any (fun i => i.wid == j.wid && i.k < j.k && !i.complete && i.members.any (fun m => j.members.any (fun x => x.gid == m.gid)))

/-- An instance meets poison: the fault is precise at the MMAJ that completed the instance, whose reads these are (10, R193; 17, Table 17-4; R288). The word
stands in flight. -/
def State.jointFault (s : State) (j : Joint) (r : Request) (e : Env) : State :=
  match j.members.getLast? with
  | some m => (((s.requests.find? (fun q => q.gid == m.gid && q.job == r.job)).bind s.reqEnv).getD e).flightFault (.lanes 0x07 m.act) s
  | none => s

/-- MMAJ_COMPLETE (R289): the result is written to its members. Poison among what it reads is consumed (10, R193). -/
def execMmajComplete (id : Nat) (s : State) : Host.Outcome State Fault Refusal :=
  match s.live? id with
  | none => .next s
  | some r =>
    match s.jointOf r, s.reqEnv r with
    | some j, some e =>
      (match s.wg? j.wid, j.members with
      | some w, m0 :: _ =>
        if !j.started || j.complete || s.jointBefore j then .next s else
        let d := jointDescOf j.desc
        if w.jointPoison d m0.flags then .next (s.jointFault j r e) else
        let (t, rows) := j.members.foldl (fun (acc : State × List JointRow) m =>
          let (t, rs) := acc.1.jointMember e.k d ⟨j.ls, w.ls, w.late.zip (j.settled ++ List.replicate w.late.length false)⟩ j.mask m
          (t, acc.2 ++ rs)) (s, [])
        let same := fun (x : Joint) => x.wid == j.wid && x.k == j.k && x.mask == j.mask
        let gids := j.members.map (fun m => m.gid)
        let t : State := { t with
          joints := mapWhere same (fun x => { x with complete := true, rows := rows }) t.joints
          requests := t.requests.filter (fun q => !(gids.contains q.gid && q.job == .mmaj j.wid j.k)) }
        .next (t.tick.settleJoints gids)
      | _, _ => .next s)
    | _, _ => .next s

end Sys2Proof.Machine
end

