-- ==== Sys2Proof/Machine/Standing.lean ====
section
/-! DEFINITION. Standing products: how the Thermos computes and corrects C (04, R50–R57), and the instructions of OP 0x68 to 0x6B (04, R63–R71). -/

namespace Sys2Proof.Machine

/-! ### Where the elements are (R43) -/

/-- The virtual byte ranges of an operand, row by row, cut where pages end. -/
def operandRanges (base ld rows cols size : Nat) : List (Nat × Nat) :=
  (List.range rows).flatMap (fun i => piecesOf (base + i * ld * size) (cols * size))

/-- The physical byte ranges of an operand. -/
def operandRuns (pages : List (Nat × Nat)) (base ld rows cols size : Nat) : List (Nat × Nat) :=
  (operandRanges base ld rows cols size).filterMap (fun p => (pageOf pages p.1).map (fun a => (a, p.2)))

def Binding.aRuns (b : Binding) : List (Nat × Nat) := operandRuns b.aPages b.desc.aBase b.desc.lda b.desc.m b.desc.k (typeSize b.desc.ta)
def Binding.bRuns (b : Binding) : List (Nat × Nat) := operandRuns b.bPages b.desc.bBase b.desc.ldb b.desc.k b.desc.n (typeSize b.desc.tb)
def Binding.cRuns (b : Binding) : List (Nat × Nat) := operandRuns b.cPages b.desc.cBase b.desc.ldc b.desc.m b.desc.n (typeSize b.desc.tc)

/-- Whether two lists of byte ranges share a byte. -/
def runsMeet (p q : List (Nat × Nat)) : Bool := p.any (fun x => q.any (fun y => x.1 < y.1 + y.2 && y.1 < x.1 + x.2))

/-- The physical address of an element. -/
def Binding.aPa (b : Binding) (i q : Nat) : Nat := (pageOf b.aPages (b.desc.aBase + (i * b.desc.lda + q) * typeSize b.desc.ta)).getD 0
def Binding.bPa (b : Binding) (q j : Nat) : Nat := (pageOf b.bPages (b.desc.bBase + (q * b.desc.ldb + j) * typeSize b.desc.tb)).getD 0
def Binding.cPa (b : Binding) (i j : Nat) : Nat := (pageOf b.cPages (b.desc.cBase + (i * b.desc.ldc + j) * typeSize b.desc.tc)).getD 0

/-- The Thermos at work on a binding of a context: the operands as the differences applied so far have changed them, row by row. -/
structure Work where
  s : State
  ctx : Nat
  b : Binding
  a : List Nat
  bb : List Nat

def Work.aAt (w : Work) (i q : Nat) : Nat := w.a.getD (i * w.b.desc.k + q) 0
def Work.bAt (w : Work) (q j : Nat) : Nat := w.bb.getD (q * w.b.desc.n + j) 0
def Work.aVal (w : Work) (i q : Nat) : FVal := (typeFmt w.b.desc.ta).value (w.aAt i q)
def Work.bVal (w : Work) (q j : Nat) : FVal := (typeFmt w.b.desc.tb).value (w.bAt q j)

/-- The operands take a difference. -/
def Work.take (w : Work) (d : Diff) : Work :=
  if d.inB then { w with bb := setNth w.bb (d.row * w.b.desc.n + d.col) d.new } else { w with a := setNth w.a (d.row * w.b.desc.k + d.col) d.new }

/-- The operand values at a number q (R55). -/
def Work.at_ (w : Work) (q : Nat) : Work :=
  (w.b.diffs.filter (fun d => d.no ≤ q)).foldl Work.take { w with a := w.b.aInit, bb := w.b.bInit }

/-! ### Writing C (R58) -/

def Work.cAt (w : Work) (i j : Nat) : Nat := w.s.mem.nat (w.b.cPa i j) (typeSize w.b.desc.tc)

/-- Write an element of C at its home, if its value changes. The Thermos's writes are never captured (R44). -/
def Work.putC (w : Work) (i j pattern : Nat) : Work :=
  let n := typeSize w.b.desc.tc
  if w.cAt i j == pattern then w else
  { w with s := w.s.landBytes (some w.ctx) (((leBytes n pattern).zip (List.range n)).map (fun x => (w.b.cPa i j + x.2, x.1))) [] }

/-- Whether an operand of an element is poisoned (R47). -/
def Work.poisonedAt (w : Work) (i j : Nat) : Bool :=
  !w.s.poison.isEmpty &&
  (List.range w.b.desc.k).any (fun q => w.s.poison.contains (w.b.aPa i q / 32) || w.s.poison.contains (w.b.bPa q j / 32))

/-- The rounding pass of `.exact` (R54): each shadow element rounded once, RNE, into C's format; a mark gives its value, quieted. -/
def Work.roundRow (w : Work) (i : Nat) : Work :=
  let r := w.b.shadowRow i
  let f := typeFmt w.b.desc.tc
  (List.range w.b.desc.n).foldl (fun w j =>
    if r.x == exaNonfin then w.putC i j f.defaultNan else
    match r.marks.getD j none with
    | some p => w.putC i j (match f.value p with
        | .nan s fr pp => f.nanBits s fr pp
        | _ => p)
    | none => w.putC i j (exaRound f (.plain .rne) r.x (r.slots.getD j 0)).1) w
def Work.roundingPass (w : Work) : Work := if w.b.desc.exact then (List.range w.b.desc.m).foldl Work.roundRow w else w

/-! ### From scratch (R55) -/

/-- The chain of one element in `.round` mode. -/
def scratchRound (fa fb fc : Fmt) (ps : List (Nat × Nat)) : Nat :=
  let acc := ps.foldl (fun acc p =>
    let x := fa.value p.1
    let y := fb.value p.2
    let z := fp32.value acc
    (fp32.deliver (.plain .rne) [x, y, z] (exactFma .rne x y z)).bits) 0
  if fc == fp32 then acc else (fc.deliver (.plain .rne) [fp32.value acc] (fp32.value acc).exact).bits

/-- The exact sum of one element in `.exact` mode: T·2^Y, or the pattern in C's format of a sum that IEEE arithmetic makes infinite or a
NaN. -/
def scratchExact (fa fb fc : Fmt) (ps : List (Nat × Nat)) : (Int × Int) ⊕ Nat :=
  let vs := ps.map (fun p => (fa.value p.1, fb.value p.2))
  if vs.all (fun v => v.1.isFinite && v.2.isFinite) then
    .inl (vs.foldl (fun t v => match v.1.dyadic, v.2.dyadic with
      | some x, some y => dyAdd t (x.1 * y.1, x.2 + y.2)
      | _, _ => t) ((0 : Int), (0 : Int)))
  else .inr (dotRound fc (.plain .rne) ⟨vs.map (fun v => .value v.1), []⟩ ⟨vs.map (fun v => .value v.2), []⟩ 0).bits

/-- One element computed from the operands as they stand: its drift is 0, and a poisoned operand poisons it (R47). -/
def Work.scratch (w : Work) (i j : Nat) : Work :=
  let fa := typeFmt w.b.desc.ta
  let fb := typeFmt w.b.desc.tb
  let fc := typeFmt w.b.desc.tc
  let ps := (List.range w.b.desc.k).map (fun q => (w.aAt i q, w.bAt q j))
  let bad := w.poisonedAt i j
  let w := if w.b.desc.exact then
      (match scratchExact fa fb fc ps with
      | .inl t => { w with b := w.b.setShadow i ((w.b.shadowRow i).setSum j t) }
      | .inr p =>
        let b := w.b.setShadow i ((w.b.shadowRow i).setMark j p, false, false)
        { w with b := { b with nonfin := true } })
    else
      let b : Binding := { w.b with drift := setNth w.b.drift (i * w.b.desc.n + j) 0 }
      ({ w with b := b } : Work).putC i j (scratchRound fa fb fc ps)
  if bad then { w with s := { w.s with poison := insertNat w.s.poison (w.b.cPa i j / 32) } } else w

/-- Elements of C reach an applied point; one that stands beyond it stays. -/
def Binding.raise (b : Binding) (cs : List (Nat × Nat)) (q : Nat) : Binding :=
  { b with points := cs.foldl (fun ps c => setNth ps (c.1 * b.desc.n + c.2) (max q (ps.getD (c.1 * b.desc.n + c.2) 0))) b.points }

/-- The largest number that an element of a line reflects, or q where none is beyond it. -/
def Binding.reach (b : Binding) (l : LineRef) (q : Nat) : Nat := (b.cells l).foldl (fun m c => max m (b.point c.1 c.2)) q

/-- A LINE REFRESHED at q, whole (R55): every element of it is computed anew from the operands that `ops` gives for its applied point, and the line's
own figures say so (R56, R57, R66, R67). A row of `.exact` starts its shadow row anew. -/
def Work.refreshLine (w : Work) (l : LineRef) (q : Nat) (ops : Nat → List Nat × List Nat) : Work :=
  let b := if w.b.desc.exact && !l.col then
      { w.b with shadow := setNth w.b.shadow l.no ⟨exaEmpty, List.replicate w.b.desc.n 0, List.replicate w.b.desc.n none⟩ } else w.b
  let r := (b.cells l).foldl (fun w c =>
    let x := ops (w.b.point c.1 c.2)
    ({ w with a := x.1, bb := x.2 } : Work).scratch c.1 c.2) { w with b := b }
  let b := r.b
  { r with
    a := w.a
    bb := w.bb
    b := { b with
      rowQ := if l.col then b.rowQ else setNth b.rowQ l.no (max q (b.rowQ.getD l.no 0))
      colQ := if l.col then setNth b.colQ l.no (max q (b.colQ.getD l.no 0)) else b.colQ
      rowCount := if l.col then b.rowCount else setNth b.rowCount l.no 0
      colCount := if l.col then setNth b.colCount l.no 0 else b.colCount
      marked := b.marked.filter (fun m => !(m.1 == l && m.2 ≤ q))
      refr := b.refr + 1 } }

/-- A line refreshed at q where the operands stand at q. That an element which is beyond q already is computed anew at its own applied point, since no
applied point decreases, is the model's choice (log 64). -/
def Work.refreshAt (w : Work) (l : LineRef) (q : Nat) : Work :=
  let r := w.refreshLine l q (fun p => if p ≤ q then (w.a, w.bb) else ((w.at_ p).a, (w.at_ p).bb))
  { r with b := r.b.raise (r.b.cells l) q }

/-- A line refreshed at q from the operand values at q, or at the largest number that an element of it reflects (R57; log 64). -/
def Work.refreshFrom (w : Work) (l : LineRef) (q : Nat) : Work :=
  let r := (w.at_ (w.b.reach l q)).refreshAt l (w.b.reach l q)
  { r with a := w.a, bb := w.bb }

/-! ### Corrections (R50–R53, R56) -/

/-- The spacing of a format at a finite pattern, as a fraction. -/
def Fmt.ulp (f : Fmt) (y : Nat) : Nat × Nat :=
  let e := max 1 (y / 2 ^ f.p % 2 ^ f.ebits)
  if f.bias + f.p ≤ e then (2 ^ (e - f.bias - f.p), 1) else (1, 2 ^ (f.bias + f.p - e))

/-- round_up_f32(e + |x − y| / ulp(y)), where x is n/d of its sign and y a finite pattern. -/
def driftUp (f : Fmt) (e : Word) (neg : Bool) (n d y : Nat) : Word :=
  match fp32.value e.toNat, f.value y with
  | .num _ a b, .num t n' d' =>
    let x : Int := (if neg then -(n : Int) else n) * d' - (if t then -(n' : Int) else n') * d
    let (u, v) := f.ulp y
    BitVec.ofNat 32 (fp32.round (.plain .rup) false (a * (d * d' * u) + x.natAbs * v * b) (b * (d * d' * u))).1
  | _, _ => e

/-- One element corrected by the exact x. -/
def Work.correct (w : Work) (i j : Nat) (x : FVal) : Work :=
  let f := typeFmt w.b.desc.tc
  if w.b.desc.exact then
    match x.dyadic with
    | some t =>
      let r := w.b.shadowRow i
      let (e, lost) := (ExaRow.mk r.x r.slots).add j t.1 t.2
      { w with b := w.b.setShadow i ({ r with x := e.x, slots := e.slots }, lost, r.x != exaNonfin && e.x == exaNonfin) }
    | none => w
  else
    match exactAdd .rne (f.value (w.cAt i j)) x with
    | .num neg n d =>
      let (y, fl) := f.round (.plain .rne) neg n d
      let ovf := fl &&& flagOF != 0
      let k := i * w.b.desc.n + j
      let e := if ovf then 0x7F800000 else driftUp f (w.b.drift.getD k 0) neg n d y
      let b : Binding := { w.b with drift := setNth w.b.drift k e, nonfin := w.b.nonfin || ovf }
      ({ w with b := b } : Work).putC i j y
    | _ => w

/-- Whether a line of C holds an infinity or a NaN for R53. -/
def Work.lineNonfin (w : Work) (l : LineRef) : Bool :=
  (w.b.cells l).any (fun c =>
    if w.b.desc.exact then ((w.b.shadowRow c.1).marks.getD c.2 none).isSome
    else !((typeFmt w.b.desc.tc).value (w.cAt c.1 c.2)).isFinite)

/-- The other operand's line that a difference multiplies: row κ of B, or column κ of A. -/
def Work.other (w : Work) (d : Diff) : List FVal :=
  if d.inB then (List.range w.b.desc.m).map (fun i => w.aVal i d.row) else (List.range w.b.desc.n).map (fun j => w.bVal d.col j)

/-- Whether the count or the drift of a line asks for a refresh, after a correction from a difference at it (R56). -/
def Binding.worn (b : Binding) (l : LineRef) : Bool :=
  (b.desc.refresh != 0 && decide (b.desc.refresh ≤ (if l.col then b.colCount else b.rowCount).getD l.no 0)) ||
  (b.desc.threshold != 0 && (b.cells l).any (fun c => decide (b.desc.threshold.toNat < (b.drift.getD (c.1 * b.desc.n + c.2) 0).toNat)))

/-- The line of a difference has had it: it counts once, however its elements come by it. -/
def Binding.counted (b : Binding) (d : Diff) : Binding :=
  let bump := fun (l : List Nat) => setNth l d.line.no (l.getD d.line.no 0 + 1)
  let b := { b with diffs := mapWhere (fun x => x.no == d.no) (fun x => { x with begun := true }) b.diffs }
  if d.begun then b else if d.inB then { b with colCount := bump b.colCount } else { b with rowCount := bump b.rowCount }

/-- Whether a difference is no correction by what it is or by the line that it multiplies (R53). -/
def Work.uncorrectable (w : Work) (d : Diff) : Bool :=
  let f := typeFmt (if d.inB then w.b.desc.tb else w.b.desc.ta)
  !(f.value d.old).isFinite || !(f.value d.new).isFinite || (w.other d).any (fun v => !v.isFinite)

/-- Elements of a difference's line corrected by it, from the operands as they stand (R50). -/
def Work.correctAll (w : Work) (d : Diff) (cs : List (Nat × Nat)) : Work :=
  let f := typeFmt (if d.inB then w.b.desc.tb else w.b.desc.ta)
  let others := w.other d
  match exactAdd .rne (f.value d.new) (f.value d.old).negate with
  | .num s n k => cs.foldl (fun (w : Work) (c : Nat × Nat) => match exactMul (.num s n k) (others.getD (if d.inB then c.1 else c.2) (.num false 0 1)) with
      | .num s n k => w.correct c.1 c.2 (.num s n k)
      | _ => w) w
  | _ => w

/-- What follows a difference: the line is refreshed where it was no correction (R53), or where the correction wore it out (R56). -/
def Work.settleLine (w : Work) (d : Diff) (nonfin : Bool) (refresh : Work → Work) : Work :=
  if nonfin then
    let w := refresh w
    let b : Binding := { w.b with nonfin := true, refreshed := true }
    { w with b := b }
  else if w.b.desc.exact then w else
    let w : Work := { w with b := w.b.counted d }
    if w.b.worn d.line then
      let w := refresh w
      let b : Binding := { w.b with refreshed := true }
      { w with b := b }
    else w

/-- ONE DIFFERENCE APPLIED in capture order: the operands take it, and of the elements worked on those of its line that it has not reached are
corrected, or the whole line is refreshed (R50, R53, R56, R57). -/
def Work.apply (on : Nat × Nat → Bool) (w : Work) (d : Diff) : Work :=
  let t := w.take d
  let cs : List (Nat × Nat) := (w.b.cells d.line).filter (fun c => on c && decide (w.b.point c.1 c.2 < d.no))
  if d.lost || cs.isEmpty then t else
  let nonfin := w.uncorrectable d || w.lineNonfin d.line
  let r := if nonfin then t else
    let r := w.correctAll d cs
    { r with a := t.a, bb := t.bb, b := r.b.raise cs d.no }
  r.settleLine d nonfin (fun x => x.refreshAt d.line d.no)

/-! ### A settle (R50, R57, R60, R68) -/

/-- Whether difference `d` comes before `e` in the canonical order. -/
def Diff.before (d e : Diff) : Bool :=
  if d.inB != e.inB then !d.inB else decide (d.row < e.row) || (d.row == e.row && decide (d.col < e.col))

/-- Put a difference behind those that do not come after it. -/
def insertDiff (d : Diff) : List Diff → List Diff
  | [] => [d]
  | e :: r => if d.before e then d :: e :: r else e :: insertDiff d r

/-- The differences in canonical order (R60). -/
def canonical (ds : List Diff) : List Diff := ds.foldl (fun l d => insertDiff d l) []

/-- The lines with a lost difference that must be refreshed before differences through q can count as applied, each with a number at which they may
be. -/
def Binding.overdue (b : Binding) (q : Nat) : List (LineRef × Nat) :=
  (b.marked.filter (fun m => b.diffs.any (fun d => d.lost && d.no ≤ q && d.line == m.1))).map (fun m => (m.1, max q m.2))

/-- Differences that every element reflects are taken into the operands, and leave the list. -/
def Work.advance (w : Work) : Work :=
  let low := w.b.points.foldl min w.b.lastNo
  let low := (w.b.diffs.filter (fun d => d.lost && w.b.stale d)).foldl (fun m d => min m (d.no - 1)) low
  let old := (w.b.diffs.filter (fun d => d.no ≤ low)).foldl Work.take { w with a := w.b.aInit, bb := w.b.bInit }
  let b := w.b
  { w with b := { b with applied := max b.applied low, aInit := old.a, bInit := old.bb, diffs := b.diffs.filter (fun d => low < d.no) } }

/-- The differences through q in capture order, applied to the elements worked on. -/
def Work.inOrder (w : Work) (on : Nat × Nat → Bool) (q : Nat) : Work :=
  (w.b.diffs.filter (fun d => d.no ≤ q)).foldl (Work.apply on) { w with a := w.b.aInit, bb := w.b.bInit }

/-- The operands of an element that stands at p, once the differences in `prior` have come after it. -/
def Work.after (w : Work) (prior : List Diff) (p : Nat) : Work := (prior.filter (fun d => p < d.no)).foldl Work.take (w.at_ p)

/-- ONE DIFFERENCE APPLIED in canonical order, after those in `prior` (R60): the elements of its line that do not reflect it are corrected, each from the
operands as the differences before it have changed them, or the whole line is refreshed at that place in the order. -/
def Work.applyAfter (w : Work) (prior : List Diff) (d : Diff) : Work :=
  let cs : List (Nat × Nat) := (w.b.cells d.line).filter (fun c => decide (w.b.point c.1 c.2 < d.no))
  let stands := (cs.map (fun c => w.b.point c.1 c.2)).eraseDups
  if d.lost || cs.isEmpty then w else
  let nonfin := w.lineNonfin d.line || stands.any (fun p => (w.after prior p).uncorrectable d)
  let r := if nonfin then w else
    stands.foldl (fun (w : Work) p => (w.after prior p).correctAll d (cs.filter (fun c => w.b.point c.1 c.2 == p))) w
  r.settleLine d nonfin (fun x =>
    let ops := ((x.b.cells d.line).map (fun c => x.b.point c.1 c.2)).eraseDups.map (fun p => (p, x.after (prior ++ [d]) p))
    x.refreshLine d.line 0 (fun p => ((ops.find? (fun o => o.1 == p)).map (fun o => (o.2.a, o.2.bb))).getD ([], [])))

/-- The differences through q in canonical order (R60). -/
def Work.canonically (w : Work) (q : Nat) : Work :=
  ((canonical (w.b.diffs.filter (fun d => d.no ≤ q))).foldl (fun (x : Work × List Diff) d => (x.1.applyAfter x.2 d, x.2 ++ [d])) (w, [])).1

/-- EVERY DIFFERENCE THROUGH q IS APPLIED, or covered by a refresh. -/
def Work.settle (w : Work) (q : Nat) (canon : Bool) : Work :=
  let due := w.b.overdue q
  let w := due.foldl (fun w l => w.refreshFrom l.1 l.2) w
  let b : Binding := if due.isEmpty then w.b else { w.b with refreshed := true }
  let w : Work := { w with b := b }
  let w := if canon then w.canonically q else w.inOrder (fun _ => true) q
  let b := w.b
  ({ w with b := { b with points := b.points.map (fun p => max p q) } } : Work).advance

/-- How far an element can come through q without a refresh: up to the first lost difference in its row or column that it does not reflect (R57). -/
def Binding.bound (b : Binding) (q : Nat) (c : Nat × Nat) : Nat :=
  (b.diffs.filter (fun d => d.lost && (if d.line.col then c.2 == d.line.no else c.1 == d.line.no) && b.point c.1 c.2 < d.no)).foldl (fun m d => min m (d.no - 1)) q

/-- Elements are brought as far towards q as they can come (R51). -/
def Work.ahead (w : Work) (on : Nat × Nat → Bool) (q : Nat) : Work :=
  let cs := ((List.range w.b.desc.m).flatMap (fun i => (List.range w.b.desc.n).map (fun j => (i, j)))).filter on
  let b₀ := w.b
  let w := (w.b.diffs.filter (fun d => d.no ≤ q)).foldl (fun w d => w.apply (fun c => on c && d.no ≤ b₀.bound q c) d) { w with a := w.b.aInit, bb := w.b.bInit }
  ({ w with b := cs.foldl (fun b c => b.raise [c] (b₀.bound q c)) w.b } : Work).advance

/-- Whether the queue is collapsing (R57): a difference was lost to a full queue, and it, or one queued before it, is not applied yet. -/
def Binding.collapsing (b : Binding) : Bool := b.diffs.any (fun o => o.full && b.diffs.any (fun d => d.no ≤ o.no && b.stale d))

/-- The live binding in a slot of a context. -/
def Context.binding? (c : Context) (slot : Nat) : Option Binding := c.bindings.find? (fun b => b.slot == slot && b.live)
def State.binding? (s : State) (ctx slot : Nat) : Option Binding := (s.ctx? ctx).bind (fun c => c.binding? slot)
def Context.setBinding (c : Context) (b : Binding) : Context := { c with bindings := mapWhere (fun x => x.slot == b.slot) (fun _ => b) c.bindings }

/-- The Thermos works on a binding of a context that is ready; what it has done is kept. -/
def State.work (s : State) (ctx slot : Nat) (f : Work → Work) : Option State :=
  match s.binding? ctx slot with
  | none => none
  | some b =>
    if !b.ready then none else
    let w := f ⟨s, ctx, b, b.aInit, b.bInit⟩
    some (w.s.updCtx ctx (fun c => c.setBinding w.b))

/-- THERMOS_BACKGROUND_APPLY (R51, R57): under the background policy, or while the binding's queue collapses, the elements of C but those in `behind`
are brought towards a number, and marked lines are refreshed. -/
def execThermosBackgroundApply (ctx slot upTo : Nat) (p : Picks) (s : State) : Host.Outcome State Fault Refusal :=
  match s.ctx? ctx with
  | none => .next s
  | some c =>
    match c.binding? slot with
    | none => .next s
    | some b =>
      if !c.goesOn (.thermos b.die) || b.lastNo < upTo || !(b.desc.background || b.collapsing) then .next s else
      let lines := b.marked.filter (fun m => p.refresh.contains (m.1.col, m.1.no))
      let on := fun (c : Nat × Nat) => !p.behind.contains (false, c.1) && !p.behind.contains (true, c.2)
      let act := fun (w : Work) =>
        let w := w.ahead on upTo
        let w := lines.foldl (fun w m => w.refreshFrom m.1 (max upTo m.2)) w
        let b : Binding := if lines.isEmpty then w.b else { w.b with refreshed := true }
        ({ w with b := b } : Work).advance
      .next ((s.work ctx slot act).getD s)

/-! ### Requests (R63) -/

/-- The binding that a uniform handle names (R63, R64): live, of this context, its generation matching, its PUNBIND not accepted. -/
def Context.handle? (c : Context) (h : Word) : Option Binding :=
  if h &&& 0xFFFF00C0 != 0 then none else
  match c.binding? (bits h.toNat 0 6) with
  | some b => if b.gen == bits h.toNat 8 8 && b.capturing then some b else none
  | none => none

/-- The stamps of a list of physical ranges, line by line (07, R131). -/
def runTouches (lane : Nat) (rs : List (Nat × Nat)) : List Touch :=
  rs.flatMap (fun r => (linesOf r.1 r.2).map (fun n =>
    let lo := max r.1 (128 * n)
    ⟨lane, lo, min (r.1 + r.2) (128 * n + 128) - lo⟩))

/-- The lowest active lane, which stands for a group-level access. -/
def Env.lowest (e : Env) (g : BitVec 3) : Nat := (lanesOf (e.act g)).headD 0

/-- The reads of A and B and the writes of C that a standing-product word stands for (R69; 07, R130). -/
def Env.stampBinding (e : Env) (g : BitVec 3) (b : Binding) (s : State) : Except Halt State :=
  if !e.l.det then .ok s else
  match e.stamp s false none none (runTouches (e.lowest g) (b.aRuns ++ b.bRuns)) with
  | .error h => .error h
  | .ok s => e.stamp s true none none (runTouches (e.lowest g) b.cRuns)

/-- The request of a standing-product word with a handle; `settle` names the words that R60 restricts. -/
def withHandle (g : BitVec 3) (a : BitVec 7) (la : BitVec 4) (settle : Bool) (f : Env → Binding → State → Except Halt State) (s : State) :
    Host.Outcome State Fault Refusal :=
  inWord s fun e =>
    match e.uniform g (fun l => l.word (e.v a)) with
    | .error h => .error h
    | .ok none => .ok (e.retire (e.openDone la s))
    | .ok (some h) =>
      match e.c.handle? h with
      | none => .error .operand
      | some b =>
        if !(settle && e.l.det) then f e b s
        else if b.desc.background then .error .operand
        else if (b.collapsedAt.map (fun t => decide (e.l.began ≤ t))).getD false then .error (.word 0x09 (e.lowest g))
        else match e.stampBinding g b s with
          | .error h => .error h
          | .ok s => f e b s

/-! ### PBIND (R65) -/

/-- The fields of a descriptor (R4). -/
def bindDescOf (d : List (BitVec 8)) : BindDesc :=
  let f := fun (o n : Nat) => leNat ((d.drop o).take n)
  ⟨f 0 8, f 8 8, f 0x10 8, f 0x18 4, f 0x1C 4, f 0x20 4, f 0x24 4, f 0x28 4, f 0x2C 4, f 0x30 1, f 0x31 1, f 0x32 1,
    bits (f 0x33 1) 0 1 == 1, bits (f 0x33 1) 1 1 == 1, f 0x34 4, BitVec.ofNat 32 (f 0x38 4), f 0x3C 4⟩

/-- Whether a descriptor is legal (R4, R42, R60). -/
def BindDesc.legal (d : BindDesc) (mode : Nat) (det : Bool) : Bool :=
  let dim := fun (n : Nat) => 1 ≤ n && n ≤ 65536
  let lead := fun (l n : Nat) => n ≤ l && l ≤ 2 ^ 24
  mode < 4 && d.ta ≤ 4 && d.tb ≤ 4 && d.tc ≤ 2 && dim d.m && dim d.n && dim d.k && lead d.ldc d.n && lead d.lda d.k && lead d.ldb d.n &&
  d.cBase % typeSize d.tc == 0 && d.aBase % typeSize d.ta == 0 && d.bBase % typeSize d.tb == 0 &&
  (if d.exact then d.refresh == 0 && d.threshold == 0 else d.threshold.toNat < 0x7F800000) &&
  16 ≤ d.queue && d.queue ≤ 65536 && 2 ^ d.queue.log2 == d.queue && !(d.background && det)

/-- The bytes of the engine reserve that a binding takes (R45). -/
def BindDesc.reserve (d : BindDesc) : Nat :=
  32 * d.queue + (if d.exact then 16 * d.m * d.n + 16 * d.m + 16 * d.m * ((d.n + 127) / 128) else 4 * d.m * d.n + 8 * (d.m + d.n))

/-- The pages of some virtual ranges, each with its physical base and whether it is resident; an address that faults otherwise. -/
def State.bindPages (s : State) (ctx : Nat) (n : Need) (rs : List (Nat × Nat)) : Except Nat (List (Nat × Nat × Bool)) :=
  mapE (fun va => if 2 ^ 56 ≤ va then .error va else match s.engineLeaf (some (.thermos 0)) ctx va n with
    | none => .error va
    | some l => if regionOf (l.pa va) == .reserved || isRemote (l.pa va) then .error va else .ok (va, l.pa va, l.res))
    ((rs.map (fun r => r.1 / 65536 * 65536)).eraseDups)

/-- The slot that PBIND takes: which free one is open, and the lowest is the model's choice (R64; log 50). -/
def Context.freeBinding (c : Context) : Option Nat := (List.range 64).find? (fun k => (c.binding? k).isNone)
/-- The generation that a slot last had. -/
def Context.lastGen (c : Context) (slot : Nat) : Nat := ((c.bindings.find? (fun b => b.slot == slot)).map (fun b => b.gen)).getD 0

/-- A binding at its registration: numbering starts at 0 and capture begins; C is still to be computed. -/
def Binding.start (slot gen time : Nat) (d : BindDesc) (ap bp cp : List (Nat × Nat)) (mem : Mem) : Binding :=
  let b : Binding :=
    { slot := slot, gen := gen, live := true, ready := false, capturing := true, desc := d, aPages := ap, bPages := bp, cPages := cp,
      aInit := [], bInit := [], diffs := [], lastNo := 0, applied := 0, points := List.replicate (d.m * d.n) 0, rowQ := List.replicate d.m 0, colQ := List.replicate d.n 0,
      drift := if d.exact then [] else List.replicate (d.m * d.n) 0, rowCount := List.replicate d.m 0, colCount := List.replicate d.n 0,
      marked := [], aliased := false, exactLost := false, refreshed := false, nonfin := false, collapsed := false, poison := false, refr := 0,
      peak := 0, shadow := if d.exact then List.replicate d.m ⟨exaEmpty, List.replicate d.n 0, List.replicate d.n none⟩ else [],
      boundAt := time, collapsedAt := none }
  { b with
    aInit := (List.range d.m).flatMap (fun i => (List.range d.k).map (fun q => mem.nat (b.aPa i q) (typeSize d.ta)))
    bInit := (List.range d.k).flatMap (fun q => (List.range d.n).map (fun j => mem.nat (b.bPa q j) (typeSize d.tb))) }

/-- The code of PBIND (R65): the first refusal that holds. -/
def Context.bindCode (c : Context) (b : Binding) (resident : Bool) : Nat :=
  let others := c.bindings.filter (fun x => x.live)
  if 64 ≤ others.length then 1
  else if others.any (fun x => runsMeet b.cRuns (x.cRuns ++ x.aRuns ++ x.bRuns) || runsMeet x.cRuns (b.aRuns ++ b.bRuns)) then 2
  else if c.args.reserve.size < b.desc.reserve + (others.map (fun x => x.desc.reserve)).sum then 3
  else if !resident then 4
  else 0

/-- The binding that a descriptor asks for and whether its pages are all resident, or the fault (R43, R65). -/
def State.proposeBinding (s : State) (e : Env) (raw : List (BitVec 8)) (lane slot : Nat) : Except Halt (Binding × Bool) :=
  let d := bindDescOf raw
  if !d.legal (leNat ((raw.drop 0x33).take 1)) e.l.det then .error .operand else
  match s.bindPages e.g.ctx .read (operandRanges d.aBase d.lda d.m d.k (typeSize d.ta)),
      s.bindPages e.g.ctx .read (operandRanges d.bBase d.ldb d.k d.n (typeSize d.tb)),
      s.bindPages e.g.ctx .write (operandRanges d.cBase d.ldc d.m d.n (typeSize d.tc)) with
  | .error a, _, _ => .error (.protection lane a)
  | _, .error a, _ => .error (.protection lane a)
  | _, _, .error a => .error (.protection lane a)
  | .ok ap, .ok bp, .ok cp =>
    let bare := fun (l : List (Nat × Nat × Bool)) => l.map (fun p => (p.1, p.2.1))
    let b := Binding.start slot ((e.c.lastGen slot + 1) % 256) s.time d (bare ap) (bare bp) (bare cp) s.mem
    if runsMeet b.cRuns (b.aRuns ++ b.bRuns) then .error .operand else .ok (b, (ap ++ bp ++ cp).all (fun p => p.2.2))

/-- PBIND (R65). -/
def execPbind (g : BitVec 3) (d a : BitVec 7) (l : BitVec 4) (s : State) : Host.Outcome State Fault Refusal :=
  inWord s fun e =>
    match e.uniform g (fun x => x.dword (e.v a)) with
    | .error h => .error h
    | .ok none => .ok (e.retire (e.openDone l s))
    | .ok (some va) =>
      let lane := e.lowest g
      if va.toNat % 64 != 0 then .error .operand else
      match s.engineAccess (some (.thermos 0)) e.g.ctx va.toNat .read with
      | .error s => .ok (e.takeFault (.protection lane va.toNat) s)
      | .ok (s, x) =>
        let pa := x.pa va.toNat
        if isRemote pa then .error (.protection lane va.toNat) else
        match e.stamp s false none none (runTouches lane [(pa, 64)]) with
        | .error h => .error h
        | .ok s =>
          let slot := e.c.freeBinding.getD 0
          match s.proposeBinding e (s.mem.read pa 64) lane slot with
          | .error h => .error h
          | .ok (b, resident) =>
            let code := ((s.ctx? e.g.ctx).map (fun c => c.bindCode b resident)).getD 0
            if code != 0 then .ok (e.launchLong l (.pbind (code * 2 ^ 24) (e.v d) (e.act g) none) s) else
            match e.stampBinding g b s with
            | .error h => .error h
            | .ok s =>
              let s := s.updCtx e.g.ctx (fun c => { c with bindings := b :: c.bindings.filter (fun x => x.slot != slot) })
              .ok (e.launchLong l (.pbind (b.gen * 256 + slot) (e.v d) (e.act g) (some slot)) s)

/-- PBIND_COMPLETE (R55, R64): C is computed from scratch with the operands at number 0, and the handle, or the refusal, is written. -/
def execPbindComplete (id : Nat) (s : State) : Host.Outcome State Fault Refusal :=
  match s.live? id with
  | none => .next s
  | some r =>
    match r.job with
    | .pbind word dest act slot =>
      let out := (lanesOf act).map (fun i => (⟨i, dest, leBytes 4 word⟩ : LaneWrite))
      let first := fun (w : Work) =>
        let w := (List.range w.b.desc.m).foldl (fun w i => (List.range w.b.desc.n).foldl (fun w j => w.scratch i j) w) w
        let w := w.roundingPass
        let b : Binding := { w.b with ready := true }
        { w with b := b }
      let s := match slot with
        | none => s
        | some k => match s.binding? r.ctx k with
          | none => s
          | some b =>
            let w := first ⟨s, r.ctx, b, b.aInit, b.bInit⟩
            w.s.updCtx r.ctx (fun c => c.setBinding w.b)
      .next (s.deliver r out)
    | _ => .next s

/-! ### PSTALE and PSTAT (R66, R67) -/

/-- The status word of Table 4-5. -/
def Binding.status (b : Binding) : Nat :=
  let f := fun (x : Bool) (k : Nat) => if x then 2 ^ k else 0
  b.lastNo % 2 ^ 24 + f b.aliased 24 + f b.exactLost 25 + f b.refreshed 26 + f b.nonfin 27 + f b.collapsed 28 + f b.poison 29

def execPstale (g : BitVec 3) (d a : BitVec 7) (l : BitVec 4) (s : State) : Host.Outcome State Fault Refusal :=
  withHandle g a l false (fun e b s => .ok (e.launchLong l (.pstatus false b.slot (e.v d) (e.act g)) s)) s

def execPstat (g : BitVec 3) (d a : BitVec 7) (l : BitVec 4) (s : State) : Host.Outcome State Fault Refusal :=
  withHandle g a l false (fun e b s => .ok (e.launchLong l (.pstatus true b.slot (e.v d) (e.act g)) s)) s

/-- The two words of a status request. -/
def Binding.report (b : Binding) (stat : Bool) : Nat :=
  if stat then min 0xFFFF b.refr + 2 ^ 16 * min 0xFFFF b.peak + 2 ^ 32 * (b.drift.foldl (fun m e => max m e.toNat) 0)
  else min (2 ^ 32 - 1) (b.diffs.filter b.stale).length + 2 ^ 32 * b.status

/-- THERMOS_STATUS_REPLY (R66, R67): the figures as of now are written; PSTAT then clears what it reports. -/
def execThermosStatusReply (id : Nat) (s : State) : Host.Outcome State Fault Refusal :=
  match s.live? id with
  | none => .next s
  | some r =>
    match r.job with
    | .pstatus stat slot dest act =>
      (match s.binding? r.ctx slot with
      | none => .next s
      | some b =>
        let out := leBytes 8 (b.report stat)
        let c : Binding := if stat then { b with refr := 0, refreshed := false, collapsed := false, peak := b.occupancy } else b
        let t := s.updCtx r.ctx (fun x => x.setBinding c)
        .next (t.deliver r ((lanesOf act).map (fun i => ⟨i, dest, out⟩))))
    | _ => .next s

/-! ### PSETTLE, PUNBIND, PREFRESH (R68–R71) -/

def execPsettle (g : BitVec 3) (a : BitVec 7) (l : BitVec 4) (sc : BitVec 3) (s : State) : Host.Outcome State Fault Refusal :=
  withHandle g a l true (fun e b s =>
    .ok (e.launchLong l (.psettle b.slot b.lastNo (scopeCode sc.toNat) none []) (s.endIntervals e.g))) s

/-- PSETTLE.async: complete for lookahead when it is accepted. -/
def execPsettleAsync (g : BitVec 3) (d a : BitVec 7) (l : BitVec 4) (sc : BitVec 3) (s : State) : Host.Outcome State Fault Refusal :=
  withHandle g a l true (fun e b s =>
    match e.uniform g (fun x => x.dword (e.v d)) with
    | .error h => .error h
    | .ok none => .ok (e.retire (e.openDone l s))
    | .ok (some ctr) =>
      if (e.counterLeaf s ctr .write (sc == 4)).isNone then .error (.protection (e.lowest g) ctr.toNat) else
      let s := s.endIntervals e.g
      let told := s.releases ((s.group? e.g.gid).getD e.g) e.path.line (scopeCode sc.toNat)
      .ok (e.retire (e.submit (.psettle b.slot b.lastNo (scopeCode sc.toNat) (some ctr.toNat) told) (e.openDone l s)))) s

/-- PUNBIND: capture stops when the request is accepted (R70, R49). -/
def execPunbind (g : BitVec 3) (a : BitVec 7) (l : BitVec 4) (sc : BitVec 3) (s : State) : Host.Outcome State Fault Refusal :=
  withHandle g a l true (fun e b s =>
    let s := s.updCtx e.g.ctx (fun c => c.setBinding { b with capturing := false })
    .ok (e.launchLong l (.punbind b.slot b.lastNo (scopeCode sc.toNat)) (s.endIntervals e.g))) s

/-- Whether a selector is legal (R71). -/
def selectorOk (b : Binding) (sel : Word) : Bool :=
  let kind := bits sel.toNat 30 2
  let i := bits sel.toNat 0 20
  bits sel.toNat 20 10 == 0 && (match kind with
    | 0 => i == 0
    | 1 => decide (i < b.desc.m)
    | 2 => decide (i < b.desc.n)
    | _ => false)

def execPrefresh (g : BitVec 3) (d a : BitVec 7) (l : BitVec 4) (sc : BitVec 3) (s : State) : Host.Outcome State Fault Refusal :=
  withHandle g a l true (fun e b s =>
    match e.uniform g (fun x => x.word (e.v d)) with
    | .error h => .error h
    | .ok none => .ok (e.retire (e.openDone l s))
    | .ok (some sel) =>
      if !selectorOk b sel then .error .operand
      else .ok (e.launchLong l (.prefresh b.slot b.lastNo (scopeCode sc.toNat) sel) (s.endIntervals e.g))) s

/-- Whether the launch of a request is deterministic. -/
def State.detOf (s : State) (r : Request) : Bool := (((s.ctx? r.ctx).bind (fun c => c.launch? r.launch)).map (fun l => l.det)).getD false

/-- A waiting form is done: its group acquires at the scope and its slot goes on (R68). -/
def State.endSettle (s : State) (r : Request) (sc : Scope) : State :=
  let done := (s.closeWindow r.gid r.id).dropRequest r.id
  match done.reqEnv r with
  | none => done
  | some e =>
    if !e.g.resident then done else
    match done.acquire e.g e.actWord sc with
    | .ok t => e.sends done t
    | .error a => s.engineFault r 0x06 a

/-- PSETTLE_COMPLETE (R68): the differences through q are applied and C is visible; then the signal, which another device must acknowledge (18, R333), or
the acquire. -/
def execPsettleComplete (a : Answered) (s : State) : Host.Outcome State Fault Refusal :=
  match s.live? a.id with
  | none => .next s
  | some r =>
    match r.job with
    | .psettle slot q sc counter told =>
      (match s.work r.ctx slot (fun w => (w.settle q (s.detOf r)).roundingPass) with
      | none => .next s
      | some s => match counter with
        | none => .next (s.endSettle r sc)
        | some va => match s.signalVa r.ctx (0, 0) va with
          | .error t => .next (t.engineFault r 0x06 va)
          | .ok t => .next (s.withAck r a.remote ((t.publish (t.counterPa r.ctx va) told).dropRequest a.id)))
    | _ => .next s

/-- A binding that has ended; its generation is kept for the next one in its slot. -/
def Binding.ended (b : Binding) : Binding :=
  { b with live := false, ready := false, capturing := false, diffs := [], aInit := [], bInit := [], drift := [], shadow := [], marked := [] }

/-- PUNBIND_COMPLETE (R70), after the earlier requests of the binding. -/
def execPunbindComplete (id : Nat) (s : State) : Host.Outcome State Fault Refusal :=
  match s.live? id with
  | none => .next s
  | some r =>
    match r.job with
    | .punbind slot q sc =>
      let earlier := s.requests.any (fun x => x.ctx == r.ctx && x.id < id && (match x.job with
        | .pbind _ _ _ k => k == some slot
        | .pstatus _ k _ _ => k == slot
        | .psettle k _ _ _ _ => k == slot
        | .prefresh k _ _ _ => k == slot
        | _ => false))
      if earlier then .next s else
      (match s.work r.ctx slot (fun w =>
          let w := (w.settle q (s.detOf r)).roundingPass
          { w with b := w.b.ended }) with
      | none => .next s
      | some s => .next (s.endSettle r sc))
    | _ => .next s

/-- The lines that a selector names. -/
def selected (b : Binding) (sel : Word) : List LineRef :=
  match bits sel.toNat 30 2 with
  | 0 => (List.range b.desc.m).map (fun i => ⟨false, i⟩)
  | 1 => [⟨false, bits sel.toNat 0 20⟩]
  | _ => [⟨true, bits sel.toNat 0 20⟩]

/-- PREFRESH_COMPLETE (R71). That lines with an element beyond q are refreshed at the largest number reached, all the lines that are selected at the
same one, and that a refresh of all of C counts for its columns too (R56), is the model's choice (log 64). -/
def execPrefreshComplete (id : Nat) (s : State) : Host.Outcome State Fault Refusal :=
  match s.live? id with
  | none => .next s
  | some r =>
    match r.job with
    | .prefresh slot q sc sel =>
      (match s.work r.ctx slot (fun w =>
          let w := w.settle q (s.detOf r)
          let ls := selected w.b sel
          let at_ := ls.foldl (fun m l => w.b.reach l m) (max q w.b.applied)
          let w := ls.foldl (fun w l => w.refreshFrom l at_) w
          let b := w.b
          let b : Binding := if bits sel.toNat 30 2 == 0 then { b with colCount := b.colCount.map (fun _ => 0) } else b
          ({ w with b := b } : Work).roundingPass) with
      | none => .next s
      | some s => .next (s.endSettle r sc))
    | _ => .next s

end Sys2Proof.Machine
end

