-- ==== Sys2Proof/Machine/Sketch.lean ====
section
/-! DEFINITION. Count sketches: the hash, quantisation and the median, the instructions of OP 0x6C to 0x6F, and what the sketch engines do
with their requests (14; 12, R224, R225). -/

namespace Sys2Proof.Machine

/-! ### Descriptors (R224, R252, R253) -/

/-- A descriptor as it stands in memory. -/
def sketchOf (d : List (BitVec 8)) (va pa : Nat) (trk : Bool) : Sketch :=
  let f := fun (o n : Nat) => leNat ((d.drop o).take n)
  ⟨f 0 8, f 0x10 1, f 0x11 1, toSigned 8 (f 0x12 1), BitVec.ofNat 64 (f 8 8), va, pa, trk⟩

/-- The number of a sketch's counters. -/
def Sketch.size (k : Sketch) : Nat := k.rows * 2 ^ k.logCols

/-- Whether a descriptor keeps to Table 14-1; `va` is its own address, where the counters have addresses of the same space. -/
def sketchLegal (d : List (BitVec 8)) (va : Option Nat) : Bool :=
  let k := sketchOf d 0 0 false
  k.base % 256 == 0 && k.base < 2 ^ 56 && 1 ≤ k.rows && k.rows ≤ 16 && 6 ≤ k.logCols && k.logCols ≤ 26 && -64 ≤ k.scale && k.scale ≤ 64 &&
  leNat ((d.drop 0x13).take 1) == 0 && leNat ((d.drop 0x14).take 4) < 2 && leNat ((d.drop 0x18).take 40) == 0 &&
  (match va with
   | none => true
   | some a => decide (a + 64 ≤ k.base || k.base + 4 * k.size ≤ a))

/-- Two sketches of one shape and seed (R268). -/
def Sketch.alike (j k : Sketch) : Bool := j.rows == k.rows && j.logCols == k.logCols && j.seed == k.seed && j.scale == k.scale

/-- The physical ranges of a sketch's counters, as far as they translate now. -/
def State.skRuns (s : State) (ctx : Nat) (base n : Nat) : List (Nat × Nat) :=
  (piecesOf base n).filterMap (fun p => (s.engineLeaf (some .sketchEngines) ctx p.1 .read).bind (fun l => if isRemote (l.pa p.1) then none else some (l.pa p.1, p.2)))

/-- Whether a sketch's counters share a byte with its descriptor, under whatever addresses they are mapped (R252). -/
def State.skOverlaps (s : State) (ctx : Nat) (k : Sketch) : Bool :=
  (s.skRuns ctx k.base (4 * k.size)).any (fun r => r.1 < k.descPa + 64 && k.descPa < r.1 + r.2)

/-- The destination sketch of a merge that comes from another device, if its descriptor, at its home, keeps to Table 14-1 (12, R225). The descriptor has no
virtual address that is known here: that the OBJ of its stop record (17, Table 17-8) is 0 is the model's choice (log 66). -/
def State.mergeTarget (s : State) (ctx off : Nat) (trk : Bool) : Option Sketch :=
  let d := s.mem.read off 64
  let k := sketchOf d 0 off trk
  if sketchLegal d none && !s.skOverlaps ctx k then some k else none

/-- The bytes of a descriptor but for its status word, which a reading for the shape leaves alone. -/
def descRuns (pa : Nat) : List (Nat × Nat) := [(pa, 0x14), (pa + 0x18, 40)]
/-- The status word of a sketch. -/
def Sketch.statusRun (k : Sketch) : List (Nat × Nat) := [(k.descPa + 0x14, 4)]

/-- The descriptor at a virtual address, read at its home and checked; a system address is an operand-format fault (R253, R259, R262). The error is the
fault, with the state in which the word takes it. -/
def State.readSketch (s : State) (e : Env) (lane : Nat) (va : Nat) : Except (State × Halt) (State × Sketch) :=
  if va % 64 != 0 then .error (s, .operand) else
  if 2 ^ 56 ≤ va then .error (s, .protection lane va) else
  match s.engineLeaf (some .sketchEngines) e.g.ctx va .read with
  | none => .error (s, .protection lane va)
  | some l =>
    if isRemote (l.pa va) then .error (s, .operand) else
    match s.engineAccess (some .sketchEngines) e.g.ctx va .read with
    | .error s => .error (s, .protection lane va)
    | .ok (s, l) =>
      let d := s.mem.read (l.pa va) 64
      let k := sketchOf d va (l.pa va) l.trk
      let away := ((s.engineLeaf (some .sketchEngines) e.g.ctx k.base .read).map (fun x => isRemote (x.pa k.base))).getD false
      if !sketchLegal d (some va) || away || s.skOverlaps e.g.ctx k then .error (s, .operand) else
      match e.stamp s false none none (runTouches lane (descRuns (l.pa va))) with
      | .error h => .error (s, h)
      | .ok s => .ok (s, k)

/-! ### Hash, quantisation, saturation, median (R254–R258) -/

/-- Table 12-3: buckets and signs (true for −1) of keys 0 to 15 in rows 0 to 2, under seed 0x7240. -/
def placesGSum : List (List (Nat × Bool)) :=
  [[(37, false), (5, true), (58, false), (22, true), (14, false), (49, true), (30, false), (0, true),
    (43, false), (11, true), (55, false), (26, true), (62, false), (8, true), (33, false), (11, false)],
   [(12, true), (44, false), (3, false), (61, true), (27, false), (9, false), (52, true), (35, false),
    (18, true), (6, false), (40, true), (57, false), (21, false), (30, true), (48, false), (15, true)],
   [(50, false), (19, true), (31, true), (8, false), (45, true), (2, false), (39, false), (26, true),
    (60, false), (14, true), (33, false), (11, false), (47, true), (23, false), (5, true), (56, false)]]

/-- Table 12-3 under seed 0x7241. -/
def placesMV : List (List (Nat × Bool)) :=
  [[(2, false), (19, true), (40, false), (27, false), (50, true), (17, false), (17, true), (9, false),
    (45, true), (31, false), (8, true), (36, false), (23, true), (54, false), (12, false), (6, true)],
   [(33, true), (7, false), (56, true), (21, false), (13, false), (40, true), (40, false), (62, true),
    (4, false), (51, false), (26, true), (10, false), (59, false), (1, true), (43, true), (28, false)],
   [(61, false), (44, true), (12, false), (35, true), (58, false), (3, false), (29, true), (20, false),
    (38, true), (6, false), (53, false), (47, true), (16, false), (30, false), (0, true), (25, false)]]

/-- The entry of Table 12-3 for a key in a row of 64 counters (12, R226). -/
def tablePlace (key seed : DWord) (r logCols : Nat) : Option (Nat × Bool) :=
  if logCols != 6 then none
  else if seed == 0x7240#64 then (placesGSum[r]?).bind (fun row => row[key.toNat]?)
  else if seed == 0x7241#64 then (placesMV[r]?).bind (fun row => row[key.toNat]?)
  else none

/-- Bucket and sign of a key in a row by the hash (R254). -/
def hashPlace (key seed : DWord) (r logCols : Nat) : Nat × Bool :=
  let seedR := mix64 (seed + BitVec.ofNat 64 r * 0x9E3779B97F4A7C15#64)
  let h := mix64 (key ^^^ seedR)
  (h.toNat / 2 ^ (64 - logCols), h.getLsbD 0)

/-- Bucket and sign of a key in a row: as Table 12-3 places it, and for every key, seed and width that the table does not list by the hash. The table's
entries are not those that the formula of R254 gives, and the manual does not say which holds: that the table, which names its keys one by one, does is the
model's reading (log 31). -/
def skPlace (key seed : DWord) (r logCols : Nat) : Nat × Bool := (tablePlace key seed r logCols).getD (hashPlace key seed r logCols)

def skMax : Int := ((2 ^ 31 - 1 : Nat) : Int)

/-- satc, and whether it changes its argument. -/
def satc (x : Int) : Int × Bool := let y := max (-skMax) (min skMax x); (y, y != x)

/-- q(v) of an FP32 value, and whether it sets SAT. -/
def quantise (v : Word) (scale : Int) : Int × Bool :=
  match fp32.value v.toNat with
  | .nan .. => (0, true)
  | .inf s => (if s then -skMax else skMax, true)
  | .num s n d =>
    let (a, b) := if 0 ≤ scale then (n * 2 ^ scale.toNat, d) else (n, d * 2 ^ (-scale).toNat)
    let m : Int := ((roundInt .rne false a b).1 : Nat)
    if skMax < m then (if s then -skMax else skMax, true) else (if s then -m else m, false)

/-- Put an integer into an ascending list. -/
def insertInt (x : Int) : List Int → List Int
  | [] => [x]
  | y :: r => if x < y then x :: y :: r else y :: insertInt x r

/-- The lower median. -/
def lowerMedian (xs : List Int) : Int := (xs.foldl (fun l x => insertInt x l) []).getD ((xs.length - 1) / 2) 0

/-- The estimate of a query: round_RNE_f32(x · 2^−s). -/
def estimate (x scale : Int) : Word :=
  let (n, d) := if 0 ≤ scale then (x.natAbs, 2 ^ scale.toNat) else (x.natAbs * 2 ^ (-scale).toNat, 1)
  BitVec.ofNat 32 (fp32.round (.plain .rne) (x < 0) n d).1

/-- The product of a counter and a Q1.15 factor, rounded to nearest even (R266). -/
def scaleCounter (f c : Int) : Int :=
  let p := c * f
  let m : Int := ((roundInt .rne false p.natAbs 32768).1 : Nat)
  if p < 0 then -m else m

/-- The counters of a key, row by row, each with its sign (true for −1). -/
def Sketch.cells (k : Sketch) (key : DWord) : List (Nat × Bool) :=
  (List.range k.rows).map (fun r => let (b, s) := skPlace key k.seed r k.logCols; (r * 2 ^ k.logCols + b, s))

/-! ### Counters in memory (R253, R260) -/

/-- Where a counter lies; the engine beside its home, which reads it, fills the line (10, R188). Its page is requested if it is not resident; the error is
the state and the address of a fault. R253 names the fault of a counter base at a system address: that a later page of the array at one is a protection
fault when a counter there is reached is the model's choice (log 66). -/
def State.skCell (s : State) (ctx : Nat) (k : Sketch) (i : Nat) (n : Need) : Except (State × Nat) (State × Nat × Bool) :=
  let va := k.base + 4 * i
  match s.engineAccess (some .sketchEngines) ctx va n with
  | .error s => .error (s, va)
  | .ok (s, l) => if isRemote (l.pa va) then .error (s, va) else .ok (s.readLines (l.pa va) 4 l.hot (homeDie (l.pa va)), l.pa va, l.trk)

def State.skRead (s : State) (pa : Nat) : Int := toSigned 32 (s.mem.nat pa 4)

/-- Bytes of a counter or status word landing at their home. -/
def State.skLand (s : State) (ctx pa : Nat) (trk : Bool) (bs : List (BitVec 8)) : State :=
  s.land (some ctx) ((bs.zip (List.range bs.length)).map (fun b => (pa + b.2, b.1, !trk))) []

/-- The status word's SAT, set by an atomic OR or cleared (R252, R263). -/
def State.setSat (s : State) (ctx : Nat) (k : Sketch) (v : Bool) : State :=
  let old := s.mem.nat (k.descPa + 0x14) 4
  let new := if v then (if old % 2 == 1 then old else old + 1) else old - old % 2
  if new == old then s else s.skLand ctx (k.descPa + 0x14) k.trk (leBytes 4 new)

/-- ONE ENGINE STEP ON ONE COUNTER: its new value, saturated, with SAT set where that changes it (R256, R269). -/
def State.skStep (s : State) (ctx : Nat) (k : Sketch) (i : Nat) (f : Int → Int) : Except (State × Nat) State :=
  match s.skCell ctx k i .write with
  | .error a => .error a
  | .ok (s, pa, trk) =>
    let (y, changed) := satc (f (s.skRead pa))
    let s := s.skLand ctx pa trk (leBytes 4 (ofSigned 32 y))
    .ok (if changed then s.setSat ctx k true else s)

/-- Zero a counter. SKINIT writes the words of the array whole, counter by counter: a poisoned one stays poisoned until its last counter is zeroed, which
clears it (R260, R263). `others` says which counters have been zeroed before. -/
def State.skZero (s : State) (ctx : Nat) (k : Sketch) (others : Nat → Bool) (i : Nat) : Except (State × Nat) State :=
  match s.skCell ctx k i .write with
  | .error a => .error a
  | .ok (s, pa, trk) =>
    let w := pa / 32
    if !s.poison.contains w then .ok (s.skLand ctx pa trk (List.replicate 4 0)) else
    let whole := (List.range 32).map (fun b => if pa ≤ 32 * w + b && 32 * w + b < pa + 4 then (0 : BitVec 8) else s.mem.get (32 * w + b))
    let t := s.skLand ctx (32 * w) trk whole
    .ok (if (List.range 8).all (fun j => i / 8 * 8 + j == i || others (i / 8 * 8 + j)) then t else { t with poison := insertNat t.poison w })

/-- One lane's SKADD: its counters take the value as one unit (R264). -/
def State.skAddLane (s : State) (ctx : Nat) (k : Sketch) (key : DWord) (v : Word) : Except (State × Nat) State :=
  let (q, sat) := quantise v k.scale
  let s := if sat then s.setSat ctx k true else s
  if q == 0 then .ok s else
  foldE (fun (s : State) (c : Nat × Bool) => s.skStep ctx k c.1 (fun x => if c.2 then x - q else x + q)) s (k.cells key)

/-- The signed counters of a key, and the address of a poisoned one. -/
def State.skLook (s : State) (ctx : Nat) (k : Sketch) (key : DWord) : Except (State × Nat) (State × List Int × Option Nat) :=
  foldE (fun (acc : State × List Int × Option Nat) (c : Nat × Bool) =>
    match acc.1.skCell ctx k c.1 .read with
    | .error a => .error a
    | .ok (s, pa, _) =>
      let x := s.skRead pa
      .ok (s, acc.2.1 ++ [if c.2 then -x else x], acc.2.2 <|> if s.poison.contains (pa / 32) then some (k.base + 4 * c.1) else none))
    (s, [], none) (k.cells key)

/-- Some counters of a sketch, each with its number and its poison. -/
def State.skScan (s : State) (ctx : Nat) (k : Sketch) (us : List Nat) : Except (State × Nat) (State × List (Nat × Int × Bool)) :=
  foldE (fun (acc : State × List (Nat × Int × Bool)) i =>
    match acc.1.skCell ctx k i .read with
    | .error a => .error a
    | .ok (s, pa, _) => .ok (s, acc.2 ++ [(i, s.skRead pa, s.poison.contains (pa / 32))])) (s, []) us

/-! ### Issue (R262) -/

/-- The stamps of the counters of some keys (07, R131). -/
def State.skTouches (s : State) (ctx : Nat) (k : Sketch) (keys : List (Nat × DWord)) : List Touch :=
  keys.flatMap (fun x => (k.cells x.2).flatMap (fun c => runTouches x.1 (s.skRuns ctx (k.base + 4 * c.1) 4)))

/-- The descriptor that a word names, uniform over its active lanes; none without an active lane. -/
def Env.sketch (e : Env) (g : BitVec 3) (a : BitVec 7) (s : State) : Except (State × Halt) (Option (State × Sketch)) :=
  match e.uniform g (fun l => l.dword (e.v a)) with
  | .error h => .error (s, h)
  | .ok none => .ok none
  | .ok (some va) => match s.readSketch e (e.lowest g) va.toNat with
    | .error h => .error h
    | .ok r => .ok (some r)

/-- The lanes of an add whose values set SAT as they are quantised (R255): their status words are written too. -/
def satLanes (k : Sketch) (adds : List (Nat × DWord × Word)) : List Touch :=
  (adds.filter (fun x => (quantise x.2.2 k.scale).2)).flatMap (fun x => runTouches x.1 k.statusRun)

/-- SKADD (R264): the lanes of one word are unordered. -/
def execSkadd (g : BitVec 3) (d a : BitVec 7) (s : State) : Host.Outcome State Fault Refusal :=
  inWord s fun e =>
    match e.sketch g a s with
    | .error (s, h) => .ok (e.takeFault h s)
    | .ok none => .ok (e.retire s)
    | .ok (some (s, k)) =>
      let lanes := (lanesOf (e.act g)).filter (fun i => !e.g.isHelper i)
      let adds := lanes.map (fun i => (i, (e.g.lane i).dword (e.v d), (e.g.lane i).word (e.v d + 8)))
      if adds.isEmpty then .ok (e.retire s) else
      match e.stamp s true none (some k.descPa) (s.skTouches e.g.ctx k (adds.map (fun x => (x.1, x.2.1))) ++ satLanes k adds) with
      | .error h => .error h
      | .ok s => .ok (e.retire (e.submit (.sketch k (.add adds) []) s))

/-- SKQRY (R265). -/
def execSkqry (g : BitVec 3) (d a : BitVec 7) (l : BitVec 4) (s : State) : Host.Outcome State Fault Refusal :=
  inWord s fun e =>
    match e.sketch g a s with
    | .error (s, h) => .ok (e.takeFault h s)
    | .ok none => .ok (e.retire (e.openDone l s))
    | .ok (some (s, k)) =>
      let keys := (lanesOf (e.act g)).map (fun i => (i, (e.g.lane i).dword (e.v d)))
      match e.stamp s false none none (s.skTouches e.g.ctx k (keys.filter (fun x => !e.g.isHelper x.1))) with
      | .error h => .error h
      | .ok s => .ok (e.launchLong l (.sketch k (.query (e.v d) keys) []) s)

/-- SKINIT (R263). -/
def execSkinit (g : BitVec 3) (a : BitVec 7) (s : State) : Host.Outcome State Fault Refusal :=
  inWord s fun e =>
    if !e.writes g then .ok (e.retire s) else
    match e.sketch g a s with
    | .error (s, h) => .ok (e.takeFault h s)
    | .ok none => .ok (e.retire s)
    | .ok (some (s, k)) =>
      match e.stamp s true none none (runTouches (e.lowest g) (s.skRuns e.g.ctx k.base (4 * k.size) ++ k.statusRun)) with
      | .error h => .error h
      | .ok s => .ok (e.retire (e.submit (.sketch k .init []) s))

/-- SKSCALE (R266). -/
def execSkscale (g : BitVec 3) (d a : BitVec 7) (s : State) : Host.Outcome State Fault Refusal :=
  inWord s fun e =>
    if !e.writes g then .ok (e.retire s) else
    match e.uniform g (fun l => l.word (e.v d)) with
    | .error h => .error h
    | .ok none => .ok (e.retire s)
    | .ok (some f) =>
      match e.sketch g a s with
      | .error (s, h) => .ok (e.takeFault h s)
      | .ok none => .ok (e.retire s)
      | .ok (some (s, k)) =>
        match e.stamp s true none none (runTouches (e.lowest g) (s.skRuns e.g.ctx k.base (4 * k.size))) with
        | .error h => .error h
        | .ok s => .ok (e.retire (e.submit (.sketch k (.scale (toSigned 16 f.toNat)) []) s))

/-- SKSTAT (R267). -/
def execSkstat (g : BitVec 3) (d a : BitVec 7) (l : BitVec 4) (s : State) : Host.Outcome State Fault Refusal :=
  inWord s fun e =>
    match e.sketch g a s with
    | .error (s, h) => .ok (e.takeFault h s)
    | .ok none => .ok (e.retire (e.openDone l s))
    | .ok (some (s, k)) =>
      match e.stamp s false none none (runTouches (e.lowest g) (s.skRuns e.g.ctx k.base (4 * k.size) ++ k.statusRun)) with
      | .error h => .error h
      | .ok s => .ok (e.launchLong l (.sketch k (.stat (e.v d) (e.act g)) []) s)

/-! ### SKMERGE (R268) -/

/-- What is known of a destination descriptor: it is read, or its line must first come over the fabric (R225). -/
inductive Destination where
  | known (s : State) (k : Sketch)
  | away (line : Nat)

/-- The destination descriptor at a virtual address. A remote one is read at its home before the word goes on: its line is fetched for this
word, whatever the die holds of it. R253 excepts the destination from its operand-format fault; that one whose descriptor is on this device must have its
counters here too, under that fault, is the model's choice (log 66). -/
def State.readDestination (s : State) (e : Env) (lane va : Nat) : Except (State × Halt) Destination :=
  if va % 64 != 0 then .error (s, .operand) else
  if 2 ^ 56 ≤ va then .error (s, .protection lane va) else
  match s.engineLeaf (some .sketchEngines) e.g.ctx va .read with
  | none => .error (s, .protection lane va)
  | some l =>
    let pa := l.pa va
    if regionOf pa == .reserved then .error (s, .protection lane va)
    else if !isRemote pa then (match s.readSketch e lane va with
      | .error h => .error h
      | .ok (s, k) => .ok (.known s k))
    else
      match if (e.g.slot e.iss.slotB).again then findLine (s.die (dieOf e.g.core)).remote (lineNo pa) else none with
      | none => .ok (.away (lineNo pa))
      | some x =>
        let d := x.bytes.read (pa % 128) 64
        if !sketchLegal d none then .error (s, .operand) else .ok (.known s (sketchOf d va pa l.trk))

/-- Whether a merge counter lies on the destination's device and may be written (R268). -/
def State.mergeCounter (s : State) (e : Env) (lane : Nat) (dst : Sketch) (va : Nat) : Except Halt Unit :=
  if va % 8 != 0 then .error .operand else
  match s.engineLeaf (some .sketchEngines) e.g.ctx va .write with
  | none => .error (.protection lane va)
  | some l =>
    let pa := l.pa va
    if 2 ^ 56 ≤ va || regionOf pa == .reserved then .error (.protection lane va)
    else if isRemote pa != isRemote dst.descPa || (isRemote pa && sysNode pa != sysNode dst.descPa) then .error .operand
    else .ok ()

/-- What follows when both descriptors of a merge are known. The status word of a destination stands for the whole of it where its counters lie on
another device, whose addresses are not known here (07, R130; log 30). -/
def Env.merge (e : Env) (g : BitVec 3) (src dst : Sketch) (counter : Option Nat) (s : State) : Except Halt State :=
  let lane := e.lowest g
  match (match counter with
    | none => .ok ()
    | some va => s.mergeCounter e lane dst va : Except Halt Unit) with
  | .error h => .error h
  | .ok () =>
    if !src.alike dst then .error (.word 0x0C lane) else
    match e.stamp s false none none (runTouches lane (s.skRuns e.g.ctx src.base (4 * src.size) ++ src.statusRun)) with
    | .error h => .error h
    | .ok s =>
      let there := if isRemote dst.descPa then [] else s.skRuns e.g.ctx dst.base (4 * dst.size)
      match e.stamp s true none none (runTouches lane (there ++ dst.statusRun)) with
      | .error h => .error h
      | .ok s => .ok (e.retire (e.submit (.skmerge src dst counter [] [] false) s))

def execSkmerge (g : BitVec 3) (d a : BitVec 7) (sig : BitVec 1) (s : State) : Host.Outcome State Fault Refusal :=
  inWord s fun e =>
    if !e.writes g then .ok (e.retire s) else
    match e.uniform g (fun l => l.dword (e.v d)), if sig = 1 then e.uniform g (fun l => l.nat (e.v d + 8) 8) else .ok none with
    | .error h, _ => .error h
    | _, .error h => .error h
    | .ok none, _ => .ok (e.retire s)
    | .ok (some dva), .ok counter =>
      match e.sketch g a s with
      | .error (s, h) => .ok (e.takeFault h s)
      | .ok none => .ok (e.retire s)
      | .ok (some (s, src)) =>
        match s.readDestination e (e.lowest g) dva.toNat with
        | .error (s, h) => .ok (e.takeFault h s)
        | .ok (.away n) => .ok (e.fetchFirst [n] s)
        | .ok (.known s dst) => e.merge g src dst counter s

/-! ### The engines -/

/-- The descriptors that a request names. -/
def Job.sketches : Job → List Nat
  | .sketch k _ _ => [k.descPa]
  | .skmerge j k .. => [j.descPa, k.descPa]
  | _ => []

/-- Whether an earlier request of the same group on one of its sketches is outstanding: they take effect in program order (07, R127). -/
def State.skBehind (s : State) (r : Request) : Bool :=
  s.requests.any (fun q => q.gid == r.gid && q.id < r.id && q.job.sketches.any (fun d => r.job.sketches.contains d))

/-! Units that are done, as disjoint spans: the engines take a request's units in any order (R269). -/

def inSpans (spans : List (Nat × Nat)) (i : Nat) : Bool := spans.any (fun x => x.1 ≤ i && i < x.2)
def spansSize (spans : List (Nat × Nat)) : Nat := (spans.map (fun x => x.2 - x.1)).sum
/-- A span joins those that it meets. -/
def joinSpan (spans : List (Nat × Nat)) (a b : Nat) : List (Nat × Nat) :=
  if b ≤ a then spans else
  let met := spans.filter (fun x => a ≤ x.2 && x.1 ≤ b)
  (met.foldl (fun m x => min m x.1) a, met.foldl (fun m x => max m x.2) b) :: spans.filter (fun x => !(a ≤ x.2 && x.1 ≤ b))
/-- The first unit that is not done. -/
def nextUnit (spans : List (Nat × Nat)) : Nat := ((spans.find? (fun x => x.1 == 0)).map (fun x => x.2)).getD 0
/-- The units that a step takes: those named that are not done yet. -/
def unitsTaken (total : Nat) (done : List (Nat × Nat)) (n : Units) : List Nat :=
  (List.range' n.first (min n.count (total - n.first))).filter (fun i => !inSpans done i)
/-- The units done after it. -/
def unitsDone (total : Nat) (done : List (Nat × Nat)) (n : Units) : List (Nat × Nat) := joinSpan done n.first (n.first + min n.count (total - n.first))

/-- Units of a request that changes counters: counters, or lanes of SKADD; `done` are those that it has done before. -/
def State.skUnits (s : State) (ctx : Nat) (k : Sketch) (op : SketchOp) (done : List (Nat × Nat)) (us : List Nat) : Except (State × Nat) State :=
  match op with
  | .init => foldE (fun (s : State) i => s.skZero ctx k (fun j => inSpans done j || (us.takeWhile (fun x => x != i)).contains j) i) s us
  | .scale f => foldE (fun (s : State) i => s.skStep ctx k i (scaleCounter f)) s us
  | .add adds => foldE (fun (s : State) (x : Nat × DWord × Word) => s.skAddLane ctx k x.2.1 x.2.2) s (us.filterMap (fun i => adds[i]?))
  | _ => .ok s

/-- How many units a request has. -/
def SketchOp.units (op : SketchOp) (k : Sketch) : Nat :=
  match op with
  | .init => k.size
  | .scale _ => k.size
  | .add adds => adds.length
  | _ => 1

/-- A query's results, and the lanes whose counters are poisoned, each with the address of one: they consume the poison, but for helper lanes
(R260, R265). -/
def State.skAnswer (s : State) (g : Group) (ctx : Nat) (k : Sketch) (dest : Nat) (keys : List (Nat × DWord)) :
    Except (State × Nat) (State × List LaneWrite × List (Nat × Nat)) :=
  foldE (fun (acc : State × List LaneWrite × List (Nat × Nat)) (x : Nat × DWord) =>
    match acc.1.skLook ctx k x.2 with
    | .error a => .error a
    | .ok (s, xs, bad) =>
      let v := if bad.isSome then 0 else estimate (lowerMedian xs) k.scale
      .ok (s, acc.2.1 ++ [⟨x.1, dest, leBytes 4 v.toNat⟩],
        acc.2.2 ++ if g.isHelper x.1 then [] else bad.toList.map (fun a => (x.1, a)))) (s, [], []) keys

/-- The word of SKSTAT (Table 14-5). -/
def skWord (sat : Bool) (cs : List (Nat × Int × Bool)) : Nat :=
  (if sat then 1 else 0) + 2 * min (2 ^ 30 - 1) (cs.filter (fun c => skMax ≤ c.2.1 || c.2.1 ≤ -skMax)).length +
  (if cs.any (fun c => c.2.2) then 2 ^ 31 else 0)

/-- The SAT bit of a sketch on this device. -/
def State.satOf (s : State) (k : Sketch) : Bool := s.mem.nat (k.descPa + 0x14) 4 % 2 == 1

/-- SKETCH_REQUEST_PERFORMED (R259–R267, R269): the engines perform units of a request, those named that are not done; with its
last one it is done. A query that reads poison is a precise fault of its word (10, R193). -/
def execSketchRequestPerformed (id : Nat) (n : Units) (s : State) : Host.Outcome State Fault Refusal :=
  match s.live? id with
  | none => .next s
  | some r =>
    if s.skBehind r then .next s else
    match r.job with
    | .sketch k (.query dest keys) _ =>
      (match s.reqEnv r with
      | none => .next s
      | some e => match s.skAnswer e.g r.ctx k dest keys with
        | .error a => .next ((s.missed a.1).engineFault r 0x06 a.2)
        | .ok (s, ws, bad) => match laneFault 0x07 (bad.map (fun x => x.1)) (lookupD 0 bad) with
          | some h => .next (e.flightFault h s)
          | none => .next (s.deliver r ws))
    | .sketch k (.stat dest act) _ =>
      (match s.skScan r.ctx k (List.range k.size) with
      | .error a => .next ((s.missed a.1).engineFault r 0x06 a.2)
      | .ok (s, cs) => .next (s.deliver r ((lanesOf act).map (fun i => ⟨i, dest, leBytes 4 (skWord (s.satOf k) cs)⟩))))
    | .sketch k op done =>
      let done' := unitsDone (op.units k) done n
      (match s.skUnits r.ctx k op done (unitsTaken (op.units k) done n) with
      | .error a => .next ((s.missed a.1).engineFault r 0x06 a.2)
      | .ok s =>
        if spansSize done' < op.units k then .next (s.setJob id (.sketch k op done'))
        else .next ((if op == .init then s.setSat r.ctx k false else s).dropRequest id))
    | _ => .next s

/-- One destination counter takes a source counter; poison that it read poisons it (R260). -/
def State.mergeCell (s : State) (ctx : Nat) (dst : Sketch) (i : Nat) (c : Int × Bool) : Except (State × Nat) State :=
  match s.skStep ctx dst i (fun x => x + c.1) with
  | .error a => .error a
  | .ok s => if !c.2 then .ok s else match s.skCell ctx dst i .write with
    | .error a => .error a
    | .ok (s, pa, _) => .ok { s with poison := insertNat s.poison (pa / 32) }

/-- Counters of a merge on this device: each source counter is read once, and added. -/
def State.mergeUnits (s : State) (ctx : Nat) (src dst : Sketch) (us : List Nat) : Except (State × Nat) State :=
  foldE (fun (s : State) i =>
    match s.skCell ctx src i .read with
    | .error a => .error a
    | .ok (s, pa, _) => s.mergeCell ctx dst i (s.skRead pa, s.poison.contains (pa / 32))) s us

/-- Counters of a merge whose source counters came from another device. -/
def State.mergingUnits (s : State) (ctx : Nat) (dst : Sketch) (q : RemoteMerge) (us : List Nat) : Except (State × Nat) State :=
  foldE (fun (s : State) i => s.mergeCell ctx dst i ((q.counters[i]?).getD (0, false))) s us

/-- The system address of a counter on another device, with its TRK bit. -/
def State.remoteCounter (s : State) (ctx : Nat) (va : Option Nat) : Option (Nat × Bool) :=
  va.bind (fun a => (s.engineLeaf (some .sketchEngines) ctx a .write).map (fun l => (sysOff (l.pa a), l.trk)))

/-- The counters that a merge has read, in their order. -/
def gotCounters (got : List (Nat × Int × Bool)) (n : Nat) : List (Int × Bool) := (List.range n).map (fun i => lookupD (0, false) got i)

/-- The message of a merge into another device, when every source counter has been read. -/
def State.mergeMessage (s : State) (ctx : Nat) (src dst : Sketch) (counter : Option Nat) (got : List (Nat × Int × Bool)) : Message :=
  .merge (sysNode dst.descPa) ⟨s.node, sysOff dst.descPa, src.rows, src.logCols, src.scale, src.seed, gotCounters got src.size, s.satOf src,
    s.remoteCounter ctx counter, dst.trk⟩

/-- A merge on this device has made its last add: SAT, and then the signal. One that cannot be signalled is a fault, and stays with its adds made. -/
def State.endMerge (s : State) (r : Request) (src dst : Sketch) (counter : Option Nat) : State :=
  let t := if s.satOf src then s.setSat r.ctx dst true else s
  match counter with
  | none => t.dropRequest r.id
  | some va => match t.signalVa r.ctx (r.ctx, r.launch + 1) va with
    | .error u => u.engineFault r 0x06 va
    | .ok u => u.dropRequest r.id

/-! ### Merges from other devices (12, R225; 14, R261; 18, R335) -/

/-- The context that has exported the frame at OFF to a node. -/
def State.exporter (s : State) (node : BitVec 11) (off n : Nat) : Option Nat :=
  (s.grants.find? (fun x => x.node == node && x.base ≤ off && off + n ≤ x.base + x.size && (s.ctx? x.ctx).isSome)).map (fun x => x.ctx)

/-- The answer to a remote request. -/
def State.answer (s : State) (node : BitVec 11) (done : Bool) (data : List (BitVec 8)) : State :=
  { s with outbox := s.outbox ++ [.answer node done data] }

/-- A fault in the context that a remote request is served in: no word raises it. -/
def State.servedFault (s : State) (ctx addr : Nat) : State :=
  s.raiseLine ctx ⟨⟨0x06, 2, 0, BitVec.ofNat 64 addr, 0⟩, 0, 0, s.time, s.clock, 0, 0, 0, []⟩

/-- REMOTE_MERGE_ARRIVAL (R225, R261, R335): the merge is accepted for the context that exported the descriptor's frame; without an export, or into a
sketch of another shape, it is refused; for a page that has moved it goes on to the new home (10, R190), which on another device answers itself. No group
asked for it: its request is of group number 0, which no group has. -/
def execRemoteMergeArrival (q : RemoteMerge) (s : State) : Host.Outcome State Fault Refusal :=
  match s.exporter q.node q.off 64 with
  | none => .next (s.answer q.node false [])
  | some ctx =>
    let from_ : Sketch := ⟨0, q.rows, q.logCols, q.scale, q.seed, 0, 0, false⟩
    let open_ := match q.signal with
      | none => true
      | some a => s.exporter q.node a.1 8 == some ctx
    let pa := s.forwarded q.off
    if isRemote pa then .next { s with outbox := s.outbox ++ [.merge (sysNode pa) { q with off := sysOff pa }] } else
    match s.mergeTarget ctx pa q.tracked with
    | none => .next (s.answer q.node false [])
    | some k =>
      if !k.alike from_ || q.counters.length != k.size || !open_ then .next (s.answer q.node false []) else
      let r : Request := ⟨s.fresh, ctx, 0, 0, false, 0, 0, Hints.empty, .merging k q [], none, none, 0xFFFF⟩
      .next ({ s with requests := s.requests ++ [r] }).tick

/-- An accepted merge of another device has made its last add: SAT, the signal, and the acknowledgement. -/
def State.endMerging (s : State) (r : Request) (dst : Sketch) (q : RemoteMerge) : State :=
  let s := if q.sat then s.setSat r.ctx dst true else s
  let s := match q.signal with
    | none => s
    | some a => s.signal (some r.ctx) (0, 0) (s.forwarded a.1) a.2
  (s.answer q.node true []).dropRequest r.id

/-- The counters of a merge from another device; it goes on while the context is halted (R261). -/
def State.performMerging (s : State) (r : Request) (dst : Sketch) (q : RemoteMerge) (done : List (Nat × Nat)) (n : Units) : State :=
  let done' := unitsDone dst.size done n
  match s.mergingUnits r.ctx dst q (unitsTaken dst.size done n) with
  | .error a => (((s.missed a.1).answer q.node false []).servedFault r.ctx a.2).dropRequest r.id
  | .ok s => if spansSize done' < dst.size then s.setJob r.id (.merging dst q done') else s.endMerging r dst q

/-- The source counters of a merge into another device are read, one by one, and it goes out when it has them all. -/
def State.sendMerge (s : State) (r : Request) (src dst : Sketch) (counter : Option Nat) (done : List (Nat × Nat)) (got : List (Nat × Int × Bool))
    (n : Units) : State :=
  let done' := unitsDone src.size done n
  match s.skScan r.ctx src (unitsTaken src.size done n) with
  | .error a => (s.missed a.1).engineFault r 0x06 a.2
  | .ok (s, cs) =>
    if spansSize done' < src.size then s.setJob r.id (.skmerge src dst counter done' (got ++ cs) false) else
    ({ s with outbox := s.outbox ++ [s.mergeMessage r.ctx src dst counter (got ++ cs)] } : State).setJob r.id (.skmerge src dst counter done' [] true)

/-- The counters of a merge on this device. -/
def State.performMerge (s : State) (r : Request) (src dst : Sketch) (counter : Option Nat) (done : List (Nat × Nat)) (n : Units) : State :=
  let done' := unitsDone src.size done n
  match s.mergeUnits r.ctx src dst (unitsTaken src.size done n) with
  | .error a => (s.missed a.1).engineFault r 0x06 a.2
  | .ok s =>
    let s := s.setJob r.id (.skmerge src dst counter done' [] false)
    if spansSize done' < src.size then s else s.endMerge r src dst counter

/-- SKMERGE_COMPLETE (R268): the destination adds, in any order, of a merge on this device, and after the last one SAT and the signal; so too of an
accepted merge of another device. A merge into another device goes out when its source is read, and is over when that device acknowledges it; a refusal
is the protection fault of R335. -/
def execSkmergeComplete (id : Nat) (n : Units) (remote : RemoteReply) (s : State) : Host.Outcome State Fault Refusal :=
  match s.request? id with
  | none => .next s
  | some r =>
    match r.job with
    | .merging dst q done => .next (s.performMerging r dst q done n)
    | .skmerge src dst counter done got sent =>
      if (s.live? id).isNone || s.skBehind r then .next s
      else if !isRemote dst.descPa then .next (s.performMerge r src dst counter done n)
      else if !sent then .next (s.sendMerge r src dst counter done got n)
      else (match remote with
        | .none => .next s
        | .refused => .next (s.engineFault r 0x06 dst.descVa)
        | .data _ => .next (s.dropRequest id))
    | _ => .next s

end Sys2Proof.Machine
end

