-- ==== Sys2Proof/Machine/Hints.lean ====
section
/-! DEFINITION. The hint words, OP 0x7C to 0x7F (03, R33–R36; 06, R86, R89; 17, R327). -/

namespace Sys2Proof.Machine

/-- A hint joins a run that may begin with it; a second of its kind spoils the run (R34). -/
def Hints.add (h : Hints) (pc : DWord) (second : Bool) (put : Hints → Hints) : Hints :=
  let h := put h
  { h with count := h.count + 1, bad := h.bad || second, start := some (h.start.getD pc) }

/-- A word of OP 0x7C to 0x7F that is no hint of Table 3-3 joins the run as a reserved payload: the fault is its consumer's (R34). -/
def Hints.spoil (h : Hints) (pc : DWord) : Hints := h.add pc true (fun h => h)

/-- The run after a hint word; none for another word. -/
def Hints.take (h : Hints) (pc : DWord) (i : Instr) : Option Hints :=
  match i with
  | .himm p v => some (h.add pc h.himm.isSome (fun h => { h with himm := some (p == 1, v) }))
  | .hoff o => some (h.add pc h.hoff.isSome (fun h => { h with hoff := some o }))
  | .hivl m => some (h.add pc h.hivl.isSome (fun h => { h with hivl := some m }))
  | .hgrd v n p => some (h.add pc h.hgrd.isSome (fun h => { h with hgrd := some (v == 1, n == 1, p) }))
  | .hsem s c => some (h.add pc h.hsem.isSome (fun h => { h with hsem := some (s == 1, c) }))
  | .hrnd m => some (h.add pc h.hrnd.isSome (fun h => { h with hrnd := some m }))
  | .hsat s r t => some (h.add pc h.hsat.isSome (fun h => { h with hsat := some (t == 1, r == 1, s) }))
  | .hdet => some (h.add pc h.hdet (fun h => { h with hdet := true }))
  | _ => none

/-- The slot holds a run and goes on to the word after the hint; it keeps the group's issue until the consumer issues (06, R86), unless its path
arrived at its join, where a run is discarded (R34). -/
def Group.hold (g : Group) (b : Bool) (h : Hints) (pc : DWord) : Group :=
  let x := g.slot b
  let g := (g.setSlot b { x with path := x.path.map (fun p => { p with pc := pc }), hints := h, again := false }).arriveTest b
  { g with keep := if (g.slot b).hints.count = 0 then none else some b }

/-- A hint is held. -/
def Env.hold (e : Env) (h : Hints) (s : State) : State :=
  { s.updGroup e.g.gid (fun g => g.hold e.iss.slotB h (e.iss.pc + 4)) with issue := none }

/-- A hint word: its slot holds it, and nothing else changes (R34). -/
def holdHint (i : Instr) (s : State) : Host.Outcome State Fault Refusal :=
  inWord s fun e => .ok (match e.hints.take e.iss.pc i with
    | some h => e.hold h s
    | none => s)

def execHimm (p : BitVec 1) (i : BitVec 24) (s : State) : Host.Outcome State Fault Refusal := holdHint (.himm p i) s
def execHoff (o : BitVec 20) (s : State) : Host.Outcome State Fault Refusal := holdHint (.hoff o) s
def execHgrd (v n : BitVec 1) (p : BitVec 4) (s : State) : Host.Outcome State Fault Refusal := holdHint (.hgrd v n p) s
def execHsem (y : BitVec 1) (c : BitVec 2) (s : State) : Host.Outcome State Fault Refusal := holdHint (.hsem y c) s
def execHrnd (m : BitVec 3) (s : State) : Host.Outcome State Fault Refusal := holdHint (.hrnd m) s
def execHsat (d : BitVec 16) (r t : BitVec 1) (s : State) : Host.Outcome State Fault Refusal := holdHint (.hsat d r t) s
def execHdet (s : State) : Host.Outcome State Fault Refusal := holdHint .hdet s

/-! ### HIVL (06, R89; 17, R327) -/

/-- The register bytes of a tag. -/
def Tag.span (t : Tag) : RegSpan := ⟨t.off, if t.pair then 8 else 4⟩

/-- The chunks below a register budget. -/
def budgetChunks (regs : Nat) : BitVec 16 := BitVec.ofNat 16 (2 ^ (regs / 64) - 1)

/-- The device may drop each register with a live tag; whether it does is open (R327). No program can tell but by timing: every read of a dropped
register is of the replayed value, and after a write of some of its bytes, which releases the tag without a replay, the others are what they were
(log 57). -/
def Group.mayDrop (g : Group) (s : State) : Group :=
  { g with tags := g.tags.map (fun t => if choose s t.off 2 = 0 then t else { t with dropped := true }) }

/-- HIVL: the previous interval ends, the chunks of the next are marked, and registers with a live tag may be dropped. -/
def execHivl (m : BitVec 16) (s : State) : Host.Outcome State Fault Refusal :=
  inWord s fun e => .ok (match e.hints.take e.iss.pc (.hivl m) with
    | some h =>
      let mark := fun (g : Group) => { g.mayDrop s with marked := m &&& budgetChunks (e.g.regs e.k) }
      (e.hold h (s.updGroup e.g.gid mark)).tick
    | none => s)

end Sys2Proof.Machine
end

