-- ==== Sys2Proof/Machine/Recipe.lean ====
section
/-! DEFINITION. Recipes and tags: RTAG and RUNTAG, OP 0x70 and 0x71, replays, and the fast file (17, R324–R328; 02, R19; 06, R89, R106). -/

namespace Sys2Proof.Machine

/-! ### Recipe bodies (02, R19; 18, Table 18-9) -/

def Kernel.recipe? (k : Kernel) (n : Nat) : Option Recipe := k.recipes.find? (fun r => r.k == n)

/-- The register bytes of a recipe's target. -/
def Recipe.span (k : Kernel) (r : Recipe) : RegSpan := ⟨k.vwv + 4 * r.target, if r.pair then 8 else 4⟩

/-- The instruction that a word of a body is, if it is one. -/
def bodyInstr (w : Word) : Option Instr :=
  match decodeWf w with
  | .ok i => some i
  | .error _ => none

/-- A word of a body with the hints that stand before it. -/
structure BodyWord where
  hints : Hints
  word : Word
  instr : Option Instr
  deriving DecidableEq, Repr

/-- The words of a body that are no hints, each with its run; the flag says that hints are left without a consumer. -/
def bodyWords : Hints → List (Word × Word) → List BodyWord × Bool
  | h, [] => ([], h.count != 0)
  | h, (hw, w) :: r =>
    let h := if hw = 0 then h else ((bodyInstr hw).bind (h.take 0)).getD (h.spoil 0)
    match (bodyInstr w).bind (h.take 0) with
    | some h => bodyWords h r
    | none => let (ws, x) := bodyWords Hints.empty r; (⟨h, w, bodyInstr w⟩ :: ws, x)

def Recipe.words (r : Recipe) : List BodyWord := (bodyWords Hints.empty r.lines).1

def BodyWord.reads (k : Kernel) (w : BodyWord) : List RegSpan := match w.instr with | some i => (spans k w.hints 0 i).1 | none => []
def BodyWord.writes (k : Kernel) (w : BodyWord) : List RegSpan := match w.instr with | some i => (spans k w.hints 0 i).2 | none => []

/-- Whether a byte lies in a range. -/
def RegSpan.has (p : RegSpan) (b : Nat) : Bool := p.off ≤ b && b < p.off + p.size

/-- Whether a range meets the sources of a recipe: the bytes that its body reads, but for the target's (R324). -/
def Recipe.uses (k : Kernel) (r : Recipe) (p : RegSpan) : Bool :=
  (List.range p.size).any (fun j => !(r.span k).has (p.off + j) && r.words.any (fun w => (w.reads k).any (fun q => q.has (p.off + j))))

/-- The special registers that a recipe may read (Table 2-6). -/
def launchConstant (m : Nat) : Bool := m ≤ 0x0C || (0x1C ≤ m && m ≤ 0x1E)

/-- The words that a recipe may hold (R19): integer and address arithmetic, MOVI, SMOV of a launch-constant register, LDC. -/
def BodyWord.allowed (w : BodyWord) : Bool :=
  match w.instr with
  | none => false
  | some (.smov _ _ m) => launchConstant m.toNat
  | some (.ldc ..) => true
  | some _ => opOf w.word ≤ 0x1D

/-- No word reads a byte of the target before it is written, and none writes outside it (R19, R324). -/
def bodyOrdered (k : Kernel) (t : RegSpan) : List RegSpan → List BodyWord → Bool
  | _, [] => true
  | done, w :: r =>
    (w.reads k).all (fun q => (List.range q.size).all (fun j => !t.has (q.off + j) || done.any (fun d => d.has (q.off + j)))) &&
    (w.writes k).all (fun q => (List.range q.size).all (fun j => t.has (q.off + j))) &&
    bodyOrdered k t (w.writes k ++ done) r

/-- What load image checks of a recipe (R19, Table 18-9). -/
def Recipe.legal (k : Kernel) (r : Recipe) : Bool :=
  r.k < 32 && r.target < 128 && (!r.pair || r.target % 2 == 0) && 1 ≤ r.lines.length && r.lines.length ≤ 4 &&
  r.lines.all (fun l => l.1 = 0 || opOf l.1 == 0x7C) && r.lines.all (fun l => opOf l.2 != 0x7C) &&
  !(bodyWords Hints.empty r.lines).2 && r.words.all BodyWord.allowed && bodyOrdered k (r.span k) [] r.words

/-! ### Replays (R327, R328) -/

/-- Why a replay does not come about: a word of the body faults with a cause, or lines of another device must be fetched first. -/
inductive ReplayStop where
  | fault (cause : Nat)
  | lines (ls : List Nat)
  deriving DecidableEq, Repr

/-- The meaning of a word that a recipe may hold. -/
def runBody (i : Instr) (s : State) : Host.Outcome State Fault Refusal :=
  match i with
  | .iaddR g d a b x => execIaddR g d a b x s
  | .iaddI g d a i => execIaddI g d a i s
  | .isub g d a b x => execIsub g d a b x s
  | .iadd64 g d a b x => execIadd64 g d a b x s
  | .imulR g d a b x => execImulR g d a b x s
  | .imulI g d a i => execImulI g d a i s
  | .imulh g d a b x => execImulh g d a b x s
  | .imad g d a b x => execImad g d a b x s
  | .imadw g d a b x => execImadw g d a b x s
  | .imin g d a b x => execImin g d a b x s
  | .imax g d a b x => execImax g d a b x s
  | .iabs g d a => execIabs g d a s
  | .ineg g d a => execIneg g d a s
  | .notW g d a => execNotW g d a s
  | .popc g d a => execPopc g d a s
  | .clz g d a => execClz g d a s
  | .brev g d a => execBrev g d a s
  | .mov g d a => execMov g d a s
  | .shlR g d a b x => execShlR g d a b x s
  | .shlI g d a n => execShlI g d a n s
  | .shrR g d a b x => execShrR g d a b x s
  | .shrNI g d a n => execShrNI g d a n s
  | .shrSI g d a n => execShrSI g d a n s
  | .rot g d a b x => execRot g d a b x s
  | .andR g d a b x => execAndR g d a b x s
  | .andI g d a i => execAndI g d a i s
  | .orR g d a b x => execOrR g d a b x s
  | .orI g d a i => execOrI g d a i s
  | .xorR g d a b x => execXorR g d a b x s
  | .xorI g d a i => execXorI g d a i s
  | .lut3 g d a b => execLut3 g d a b s
  | .bfx g d a b x => execBfx g d a b x s
  | .bfi g d a b x => execBfi g d a b x s
  | .leaX1X2 g d a b k => execLeaX1X2 g d a b k s
  | .leaX4X8 g d a b k => execLeaX4X8 g d a b k s
  | .movi g d i => execMovi g d i s
  | .smov g d m => execSmov g d m s
  | .ldc g t a l w => execLdc g t a l w s
  | _ => .next s

/-- The registers that a word of a body has left in its group, with the bytes that it loads; NR stays as it was. -/
def bodyLanes (old new : Group) (loads : List LaneWrite) : List Lane :=
  ((new.writes loads).lanes.zip old.lanes).map (fun x => { x.1 with nr := x.2.nr })

/-- One word of a body, in every existing lane of the group that has not exited, whatever lanes the reading word has active (R327). It issues
no word, and its loads are complete at once. -/
def State.replayWord (s : State) (k : Kernel) (gid : Nat) (w : BodyWord) : Except ReplayStop State :=
  match s.group? gid, w.instr with
  | some old, some i =>
    if !hintsLegal w.hints w.word then .error (.fault 0x01)
    else if (w.reads k ++ w.writes k).any (fun p => old.regs k < p.off + p.size) then .error (.fault 0x03)
    else
      let path : Path := ⟨BitVec.ofNat 64 k.codeBase, old.live, none, []⟩
      let bare : Group := { old with a := Slot.ofPath path, b := Slot.free, jr := none, stack := [], windows := [], fault := none }
      let iss : Issue := ⟨gid, false, path.pc, w.word, w.hints, false, 0, 0, none, [], [], none⟩
      (match runBody i { s.setGroup bare with issue := some iss, requests := [] } with
      | .next t =>
        (match t.group? gid with
        | none => .ok s
        | some new =>
          match new.fault, t.requests with
          | some h, _ => .error (.fault h.cause)
          | none, [r] =>
            (match r.job with
            | .fetch ls => .error (.lines ls)
            | .load ws _ _ _ => .ok { t with groups := (s.updGroup gid (fun g => { g with lanes := bodyLanes old new ws })).groups,
                                             requests := s.requests, contexts := s.contexts, issue := s.issue }
            | _ => .ok s)
          | none, _ => .ok { t with groups := (s.updGroup gid (fun g => { g with lanes := bodyLanes old new [] })).groups,
                                    requests := s.requests, contexts := s.contexts, issue := s.issue })
      | _ => .ok s)
  | _, _ => .error (.fault 0x01)

/-- A register is materialised: a dropped tagged source is replayed first, then the body runs, and the value stands until the register is
dropped again. The fuel bounds the chain of sources. -/
def State.replay : Nat → State → Kernel → Nat → Tag → Except ReplayStop State
  | 0, s, _, _, _ => .ok s
  | n + 1, s, k, gid, t =>
    match k.recipe? t.recipe, s.group? gid with
    | some r, some g =>
      (match foldE (fun (s : State) u => State.replay n s k gid u) s (g.tags.filter (fun u => u.dropped && u != t && r.uses k u.span)) with
      | .error x => .error x
      | .ok s => match foldE (fun (s : State) w => s.replayWord k gid w) s r.words with
        | .error x => .error x
        | .ok s => .ok (s.updGroup gid (fun g => { g with tags := mapWhere (fun u => u.off == t.off) (fun u => { u with dropped := false, asked := none }) g.tags })))
    | _, _ => .ok s

/-! ### Reads and writes of tagged registers (R327, R106) -/

/-- Whether ranges meet a tag's register. -/
def Tag.metBy (t : Tag) (ps : List RegSpan) : Bool := ps.any (fun p => p.meets t.span)

/-- Whether ranges meet a source of a tag's recipe. -/
def Tag.fedBy (t : Tag) (k : Kernel) (ps : List RegSpan) : Bool :=
  match k.recipe? t.recipe with
  | some r => ps.any (r.uses k)
  | none => false

/-- The dropped registers of a group that must be replayed before a word that reads and writes these bytes: those that it reads, and those
with a source that it writes. -/
def Group.toReplay (g : Group) (k : Kernel) (reads writes : List RegSpan) : List Tag :=
  g.tags.filter (fun t => t.dropped && (t.metBy reads || t.fedBy k writes))

/-- The tags that a write releases: of a register that it writes, and of one with a source that it writes. -/
def Group.release (g : Group) (k : Kernel) (writes : List RegSpan) : Group :=
  { g with tags := g.tags.filter (fun t => !(t.metBy writes || t.fedBy k writes)) }

/-! ### RTAG and RUNTAG (R325, R326) -/

/-- A chain deeper than two: a source is tagged with a recipe that itself has a tagged source. -/
def Recipe.tooDeep (k : Kernel) (r : Recipe) (tags : List Tag) : Bool :=
  tags.any (fun t => r.uses k t.span && (match k.recipe? t.recipe with
    | some q => tags.any (fun u => q.uses k u.span)
    | none => false))

def execRtag (g : BitVec 3) (d : BitVec 7) (n : BitVec 5) (p : BitVec 1) (s : State) : Host.Outcome State Fault Refusal :=
  inWord s fun e =>
    if e.g.isHandler then .error .illegal
    else if e.act g = 0 then .ok (e.retire s)
    else match e.k.recipe? n.toNat with
      | none => .error .operand
      | some r =>
        let others := e.g.tags.filter (fun t => !t.span.meets (r.span e.k))
        if r.target != d.toNat || r.pair != (p == 1) || 32 ≤ others.length || r.tooDeep e.k others then .error .operand
        else .ok (e.retire (s.updGroup e.g.gid (fun g => { g with tags := others ++ [⟨(r.span e.k).off, r.pair, r.k, false, none⟩] })))

def execRuntag (g : BitVec 3) (d : BitVec 7) (p : BitVec 1) (s : State) : Host.Outcome State Fault Refusal :=
  inWord s fun e =>
    if e.g.isHandler then .error .illegal
    else if e.act g = 0 then .ok (e.retire s)
    else .ok (e.retire (s.updGroup e.g.gid (fun x => { x with tags := x.tags.filter (fun t => !t.metBy [vspan e.k d (if p = 1 then 2 else 1)]) })))

/-! ### The fast file (06, R89) -/

/-- The chunks that resident groups of a sub-core, but one group, hold in its fast file: group and chunk. -/
def State.fastOthers (s : State) (core sub gid : Nat) : List (Nat × Nat) :=
  (s.groups.filter (fun x => x.resident && x.core == core && x.sub == sub && x.gid != gid)).flatMap (fun x =>
    ((List.range 16).filter (fun c => x.fast.getLsbD c)).map (fun c => (x.gid, c)))

/-- Chunks leave the fast file. -/
def State.dropFast (s : State) (out : List (Nat × Nat)) : State :=
  { s with groups := s.groups.map (fun x => { x with fast := (out.filter (fun y => y.1 == x.gid)).foldl (fun f y => f &&& ~~~ (1#16 <<< y.2)) x.fast }) }

/-- FAST_FILE_CHUNK_FILL: a chunk of a group arrives in its sub-core's fast file of 64 KiB, which holds 32 chunks of 32 lanes (00, R1). Which chunks of
other groups leave to make room is open; with none left over, one of them does. -/
def execFastFileChunkFill (gid chunk : Nat) (evict : List (Nat × Nat)) (s : State) : Host.Outcome State Fault Refusal :=
  match s.group? gid with
  | none => .next s
  | some g =>
    match s.kernelOf g.ctx g.launch with
    | none => .next s
    | some k =>
      if !g.resident || !(budgetChunks (g.regs k)).getLsbD chunk || !evict.all (fun x => x.1 != gid) then .next s else
      let others := s.fastOthers g.core g.sub gid
      let t := s.dropFast (evict.filter (fun x => others.contains x))
      let left := t.fastOthers g.core g.sub gid
      let own := (List.range 16).filter (fun c => c != chunk && g.fast.getLsbD c)
      let t := if left.length + own.length < 32 then t else (t.dropFast ((left[choose s 0 (max 1 left.length)]?).toList)).tick
      .next (t.updGroup gid (fun x => { x with fast := x.fast ||| (1#16 <<< chunk) }))

end Sys2Proof.Machine
end

