-- ==== Sys2Proof/Machine/Trap.lean ====
section
/-! DEFINITION. Lane traps and their handlers: TRAP, BKPT, HRD, HWR and ERET, OP 0x72 to 0x75; handler groups, and the return to an origin slot
(17, R307–R316). -/

namespace Sys2Proof.Machine

/-! ### TRAP and BKPT (R316) -/

/-- Every active lane that is no helper lane traps with a cause and the code. -/
def softTrap (cause : Nat) (g : BitVec 3) (n : BitVec 7) (s : State) : Host.Outcome State Fault Refusal :=
  inWord s fun e =>
    if e.g.isHandler then .error .illegal else
    let lanes := (lanesOf (e.eff g)).filter (fun i => !e.g.isHelper i)
    .ok (e.trapOr (lanes.map (fun i => ⟨i, cause, n.toNat, 0, []⟩)) g none e.retire s)

def execTrap (g : BitVec 3) (n : BitVec 7) (s : State) : Host.Outcome State Fault Refusal := softTrap 6 g n s
def execBkpt (g : BitVec 3) (n : BitVec 7) (s : State) : Host.Outcome State Fault Refusal := softTrap 7 g n s

/-! ### The origin lane space (R314, Table 17-3) -/

/-- An origin lane: its group, and the word at which it stopped. -/
def State.originLane (s : State) (o : Origin) : Option (Group × TrapWord) :=
  (s.group? o.gid).bind (fun og => (og.trapWord o.lane).map (fun t => (og, t)))

/-- Which fault an access of `n` bytes at an offset is: register range, or protection for a write of a read-only word. -/
def originFault (budget off n : Nat) (write : Bool) : Option Nat :=
  if off % n != 0 || (budget ≤ off && off < 0x400) || 0x460 ≤ off then some 0x03
  else if write && off + n > 0x40C && 0x400 ≤ off && !(0x420 ≤ off && off + n ≤ 0x440) then some 0x06
  else none

/-- One word of the space above the registers. -/
def originWord (og : Group) (t : TrapWord) (lane off : Nat) : Nat :=
  let l := og.lane lane
  if off == 0x400 then l.preds.toNat
  else if off == 0x404 then l.fflags.toNat
  else if off == 0x408 then (if l.nr then 1 else 0)
  else if off == 0x40C then og.frnd.toNat
  else if off == 0x410 then og.ftrap.toNat
  else if off == 0x414 then (((t.flags.find? (fun (f : Nat × BitVec 7) => f.1 == lane)).map (fun (f : Nat × BitVec 7) => f.2)).getD 0).toNat
  else if off == 0x418 then t.word.toNat
  else if 0x420 ≤ off && off < 0x440 then ((l.rowExp.getD ((off - 0x420) / 4) exaEmpty).signExtend 32).toNat
  else 0

/-- The bytes that HRD reads, with their poison. -/
def originRead (og : Group) (t : TrapWord) (lane off n : Nat) : List (BitVec 8) × Bool :=
  if off < 0x400 then ((og.lane lane).bytes off n, (og.lane lane).poisoned off n)
  else (leBytes 4 (originWord og t lane off) ++ (if n == 8 then leBytes 4 (originWord og t lane (off + 4)) else []), false)

/-- Write one word of the space above the registers. -/
def writeOriginWord (l : Lane) (off v : Nat) : Lane :=
  if off == 0x400 then { l with preds := BitVec.ofNat 12 v }
  else if off == 0x404 then { l with fflags := BitVec.ofNat 7 v }
  else if off == 0x408 then { l with nr := v % 2 == 1 }
  else { l with rowExp := setNth l.rowExp ((off - 0x420) / 4) (BitVec.ofNat 16 v) }

/-- Write bytes into the origin lane space; a register write releases tags as a word of the origin would. -/
def originWrite (k : Kernel) (og : Group) (lane off : Nat) (bs : List (BitVec 8)) : Group :=
  if off < 0x400 then (og.release k [⟨off, bs.length⟩]).updLane lane (fun l => l.put off bs)
  else og.updLane lane (fun l =>
    let l := writeOriginWord l off (leNat (bs.take 4))
    if bs.length == 8 then writeOriginWord l (off + 4) (leNat (bs.drop 4)) else l)

/-- A handler lane's access: the lane, its origin, where that stands, and the offset in vA. -/
def Env.originAccesses (e : Env) (g : BitVec 3) (a : BitVec 7) (s : State) : List (Nat × Origin × Group × TrapWord × Nat) :=
  (lanesOf (e.act g)).filterMap (fun i =>
    match e.g.origins.bind (fun os => os[i]?) with
    | none => none
    | some o => (s.originLane o).map (fun x => (i, o, x.1, x.2, ((e.g.lane i).word (e.v a)).toNat)))

/-- The fault of a word among its accesses: the first cause, in every lane that has it. -/
def originFaults (budget n : Nat) (write : Bool) (xs : List (Nat × Origin × Group × TrapWord × Nat)) : Option Halt :=
  let cause := fun (x : Nat × Origin × Group × TrapWord × Nat) => originFault budget x.2.2.2.2 n write
  (xs.findSome? cause).map (fun c => Halt.lanes c (maskOf ((xs.filter (fun x => cause x == some c)).map (fun x => x.1))))

def execHrd (g : BitVec 3) (d a : BitVec 7) (l : BitVec 4) (w : BitVec 1) (s : State) : Host.Outcome State Fault Refusal :=
  inWord s fun e =>
    if !e.g.isHandler then .error .illegal else
    let n := if w = 1 then 8 else 4
    let xs := e.originAccesses g a s
    match originFaults e.k.regs n false xs with
    | some h => .error h
    | none =>
      let got := xs.map (fun x => (x.1, originRead x.2.2.1 x.2.2.2.1 x.2.1.lane x.2.2.2.2 n))
      let bad := (got.filter (fun x => x.2.2)).map (fun x => x.1)
      if !bad.isEmpty then .error (.lanes 0x07 (maskOf bad)) else .ok (e.launchLong l (.load (got.map (fun x => ⟨x.1, e.v d, x.2.1⟩)) [] [] none) s)

def execHwr (g : BitVec 3) (d a : BitVec 7) (w : BitVec 1) (s : State) : Host.Outcome State Fault Refusal :=
  inWord s fun e =>
    if !e.g.isHandler then .error .illegal else
    let n := if w = 1 then 8 else 4
    let xs := e.originAccesses g a s
    match originFaults e.k.regs n true xs with
    | some h => .error h
    | none => .ok (e.retire (xs.foldl (fun s x =>
        s.updGroup x.2.1.gid (fun og => originWrite e.k og x.2.1.lane x.2.2.2.2 ((e.g.lane x.1).bytes (e.v d) n))) s))

/-! ### ERET (R312, R315) -/

/-- The register bytes of a word's destination in a lane that take the value of ERET.c, byte b the byte (b mod 8) of it, counted from the
lowest. -/
def completeBytes (dest : List RegSpan) (v : List (BitVec 8)) (l : Lane) : Lane :=
  let low := (dest.map (fun p => p.off)).foldl min 1024
  dest.foldl (fun l p => l.put p.off ((List.range p.size).map (fun j => v.getD ((p.off + j - low) % 8) 0))) l

/-- The predicate that a trapping word writes: FCMP's. -/
def predDest : Option Instr → Option (BitVec 4)
  | some (.fcmpF32 _ p _ _ _) => some p
  | some (.fcmpF64 _ p _ _ _) => some p
  | some (.fcmpF16 _ p _ _ _) => some p
  | _ => none

/-- The tile of an MDRAIN, as its descriptor reads now. -/
def State.peekTile (s : State) (ctx va : Nat) : TileDesc :=
  match s.engineLeaf (some .matrixEngine) ctx va .read with
  | some l => tileDescOf (s.mem.read (l.pa va) 64)
  | none => tileDescOf []

/-- The row that a completed MDRAIN lane lands: each element takes the low bytes of the value, in its width. -/
def drainRow (t : TileDesc) (code lane : Nat) (v : List (BitVec 8)) : RowBytes :=
  ⟨t.base + lane * t.pitch, marked false ((List.range t.n).flatMap (fun _ => v.take (codeWidth code / 8)))⟩

/-- The register bytes that a trapping word would have written in a lane. -/
def TrapWord.destOf (t : TrapWord) (lane : Nat) : List RegSpan := ((t.dests.find? (fun d => d.1 == lane)).map (fun d => d.2)).getD []

/-- The trapping word is complete in an origin lane, with the supplied value (R315); tags are released as by its write (R327). The error is the operand-format fault of MDRAIN's format
codes 3 to 5. -/
def State.completeLane (s : State) (o : Origin) (v : List (BitVec 8)) : Except Halt State :=
  match s.originLane o with
  | none => .ok s
  | some (og, t) =>
    match bodyInstr t.word with
    | some (.mdrain _ _ a f _) =>
      if 3 ≤ f.toNat && f.toNat ≤ 5 then .error .operand else
      let i := (lanesOf t.act).headD 0
      (match s.kernelOf og.ctx og.launch with
      | none => .ok s
      | some k =>
        let va := (og.lane i).nat (vspan k a 2).off 8
        let tile := s.peekTile og.ctx va
        let r : Request := ⟨s.fresh, og.ctx, og.launch, o.gid, o.slotB, t.pc, t.word, t.hints,
          .mdrain va tile.n [drainRow tile f.toNat o.lane v] 0, none, none, og.core * 128 + og.slotNo⟩
        .ok ({ s with requests := s.requests ++ [r] } : State).tick)
    | i =>
      let dest := t.destOf o.lane
      let put := fun (l : Lane) => match predDest i with
        | some p => l.putPred p.toNat ((v.getD 0 0).getLsbD 0)
        | none => completeBytes dest v l
      .ok (s.updGroup o.gid (fun x => ((((s.kernelOf og.ctx og.launch).map (fun k => x.release k dest)).getD x).updLane o.lane put)))

/-- Complete the origin lanes of handler lanes, each with its own value. -/
def Env.completeAll (e : Env) (vs : List (Nat × List (BitVec 8))) (s : State) : Except Halt State :=
  foldE (fun (s : State) (x : Nat × List (BitVec 8)) =>
    match e.g.origins.bind (fun os => os[x.1]?) with
    | none => .ok s
    | some o => match s.completeLane o x.2 with
      | .error h => .error { h with lane := x.1, detail := 1#32 <<< x.1 }
      | .ok s => .ok (s.serve o false false)) s vs

def execEretC (g : BitVec 3) (a : BitVec 7) (s : State) : Host.Outcome State Fault Refusal :=
  inWord s fun e =>
    if !e.g.isHandler then .error .illegal else
    let act := e.act g
    match e.completeAll ((lanesOf act).map (fun i => (i, (e.g.lane i).bytes (e.v a) 8))) s with
    | .error h => .error h
    | .ok s => e.endLanes act s

/-- Whether the origin's word is TRAP or BKPT, which ERET.x completes. -/
def isSoftTrap : Option Instr → Bool
  | some (.trap ..) => true
  | some (.bkpt ..) => true
  | _ => false

/-- One origin lane asks for its word to be executed again; a trap that MWAIT reported cannot be (R313). -/
def State.again (s : State) (o : Origin) : Except Halt State :=
  match s.originLane o with
  | none => .ok s
  | some (_, t) =>
    if t.joint.isSome then .error .operand
    else .ok (s.serve o false (!isSoftTrap (bodyInstr t.word)))

def execEretX (g : BitVec 3) (s : State) : Host.Outcome State Fault Refusal :=
  inWord s fun e =>
    if !e.g.isHandler then .error .illegal else
    let act := e.act g
    match foldE (fun (s : State) (i : Nat) => match e.g.origins.bind (fun os => os[i]?) with
        | none => .ok s
        | some o => match s.again o with
          | .error h => .error { h with lane := i, detail := 1#32 <<< i }
          | .ok s => .ok s) s (lanesOf act) with
    | .error h => .error h
    | .ok s => e.endLanes act s

/-! ### Handler groups (R308, R309) -/

/-- The kernel of a pooled lane, with its context. -/
def State.pooledKernel (s : State) (p : Pooled) : Option (Nat × Kernel) :=
  (s.group? p.origin.gid).bind (fun g => ((s.ctx? g.ctx).bind (fun c => c.launch? g.launch)).map (fun l => (g.ctx, l.kernel)))

/-- The kernels with pooled lanes, those of the oldest first. -/
def State.pooledKernels (s : State) (c : Core) : List (Nat × Kernel) := (c.pool.filterMap s.pooledKernel).eraseDups

/-- Whether a word has completed, for the compaction of its lanes, once it has read its sources (03, R39): it has no register result. -/
def Job.readsOnly : Job → Bool
  | .copy .. => true
  | .preq .. => true
  | .mdrain .. => true
  | .skmerge .. => true
  | .sketch _ (.query ..) _ => false
  | .sketch _ (.stat ..) _ => false
  | .sketch .. => true
  | .psettle _ _ _ c _ => c.isSome
  | _ => false

/-- Whether a group stands on its core with its issued instructions complete, so that its lanes may be compacted into a handler group (R38, R39; 15,
R298). -/
def State.drained (s : State) (gid : Nat) : Bool :=
  ((s.group? gid).map (fun g => g.resident)).getD false && s.requests.all (fun r => r.gid != gid || r.job.readsOnly)

/-- Whether a handler group may form: 32 lanes of a kernel are pooled, or the oldest of them has waited 256 clocks. -/
def State.mayForm (s : State) (mine : List Pooled) : Bool :=
  32 ≤ mine.length || (match mine with
    | p :: _ => p.at_ + 256 ≤ s.clock
    | [] => false)

/-- The first free handler slot of a core. -/
def State.freeHandler (s : State) (core : Nat) : Option Nat :=
  ([64, 65, 66, 67] : List Nat).find? (fun n => !(s.groups.any (fun g => g.resident && g.core == core && g.slotNo == n)))

/-- A handler group at its start (R309), for origins whose first is of group `og`. -/
def Group.handler (gid core slot : Nat) (og : Group) (entry : Nat) (os : List Origin) : Group :=
  let on := maskOf (List.range os.length)
  { og with gid := gid, core := core, sub := slot - 64, slotNo := slot, resident := true, lanesOn := on, helpers := 0, exited := 0,
            lanes := List.replicate 32 Lane.start, frnd := 0, ftrap := 0, a := Slot.ofPath ⟨BitVec.ofNat 64 entry, on, none, []⟩, b := Slot.free,
            jr := none, stack := [], frames := 0, lastB := true, keep := none, windows := [], marked := 0, fast := 0, count := 0, batch := 0,
            barsW := 0, barsC := 0, joints := 0, tags := [], interval := 0, clocks := [], origins := some os, fault := none, saveAt := none,
            since := gid, refetch := false, budget := none }

/-- HANDLER_GROUP_FORMATION (R308): up to 32 pooled lanes of one kernel, oldest first, become a handler group in a free handler slot, once the issued
instructions of their groups have completed; the windows of those groups close (03, R38, R39). -/
def execHandlerGroupFormation (core : Nat) (s : State) : Host.Outcome State Fault Refusal :=
  let c := s.core core
  let ready := (s.pooledKernels c).find? (fun k => s.mayForm (c.pool.filter (fun p => s.pooledKernel p == some k)))
  match ready, s.freeHandler core with
  | some k, some slot =>
    let mine := (c.pool.filter (fun p => s.pooledKernel p == some k)).take 32
    (match mine, s.ctx? k.1 with
    | p :: _, some x =>
      (match s.group? p.origin.gid with
      | none => .next s
      | some og =>
        let gids := mine.map (fun m => m.origin.gid)
        if !x.goesOn (.core core) || !gids.all s.drained then .next s else
        let h := Group.handler s.fresh core slot og k.2.handler (mine.map (fun m => m.origin))
        let s := s.setCore core { c with pool := c.pool.filter (fun m => !mine.contains m) }
        let s : State := { s with groups := mapWhere (fun g => gids.contains g.gid) Group.closeWindows s.groups }
        .next ({ s with groups := s.groups ++ [h] } : State).tick)
    | _, _ => .next s)
  | _, _ => .next s

/-! ### The return to an origin slot (R312, R313) -/

/-- The words that act over the group or reduce over lanes, which are executed again with their first active lanes (R313). -/
def actsOverLanes (i : Option Instr) : Bool :=
  match i with
  | some (.mma ..) => true
  | some (.mld ..) => true
  | some (.mdrain ..) => true
  | some (.mquant ..) => true
  | some (.fsplitRow ..) => true
  | some (.fcvt _ _ _ s t _ x) => x = 1 && ((s.toNat == 1 && 4 ≤ t.toNat) || 4 ≤ s.toNat)
  | _ => false

/-- The slot of a served word: it stands at the first hint of the run, to execute the word again in the lanes that asked for it, or goes on. -/
def Group.afterService (g : Group) (b : Bool) (t : TrapWord) : Group :=
  let again := t.redo &&& ~~~ t.exits
  let g := (g.exitLanes b t.exits).updSlot b (fun x => { x with wait := none })
  if again = 0 then g.goto b (t.pc + 4)
  else
    let redo : Redo := ⟨t.pc, if actsOverLanes (bodyInstr t.word) then t.act else again, again, t.delivered⟩
    g.updSlot b (fun x => { x with path := x.path.map (fun p => { p with pc := t.hints.start.getD t.pc }), hints := Hints.empty, redo := some redo })

/-- Whether a slot has requests of the word at an address outstanding. -/
def State.wordBusy (s : State) (gid : Nat) (slotB : Bool) (pc : DWord) : Bool :=
  s.requests.any (fun r => r.gid == gid && r.slotB == slotB && r.pc == pc)

/-- The group of a served word goes on, or ends with its last lanes. -/
def State.served (s : State) (g : Group) (slotB : Bool) (t : TrapWord) : State :=
  let s := (s.setGroup (g.afterService slotB t))
  let s := if t.joint.isSome then s.leaveJoints g.gid false else s
  match s.group? g.gid with
  | none => s
  | some g =>
    if !g.isOver then s else
    match s.endGroup g with
    | .ok s => s.afterEnds
    | .error a => s.faultAt g.gid slotB a

/-- ORIGIN_SLOT_RESUME (R312): every trapped lane of the word has ended in a handler. -/
def execOriginSlotResume (gid : Nat) (slotB : Bool) (s : State) : Host.Outcome State Fault Refusal :=
  match s.group? gid with
  | none => .next s
  | some g =>
    match (g.slot slotB).wait, s.ctx? g.ctx with
    | some (.lanes t), some c =>
      if t.lanes &&& ~~~ t.served != 0 || s.wordBusy gid slotB t.pc || !c.goesOn (.core g.core) then .next s
      else .next (s.served g slotB t)
    | _, _ => .next s

end Sys2Proof.Machine
end

