-- ==== Sys2Proof/Machine/System.lean ====
section
/-! DEFINITION. Translation, energy and stop records: TLBINV, EBUD and STOPR, OP 0x76 and 0x77 (17, R322, R329, R330). -/

namespace Sys2Proof.Machine

/-! ### TLBINV (R329) -/

/-- TLBINV of a page: it acts once even with no active lane, and then on a page that the manual does not name. -/
def execTlbinv (g : BitVec 3) (a : BitVec 7) (s : State) : Host.Outcome State Fault Refusal :=
  inWord s fun e =>
    match e.privilege, e.uniform g (fun l => l.nat (e.v a) 8) with
    | .error h, _ => .error h
    | _, .error h => .error h
    | .ok _, .ok va => .ok (e.await (.request s.fresh) (e.submit (.tlbinv (some (va.getD (Config.free s.fresh 0 % 2 ^ 56)))) s))

/-- TLBINV of the whole context. -/
def execTlbinvCtx (_g : BitVec 3) (s : State) : Host.Outcome State Fault Refusal :=
  inWord s fun e =>
    match e.privilege with
    | .error h => .error h
    | .ok _ => .ok (e.await (.request s.fresh) (e.submit (.tlbinv none) s))

/-- TLBINV_SWEEP_COMPLETE (R329; 10, R183): every holder of R182 has given up its translations, and the slot goes on. -/
def execTlbinvSweepComplete (id : Nat) (s : State) : Host.Outcome State Fault Refusal :=
  match s.live? id with
  | none => .next s
  | some r =>
    match r.job with
    | .tlbinv page => .next (((s.sweepTlb r.ctx page).dropRequest id).wake r)
    | _ => .next s

/-! ### EBUD (R330; 18, R341) -/

/-- A figure as EBUD shows it: saturated at 2^32 − 1; a remaining budget below zero has no stated figure. -/
def energyFigure (s : State) (i : Nat) (v : Int) : Nat := if 0 ≤ v then min v.toNat (2 ^ 32 - 1) else Config.free s.fresh i % 2 ^ 32

def execEbudRd (g : BitVec 3) (d : BitVec 7) (l : BitVec 4) (s : State) : Host.Outcome State Fault Refusal :=
  inWord s fun e =>
    if e.l.det then .error .illegal else
    let rest := energyFigure s 0 e.c.remaining
    let ws := (lanesOf (e.act g)).map (fun i =>
      (⟨i, e.v d, leBytes 4 (min (s.shown e i).2.1.used (2 ^ 32 - 1)) ++ leBytes 4 rest⟩ : LaneWrite))
    .ok (e.launchLong l (.load ws [] [] none) s)

def execEbudSet (g : BitVec 3) (a : BitVec 7) (s : State) : Host.Outcome State Fault Refusal :=
  inWord s fun e =>
    match e.uniform g (fun l => l.nat (e.v a) 8) with
    | .error h => .error h
    | .ok none => .ok (e.retire s)
    | .ok (some v) => .ok (e.retire (s.updLaunch e.c.no e.l.no (fun l => { l with reserved := max l.used (min l.reserved v) })))

/-! ### STOPR (R322) -/

/-- A word of the latest stop set; 0 where there is no such record or it was not written. -/
def Context.stopWord (c : Context) (v : Nat) : Nat := leNat (((c.records.getD (v / 16) []).drop (4 * (v % 16))).take 4)

def execStopr (g : BitVec 3) (d a : BitVec 7) (l : BitVec 4) (s : State) : Host.Outcome State Fault Refusal :=
  inWord s fun e =>
    if e.l.det then .error .illegal else
    match e.privilege with
    | .error h => .error h
    | .ok _ =>
      let ws := (lanesOf (e.act g)).map (fun i => (⟨i, e.v d, leBytes 4 (e.c.stopWord ((e.g.lane i).word (e.v a)).toNat)⟩ : LaneWrite))
      .ok (e.launchLong l (.load ws [] [] none) s)

end Sys2Proof.Machine
end

