-- ==== Sys2Proof/Machine/Save.lean ====
section
/-! DEFINITION. Save images of groups and the save area (17, R318, R323, Table 17-9; 06, R82, R104, Table 6-7). -/

namespace Sys2Proof.Machine

/-! ### The save area -/

/-- Bytes written over a range at once by the device, as in its own areas. -/
def Mem.splice (m : Mem) (base : Nat) (bs : List (BitVec 8)) : Mem :=
  Mem.write (m.clear base bs.length) base bs

/-- The device writes into one of its own areas (18, R340): no page there is mapped, so nothing is captured. -/
def State.ownWrite (s : State) (base : Nat) (bs : List (BitVec 8)) : State :=
  { s with mem := s.mem.splice base bs, poison := s.poison.filter (fun k => !(base ≤ 32 * k && 32 * k + 32 ≤ base + bs.length)) }

/-- Whether a block is free in the save area of a context. -/
def Context.saveFits (c : Context) (base size : Nat) : Bool :=
  c.args.saveArea.base ≤ base && base + size ≤ c.args.saveArea.base + c.args.saveArea.size &&
  c.saves.all (fun x => base + size ≤ x.2.1 || x.2.1 + x.2.2 ≤ base)

/-- Where a block goes: an address that is open, among those where it fits; none where there is no room. -/
def State.saveBase (s : State) (c : Context) (size : Nat) : Option Nat :=
  let area := c.args.saveArea
  let any := area.base + 64 * (choose s 4 (area.size / 64 + 1))
  if c.saveFits any size then some any
  else (area.base :: c.saves.map (fun x => roundUp (x.2.1 + x.2.2) 64)).find? (fun b => c.saveFits b size)

/-- Bytes put into the save area for an owner (a group number, or 2^64 and a workgroup number); their address, if there is room. -/
def State.saveBytes (s : State) (ctx owner : Nat) (bs : List (BitVec 8)) : State × Option Nat :=
  match s.ctx? ctx with
  | none => (s, none)
  | some c => match s.saveBase c bs.length with
    | none => (s, none)
    | some b => (((s.ownWrite b bs).updCtx ctx (fun c => { c with saves := c.saves ++ [(owner, b, bs.length)] })).tick, some b)

/-- An owner's block is free again. -/
def State.freeSave (s : State) (ctx owner : Nat) : State :=
  s.updCtx ctx (fun c => { c with saves := c.saves.filter (fun x => x.1 != owner) })

/-- The owner number of a workgroup's Local Store block. -/
def lsOwner (wid : Nat) : Nat := 2 ^ 64 + wid

/-! ### Images (Table 17-9) -/

/-- A code address in an entry of Table 6-2. -/
def joinOffset (k : Kernel) (j : Option DWord) : Nat :=
  match j with
  | some a => codeOffset k a
  | none => 0xFFFFFFFF

/-- An entry of Table 6-2. -/
def entryBytes (k : Kernel) (kind : Nat) (pc : DWord) (mask : BitVec 32) (join : Option DWord) : List (BitVec 8) :=
  leBytes 4 (codeOffset k pc / 4 * 4 + kind) ++ leBytes 4 mask.toNat ++ leBytes 4 (joinOffset k join) ++ leBytes 4 0

/-- A slot's path, all ones when the slot is free. -/
def slotBytes (k : Kernel) (x : Slot) : List (BitVec 8) :=
  match x.path with
  | some p => entryBytes k 0 p.pc p.mask p.join
  | none => List.replicate 16 0xFF

def frameBytes (k : Kernel) (f : Option Frame) : List (BitVec 8) :=
  match f with
  | some f => entryBytes k 1 f.join f.arrived f.outer
  | none => List.replicate 16 0xFF

def tagBytes (t : Tag) : List (BitVec 8) :=
  leBytes 2 t.off ++ leBytes 1 t.recipe ++ leBytes 1 ((if t.pair then 1 else 0) + (if t.dropped then 2 else 0)) ++ List.replicate 12 0

def laneBytes (l : Lane) (exited : Bool) : List (BitVec 8) :=
  leBytes 2 l.preds.toNat ++ leBytes 1 l.fflags.toNat ++ leBytes 1 ((if l.nr then 1 else 0) + (if exited then 2 else 0)) ++
  (List.range 8).flatMap (fun i => leBytes 2 (l.rowExp.getD i 0).toNat) ++ List.replicate 12 0

/-- The image of a group; the bytes of dropped registers are zero. -/
def saveImage (k : Kernel) (g : Group) : List (BitVec 8) :=
  let dropped := fun (b : Nat) => g.tags.any (fun t => t.dropped && t.span.has b)
  leBytes 4 (g.regs k) ++ leBytes 4 g.lanesOn.toNat ++ slotBytes k g.a ++ slotBytes k g.b ++ frameBytes k g.jr ++
  leBytes 4 g.stack.length ++ leBytes 4 g.marked.toNat ++ leBytes 8 g.count ++ leBytes 4 g.frnd.toNat ++ leBytes 4 g.ftrap.toNat ++
  leBytes 4 g.batch ++ leBytes 4 g.barsW ++ leBytes 4 g.barsC ++ leBytes 4 g.joints ++
  (List.range 32).flatMap (fun i => match g.tags[i]? with
    | some t => tagBytes t
    | none => List.replicate 16 0) ++
  allLanes.flatMap (fun i => laneBytes (g.lane i) (g.exited.getLsbD i)) ++
  leBytes 4 g.helpers.toNat ++ List.replicate 156 0 ++
  allLanes.flatMap (fun i => (List.range (g.regs k)).map (fun b => if dropped b then 0 else (g.lane i).regs.get b))

/-- A code address read back from an entry. -/
def codeAt (k : Kernel) (off : Nat) : DWord := BitVec.ofNat 64 (k.codeBase + off)
def joinAt (k : Kernel) (off : Nat) : Option DWord := if off == 0xFFFFFFFF then none else some (codeAt k off)

/-- A slot reloaded; the line of descent of its path stays (log 1). -/
def loadSlot (k : Kernel) (bs : List (BitVec 8)) (x : Slot) : Slot :=
  let f := fun (o : Nat) => leNat ((bs.drop o).take 4)
  if f 0 == 0xFFFFFFFF then Slot.free
  else { x with path := some ⟨codeAt k (f 0 / 4 * 4), BitVec.ofNat 32 (f 4), joinAt k (f 8), (x.path.map (fun p => p.line)).getD []⟩ }

def loadFrame (k : Kernel) (bs : List (BitVec 8)) (x : Option Frame) : Option Frame :=
  let f := fun (o : Nat) => leNat ((bs.drop o).take 4)
  if f 0 == 0xFFFFFFFF then none
  else some ⟨codeAt k (f 0 / 4 * 4), BitVec.ofNat 32 (f 4), joinAt k (f 8), (x.map (fun p => p.line)).getD []⟩

/-- The bytes of dropped registers, which an image does not hold, stay as they were (17, R327; log 57). -/
def keepDropped (tags : List Tag) (old new : Mem) : Mem :=
  (tags.filter (fun t => t.dropped)).foldl (fun m t => m.write t.off (old.read t.off t.span.size)) new

/-- One lane reloaded. -/
def loadLane (tags : List Tag) (bs regs : List (BitVec 8)) (l : Lane) : Lane :=
  let f := fun (o n : Nat) => leNat ((bs.drop o).take n)
  { l with preds := BitVec.ofNat 12 (f 0 2), fflags := BitVec.ofNat 7 (f 2 1), nr := f 3 1 % 2 == 1,
           rowExp := (List.range 8).map (fun i => BitVec.ofNat 16 (f (4 + 2 * i) 2)), regs := keepDropped tags l.regs (Mem.write [] 0 regs) }

/-- Entries that a raised DEPTH puts on top of a stack: no image holds entries, so what they are is open (log 67). -/
def openEntries (fresh : Nat) (k : Kernel) (n : Nat) : List Entry :=
  (List.range n).map (fun i =>
    let v := fun (j : Nat) => Config.free fresh (1000 + 8 * i + j)
    let at_ := fun (j : Nat) => codeAt k (v j % 2 ^ 32 / 4 * 4)
    let mask := BitVec.ofNat 32 (v 1)
    let join := if v 3 % 2 == 0 then none else some (at_ 2)
    if v 4 % 2 == 0 then .path (Slot.ofPath ⟨at_ 0, mask, join, []⟩) else .frame ⟨at_ 0, mask, join, []⟩)

/-- The register budget that an image gives (Table 17-9), within the 1,024 bytes of a lane (02, R21). -/
def imageRegs (bs : List (BitVec 8)) : Nat := min 1024 (leNat (bs.take 4))

/-- A group reloaded from its image; the tag table stays as the device has it (R320). A lower DEPTH drops entries from the top of the stack, which the
image does not hold, and a higher one puts open ones there, up to the 64 that a stack has (06, R83). -/
def loadImage (k : Kernel) (bs : List (BitVec 8)) (fresh : Nat) (g : Group) : Group :=
  let f := fun (o n : Nat) => leNat ((bs.drop o).take n)
  let lane := fun (i : Nat) => (bs.drop (0x260 + 32 * i)).take 32
  let regs := imageRegs bs
  { g with
    budget := if regs == k.regs then none else some regs
    lanesOn := BitVec.ofNat 32 (f 4 4), a := loadSlot k ((bs.drop 8).take 16) g.a, b := loadSlot k ((bs.drop 0x18).take 16) g.b
    jr := loadFrame k ((bs.drop 0x28).take 16) g.jr, marked := BitVec.ofNat 16 (f 0x3C 4), count := f 0x40 8, frnd := BitVec.ofNat 3 (f 0x48 4)
    ftrap := BitVec.ofNat 6 (f 0x4C 4), batch := f 0x50 4, barsW := f 0x54 4, barsC := f 0x58 4, joints := f 0x5C 4
    exited := maskOf (allLanes.filter (fun i => (lane i).getD 3 0 &&& 2 != 0)), helpers := BitVec.ofNat 32 (f 0x660 4), refetch := true
    stack := openEntries fresh k (min 64 (f 0x38 4) - g.stack.length) ++ g.stack.drop (g.stack.length - f 0x38 4)
    lanes := allLanes.map (fun i => loadLane g.tags (lane i) ((bs.drop (0x700 + i * regs)).take regs) (g.lane i)) }

/-! ### Saving and restoring a group -/

/-- What a save does to a group: registers with a live tag are dropped, its windows close, and its chunks leave the fast file (06, Table 6-7). -/
def Group.stopped (g : Group) : Group :=
  { g.closeWindows with
    tags := g.tags.map (fun t => { t with dropped := true })
    fast := 0 }

/-- A group's state is saved. -/
def State.saveGroup (s : State) (g : Group) : State :=
  match s.kernelOf g.ctx g.launch with
  | none => s
  | some k =>
    let g := g.stopped
    let (s, a) := s.saveBytes g.ctx g.gid (saveImage k g)
    s.setGroup { g with saveAt := a }

/-- A group is restored from its image. -/
def State.reloadGroup (s : State) (gid : Nat) : State :=
  match s.group? gid with
  | none => s
  | some g => match s.kernelOf g.ctx g.launch, g.saveAt with
    | some k, some a =>
      let bs := s.mem.read a (0x700 + 32 * imageRegs (s.mem.read a 4))
      (s.tick.setGroup { loadImage k bs s.fresh g with saveAt := none }).freeSave g.ctx gid
    | _, _ => s

end Sys2Proof.Machine
end

