-- ==== Sys2Proof/Machine/Halt.lean ====
section
/-! DEFINITION. A raised halt line: how units stop, stop records, and the resume (17, R318–R322, Tables 17-6 to 17-8). -/

namespace Sys2Proof.Machine

/-! ### Stop records -/

/-- Put an element into a list ordered by a key. -/
def insertBy (key : α → Nat) (x : α) : List α → List α
  | [] => [x]
  | y :: r => if key x < key y then x :: y :: r else y :: insertBy key x r

/-- A record of 64 bytes, unused fields zero. -/
def record (fields : List (Nat × Nat)) : List (BitVec 8) :=
  let bs := fields.flatMap (fun f => leBytes f.1 f.2)
  (bs ++ List.replicate (64 - bs.length) 0).take 64

/-- The summary record (Table 17-6). -/
def summaryRecord (i : StopInfo) (count stopped : Nat) (trunc : Bool) : List (BitVec 8) :=
  record [(1, 0), (1, i.halt.cause), (1, i.halt.origin), (1, if trunc then 1 else 0), (4, count), (8, i.raisedAt), (8, stopped), (8, i.place.toNat),
    (8, i.halt.addr.toNat), (4, i.halt.detail.toNat), (4, i.grid)]

/-- STATE of a group record. -/
def State.groupState (s : State) (g : Group) : Nat :=
  if g.fault.isSome then 3 else if g.waitsLanes then 2 else if s.waitsVisible g then 1 else 0

/-- WAITOBJ of a group record: the counter, the barrier instance or the batch. -/
def Group.waitObject (g : Group) : Nat :=
  ([g.a, g.b].findSome? (fun x => match x.wait with
    | some (.counter va ..) => some va
    | some (.bar _ k) => some k
    | some (.batch n) => some n
    | _ => none)).getD 0

/-- A slot in a group record: its path's code offset and mask; all ones in the offset and the mask when it is free. -/
def slotFields (k : Kernel) (x : Slot) : List (Nat × Nat) :=
  match x.path with
  | some p => [(4, codeOffset k p.pc), (4, p.mask.toNat)]
  | none => [(4, 0xFFFFFFFF), (4, 0xFFFFFFFF)]

/-- A command's request that is not answered yet. -/
def Job.isCommand : Job → Bool
  | .migrate .. => true
  | _ => false

/-- The move of a page for a map command, and the forwarding after it: no word of a group made them. -/
def Job.movesPage : Job → Bool
  | .migrate .. => true
  | .forward .. => true
  | _ => false

/-- A request that a copy, sketch or matrix engine carries out, with a record of its own kind (Table 17-8). -/
def Job.byEngine (j : Job) : Bool :=
  match j.unit with
  | none => false
  | some (.thermos _) => false
  | some _ => true

/-- A word in flight: a request of a group's word that is not complete and that none of those engines carries out, the words that ask a Thermos among
them (R62, R318); its group may have ended. -/
def State.inFlight (r : Request) : Bool := !r.job.byEngine && !r.job.movesPage && r.gid != 0

/-- A group record (Table 17-7). -/
def State.groupRecord (s : State) (k : Kernel) (nwgc : Nat) (g : Group) : List (BitVec 8) :=
  record ([(1, 1), (1, g.core), (1, g.slotNo), (1, s.groupState g), (1, ((g.fault.map (fun h => h.cause)).getD 0)), (3, 0),
    (4, g.clu * nwgc + g.wgc), (4, g.clu), (8, g.count)] ++ slotFields k g.a ++ slotFields k g.b ++
    [(8, g.saveAt.getD 0), (8, g.waitObject), (4, (s.requests.filter (fun r => r.gid == g.gid && State.inFlight r)).length)])

/-- OBJ of a word in flight: the word, and above it what stands for its hints, whose layout the manual does not give. -/
def wordObject (s : State) (r : Request) : Nat :=
  r.word.toNat + (if r.hints.count == 0 then 0 else 2 ^ 32 * (Config.free s.fresh (100 + r.id) % 2 ^ 32))

/-- How many active lanes a request's word has; of a word whose group has ended, those that its request still stands for. -/
def State.lanesOfRequest (s : State) (r : Request) : Nat :=
  match s.reqEnv r, r.job with
  | some e, _ => popcount e.actWord
  | none, .remoteRed acts _ => acts.length
  | none, .remoteWrite _ => 1
  | none, _ => 0

/-- The lanes of a word in flight that have performed what they do in memory: those of an atomic, but for steps that another device has not answered. -/
def Job.lanesDone (j : Job) (lanes : Nat) : Nat :=
  match j with
  | .atom _ _ acts _ => lanes - acts.length
  | .remoteRed acts _ => lanes - acts.length
  | .remoteWrite _ => lanes
  | _ => 0

/-- KIND, OBJ, DONE, TOTAL and BATCH of a request (Table 17-8). -/
def State.requestFields (s : State) (r : Request) : Nat × Nat × Nat × Nat × Nat :=
  match r.job with
  | .copy c b _ done => (3, c.src.toNat, done, c.total, b.getD 0)
  | .preq pages _ => (3, pages.headD 0, 0, 65536 * pages.length, 0)
  | .sketch sk (.add adds) done => (4, sk.descVa, spansSize done * sk.rows, adds.length * sk.rows, 0)
  | .sketch sk (.query _ keys) _ => (4, sk.descVa, 0, keys.length * sk.rows, 0)
  | .sketch sk _ done => (4, sk.descVa, spansSize done, sk.size, 0)
  | .skmerge src _ _ done _ _ => (4, src.descVa, spansSize done, src.size, 0)
  | .merging dst _ done => (4, dst.descVa, spansSize done, dst.size, 0)
  | .mld d _ _ m n _ _ _ _ got => (6, d, n * got.length, m * n, 0)
  | .mdrain d n ws landed => (6, d, n * landed / (landed + ws.length), n, 0)
  | .mmaj .. => (match s.jointOf r with
    | some j => (match j.members with
      | m :: _ => let d := jointDescOf j.desc; (6, m.desc, 0, d.m * d.n, 0)
      | [] => (6, 0, 0, 0, 0))
    | none => (6, 0, 0, 0, 0))
  | j => (2, wordObject s r, j.lanesDone (s.lanesOfRequest r), s.lanesOfRequest r, 0)

/-- The number of an engine, which is open. -/
def engineNumber (s : State) (i : Nat) : Nat := Config.free s.fresh i % 256

/-- The record of a word in flight or of an engine request: its issuer is a group, which may have ended, or none for a remote merge. -/
def State.requestRecord (s : State) (r : Request) : List (BitVec 8) :=
  let (kind, obj, done, total, batch) := s.requestFields r
  let group := match s.group? r.gid with
    | some g => g.core * 128 + g.slotNo
    | none => r.place
  let off := ((s.kernelOf r.ctx r.launch).map (fun k => codeOffset k r.pc)).getD 0
  record [(1, kind), (1, if kind == 2 then group / 128 else engineNumber s (200 + r.id)), (2, group), (4, if r.gid == 0 then 0 else off),
    (8, obj), (8, done), (8, total), (4, batch)]

/-- The lowest applied point of a binding's elements (R50). -/
def Binding.lowest (b : Binding) : Nat :=
  match b.points with
  | [] => b.applied
  | p :: r => r.foldl min p

/-- The record of a binding, of the Thermos of the die that serves it (04, R61). -/
def State.bindingRecord (s : State) (b : Binding) : List (BitVec 8) :=
  record [(1, 5), (1, engineNumber s b.die), (2, 0xFFFF), (4, 0), (8, b.gen * 256 + b.slot), (8, b.lowest), (8, b.lastNo), (4, 0), (4, b.status)]

/-- The resident groups of a context, by core and slot. -/
def State.groupsOf (s : State) (ctx : Nat) : List Group :=
  (s.groups.filter (fun g => g.ctx == ctx && g.resident)).foldl (fun l g => insertBy (fun g => g.core * 128 + g.slotNo) g l) []

/-- The records of a stop, in the order of R321, without the summary. -/
def State.stopSet (s : State) (c : Context) : List (List (BitVec 8)) :=
  (s.groupsOf c.no).filterMap (fun g => match c.launch? g.launch with
    | some l => some (s.groupRecord l.kernel l.wgs g)
    | none => none) ++
  ((s.requests.filter (fun r => r.ctx == c.no && State.inFlight r)).map s.requestRecord) ++
  ((s.requests.filter (fun r => r.ctx == c.no && r.job.byEngine)).map s.requestRecord) ++
  ((c.bindings.filter (fun b => b.live)).map s.bindingRecord)

/-! ### Units stop (R318) -/

/-- The last unit has stopped: the context is halted, and its stop set is written as far as the stop area holds it (R321). -/
def State.haltContext (s : State) (c : Context) (i : StopInfo) : State :=
  let rest := s.stopSet c
  let room := c.args.stopArea.size / 64
  let all := summaryRecord i (rest.length + 1) s.time (decide (room < rest.length + 1)) :: rest
  let written := all.take room
  ((s.ownWrite c.args.stopArea.base written.flatten).updCtx c.no (fun c => { c with
    run := .halted, stop := some { i with lastStop := s.time, pending := [] }, records := written, nrec := all.length })).tick

/-- A slot in the midst of a hint run stands before the run again: its hints issue anew after the resume (03, R34; log 56). -/
def Slot.unwind (x : Slot) : Slot :=
  if x.atBoundary then x else
  { x with path := x.path.map (fun p => { p with pc := x.hints.start.getD p.pc }), hints := Hints.empty }

/-- A group stands at a unit boundary; the hints of a run without its consumer count as not issued. -/
def Group.unwind (g : Group) : Group :=
  let back := fun (x : Slot) => if x.atBoundary then 0 else x.hints.count
  { g with a := g.a.unwind, b := g.b.unwind, keep := if g.atBoundary then g.keep else none,
           count := if g.isHandler then g.count else g.count - (back g.a + back g.b) }

/-- A unit stops: a core, whose groups stand at unit boundaries and are saved, or an engine, which keeps the progress of its requests. The answer is
none where the unit has nothing to stop. -/
def State.stopUnit (s : State) (ctx : Nat) (u : StopUnit) : Option State :=
  match s.ctx? ctx with
  | none => none
  | some c => match c.run, c.stop with
    | .raised, some i =>
      if !i.pending.contains u then none else
      let here : List Group := match u with
        | .core n => (s.groupsOf ctx).filter (fun g => g.core == n)
        | _ => []
      let s := here.foldl (fun s g => s.saveGroup g.unwind) s
      let i : StopInfo := { i with pending := i.pending.filter (fun x => x != u), lastStop := s.time }
      let s := s.updCtx ctx (fun c => { c with stop := some i })
      (match s.ctx? ctx with
      | some c => some (if i.pending.isEmpty then s.haltContext c i else s)
      | none => some s)
    | _, _ => none

/-! ### The resume (R320) -/

/-- A load that had not delivered its value is performed again, whatever its path; lanes that read nothing keep their zeros. -/
def State.reperform (s : State) (r : Request) : State :=
  let once := fun (e : Env) (ws : List LaneWrite) => match bodyInstr r.word with
    | some (.hrd g d a l w) => s.readAgain e r ws (execHrd g d a l w)
    | i => (match i.bind (privateLoad []) with
      | some f => s.readAgain e r ws f
      | none => s)
  match r.job, s.reqEnv r with
  | .reload ws _, some e => once e ws
  | .load ws parts src acq, some e =>
    (match src ++ parts with
    | [] => once e ws
    | p :: ps =>
      let kept := ws.filter (fun w => !(p :: ps).any (fun x => x.lane == w.lane && x.off == w.off))
      let reads := (p :: ps).map (fun x => (⟨x.lane, 0, x.pa, List.replicate x.size 0, false, false⟩ : Access))
      (match s.performLoad e.g e.policy kept reads p.off p.width with
      | .ok k => k.s.setJob r.id (.load k.writes k.parts k.src acq)
      | .error h => s.reperformFails e r h))
  | _, _ => s

/-- Lane traps without a handler: the lanes, of slots and of parked paths, complete as if a handler had issued ERET.c with a pair holding zero (R307). -/
def State.completeUnhandled (s : State) (gid : Nat) : State :=
  match s.group? gid with
  | none => s
  | some g => match s.kernelOf g.ctx g.launch with
    | none => s
    | some k =>
      if k.handler != 0 then s else
      (g.places.flatMap (fun x => match x.wait with
        | some (.lanes t) => (lanesOf (t.lanes &&& ~~~ t.served)).map (fun i => (t.pc, i))
        | _ => [])).foldl (fun s x =>
        let o : Origin := ⟨gid, false, x.2, 0, 0⟩
        match s.completeLane o (List.replicate 8 0) with
        | .ok s => s.serve o false false
        | .error h => s.raiseLine g.ctx ⟨h, whereTag g k x.1 x.2, g.launch, s.time, s.clock, g.core, g.slotNo, 0, []⟩) s

/-- The resume: groups are reloaded from their images, faulted ones to issue their word again, and work in flight goes on. -/
def State.resumeContext (s : State) (ctx : Nat) : State :=
  let gs := s.groupsOf ctx
  let s := gs.foldl (fun s g => s.reloadGroup g.gid) s
  let s : State := { s with groups := mapWhere (fun g => g.ctx == ctx) (fun g => { g with fault := none }) s.groups }
  let s := s.updCtx ctx (fun c => { c with run := .running, stop := none })
  let s := (s.requests.filter (fun r => r.ctx == ctx && !s.stranded r)).foldl State.reperform s
  gs.foldl (fun s g => s.completeUnhandled g.gid) s

end Sys2Proof.Machine
end

