-- ==== Sys2Proof/Machine/Move.lean ====
section
/-! DEFINITION. Workgroups that leave their core and return: vacates and saved waiting workgroups (06, R99, R104–R106; 17, R323). -/

namespace Sys2Proof.Machine

/-! ### Leaving a core -/

/-- Whether a group stands where its state may be saved: at a unit boundary, its issued words, copies and joint matrix requests complete, and no
lane trap pending (R104). -/
def State.savable (s : State) (g : Group) (waiting : Bool) : Bool :=
  g.atBoundary && !g.waitsLanes && !g.isHandler && s.requests.all (fun r => r.gid != g.gid || r.job.outlives waiting)

/-- A group leaves its core: what its core and core cluster hold dirty is pushed to the homes, so that it finds its writes, and those that it has acquired
there, wherever it goes on, and its state is saved, unless the halt of its context has saved it already. What goes to another device is outstanding until
it is acknowledged (18, R333). -/
def State.leave (s : State) (g : Group) : State :=
  let s := s.track ((s.pushCores g.ctx [g.core]).pushTiles g) g.ctx g.launch
  (if g.saveAt.isSome then s else s.saveGroup g).updGroup g.gid (fun x => { x with resident := false })

/-- A workgroup's Local Store bytes are saved, and it leaves its core. -/
def State.leaveWorkgroup (s : State) (w : Workgroup) : State :=
  let (s, a) := s.saveBytes w.ctx (lsOwner w.wid) (w.ls.read 0 w.lsSize)
  s.updWg w.wid (fun w => { w with resident := false, saveAt := a })

/-! ### Returning -/

/-- A group is restored on a core, in a group slot, from its image; it is the last to have become resident. -/
def State.restoreGroup (s : State) (g : Group) (core slot : Nat) : State :=
  ((s.reloadGroup g.gid).updGroup g.gid (fun x => { x with
    resident := true, core := core, sub := slot / 16, slotNo := slot, fast := 0, since := s.fresh })).tick

/-- A handler group is restored on a core, in a handler slot. -/
def State.restoreHandler (s : State) (h : Group) (core slot : Nat) : State :=
  ((s.reloadGroup h.gid).updGroup h.gid (fun x => { x with resident := true, core := core, sub := slot - 64, slotNo := slot, fast := 0, since := s.fresh })).tick

/-- A core takes up restored groups: nothing that it or its cluster holds may hide their writes. -/
def State.freshen (s : State) (core : Nat) : State :=
  let s := s.invalidate core .sys
  s.setCore core { s.core core with constants := [], tiles := [] }

/-- Trapped lanes of a group that wait to be served follow it to its new core. -/
def State.movePool (s : State) (gid core : Nat) : State :=
  let mine := s.cores.flatMap (fun x => x.2.pool.filter (fun p => p.origin.gid == gid))
  if mine.isEmpty then s else
  let s : State := { s with cores := s.cores.map (fun x => (x.1, { x.2 with pool := x.2.pool.filter (fun p => p.origin.gid != gid) })) }
  s.setCore core { s.core core with pool := (s.core core).pool ++ mine }

/-- What a halt found a group doing when a vacate moved it goes on where it is restored (17, R320): loads are performed again, trapped lanes follow. -/
def State.takeUp (s : State) (gid core : Nat) : State :=
  (((s.movePool gid core).requests.filter (fun r => r.gid == gid)).foldl State.reperform (s.movePool gid core)).completeUnhandled gid

/-- The handler groups that left their core with a halted context, for lanes the first of which is of one of some groups. -/
def State.handlersAway (s : State) (gids : List Nat) : List Group :=
  s.groups.filter (fun h => !h.resident && (match h.origins with
    | some (o :: _) => gids.contains o.gid
    | _ => false))

/-- The free handler slots of a core. -/
def State.handlerSlots (s : State) (core : Nat) : List Nat :=
  ([64, 65, 66, 67] : List Nat).filter (fun n => !(s.groups.any (fun g => g.resident && g.core == core && g.slotNo == n)))

/-- A workgroup is restored on a core where it has room: its groups in slots of the sub-cores named, and handler groups of theirs in handler slots. -/
def State.returnWorkgroup (s : State) (l : Launch) (k : Kernel) (w : Workgroup) (p : CorePlace) : Option State :=
  let hs := s.handlersAway ((s.groupsIn w).map (fun g => g.gid))
  let gs := (s.groupsIn w).foldl (fun l g => insertBy (fun g => g.grp) g l) []
  if p.subs.length != l.groups || s.freeLs p.core < w.lsSize || !s.recipeRoom p.core k || (s.handlerSlots p.core).length < hs.length then none else
  match takeSlots s p.core p.subs [] with
  | none => none
  | some slots =>
    let s := s.updWg w.wid (fun w => { w with core := p.core, slots := slots, resident := true, moved := false, saveAt := none })
    let s := s.freeSave w.ctx (lsOwner w.wid)
    let s := gs.foldl (fun s g => s.restoreGroup g p.core (slots.getD g.grp 0)) (s.freshen p.core)
    let s := (hs.zip (s.handlerSlots p.core)).foldl (fun s x => s.restoreHandler x.1 p.core x.2) s
    some ((gs ++ hs).foldl (fun s g => s.takeUp g.gid p.core) s)

/-! ### Waiting workgroups (R99) -/

/-- The save area that admission code 6 reserves for the context's unfinished launches. -/
def Context.reservedSave (c : Context) : Nat :=
  ((c.launches.filter (fun l => !l.ended)).map (fun l => saveNeed c l.kernel.regs)).foldl max 0

/-- The bytes that saving a workgroup takes. -/
def State.saveSize (s : State) (k : Kernel) (w : Workgroup) : Nat := ((s.groupsIn w).map (fun g => 0x700 + 32 * g.regs k)).sum + w.lsSize

/-- Whether a workgroup of a context waits to be placed: for the first time, after a vacate moved it, or after it was saved and its wait ended (R99, R100). -/
def State.placeWanted (s : State) (c : Context) : Bool :=
  c.launches.any (fun l => l.waiting || !(s.movedClusters c.no l.no).isEmpty) || s.workgroups.any (fun w => w.ctx == c.no && s.satisfied w)

/-- Whether a waiting workgroup may be saved: every group of it is in a scheduler-visible wait, a workgroup of the context waits to be placed, and the
save area has room beyond what is reserved. -/
def State.maySave (s : State) (c : Context) (k : Kernel) (w : Workgroup) : Bool :=
  let gs := s.groupsIn w
  c.run == .running && w.resident && !w.ended && !gs.isEmpty && gs.all (fun g => s.waitsVisible g && s.savable g true) &&
  s.placeWanted c &&
  (c.saves.map (fun x => x.2.2)).sum + s.saveSize k w + c.reservedSave ≤ c.args.saveArea.size

/-- WAITING_WORKGROUP_SAVE. -/
def execWaitingWorkgroupSave (wg : Nat) (s : State) : Host.Outcome State Fault Refusal :=
  match s.wg? wg with
  | none => .next s
  | some w => match s.ctx? w.ctx, s.kernelOf w.ctx w.launch with
    | some c, some k =>
      if s.maySave c k w then .next (((s.groupsIn w).foldl State.leave s).leaveWorkgroup w) else .next s
    | _, _ => .next s

/-- A cluster of a launch that a vacate has moved comes before a cluster, and fits now (R94). -/
def State.movedBefore (s : State) (c : Context) (l : Launch) (clu : Nat) : Bool :=
  ((s.movedClusters c.no l.no).head?.map (fun n => decide (l.order n < l.order clu))).getD false && s.couldRestore c l

/-- WAITING_WORKGROUP_RESTORE: the object of one of its waits is satisfied, and a core where it may return has room; it takes its place by R94. -/
def execWaitingWorkgroupRestore (wg : Nat) (place : CorePlace) (s : State) : Host.Outcome State Fault Refusal :=
  match s.wg? wg with
  | none => .next s
  | some w => match s.ctx? w.ctx, s.kernelOf w.ctx w.launch with
    | some c, some k =>
      (match c.launch? w.launch with
      | none => .next s
      | some l =>
        if c.run != .running || !s.satisfied w || !(s.returnHomes c l w).contains (clusterOf place.core) || !c.openCores.contains place.core ||
          s.passed c.no l || s.firstBack c l w.clu w.wgc || s.movedBefore c l w.clu then .next s
        else .next (match s.returnWorkgroup l k w place with
          | none => s
          | some t => t.updLaunch c.no l.no (fun l => l.homeAt w.clu (clusterOf place.core))))
    | _, _ => .next s

/-! ### Vacates (R104, R105) -/

/-- The cores that a vacate takes: the last k in Trail order (R103). -/
def Context.vacated (c : Context) : List Nat :=
  match c.vacating with
  | none => []
  | some (_, k) => c.coreList.drop (c.coreList.length - k)

/-- Whether a workgroup is moved: a workgroup of its cluster occupies a vacated core. -/
def State.mustMove (s : State) (c : Context) (w : Workgroup) : Bool :=
  !w.ended && (s.clusterWgs w.ctx w.launch w.clu).any (fun x => !x.ended && x.resident && c.vacated.contains x.core)

/-- A vacate begins: the workgroups to be moved are marked. -/
def State.beginVacate (s : State) (ctx : Nat) (h : CmdHead) (k : Nat) : State :=
  let s := s.updCtx ctx (fun c => { c with vacating := some (h, k) })
  match s.ctx? ctx with
  | none => s
  | some c => { s with workgroups := s.workgroups.map (fun w => if w.ctx == ctx && s.mustMove c w then { w with moved := true } else w) }

/-- Once every group of a moved cluster is saved, its workgroups leave their cores together. -/
def State.leaveCluster (s : State) (ctx launch clu : Nat) : State :=
  let ws := (s.clusterWgs ctx launch clu).filter (fun w => w.moved && w.resident && !w.ended)
  if ws.any (fun w => (s.groupsIn w).any (fun g => g.resident)) then s else ws.foldl State.leaveWorkgroup s

/-- GROUP_VACATE_STOP (R104): a group of a moved workgroup stops at a unit boundary, and its state is saved. A vacate that has begun completes though its
context has halted meanwhile (18, R337): the halt has stopped the group and written its image, and it leaves from there, with handler groups on the vacated
cores, whatever it has in flight, which goes on when it is restored (log 38). -/
def execGroupVacateStop (gid : Nat) (s : State) : Host.Outcome State Fault Refusal :=
  match s.group? gid with
  | none => .next s
  | some g => match s.ctx? g.ctx, s.wgOf g with
    | some c, some w =>
      let halted := c.run == .halted
      if g.isHandler then .next (if halted && g.resident && c.vacated.contains g.core then s.updGroup gid (fun x => { x with resident := false }) else s)
      else if c.run == .raised || !w.moved || !g.resident || (!halted && (s.jointOpen w.ctx w.launch w.clu || !s.savable g false)) then .next s
      else .next ((s.leave g).leaveCluster g.ctx g.launch g.clu)
    | _, _ => .next s

/-- Restore the workgroups of a cluster one after another. -/
def State.returnAll (s : State) (l : Launch) (k : Kernel) : List (Workgroup × CorePlace) → Option State
  | [] => some s
  | (w, p) :: r => match s.returnWorkgroup l k w p with
    | none => none
    | some s => State.returnAll s l k r

/-- CLUSTER_RESTORE (R105): a moved cluster is restored whole on cores of one core cluster; `place` names a core for each of its workgroups that
has not ended, ascending. -/
def execClusterRestore (ctx launch cluster : Nat) (place : List CorePlace) (s : State) : Host.Outcome State Fault Refusal :=
  match s.ctx? ctx with
  | none => .next s
  | some c => match c.launch? launch with
    | none => .next s
    | some l =>
        let k := l.kernel
        let ws := ((s.clusterWgs ctx launch cluster).filter (fun w => !w.ended)).foldl (fun l w => insertBy (fun w => w.wgc) w l) []
        let ccs := (place.map (fun p => clusterOf p.core)).eraseDups
        if c.run != .running || (s.movedClusters ctx launch).head? != some cluster || ws.any (fun w => w.resident) || place.length != ws.length ||
          !place.all (fun p => c.openCores.contains p.core) || s.passed ctx l || s.firstBack c l cluster 0 then .next s
        else match ccs, s.returnAll l k (ws.zip place) with
          | [cc], some t => .next (t.updLaunch ctx launch (fun l => l.homeAt cluster cc))
          | _, _ => .next s

/-- The bytes of a reply: the header of Table 18-2 and the data (18, R336). -/
def replyBytes (h : CmdHead) (status : Nat) (data : List (BitVec 8)) : List (BitVec 8) :=
  [h.code, h.ctx] ++ leBytes 2 h.tag.toNat ++ leBytes 4 data.length ++ leBytes 4 status ++ data

/-- Whether every vacated core of a context is free. -/
def State.vacateDone (s : State) (c : Context) : Bool :=
  c.vacating.isSome &&
  s.workgroups.all (fun w => w.ctx != c.no || !w.resident || !c.vacated.contains w.core || (w.ended && w.freed)) &&
  s.groups.all (fun g => g.ctx != c.no || !g.resident || !c.vacated.contains g.core)

/-- The core mask without the cores named. -/
def withoutCores (m : BitVec 128) (out : List Nat) : BitVec 128 := out.foldl (fun m i => m &&& ~~~ (1#128 <<< i)) m

/-- The vacated cores leave the context, once what ended clusters left dirty there has been pushed to the homes, and the command is answered. -/
def State.endVacate (s : State) (c : Context) (h : CmdHead) : State :=
  let out := c.vacated
  let s := s.track (s.pushCores c.no out) c.no 0
  let s : State := { s with workgroups := s.workgroups.map (fun w => if w.ctx == c.no && w.ended && out.contains w.core then { w with gone := true } else w) }
  let s := s.updCtx c.no (fun c => { c with vacating := none, args := { c.args with cores := withoutCores c.args.cores out } })
  { s with outbox := s.outbox ++ [.reply h.node (replyBytes h 0 [])] }

end Sys2Proof.Machine
end

