-- ==== Sys2Proof/Machine/Commands.lean ====
section
/-! DEFINITION. Host commands: their order and their replies, contexts, start, halt, resume, vacate, stop records, attestation, budgets and
queries (18, R336–R342, R345, R346). Maps and images are in MapCommands and ImageCommands. -/

namespace Sys2Proof.Machine

/-! ### Who may command, and in what order (R337) -/

/-- What a command answers: a status with data, or nothing yet. -/
abbrev Answer := Option (Nat × List (BitVec 8))

/-- The reply is one message: the header of Table 18-2, with the command's CODE, CTX and TAG, the LEN of the data and the STATUS, and the data. -/
def State.reply (s : State) (h : CmdHead) (status : Nat) (data : List (BitVec 8)) : State :=
  { s with outbox := s.outbox ++ [.reply h.node (replyBytes h status data)] }

def State.answered (s : State) (h : CmdHead) (a : Answer) : State :=
  match a with
  | some (status, data) => s.reply h status data
  | none => s

/-- The first node that sends a command becomes the host node; a command from another has no effect. -/
def State.fromHost (s : State) (h : CmdHead) (f : State → State) : State :=
  let s : State := { s with hostNode := some (s.hostNode.getD h.node) }
  if s.hostNode == some h.node then f s else s.reply h 4 []

/-- A command of the context has begun and is not answered yet. -/
def State.busy (s : State) (c : Context) : Bool :=
  c.vacating.isSome || c.halting.isSome || s.requests.any (fun r => r.ctx == c.no && r.job.isCommand)

/-- A command that names a context: performed at once, or in its turn. -/
def State.ctxCommand (s : State) (h : CmdHead) (i : Instr) (f : State → Context → State × Answer) : State :=
  s.fromHost h fun s =>
    match s.ctx? h.ctx.toNat with
    | none => s.reply h 2 []
    | some c =>
      if s.busy c then s.updCtx c.no (fun c => { c with waiting := c.waiting ++ [i] })
      else let r := f s c; r.1.answered h r.2

/-! ### Create and destroy (R340) -/

/-- How far ranges reach from an address without a gap. -/
def reach (spans : List Span) : Nat → Nat → Nat
  | 0, p => p
  | n + 1, p => match spans.find? (fun r => r.base ≤ p && p < r.base + r.size) with
    | some r => reach spans n (r.base + r.size)
    | none => p

/-- Whether a block lies within ranges. -/
def covered (spans : List Span) (base size : Nat) : Bool := base + size ≤ reach spans spans.length base
/-- Whether ranges share a byte; one of length zero is unused and has none. -/
def spansMeet (a b : Span) : Bool := a.size != 0 && b.size != 0 && a.base < b.base + b.size && b.base < a.base + a.size

/-- The frames of a pool list at a physical address. -/
def poolFrames (mem : Mem) (base n : Nat) : List Nat := (List.range n).map (fun i => mem.nat (base + 8 * i) 8)

/-- Whether the arguments of create context are valid (R340, R189, R185). -/
def State.argsValid (s : State) (a : ContextArgs) : Bool :=
  a.cores != 0 && a.ports != 0 && a.ports.toNat < 2 ^ 36 &&
  a.hbm.length ≤ 8 && a.hbm.all (fun r => r.size == 0 || r.base % 2 ^ 21 == 0 && r.size % 2 ^ 21 == 0 && r.base + r.size ≤ hbmSize) &&
  a.deep.length ≤ 2 && a.deep.all (fun r => r.size == 0 || (deepBase ≤ r.base && r.base + r.size ≤ deepEnd)) &&
  [a.reserve, a.saveArea, a.stopArea].all (fun r => r.size == 0 || covered a.hbm r.base r.size) &&
  !spansMeet a.reserve a.saveArea && !spansMeet a.reserve a.stopArea && !spansMeet a.saveArea a.stopArea &&
  a.reserve.size % 4096 == 0 && a.stopArea.size % 64 == 0 && 65536 ≤ a.stopArea.size &&
  a.root % 8192 == 0 && (poolFrames s.mem a.poolList a.poolCount).all (fun f => f % 65536 == 0 && covered a.hbm f 65536) &&
  a.ringBase % 16 == 0 && 16 ≤ a.ringN && a.ringN ≤ 65536 && 2 ^ a.ringN.log2 == a.ringN && a.ringCounter.toNat % 8 == 0 &&
  a.threshold < 65536

/-- Whether two contexts would own one resource (R340). -/
def argsClash (a b : ContextArgs) : Bool :=
  a.cores &&& b.cores != 0 || a.ports &&& b.ports != 0 || (a.hbm ++ a.deep).any (fun x => (b.hbm ++ b.deep).any (fun y => spansMeet x y))

/-- A context that has just been created. -/
def Context.created (no : Nat) (a : ContextArgs) (pool : List Nat) (clock : Nat) : Context where
  no := no
  args := a
  pool := pool
  run := .running
  stop := none
  records := []
  nrec := 0
  residencyFailures := 0
  brokenPromises := 0
  deferred := 0
  charges := 0
  finished := 0
  budget := a.budget
  clock := clock
  measurement := Config.romMeasure
  images := []
  kernels := []
  nextGrid := 0
  launches := []
  bindings := []
  waiting := []
  vacating := none
  halting := none
  saves := []

/-- The arithmetic clock at which a context's cores start: that of their dies. -/
def State.clockOf (s : State) (a : ContextArgs) : Nat :=
  ((List.range 128).filter (fun i => a.cores.getLsbD i)).foldl (fun m i => min m (s.die (dieOf i)).clock) 16

/-- CREATE_CONTEXT; which free number the context takes is open. -/
def execCreateContext (h : CmdHead) (args : ContextArgs) (s : State) : Host.Outcome State Fault Refusal :=
  .next (s.fromHost h fun s =>
    if !s.argsValid args then s.reply h 1 [] else
    let free := (List.range 16).filter (fun n => (s.ctx? n).isNone)
    if free.isEmpty || s.contexts.any (fun c => argsClash c.args args) then s.reply h 5 [] else
    let no := free.getD (choose s 0 (max 1 free.length)) 0
    let own : ContextArgs := { args with ports := args.ports &&& ~~~ (s.failedPorts.zeroExtend 64) }
    let c := Context.created no own (poolFrames s.mem args.poolList args.poolCount) (s.clockOf args)
    ({ s with contexts := s.contexts ++ [c] }.tick).reply h 0 (leBytes 1 no))

/-- The lines that a context leaves behind in its caches are dropped. -/
def State.dropCaches (s : State) (c : Context) : State :=
  let others := s.contexts.filter (fun x => x.no != c.no)
  let alone := fun (cc : Nat) => !others.any (fun x => x.coreClusters.contains cc)
  { s with
    cores := s.cores.filter (fun x => !c.coreList.contains x.1)
    clusters := s.clusters.map (fun x => if c.coreClusters.contains x.1 then
        (x.1, if alone x.1 then [] else x.2.filter (fun l => !c.owns (128 * l.no))) else x) }

/-- The head of a command. -/
def cmdHead : Instr → Option CmdHead
  | .createContext h _ => some h
  | .destroyContext h => some h
  | .map h _ _ _ _ => some h
  | .exportFrame h _ _ _ _ => some h
  | .unmap h _ => some h
  | .withdrawExport h _ => some h
  | .loadImage h _ _ => some h
  | .start h _ => some h
  | .halt h => some h
  | .resume h => some h
  | .vacate h _ => some h
  | .readStopRecord h _ => some h
  | .attest h _ => some h
  | .setEnergyBudget h _ => some h
  | .queryContext h => some h
  | _ => none

/-- The node that waits for the acknowledgement of an accepted merge. -/
def Job.merger : Job → Option (BitVec 11)
  | .merging _ q _ => some q.node
  | _ => none

/-- All that a context held is free: its work, merges of other devices that it had accepted, which are discarded and signal nothing (14, R261), its bindings without a settle (04, R62), its grants and locks, its translations and cached lines.
Whether dirty bytes still land is open. -/
def State.destroy (s : State) (c : Context) : State :=
  let s := if choose s 0 2 == 1 then s.pushContext c else s
  let wids := (s.workgroups.filter (fun w => w.ctx == c.no)).map (fun w => w.wid)
  let s := (s.sweepTlb c.no none).dropCaches c
  let merges := (s.requests.filter (fun r => r.ctx == c.no)).filterMap (fun r => r.job.merger)
  { s.tick with
    outbox := s.outbox ++ merges.map (fun n => .answer n true [])
    contexts := s.contexts.filter (fun x => x.no != c.no)
    groups := s.groups.filter (fun g => g.ctx != c.no)
    workgroups := s.workgroups.filter (fun w => w.ctx != c.no)
    bars := s.bars.filter (fun b => b.ctx != c.no)
    joints := s.joints.filter (fun j => !wids.contains j.wid)
    requests := s.requests.filter (fun r => r.ctx != c.no)
    grants := s.grants.filter (fun g => g.ctx != c.no)
    locked := s.locked.filter (fun k => k.1 != c.no)
    stamps := s.stamps.filter (fun t => t.ctx != c.no)
    counterVcs := s.counterVcs.filter (fun k => !c.owns k.pa)
    notices := s.notices.filter (fun k => !c.owns (65536 * k.1))
    copied := s.copied.filter (fun k => !c.owns (128 * k.1) && !c.owns (128 * k.2)) }

/-- DESTROY_CONTEXT. Commands that still wait for the context name none any more. -/
def cmdDestroyContext (h : CmdHead) (s : State) : State :=
  s.ctxCommand h (.destroyContext h) fun (s : State) (c : Context) =>
    (c.waiting.foldl (fun s i => match cmdHead i with
      | some k => s.reply k 2 []
      | none => s) ((s.destroy c).reply h 0 []), none)

/-! ### Start (R338) -/

/-- START: the descriptor is checked, a grid of more than one row being taken as it is, which is the model's choice (06, R101; log 50), and admission gives the result of Table 11-6, whether it admits or refuses. -/
def cmdStart (h : CmdHead) (desc : List (BitVec 8)) (s : State) : State :=
  s.ctxCommand h (.start h desc) fun (s : State) (c : Context) =>
    match c.kernel? (leNat (desc.take 8)) with
    | none => (s, some (1, []))
    | some k =>
      let l := launchOf desc k true 0 s.time
      if c.launches.any (fun l => l.root && !l.ended) then (s, some (3, []))
      else if desc.length != 64 || !descLegal c desc || !s.countersOk c.no l then (s, some (1, []))
      else
        let code := s.admission c l k.regs
        (if code == 0 then s.accept c.no l else s.tick, some (0, leBytes 8 (launchResult code s.promiseOf)))

/-! ### Halt, resume, vacate, stop records (R320, R321; 06, R104, R105) -/

/-- HALT: the line is raised with cause 0x20, and the answer comes when the last unit has stopped; of a halted context at once. -/
def cmdHalt (h : CmdHead) (s : State) : State :=
  s.ctxCommand h (.halt h) fun (s : State) (c : Context) =>
    if c.run == RunState.halted then (s, some (0, [])) else
    ((s.raiseLine c.no ⟨⟨0x20, 3, 0, 0, 0⟩, 0, 0, s.time, s.clock, 0, 0, 0, []⟩).updCtx c.no (fun c => { c with halting := some h }), none)

/-- RESUME. A vacate that has begun comes first, and completes while the context is halted (R337). -/
def cmdResume (h : CmdHead) (s : State) : State :=
  s.ctxCommand h (.resume h) fun (s : State) (c : Context) =>
    if c.run != RunState.halted then (s, some (3, [])) else (s.resumeContext c.no, some (0, []))

/-- Whether a vacate is refused (R105): a cluster of an unfinished launch would not fit the cores that remain, or, which is the device's own
judgement, a promise could not be kept. -/
def State.vacateRefused (s : State) (c : Context) (k : Nat) : Bool :=
  let live := c.launches.filter (fun l => !l.ended)
  let keep := c.coreList.take (c.coreList.length - k)
  !live.isEmpty && 0 < k && (live.any (fun l => !shapeFits c keep l) || choose s 2 2 == 1)

/-- VACATE: the answer comes when every vacated core is free. -/
def cmdVacate (h : CmdHead) (k : BitVec 32) (s : State) : State :=
  s.ctxCommand h (.vacate h k) fun (s : State) (c : Context) =>
    if c.run != .running then (s, some (3, []))
    else if c.coreList.length < k.toNat then (s, some (1, []))
    else if s.vacateRefused c k.toNat then (s.tick, some (6, []))
    else (s.beginVacate c.no h k.toNat, none)

/-- READ_STOP_RECORD (R321). -/
def cmdReadStopRecord (h : CmdHead) (index : BitVec 32) (s : State) : State :=
  s.ctxCommand h (.readStopRecord h index) fun (s : State) (c : Context) =>
    match c.records[index.toNat]? with
    | some r => (s, some (0, r))
    | none => (s, some (2, []))

/-! ### Attestation, energy, queries (R341, R342, Table 18-5) -/

/-- The bytes of a 384-bit value. -/
def bytes384 (v : BitVec 384) : List (BitVec 8) := leBytes 48 v.toNat

/-- The 144 bytes of an attestation (R342). -/
def attestation (nonce m : BitVec 384) (ctx : Nat) : List (BitVec 8) :=
  let sig := Config.sign (Config.sha384 (bytes384 nonce ++ bytes384 m ++ leBytes 8 Config.serial.toNat ++ leBytes 1 ctx))
  bytes384 m ++ bytes384 sig.1 ++ bytes384 sig.2

/-- ATTEST (R342). -/
def cmdAttest (h : CmdHead) (nonce : BitVec 384) (s : State) : State :=
  s.ctxCommand h (.attest h nonce) fun (s : State) (c : Context) => (s, some (0, attestation nonce c.measurement c.no))

/-- SET_ENERGY_BUDGET (R341). -/
def cmdSetEnergyBudget (h : CmdHead) (budget : BitVec 64) (s : State) : State :=
  s.ctxCommand h (.setEnergyBudget h budget) fun (s : State) (c : Context) => (s.updCtx c.no (fun c => { c with budget := budget.toNat }), some (0, []))

/-- The energy that a context has consumed: its charges and what every launch of it consumed. -/
def Context.consumed (c : Context) : Nat := c.charges + c.finished + ((c.launches.filter (fun l => !l.ended)).map (fun l => l.used)).sum

/-- QUERY_CONTEXT, selector 2. -/
def cmdQueryContext (h : CmdHead) (s : State) : State :=
  s.ctxCommand h (.queryContext h) fun (s : State) (c : Context) =>
    (s, some (0, leBytes 8 c.consumed ++ leBytes 8 c.budget ++ leBytes 8 c.residencyFailures ++ leBytes 8 c.brokenPromises))

/-- A query that names no context. -/
def State.query (s : State) (h : CmdHead) (data : State → List (BitVec 8)) : State := s.fromHost h (fun s => s.reply h 0 (data s))

/-- The number of ports that failed training. -/
def failedCount (p : BitVec 36) : Nat := ((List.range 36).filter (fun i => p.getLsbD i)).length

/-- QUERY_IDENTITY, selector 0: node, serial, ROM version with the count of failed ports above it (R343). -/
def execQueryIdentity (h : CmdHead) (s : State) : Host.Outcome State Fault Refusal :=
  .next (s.query h (fun s => leBytes 2 s.node.toNat ++ leBytes 8 Config.serial.toNat ++
    leBytes 4 (Config.romVersion.toNat + 2 ^ 24 * failedCount s.failedPorts)))

/-- QUERY_PUBLIC_KEY, selector 1. -/
def execQueryPublicKey (h : CmdHead) (s : State) : Host.Outcome State Fault Refusal := .next (s.query h (fun _ => leBytes 97 Config.publicKey.toNat))

/-- QUERY_ERROR_COUNTS, selector 3. -/
def execQueryErrorCounts (h : CmdHead) (s : State) : Host.Outcome State Fault Refusal :=
  .next (s.query h (fun s => s.dies.flatMap (fun d => leBytes 8 d.corrected ++ leBytes 8 d.deferred)))

/-- QUERY_THERMAL, selector 4. -/
def execQueryThermal (h : CmdHead) (s : State) : Host.Outcome State Fault Refusal :=
  .next (s.query h (fun s => s.dies.flatMap (fun d => leBytes 2 d.temp ++ leBytes 1 d.clock)))

/-! ### The commands as steps -/

def execDestroyContext (h : CmdHead) (s : State) : Host.Outcome State Fault Refusal := .next (cmdDestroyContext h s)
def execStart (h : CmdHead) (desc : List (BitVec 8)) (s : State) : Host.Outcome State Fault Refusal := .next (cmdStart h desc s)
def execHalt (h : CmdHead) (s : State) : Host.Outcome State Fault Refusal := .next (cmdHalt h s)
def execResume (h : CmdHead) (s : State) : Host.Outcome State Fault Refusal := .next (cmdResume h s)
def execVacate (h : CmdHead) (k : BitVec 32) (s : State) : Host.Outcome State Fault Refusal := .next (cmdVacate h k s)
def execReadStopRecord (h : CmdHead) (index : BitVec 32) (s : State) : Host.Outcome State Fault Refusal := .next (cmdReadStopRecord h index s)
def execAttest (h : CmdHead) (nonce : BitVec 384) (s : State) : Host.Outcome State Fault Refusal := .next (cmdAttest h nonce s)
def execSetEnergyBudget (h : CmdHead) (budget : BitVec 64) (s : State) : Host.Outcome State Fault Refusal := .next (cmdSetEnergyBudget h budget s)
def execQueryContext (h : CmdHead) (s : State) : Host.Outcome State Fault Refusal := .next (cmdQueryContext h s)

end Sys2Proof.Machine
end

