-- ==== Sys2Proof/Machine/MapCommands.lean ====
section
/-! DEFINITION. Map, unmap, export, withdraw export, and the end of a migration (18, R334, R345, R346; 10, R181, R183, R190; 04, R45). -/

namespace Sys2Proof.Machine

/-! ### Where a leaf goes -/

/-- What a walk for a page of a size finds at its level. -/
inductive Place where
  /-- The entry at this address maps nothing. -/
  | open_ (at_ : Nat)
  /-- The entry at this address is a leaf of that size. -/
  | leaf (at_ entry : Nat)
  /-- A leaf of another size lies over or under the page. -/
  | other
  /-- A table on the way is missing. -/
  | noTable
  deriving DecidableEq, Repr

/-- Whether a table holds a leaf at any depth. -/
def holdsLeaf (mem : Mem) : List (Nat × Nat × Bool) → Nat → Bool
  | [], _ => false
  | (_, n, _) :: rest, table =>
    (List.range (2 ^ n)).any (fun i =>
      let e := mem.nat (table + 8 * i) 8
      bits e 0 1 == 1 && (bits e 1 1 == 1 || holdsLeaf mem rest (bits e 7 45 * 2 ^ 7)))

/-- The place of a page of `2^size` bytes in a context's tables. -/
def placeOf (mem : Mem) (va size : Nat) : List (Nat × Nat × Bool) → Nat → Place
  | [], _ => .noTable
  | (lo, n, _) :: rest, table =>
    let a := table + 8 * bits va lo n
    let e := mem.nat a 8
    if lo == size then
      (if bits e 0 1 == 0 then .open_ a
       else if bits e 1 1 == 1 then .leaf a e
       else if holdsLeaf mem rest (bits e 7 45 * 2 ^ 7) then .other else .open_ a)
    else if bits e 0 1 == 0 then .noTable
    else if bits e 1 1 == 1 then .other
    else placeOf mem va size rest (bits e 7 45 * 2 ^ 7)

/-- The page size that a size code names, as a power of two. -/
def sizeCode (size : BitVec 8) : Option Nat :=
  match size.toNat with
  | 0 => some 16
  | 1 => some 21
  | 2 => some 25
  | 3 => some 30
  | _ => none

/-- The value of a leaf: V, LEAF, the flags, which stand at their bits 6:2, and the frame (Table 10-5). -/
def leafEntry (frame : Nat) (flags : BitVec 8) : Nat := frame + 3 + bits flags.toNat 2 5 * 4

/-- The frame that a map stores: a system address of the device's own node becomes the local one (R334). -/
def State.localFrame (s : State) (frame : Nat) : Nat :=
  if regionOf frame == .system && sysNode frame == s.node.toNat then sysOff frame else frame

/-- Whether a context may map a frame (R345, R181): a local one is granted to it, meets none of the areas that only the device writes, and lies in one
region; only deep memory backs a page that is not resident. -/
def frameAllowed (c : Context) (frame size : Nat) (res : Bool) : Bool :=
  frame % size == 0 && frame < 2 ^ 52 && regionOf frame != .reserved && regionOf frame == regionOf (frame + size - 1) &&
  (res || regionOf frame == .deep) &&
  (isRemote frame || (covered (c.args.hbm ++ c.args.deep) frame size &&
    !(([c.args.reserve, c.args.saveArea, c.args.stopArea] : List Span).any (fun r => spansMeet r ⟨frame, size⟩))))

/-! ### Map -/

/-- The leaf is written, and every holder gives up its translations of the page (R183). -/
def State.writeLeaf (s : State) (ctx va a e : Nat) : State := (s.landWord a e).sweepTlb ctx (some va)

/-- A mapped page is to move to another frame: its copy is a request that no word made. -/
def State.startMigration (s : State) (h : CmdHead) (ctx va bits_ frame : Nat) (flags : BitVec 8) (entry : Nat) : State :=
  let f := fun (i : Nat) => flags.getLsbD i
  let l : Leaf := ⟨ctx, va, bits_, bits entry 16 36 * 2 ^ 16, f 2, f 3, f 4, f 5, f 6⟩
  let r : Request := ⟨s.fresh, ctx, 0, 0, false, 0, 0, Hints.empty, .migrate va l frame h.tag h.node, if isRemote l.frame then some s.time else none, none, 0xFFFF⟩
  { s with requests := s.requests ++ [r] }.tick

/-- MAP of a page whose arguments are valid. Windows of ended workgroups may then be written back (10, R178). -/
def State.mapPage (s : State) (h : CmdHead) (c : Context) (va bits_ frame : Nat) (flags : BitVec 8) : State × Answer :=
  match placeOf s.mem va bits_ walkLevels c.args.root with
  | .other => (s, some (1, []))
  | .noTable => (s, some (5, []))
  | .open_ a => ((s.writeLeaf c.no va a (leafEntry frame flags)).settleEnds, some (0, []))
  | .leaf a e =>
    let old := bits e 16 36 * 2 ^ 16
    if old == frame then ((s.writeLeaf c.no va a (leafEntry frame flags)).settleEnds, some (0, []))
    else if s.pinned old (2 ^ bits_) then (s, some (6, []))
    else (s.startMigration h c.no va bits_ frame flags e, none)

/-- EXPORT (R346): a region of HBM granted to the context becomes reachable by a node. -/
def State.exportRegion (s : State) (c : Context) (va : BitVec 64) (size : BitVec 8) (frame : BitVec 64) : State × Answer :=
  match sizeCode size with
  | none => (s, some (1, []))
  | some b =>
    let base := s.localFrame frame.toNat
    if base % 2 ^ b != 0 || regionOf base != .hbm || !covered c.args.hbm base (2 ^ b) then (s, some (1, [])) else
    let node := va.extractLsb' 40 11
    let kept := s.grants.filter (fun g => !(g.node == node && g.base == base))
    ({ s with grants := kept ++ [⟨c.no, node, base, 2 ^ b⟩] }, some (0, []))

/-- MAP (R345); with bit 7 of its flags it exports. -/
def cmdMap (h : CmdHead) (va : BitVec 64) (size flags : BitVec 8) (frame : BitVec 64) (s : State) : State :=
  s.ctxCommand h (.map h va size flags frame) fun (s : State) (c : Context) =>
    if flags.getLsbD 7 then s.exportRegion c va size frame else
    match sizeCode size with
    | none => (s, some (1, []))
    | some b =>
      let f := s.localFrame frame.toNat
      if bits flags.toNat 0 2 != 0 || 2 ^ 56 ≤ va.toNat || va.toNat % 2 ^ b != 0 || !frameAllowed c f (2 ^ b) (flags.getLsbD 2) then (s, some (1, []))
      else s.mapPage h c va.toNat b f flags

/-- EXPORT: flag bits 6:0 are ignored. -/
def cmdExportFrame (h : CmdHead) (va : BitVec 64) (size flags : BitVec 8) (frame : BitVec 64) (s : State) : State :=
  s.ctxCommand h (.exportFrame h va size flags frame) fun (s : State) (c : Context) => s.exportRegion c va size frame

/-! ### Unmap -/

/-- WITHDRAW_EXPORT (R346). -/
def State.withdraw (s : State) (va : BitVec 64) : State × Answer :=
  let v := va.toNat
  if bits v 51 13 != 0 || bits v 8 8 != 0 || bits v 0 7 != 0 then (s, some (1, [])) else
  let node := va.extractLsb' 40 11
  let hit := fun (g : Grant) => g.node == node && g.base == bits v 16 24 * 2 ^ 16
  if s.grants.any hit then ({ s with grants := s.grants.filter (fun g => !hit g) }, some (0, [])) else (s, some (2, []))

/-- UNMAP (R45, R183): the leaf that maps the address is cleared. -/
def State.unmapPage (s : State) (c : Context) (va : Nat) : State × Answer :=
  match (if va < 2 ^ 56 then leafSlot s.mem va walkLevels c.args.root else none) with
  | none => (s, some (2, []))
  | some (a, e, lo) =>
    if s.contexts.any (fun x => x.bindings.any (fun b => b.holds (bits e 16 36 * 2 ^ 16) (2 ^ lo))) then (s, some (6, []))
    else (s.writeLeaf c.no va a 0, some (0, []))

/-- UNMAP; with bit 7 of its VA it withdraws an export. -/
def cmdUnmap (h : CmdHead) (va : BitVec 64) (s : State) : State :=
  s.ctxCommand h (.unmap h va) fun (s : State) (c : Context) => if va.getLsbD 7 then s.withdraw va else s.unmapPage c va.toNat

def cmdWithdrawExport (h : CmdHead) (va : BitVec 64) (s : State) : State :=
  s.ctxCommand h (.withdrawExport h va) fun (s : State) (_c : Context) => s.withdraw va

/-! ### The end of a migration (R190) -/

/-- The leaf of a page with the flags that a map command gave. -/
def State.reflag (s : State) (ctx : Nat) (va : Nat) (leaf : Leaf) : State :=
  match (s.ctx? ctx).bind (fun c => leafSlot s.mem va walkLevels c.args.root) with
  | none => s
  | some (a, e, _) =>
    let flag := fun (b : Bool) (n : Nat) => if b then n else 0
    s.writeLeaf ctx va a (e / 128 * 128 + 3 + flag leaf.res 4 + flag leaf.w 8 + flag leaf.x 16 + flag leaf.trk 32 + flag leaf.hot 64)

/-- The page of a map command stands at its new frame: its leaf is switched, and the command is answered; accesses that still arrive for the old frame
are forwarded. Lines that were copied before keep what stands at their new places. A page that was bound or locked meanwhile is refused as it was at first
(04, R45). -/
def State.endMigration (s : State) (r : Request) (va : Nat) (leaf : Leaf) (frame : Nat) (h : CmdHead) (data : List (BitVec 8)) : State :=
  let s := s.endCopied leaf.frame (2 ^ leaf.bits)
  if s.pinned leaf.frame (2 ^ leaf.bits) then (s.dropRequest r.id).reply h 6 [] else
  let s := (s.migratePage r.ctx va frame data).reflag r.ctx va leaf
  let on := fun (q : Request) => { q with job := Job.forward leaf.frame (2 ^ leaf.bits) frame }
  ({ s with requests := mapWhere (fun q => q.id == r.id) on s.requests } : State).settleEnds.reply h 0 []

/-- Forwarding stops, and the old frame returns to the pool. -/
def State.endForward (s : State) (r : Request) (old : Nat) : State :=
  (if regionOf old == .hbm then s.updCtx r.ctx (fun c => { c with pool := c.pool ++ [old] }) else s).dropRequest r.id

/-! ### The commands as steps -/

def execMap (h : CmdHead) (va : BitVec 64) (size flags : BitVec 8) (frame : BitVec 64) (s : State) : Host.Outcome State Fault Refusal :=
  .next (cmdMap h va size flags frame s)
def execExportFrame (h : CmdHead) (va : BitVec 64) (size flags : BitVec 8) (frame : BitVec 64) (s : State) : Host.Outcome State Fault Refusal :=
  .next (cmdExportFrame h va size flags frame s)
def execUnmap (h : CmdHead) (va : BitVec 64) (s : State) : Host.Outcome State Fault Refusal := .next (cmdUnmap h va s)
def execWithdrawExport (h : CmdHead) (va : BitVec 64) (s : State) : Host.Outcome State Fault Refusal := .next (cmdWithdrawExport h va s)

end Sys2Proof.Machine
end

