-- ==== Sys2Proof/Machine/ImageCommands.lean ====
section
/-! DEFINITION. Load image: sections, kernel tables and recipe tables, their checks, and where the bytes go (18, R338, Tables 18-8, 18-9). -/

namespace Sys2Proof.Machine

/-- A section of an image. -/
structure ImageSection where
  kind : Nat
  flags : Nat
  va : Nat
  data : List (BitVec 8)
  deriving DecidableEq, Repr

/-- A field of a table, little-endian. -/
def tableField (bs : List (BitVec 8)) (off n : Nat) : Nat := leNat ((bs.drop off).take n)

/-- The sections of an image, each with a header of 24 bytes and its bytes padded to 8. The fuel is the length of the image. -/
def imageSections : Nat → List (BitVec 8) → Option (List ImageSection)
  | _, [] => some []
  | 0, _ => none
  | n + 1, bs =>
    let len := tableField bs 16 8
    let size := roundUp len 8
    if bs.length < 24 + size then none else
    (imageSections n (bs.drop (24 + size))).map (fun r => ⟨tableField bs 0 4, tableField bs 4 4, tableField bs 8 8, (bs.drop 24).take len⟩ :: r)

/-- A recipe entry (Table 18-9). -/
def recipeEntry (bs : List (BitVec 8)) : Option Recipe :=
  let lines := tableField bs 3 1
  let line := fun (i : Nat) => (BitVec.ofNat 32 (tableField bs (0x10 + 8 * i) 4), BitVec.ofNat 32 (tableField bs (0x14 + 8 * i) 4))
  if bs.length != 48 || tableField bs 2 1 > 1 || tableField bs 4 12 != 0 || lines > 4 then none
  else if ((List.range 4).drop lines).any (fun i => line i != (0, 0)) then none
  else some ⟨tableField bs 0 1, tableField bs 1 1, tableField bs 2 1 == 1, (List.range lines).map line⟩

/-- The entries of a recipe table. -/
def recipeEntries : Nat → List (BitVec 8) → Option (List Recipe)
  | 0, bs => if bs.isEmpty then some [] else none
  | n + 1, bs => match recipeEntry (bs.take 48), recipeEntries n (bs.drop 48) with
    | some r, some rs => if rs.any (fun x => x.k == r.k) then none else some (r :: rs)
    | _, _ => none

/-- What an image holds beside its bytes: its kernels, each with the number of recipes that its table announces, its code ranges, its constant segments,
and the handles of its kernel tables. -/
structure ImageTables where
  kernels : List (Kernel × Nat)
  code : List (Nat × Nat)
  consts : List (Nat × Nat)
  handles : List Nat
  deriving DecidableEq, Repr

/-- Whether an address is that of a word of the image's code. -/
def ImageTables.isCode (t : ImageTables) (va : Nat) : Bool := va % 4 == 0 && t.code.any (fun r => r.1 ≤ va && va < r.1 + r.2)

/-- The first code address of an image. -/
def firstCode (code : List (Nat × Nat)) : Nat :=
  match code with
  | [] => 0
  | r :: rs => rs.foldl (fun m x => min m x.1) r.1

/-- Whether a code address is in the code of the kernel with a handle: in the section that this begins in, from it on, and before the next kernel. -/
def ImageTables.inKernel (t : ImageTables) (handle va : Nat) : Bool :=
  t.isCode va && handle ≤ va && t.code.any (fun r => r.1 ≤ handle && handle < r.1 + r.2 && va < r.1 + r.2) &&
  !t.handles.any (fun h => handle < h && h ≤ va)

/-- Whether CONST and CLEN name a constant segment of the image, or none. -/
def ImageTables.constOk (t : ImageTables) (base len : Nat) : Bool := if base == 0 then len == 0 else t.consts.contains (base, len)

/-- A kernel table (Table 18-8). -/
def kernelTable (t : ImageTables) (va : Nat) (bs : List (BitVec 8)) : Option (Kernel × Nat) :=
  let f := tableField bs
  let views := f 0x0C 4
  let k : Kernel := {
    handle := f 0 8, regs := f 8 4, vwv := bits views 0 10, vwt := bits views 10 10, vwa := bits views 20 10, det := f 0x10 4 == 1,
    handler := f 0x18 8, constBase := f 0x20 8, clen := f 0x28 4, calls := (List.range (f 0x2C 4)).map (fun i => f (0x50 + 8 * i) 8),
    defaults := (bs.drop 0x30).take 28, recipes := [], codeBase := firstCode t.code }
  if bs.length < 0x50 || bs.length != 0x50 + 8 * f 0x2C 4 || k.handle != va || !t.isCode k.handle ||
     k.regs % 64 != 0 || k.regs < 64 || 1024 < k.regs || bits views 30 2 != 0 || k.vwv % 4 != 0 || k.vwt % 64 != 0 || k.vwa % 16 != 0 ||
     1 < f 0x10 4 || 32 < f 0x14 4 || (k.handler != 0 && !t.inKernel k.handle k.handler) || 65536 < k.clen || !t.constOk k.constBase k.clen || f 0x4C 4 != 0 then none
  else some (k, f 0x14 4)

/-- One section's tables taken up; none where it is malformed or breaks a rule. -/
def ImageTables.take (t : ImageTables) (x : ImageSection) : Option ImageTables :=
  if x.flags != 0 then none else
  match x.kind with
  | 1 => some t
  | 2 => some t
  | 3 => some t
  | 4 =>
    (match t.kernels.find? (fun k => k.1.handle == x.va) with
    | none => none
    | some (k, n) =>
      if !k.recipes.isEmpty || x.data.length != 48 * n then none else
      match recipeEntries n x.data with
      | none => none
      | some rs => if rs.all (fun r => r.legal k) then
          some { t with kernels := mapWhere (fun y => y.1.handle == x.va) (fun y => ({ y.1 with recipes := rs }, y.2)) t.kernels } else none)
  | 5 => if t.kernels.any (fun k => k.1.handle == x.va) then none
    else (kernelTable t x.va x.data).map (fun k => { t with kernels := t.kernels ++ [k] })
  | _ => none

def takeSections : ImageTables → List ImageSection → Option ImageTables
  | t, [] => some t
  | t, x :: r => match t.take x with
    | none => none
    | some t => takeSections t r

/-- The sections whose bytes are written to memory. -/
def ImageSection.written (x : ImageSection) : Bool := x.kind ≤ 3

/-- Whether every page that a section reaches has a valid leaf; whether it is resident or writable does not matter. -/
def State.reaches (s : State) (ctx : Nat) (x : ImageSection) : Bool :=
  x.data.isEmpty || (List.range ((x.va + x.data.length - 1) / 65536 + 1 - x.va / 65536)).all (fun i =>
    (s.walkHome ctx (65536 * (x.va / 65536 + i))).isSome)

/-- A section's bytes land at their homes, a line at a time. -/
def State.loadBytes : Nat → State → Nat → Nat → List (BitVec 8) → State
  | 0, s, _, _, _ => s
  | n + 1, s, ctx, va, bs =>
    if bs.isEmpty then s else
    let k := 128 - va % 128
    match s.walkHome ctx va with
    | none => s
    | some l =>
      let here := bs.take k
      State.loadBytes n (s.landAny 0 (some ctx) ((here.zip (List.range here.length)).map (fun b => (l.pa va + b.2, b.1, !l.trk))) []) ctx (va + k) (bs.drop k)

/-- The bytes over which an image is measured (R342). -/
def measured (m : BitVec 384) (image : List (BitVec 8)) (flags : BitVec 32) : BitVec 384 :=
  Config.sha384 (bytes384 m ++ bytes384 (Config.sha384 image) ++ leBytes 4 flags.toNat)

/-- The tables of a well-formed image, with its sections. -/
def imageTables (image : List (BitVec 8)) : Option (List ImageSection × ImageTables) :=
  match imageSections image.length image with
  | none => none
  | some xs =>
    let code := (xs.filter (fun x => x.kind == 1)).map (fun x => (x.va, x.data.length))
    let consts := (xs.filter (fun x => x.kind == 2)).map (fun x => (x.va, x.data.length))
    match takeSections ⟨[], code, consts, (xs.filter (fun x => x.kind == 5)).map (fun x => x.va)⟩ xs with
    | none => none
    | some t => if t.kernels.all (fun k => k.1.recipes.length == k.2) then some (xs, t) else none

/-- A range without another. -/
def outside (r cut : Nat × Nat) : List (Nat × Nat) :=
  [(r.1, min (r.1 + r.2) cut.1 - r.1), (max r.1 (cut.1 + cut.2), r.1 + r.2 - max r.1 (cut.1 + cut.2))].filter (fun x => x.2 != 0)

/-- Images whose code a later image's sections are written over: only the rest is theirs still (08, R161). -/
def overlaid (xs : List ImageSection) (is : List Image) : List Image :=
  is.map (fun i => { i with code := xs.foldl (fun code x => code.flatMap (fun r => outside r (x.va, x.data.length))) i.code })

/-- The bytes that the device reads at a source address: of its own HBM, or of another device or the host as the fabric answers. -/
def State.sourceBytes (s : State) (x : ImageSource) : Option (List (BitVec 8)) :=
  let pa := s.localFrame x.src.toNat
  let len := x.len.toNat
  if isRemote pa then (match x.remote with
    | .data bs => if bs.length == len then some bs else none
    | _ => none)
  else if systemBase ≤ x.src.toNat && pa + len ≤ hbmSize then some (s.mem.read pa len)
  else none

/-- LOAD_IMAGE. A source that is no system address, or that cannot be read, is an invalid argument, which is the model's choice (log 60). -/
def cmdLoadImage (h : CmdHead) (flags : BitVec 32) (image : ImageSource) (s : State) : State :=
  s.ctxCommand h (.loadImage h flags image) fun (s : State) (c : Context) =>
    match (s.sourceBytes image).bind (fun bs => (imageTables bs).map (fun x => (bs, x))) with
    | none => (s, some (1, []))
    | some (bs, xs, t) =>
      if flags.toNat / 2 != 0 || !(xs.filter ImageSection.written).all (fun x => s.reaches c.no x) then (s, some (1, [])) else
      let s := (xs.filter ImageSection.written).foldl (fun s x => State.loadBytes (x.data.length + 1) s c.no x.va x.data) s
      let fresh := t.kernels.map (fun k => k.1)
      (s.updCtx c.no (fun c => { c with
        images := ⟨t.code, flags.getLsbD 0⟩ :: overlaid (xs.filter ImageSection.written) c.images
        kernels := fresh ++ c.kernels.filter (fun k => !fresh.any (fun f => f.handle == k.handle))
        measurement := measured c.measurement bs flags }), some (0, leBytes 8 (firstCode t.code)))

def execLoadImage (h : CmdHead) (flags : BitVec 32) (image : ImageSource) (s : State) : Host.Outcome State Fault Refusal :=
  .next (cmdLoadImage h flags image s)

/-! ### Messages (R336) -/

/-- How many bytes of arguments each CODE of Table 18-3 takes. -/
def commandLen (code : Nat) : Option Nat :=
  ([(1, 286), (2, 0), (3, 18), (4, 8), (5, 20), (6, 64), (7, 0), (8, 0), (9, 4), (10, 4), (11, 48), (12, 8), (13, 4)].find? (fun x => x.1 == code)).map (fun x => x.2)

/-- The arguments of create context from their 286 bytes (Table 18-4). -/
def contextArgsOf (bs : List (BitVec 8)) : ContextArgs :=
  let f := fun (o n : Nat) => leNat ((bs.drop o).take n)
  let span := fun (o : Nat) => (⟨f o 8, f (o + 8) 8⟩ : Span)
  { cores := BitVec.ofNat 128 (f 0 16), ports := BitVec.ofNat 64 (f 16 8), hbm := (List.range 8).map (fun i => span (24 + 16 * i)),
    deep := [span 152, span 168], root := f 184 8, poolList := f 192 8, poolCount := f 200 4, reserve := span 204, saveArea := span 220, stopArea := span 236,
    ringBase := f 252 8, ringN := f 260 4, ringCounter := BitVec.ofNat 64 (f 264 8), lockQuota := f 272 4, threshold := f 276 2, budget := f 278 8 }

/-- The command of a message's CODE and arguments. -/
def commandOf (h : CmdHead) (bs : List (BitVec 8)) (source : RemoteReply) : Option Instr :=
  let f := fun (o n : Nat) => leNat ((bs.drop o).take n)
  let va := BitVec.ofNat 64 (f 0 8)
  match h.code.toNat with
  | 1 => some (.createContext h (contextArgsOf bs))
  | 2 => some (.destroyContext h)
  | 3 => some (if BitVec.getLsbD (BitVec.ofNat 8 (f 9 1)) 7 then .exportFrame h va (BitVec.ofNat 8 (f 8 1)) (BitVec.ofNat 8 (f 9 1)) (BitVec.ofNat 64 (f 10 8))
      else .map h va (BitVec.ofNat 8 (f 8 1)) (BitVec.ofNat 8 (f 9 1)) (BitVec.ofNat 64 (f 10 8)))
  | 4 => some (if va.getLsbD 7 then .withdrawExport h va else .unmap h va)
  | 5 => some (.loadImage h (BitVec.ofNat 32 (f 16 4)) ⟨va, BitVec.ofNat 64 (f 8 8), source⟩)
  | 6 => some (.start h bs)
  | 7 => some (.halt h)
  | 8 => some (.resume h)
  | 9 => some (.vacate h (BitVec.ofNat 32 (f 0 4)))
  | 10 => some (.readStopRecord h (BitVec.ofNat 32 (f 0 4)))
  | 11 => some (.attest h (BitVec.ofNat 384 (f 0 48)))
  | 12 => some (.setEnergyBudget h va)
  | 13 => (match f 0 4 with
    | 0 => some (.queryIdentity h)
    | 1 => some (.queryPublicKey h)
    | 2 => some (.queryContext h)
    | 3 => some (.queryErrorCounts h)
    | 4 => some (.queryThermal h)
    | _ => none)
  | _ => none

/-- The header of a message from a node. Its STATUS, which only a reply sets, is taken to stand in it all the same (log 60). -/
def headOf (node : BitVec 11) (msg : List (BitVec 8)) : CmdHead :=
  let f := fun (o n : Nat) => leNat ((msg.drop o).take n)
  ⟨node, BitVec.ofNat 8 (f 1 1), BitVec.ofNat 16 (f 2 2), BitVec.ofNat 8 (f 0 1)⟩

/-- The command in a message: none where its CODE or selector is unassigned, or LEN is not that of the command or not that of the message. -/
def messageCommand (node : BitVec 11) (msg : List (BitVec 8)) (source : RemoteReply) : Option Instr :=
  let h := headOf node msg
  let len := leNat ((msg.drop 4).take 4)
  if msg.length == 12 + len && len ≤ 448 && commandLen h.code.toNat == some len then commandOf h (msg.drop 12) source else none

/-- A message that is no command is answered as an invalid argument, which is the model's choice (log 60). -/
def State.noCommand (s : State) (h : CmdHead) : State := s.fromHost h (fun s => s.reply h 1 [])

/-! ### Commands in their turn (R337) -/

/-- A command that names a context, carried out; other steps do nothing here. -/
def State.perform (s : State) (i : Instr) : State :=
  match i with
  | .destroyContext h => cmdDestroyContext h s
  | .map h va size flags frame => cmdMap h va size flags frame s
  | .exportFrame h va size flags frame => cmdExportFrame h va size flags frame s
  | .unmap h va => cmdUnmap h va s
  | .withdrawExport h va => cmdWithdrawExport h va s
  | .loadImage h flags image => cmdLoadImage h flags image s
  | .start h desc => cmdStart h desc s
  | .halt h => cmdHalt h s
  | .resume h => cmdResume h s
  | .vacate h k => cmdVacate h k s
  | .readStopRecord h index => cmdReadStopRecord h index s
  | .attest h nonce => cmdAttest h nonce s
  | .setEnergyBudget h budget => cmdSetEnergyBudget h budget s
  | .queryContext h => cmdQueryContext h s
  | _ => s

/-- After an answer, the commands that wait for a context are carried out in order, until one of them is not answered at once. -/
def State.drain : Nat → State → Nat → State
  | 0, s, _ => s
  | n + 1, s, ctx =>
    match s.ctx? ctx with
    | none => s
    | some c =>
      if s.busy c then s else
      match c.waiting with
      | [] => s
      | i :: r => State.drain n ((s.updCtx ctx (fun c => { c with waiting := r })).perform i) ctx

/-- The commands that wait for a context go on. -/
def State.goOn (s : State) (ctx : Nat) : State :=
  match s.ctx? ctx with
  | none => s
  | some c => State.drain c.waiting.length s ctx

/-- A page copy cannot go on, for another device denies it, or does not answer within 10 ms, a read of the old frame or a write of the new one: that is the
protection fault of 18, R333 and R335 in its context, and the page stays where it was. -/
def State.migrationFails (s : State) (r : Request) (leaf : Leaf) (h : CmdHead) (addr : Nat) : State :=
  ((((s.engineFault r 0x06 addr).dropRequest r.id).endCopied leaf.frame (2 ^ leaf.bits)).reply h 6 []).goOn r.ctx

/-- PAGE_MIGRATION_COMPLETE (R190): a page copy that a map command asked for is over; where the old frame is on another device, its bytes come
with the fabric's answer, and where the new one is, the page is switched once its bytes are acknowledged there. Then its forwarding is over. -/
def execPageMigrationComplete (id : Nat) (remote : RemoteReply) (s : State) : Host.Outcome State Fault Refusal :=
  match s.request? id with
  | none => .next s
  | some r =>
    match r.job with
    | .migrate va leaf frame tag node =>
      let h : CmdHead := ⟨node, BitVec.ofNat 8 r.ctx, tag, 3⟩
      let settle := fun (x : Acked) (t : State) => match x with
        | .done => t
        | .waits => s.setSend id r.port (some (r.since.getD s.time))
        | .fails a => s.migrationFails r leaf h a
      (match isRemote leaf.frame, remote with
      | false, _ => let t := s.endMigration r va leaf frame h []; .next (settle (s.acked remote r.since t) (t.goOn r.ctx))
      | true, .data bs =>
        if bs.length == 2 ^ leaf.bits then .next ((s.track (s.endMigration r va leaf frame h bs) r.ctx r.launch).goOn r.ctx) else .next s
      | true, _ => .next (settle (s.fares remote r.since leaf.frame) s))
    | .forward old _ _ => .next (s.endForward r old)
    | _ => .next s

/-- UNIT_STOP (17, R318): a unit stops a context's work. With the last unit the context is halted, and a halt command is answered. -/
def execUnitStop (ctx : Nat) (unit : StopUnit) (s : State) : Host.Outcome State Fault Refusal :=
  match s.stopUnit ctx unit with
  | none => .next s
  | some t =>
    .next (match t.ctx? ctx with
      | none => t
      | some c => match c.run, c.halting with
        | .halted, some h => ((t.updCtx ctx (fun c => { c with halting := none })).reply h 0 []).goOn ctx
        | _, _ => t)

/-- VACATE_REPLY (06, R105): every vacated core is free, and the vacate is answered. -/
def execVacateReply (ctx : Nat) (s : State) : Host.Outcome State Fault Refusal :=
  match s.ctx? ctx with
  | none => .next s
  | some c => match c.vacating with
    | none => .next s
    | some (h, _) => if s.vacateDone c then .next ((s.endVacate c h).goOn ctx) else .next s

end Sys2Proof.Machine
end

