-- ==== Sys2Proof/Machine/Device.lean ====
section
/-! DEFINITION. What happens to the device on its own or from outside: reset, heat, clocks, energy, the fabric, remote and host accesses, write-backs,
hotness, errors (18, R333, R335, R339, R341, R343, R344; 10, R170, R188, R189, R191, R194; 17, R330). -/

namespace Sys2Proof.Machine

/-! ### Reset (R343) -/

/-- The machine after a reset: HBM is zero, every context and the host node are gone, NODE is read again. What deep memory holds stays; the
messages that were sent stay sent, and the model's own inputs and counter go on. -/
def State.afterReset (s : State) (failed : BitVec 36) : State :=
  { State.reset with
    mem := s.mem.filter (fun c => hbmSize ≤ c.1), poison := s.poison.filter (fun k => hbmSize ≤ 32 * k), outbox := s.outbox,
    failedPorts := failed, agenda := s.agenda, fresh := s.fresh + 1 }

/-- RESET: power-on, or the RESET ball; `failed` are the ports that fail training. -/
def execReset (failed : BitVec 36) (s : State) : Host.Outcome State Fault Refusal := .next (s.afterReset failed)

/-- TRIP_RESET (R344): ten milliseconds after a trip. -/
def execTripReset (failed : BitVec 36) (s : State) : Host.Outcome State Fault Refusal :=
  match s.trippedAt with
  | some t => if t + 10000000 ≤ s.time then .next (s.afterReset failed) else .next s
  | none => .next s

/-! ### Heat and clocks (R341, R344) -/

/-- The clock of a context's cores is lowered, never raised. -/
def Context.lower (c : Context) (clock : Nat) : Context := { c with clock := min c.clock clock }

/-- THERMAL_THROTTLE: a die at 105 °C; its clock, in 1/16 steps, is lowered, and with it that of the contexts with cores on it. -/
def execThermalThrottle (die temp clock : Nat) (s : State) : Host.Outcome State Fault Refusal :=
  let d := s.die die
  if 4 ≤ die || temp < 1050 || 2 ^ 16 ≤ temp || clock == 0 || d.clock ≤ clock then .next s else
  let s := s.setDie die { d with temp := temp, clock := clock }
  .next { s with contexts := s.contexts.map (fun c => if c.coreList.any (fun i => dieOf i == die) then c.lower clock else c) }

/-- THERMAL_TRIP: a die at 115 °C; every context is halted with cause 0x20. -/
def execThermalTrip (die temp : Nat) (s : State) : Host.Outcome State Fault Refusal :=
  if 4 ≤ die || temp < 1150 || 2 ^ 16 ≤ temp then .next s else
  let s := s.setDie die { s.die die with temp := temp }
  let s := s.contexts.foldl (fun s c => s.raiseLine c.no ⟨⟨0x20, 3, 0, 0, 0⟩, 0, 0, s.time, s.clock, 0, 0, 0, []⟩) s
  .next { s with trippedAt := some (s.trippedAt.getD s.time) }

/-- The clock below which the device does not lower that of a context while it has promises to keep, unless heat or power outside the limits of Table
18-7 ask for it: which clock that is stands open (R341; log 55). -/
def State.clockFloor (s : State) (c : Context) : Nat := if c.launches.any (fun l => !l.ended) then choose s 6 17 else 0

/-- CLOCK_LOWERING: the device lowers the clock of a context's cores for its budget or for power; a die shows the lowest clock of its cores. -/
def execClockLowering (ctx clock : Nat) (s : State) : Host.Outcome State Fault Refusal :=
  match s.ctx? ctx with
  | none => .next s
  | some c =>
    if clock == 0 || c.clock ≤ clock || clock < s.clockFloor c then .next s else
    let s := s.updCtx ctx (fun c => c.lower clock)
    .next (((c.coreList.map dieOf).eraseDups).foldl (fun s i => s.setDie i { s.die i with clock := min (s.die i).clock clock }) s)

/-! ### Energy (R330, R341) -/

/-- ENERGY_COUNT_UPDATE: what the context is charged, and what its unfinished launches consumed, since the last update, in µJ. -/
def execEnergyCountUpdate (ctx charge : Nat) (used : List (Nat × Nat)) (s : State) : Host.Outcome State Fault Refusal :=
  .next (s.updCtx ctx (fun c => { c with
    charges := c.charges + charge
    launches := c.launches.map (fun l => if l.ended then l else
      { l with used := l.used + ((used.filter (fun u => u.1 == l.no)).map (fun u => u.2)).sum }) }))

/-! ### The fabric (R333, R335) -/

/-- The addresses at other devices that a request waits for an answer from. A release or a fence waits for its pushes, a settle or a page request for its
signal, LAUNCH for its descriptor, a migration for the frame that is not here. -/
def State.awayAddrs (s : State) (r : Request) : List Nat :=
  let counter := fun (va : Nat) => [s.counterPa r.ctx va]
  let pushes := ((s.group? r.gid).map s.pushAddrs).getD []
  if r.since.isNone then [] else
  (match r.job with
  | .release _ (.launch va ..) => counter va ++ pushes
  | .release _ (.arrive va) => counter va ++ pushes
  | .release .. => pushes
  | .pfence .. => pushes
  | .preq _ va => counter va
  | .psettle _ _ _ (some va) _ => counter va
  | .skmerge _ _ (some va) _ _ false => counter va
  | .migrate _ leaf frame .. => [leaf.frame, frame]
  | j => j.aways).filter isRemote
def State.awayAddr (s : State) (r : Request) : Option Nat := (s.awayAddrs r).head?

/-- The port of a context that the hash of an address gives (R332). -/
def Context.portFor (c : Context) (addr : Nat) : Option Nat :=
  let ps := (List.range 36).filter (fun i => c.args.ports.getLsbD i)
  ps[Config.portHash addr % max 1 ps.length]?

/-- The port on which a request is out: that of its address, or the one that a retry took. -/
def State.portOf (s : State) (r : Request) : Option Nat :=
  r.port <|> (s.awayAddr r).bind (fun a => (s.ctx? r.ctx).bind (fun c => c.portFor a))

/-- LINK_RETRY: a request goes out again on another port of its context; its first attempt stays the first. -/
def execLinkRetry (id port : Nat) (s : State) : Host.Outcome State Fault Refusal :=
  match s.request? id with
  | none => .next s
  | some r => match s.ctx? r.ctx with
    | none => .next s
    | some c =>
      if (s.awayAddr r).isSome && some port != s.portOf r && c.args.ports.getLsbD port then .next (s.setSend id (some port) r.since) else .next s

/-- What a request comes to that has had no answer within 10 ms of its first attempt (R333): the protection fault, not precise, at one of the addresses it
waits for. A load goes on without what only its helper lanes asked for (06, R80), and a migration is given up. -/
def State.unanswered (s : State) (r : Request) : Host.Outcome State Fault Refusal :=
  let faulted := (s.engineFault r 0x06 ((oneOf s (s.awayAddrs r)).getD 0)).setSend r.id r.port (some s.time)
  let without := match execLoadDataReturn r.id .refused s with
    | .next t => .next (t.setSend r.id r.port (some s.time))
    | o => o
  match r.job with
  | .load .. => without
  | .reload .. => without
  | .fetch .. => if opOf r.word == 0x6F then .next faulted else without
  | .migrate .. => execPageMigrationComplete r.id .none s
  | _ => .next faulted

/-- REQUEST_TIMEOUT: no answer within 10 ms is a protection fault, not precise. -/
def execRequestTimeout (id : Nat) (s : State) : Host.Outcome State Fault Refusal :=
  match s.live? id with
  | none => .next s
  | some r => match s.awayAddr r, r.since with
    | some _, some t => if t + 10000000 ≤ s.time then s.unanswered r else .next s
    | _, _ => .next s

/-- How many bytes an access at a home takes. -/
def accSize : RemoteAcc → Nat
  | .read n => n
  | .write bs => bs.length
  | .atom .. => 4
  | .signal => 8
  | .descriptor => 64

/-- Whether the address suits the access. -/
def accAligned (off : Nat) : RemoteAcc → Bool
  | .atom .. => off % 4 == 0
  | .signal => off % 8 == 0
  | .descriptor => off % 64 == 0
  | _ => true

/-- Whether a table, from a level down, maps an address by a leaf whose page is hot. -/
def hotBelow (mem : Mem) (pa : Nat) : List (Nat × Nat × Bool) → Nat → Bool
  | [], _ => false
  | (lo, n, leafOk) :: rest, table =>
    (List.range (2 ^ n)).any (fun i =>
      let e := mem.nat (table + 8 * i) 8
      if bits e 0 1 == 0 then false
      else if bits e 1 1 == 1 then leafOk && ((leafOf 0 0 lo e).map (fun l => l.hot && l.frame ≤ pa && pa < l.frame + 2 ^ l.bits)).getD false
      else bits e 2 5 == 0 && hotBelow mem pa rest (bits e 7 45 * 2 ^ 7))

/-- Whether the page of a physical address is hot: where an access comes from outside, a leaf of the context that owns the frame says so (R188; log 43). -/
def State.hotAt (s : State) (pa : Nat) : Bool :=
  s.contexts.any (fun c => c.owns pa && hotBelow s.mem pa walkLevels c.args.root)

/-- The lines that a remote read or atomic fills from memory are counted for its device where their page is hot (R188). -/
def State.readFor (s : State) (node off n : Nat) : State :=
  (linesOf off n).foldl (fun s no => s.readHome no (s.hotAt (128 * no)) (0x8000 + node)) s

/-- The parts of a context's engine reserve that its live bindings take, in the order of their slots from the base, and in each of them the shadow
rows at the end: where in the reserve they lie is the model's choice (04, R45; log 59). -/
def Context.shadows (c : Context) : List (Nat × List (BitVec 8)) :=
  ((c.bindings.filter (fun b => b.live)).foldl (fun l b => insertBy (fun (b : Binding) => b.slot) b l) []).foldl (fun (k : List (Nat × List (BitVec 8)) × Nat) b =>
    let rows := b.shadow.flatMap Shadow.bytes
    let top := k.2 + b.desc.reserve
    (k.1 ++ [(top - rows.length, rows)], top)) ([], c.args.reserve.base) |>.1

/-- A byte of HBM as an access from outside reads it: that of a shadow row in a context's engine reserve, or of memory. -/
def State.outsideByte (s : State) (pa : Nat) : BitVec 8 :=
  (s.contexts.findSome? (fun c => if c.args.reserve.base ≤ pa && pa < c.args.reserve.base + c.args.reserve.size then
    c.shadows.findSome? (fun x => if x.1 ≤ pa then x.2[pa - x.1]? else none) else none)).getD (s.mem.get pa)

/-- An access from the fabric, performed at the home of its address in HBM (R173); for a page that has moved it is forwarded, once, to the new home
(R190), which on another device answers itself. -/
def State.serveAccess (s : State) (ctx : Option Nat) (q : RemoteReq) : State :=
  let pa := s.forwarded q.off
  if isRemote pa then { s with outbox := s.outbox ++ [.request (sysNode pa) (sysOff pa) q.acc q.tracked] } else
  let put := fun (s : State) (bs : List (BitVec 8)) => s.land ctx ((bs.zip (List.range bs.length)).map (fun b => (pa + b.2, b.1, !q.tracked))) []
  match q.acc with
  | .read n => ((s.readFor q.node.toNat pa n).tick).answer q.node true ((List.range n).map (fun i => s.outsideByte (pa + i)))
  | .write bs => (put s bs).answer q.node true []
  | .atom op v w =>
    let old := leWord (s.mem.read pa 4)
    (put (s.readFor q.node.toNat pa 4).tick (leBytes 4 (atomNew op old v w).toNat)).answer q.node true (leBytes 4 old.toNat)
  | .signal => (s.signal ctx (0, 0) pa q.tracked).answer q.node true []
  | .descriptor => (s.tick).answer q.node true ((s.mergeTarget (ctx.getD 0) pa q.tracked).elim [] (fun _ => s.mem.read pa 64))

/-- REMOTE_REQUEST_ARRIVAL (R335): served in the context that exported the frame, halted or not; refused without an export. -/
def execRemoteRequestArrival (q : RemoteReq) (s : State) : Host.Outcome State Fault Refusal :=
  match s.exporter q.node q.off (accSize q.acc) with
  | none => .next (s.answer q.node false [])
  | some ctx => if accAligned q.off q.acc then .next (s.serveAccess (some ctx) q) else .next (s.answer q.node false [])

/-- HOST_F_WRITE (R339): an access of the host node lands at its home on arrival, and is acknowledged; one of another node is a remote request. No
translation of a device stands behind it, so that it sets no ALIAS (04, R59). -/
def execHostFWrite (q : RemoteReq) (s : State) : Host.Outcome State Fault Refusal :=
  if s.hostNode != some q.node then execRemoteRequestArrival q s
  else if hbmSize < q.off + accSize q.acc || !accAligned q.off q.acc then .next (s.answer q.node false [])
  else .next (s.serveAccess ((s.contexts.find? (fun c => c.owns q.off)).map (fun c => c.no)) { q with tracked := true })

/-! ### Caches on their own (10, R170, R194) -/

/-- Some of a line's bytes, in halves of 16-byte accesses so that none is torn (07, R111); which ones is open. -/
def somePart (s : State) (line : Nat) : BitVec 128 :=
  (List.range 16).foldl (fun m i => if (choose s line (2 ^ 16)).testBit i then m ||| byteMask (8 * i) 8 else m) 0

/-- A cache sends dirty bytes of a line outward (04, R48): some of them, or with `drop` all, and the line, clean now, leaves it. -/
def State.writeBack (s : State) (c : CacheSel) (line : Nat) (drop : Bool) : State :=
  let m := if drop then BitVec.allOnes 128 else somePart s line
  match c with
  | .l1 n =>
    let s := s.backL1In n line m
    let k := s.core n
    if drop then s.setCore n { k with l1 := dropLine k.l1 line } else s.tick
  | .cluster n =>
    let s := s.backClusterIn ((findLine (s.clusterCache n) line).bind s.lineOwner) n line m
    if drop then s.setClusterCache n (dropLine (s.clusterCache n) line) else s.tick
  | .tileBuffer n =>
    let k := s.core n
    (match findLine k.tileBuf line with
    | none => s
    | some l =>
      let l' := l.cleanedIn m
      let s := ((s.landAny (dieOf n) (s.lineOwner l) (l.dirtyIn m) (l.poisonedIn m)).setCore n { k with
        tileBuf := if l'.dirty == 0 then dropLine k.tileBuf line else putLine k.tileBuf l' }).unleave (.tileBuffer n) line
      if drop then s else s.tick)

/-- The line that a cache holds. -/
def State.heldBy (s : State) (c : CacheSel) (line : Nat) : Option Line :=
  match c with
  | .l1 n => findLine (s.core n).l1 line
  | .cluster n => findLine (s.clusterCache n) line
  | .tileBuffer n => findLine (s.core n).tileBuf line

/-- When a line that a cache holds was first sent to another device, if it is on its way. -/
def State.leftAt (s : State) (c : CacheSel) (line : Nat) : Option Nat :=
  (s.leaving.find? (fun k => k.1 == c && k.2.1 == line)).map (fun k => k.2.2)

/-- CACHE_WRITE_BACK. A write to another device takes place once it is acknowledged; one that is refused, or not answered within 10 ms of its first attempt, is
the protection fault of R333 in the context whose groups made the line dirty. -/
def execCacheWriteBack (c : CacheSel) (line : Nat) (drop : Bool) (remote : RemoteReply) (s : State) : Host.Outcome State Fault Refusal :=
  let t := s.writeBack c line drop
  match s.acked remote (s.leftAt c line) t with
  | .done => .next t
  | .waits => .next { s with leaving := if (s.leftAt c line).isSome then s.leaving else s.leaving ++ [(c, line, s.time)] }
  | .fails a => match (s.heldBy c line).bind s.lineOwner with
    | some ctx => .next ((s.unleave c line).raiseLine ctx ⟨⟨0x06, 2, 0, BitVec.ofNat 64 a, 0⟩, 0, 0, s.time, s.clock, 0, 0, 0, []⟩)
    | none => .next t

/-- REMOTE_READ_LINE_DROP (R194). -/
def execRemoteReadLineDrop (die line : Nat) (s : State) : Host.Outcome State Fault Refusal :=
  let d := s.die die
  .next (s.setDie die { d with remote := dropLine d.remote line })

/-! ### Hotness (10, R188, R189) -/

/-- HOTNESS_DECAY: every 1,048,576 ns each count is halved. -/
def execHotnessDecay (s : State) : Host.Outcome State Fault Refusal :=
  if (s.decays + 1) * 1048576 ≤ s.time then
    .next { s with hot := s.hot.map (fun h => { h with count := h.count / 2 }), decays := s.decays + 1 }
  else .next s

/-- The 16 bytes of a notification record (Table 10-7). -/
def hotRecord (block req count time : Nat) : List (BitVec 8) :=
  leBytes 8 (65536 * block) ++ leBytes 2 req ++ leBytes 2 count ++ leBytes 4 time

/-- HOTNESS_NOTIFICATION: a count of a block of the context has reached its threshold, and started again from 0; the record is written, then the counter. -/
def execHotnessNotification (ctx block req : Nat) (s : State) : Host.Outcome State Fault Refusal :=
  match s.ctx? ctx with
  | none => .next s
  | some c =>
    if !c.owns (65536 * block) || !s.notices.contains (block, req) then .next s else
    let ctr := c.args.ringCounter.toNat
    let at_ := c.args.ringBase + 16 * (s.mem.nat ctr 8 % c.args.ringN)
    let rec_ := hotRecord block req c.args.threshold s.time
    let s := s.land none ((rec_.zip (List.range 16)).map (fun b => (at_ + b.2, b.1, false))) []
    let s := s.signal none (0, 0) ctr true
    .next { s with notices := s.notices.erase (block, req) }

/-! ### Errors (10, R191) -/

/-- A line struck by an uncorrectable error: a clean one is fetched again, a dirty one has its words poisoned. -/
def struck (ls : List Line) (line : Nat) (words : BitVec 4) : List Line :=
  ls.filterMap (fun l => if l.no != line then some l else if l.dirty == 0 then none else
    some { l with poison := l.poison ||| words, taint := l.taint ||| (l.dirty &&& wordBytes words) })

/-- UNCORRECTABLE_ERROR. What the old home of a line holds that its migration has copied (R190) is read no more. -/
def execUncorrectableError (at_ : ErrorAt) (s : State) : Host.Outcome State Fault Refusal :=
  let inCore := fun (n : Nat) (f : Core → Core) => s.setCore n (f (s.core n))
  .next (match at_ with
  | .home w =>
    let r := regionOf (32 * w)
    if (r == .hbm || r == .deep) && !s.copied.any (fun k => k.1 == w / 4) then { s with poison := insertNat s.poison w } else s
  | .l1 n line words => inCore n (fun k => { k with l1 := struck k.l1 line words })
  | .cluster n line words => s.setClusterCache n (struck (s.clusterCache n) line words)
  | .tileBuffer n line words => inCore n (fun k => { k with tileBuf := struck k.tileBuf line words })
  | .tiles n line => inCore n (fun k => { k with tiles := dropLine k.tiles line })
  | .constants n line => inCore n (fun k => { k with constants := dropLine k.constants line })
  | .remote d line => s.setDie d { s.die d with remote := dropLine (s.die d).remote line })

/-- A read corrects a single-bit error, and its die counts it. -/
def State.corrected (s : State) (die : Nat) : State :=
  let d := s.die die
  s.setDie die { d with corrected := d.corrected + 1 }

end Sys2Proof.Machine
end

