-- ==== Sys2Proof/Machine/Issue.lean ====
section
/-! DEFINITION. The issue of a word: when a slot is ready (06, R86–R89, Table 6-4), the checks at issue (03, R30, R34, R36, R38, R39; 02, R21;
06, R97; 10, R193; 17, R327), the rotation of a sub-core (06, R88), and replays (17, R327, R328). -/

namespace Sys2Proof.Machine

/-! ### What a word touches -/

/-- The accumulator registers that a tile of n columns takes. -/
def tileRegs (code n : Nat) : Nat := if code == 7 && 1 ≤ n && n ≤ 32 then (n - 1) / 8 + 1 else 1

/-- The accumulator registers of a group's part of a joint instance, as its descriptor in Local Store gives them. -/
def State.jointRegs (s : State) (e : Env) (b : BitVec 3) (f : BitVec 4) (v : Nat) : Nat :=
  let (addr, mask, _) := mmajOperands v
  match e.lsTarget s 0 (BitVec.ofNat 32 addr) 32, s.wgOf e.g with
  | some (_, off), some w =>
    let d := jointDescOf (s.jointBytes w e.g off)
    if d.legal f w.lsSize then min (8 - b.toNat) (d.registers (rankIn mask e.g.grp) (membersOf mask).length) else 0
  | _, _ => 0

/-- What decides the registers of a matrix word, beside its fields: the control pair, or how many accumulator registers its descriptor gives it,
in the lowest active lane. With no active lane an MMA is checked as with a control pair of 0, and MLD and MDRAIN with one register, which is the
model's choice (log 50). -/
def State.matrixCtl (s : State) (e : Env) (i : Instr) : Nat :=
  let pair := fun (g : BitVec 3) (a : BitVec 7) => match lanesOf (e.act g) with
    | x :: _ => some ((e.g.lane x).nat (e.v a) 8)
    | [] => none
  match i with
  | .mma g _ _ a _ _ => (pair g a).getD 0
  | .mld g _ a _ f => ((pair g a).map (fun va => tileRegs f.toNat (s.peekTile e.g.ctx va).n)).getD 1
  | .mdrain g _ a f _ => ((pair g a).map (fun va => tileRegs f.toNat (s.peekTile e.g.ctx va).n)).getD 1
  | .mmaj g b a f => ((pair g a).map (s.jointRegs e b f)).getD 0
  | _ => 0

/-- The chunks of 64 bytes that ranges touch (06, R89). -/
def chunksOf (ps : List RegSpan) : BitVec 16 :=
  ps.foldl (fun m p => (List.range 16).foldl (fun m c => if p.size != 0 && p.off < 64 * c + 64 && 64 * c < p.off + p.size then m ||| (1#16 <<< c) else m) m) 0

/-! ### Readiness (Table 6-4) -/

/-- Whether a word waits for requests that may still raise FFLAGS: it reads them. SSET does not wait: flags that a word issued earlier raises later
are ORed in after it (08, R162). -/
def readsFlags : Instr → Bool
  | .smov _ _ m => m.toNat == 0x18 || m.toNat == 0x19
  | _ => false

/-- Requests that may raise FFLAGS when they complete. -/
def Job.raisesFlags : Job → Bool
  | .fpLong .. => true
  | .mma .. => true
  | .acc .. => true
  | .mld .. => true
  | _ => false

/-- How many copies of a group are not complete, and how many of its closed batches (R187). -/
def State.copyCount (s : State) (gid : Nat) : Nat := (s.requests.filter (fun r => r.gid == gid && (match r.job with
  | .copy .. => true
  | _ => false))).length
def State.closedBatches (s : State) (gid : Nat) : Nat := ((s.requests.filterMap (fun r => if r.gid != gid then none else match r.job with
  | .copy _ b _ _ => b
  | _ => none)).eraseDups).length
def State.hasOpenCopies (s : State) (gid : Nat) : Bool := s.requests.any (fun r => r.gid == gid && (match r.job with
  | .copy _ none _ _ => true
  | _ => false))
def State.sketchCount (s : State) (gid : Nat) : Nat := (s.requests.filter (fun r => r.gid == gid && r.job.unit == some .sketchEngines)).length
def State.jointCount (s : State) (gid : Nat) : Nat := (s.requests.filter (fun r => r.gid == gid && (match r.job with
  | .mmaj .. => true
  | _ => false))).length

/-- Whether an engine's limit holds the word back: 256 copies, 32 closed batches (R187), 64 sketch requests (R259), 4 joint requests (R288). -/
def State.engineFull (s : State) (e : Env) (i : Instr) : Bool :=
  let gid := e.g.gid
  match i with
  | .cp g _ _ => 256 < s.copyCount gid + popcount (e.act g &&& ~~~ e.g.helpers)
  | .cpclose .. => s.hasOpenCopies gid && 32 ≤ s.closedBatches gid
  | .mmaj .. => 4 ≤ s.jointCount gid
  | _ => decide (0x6C ≤ opOf e.iss.word) && decide (opOf e.iss.word ≤ 0x6F) && decide (64 ≤ s.sketchCount gid)

/-- Whether a slot may issue at all: it holds a path, waits for nothing, its other slot is not in a hint run, and no window of its own has
ended (R37); while a vacate or a halt stops the group, only a run in progress goes on to its consumer (R34). A vacate lets the groups of a cluster go
on for as long as a joint matrix instance of theirs lacks a member, since its issued parts complete before the groups are saved (06, R104). -/
def State.slotOpen (s : State) (g : Group) (b : Bool) : Bool :=
  let x := g.slot b
  let stops := !g.isHandler && ((s.wgOf g).map (fun w => w.moved && !s.jointOpen w.ctx w.launch w.clu)).getD false && x.atBoundary
  g.resident && g.fault.isNone && x.path.isSome && x.wait.isNone && g.keep != some (!b) && !stops &&
  (((s.ctx? g.ctx).map (fun c => c.goesOn (.core g.core))).getD false) &&
  (x.again || !g.windows.any (fun w => w.slotB == b && !w.joint && w.left == 0 && !w.complete))

/-! ### The issue itself -/

/-- What comes of an attempt to issue. -/
inductive Prepared where
  /-- The slot is not ready. -/
  | no
  /-- The word issued, and that was all: it faulted, or it is a reserved hint. -/
  | done (s : State)
  /-- The word issues with this meaning. -/
  | run (i : Instr) (s : State)
  /-- Dropped registers, each of a group, must be replayed first. -/
  | blocked (ts : List (Nat × Tag)) (e : Env)

/-- A word issues from a slot: it is counted, the slot's windows move on by one word, and only the hint run keeps the group's issue. The windows
that have ended are gone. -/
def Group.issues (g : Group) (b : Bool) : Group :=
  if (g.slot b).again then { g with lastB := b } else
  { g with
    count := if g.isHandler then g.count else g.count + 1
    lastB := b
    keep := none
    refetch := false
    windows := (g.windows.map (fun w => if w.slotB == b then { w with left := w.left - 1 } else w)).filter (fun w => w.joint || w.left != 0 || !w.complete) }

/-- The issue of a word by a slot: what its meaning will find. -/
def Issue.of (g : Group) (b : Bool) (pc : DWord) (word : Word) : Issue :=
  let x := g.slot b
  match x.redo with
  | some r => if r.pc = pc then ⟨g.gid, b, pc, word, x.hints, true, r.act, r.lanes, r.delivered, [], [], none⟩
    else ⟨g.gid, b, pc, word, x.hints, false, 0, 0, none, [], [], none⟩
  | none => ⟨g.gid, b, pc, word, x.hints, false, 0, 0, none, [], [], none⟩

/-- A group's place in its sub-core's rotation (R88): by class, highest first, and then by when it became resident. -/
def State.rank (s : State) (g : Group) : Nat × Nat :=
  (7 - (((s.ctx? g.ctx).bind (fun c => c.launch? g.launch)).map (fun l => l.prio)).getD 0, g.since)
def rankBefore (a b : Nat × Nat) : Bool := a.1 < b.1 || (a.1 == b.1 && a.2 < b.2)

/-- The sub-core's pointer moves past a group (R88). -/
def State.rotate (s : State) (g : Group) : State :=
  let c := s.core g.core
  s.setCore g.core { c with last := setKey c.last g.sub (s.rank g) }

/-- The state with a word issued. -/
def State.issues (s : State) (g : Group) (iss : Issue) : State :=
  { ((s.updGroup g.gid (fun g => g.issues iss.slotB)).rotate g) with issue := some iss }

/-- The word being issued takes a fault. -/
def State.faultNow (s : State) (h : Halt) : Prepared :=
  match s.env with
  | some e => .done (e.takeFault h s)
  | none => .no

/-- A word that issued, and is counted, takes a fault. -/
def State.issueFault (s : State) (g : Group) (iss : Issue) (h : Halt) : Prepared := (s.issues g iss).faultNow h

/-- A fault instead of an issue (R97), or of a word that cannot be fetched. -/
def State.noIssueFault (s : State) (iss : Issue) (h : Halt) : Prepared := ({ s with issue := some iss } : State).faultNow h

/-- The lowest active lane. -/
def lowLane (m : BitVec 32) : Nat := (lanesOf m).headD 0

/-- The guard field of a word. -/
def guardOf (w : Word) : BitVec 3 := BitVec.ofNat 3 (bits w.toNat 22 3)

/-- What an MMA reads of its operands, lane by lane (15, R283–R285): the rows and columns within M, N and K, their scales, and the accumulator's
elements. One whose control word is illegal reads nothing else. -/
def Env.mmaReads (e : Env) (ctl : Nat) (t : BitVec 4) (c : BitVec 3) (f : BitVec 4) : List (Nat × RegSpan) :=
  let x := mmaCtl ctl f
  if !mmaLegal ctl x c.toNat e.g.lanesOn then [] else
  let operand := fun (off type : Nat) (across : Bool) (rows : Nat) =>
    let (n, len) := if across then (x.k, rows) else (rows, x.k)
    (List.range n).map (fun i => (i, (⟨off, rowSpan (mmaWidth type) len⟩ : RegSpan)))
  let at_ := fun (n off size : Nat) => (List.range n).map (fun i => (i, (⟨e.t x.tsr + off, size⟩ : RegSpan)))
  let width := if x.tc == 9 then 16 else if x.tc == 1 || x.tc == 2 then 2 else 4
  let nb := (x.k + 7) / 8
  operand (e.t t.toNat) x.ta x.tra x.m ++ operand (e.t x.tbr) x.tb x.trb x.n ++
  (List.range x.m).map (fun i => (i, ⟨e.acc c.toNat, width * x.n⟩)) ++
  (if isScaled x.ta then at_ x.m 0 nb ++ at_ x.n 16 nb ++ at_ 1 32 4 else if x.tc == 9 then at_ x.m 0 2 ++ at_ x.n 2 2 else [])

/-- What an MMAJ reads of its member's accumulators: the rows and columns of its blocks (15, R289). -/
def State.mmajReads (s : State) (e : Env) (b : BitVec 3) (f : BitVec 4) (v : Nat) : List (Nat × RegSpan) :=
  let (addr, mask, _) := mmajOperands v
  match e.lsTarget s 0 (BitVec.ofNat 32 addr) 32, s.wgOf e.g with
  | some (_, off), some w =>
    let d := jointDescOf (s.jointBytes w e.g off)
    let n := (membersOf mask).length
    if !d.legal f w.lsSize then [] else
    ((List.range d.blockCount).filter (fun k => k % n == rankIn mask e.g.grp)).flatMap (fun k =>
      let reg := b.toNat + (if d.tc == 9 then 4 else 1) * (k / n)
      let width := if d.tc == 9 then 16 else if d.tc == 1 || d.tc == 2 then 2 else 4
      (List.range (min 32 (d.m - 32 * (k / d.blocksAcross)))).map (fun i =>
        (i, (⟨e.acc reg, width * min 32 (d.n - 32 * (k % d.blocksAcross))⟩ : RegSpan))))
  | _, _ => []

/-- The register bytes that a word reads, lane by lane, where their poison is consumed (10, R193): its operands in its active lanes, and of a matrix
word the elements that it uses. MDRAIN carries the poison of its accumulators on. -/
def State.poisonReads (s : State) (e : Env) (act : BitVec 32) (reads : List RegSpan) (i : Instr) : List (Nat × RegSpan) :=
  let each := fun (ps : List RegSpan) => (lanesOf act).flatMap (fun x => ps.map (fun p => (x, p)))
  let pair := fun (a : BitVec 7) => each [vspan e.k a 2]
  match i with
  | .mdrain .. => each (reads.take 1)
  | .mma _ t c a _ f => pair a ++ e.mmaReads (s.matrixCtl e i) t c f
  | .mmaj _ b a f => pair a ++ (match lanesOf act with
    | x :: _ => s.mmajReads e b f ((e.g.lane x).nat (e.v a) 8)
    | [] => [])
  | _ => each reads

/-- The lanes that meet a register word which an engine wrote poisoned; helper lanes consume none. -/
def State.consumesPoison (s : State) (e : Env) (act : BitVec 32) (reads : List RegSpan) (i : Instr) : BitVec 32 :=
  if act = 0 || e.g.lanes.all (fun l => l.poison == 0) then 0 else
  maskOf ((s.poisonReads e act reads i).filterMap (fun x => if (e.g.lane x.1).poisoned x.2.off x.2.size then some x.1 else none)) &&& ~~~ e.g.helpers

/-- What completing an origin lane reads and writes of its group: the destination of its word, or the descriptor's address of an MDRAIN. -/
def TrapWord.completes (t : TrapWord) (k : Kernel) (lane : Nat) : List RegSpan × List RegSpan :=
  match bodyInstr t.word with
  | some (.mdrain _ _ a _ _) => ([vspan k a 2], [])
  | _ => ([], t.destOf lane)

/-- The dropped registers of other groups that a handler's word reads or writes over (17, R327): those of its origin lanes' groups. -/
def State.originReplays (s : State) (e : Env) (i : Instr) : List (Nat × Tag) :=
  let at_ := fun (g : BitVec 3) (a : BitVec 7) (n : Nat) (write : Bool) =>
    (e.originAccesses g a s).flatMap (fun x =>
      if 0x400 ≤ x.2.2.2.2 then [] else
      let p : RegSpan := ⟨x.2.2.2.2, n⟩
      (x.2.2.1.toReplay e.k (if write then [] else [p]) (if write then [p] else [])).map (fun t => (x.2.1.gid, t)))
  match i with
  | .hrd g _ a _ w => at_ g a (if w = 1 then 8 else 4) false
  | .hwr g _ a w => at_ g a (if w = 1 then 8 else 4) true
  | .eretC g a => (e.originAccesses g a s).flatMap (fun x =>
      let (rs, ws) := x.2.2.2.1.completes e.k x.2.1.lane
      (x.2.2.1.toReplay e.k rs ws).map (fun t => (x.2.1.gid, t)))
  | _ => []

/-- The dropped registers that must be replayed before a word. -/
def State.replays (s : State) (e : Env) (reads writes : List RegSpan) (i : Instr) : List (Nat × Tag) :=
  let own := match i with
    | .rtag _ d _ p => e.g.tags.filter (fun (t : Tag) => t.dropped && t.metBy [vspan e.k d (if p = 1 then 2 else 1)])
    | .runtag _ d p => e.g.tags.filter (fun (t : Tag) => t.dropped && t.metBy [vspan e.k d (if p = 1 then 2 else 1)])
    | _ => e.g.toReplay e.k reads writes
  own.map (fun t => (e.g.gid, t)) ++ s.originReplays e i

/-- Whether the windows of a slot hold a word of it back that waits for every pending result (R39). An MMAJ that is outstanding holds back no word but
its MWAIT: that its bytes, which stay pending until then, are not among the results that the waiting words wait for is the model's choice (log 50). -/
def Group.resultsPending (g : Group) (b : Bool) : Bool := g.windows.any (fun w => w.slotB == b && !w.joint && !w.complete)

/-- A word may breach a window of its slot that is open: one that still counts words, or an MMAJ's, which other MMAJs may overlap (R38, R289). -/
def Group.breaches (g : Group) (b : Bool) (reads writes : List RegSpan) (i : Instr) : Bool :=
  let joint : Bool := match i with
    | .mmaj .. => true
    | _ => false
  g.windows.any (fun w => (w.joint && !joint && w.breach reads writes) || (!w.joint && w.slotB == b && w.left != 0 && w.breach reads writes))

/-- What holds back the word that a slot would issue now, beside its windows. -/
def State.heldBack (s : State) (e : Env) (i : Instr) (reads writes : List RegSpan) : Bool :=
  let b := e.iss.slotB
  let again := (e.g.slot b).again
  let remainder : Bool := match i with
    | .calli .. => e.path.join == some (e.iss.pc + 4) && (e.g.slot (!b)).path.isSome
    | _ => false
  (!again && waitsPending i && e.g.resultsPending b) ||
  (readsFlags i && s.requests.any (fun r => r.gid == e.g.gid && r.job.raisesFlags)) ||
  (!again && s.engineFull e i) || remainder ||
  (e.g.marked ||| chunksOf (reads ++ writes)) &&& budgetChunks (e.g.regs e.k) &&& ~~~ e.g.fast != 0

/-- The checks of a word whose slot is ready, and its issue. -/
def State.issueWord (s : State) (e : Env) (i : Instr) (reads writes : List RegSpan) : Prepared :=
  let iss : Issue := { e.iss with reads := reads, writes := writes }
  let act := e.act (guardOf e.iss.word)
  if (e.g.slot e.iss.slotB).again then .run i (s.issues e.g iss)
  else if e.g.breaches e.iss.slotB reads writes i && !waitsPending i then s.issueFault e.g iss (.lanes 0x02 act)
  else if act != 0 && (reads ++ writes).any (fun p => p.size != 0 && e.g.regs e.k < p.off + p.size) then s.issueFault e.g iss (.lanes 0x03 act)
  else
    let ts := if act = 0 then [] else s.replays e reads writes i
    if !ts.isEmpty then .blocked ts { e with iss := iss }
    else if s.consumesPoison e act reads i != 0 then s.issueFault e.g iss (.lanes 0x07 (s.consumesPoison e act reads i))
    else
      let released := if act = 0 then e.g else e.g.release e.k writes
      if released.tags == e.g.tags then .run i (s.issues e.g iss)
      else .run i ((s.setGroup released).issues released { iss with tags := some e.g.tags })

/-- An attempt to issue the word at a slot's PC. -/
def State.prepare (s : State) (g : Group) (b : Bool) : Prepared :=
  if !s.slotOpen g b then .no else
  let pc := ((g.slot b).path.map (fun p => p.pc)).getD 0
  let bare := Issue.of g b pc 0
  match s.ctx? g.ctx with
  | none => .no
  | some c => match c.launch? g.launch with
    | none => .no
    | some l =>
      if !g.isHandler && !(g.slot b).again && l.bound ≤ g.count then s.noIssueFault bare (.word 0x0A 0) else
      match s.codeWord g.ctx g.core pc.toNat with
      | none => s.noIssueFault bare (.protection 0 pc.toNat)
      | some w =>
        let iss := Issue.of g b pc w
        match ({ s with issue := some iss } : State).env with
        | none => .no
        | some e =>
          if 0x7C ≤ opOf w then
            if g.refetch && g.marked &&& budgetChunks (e.g.regs e.k) &&& ~~~ g.fast != 0 then .no else
            (match decodeWf w with
            | .ok i => .run i (s.issues g iss)
            | .error _ => .done (e.hold (e.hints.spoil pc) (s.issues g iss)))
          else match decodeWf w with
            | .error _ => s.issueFault g iss .illegal
            | .ok i =>
              if !hintsLegal e.hints w then s.issueFault g iss .illegal else
              let (reads, writes) := spans e.k e.hints (s.matrixCtl e i) i
              if s.heldBack e i reads writes then .no else s.issueWord e i reads writes

/-! ### The rotation (06, R86, R88) -/

/-- Whether an attempt comes to anything. -/
def Prepared.ready : Prepared → Bool
  | .no => false
  | .blocked .. => false
  | _ => true

/-- The slot from which a group issues, if one is ready: the one that did not issue its previous word, when both are. -/
def State.readySlot (s : State) (g : Group) : Option Bool :=
  if (s.prepare g (!g.lastB)).ready then some (!g.lastB) else if (s.prepare g g.lastB).ready then some g.lastB else none

/-- Put a group into a rotation. -/
def State.insertRanked (s : State) (g : Group) : List Group → List Group
  | [] => [g]
  | x :: r => if rankBefore (s.rank g) (s.rank x) then g :: x :: r else x :: s.insertRanked g r

/-- The resident groups of a sub-core in rotation order. -/
def State.rotation (s : State) (core sub : Nat) : List Group :=
  (s.groups.filter (fun g => g.resident && g.core == core && g.sub == sub)).foldl (fun l g => s.insertRanked g l) []

/-- A rotation that begins past the place at which the pointer stands, whether or not its group is still there. -/
def State.pastLast (s : State) (at_ : Option (Nat × Nat)) (gs : List Group) : List Group :=
  match at_ with
  | none => gs
  | some p => gs.filter (fun g => rankBefore p (s.rank g)) ++ gs.filter (fun g => !rankBefore p (s.rank g))

/-- The group and slot that a sub-core issues from next. -/
def State.picked (s : State) (core sub : Nat) : Option (Group × Bool) :=
  (s.pastLast (((s.core core).last.find? (fun x => x.1 == sub)).map (fun x => x.2)) (s.rotation core sub)).findSome? (fun g =>
    (s.readySlot g).map (fun b => (g, b)))

/-! ### Replays (17, R327, R328) -/

/-- The word that waits for a replay of a register. -/
def State.waitingFor (s : State) (gid off : Nat) : Option (Env × Tag) :=
  s.groups.findSome? (fun g => [false, true].findSome? (fun b => match s.prepare g b with
    | .blocked ts e => (ts.find? (fun t => t.1 == gid && t.2.off == off)).map (fun t => (e, t.2))
    | _ => none))

/-- The fault of a replay, at the reading word (R328, Table 17-6). -/
def replayFault (t : Tag) (cause lane : Nat) : Halt := ⟨0x0D, 1, lane, 0, BitVec.ofNat 32 (cause % 256 + 256 * (t.recipe % 32))⟩

/-- A replay's fault: the reading word has issued, and has no effect. -/
def State.failReplay (s : State) (e : Env) (t : Tag) (cause : Nat) : State :=
  match s.issueFault e.g e.iss (replayFault t cause (lowLane (e.act (guardOf e.iss.word)))) with
  | .done s => s
  | _ => s

/-- What a tag's replay reads from another device has been asked for since a time, or is not asked for any more. -/
def State.askReplay (s : State) (gid : Nat) (t : Tag) (asked : Option Nat) : State :=
  s.updGroup gid (fun g => { g with tags := mapWhere (fun u => u.off == t.off) (fun u => { u with asked := asked }) g.tags })

/-- RECIPE_REPLAY: a register that a word is about to read is rebuilt. Lines of another device that its constants need come with the fabric's
answer first; with none within 10 ms it is the fault of 18, R333, which is not precise. -/
def execRecipeReplay (gid tag : Nat) (remote : RemoteReply) (s : State) : Host.Outcome State Fault Refusal :=
  match s.waitingFor gid tag, s.group? gid with
  | some (e, t), some g =>
    (match s.kernelOf g.ctx g.launch with
    | none => .next s
    | some k => match State.replay 3 s k gid t with
      | .ok s => .next s
      | .error (.fault c) => .next (s.failReplay e t c)
      | .error (.lines ls) => .next (match remote, replyLines remote ls with
        | .refused, _ => (s.askReplay gid t none).failReplay e t 0x06
        | _, some xs => (s.fillRemote (dieOf g.core) xs).askReplay gid t none
        | _, none => match s.fares .none t.asked ((oneOf s (ls.map (fun n => 128 * n))).getD 0) with
          | .fails a => (s.engineFault (e.request s (.fetch [])) 0x06 a).askReplay gid t none
          | _ => s.askReplay gid t (some (t.asked.getD s.time))))
  | _, _ => .next s

end Sys2Proof.Machine
end

