-- ==== Sys2Proof/Machine/Predicate.lean ====
section
/-! DEFINITION. Integer compares, predicate moves and select, OP 0x20, 0x21, 0x25 to 0x27 (08, R138, R140–R142). -/

namespace Sys2Proof.Machine

/-- The conditions of ICMP (Table 3-14): bits 2:0 the relation, bit 3 signed. -/
def icmpHolds (c : BitVec 4) (a b : Word) : Bool :=
  let lt := lessWord (if c.getLsbD 3 then 1 else 0)
  match c.toNat % 8 with
  | 0 => a == b
  | 1 => a != b
  | 2 => lt a b
  | 3 => !lt b a
  | 4 => lt b a
  | _ => !lt a b

def execIcmpR (g : BitVec 3) (p c : BitVec 4) (a b : BitVec 7) (s : State) : Host.Outcome State Fault Refusal :=
  inWord s fun e => .ok (e.retire (e.eachLane g (fun _ l =>
    l.putPred p.toNat (icmpHolds c (l.word (e.v a)) (l.word (e.v b)))) s))

/-- The immediate of ICMP: seven bits sign-extended, or payload 23:0, payload bit 24 and the field (R33). -/
def icmpImm (h : Hints) (i : BitVec 7) : Word :=
  match h.himm with
  | none => i.signExtend 32
  | some (top, hi) => hi ++ BitVec.ofBool top ++ i

def execIcmpI (g : BitVec 3) (p c : BitVec 4) (a i : BitVec 7) (s : State) : Host.Outcome State Fault Refusal :=
  inWord s fun e => .ok (e.retire (e.eachLane g (fun _ l =>
    l.putPred p.toNat (icmpHolds c (l.word (e.v a)) (icmpImm e.hints i))) s))

/-- PLUT (R140): pD := tt[4·pA + 2·pB + pC]. -/
def execPlut (g : BitVec 3) (p a b c : BitVec 4) (s : State) : Host.Outcome State Fault Refusal :=
  inWord s fun e =>
    match e.table with
    | .error h => .error h
    | .ok tt => .ok (e.retire (e.eachLane g (fun _ l =>
        l.putPred p.toNat (tt.getLsbD ((l.pred a.toNat).toNat * 4 + (l.pred b.toNat).toNat * 2 + (l.pred c.toNat).toNat))) s))

/-- P2V (R141). -/
def execP2v (g : BitVec 3) (d : BitVec 7) (s : State) : Host.Outcome State Fault Refusal :=
  inWord s fun e => .ok (e.retire (e.eachLane g (fun _ l => l.putWord (e.v d) (l.preds.zeroExtend 32)) s))

/-- V2P (R141). -/
def execV2p (g : BitVec 3) (a : BitVec 7) (s : State) : Host.Outcome State Fault Refusal :=
  inWord s fun e => .ok (e.retire (e.eachLane g (fun _ l => { l with preds := (l.word (e.v a)).truncate 12 }) s))

/-- PTEST.nr (R28, R141): copies NR and clears it. -/
def execPtestNr (g : BitVec 3) (p : BitVec 4) (s : State) : Host.Outcome State Fault Refusal :=
  inWord s fun e => .ok (e.retire (e.eachLane g (fun _ l => { l.putPred p.toNat l.nr with nr := false }) s))

/-- SEL (R142). -/
def execSel (g : BitVec 3) (d a : BitVec 7) (p : BitVec 4) (n : BitVec 1) (s : State) : Host.Outcome State Fault Refusal :=
  inWord s fun e => .ok (e.retire (e.eachLane g (fun _ l =>
    if l.pred p.toNat != (n == 1) then l.putWord (e.v d) (l.word (e.v a)) else l) s))

end Sys2Proof.Machine
end

