-- ==== Sys2Proof/Machine/Dispatch.lean ====
section
/-! DEFINITION. One arm for each constructor of Instr, each a direct call of its meaning. -/

namespace Sys2Proof.Machine

def exec (i : Instr) (s : State) : Host.Outcome State Fault Refusal :=
  match i with
  | .iaddR g d a b x => Sys2Proof.Machine.execIaddR g d a b x s
  | .iaddI g d a i_ => Sys2Proof.Machine.execIaddI g d a i_ s
  | .isub g d a b x => Sys2Proof.Machine.execIsub g d a b x s
  | .iadd64 g d a b x => Sys2Proof.Machine.execIadd64 g d a b x s
  | .imulR g d a b x => Sys2Proof.Machine.execImulR g d a b x s
  | .imulI g d a i_ => Sys2Proof.Machine.execImulI g d a i_ s
  | .imulh g d a b x_ => Sys2Proof.Machine.execImulh g d a b x_ s
  | .imad g d a b x => Sys2Proof.Machine.execImad g d a b x s
  | .imadw g d a b x_ => Sys2Proof.Machine.execImadw g d a b x_ s
  | .imin g d a b x_ => Sys2Proof.Machine.execImin g d a b x_ s
  | .imax g d a b x_ => Sys2Proof.Machine.execImax g d a b x_ s
  | .iabs g d a => Sys2Proof.Machine.execIabs g d a s
  | .ineg g d a => Sys2Proof.Machine.execIneg g d a s
  | .notW g d a => Sys2Proof.Machine.execNotW g d a s
  | .popc g d a => Sys2Proof.Machine.execPopc g d a s
  | .clz g d a => Sys2Proof.Machine.execClz g d a s
  | .brev g d a => Sys2Proof.Machine.execBrev g d a s
  | .mov g d a => Sys2Proof.Machine.execMov g d a s
  | .shlR g d a b x => Sys2Proof.Machine.execShlR g d a b x s
  | .shlI g d a n => Sys2Proof.Machine.execShlI g d a n s
  | .shrR g d a b x_ => Sys2Proof.Machine.execShrR g d a b x_ s
  | .shrNI g d a n => Sys2Proof.Machine.execShrNI g d a n s
  | .shrSI g d a n => Sys2Proof.Machine.execShrSI g d a n s
  | .rot g d a b x => Sys2Proof.Machine.execRot g d a b x s
  | .andR g d a b x => Sys2Proof.Machine.execAndR g d a b x s
  | .andI g d a i_ => Sys2Proof.Machine.execAndI g d a i_ s
  | .orR g d a b x => Sys2Proof.Machine.execOrR g d a b x s
  | .orI g d a i_ => Sys2Proof.Machine.execOrI g d a i_ s
  | .xorR g d a b x => Sys2Proof.Machine.execXorR g d a b x s
  | .xorI g d a i_ => Sys2Proof.Machine.execXorI g d a i_ s
  | .lut3 g d a b => Sys2Proof.Machine.execLut3 g d a b s
  | .bfx g d a b x_ => Sys2Proof.Machine.execBfx g d a b x_ s
  | .bfi g d a b x => Sys2Proof.Machine.execBfi g d a b x s
  | .leaX1X2 g d a b k => Sys2Proof.Machine.execLeaX1X2 g d a b k s
  | .leaX4X8 g d a b k => Sys2Proof.Machine.execLeaX4X8 g d a b k s
  | .movi g d i_ => Sys2Proof.Machine.execMovi g d i_ s
  | .icmpR g p c a b => Sys2Proof.Machine.execIcmpR g p c a b s
  | .icmpI g p c a i_ => Sys2Proof.Machine.execIcmpI g p c a i_ s
  | .fcmpF32 g p c a b => Sys2Proof.Machine.execFcmpF32 g p c a b s
  | .fcmpF64 g p c a b => Sys2Proof.Machine.execFcmpF64 g p c a b s
  | .fcmpF16 g p c a b => Sys2Proof.Machine.execFcmpF16 g p c a b s
  | .plut g p a b c => Sys2Proof.Machine.execPlut g p a b c s
  | .p2v g d => Sys2Proof.Machine.execP2v g d s
  | .v2p g a => Sys2Proof.Machine.execV2p g a s
  | .ptestNr g p => Sys2Proof.Machine.execPtestNr g p s
  | .sel g d a p n => Sys2Proof.Machine.execSel g d a p n s
  | .bra g o => Sys2Proof.Machine.execBra g o s
  | .brd g t j => Sys2Proof.Machine.execBrd g t j s
  | .call g o => Sys2Proof.Machine.execCall g o s
  | .calli g a => Sys2Proof.Machine.execCalli g a s
  | .nop g => Sys2Proof.Machine.execNop g s
  | .ret g => Sys2Proof.Machine.execRet g s
  | .exit g => Sys2Proof.Machine.execExit g s
  | .kill g p n => Sys2Proof.Machine.execKill g p n s
  | .lperm g p c a b => Sys2Proof.Machine.execLperm g p c a b s
  | .qxchH g d a => Sys2Proof.Machine.execQxchH g d a s
  | .qxchV g d a => Sys2Proof.Machine.execQxchV g d a s
  | .qxchD g d a => Sys2Proof.Machine.execQxchD g d a s
  | .qbcast g d a q => Sys2Proof.Machine.execQbcast g d a q s
  | .pollAnd g p x_ => Sys2Proof.Machine.execPollAnd g p x_ s
  | .pollOr g p x_ => Sys2Proof.Machine.execPollOr g p x_ s
  | .pollSame g p x_ => Sys2Proof.Machine.execPollSame g p x_ s
  | .pick g p => Sys2Proof.Machine.execPick g p s
  | .pmask g d p n => Sys2Proof.Machine.execPmask g d p n s
  | .xred g d a m => Sys2Proof.Machine.execXred g d a m s
  | .smov g d m => Sys2Proof.Machine.execSmov g d m s
  | .ssetFflags g a => Sys2Proof.Machine.execSsetFflags g a s
  | .ssetFrnd g a => Sys2Proof.Machine.execSsetFrnd g a s
  | .ssetFtrap g a => Sys2Proof.Machine.execSsetFtrap g a s
  | .ldGB8 g t a l x_ o => Sys2Proof.Machine.execLdGB8 g t a l x_ o s
  | .ldGB16 g t a l x_ o => Sys2Proof.Machine.execLdGB16 g t a l x_ o s
  | .ldGB32 g t a l x_ o => Sys2Proof.Machine.execLdGB32 g t a l x_ o s
  | .ldGB64 g t a l x_ o => Sys2Proof.Machine.execLdGB64 g t a l x_ o s
  | .ldGB128 g t a l x_ o => Sys2Proof.Machine.execLdGB128 g t a l x_ o s
  | .stGB8 g t a x_ o => Sys2Proof.Machine.execStGB8 g t a x_ o s
  | .stGB16 g t a x_ o => Sys2Proof.Machine.execStGB16 g t a x_ o s
  | .stGB32 g t a x_ o => Sys2Proof.Machine.execStGB32 g t a x_ o s
  | .stGB64 g t a x_ o => Sys2Proof.Machine.execStGB64 g t a x_ o s
  | .stGB128 g t a x_ o => Sys2Proof.Machine.execStGB128 g t a x_ o s
  | .ldL g t a l w => Sys2Proof.Machine.execLdL g t a l w s
  | .stL g t a w => Sys2Proof.Machine.execStL g t a w s
  | .ldc g t a l w => Sys2Proof.Machine.execLdc g t a l w s
  | .ldt g t a l w => Sys2Proof.Machine.execLdt g t a l w s
  | .stT g t a w => Sys2Proof.Machine.execStT g t a w s
  | .atomAdd g t a l x_ o => Sys2Proof.Machine.execAtomAdd g t a l x_ o s
  | .atomAnd g t a l x_ o => Sys2Proof.Machine.execAtomAnd g t a l x_ o s
  | .atomOr g t a l x_ o => Sys2Proof.Machine.execAtomOr g t a l x_ o s
  | .atomXor g t a l x_ o => Sys2Proof.Machine.execAtomXor g t a l x_ o s
  | .atomMinN g t a l x_ o => Sys2Proof.Machine.execAtomMinN g t a l x_ o s
  | .atomMinS g t a l x_ o => Sys2Proof.Machine.execAtomMinS g t a l x_ o s
  | .atomMaxN g t a l x_ o => Sys2Proof.Machine.execAtomMaxN g t a l x_ o s
  | .atomMaxS g t a l x_ o => Sys2Proof.Machine.execAtomMaxS g t a l x_ o s
  | .atomExch g t a l x_ o => Sys2Proof.Machine.execAtomExch g t a l x_ o s
  | .atomCas g t a l x_ o => Sys2Proof.Machine.execAtomCas g t a l x_ o s
  | .atomInc g t a l x_ o => Sys2Proof.Machine.execAtomInc g t a l x_ o s
  | .atomFaddF32 g t a l x_ o => Sys2Proof.Machine.execAtomFaddF32 g t a l x_ o s
  | .redAdd g t a x_ o => Sys2Proof.Machine.execRedAdd g t a x_ o s
  | .redAnd g t a x_ o => Sys2Proof.Machine.execRedAnd g t a x_ o s
  | .redOr g t a x_ o => Sys2Proof.Machine.execRedOr g t a x_ o s
  | .redXor g t a x_ o => Sys2Proof.Machine.execRedXor g t a x_ o s
  | .redMinN g t a x_ o => Sys2Proof.Machine.execRedMinN g t a x_ o s
  | .redMinS g t a x_ o => Sys2Proof.Machine.execRedMinS g t a x_ o s
  | .redMaxN g t a x_ o => Sys2Proof.Machine.execRedMaxN g t a x_ o s
  | .redMaxS g t a x_ o => Sys2Proof.Machine.execRedMaxS g t a x_ o s
  | .redInc g t a x_ o => Sys2Proof.Machine.execRedInc g t a x_ o s
  | .redFaddF32 g t a x_ o => Sys2Proof.Machine.execRedFaddF32 g t a x_ o s
  | .fence g o x_ => Sys2Proof.Machine.execFence g o x_ s
  | .pfence g m x_ n => Sys2Proof.Machine.execPfence g m x_ n s
  | .bar g k => Sys2Proof.Machine.execBar g k s
  | .arrive g a => Sys2Proof.Machine.execArrive g a s
  | .waitc g d a => Sys2Proof.Machine.execWaitc g d a s
  | .launch g d a l => Sys2Proof.Machine.execLaunch g d a l s
  | .cp g d a => Sys2Proof.Machine.execCp g d a s
  | .cpclose g d l => Sys2Proof.Machine.execCpclose g d l s
  | .cpwait g d => Sys2Proof.Machine.execCpwait g d s
  | .preq g d a => Sys2Proof.Machine.execPreq g d a s
  | .lock g d a l => Sys2Proof.Machine.execLock g d a l s
  | .unlock g a => Sys2Proof.Machine.execUnlock g a s
  | .stmap g a => Sys2Proof.Machine.execStmap g a s
  | .stunmap g a => Sys2Proof.Machine.execStunmap g a s
  | .stflush g a => Sys2Proof.Machine.execStflush g a s
  | .lsaddF32 g d a => Sys2Proof.Machine.execLsaddF32 g d a s
  | .lsaddI32 g d a => Sys2Proof.Machine.execLsaddI32 g d a s
  | .fadd g d a b x => Sys2Proof.Machine.execFadd g d a b x s
  | .fsub g d a b x => Sys2Proof.Machine.execFsub g d a b x s
  | .fmul g d a b x => Sys2Proof.Machine.execFmul g d a b x s
  | .ffma g d a b x => Sys2Proof.Machine.execFfma g d a b x s
  | .faddF64 g d a b => Sys2Proof.Machine.execFaddF64 g d a b s
  | .fsubF64 g d a b => Sys2Proof.Machine.execFsubF64 g d a b s
  | .fmulF64 g d a b => Sys2Proof.Machine.execFmulF64 g d a b s
  | .ffmaF64 g d a b => Sys2Proof.Machine.execFfmaF64 g d a b s
  | .fminF32 g d a b => Sys2Proof.Machine.execFminF32 g d a b s
  | .fmaxF32 g d a b => Sys2Proof.Machine.execFmaxF32 g d a b s
  | .fminnumF32 g d a b => Sys2Proof.Machine.execFminnumF32 g d a b s
  | .fmaxnumF32 g d a b => Sys2Proof.Machine.execFmaxnumF32 g d a b s
  | .fminF64 g d a b => Sys2Proof.Machine.execFminF64 g d a b s
  | .fmaxF64 g d a b => Sys2Proof.Machine.execFmaxF64 g d a b s
  | .fminnumF64 g d a b => Sys2Proof.Machine.execFminnumF64 g d a b s
  | .fmaxnumF64 g d a b => Sys2Proof.Machine.execFmaxnumF64 g d a b s
  | .fscale g d a b x => Sys2Proof.Machine.execFscale g d a b x s
  | .vrsqe g d a b => Sys2Proof.Machine.execVrsqe g d a b s
  | .fdivF32 g d a l => Sys2Proof.Machine.execFdivF32 g d a l s
  | .fdivF64 g d a l => Sys2Proof.Machine.execFdivF64 g d a l s
  | .fsqrtF32 g d a l => Sys2Proof.Machine.execFsqrtF32 g d a l s
  | .fsqrtF64 g d a l => Sys2Proof.Machine.execFsqrtF64 g d a l s
  | .frcpF32 g d a l => Sys2Proof.Machine.execFrcpF32 g d a l s
  | .frcpF64 g d a l => Sys2Proof.Machine.execFrcpF64 g d a l s
  | .fexp2F32 g d a l => Sys2Proof.Machine.execFexp2F32 g d a l s
  | .flog2F32 g d a l => Sys2Proof.Machine.execFlog2F32 g d a l s
  | .fsinF32 g d a l => Sys2Proof.Machine.execFsinF32 g d a l s
  | .fcosF32 g d a l => Sys2Proof.Machine.execFcosF32 g d a l s
  | .frndF32 g d a => Sys2Proof.Machine.execFrndF32 g d a s
  | .frndF64 g d a => Sys2Proof.Machine.execFrndF64 g d a s
  | .fclassF32 g d a => Sys2Proof.Machine.execFclassF32 g d a s
  | .fclassF64 g d a => Sys2Proof.Machine.execFclassF64 g d a s
  | .fjoin g d a => Sys2Proof.Machine.execFjoin g d a s
  | .fsplitRow g d a x_ => Sys2Proof.Machine.execFsplitRow g d a x_ s
  | .fsplitCol g d a x_ => Sys2Proof.Machine.execFsplitCol g d a x_ s
  | .fcvt g d a x_ t n x => Sys2Proof.Machine.execFcvt g d a x_ t n x s
  | .mma g t c a l f => Sys2Proof.Machine.execMma g t c a l f s
  | .mmaj g b a f => Sys2Proof.Machine.execMmaj g b a f s
  | .mwait g => Sys2Proof.Machine.execMwait g s
  | .macc g d p q l f => Sys2Proof.Machine.execMacc g d p q l f s
  | .mzero g d l => Sys2Proof.Machine.execMzero g d l s
  | .mld g d a l f => Sys2Proof.Machine.execMld g d a l f s
  | .mdrain g d a f q => Sys2Proof.Machine.execMdrain g d a f q s
  | .mquant g d a l f => Sys2Proof.Machine.execMquant g d a l f s
  | .pbind g d a l => Sys2Proof.Machine.execPbind g d a l s
  | .pstale g d a l => Sys2Proof.Machine.execPstale g d a l s
  | .pstat g d a l => Sys2Proof.Machine.execPstat g d a l s
  | .psettle g a l x_ => Sys2Proof.Machine.execPsettle g a l x_ s
  | .psettleAsync g d a l x_ => Sys2Proof.Machine.execPsettleAsync g d a l x_ s
  | .punbind g a l x_ => Sys2Proof.Machine.execPunbind g a l x_ s
  | .prefresh g d a l x_ => Sys2Proof.Machine.execPrefresh g d a l x_ s
  | .skadd g d a => Sys2Proof.Machine.execSkadd g d a s
  | .skqry g d a l => Sys2Proof.Machine.execSkqry g d a l s
  | .skinit g a => Sys2Proof.Machine.execSkinit g a s
  | .skscale g d a => Sys2Proof.Machine.execSkscale g d a s
  | .skstat g d a l => Sys2Proof.Machine.execSkstat g d a l s
  | .skmerge g d a x_ => Sys2Proof.Machine.execSkmerge g d a x_ s
  | .rtag g d k p => Sys2Proof.Machine.execRtag g d k p s
  | .runtag g d p => Sys2Proof.Machine.execRuntag g d p s
  | .trap g n => Sys2Proof.Machine.execTrap g n s
  | .bkpt g n => Sys2Proof.Machine.execBkpt g n s
  | .hrd g d a l w => Sys2Proof.Machine.execHrd g d a l w s
  | .hwr g d a w => Sys2Proof.Machine.execHwr g d a w s
  | .eretC g a => Sys2Proof.Machine.execEretC g a s
  | .eretX g => Sys2Proof.Machine.execEretX g s
  | .tlbinv g a => Sys2Proof.Machine.execTlbinv g a s
  | .tlbinvCtx g => Sys2Proof.Machine.execTlbinvCtx g s
  | .ebudRd g d l => Sys2Proof.Machine.execEbudRd g d l s
  | .ebudSet g a => Sys2Proof.Machine.execEbudSet g a s
  | .stopr g d a l => Sys2Proof.Machine.execStopr g d a l s
  | .himm p i_ => Sys2Proof.Machine.execHimm p i_ s
  | .hoff o => Sys2Proof.Machine.execHoff o s
  | .hivl m => Sys2Proof.Machine.execHivl m s
  | .hgrd v n p => Sys2Proof.Machine.execHgrd v n p s
  | .hsem x_ c => Sys2Proof.Machine.execHsem x_ c s
  | .hrnd m => Sys2Proof.Machine.execHrnd m s
  | .hsat x_ r t => Sys2Proof.Machine.execHsat x_ r t s
  | .hdet => Sys2Proof.Machine.execHdet s
  | .createContext h args => Sys2Proof.Machine.execCreateContext h args s
  | .destroyContext h => Sys2Proof.Machine.execDestroyContext h s
  | .map h va size flags frame => Sys2Proof.Machine.execMap h va size flags frame s
  | .exportFrame h va size flags frame => Sys2Proof.Machine.execExportFrame h va size flags frame s
  | .unmap h va => Sys2Proof.Machine.execUnmap h va s
  | .withdrawExport h va => Sys2Proof.Machine.execWithdrawExport h va s
  | .loadImage h flags image => Sys2Proof.Machine.execLoadImage h flags image s
  | .start h desc => Sys2Proof.Machine.execStart h desc s
  | .halt h => Sys2Proof.Machine.execHalt h s
  | .resume h => Sys2Proof.Machine.execResume h s
  | .vacate h k => Sys2Proof.Machine.execVacate h k s
  | .readStopRecord h index => Sys2Proof.Machine.execReadStopRecord h index s
  | .attest h nonce => Sys2Proof.Machine.execAttest h nonce s
  | .setEnergyBudget h budget => Sys2Proof.Machine.execSetEnergyBudget h budget s
  | .queryIdentity h => Sys2Proof.Machine.execQueryIdentity h s
  | .queryPublicKey h => Sys2Proof.Machine.execQueryPublicKey h s
  | .queryContext h => Sys2Proof.Machine.execQueryContext h s
  | .queryErrorCounts h => Sys2Proof.Machine.execQueryErrorCounts h s
  | .queryThermal h => Sys2Proof.Machine.execQueryThermal h s
  | .reset failed => Sys2Proof.Machine.execReset failed s
  | .thermalThrottle die temp clock => Sys2Proof.Machine.execThermalThrottle die temp clock s
  | .thermalTrip die temp => Sys2Proof.Machine.execThermalTrip die temp s
  | .tripReset failed => Sys2Proof.Machine.execTripReset failed s
  | .clockLowering ctx clock => Sys2Proof.Machine.execClockLowering ctx clock s
  | .energyCountUpdate ctx charge used => Sys2Proof.Machine.execEnergyCountUpdate ctx charge used s
  | .linkRetry id port => Sys2Proof.Machine.execLinkRetry id port s
  | .requestTimeout id => Sys2Proof.Machine.execRequestTimeout id s
  | .remoteRequestArrival q => Sys2Proof.Machine.execRemoteRequestArrival q s
  | .remoteMergeArrival q => Sys2Proof.Machine.execRemoteMergeArrival q s
  | .hostFWrite q => Sys2Proof.Machine.execHostFWrite q s
  | .cacheWriteBack c line drop remote => Sys2Proof.Machine.execCacheWriteBack c line drop remote s
  | .thermosBackgroundApply ctx slot upTo refresh => Sys2Proof.Machine.execThermosBackgroundApply ctx slot upTo refresh s
  | .loadDataReturn id remote => Sys2Proof.Machine.execLoadDataReturn id remote s
  | .pageMigrationComplete id remote => Sys2Proof.Machine.execPageMigrationComplete id remote s
  | .skmergeComplete id n remote => Sys2Proof.Machine.execSkmergeComplete id n remote s
  | .hotnessNotification ctx block req => Sys2Proof.Machine.execHotnessNotification ctx block req s
  | .releaseComplete id remote => Sys2Proof.Machine.execReleaseComplete id remote s
  | .waitcSatisfied gid slotB remote => Sys2Proof.Machine.execWaitcSatisfied gid slotB remote s
  | .clusterPlacement ctx launch place => Sys2Proof.Machine.execClusterPlacement ctx launch place s
  | .waitingWorkgroupRestore wg place => Sys2Proof.Machine.execWaitingWorkgroupRestore wg place s
  | .clusterRestore ctx launch cluster place => Sys2Proof.Machine.execClusterRestore ctx launch cluster place s
  | .recipeReplay gid tag remote => Sys2Proof.Machine.execRecipeReplay gid tag remote s
  | .atomResultReturn id remote => Sys2Proof.Machine.execAtomResultReturn id remote s
  | .pbindComplete id => Sys2Proof.Machine.execPbindComplete id s
  | .psettleComplete id => Sys2Proof.Machine.execPsettleComplete id s
  | .punbindComplete id => Sys2Proof.Machine.execPunbindComplete id s
  | .prefreshComplete id => Sys2Proof.Machine.execPrefreshComplete id s
  | .thermosStatusReply id => Sys2Proof.Machine.execThermosStatusReply id s
  | .fpLongOpComplete id => Sys2Proof.Machine.execFpLongOpComplete id s
  | .mmaComplete id => Sys2Proof.Machine.execMmaComplete id s
  | .mldComplete id => Sys2Proof.Machine.execMldComplete id s
  | .mdrainWriteComplete id => Sys2Proof.Machine.execMdrainWriteComplete id s
  | .mmajInstanceStart id => Sys2Proof.Machine.execMmajInstanceStart id s
  | .mmajComplete id => Sys2Proof.Machine.execMmajComplete id s
  | .copyComplete id overlap => Sys2Proof.Machine.execCopyComplete id overlap s
  | .pageRequestService id => Sys2Proof.Machine.execPageRequestService id s
  | .sketchRequestPerformed id n => Sys2Proof.Machine.execSketchRequestPerformed id n s
  | .hotnessDecay => Sys2Proof.Machine.execHotnessDecay s
  | .pfenceComplete id => Sys2Proof.Machine.execPfenceComplete id s
  | .tlbinvSweepComplete id => Sys2Proof.Machine.execTlbinvSweepComplete id s
  | .launchAdmissionReply id => Sys2Proof.Machine.execLaunchAdmissionReply id s
  | .launchCompletionSignal ctx launch remote => Sys2Proof.Machine.execLaunchCompletionSignal ctx launch remote s
  | .waitingWorkgroupSave wg => Sys2Proof.Machine.execWaitingWorkgroupSave wg s
  | .groupVacateStop gid => Sys2Proof.Machine.execGroupVacateStop gid s
  | .vacateReply ctx => Sys2Proof.Machine.execVacateReply ctx s
  | .fastFileChunkFill gid chunk evict => Sys2Proof.Machine.execFastFileChunkFill gid chunk evict s
  | .handlerGroupFormation core => Sys2Proof.Machine.execHandlerGroupFormation core s
  | .originSlotResume gid slotB => Sys2Proof.Machine.execOriginSlotResume gid slotB s
  | .unitStop ctx unit => Sys2Proof.Machine.execUnitStop ctx unit s
  | .lockStatusReturn id => Sys2Proof.Machine.execLockStatusReturn id s
  | .maccMzeroMquantComplete id => Sys2Proof.Machine.execMaccMzeroMquantComplete id s
  | .remoteReadLineDrop die line => Sys2Proof.Machine.execRemoteReadLineDrop die line s
  | .uncorrectableError at_ => Sys2Proof.Machine.execUncorrectableError at_ s

end Sys2Proof.Machine
end

