-- ==== Sys2Proof/Machine/Schedule.lean ====
section
/-! DEFINITION. What moves next: time, the moves that the agenda asks for, and, where it asks for none, a move that is due (06, R88, R94, R96). Every
order of these moves is one that the manual allows; log entry 1 says what the agenda stands for. -/

namespace Sys2Proof.Machine

/-! ### Time (00, R2; 06, R96) -/

/-- Whether a handler group serves a lane of a launch. -/
def State.servesLaunch (s : State) (g : Group) (ctx launch : Nat) : Bool :=
  (g.origins.getD []).any (fun o => match s.group? o.gid with
    | some og => og.ctx == ctx && og.launch == launch
    | none => false)

/-- What a stretch of time adds to a launch's promise: H while a handler group of it runs, S while its context is stopped. -/
def State.extend (s : State) (ns : Nat) (c : Context) : Context :=
  { c with launches := c.launches.map (fun l =>
      if l.ended then l
      else if c.run != .running then { l with sTime := l.sTime + ns }
      else if s.groups.any (fun g => s.servesLaunch g c.no l.no) then { l with hTime := l.hTime + ns }
      else l) }

/-- Time passes, and launches whose dependence is met by now have their r. -/
def State.advance (s : State) (clocks ns : Nat) : State :=
  ({ s with time := s.time + ns, clock := s.clock + clocks, contexts := s.contexts.map (s.extend ns) } : State).settleDeps

/-! ### Moves -/

/-- What a move comes to: a state, a step of the instruction set in a state, or the outcome of an event that was due. -/
inductive Turn where
  | done (s : State)
  | run (i : Instr) (s : State)
  | out (o : Host.Outcome State Fault Refusal)

/-- A part of an engine's work: bytes of a copy, rows of a matrix load or drain, or one line of a page that moves within the device and has not been
copied yet (10, R190). -/
def State.part (s : State) (id n : Nat) : State :=
  match s.live? id with
  | none => s
  | some r => match r.job with
    | .copy c batch wid done => s.copyPart r c batch wid done n
    | .mld .. => s.mldPart r n
    | .mdrain .. => s.drainPart r n
    | .migrate _ leaf frame .. =>
      let old := leaf.frame / 128 + n
      if isRemote leaf.frame || isRemote frame || 2 ^ leaf.bits ≤ 128 * n || s.copied.any (fun k => k.1 == old) || s.pinned leaf.frame (2 ^ leaf.bits) then s
      else s.copyLine old (frame / 128 + n)
    | _ => s

/-- A move as it is asked for. A word issues only where its sub-core would issue it (R86, R88), and only events and commands come about by being
named; what cannot come about leaves the state as it is. -/
def State.attempt (s : State) (a : Act) : Turn :=
  match a with
  | .idle => .done s
  | .corrected d => .done (s.corrected d)
  | .part id n => .done (s.part id n)
  | .readDep ctx launch remote => .done (s.readDep ctx launch remote)
  | .message node bytes source => match messageCommand node bytes source with
    | some i => .run i s
    | none => .done (s.noCommand (headOf node bytes))
  | .event i => if i.isWord then .done s else .run i s
  | .issue gid b =>
    match s.group? gid with
    | none => .done s
    | some g => match s.picked g.core g.sub with
      | none => .done s
      | some (p, q) =>
        if p.gid != gid || q != b then .done s else
        match s.prepare p b with
        | .done t => .done t
        | .run i t => .run i t
        | _ => .done s

/-! ### What is due -/

/-- An event, as its meaning has it. -/
abbrev Event := State → Host.Outcome State Fault Refusal

/-- The event with which a request goes on. -/
def State.eventOf (s : State) (r : Request) : Event :=
  match r.job with
  | .load .. => execLoadDataReturn r.id .none
  | .fetch .. => execLoadDataReturn r.id .none
  | .reload .. => execLoadDataReturn r.id .none
  | .fpLong .. => execFpLongOpComplete r.id
  | .mma .. => execMmaComplete r.id
  | .acc .. => execMaccMzeroMquantComplete r.id
  | .mld .. => execMldComplete r.id
  | .mdrain .. => execMdrainWriteComplete r.id
  | .atom .. => execAtomResultReturn r.id .none
  | .remoteRed .. => execAtomResultReturn r.id .none
  | .remoteWrite .. => execAtomResultReturn r.id .none
  | .lock .. => execLockStatusReturn r.id
  | .release .. => execReleaseComplete r.id .none
  | .pfence .. => execPfenceComplete ⟨r.id, .none⟩
  | .tlbinv .. => execTlbinvSweepComplete r.id
  | .copy .. => execCopyComplete r.id false
  | .preq .. => execPageRequestService ⟨r.id, .none⟩
  | .migrate .. => execPageMigrationComplete r.id .none
  | .forward .. => execPageMigrationComplete r.id .none
  | .sketch _ _ done => execSketchRequestPerformed r.id ⟨nextUnit done, 1048576⟩
  | .skmerge _ _ _ done .. => execSkmergeComplete r.id ⟨nextUnit done, 1048576⟩ .none
  | .merging _ _ done => execSkmergeComplete r.id ⟨nextUnit done, 1048576⟩ .none
  | .launch .. => execLaunchAdmissionReply r.id
  | .pbind .. => execPbindComplete r.id
  | .pstatus .. => execThermosStatusReply r.id
  | .psettle .. => execPsettleComplete ⟨r.id, .none⟩
  | .punbind .. => execPunbindComplete r.id
  | .prefresh .. => execPrefreshComplete r.id
  | .mmaj .. => if ((s.jointOf r).map (fun j => j.started)).getD false then execMmajComplete r.id else execMmajInstanceStart r.id

/-- Sub-cores for the groups of a workgroup on a core: each group goes where most slots are free. -/
def State.spread (s : State) (core groups : Nat) : List Nat :=
  let free := ([0, 1, 2, 3] : List Nat).map (fun sub => (s.freeSlots core sub).length)
  ((List.range groups).foldl (fun (k : List Nat × List Nat) _ =>
    let most := k.2.foldl max 0
    if most == 0 then k else (k.1 ++ [k.2.findIdx (fun n => n == most)], k.2.set (k.2.findIdx (fun n => n == most)) (most - 1))) ([], free)).1

/-- Workgroups placed one after another, each on the first core that takes it. -/
def State.proposal (c : Context) (l : Launch) (k : Kernel) (cc : Nat) : Nat → Nat → State → Option (List CorePlace)
  | 0, _, _ => some []
  | n + 1, wgc, s =>
    let cores := c.openCores.filter (fun i => clusterOf i == cc)
    (cores.findSome? (fun core => let p : CorePlace := ⟨core, s.spread core l.groups⟩
      (s.placeWorkgroup c l k l.nextCluster wgc p).map (fun t => (p, t)))).bind (fun x =>
        (State.proposal c l k cc n (wgc + 1) x.2).map (fun ps => x.1 :: ps))

/-- The placements that are due. -/
def State.duePlacements (s : State) : List Event :=
  s.contexts.flatMap (fun c => if c.run != .running then [] else (c.launches.filter (fun l => l.waiting)).filterMap (fun l =>
    ((c.homesFor l).findSome? (fun cc => State.proposal c l l.kernel cc l.wgs 0 s)).map (fun ps => execClusterPlacement c.no l.no ps)))

/-- The saves of waiting workgroups that are due (R99). -/
def State.dueSaves (s : State) : List Event :=
  s.workgroups.filterMap (fun w => match s.ctx? w.ctx, s.kernelOf w.ctx w.launch with
    | some c, some k => if s.maySave c k w then some (execWaitingWorkgroupSave w.wid) else none
    | _, _ => none)

/-- A core for each workgroup of a moved cluster in turn, the first that takes it. -/
def State.returnProposal (c : Context) (l : Launch) (cc : Nat) : List Workgroup → State → Option (List CorePlace)
  | [], _ => some []
  | w :: r, s =>
    let cores := c.openCores.filter (fun i => clusterOf i == cc)
    (cores.findSome? (fun core => let p : CorePlace := ⟨core, s.spread core l.groups⟩
      (s.returnWorkgroup l l.kernel w p).map (fun t => (p, t)))).bind (fun x => (State.returnProposal c l cc r x.2).map (fun ps => x.1 :: ps))

/-- The restores that are due. -/
def State.dueRestores (s : State) : List Event :=
  s.workgroups.flatMap (fun w => if w.resident || w.ended then [] else
    match (s.ctx? w.ctx).bind (fun c => (c.launch? w.launch).map (fun l => (c, l))) with
    | none => []
    | some (c, l) =>
      if w.moved then
        let ws := ((s.clusterWgs w.ctx w.launch w.clu).filter (fun x => !x.ended)).foldl (fun l x => insertBy (fun x => x.wgc) x l) []
        ((c.openCores.map clusterOf).eraseDups.filterMap (fun cc => State.returnProposal c l cc ws s)).map (execClusterRestore w.ctx w.launch w.clu)
      else if (s.groupsIn w).all s.waitsVisible then []
      else c.openCores.map (fun core => execWaitingWorkgroupRestore w.wid ⟨core, s.spread core l.groups⟩))

/-- The chunks that a slot waits for: those that its interval marked, and those of its next word (06, R89). -/
def State.wanted (s : State) (g : Group) (b : Bool) : BitVec 16 :=
  match (g.slot b).path with
  | none => 0
  | some p => g.marked ||| (match s.codeWord g.ctx g.core p.pc.toNat with
    | none => 0
    | some w => match ({ s with issue := some (Issue.of g b p.pc w) } : State).env, decodeWf w with
      | some e, .ok i => let (reads, writes) := spans e.k e.hints (s.matrixCtl e i) i; chunksOf (reads ++ writes)
      | _, _ => 0)

/-- Events of groups that are due: counters, vacates, chunks, replays, returns from handlers. -/
def State.dueOfGroup (s : State) (g : Group) : List Event :=
  [false, true].flatMap (fun b =>
    let x := g.slot b
    (match x.wait with
    | some (.counter ..) => [execWaitcSatisfied g.gid b .none]
    | some (.lanes _) => [execOriginSlotResume g.gid b]
    | _ => []) ++
    (match s.prepare g b with
    | .blocked ts _ => ts.map (fun t => execRecipeReplay t.1 t.2.off .none)
    | _ => [])) ++
  (if !g.resident || g.fast == 0xFFFF then [] else
    let lacking := (s.wanted g false ||| s.wanted g true) &&& ~~~g.fast
    ((List.range 16).filter (fun c => lacking.getLsbD c)).map (fun c => execFastFileChunkFill g.gid c [])) ++
  (if ((s.wgOf g).map (fun w => w.moved)).getD false && g.resident then [execGroupVacateStop g.gid] else [])

/-- Events of contexts that are due: launches that have ended, stops, vacates, notifications, collapsed bindings. -/
def State.dueOfContext (s : State) (c : Context) : List Event :=
  (c.launches.filter (fun l => l.ended && !l.signalled)).map (fun l => execLaunchCompletionSignal c.no l.no .none) ++
  (if c.run == .raised then ((c.stop.map (fun i => i.pending)).getD []).map (fun u => execUnitStop c.no u) else []) ++
  (if c.vacating.isSome then [execVacateReply c.no] else []) ++
  (s.notices.filter (fun k => c.owns (65536 * k.1))).map (fun k => execHotnessNotification c.no k.1 k.2) ++
  (c.bindings.filter (fun b => b.ready && ((b.desc.background && (b.diffs.any b.stale || !b.marked.isEmpty)) || b.collapsing))).map (fun b =>
    execThermosBackgroundApply c.no b.slot b.lastNo ⟨b.marked.map (fun m => (m.1.col, m.1.no)), []⟩)

/-- A move that is due. -/
inductive Due where
  | issue (gid : Nat) (b : Bool)
  | event (f : Event)

/-- The moves that are due now, of every kind. -/
def State.due (s : State) : List Due :=
  let subs := ((s.groups.filter (fun g => g.resident)).map (fun g => (g.core, g.sub))).eraseDups
  let issues := subs.filterMap (fun x => (s.picked x.1 x.2).map (fun p => Due.issue p.1.gid p.2))
  let cores := (s.cores.filter (fun x => !x.2.pool.isEmpty)).map (fun x => (execHandlerGroupFormation x.1 : Event))
  let tick : List Event := (if (s.decays + 1) * 1048576 ≤ s.time then [execHotnessDecay] else []) ++ (match s.trippedAt with
    | some t => if t + 10000000 ≤ s.time then [execTripReset s.failedPorts] else []
    | none => [])
  issues ++ (s.requests.map s.eventOf ++ s.groups.flatMap s.dueOfGroup ++ s.contexts.flatMap s.dueOfContext ++ s.duePlacements ++ s.dueSaves ++ s.dueRestores ++
    cores ++ tick).map Due.event

/-- The turn when no move is asked for: the moves that are due take turns by the clock; with none due, time passes. -/
def State.dueTurn (s : State) : Turn :=
  let ms := s.due
  let t := s.advance 9 4
  match ms[s.clock / 9 % max 1 ms.length]? with
  | some (.issue gid b) => t.attempt (.issue gid b)
  | some (.event f) => .out (f t)
  | none => .done t

/-- One turn of the machine: the next move of the agenda, or one that is due. -/
def State.turn (s : State) : Turn :=
  match s.agenda with
  | m :: r => (({ s with agenda := r } : State).advance m.clocks m.ns).attempt m.act
  | [] => s.dueTurn

/-- What a turn that began in a state comes to: the lines of pages in migration that are copied hold at both frames what was performed at either (10, R190). -/
def State.ends (s : State) (o : Host.Outcome State Fault Refusal) : Host.Outcome State Fault Refusal :=
  match o with
  | .next t => .next (s.mirror t)
  | o => o

/-! ### A word placed where the next turn fetches it -/

/-- The context, kernel, launch, workgroup and group of a machine in which nothing runs yet: all lanes, no bound in reach, page 0 mapped to frame
0 for every access. -/
def bareKernel : Kernel where
  handle := 0x1000
  regs := 1024
  vwv := 0
  vwt := 0
  vwa := 0
  det := false
  handler := 0
  constBase := 0
  clen := 0
  calls := []
  defaults := []
  recipes := []
  codeBase := 0x1000

def bareArgs : ContextArgs where
  cores := 1
  ports := 1
  hbm := [⟨0, 0x200000⟩]
  deep := []
  root := 0x10000
  poolList := 0
  poolCount := 0
  reserve := ⟨0x100000, 0x10000⟩
  saveArea := ⟨0x110000, 0x10000⟩
  stopArea := ⟨0x120000, 0x10000⟩
  ringBase := 0
  ringN := 16
  ringCounter := 0
  lockQuota := 0
  threshold := 0
  budget := 2 ^ 40

/-- A root grid of one group. -/
def bareLaunch : Launch :=
  { launchOf [] bareKernel true 0 0 with
    handle := 0x1000, gx := 1, gy := 1, wgs := 1, groups := 1, lanes := 32, bound := 2 ^ 31, energy := 1, r := some 0, reserved := 1,
    placed := [⟨0, 0, false, false⟩] }

def bareContext : Context :=
  { Context.created 0 bareArgs [] 16 with
    images := [⟨[(0x1000, 0x1000)], true⟩], kernels := [bareKernel], nextGrid := 1, launches := [bareLaunch] }

def bareWorkgroup : Workgroup where
  wid := 1
  ctx := 0
  launch := 0
  clu := 0
  wgc := 0
  core := 0
  lsSize := 0
  ls := []
  late := []
  lsPoison := []
  stashes := []
  slots := [0]
  resident := true
  ended := false
  freed := false
  gone := false
  moved := false
  saveAt := none

def bareGroup : Group := { Group.start 2 0 bareLaunch 0 0 0 0 0 with a := Slot.ofPath ⟨0x1000, BitVec.allOnes 32, none, []⟩, fast := 0xFFFF }

/-- The leaf of the first page. -/
def bareLeaf : Leaf := ⟨0, 0, 16, 0, true, true, true, true, false⟩

/-- The machine with that group in it, ready to issue. -/
def State.bare (s : State) : State :=
  { s.setCore 0 { Core.empty with tlb := [bareLeaf] } with
    contexts := [bareContext], workgroups := [bareWorkgroup], groups := [bareGroup], fresh := max s.fresh 3, issue := none }

/-- The word that the next turn fetches, if it fetches one: the group and slot that issue, and the physical address. -/
def State.nextFetch (s : State) : Option (Group × Bool × Nat) :=
  match s.agenda with
  | m :: _ => (match m.act with
    | .issue gid b => (s.group? gid).bind (fun g => ((g.slot b).path).bind (fun p =>
        (s.findLeaf g.ctx (dieOf g.core) (s.core g.core).tlb p.pc.toNat .code).map (fun l => (g, b, l.pa p.pc.toNat))))
    | _ => none)
  | [] => none

/-- Put the first four bytes of an instruction at an address. -/
def State.putWordAt (s : State) (pa w : Nat) : State := { s with mem := Mem.write s.mem pa (leBytes 4 w) }

end Sys2Proof.Machine
end

