-- ==== Sys2Proof/Machine/Step.lean ====
section
/-! DEFINITION. The step: one turn of the machine, and the word placed where it fetches next. -/

namespace Sys2Proof.Machine

/-- One step: the next move of the agenda, or one that is due; a word or an event has its meaning from `exec`. -/
def step (s : State) : Host.Outcome State Fault Refusal :=
  s.ends (match s.turn with
  | .done t => .next t
  | .run i t => exec i t
  | .out o => o)

/-- The state with an instruction stored where the next step fetches. A program comes to run in this machine through commands and placements (log
5); where no slot issues next, those are taken as done, for one group of a privileged kernel. -/
def State.withFetchWord (s : State) (_nbits w : Nat) : State :=
  match s.nextFetch with
  | some (_, _, pa) => s.putWordAt pa w
  | none => { s.bare.putWordAt 0x1000 w with agenda := [⟨0, 0, .issue 2 false⟩] }

end Sys2Proof.Machine
end

