-- ==== Sys2Proof/Safety.lean ====
section
/-! DEFINITION. What the statements say of a step: the shapes in which a word completes, each with its frame, and the invariant that every step
keeps. -/

namespace Sys2Proof.Machine

/-! ### Frames -/

/-- Nothing of the machine differs but the group `gid`, and no word is being issued any more. -/
def OnlyGroup (s t : State) (gid : Nat) : Prop :=
  t = { s with groups := t.groups, issue := none } ∧ ∀ k, k ≠ gid → t.group? k = s.group? k

/-- The same, but that the machine has drawn free values. -/
def OnlyGroupAndFree (s t : State) (gid : Nat) : Prop :=
  t = { s with groups := t.groups, issue := none, fresh := t.fresh } ∧ ∀ k, k ≠ gid → t.group? k = s.group? k

/-- The bytes of a lane's registers outside one range, its predicates, NR, row exponents and held page are as before. -/
def Lane.sameBut (l k : Lane) (off n : Nat) : Prop :=
  (∀ o, (o < off ∨ off + n ≤ o) → k.bytes o 1 = l.bytes o 1) ∧ k.preds = l.preds ∧ k.nr = l.nr ∧ k.rowExp = l.rowExp ∧ k.lastPage = l.lastPage

/-- A group with other lanes. -/
def Group.withLanes (g : Group) (ls : List Lane) : Group := { g with lanes := ls }

/-- A group as it is after a word of its slot, `grp`, but for its lanes: the slot goes on to `pc` (06, R84). -/
def WentOn (e : Env) (pc : DWord) (grp : Group) : Prop := grp = (e.g.goto e.iss.slotB pc).withLanes grp.lanes

/-! ### Words that work lane by lane -/

/-- THE WORD COMPLETES LANE BY LANE: it answers a next state, in which every lane that it counts in (its guard holds there; 17, R313) has become
`f` of what it was, every other lane is as it was, the slot goes on to the next word, and nothing else of the machine differs. -/
def LaneWord (i : Instr) (g : BitVec 3) (s : State) (e : Env) (f : Nat → Lane → Lane) : Prop :=
  ∃ t grp, exec i s = .next t ∧ OnlyGroup s t e.g.gid ∧ t.group? e.g.gid = some grp ∧ WentOn e (e.iss.pc + 4) grp ∧
    ∀ n, n < e.g.lanes.length → grp.lane n = if (e.eff g).getLsbD n then f n (e.g.lane n) else e.g.lane n

/-- A word that writes one 32-bit register in each lane. -/
def WordResult (i : Instr) (g : BitVec 3) (d : BitVec 7) (s : State) (e : Env) (v : Nat → Lane → Word) : Prop :=
  LaneWord i g s e (fun n l => l.putWord (e.v d) (v n l))

/-- A word that writes one pair of registers in each lane. -/
def PairResult (i : Instr) (g : BitVec 3) (d : BitVec 7) (s : State) (e : Env) (v : Nat → Lane → DWord) : Prop :=
  LaneWord i g s e (fun n l => l.putDword (e.v d) (v n l))

/-- A word that writes one predicate in each lane. -/
def PredResult (i : Instr) (g : BitVec 3) (p : BitVec 4) (s : State) (e : Env) (v : Nat → Lane → Bool) : Prop :=
  LaneWord i g s e (fun n l => l.putPred p.toNat (v n l))

/-- What a floating-point word does in a lane that does not trap: it writes, and raises its flags, which a helper lane does not (06, R80). -/
def fpEffect (e : Env) (n : Nat) (put : Lane → Lane) (flags : BitVec 7) (l : Lane) : Lane :=
  if e.g.isHelper n then put l else (put l).raise flags

/-- THE ROUNDING OF A NUMBER INTO A FORMAT (13, R233, R239), its sign `neg` and its magnitude v known by comparison: `le p q` says p/q ≤ v and `ge p q`
says v ≤ p/q. Where the result has not overflowed it is a pattern of that sign, NX tells whether it differs from v, and no neighbour is the better choice
of the mode: toward zero, away from it, or to the nearest with a tie to the even pattern or away from zero. -/
def Rounds (f : Fmt) (m : Mode) (neg : Bool) (le ge : Nat → Nat → Prop) (r : Nat × BitVec 7) : Prop :=
  r.2.getLsbD 2 = false → ∃ x a c, r.1 = f.sign neg + x ∧ x ≤ f.maxBits ∧ f.value r.1 = .num neg a c ∧ 0 < c ∧
    (r.2.getLsbD 4 = false ↔ le a c ∧ ge a c) ∧
    (m = .rtz ∨ (m = .rup ∧ neg = true) ∨ (m = .rdn ∧ neg = false) → le a c ∧
      ∀ b d, x < f.maxBits → f.value (x + 1) = .num false b d → ¬ le b d) ∧
    ((m = .rup ∧ neg = false) ∨ (m = .rdn ∧ neg = true) → ge a c ∧ ∀ b d, 0 < x → f.value (x - 1) = .num false b d → ¬ ge b d) ∧
    (m = .rne ∨ m = .rna →
      (∀ b d, x < f.maxBits → f.value (x + 1) = .num false b d → ge (a * d + b * c) (2 * c * d) ∧ (le (a * d + b * c) (2 * c * d) → m = .rne ∧ x % 2 = 0)) ∧
      (∀ b d, 0 < x → f.value (x - 1) = .num false b d → le (a * d + b * c) (2 * c * d) ∧ (ge (a * d + b * c) (2 * c * d) → m = .rna ∨ x % 2 = 0)))

/-- The rounding of a fraction n/d. -/
def RoundsFraction (f : Fmt) (m : Mode) (neg : Bool) (n d : Nat) (r : Nat × BitVec 7) : Prop :=
  Rounds f m neg (fun p q => p * d ≤ n * q) (fun p q => n * q ≤ p * d) r

/-- The rounding of a magnitude n/d to an integer q in a mode (15, R276; 13, R234, R239). -/
def RoundsInt (m : Mode) (neg : Bool) (n d q : Nat) : Prop :=
  (m = .rtz ∨ (m = .rup ∧ neg = true) ∨ (m = .rdn ∧ neg = false) → q * d ≤ n ∧ n < (q + 1) * d) ∧
  ((m = .rup ∧ neg = false) ∨ (m = .rdn ∧ neg = true) → n ≤ q * d ∧ q * d < n + d) ∧
  (m = .rne ∨ m = .rna → 2 * n ≤ (2 * q + 1) * d ∧ 2 * q * d ≤ 2 * n + d ∧
    (2 * n = (2 * q + 1) * d → m = .rne ∧ q % 2 = 0) ∧ (2 * q * d = 2 * n + d → m = .rna ∨ q % 2 = 0))

/-- What an operation delivers where an operand is a NaN: that operand quieted, NV if an operand is signalling (13, R232, R233). -/
def Fmt.quiets (f : Fmt) (ins : List FVal) (r : FRes) : Prop :=
  ∀ s fr p, ins.find? FVal.isNan = some (.nan s fr p) →
    r = ⟨f.nanBits s fr p, if ins.any FVal.isSnan then flagNV else 0, ins.any FVal.isSnan⟩

/-- What the FP32 addition of an atomic leaves (11, R202): 0x7FC00000 with a NaN operand and for infinities of unlike signs, an infinity as it stands beside
any other number, −0 only for −0 + −0 and +0 for every other sum that is zero, and otherwise the sum rounded to the nearest, a tie to the even pattern, with
the infinity of its sign where it overflows. -/
def AddsFp32 (x v r : Word) : Prop :=
  let p := fp32.value x.toNat
  let q := fp32.value v.toNat
  (p.isNan = true ∨ q.isNan = true → r = 0x7FC00000) ∧
  (∀ s t, p = .inf s → q = .inf t → r = if s = t then x else 0x7FC00000) ∧
  (∀ s, p = .inf s → q.isFinite = true → r = x) ∧ (∀ s, q = .inf s → p.isFinite = true → r = v) ∧
  ∀ s n d t n' d', p = .num s n d → q = .num t n' d' →
    let z : Int := (if s then -(n : Int) else n) * d' + (if t then -(n' : Int) else n') * d
    (z = 0 → r = if n = 0 ∧ s = true ∧ t = true then 0x80000000 else 0) ∧
    (z ≠ 0 → ∃ fl : BitVec 7, RoundsFraction fp32 .rne (decide (z < 0)) z.natAbs (d * d') (r.toNat, fl) ∧
      (fl.getLsbD 2 = true → (∀ a c, fp32.value fp32.maxBits = .num false a c → a * (d * d') < z.natAbs * c) ∧
        r = if z < 0 then 0xFF800000 else 0x7F800000))

/-- No lane that the word counts in traps under FTRAP (15, R242); a helper lane never does (06, R80). -/
def NoTrap (g : BitVec 3) (e : Env) (r : Nat → FRes) : Prop :=
  ∀ n, (e.eff g).getLsbD n = true → e.g.isHelper n = false → trapCause e.g.ftrap (r n).sn (r n).flags = none

/-- A floating-point word that, where no lane of it traps, writes a value of so many bytes in each lane and raises flags. -/
def FpResult (i : Instr) (g : BitVec 3) (d : BitVec 7) (bytes : Nat) (s : State) (e : Env) (r : Lane → FRes) : Prop :=
  NoTrap g e (fun n => r (e.g.lane n)) →
    LaneWord i g s e (fun n l => fpEffect e n (fun k => k.putNat (e.v d) bytes (r l).bits) (r l).flags l)

/-- A long-latency floating-point word that, where no lane of it traps, leaves its results to a request: each lane's bytes and flags. -/
def FpRequest (g : BitVec 3) (d : BitVec 7) (bytes : Nat) (e : Env) (r : Lane → FRes) (job : Job) : Prop :=
  job = .fpLong
    (((lanesOf (e.act g)).filter (fun n => (e.eff g).getLsbD n)).map (fun n => ⟨n, e.v d, leBytes bytes (r (e.g.lane n)).bits⟩))
    (((lanesOf (e.act g)).filter (fun n => (e.eff g).getLsbD n)).map (fun n => (n, (r (e.g.lane n)).flags)))

/-! ### Words that make requests -/

/-- The lookahead window that a word opens (03, R37, R38). -/
def Env.window (e : Env) (s : State) (la : Nat) : Window := ⟨s.fresh, e.iss.slotB, la, e.iss.reads, e.iss.writes, false, false⟩

/-- A LONG-LATENCY WORD ISSUES (03, R37): its request joins those outstanding, its window is open, its slot goes on to the next word, and nothing
else differs: no register, no predicate, no flag and no byte of memory. -/
def LongWord (i : Instr) (s : State) (e : Env) (la : BitVec 4) (job : Job) : Prop :=
  ∃ t, exec i s = .next t ∧
    t = { s with groups := t.groups, requests := s.requests ++ [e.request s job], fresh := s.fresh + 1, issue := none } ∧
    (∀ k, k ≠ e.g.gid → t.group? k = s.group? k) ∧
    t.group? e.g.gid = some ({ e.g with windows := e.g.windows ++ [e.window s la.toNat] }.goto e.iss.slotB (e.iss.pc + 4))

/-- A word without a window makes a request and its slot goes on. -/
def SubmitWord (i : Instr) (s : State) (e : Env) (job : Job) : Prop :=
  ∃ t, exec i s = .next t ∧
    t = { s with groups := t.groups, requests := s.requests ++ [e.request s job], fresh := s.fresh + 1, issue := none } ∧
    (∀ k, k ≠ e.g.gid → t.group? k = s.group? k) ∧ t.group? e.g.gid = some (e.g.goto e.iss.slotB (e.iss.pc + 4))

/-- A word makes a request and its slot waits for it at the word (06, Table 6-4); nothing else differs. -/
def HoldWord (i : Instr) (s : State) (e : Env) (job : Job) : Prop :=
  ∃ t, exec i s = .next t ∧
    t = { s with groups := t.groups, requests := s.requests ++ [e.request s job], fresh := s.fresh + 1, issue := none } ∧
    (∀ k, k ≠ e.g.gid → t.group? k = s.group? k) ∧
    t.group? e.g.gid = some (e.g.updSlot e.iss.slotB (fun x => { x with wait := some (.request s.fresh), redo := none }))

/-! ### Accesses -/

/-- Every lane of a mask finds a resident page on this device for its access, and `pa` gives the physical addresses (11, R195; 10, R181). -/
def Env.finds (e : Env) (s : State) (m : BitVec 32) (off width : Nat) (n : Need) (pa : Nat → Nat) : Prop :=
  ∀ i, m.getLsbD i = true → ∃ l, s.checkAccess e i (e.ea off (e.g.lane i)) width n = some l ∧ l.res = true ∧
    pa i = l.pa (e.ea off (e.g.lane i)).toNat ∧ isRemote (pa i) = false

/-- Every lane of a mask finds a page that is not resident for its access (10, R184). -/
def Env.absent (e : Env) (s : State) (m : BitVec 32) (off width : Nat) (n : Need) : Prop :=
  ∀ i, m.getLsbD i = true → ∃ l, s.checkAccess e i (e.ea off (e.g.lane i)) width n = some l ∧ l.res = false

/-- The group with the lookahead window of its word open. -/
def Env.windowed (e : Env) (s : State) (la : BitVec 4) : Group := { e.g with windows := e.g.windows ++ [e.window s la.toNat] }

/-- A word has found no page in the lanes of a mask: they have NR set, but for helper lanes, the slot of the group `base` goes on, and nothing else
differs from `u` (02, R28; 10, Table 10-6). -/
def Env.marksNr (e : Env) (s t : State) (m : BitVec 32) (base : Group) (u : State) : Prop :=
  t = { u with groups := t.groups, fresh := u.fresh + 1, issue := none } ∧ (∀ k, k ≠ e.g.gid → t.group? k = s.group? k) ∧
  ∃ grp, t.group? e.g.gid = some grp ∧ grp = (base.goto e.iss.slotB (e.iss.pc + 4)).withLanes grp.lanes ∧
    ∀ n, n < e.g.lanes.length → grp.lane n =
      if m.getLsbD n = true ∧ e.g.isHelper n = false then { e.g.lane n with nr := true } else e.g.lane n

/-- The core of the issuing group and its cluster hold no line, and no home is poisoned. -/
def Env.noCaches (e : Env) (s : State) : Prop :=
  (s.core e.g.core).l1 = [] ∧ s.clusterCache (clusterOf e.g.core) = [] ∧ s.poison = []

/-- The last translation that the core used is that of a resident page, and it is the only one that the lanes hold. -/
def Env.holdsPage (e : Env) (s : State) (l : Leaf) : Prop :=
  (s.core e.g.core).tlb.head? = some l ∧ l.res = true ∧ ∀ i, (e.g.lane i).lastPage = none ∨ (e.g.lane i).lastPage = some l

/-- A held page serves a virtual address: the byte lies in memory of this device. -/
def Leaf.serves (l : Leaf) (ctx va : Nat) : Prop :=
  va < 2 ^ 56 ∧ l.covers ctx va = true ∧ (regionOf (l.pa va) = .hbm ∨ regionOf (l.pa va) = .deep)

/-- What the D path reads at an address, its poison apart. -/
def State.byteD (s : State) (core pa : Nat) : Option (BitVec 8) := (s.seeD core pa).map (fun x => x.1)

/-- A lane as it is but for the page that it accessed last. -/
def Lane.withPage (l : Lane) (p : Option Leaf) : Lane := { l with lastPage := p }

/-- The lanes that store: active and no helper lanes (06, R80). -/
def Env.storing (e : Env) (g : BitVec 3) : BitVec 32 := e.act g &&& ~~~ e.g.helpers

/-- What a lane becomes when a request's bytes, row exponents and flags are delivered: a helper lane raises no flag (06, R80). -/
def Lane.takes (l : Lane) (n : Nat) (helper : Bool) (ws : List LaneWrite) (es : List (Nat × Nat × BitVec 16)) (fs : List (Nat × BitVec 7)) : Lane :=
  let k := ws.foldl (fun k w => if w.lane = n then k.put w.off w.bytes else k) l
  let k := if helper then k else fs.foldl (fun k f => if f.1 = n then k.raise f.2 else k) k
  es.foldl (fun k x => if x.1 = n then { k with rowExp := setNth k.rowExp x.2.1 x.2.2 } else k) k

/-- A request is over: its bytes, exponents and flags are in the lanes of its group, its window stalls no longer, and nothing else differs. -/
def DeliversTo (s t : State) (r : Request) (g : Group) (ws : List LaneWrite) (es : List (Nat × Nat × BitVec 16)) (fs : List (Nat × BitVec 7)) :
    Prop :=
  ∃ grp, t = { s with groups := t.groups, requests := s.requests.filter (fun q => q.id != r.id) } ∧
    (∀ k, k ≠ r.gid → t.group? k = s.group? k) ∧ t.group? r.gid = some grp ∧ grp = { g with lanes := grp.lanes, windows := grp.windows } ∧
    ∀ n, n < g.lanes.length → grp.lane n = (g.lane n).takes n (g.isHelper n) ws es fs

/-- A word that makes a request of the Thermos, which ends the sync interval of its group (07, R131). -/
def SettleWord (i : Instr) (s : State) (e : Env) (la : BitVec 4) (job : Job) : Prop :=
  ∃ t, exec i s = .next t ∧
    t = { s with groups := t.groups, requests := s.requests ++ [e.request s job], fresh := s.fresh + 1, issue := none } ∧
    (∀ k, k ≠ e.g.gid → t.group? k = s.group? k) ∧
    t.group? e.g.gid = some ({ e.g.nextInterval with windows := e.g.windows ++ [e.window s la.toNat] }.goto e.iss.slotB (e.iss.pc + 4))

/-- The word is active in some lane, and its active lanes agree on a value (03, R33). -/
def Env.agree {α : Type} (e : Env) (g : BitVec 3) (f : Lane → α) (v : α) : Prop :=
  e.act g ≠ 0 ∧ ∀ i, (e.act g).getLsbD i = true → f (e.g.lane i) = v

/-- No two elements of a binding's C share a byte. -/
def Binding.cApart (b : Binding) : Prop :=
  ∀ i j k l, i < b.desc.m → j < b.desc.n → k < b.desc.m → l < b.desc.n → (i, j) ≠ (k, l) →
    b.cPa i j + typeSize b.desc.tc ≤ b.cPa k l ∨ b.cPa k l + typeSize b.desc.tc ≤ b.cPa i j

/-- An address is that of no byte of a binding's C. -/
def Binding.outsideC (b : Binding) (a : Nat) : Prop :=
  ∀ i j, i < b.desc.m → j < b.desc.n → a < b.cPa i j ∨ b.cPa i j + typeSize b.desc.tc ≤ a

/-- A binding keeps a number for each element and each line of C; the lines that its differences and marks name exist; and a lost difference that no
refresh has reached has its line marked with its number or a later one (04, R50, R57). -/
def Binding.orderly (b : Binding) : Prop :=
  b.points.length = b.desc.m * b.desc.n ∧ b.rowQ.length = b.desc.m ∧ b.colQ.length = b.desc.n ∧
  (∀ d ∈ b.diffs, if d.inB then d.col < b.desc.n else d.row < b.desc.m) ∧
  (∀ x ∈ b.marked, if x.1.col then x.1.no < b.desc.n else x.1.no < b.desc.m) ∧
  ∀ d ∈ b.diffs, d.lost = true → b.stale d = true → ∃ x ∈ b.marked, x.1 = d.line ∧ d.no ≤ x.2

/-- The pairs of elements whose products make element (i, j) of C. -/
def pairsOf (b : Binding) (as bs : List Nat) (i j : Nat) : List (Nat × Nat) :=
  (List.range b.desc.k).map (fun q => (as.getD (i * b.desc.k + q) 0, bs.getD (q * b.desc.n + j) 0))

/-- The word takes a fault (17, R317). That the record of a fault of no single lane names lane 0 is the model's choice (log 36). -/
def Faults (i : Instr) (s : State) (e : Env) (h : Halt) : Prop := exec i s = .next (e.takeFault h s)

end Sys2Proof.Machine
end

