-- ==== Sys2Proof/Certificates/Slice0/Obligations.lean ====
section
/-! DEFINITION. The statements for the provers: what the words, events and commands of the machine do, its frames, encodings and invariants. -/

open Sys2Proof Sys2Proof.Machine

/-! ### Registers and memory -/

/-- 02, R21, R23, R24; 10, R175: bytes written to a lane's registers are read back, little-endian; every other byte, whichever view names it, and
everything else of the lane is as before. 10, R171, R175 (log 2): a byte written to a memory is read back and every other byte is as before; the canonical form is kept, and memories of that form
that read alike are equal. -/
def Obligations.ReadAfterWrite : Prop :=
  (∀ (l : Lane) (off n v : Nat),
      (l.putNat off n v).nat off n = v % 256 ^ n ∧
      (∀ o m, o + m ≤ off ∨ off + n ≤ o → (l.putNat off n v).bytes o m = l.bytes o m) ∧
      (l.putNat off n v).preds = l.preds ∧ (l.putNat off n v).fflags = l.fflags ∧ (l.putNat off n v).nr = l.nr ∧
      (l.putNat off n v).rowExp = l.rowExp ∧ (l.putNat off n v).lastPage = l.lastPage) ∧
  (∀ (m : Mem) (a : Nat) (v : BitVec 8),
      (m.set a v).get a = v ∧ (∀ b, b ≠ a → (m.set a v).get b = m.get b) ∧ (m.wf = true → (m.set a v).wf = true) ∧
      ∀ m' : Mem, m.wf = true → m'.wf = true → (∀ b, m'.get b = m.get b) → m' = m)

/-! ### Integer and logic words (08, R133–R142; 03, R32, R33) -/

/-- 03, R33: where the operands of an R-format word without a variant come from. Without HIMM they are the two registers, and X = 1 is an illegal
instruction; with HIMM the operand that it names is the payload followed by B and X, and the other is register A. -/
def Obligations.OperandForms : Prop :=
  ∀ (e : Env) (a b : BitVec 7) (x : BitVec 1),
    (e.hints.himm = none → x = 0 → e.operands a b x = .ok (fun l => (l.word (e.v a), l.word (e.v b)))) ∧
    (e.hints.himm = none → x = 1 → e.operands a b x = .error .illegal) ∧
    (∀ hi, e.hints.himm = some (false, hi) → e.operands a b x = .ok (fun l => (l.word (e.v a), hi ++ (b ++ x)))) ∧
    (∀ hi, e.hints.himm = some (true, hi) → e.operands a b x = .ok (fun l => (hi ++ (b ++ x), l.word (e.v a)))) ∧
    (∀ i : BitVec 8, ∀ l : Lane,
      (e.hints.himm = none → e.operandsI a i l = (l.word (e.v a), i.signExtend 32)) ∧
      (∀ hi, e.hints.himm = some (false, hi) → e.operandsI a i l = (l.word (e.v a), hi ++ i)) ∧
      (∀ hi, e.hints.himm = some (true, hi) → e.operandsI a i l = (hi ++ i, l.word (e.v a))))

/-- 08, R133, R135, Table 8-1; 03, R32, R33: IADD, ISUB, IMUL, IMAD, SHL, ROT, AND, OR, XOR and BFI in R format complete in every form of their
operands; with operands that R33 forbids they are illegal instructions. -/
def Obligations.IntegerRegisterWords : Prop :=
  ∀ (s : State) (e : Env) (g : BitVec 3) (d a b : BitVec 7) (x : BitVec 1), s.env = some e →
    (∀ o : Lane → Word × Word, e.operands a b x = .ok o →
      WordResult (.iaddR g d a b x) g d s e (fun _ l => (o l).1 + (o l).2) ∧
      WordResult (.isub g d a b x) g d s e (fun _ l => (o l).1 - (o l).2) ∧
      WordResult (.imulR g d a b x) g d s e (fun _ l => (o l).1 * (o l).2) ∧
      WordResult (.imad g d a b x) g d s e (fun _ l => (o l).1 * (o l).2 + l.word (e.v d)) ∧
      WordResult (.shlR g d a b x) g d s e (fun _ l => (o l).1 <<< ((o l).2.toNat % 32)) ∧
      WordResult (.rot g d a b x) g d s e (fun _ l => (o l).1.rotateLeft ((o l).2.toNat % 32)) ∧
      WordResult (.andR g d a b x) g d s e (fun _ l => (o l).1 &&& (o l).2) ∧
      WordResult (.orR g d a b x) g d s e (fun _ l => (o l).1 ||| (o l).2) ∧
      WordResult (.xorR g d a b x) g d s e (fun _ l => (o l).1 ^^^ (o l).2) ∧
      WordResult (.bfi g d a b x) g d s e (fun _ l => bfiWord (o l).1 (o l).2 (l.word (e.v d)))) ∧
    (∀ h : Halt, e.operands a b x = .error h →
      ∀ i ∈ [Instr.iaddR g d a b x, .isub g d a b x, .imulR g d a b x, .imad g d a b x, .shlR g d a b x, .rot g d a b x, .andR g d a b x,
        .orR g d a b x, .xorR g d a b x, .bfi g d a b x], Faults i s e h)

/-- 08, R134–R137; 03, R33: the I-format words, MOVI, and the words of one source and of two sources with a variant.
Where the manual leaves a corner open, the reading is the model's own (log 11). -/
def Obligations.IntegerImmediateAndVariantWords : Prop :=
  ∀ (s : State) (e : Env) (g : BitVec 3) (d a b : BitVec 7) (i : BitVec 8) (n : BitVec 5), s.env = some e →
    WordResult (.iaddI g d a i) g d s e (fun _ l => (e.operandsI a i l).1 + (e.operandsI a i l).2) ∧
    WordResult (.imulI g d a i) g d s e (fun _ l => (e.operandsI a i l).1 * (e.operandsI a i l).2) ∧
    WordResult (.andI g d a i) g d s e (fun _ l => (e.operandsI a i l).1 &&& (e.operandsI a i l).2) ∧
    WordResult (.orI g d a i) g d s e (fun _ l => (e.operandsI a i l).1 ||| (e.operandsI a i l).2) ∧
    WordResult (.xorI g d a i) g d s e (fun _ l => (e.operandsI a i l).1 ^^^ (e.operandsI a i l).2) ∧
    WordResult (.movi g d i) g d s e (fun _ _ => match e.hints.himm with | none => i.signExtend 32 | some (_, hi) => hi ++ i) ∧
    WordResult (.shlI g d a n) g d s e (fun _ l => l.word (e.v a) <<< n.toNat) ∧
    WordResult (.shrNI g d a n) g d s e (fun _ l => l.word (e.v a) >>> n.toNat) ∧
    WordResult (.shrSI g d a n) g d s e (fun _ l => (l.word (e.v a)).sshiftRight n.toNat) ∧
    WordResult (.imulh g d a b 0) g d s e (fun _ l => BitVec.ofNat 32 ((l.word (e.v a)).toNat * (l.word (e.v b)).toNat / 2 ^ 32)) ∧
    WordResult (.imulh g d a b 1) g d s e (fun _ l => BitVec.ofInt 32 ((l.word (e.v a)).toInt * (l.word (e.v b)).toInt / 2 ^ 32)) ∧
    WordResult (.imin g d a b 0) g d s e (fun _ l => BitVec.ofNat 32 (min (l.word (e.v a)).toNat (l.word (e.v b)).toNat)) ∧
    WordResult (.imin g d a b 1) g d s e (fun _ l => BitVec.ofInt 32 (min (l.word (e.v a)).toInt (l.word (e.v b)).toInt)) ∧
    WordResult (.imax g d a b 0) g d s e (fun _ l => BitVec.ofNat 32 (max (l.word (e.v a)).toNat (l.word (e.v b)).toNat)) ∧
    WordResult (.imax g d a b 1) g d s e (fun _ l => BitVec.ofInt 32 (max (l.word (e.v a)).toInt (l.word (e.v b)).toInt)) ∧
    WordResult (.shrR g d a b 0) g d s e (fun _ l => l.word (e.v a) >>> ((l.word (e.v b)).toNat % 32)) ∧
    WordResult (.shrR g d a b 1) g d s e (fun _ l => (l.word (e.v a)).sshiftRight ((l.word (e.v b)).toNat % 32)) ∧
    (∀ v : BitVec 1, WordResult (.bfx g d a b v) g d s e (fun _ l => bfxWord v (l.word (e.v a)) (l.word (e.v b)))) ∧
    WordResult (.iabs g d a) g d s e (fun _ l => BitVec.ofNat 32 (l.word (e.v a)).toInt.natAbs) ∧
    WordResult (.ineg g d a) g d s e (fun _ l => BitVec.ofInt 32 (-(l.word (e.v a)).toInt)) ∧
    WordResult (.notW g d a) g d s e (fun _ l => ~~~ (l.word (e.v a))) ∧
    WordResult (.popc g d a) g d s e (fun _ l => popWord (l.word (e.v a))) ∧
    WordResult (.clz g d a) g d s e (fun _ l => clzWord (l.word (e.v a))) ∧
    WordResult (.brev g d a) g d s e (fun _ l => revWord (l.word (e.v a))) ∧
    WordResult (.mov g d a) g d s e (fun _ l => l.word (e.v a))

/-- 08, R135–R137; 03, R30, R33: the words on pairs, IADD64, IMADW and LEA, and LUT3. IADD64 takes a second pair, whose number is even, or an immediate
extended to 64 bits; LUT3 takes its table from HIMM, in payload bits 7:0. -/
def Obligations.IntegerPairWordsAndLut : Prop :=
  ∀ (s : State) (e : Env) (g : BitVec 3) (d a b : BitVec 7) (x k : BitVec 1), s.env = some e →
    (e.hints.himm = none → x = 0 → b.toNat % 2 = 0 → PairResult (.iadd64 g d a b x) g d s e (fun _ l => l.dword (e.v a) + l.dword (e.v b))) ∧
    (e.hints.himm = none → (x = 1 ∨ b.toNat % 2 = 1) → Faults (.iadd64 g d a b x) s e .illegal) ∧
    (∀ p hi, e.hints.himm = some (p, hi) →
      PairResult (.iadd64 g d a b x) g d s e (fun _ l => l.dword (e.v a) + ((hi ++ (b ++ x) : Word)).signExtend 64)) ∧
    PairResult (.imadw g d a b 0) g d s e (fun _ l =>
      BitVec.ofNat 64 ((l.word (e.v a)).toNat * (l.word (e.v b)).toNat + (l.dword (e.v d)).toNat)) ∧
    PairResult (.imadw g d a b 1) g d s e (fun _ l =>
      BitVec.ofInt 64 ((l.word (e.v a)).toInt * (l.word (e.v b)).toInt + (l.dword (e.v d)).toInt)) ∧
    PairResult (.leaX1X2 g d a b k) g d s e (fun _ l =>
      BitVec.ofInt 64 ((l.dword (e.v a)).toInt + (l.word (e.v b)).toInt * 2 ^ k.toNat)) ∧
    PairResult (.leaX4X8 g d a b k) g d s e (fun _ l =>
      BitVec.ofInt 64 ((l.dword (e.v a)).toInt + (l.word (e.v b)).toInt * 2 ^ (2 + k.toNat))) ∧
    (∀ p hi, e.hints.himm = some (p, hi) → p = false → hi.toNat < 256 →
      WordResult (.lut3 g d a b) g d s e (fun _ l => lut3Word (hi.truncate 8) (l.word (e.v a)) (l.word (e.v b)) (l.word (e.v d)))) ∧
    ((∀ hi, e.hints.himm = some (false, hi) → 256 ≤ hi.toNat) → Faults (.lut3 g d a b) s e .illegal)

/-- 08, R135–R137: BFX, BFI, LUT3, POPC, CLZ and BREV bit by bit. -/
def Obligations.BitFieldResults : Prop :=
  ∀ (a b d : Word) (tt : BitVec 8) (sg : BitVec 1) (i : Nat), i < 32 →
    (let pos := b.toNat % 256
     let len := min (b.toNat / 256 % 256) 32
     let ext : Nat → Bool := fun j => if j < 32 then a.getLsbD j else sg == 1 && a.getLsbD 31
     (bfxWord sg a b).getLsbD i = (if i < len then ext (pos + i) else sg == 1 && decide (0 < len) && ext (pos + len - 1)) ∧
     (bfiWord a b d).getLsbD i = (if pos ≤ i ∧ i < pos + len then a.getLsbD (i - pos) else d.getLsbD i)) ∧
    (lut3Word tt a b d).getLsbD i = tt.getLsbD ((a.getLsbD i).toNat + 2 * (b.getLsbD i).toNat + 4 * (d.getLsbD i).toNat) ∧
    (revWord a).getLsbD i = a.getLsbD (31 - i) ∧
    (popWord a).toNat = (List.range 32).countP (fun j => a.getLsbD j) ∧
    (clzWord a).toNat ≤ 32 ∧ (32 - (clzWord a).toNat ≤ i → a.getLsbD i = false) ∧
    (i + (clzWord a).toNat = 31 → a.getLsbD i = true)

/-- 08, R138, R139, R141; 03, R33, Table 3-14: ICMP in both forms, P2V, V2P and PTEST.nr. -/
def Obligations.PredicateWords : Prop :=
  (∀ (c : BitVec 4) (x y : Word), c.toNat % 8 ≤ 5 →
    let p : Int := if c.getLsbD 3 then x.toInt else x.toNat
    let q : Int := if c.getLsbD 3 then y.toInt else y.toNat
    (icmpHolds c x y = true ↔
      (c.toNat % 8 = 0 ∧ p = q) ∨ (c.toNat % 8 = 1 ∧ p ≠ q) ∨ (c.toNat % 8 = 2 ∧ p < q) ∨ (c.toNat % 8 = 3 ∧ p ≤ q) ∨
      (c.toNat % 8 = 4 ∧ p > q) ∨ (c.toNat % 8 = 5 ∧ p ≥ q))) ∧
  ∀ (s : State) (e : Env) (g : BitVec 3) (p c : BitVec 4) (d a b i : BitVec 7), s.env = some e →
    PredResult (.icmpR g p c a b) g p s e (fun _ l => icmpHolds c (l.word (e.v a)) (l.word (e.v b))) ∧
    (e.hints.himm = none → PredResult (.icmpI g p c a i) g p s e (fun _ l => icmpHolds c (l.word (e.v a)) (i.signExtend 32))) ∧
    (∀ top hi, e.hints.himm = some (top, hi) →
      PredResult (.icmpI g p c a i) g p s e (fun _ l => icmpHolds c (l.word (e.v a)) (hi ++ BitVec.ofBool top ++ i))) ∧
    WordResult (.p2v g d) g d s e (fun _ l => l.preds.zeroExtend 32) ∧
    LaneWord (.v2p g a) g s e (fun _ l => { l with preds := (l.word (e.v a)).truncate 12 }) ∧
    LaneWord (.ptestNr g p) g s e (fun _ l => { l.putPred p.toNat l.nr with nr := false })

/-- 02, R26; 03, R32: what a written predicate reads as, and that the others keep their values; and in which lanes a word counts: those of its path
whose guard holds, G = 0 or, with a hint HGRD, the predicate that the hint names. -/
def Obligations.PredicatesAndGuards : Prop :=
  (∀ (l : Lane) (p q : Nat) (v : Bool), p < 12 → (l.putPred p v).pred q = if q = p then v else l.pred q) ∧
  ∀ (e : Env) (g : BitVec 3) (n : Nat), e.iss.redo = false →
    ((e.eff g).getLsbD n = true ↔ e.path.mask.getLsbD n = true ∧
      match e.hints.hgrd with
      | some (never, neg, p) => never = false ∧ (e.g.lane n).pred p.toNat ≠ neg
      | none => g = 0 ∨ (e.g.lane n).pred (g.toNat - 1) = true)

/-- 08, R140: PLUT in each active lane, the table that its HIMM must bring, the fields that make it illegal, and the rule's example.
That the record of the fault without a table names lane 0 is the model's choice (log 36). -/
def Obligations.PlutCombinesThreePredicates : Prop :=
  (∀ (s : State) (e : Env) (g : BitVec 3) (p a b c : BitVec 4), s.env = some e →
    (∀ hi, e.hints.himm = some (false, hi) → hi.toNat < 256 →
      PredResult (.plut g p a b c) g p s e (fun _ l =>
        hi.getLsbD (4 * (l.pred a.toNat).toNat + 2 * (l.pred b.toNat).toNat + (l.pred c.toNat).toNat))) ∧
    ((∀ hi, e.hints.himm = some (false, hi) → 256 ≤ hi.toNat) → Faults (.plut g p a b c) s e .illegal)) ∧
  (∀ (w : Word) (i : Instr), w.extractLsb' 25 7 = 0x25 →
    (decodeWf w = .ok i ↔ (w.extractLsb' 18 4).toNat < 12 ∧ (w.extractLsb' 14 4).toNat < 12 ∧ (w.extractLsb' 10 4).toNat < 12 ∧
      (w.extractLsb' 6 4).toNat < 12 ∧ w.extractLsb' 0 6 = 0 ∧
      i = .plut (w.extractLsb' 22 3) (w.extractLsb' 18 4) (w.extractLsb' 14 4) (w.extractLsb' 10 4) (w.extractLsb' 6 4))) ∧
  (∀ x y : Bool, (0x03#24).getLsbD (4 * x.toNat + 2 * x.toNat + y.toNat) = !x)

/-- 08, R142: SEL writes where pS XOR X holds and keeps vD elsewhere; the fields that make it illegal. -/
def Obligations.SelSelectsOrKeeps : Prop :=
  (∀ (s : State) (e : Env) (g : BitVec 3) (d a : BitVec 7) (p : BitVec 4) (x : BitVec 1), s.env = some e →
    LaneWord (.sel g d a p x) g s e (fun _ l => if l.pred p.toNat ≠ decide (x = 1) then l.putWord (e.v d) (l.word (e.v a)) else l)) ∧
  (∀ (w : Word) (i : Instr), w.extractLsb' 25 7 = 0x27 →
    (decodeWf w = .ok i ↔ (w.extractLsb' 4 4).toNat < 12 ∧ w.extractLsb' 1 3 = 0 ∧
      i = .sel (w.extractLsb' 22 3) (w.extractLsb' 15 7) (w.extractLsb' 8 7) (w.extractLsb' 4 4) (w.extractLsb' 0 1)))

/-- 08, R158: PMASK, and the fields that make it illegal. In a deterministic launch a handler group may not issue it (17, R311);
that the record of that fault names lane 0 is the model's choice (log 36). -/
def Obligations.PmaskWritesTheMask : Prop :=
  (∀ (s : State) (e : Env) (g : BitVec 3) (d : BitVec 7) (p : BitVec 4) (x : BitVec 1), s.env = some e →
    (¬ (e.l.det = true ∧ e.g.isHandler = true) →
      ∃ v : Word, (∀ n, v.getLsbD n = ((e.act g).getLsbD n && ((e.g.lane n).pred p.toNat != decide (x = 1)))) ∧
        WordResult (.pmask g d p x) g d s e (fun _ _ => v)) ∧
    (e.l.det = true → e.g.isHandler = true → Faults (.pmask g d p x) s e .illegal)) ∧
  (∀ (e : Env) (g : BitVec 3) (n : Nat), e.iss.redo = false → (e.act g).getLsbD n = true → e.path.mask.getLsbD n = true) ∧
  (∀ (w : Word) (i : Instr), w.extractLsb' 25 7 = 0x33 →
    (decodeWf w = .ok i ↔ w.extractLsb' 8 7 = 0 ∧ (w.extractLsb' 4 4).toNat < 12 ∧ w.extractLsb' 1 3 = 0 ∧
      i = .pmask (w.extractLsb' 22 3) (w.extractLsb' 15 7) (w.extractLsb' 4 4) (w.extractLsb' 0 1)))

/-! ### Cross-lane words and special registers (08, R153–R162) -/

/-- 08, R153, R155–R157, Table 8-5: LPERM, QXCH, QBCAST, POLL and PICK read their sources before any lane writes, an exited or nonexistent lane
gives 0, and only active lanes are written. The first hypothesis leaves no source that R154 or 17, R311 forbid to the words that move values. In a
handler group of a deterministic launch the cross-lane words, and SMOV of `%gflags`, are illegal instructions (17, R311); the lane that the record
names then is the model's choice (log 36). -/
def Obligations.CrossLaneWords : Prop :=
  ∀ (s : State) (e : Env) (g : BitVec 3) (d a b : BitVec 7) (p c q : BitVec 4) (z : BitVec 2), s.env = some e →
    ((e.l.det = false ∨ (e.g.isHandler = false ∧ (e.g.jr = none ∨ ∀ n, e.g.live.getLsbD n = true → e.path.mask.getLsbD n = true))) →
    LaneWord (.lperm g p c a b) g s e (fun n l =>
      let sel : Int := if c.getLsbD 2 then b.toNat else (l.word (e.v b)).toNat
      let raw : Int := match c.toNat % 4 with | 0 => sel | 1 => n - sel | 2 => n + sel | _ => (Nat.xor n sel.toNat : Nat)
      let j : Int := if c.getLsbD 3 then raw % 32 else raw
      let k := l.putWord (e.v a) (if 0 ≤ j ∧ j ≤ 31 then e.source (e.v a) j.toNat else 0)
      if p = 15 then k else k.putPred p.toNat (decide (0 ≤ j ∧ j ≤ 31))) ∧
    WordResult (.qxchH g d a) g d s e (fun n _ => e.source (e.v a) (Nat.xor n 1)) ∧
    WordResult (.qxchV g d a) g d s e (fun n _ => e.source (e.v a) (Nat.xor n 2)) ∧
    WordResult (.qxchD g d a) g d s e (fun n _ => e.source (e.v a) (Nat.xor n 3)) ∧
    WordResult (.qbcast g d a z) g d s e (fun n _ => e.source (e.v a) (4 * (n / 4) + z.toNat))) ∧
    (¬ (e.l.det = true ∧ e.g.isHandler = true) →
    (∃ v : Bool, (v = true ↔ ∀ n, (e.act g).getLsbD n = true → (e.g.lane n).pred q.toNat = true) ∧
      PredResult (.pollAnd g p q) g p s e (fun _ _ => v)) ∧
    (∃ v : Bool, (v = true ↔ ∃ n, (e.act g).getLsbD n = true ∧ (e.g.lane n).pred q.toNat = true) ∧
      PredResult (.pollOr g p q) g p s e (fun _ _ => v)) ∧
    (∃ v : Bool, (v = true ↔ ∀ n m, (e.act g).getLsbD n = true → (e.act g).getLsbD m = true →
        (e.g.lane n).pred q.toNat = (e.g.lane m).pred q.toNat) ∧
      PredResult (.pollSame g p q) g p s e (fun _ _ => v)) ∧
    (∃ v : Nat → Bool, (∀ n, v n = true ↔ (e.act g).getLsbD n = true ∧
        ((e.g.isHelper n = false ∧ ∀ m, m < n → (e.act g).getLsbD m = true → e.g.isHelper m = true) ∨
         ((∀ m, (e.act g).getLsbD m = true → e.g.isHelper m = true) ∧ ∀ m, m < n → (e.act g).getLsbD m = false))) ∧
      PredResult (.pick g p) g p s e (fun n _ => v n))) ∧
    (e.l.det = true → e.g.isHandler = true →
      ∀ i ∈ [Instr.lperm g p c a b, .qxchH g d a, .qxchV g d a, .qxchD g d a, .qbcast g d a z, .pollAnd g p q, .pollOr g p q, .pollSame g p q, .pick g p,
        .xred g d a b, .smov g d 0x19], Faults i s e .illegal) ∧
    (∀ off n, e.source off n = if e.g.lanesOn.getLsbD n && !e.g.exited.getLsbD n then (e.g.lane n).word off else 0)

/-- 08, R159: XRED writes one value in every active lane: the sum modulo 2^32, the bitwise AND, OR and XOR, the least or the greatest value of vA over
the active lanes, helper lanes included, and which words are XREDs. With no active lane nothing is written (08, R153). (In a handler group of a
deterministic launch XRED is illegal: CrossLaneWords.) -/
def Obligations.XredReducesTheActiveLanes : Prop :=
  (∀ (s : State) (e : Env) (g : BitVec 3) (d a m : BitVec 7), s.env = some e → ¬ (e.l.det = true ∧ e.g.isHandler = true) → m.toNat ≤ 7 →
    ∃ v : Word, WordResult (.xred g d a m) g d s e (fun _ _ => v) ∧
      (e.act g ≠ 0 →
        let ws := (lanesOf (e.act g)).map (fun n => (e.g.lane n).word (e.v a))
        (m = 0 → v.toNat = (ws.map (fun w => w.toNat)).sum % 2 ^ 32) ∧
        (m = 1 → ∀ i, i < 32 → v.getLsbD i = ws.all (fun w => w.getLsbD i)) ∧
        (m = 2 → ∀ i, i < 32 → v.getLsbD i = ws.any (fun w => w.getLsbD i)) ∧
        (m = 3 → ∀ i, i < 32 → v.getLsbD i = decide ((ws.countP (fun w => w.getLsbD i)) % 2 = 1)) ∧
        (m = 4 → v ∈ ws ∧ ∀ w ∈ ws, v.toNat ≤ w.toNat) ∧ (m = 5 → v ∈ ws ∧ ∀ w ∈ ws, v.toInt ≤ w.toInt) ∧
        (m = 6 → v ∈ ws ∧ ∀ w ∈ ws, w.toNat ≤ v.toNat) ∧ (m = 7 → v ∈ ws ∧ ∀ w ∈ ws, w.toInt ≤ v.toInt))) ∧
  (∀ (w : Word) (i : Instr), w.extractLsb' 25 7 = 0x34 →
    (decodeWf w = .ok i ↔ (w.extractLsb' 1 7).toNat < 8 ∧ w.extractLsb' 0 1 = 0 ∧
      i = .xred (w.extractLsb' 22 3) (w.extractLsb' 15 7) (w.extractLsb' 8 7) (w.extractLsb' 1 7)))

/-- 08, R154, R155, R156: the unordered-conflict trap of LPERM, QXCH, QBCAST and SMOV of `%gflags` in a deterministic launch, where it is not raised, and
the value that is written then, with a frame open as well: that of the source lane, whose index LPERM computes (`CrossLaneWords` says what `source` reads), with
0 and a false predicate where it lies outside the group. (SMOV of `%gflags` without a frame: SpecialRegisters.)
That the record names lane 0 is the model's choice (log 36). -/
def Obligations.DeterministicCrossLaneConflict : Prop :=
  ∀ (s : State) (e : Env) (g : BitVec 3) (d a b : BitVec 7) (p c : BitVec 4) (z : BitVec 2), s.env = some e → e.l.det = true →
    e.g.isHandler = false →
    (∀ x ∈ ([(.lperm g p c a b, fun n => lpermIndex c n (e.lpermSel c b n), fun n l =>
          let j := lpermIndex c n (e.lpermSel c b n)
          let k := l.putWord (e.v a) (match j with | some m => e.source (e.v a) m | none => 0)
          if p = 15 then k else k.putPred p.toNat j.isSome),
        (.qxchH g d a, fun n => some (Nat.xor n 1), fun n l => l.putWord (e.v d) (e.source (e.v a) (Nat.xor n 1))),
        (.qxchV g d a, fun n => some (Nat.xor n 2), fun n l => l.putWord (e.v d) (e.source (e.v a) (Nat.xor n 2))),
        (.qxchD g d a, fun n => some (Nat.xor n 3), fun n l => l.putWord (e.v d) (e.source (e.v a) (Nat.xor n 3))),
        (.qbcast g d a z, fun n => some (4 * (n / 4) + z.toNat), fun n l => l.putWord (e.v d) (e.source (e.v a) (4 * (n / 4) + z.toNat)))] :
        List (Instr × (Nat → Option Nat) × (Nat → Lane → Lane))),
      let conflict := e.g.jr.isSome = true ∧ ∃ n j, (e.act g).getLsbD n = true ∧ x.2.1 n = some j ∧ e.path.mask.getLsbD j = false ∧
        e.g.lanesOn.getLsbD j = true ∧ e.g.exited.getLsbD j = false
      (conflict → Faults x.1 s e (.word 0x08 0)) ∧ (¬ conflict → LaneWord x.1 g s e x.2.2)) ∧
    (∀ n, e.lpermSel c b n = if c.getLsbD 2 then b.toNat else ((e.g.lane n).word (e.v b)).toNat) ∧
    (∀ n m, let sel : Int := e.lpermSel c b n
      let raw : Int := match c.toNat % 4 with | 0 => sel | 1 => n - sel | 2 => n + sel | _ => (Nat.xor n sel.toNat : Nat)
      let j : Int := if c.getLsbD 3 then raw % 32 else raw
      lpermIndex c n (e.lpermSel c b n) = some m ↔ j = m ∧ m ≤ 31) ∧
    (e.g.jr.isSome = true → Faults (.smov g d 0x19) s e (.word 0x08 0)) ∧
    (e.g.jr = none → ∃ f, LaneWord (.smov g d 0x19) g s e f)

/-- 02, R25, Table 2-6; 08, R160: SMOV in a group that is no handler group; the two 64-bit registers go to a pair. In a deterministic launch `%core`,
`%die` and `%dtime` are illegal instructions (17, R311; 07, R129). -/
def Obligations.SpecialRegisters : Prop :=
  ∀ (s : State) (e : Env) (g : BitVec 3) (d : BitVec 7), s.env = some e → e.g.origins = none →
    WordResult (.smov g d 0x00) g d s e (fun n _ => BitVec.ofNat 32 n) ∧
    WordResult (.smov g d 0x01) g d s e (fun n _ => BitVec.ofNat 32 (n / 4)) ∧
    WordResult (.smov g d 0x02) g d s e (fun _ _ => BitVec.ofNat 32 e.g.grp) ∧
    WordResult (.smov g d 0x03) g d s e (fun _ _ => BitVec.ofNat 32 (e.g.clu * e.l.wgs + e.g.wgc)) ∧
    WordResult (.smov g d 0x04) g d s e (fun _ _ => BitVec.ofNat 32 e.g.wgc) ∧
    WordResult (.smov g d 0x05) g d s e (fun _ _ => BitVec.ofNat 32 e.g.clu) ∧
    WordResult (.smov g d 0x06) g d s e (fun _ _ => BitVec.ofNat 32 e.l.no) ∧
    WordResult (.smov g d 0x07) g d s e (fun n _ => if e.g.isHelper n then 1 else 0) ∧
    WordResult (.smov g d 0x08) g d s e (fun _ _ => BitVec.ofNat 32 e.l.lanes) ∧
    WordResult (.smov g d 0x09) g d s e (fun _ _ => BitVec.ofNat 32 e.l.groups) ∧
    WordResult (.smov g d 0x0A) g d s e (fun _ _ => BitVec.ofNat 32 e.l.wgs) ∧
    WordResult (.smov g d 0x0B) g d s e (fun _ _ => BitVec.ofNat 32 (e.l.wgs * (e.l.gx * e.l.gy))) ∧
    WordResult (.smov g d 0x0C) g d s e (fun _ _ => BitVec.ofNat 32 (e.l.gx * e.l.gy)) ∧
    WordResult (.smov g d 0x18) g d s e (fun _ l => l.fflags.zeroExtend 32) ∧
    (e.l.det = false ∨ e.g.jr = none → ∃ v : Word,
      (∀ i, i < 32 → (v.getLsbD i = true ↔ ∃ n, e.g.live.getLsbD n = true ∧ (e.g.lane n).fflags.getLsbD i = true)) ∧
      WordResult (.smov g d 0x19) g d s e (fun _ _ => v)) ∧
    WordResult (.smov g d 0x1A) g d s e (fun _ _ => e.g.frnd.zeroExtend 32) ∧
    WordResult (.smov g d 0x1B) g d s e (fun _ _ => e.g.ftrap.zeroExtend 32) ∧
    WordResult (.smov g d 0x1C) g d s e (fun _ _ => BitVec.ofNat 32 e.k.vwv) ∧
    WordResult (.smov g d 0x1D) g d s e (fun _ _ => BitVec.ofNat 32 e.k.vwt) ∧
    WordResult (.smov g d 0x1E) g d s e (fun _ _ => BitVec.ofNat 32 e.k.vwa) ∧
    PairResult (.smov g d 0x13) g d s e (fun _ _ => 0) ∧
    (e.l.det = false →
      WordResult (.smov g d 0x10) g d s e (fun _ _ => BitVec.ofNat 32 e.g.core) ∧
      WordResult (.smov g d 0x11) g d s e (fun _ _ => BitVec.ofNat 32 (e.g.core / 32)) ∧
      PairResult (.smov g d 0x12) g d s e (fun _ _ => BitVec.ofNat 64 s.time)) ∧
    (e.l.det = true → ∀ m ∈ ([0x10, 0x11, 0x12] : List (BitVec 7)), Faults (.smov g d m) s e .illegal)

/-- 02, R27; 08, R161, R162; 06, R80; 17, R309: SSET in privileged code. `%fflags` is set lane by lane but in helper lanes; `%frnd` and `%ftrap` take
a value that is the same in every active lane, a mode of 5 to 7 is an illegal instruction, and with no active lane nothing is written. -/
def Obligations.SsetWords : Prop :=
  ∀ (s : State) (e : Env) (g : BitVec 3) (a : BitVec 7), s.env = some e → e.privileged = true →
    LaneWord (.ssetFflags g a) g s e (fun n l => if e.g.isHelper n then l else { l with fflags := (l.word (e.v a)).truncate 7 }) ∧
    (∀ w : Word, (∀ n, (e.act g).getLsbD n = true → (e.g.lane n).word (e.v a) = w) → e.act g ≠ 0 →
      (w.toNat % 8 ≤ 4 → ∃ t grp, exec (.ssetFrnd g a) s = .next t ∧ OnlyGroup s t e.g.gid ∧ t.group? e.g.gid = some grp ∧
        grp = { e.g with frnd := w.truncate 3 }.goto e.iss.slotB (e.iss.pc + 4)) ∧
      (5 ≤ w.toNat % 8 → Faults (.ssetFrnd g a) s e .illegal) ∧
      (e.g.isHandler = false → ∃ t grp, exec (.ssetFtrap g a) s = .next t ∧ OnlyGroup s t e.g.gid ∧ t.group? e.g.gid = some grp ∧
        grp = { e.g with ftrap := w.truncate 6 }.goto e.iss.slotB (e.iss.pc + 4))) ∧
    (∀ n m, (e.act g).getLsbD n = true → (e.act g).getLsbD m = true → (e.g.lane n).word (e.v a) ≠ (e.g.lane m).word (e.v a) →
      Faults (.ssetFrnd g a) s e .operand ∧ (e.g.isHandler = false → Faults (.ssetFtrap g a) s e .operand)) ∧
    (e.g.isHandler = true → Faults (.ssetFtrap g a) s e .illegal) ∧
    (e.act g = 0 → exec (.ssetFrnd g a) s = .next (e.retire s) ∧ (e.g.isHandler = false → exec (.ssetFtrap g a) s = .next (e.retire s)))

/-- 08, R161: SSET, TLBINV and STOPR outside privileged code are protection faults: the halt line of the context is raised with cause 0x06, and no
lane, register or byte of memory changes. Privileged code is that of an image marked so. -/
def Obligations.PrivilegedWords : Prop :=
  ∀ (s : State) (e : Env) (g : BitVec 3) (d a : BitVec 7) (l : BitVec 4), s.env = some e →
    (let here := fun (im : Image) => ∃ x ∈ im.code, x.1 ≤ e.iss.pc.toNat ∧ e.iss.pc.toNat < x.1 + x.2
     (e.privileged = true → ∃ im ∈ e.c.images, im.privileged = true ∧ here im) ∧
     ((∃ im ∈ e.c.images, here im) → (∀ im ∈ e.c.images, here im → im.privileged = true) → e.privileged = true)) ∧
    (e.privileged = false → ∀ i, (i ∈ [Instr.ssetFflags g a, .ssetFrnd g a, .tlbinv g a, .tlbinvCtx g] ∨
        (i = .ssetFtrap g a ∧ e.g.isHandler = false) ∨ (i = .stopr g d a l ∧ e.l.det = false)) →
        Faults i s e (.word 0x06 0) ∧ ∃ t, exec i s = .next t ∧ t.mem = s.mem ∧
          ∀ n, (t.group? n).map (fun k => k.lanes) = (s.group? n).map (fun k => k.lanes))

/-! ### Floating point (13, R231–R242; 15, R272–R281) -/

/-- 13, R231–R233, R239: the value of every finite pattern of every format rounds to that pattern, in any mode, with saturation or stochastic rounding
or without, and with no flag. 13, R231, R239: rounding toward zero gives the largest pattern whose value does not exceed the number, and raises NX exactly where the two differ;
the number lies below the next pattern unless it overflows. 13, R233, R239: RNE, RTZ, RUP, RDN and RNA each round a number of either sign in their own
direction, and a number that overflows becomes the infinity or the largest finite pattern of its sign that the mode calls for. -/
def Obligations.RoundingIsExact : Prop :=
  (∀ f ∈ [fp64, fp32, fp16, bf16, e4m3, e5m2, e2m1], ∀ (k : Rounding) (x : Nat) (neg : Bool) (n d : Nat), x < 2 ^ f.width →
      f.value x = .num neg n d → f.round k neg n d = (x, 0)) ∧
  (∀ f ∈ [fp64, fp32, fp16, bf16, e4m3, e5m2, e2m1], ∀ (n d : Nat), 0 < n → 0 < d →
      let r := f.round (.plain .rtz) false n d
      r.1 ≤ f.maxBits ∧ (∃ a c, f.value r.1 = .num false a c ∧ a * d ≤ n * c ∧ (r.2.getLsbD 4 = false ↔ a * d = n * c)) ∧
      (r.1 < f.maxBits → ∃ a c, f.value (r.1 + 1) = .num false a c ∧ n * c < a * d)) ∧
  (∀ f ∈ [fp64, fp32, fp16, bf16, e4m3, e5m2, e2m1], ∀ (m : Mode) (neg : Bool) (n d : Nat), 0 < n → 0 < d →
      let r := f.round (.plain m) neg n d
      RoundsFraction f m neg n d r ∧
      (r.2.getLsbD 2 = true → r.2 = flagOF ||| flagNX ∧ (∀ a c, f.value f.maxBits = .num false a c → a * d < n * c) ∧
        r.1 = if f.noNan = true ∨ m = .rtz ∨ (m = .rup ∧ neg = true) ∨ (m = .rdn ∧ neg = false) then f.sign neg + f.maxBits else f.infBits neg))

/-- 15, R272, Table 15-1; 13, R233, R239: FADD, FSUB, FMUL and FFMA in FP32, in two FP16 halves (X = 1) and in FP64, each result rounded once in the
mode in effect. -/
def Obligations.FpArithmeticWords : Prop :=
  ∀ (s : State) (e : Env) (g : BitVec 3) (d a b : BitVec 7), s.env = some e →
    let w := fun (r : BitVec 7) (l : Lane) => (l.word (e.v r)).toNat
    let q := fun (r : BitVec 7) (l : Lane) => l.nat (e.v r) 8
    let add := fun (f : Fmt) (x y : Nat) => f.deliver e.rounding [f.value x, f.value y] (exactAdd e.rounding.mode (f.value x) (f.value y))
    let sub := fun (f : Fmt) (x y : Nat) => f.deliver e.rounding [f.value x, f.value y] (exactAdd e.rounding.mode (f.value x) (f.value y).negate)
    let mul := fun (f : Fmt) (x y : Nat) => f.deliver e.rounding [f.value x, f.value y] (exactMul (f.value x) (f.value y))
    let fma := fun (f : Fmt) (x y z : Nat) =>
      f.deliver e.rounding [f.value x, f.value y, f.value z] (exactFma e.rounding.mode (f.value x) (f.value y) (f.value z))
    let half := fun (op : Nat → Nat → Nat → FRes) (l : Lane) =>
      let lo := op (w a l % 2 ^ 16) (w b l % 2 ^ 16) (w d l % 2 ^ 16)
      let hi := op (w a l / 2 ^ 16) (w b l / 2 ^ 16) (w d l / 2 ^ 16)
      (⟨lo.bits + 2 ^ 16 * hi.bits, lo.flags ||| hi.flags, lo.sn || hi.sn⟩ : FRes)
    FpResult (.fadd g d a b 0) g d 4 s e (fun l => add fp32 (w a l) (w b l)) ∧
    FpResult (.fsub g d a b 0) g d 4 s e (fun l => sub fp32 (w a l) (w b l)) ∧
    FpResult (.fmul g d a b 0) g d 4 s e (fun l => mul fp32 (w a l) (w b l)) ∧
    FpResult (.ffma g d a b 0) g d 4 s e (fun l => fma fp32 (w a l) (w b l) (w d l)) ∧
    FpResult (.fadd g d a b 1) g d 4 s e (half (fun x y _ => add fp16 x y)) ∧
    FpResult (.fsub g d a b 1) g d 4 s e (half (fun x y _ => sub fp16 x y)) ∧
    FpResult (.fmul g d a b 1) g d 4 s e (half (fun x y _ => mul fp16 x y)) ∧
    FpResult (.ffma g d a b 1) g d 4 s e (half (fun x y z => fma fp16 x y z)) ∧
    FpResult (.faddF64 g d a b) g d 8 s e (fun l => add fp64 (q a l) (q b l)) ∧
    FpResult (.fsubF64 g d a b) g d 8 s e (fun l => sub fp64 (q a l) (q b l)) ∧
    FpResult (.fmulF64 g d a b) g d 8 s e (fun l => mul fp64 (q a l) (q b l)) ∧
    FpResult (.ffmaF64 g d a b) g d 8 s e (fun l => fma fp64 (q a l) (q b l) (q d l))

/-- 15, R273; 13, R232, R233: FMIN and FMAX with a NaN give the quieted NaN, FMINNUM and FMAXNUM the other operand; two numbers give the lesser or the
greater as it stands, −0 below +0, and only a signalling NaN raises a flag, NV. 08, R139, Table 8-2; 15, R274, R276, Table 15-1; 13, R233: FCMP, FCLASS, FRND, FSCALE and VRSQE. FCMP writes a predicate: a NaN makes two values
unordered, and NV is raised for a signalling NaN and for the four relations of order. FRND gives the integral value of its mode, FSCALE the operand times
2^B rounded once, VRSQE 1/√(x′ + ε) rounded once to the nearest, and FCLASS the class of the pattern.
Where the manual leaves a corner open, the reading is the model's own (log 26). -/
def Obligations.FpMinMaxCompareAndClassWords : Prop :=
  (∀ (s : State) (e : Env) (g : BitVec 3) (d a b : BitVec 7), s.env = some e →
      let pick := fun (max num : Bool) (f : Fmt) (x y : Nat) =>
        let p := f.value x
        let q := f.value y
        let sn := p.isSnan || q.isSnan
        if p.isNan && q.isNan || (!num && (p.isNan || q.isNan)) then f.deliver (.plain .rne) [p, q] .invalid
        else if p.isNan then (⟨y, if sn then flagNV else 0, sn⟩ : FRes)
        else if q.isNan then ⟨x, if sn then flagNV else 0, sn⟩
        else
          let first := match p.cmp q with
            | .lt => true
            | .eq => p.isNeg || !q.isNeg
            | _ => false
          ⟨if first = max then y else x, 0, false⟩
      let w := fun (r : BitVec 7) (l : Lane) => (l.word (e.v r)).toNat
      let q := fun (r : BitVec 7) (l : Lane) => l.nat (e.v r) 8
      FpResult (.fminF32 g d a b) g d 4 s e (fun l => pick false false fp32 (w a l) (w b l)) ∧
      FpResult (.fmaxF32 g d a b) g d 4 s e (fun l => pick true false fp32 (w a l) (w b l)) ∧
      FpResult (.fminnumF32 g d a b) g d 4 s e (fun l => pick false true fp32 (w a l) (w b l)) ∧
      FpResult (.fmaxnumF32 g d a b) g d 4 s e (fun l => pick true true fp32 (w a l) (w b l)) ∧
      FpResult (.fminF64 g d a b) g d 8 s e (fun l => pick false false fp64 (q a l) (q b l)) ∧
      FpResult (.fmaxF64 g d a b) g d 8 s e (fun l => pick true false fp64 (q a l) (q b l)) ∧
      FpResult (.fminnumF64 g d a b) g d 8 s e (fun l => pick false true fp64 (q a l) (q b l)) ∧
      FpResult (.fmaxnumF64 g d a b) g d 8 s e (fun l => pick true true fp64 (q a l) (q b l))) ∧
  (∀ (s : State) (e : Env) (g : BitVec 3) (p c : BitVec 4) (d a b : BitVec 7) (x : BitVec 1), s.env = some e →
      (∀ y ∈ ([(.fcmpF32 g p c a b, fp32), (.fcmpF64 g p c a b, fp64), (.fcmpF16 g p c a b, fp16)] : List (Instr × Fmt)), c.toNat ≤ 7 →
        let lhs := fun (l : Lane) => y.2.value (l.nat (e.v a) (y.2.width / 8))
        let rhs := fun (l : Lane) => y.2.value (l.nat (e.v b) (y.2.width / 8))
        let un := fun (l : Lane) => (lhs l).isNan || (rhs l).isNan
        let sn := fun (l : Lane) => (lhs l).isSnan || (rhs l).isSnan
        let flags := fun (l : Lane) => if sn l || (un l && decide (2 ≤ c.toNat ∧ c.toNat ≤ 5)) then flagNV else 0
        let rel := fun (l : Lane) => (lhs l).cmp (rhs l)
        let holds := fun (l : Lane) => match c.toNat with
          | 0 => rel l == .eq
          | 1 => rel l != .eq
          | 2 => rel l == .lt
          | 3 => rel l == .lt || rel l == .eq
          | 4 => rel l == .gt
          | 5 => rel l == .gt || rel l == .eq
          | 6 => !un l
          | _ => un l
        NoTrap g e (fun n => ⟨0, flags (e.g.lane n), sn (e.g.lane n)⟩) →
          LaneWord y.1 g s e (fun n l => fpEffect e n (fun k => k.putPred p.toNat (holds l)) (flags l) l)) ∧
      FpResult (.fclassF32 g d a) g d 4 s e (fun l =>
        ⟨2 ^ fclassBit fp32 (l.nat (e.v a) 4), 0, (fp32.value (l.nat (e.v a) 4)).isSnan⟩) ∧
      FpResult (.fclassF64 g d a) g d 4 s e (fun l =>
        ⟨2 ^ fclassBit fp64 (l.nat (e.v a) 8), 0, (fp64.value (l.nat (e.v a) 8)).isSnan⟩) ∧
      FpResult (.frndF32 g d a) g d 4 s e (fun l => frndOp fp32 e.rounding.mode (l.word (e.v a)).toNat) ∧
      FpResult (.frndF64 g d a) g d 8 s e (fun l => frndOp fp64 e.rounding.mode (l.nat (e.v a) 8)) ∧
      (x = 0 → FpResult (.fscale g d a b x) g d 4 s e (fun l => scaleOp fp32 e (l.word (e.v a)).toNat (l.word (e.v b)))) ∧
      (x = 1 → FpResult (.fscale g d a b x) g d 8 s e (fun l => scaleOp fp64 e (l.nat (e.v a) 8) (l.word (e.v b)))) ∧
      FpResult (.vrsqe g d a b) g d 4 s e (fun l => vrsqeOp (l.word (e.v a)).toNat (l.word (e.v b)).toNat)) ∧
  (∀ f ∈ [fp32, fp64], ∀ x, x < 2 ^ f.width →
      (let neg := decide (2 ^ (f.width - 1) ≤ x)
       let ex := x / 2 ^ f.p % 2 ^ f.ebits
       let fr := x % 2 ^ f.p
       fclassBit f x = if ex = f.emax then (if fr = 0 then (if neg then 0 else 7) else if 2 ^ (f.p - 1) ≤ fr then 9 else 8)
         else if ex = 0 then (if fr = 0 then (if neg then 3 else 4) else if neg then 2 else 5) else if neg then 1 else 6) ∧
      (∀ m, f.quiets [f.value x] (frndOp f m x) ∧ (∀ neg, f.value x = .inf neg → frndOp f m x = ⟨x, 0, false⟩) ∧
        (∀ neg n d, f.value x = .num neg n d → ∃ q b c, f.value (frndOp f m x).bits = .num neg b c ∧ 0 < c ∧ b = q * c ∧ RoundsInt m neg n d q ∧
          (frndOp f m x).flags = if q * d = n then 0 else flagNX)) ∧
      (∀ (e : Env) (b : Word), f.quiets [f.value x] (scaleOp f e x b) ∧ (∀ neg, f.value x = .inf neg → scaleOp f e x b = ⟨x, 0, false⟩) ∧
        (∀ neg n d, f.value x = .num neg n d →
          let r := f.round e.rounding neg (n * 2 ^ b.toInt.toNat) (d * 2 ^ (-b.toInt).toNat)
          scaleOp f e x b = ⟨r.1, r.2, false⟩))) ∧
  (∀ x ep : Nat, x < 2 ^ 32 → ep < 2 ^ 32 →
      let u := fp32.value x
      let v := fp32.value ep
      let y := vrsqeOp x ep
      let clamp : BitVec 7 := if u.isFinite ∧ u.isNeg ∧ ¬ u.isZero then flagCLAMP else 0
      let x' : FVal := if u.isNeg || u.isZero then .num false 0 1 else u
      fp32.quiets [u, v] y ∧ (u = .inf true → v.isNan = false → y = ⟨fp32.defaultNan, flagNV, false⟩) ∧
      (u = .inf false → v.isNan = false → y = ⟨0, 0, false⟩) ∧
      (u.isFinite = true → v = .inf false → y = ⟨0, clamp, false⟩) ∧
      (u.isFinite = true → v = .inf true → y = ⟨fp32.defaultNan, flagNV ||| clamp, false⟩) ∧
      (u.isFinite = true → ∀ neg n d, exactAdd .rne x' v = .num neg n d →
        (n = 0 → y = ⟨fp32.infBits false, flagDZ ||| clamp, false⟩) ∧ (n ≠ 0 → neg = true → y = ⟨fp32.defaultNan, flagNV ||| clamp, false⟩) ∧
        (n ≠ 0 → neg = false → y.flags &&& flagCLAMP = clamp ∧ y.flags &&& ~~~ (flagNX ||| flagCLAMP) = 0 ∧
          Rounds fp32 .rne false (fun p q => p * p * n ≤ d * q * q) (fun p q => d * q * q ≤ p * p * n) (y.bits, y.flags))))

/-- 15, R275, Table 15-2; 03, R37: the long-latency words FDIV, FSQRT, FRCP, FEXP2, FLOG2, FSIN and FCOS issue with their results to come, and when
FP_LONG_OP_COMPLETE comes about the result registers are written, the flags raised and the request is over. FDIV divides vD by vA. Quotients, square
roots and reciprocals are rounded once from their exact values; FEXP2, FLOG2, FSIN and FCOS round once a value that lies within 2^-200 of theirs, relatively
for FEXP2, and is theirs where 2^x or log2 x is exact; special operands give what Table 15-2 says.
Where the manual leaves a corner open, the reading is the model's own (log 62). -/
def Obligations.FpLongWords : Prop :=
  (∀ (s : State) (e : Env) (g : BitVec 3) (d a : BitVec 7) (la : BitVec 4), s.env = some e →
    let k := e.rounding
    ∀ x ∈ ([(.fdivF32 g d a la, 4, fun l => divOp fp32 k (l.nat (e.v d) 4) (l.nat (e.v a) 4)),
        (.fdivF64 g d a la, 8, fun l => divOp fp64 k (l.nat (e.v d) 8) (l.nat (e.v a) 8)),
        (.fsqrtF32 g d a la, 4, fun l => sqrtOp fp32 k (l.nat (e.v a) 4)), (.fsqrtF64 g d a la, 8, fun l => sqrtOp fp64 k (l.nat (e.v a) 8)),
        (.frcpF32 g d a la, 4, fun l => rcpOp fp32 k (l.nat (e.v a) 4)), (.frcpF64 g d a la, 8, fun l => rcpOp fp64 k (l.nat (e.v a) 8)),
        (.fexp2F32 g d a la, 4, fun l => exp2Op k (l.nat (e.v a) 4)), (.flog2F32 g d a la, 4, fun l => log2Op k (l.nat (e.v a) 4)),
        (.fsinF32 g d a la, 4, fun l => circOp false k (l.nat (e.v a) 4)), (.fcosF32 g d a la, 4, fun l => circOp true k (l.nat (e.v a) 4))] :
        List (Instr × Nat × (Lane → FRes))),
      NoTrap g e (fun n => x.2.2 (e.g.lane n)) → ∃ job, FpRequest g d x.2.1 e x.2.2 job ∧ LongWord x.1 s e la job) ∧
  (∀ (s : State) (r : Request) (ws : List LaneWrite) (fs : List (Nat × BitVec 7)) (grp : Group), s.live? r.id = some r → r.job = .fpLong ws fs →
    s.group? r.gid = some grp → ∃ t k, exec (.fpLongOpComplete r.id) s = .next t ∧
      t = { s with groups := t.groups, requests := s.requests.filter (fun q => q.id != r.id) } ∧
      t.group? r.gid = some k ∧ k.lanes = ((grp.writes ws).raiseFlags fs).lanes ∧ k.windows.all (fun w => w.id != r.id || w.complete) = true) ∧
  (∀ f ∈ [fp32, fp64], ∀ (m : Mode) (x y : Nat), x < 2 ^ f.width → y < 2 ^ f.width →
    let k := Rounding.plain m
    let q := divOp f k x y
    f.quiets [f.value y, f.value x] q ∧
    (∀ s t, f.value x = .inf s → f.value y = .inf t → q = ⟨f.defaultNan, flagNV, false⟩) ∧
    (∀ s t n d, f.value x = .inf s → f.value y = .num t n d → q = ⟨f.infBits (s != t), 0, false⟩) ∧
    (∀ s t n d, f.value x = .num s n d → f.value y = .inf t → q = ⟨f.sign (s != t), 0, false⟩) ∧
    (∀ s t n d n' d', f.value x = .num s n d → f.value y = .num t n' d' →
      (n' = 0 → n = 0 → q = ⟨f.defaultNan, flagNV, false⟩) ∧ (n' = 0 → n ≠ 0 → q = ⟨f.infBits (s != t), flagDZ, false⟩) ∧
      (n' ≠ 0 → n = 0 → q = ⟨f.sign (s != t), 0, false⟩) ∧ (n' ≠ 0 → n ≠ 0 → RoundsFraction f m (s != t) (n * d') (d * n') (q.bits, q.flags))) ∧
    (let z := sqrtOp f k x
     f.quiets [f.value x] z ∧ (f.value x = .inf false → z = ⟨x, 0, false⟩) ∧ (f.value x = .inf true → z = ⟨f.defaultNan, flagNV, false⟩) ∧
     (∀ s n d, f.value x = .num s n d → (n = 0 → z = ⟨x, 0, false⟩) ∧ (n ≠ 0 → s = true → z = ⟨f.defaultNan, flagNV, false⟩) ∧
       (n ≠ 0 → s = false → z.flags &&& ~~~ flagNX = 0 ∧
         Rounds f m false (fun p q => p * p * d ≤ n * q * q) (fun p q => n * q * q ≤ p * p * d) (z.bits, z.flags)))) ∧
    (let z := rcpOp f k x
     f.quiets [f.value x] z ∧ (∀ s, f.value x = .inf s → z = ⟨f.sign s, 0, false⟩) ∧
     (∀ s n d, f.value x = .num s n d → (n = 0 → z = ⟨f.infBits s, flagDZ, false⟩) ∧ (n ≠ 0 → RoundsFraction f m s d n (z.bits, z.flags))))) ∧
  (∀ (k : Rounding) (x : Nat), x < 2 ^ 32 →
    let near := fun (z : FRes) (bound v : ℝ) => ∃ neg p q, 0 < q ∧ z = ⟨(fp32.round k neg p q).1, (fp32.round k neg p q).2, false⟩ ∧
      |(if neg then -((p : ℝ) / q) else (p : ℝ) / q) - v| ≤ bound
    let num := fun (neg : Bool) (n d : Nat) => if neg then -((n : ℝ) / d) else (n : ℝ) / d
    (∀ z ∈ [exp2Op k x, log2Op k x, circOp false k x, circOp true k x], fp32.quiets [fp32.value x] z) ∧
    (∀ neg, fp32.value x = .inf neg → exp2Op k x = ⟨if neg then 0 else x, 0, false⟩ ∧
      log2Op k x = (if neg then ⟨fp32.defaultNan, flagNV, false⟩ else ⟨x, 0, false⟩) ∧
      circOp false k x = ⟨fp32.defaultNan, flagNV, false⟩ ∧ circOp true k x = ⟨fp32.defaultNan, flagNV, false⟩) ∧
    (∀ neg n d, fp32.value x = .num neg n d →
      (n ≤ 200 * d → near (exp2Op k x) ((2 : ℝ) ^ (num neg n d) * (2 : ℝ) ^ (-200 : ℝ)) ((2 : ℝ) ^ (num neg n d))) ∧
      (200 * d < n → ∃ p q, 0 < p ∧ 0 < q ∧ exp2Op k x = ⟨(fp32.round k false p q).1, (fp32.round k false p q).2, false⟩ ∧
        if neg then p * 2 ^ 199 ≤ q else q * 2 ^ 199 ≤ p) ∧
      (∀ i, i ≤ 200 → n = i * d → near (exp2Op k x) 0 ((2 : ℝ) ^ (num neg i 1))) ∧
      (n = 0 → log2Op k x = ⟨fp32.infBits true, flagDZ, false⟩ ∧ circOp false k x = ⟨x, 0, false⟩ ∧ near (circOp true k x) 0 1) ∧
      (n ≠ 0 → neg = true → log2Op k x = ⟨fp32.defaultNan, flagNV, false⟩) ∧
      (n ≠ 0 → neg = false → near (log2Op k x) ((2 : ℝ) ^ (-200 : ℝ)) (Real.logb 2 ((n : ℝ) / d))) ∧
      (∀ i, neg = false → (n = 2 ^ i * d ∨ n * 2 ^ i = d) → near (log2Op k x) 0 (num (decide (n < d)) i 1)) ∧
      (n ≠ 0 → near (circOp false k x) ((2 : ℝ) ^ (-200 : ℝ)) (Real.sin (num neg n d)) ∧ near (circOp true k x) ((2 : ℝ) ^ (-200 : ℝ)) (Real.cos (num neg n d)))))

/-- 15, R277–R281; 13, R234–R240, R244, R248: FCVT between scalars, FJOIN and both FSPLITs in lanes that do not trap. A conversion rounds once into its
format, and one to INT32 rounds to an integer and takes the nearest end of the range outside it. A block form takes the least band scale and the least
block scale under which every element fits, rounds each element once to the nearest, and marks a block with an infinity or a NaN; the reverse form
multiplies each element by its scales and rounds once.
Where the manual leaves a corner open, the reading is the model's own (logs 26, 27). -/
def Obligations.FpConversionWords : Prop :=
  (∀ (s : State) (e : Env) (g : BitVec 3) (d a : BitVec 7) (f t : BitVec 3) (n : BitVec 1) (k : BitVec 4), s.env = some e →
    let lanes := fun (r : Nat → FpLane) (i : Instr) =>
      (∀ m, (r m).lane = m) ∧ ((∀ m, (e.eff g).getLsbD m = true → e.g.isHelper m = false → trapCause e.g.ftrap (r m).sn (r m).flags = none) →
        LaneWord i g s e (fun m l => fpEffect e m (r m).put (r m).flags l))
    lanes (e.cvtScalar d a f.toNat t.toNat n) (.fcvt g d a f t n 0) ∧
    (∀ m l, (e.cvtScalar d a f.toNat t.toNat n m).put l = l.putNat (e.v d) (if t = 0 then 8 else 4)
      (cvtElem f.toNat t.toNat n (e.satRounding m) ((e.g.lane m).nat (e.v a) (if f = 0 then 8 else 4))).bits) ∧
    (let band := bandScale (cvtFmt t.toNat) ((lanesOf (e.act g)).flatMap (fun i => (e.g.lane i).block (e.v a)))
     f = 1 → 4 ≤ t.toNat →
      ((∀ x, e.iss.delivered = some x → x = ⟨[(band : Int)]⟩) → lanes (e.cvtBlock d a t.toNat band) (.fcvt g d a f t n 1)) ∧
      (∀ x, e.iss.delivered = some x → x ≠ ⟨[(band : Int)]⟩ → Faults (.fcvt g d a f t n 1) s e .operand)) ∧
    (4 ≤ f.toNat → lanes (e.cvtUnblock d a f.toNat) (.fcvt g d a f t n 1)) ∧
    (f.toNat < 4 → (f = 1 → t.toNat < 4) → lanes (e.cvtPacked d a f.toNat t.toNat) (.fcvt g d a f t n 1)) ∧
    (∀ q, e.joinSlot a = some q → lanes (fun m =>
      let x := exaRound fp64 (.plain (Mode.ofBits (e.hints.hrnd.getD 0))) ((e.g.lane m).rowExp.getD q.1 exaEmpty) (slotInt ((e.g.lane m).bytes (e.v a) 16))
      ⟨m, fun l => l.putNat (e.v d) 8 x.1, x.2, false⟩) (.fjoin g d a)) ∧
    (e.joinSlot a = none → Faults (.fjoin g d a) s e .operand) ∧
    (let x := rowExponent ((lanesOf (e.act g)).map (fun i => fp64.value ((e.g.lane i).nat (e.v a) 8)))
     (∀ y, e.iss.delivered = some y → y.scales ≠ [x] → Faults (.fsplitRow g d a k) s e .operand) ∧
     ((∀ y, e.iss.delivered = some y → y.scales = [x]) → lanes (fun m =>
      let v := fp64.value ((e.g.lane m).nat (e.v a) 8)
      ⟨m, fun l => l.put (e.v d) ((splitValue v x (k.toNat + 1)).1 ++ leBytes 4 (ofSigned 32 x)), (splitValue v x (k.toNat + 1)).2, v.isSnan⟩)
      (.fsplitRow g d a k))) ∧
    lanes (fun m =>
      let v := fp64.value ((e.g.lane m).nat (e.v a) 8)
      let x := ((e.g.lane m).word (e.v d + 16)).toInt
      ⟨m, fun l => l.put (e.v d) (splitValue v x (k.toNat + 1)).1, (splitValue v x (k.toNat + 1)).2, v.isSnan⟩) (.fsplitCol g d a k)) ∧
  (∀ (src dst x : Nat) (n : BitVec 1) (m : Mode), src ≤ 5 → dst ≤ 5 →
    let k := Rounding.plain m
    let v := (cvtFmt src).value (x % 2 ^ (cvtFmt src).width)
    let f := cvtFmt dst
    let r := cvtElem src dst n k x
    let i := cvtElem src 7 n k x
    let j := cvtElem 7 dst n k x
    let lo : Int := if n = 1 then -2147483648 else 0
    let hi : Int := if n = 1 then 2147483647 else 4294967295
    let w : Int := if n = 1 then toSigned 32 x else (x % 2 ^ 32 : Nat)
    f.quiets [v] r ∧ (∀ s, v = .inf s → r = ⟨f.infBits s, if f.noInf then flagNV else 0, false⟩) ∧
    (∀ s a c, v = .num s a c → (a = 0 → r = ⟨f.sign s, 0, false⟩) ∧ (a ≠ 0 → RoundsFraction f m s a c (r.bits, r.flags))) ∧
    (w = 0 → j = ⟨0, 0, false⟩) ∧ (w ≠ 0 → RoundsFraction f m (decide (w < 0)) w.natAbs 1 (j.bits, j.flags)) ∧
    (v.isNan = true → i = ⟨0, flagNV, v.isSnan⟩) ∧ (∀ s, v = .inf s → i = ⟨((if s then lo else hi) % 2 ^ 32).toNat, flagNV, false⟩) ∧
    (∀ s a c, v = .num s a c → ∃ q : Nat, RoundsInt m s a c q ∧
      let z : Int := if s then -(q : Int) else q
      i = if z < lo then ⟨(lo % 2 ^ 32).toNat, flagNV, false⟩ else if hi < z then ⟨(hi % 2 ^ 32).toNat, flagNV, false⟩
        else ⟨(z % 2 ^ 32).toNat, if q * c = a then 0 else flagNX, false⟩)) ∧
  (∀ f ∈ ([(e2m1, 6), (e4m3, 448), (e5m2, 57344)] : List (Fmt × Nat)), ∀ (xs ys : List Nat), (∀ x ∈ xs, x < 2 ^ 32 ∧ x ∈ ys) →
    let vs := xs.map fp32.value
    let band := bandScale f.1 (ys.map fp32.value)
    let sc := quantScale f.1 band vs
    let es := quantElems f.1 band sc (fun _ => none) vs
    ((∀ y ∈ ys, ∀ s a c, fp32.value y = .num s a c → a = 0) → band = 0x3F80) ∧
    ∃ bn bd : Nat, bf16.value band = .num false bn bd ∧ 0 < bn ∧ 0 < bd ∧ es.length = xs.length ∧
      (∀ y ∈ ys, ∀ s a c, fp32.value y = .num s a c → a * bd ≤ bn * c * (f.2 * 31)) ∧
      ((∃ y ∈ ys, ∃ s a c, fp32.value y = .num s a c ∧ a ≠ 0) → ∀ pn pd, bf16.value (band - 1) = .num false pn pd →
        ∃ y ∈ ys, ∃ s a c, fp32.value y = .num s a c ∧ pn * c * (f.2 * 31) < a * pd) ∧
      ((∃ x ∈ xs, (fp32.value x).isFinite = false) → sc = 0xFF ∧ ∀ r ∈ es, r = (0, flagNV)) ∧
      ((∀ x ∈ xs, (fp32.value x).isFinite = true) → ∃ p q, e3m5 sc = some (p, q) ∧ sc < 0xFF ∧
        (∀ x ∈ xs, ∀ s a c, fp32.value x = .num s a c → a * q * bd ≤ f.2 * p * bn * c) ∧
        (sc ≠ 0 → ∀ p' q', e3m5 (sc - 1) = some (p', q') → ∃ x ∈ xs, ∃ s a c, fp32.value x = .num s a c ∧ f.2 * p' * bn * c < a * q' * bd) ∧
        ∀ i s a c, i < xs.length → fp32.value (xs.getD i 0) = .num s a c →
          RoundsFraction f.1 .rne s (a * q * bd) (c * p * bn) (es.getD i (0, 0)) ∧ (es.getD i (0, 0)).2 &&& ~~~ flagNX = 0)) ∧
  (∀ n, n < 0xFF → e3m5 n = some (32 + n % 32, 2 ^ (8 - n / 32))) ∧
  (∀ (e : Env) (d a : BitVec 7) (t band m j : Nat) (l : Lane), 4 ≤ t → t ≤ 6 → j < 8 → band < 2 ^ 16 →
    let f := cvtFmt t
    let xs := (List.range 8).map (fun i => (e.g.lane m).nat (e.v a + 4 * i) 4)
    let sc := quantScale f band (xs.map fp32.value)
    let v := ((e.cvtBlock d a t band m).put l).nat (e.v d) (f.width + 4)
    bits v (8 * f.width) 8 = sc ∧ bits v (8 * f.width + 8) 8 = 0 ∧ bits v (8 * f.width + 16) 16 = band ∧
    bits v (f.width * j) f.width = ((quantElems f band sc (fun i => e.srAt (8 * m + i)) (xs.map fp32.value)).getD j (0, 0)).1) ∧
  (∀ (e : Env) (d a : BitVec 7) (t m j : Nat) (l : Lane), 4 ≤ t → t ≤ 6 → j < 8 →
    let f := cvtFmt t
    let v := (e.g.lane m).nat (e.v a) (f.width + 4)
    let r := ((e.cvtUnblock d a t m).put l).nat (e.v d + 4 * j) 4
    (bits v (8 * f.width) 8 = 0xFF → r = fp32.defaultNan ∧ (e.cvtUnblock d a t m).flags = flagNV) ∧
    (∀ p q s n c s' n' c', e3m5 (bits v (8 * f.width) 8) = some (p, q) → f.value (bits v (f.width * j) f.width) = .num s n c →
      bf16.value (bits v (8 * f.width + 16) 16) = .num s' n' c' → e.hints.hsat = none →
      r = (fp32.round e.rounding (s != s') (n * p * n') (c * q * c')).1))

/-- 13, R248: the slices of a finite magnitude n/d below 1, each of seven bits, are its leading digits to base 128, and what remains is less than one unit
of the last slice. -/
def Obligations.SlicesAreLeadingDigits : Prop :=
  ∀ (d s n : Nat), 0 < d → n < d →
    let r := sliceGo d s n
    r.1.length = s ∧ (∀ x ∈ r.1, x < 128) ∧
    (let v := r.1.foldl (fun a x => 128 * a + x) 0
     v * d ≤ n * 128 ^ s ∧ n * 128 ^ s < (v + 1) * d ∧ (r.2 = false ↔ v * d = n * 128 ^ s))

/-- 17, R307, R308; 13, R242: a floating-point word some of whose lanes trap completes in the others; each lane that traps writes nothing and raises no flag,
the slot waits at the word, and the trapped lanes stand in the core's trap pool in ascending order with their causes, or without a handler raise the
halt line with cause 0x21. Shown for FADD in FP32. -/
def Obligations.FpLaneTraps : Prop :=
  ∀ (s : State) (e : Env) (g : BitVec 3) (d a b : BitVec 7), s.env = some e →
    let r := fun (l : Lane) => addOp fp32 e (l.word (e.v a)).toNat (l.word (e.v b)).toNat 0
    let traps := fun (n : Nat) => (e.eff g).getLsbD n = true ∧ e.g.isHelper n = false ∧
      trapCause e.g.ftrap (r (e.g.lane n)).sn (r (e.g.lane n)).flags ≠ none
    (∃ n, n < e.g.lanes.length ∧ traps n) → ∃ t grp w, exec (.fadd g d a b 0) s = .next t ∧ t.mem = s.mem ∧ t.requests = s.requests ∧
      t.group? e.g.gid = some grp ∧ (grp.slot e.iss.slotB).wait = some (.lanes w) ∧ (grp.slot e.iss.slotB).path = (e.g.slot e.iss.slotB).path ∧
      w.pc = e.iss.pc ∧ (∀ n, n < e.g.lanes.length → (w.lanes.getLsbD n = true ↔ traps n)) ∧
      (∀ n, n < e.g.lanes.length → traps n → grp.lane n = e.g.lane n) ∧
      (∀ n, n < e.g.lanes.length → (e.eff g).getLsbD n = true → ¬ traps n →
        grp.lane n = fpEffect e n (fun k => k.putNat (e.v d) 4 (r (e.g.lane n)).bits) (r (e.g.lane n)).flags (e.g.lane n)) ∧
      (e.k.handler ≠ 0 → ∃ ps, (t.core e.g.core).pool = (s.core e.g.core).pool ++ ps ∧ ps.map (fun p => p.origin.lane) = lanesOf w.lanes ∧
        ∀ p ∈ ps, p.origin.gid = e.g.gid ∧ p.origin.slotB = e.iss.slotB ∧
          some p.origin.cause = trapCause e.g.ftrap (r (e.g.lane p.origin.lane)).sn (r (e.g.lane p.origin.lane)).flags) ∧
      (e.k.handler = 0 → ∀ c, s.ctx? e.g.ctx = some c → c.run = .running → ∃ c' i, t.ctx? e.g.ctx = some c' ∧ c'.run = .raised ∧ c'.stop = some i ∧
        i.halt.cause = 0x21 ∧ i.halt.detail = w.lanes)

/-! ### Control flow (06, R81–R84; 08, R143–R152) -/

/-- 08, R143: BRA, CALL, CALLI and RET with a guard false in every lane of their path only issue; with one that differs between its lanes, helper lanes
counted, they are operand-format faults, and the path stands at the word, or at the first hint of its run, with its lanes as they were.
That the record of the fault names lane 0 is the model's choice (log 36). -/
def Obligations.UniformTransfers : Prop :=
  ∀ (s : State) (e : Env) (g : BitVec 3) (o : BitVec 22) (a : BitVec 7), s.env = some e →
    ∀ i ∈ [Instr.bra g o, .call g o, .calli g a, .ret g],
      (e.act g = 0 → exec i s = .next (e.retire s)) ∧
      (e.act g ≠ 0 → e.act g ≠ e.path.mask → Faults i s e .operand ∧
        ∃ t grp, exec i s = .next t ∧ t.group? e.g.gid = some grp ∧
          (grp.slot e.iss.slotB).path = (e.g.slot e.iss.slotB).path.map (fun p => { p with pc := e.hints.start.getD e.iss.pc }) ∧
          grp.lanes = e.g.lanes ∧ grp.jr = e.g.jr ∧ grp.stack = e.g.stack)

/-- 08, R144; 03, R31: BRA with its guard true moves its path to the target, the word's address plus four times the signed offset, opens no frame, and
arrives only where the target is the path's own join; its word, whose fields may hold anything. -/
def Obligations.BraMovesThePath : Prop :=
  (∀ (s : State) (e : Env) (g : BitVec 3) (o : BitVec 22) (p : Path), s.env = some e → e.act g ≠ 0 → e.act g = e.path.mask →
    (e.g.slot e.iss.slotB).path = some p → p.mask ≠ 0 →
    let target : DWord := e.iss.pc + 4 * o.signExtend 64
    ∃ t, exec (.bra g o) s = .next t ∧ OnlyGroup s t e.g.gid ∧ t.group? e.g.gid = some (e.g.goto e.iss.slotB target) ∧
      (p.join ≠ some target → ∃ grp, t.group? e.g.gid = some grp ∧ (grp.slot e.iss.slotB).path = some { p with pc := target } ∧
        grp.jr = e.g.jr ∧ grp.stack = e.g.stack ∧ grp.lanes = e.g.lanes ∧ grp.slot (!e.iss.slotB) = e.g.slot (!e.iss.slotB))) ∧
  (∀ w : Word, w.extractLsb' 25 7 = 0x28 → decodeWf w = .ok (.bra (w.extractLsb' 22 3) (w.extractLsb' 0 22)))

/-- 08, R149: RET with its guard true moves its path to the path's join, where it arrives; without a join it is an illegal instruction. -/
def Obligations.RetGoesToTheJoin : Prop :=
  ∀ (s : State) (e : Env) (g : BitVec 3), s.env = some e → e.act g ≠ 0 → e.act g = e.path.mask →
    (e.path.join = none → Faults (.ret g) s e .illegal) ∧
    (∀ j, e.path.join = some j → ∃ t, exec (.ret g) s = .next t ∧ OnlyGroup s t e.g.gid ∧ t.group? e.g.gid = some (e.g.goto e.iss.slotB j))

/-- 06, R83; 08, R145; 03, R31: BRD. With its guard true nowhere or everywhere it is a transfer of the whole path; otherwise it opens a frame with its join
and leaves the lanes that do not take it in the slot that issued and the others in the other slot, each tested for arrival; a 65th stack entry is the
overflow fault. A path is parked with what its slot holds for it; one that waits for its group's copies or joint matrix requests asks again later.
Where the manual leaves a corner open, the reading is the model's own (log 50). -/
def Obligations.BrdDiverges : Prop :=
  (∀ x : Slot, x.parked.path = x.path ∧ x.parked.hints = x.hints ∧ x.parked.redo = x.redo ∧
    ((∀ n, x.wait ≠ some (.batch n)) → x.wait ≠ some .mmaj → x.parked = x) ∧
    ((∃ n, x.wait = some (.batch n)) ∨ x.wait = some .mmaj → x.parked.wait = none ∧ x.parked.again = true)) ∧
  ∀ (s : State) (e : Env) (g : BitVec 3) (o j : BitVec 11), s.env = some e →
    let target : DWord := e.iss.pc + 4 * o.signExtend 64
    let join : DWord := e.iss.pc + 4 * j.signExtend 64
    let taken := e.act g
    let rest := e.path.mask &&& ~~~ taken
    (taken = 0 → exec (.brd g o j) s = .next (e.retire s)) ∧
    (taken ≠ 0 → rest = 0 → exec (.brd g o j) s = .next (e.retireTo target s)) ∧
    (taken ≠ 0 → rest ≠ 0 →
      let other := e.g.slot (!e.iss.slotB)
      let pushed := (if other.path.isSome then [Entry.path other.parked] else []) ++ (e.g.jr.map Entry.frame).toList
      (64 < e.g.stack.length + pushed.length → Faults (.brd g o j) s e (.word 0x04 0)) ∧
      (e.g.stack.length + pushed.length ≤ 64 → ∃ (grp : Group) (t : State), grp.stack = pushed ++ e.g.stack ∧ grp.jr = some ⟨join, 0, e.path.join, e.path.line⟩ ∧
        grp.lanes = e.g.lanes ∧ grp.exited = e.g.exited ∧ grp.gid = e.g.gid ∧
        (∀ p, (grp.slot e.iss.slotB).path = some p → p.pc = e.iss.pc + 4 ∧ p.mask = rest ∧ p.join = some join) ∧
        (∀ p, (grp.slot (!e.iss.slotB)).path = some p → p.pc = target ∧ p.mask = taken ∧ p.join = some join) ∧
        (grp.slot e.iss.slotB).path.isSome = true ∧ (grp.slot (!e.iss.slotB)).path.isSome = true ∧
        exec (.brd g o j) s = .next t ∧ OnlyGroup s t e.g.gid ∧
        t.group? e.g.gid = some ((grp.arriveTest e.iss.slotB).arriveTest (!e.iss.slotB))))

/-- 08, R147, R148, R150; 06, R83: CALL and CALLI enter a target that passes the checks of R147: the path goes on past its entry word with the return address as
its join, in a frame of its own unless its join is the return address already. CALLI serves the lowest target among its lanes, and the lanes of other
targets issue the word again from the other slot. A target outside the code of the kernel's image, or not aligned to 4, is a protection fault, a word there
that is no header with zero reserved bits an illegal instruction, and a header with a larger budget than the kernel's the call-budget fault, in this order.
A frame of its own has the return address for its join and the path's join for its outer join; JR and a path in the other slot go to the stack, whose 65th
entry is the overflow fault.
Where the manual leaves a corner open, the reading is the model's own (log 20). -/
def Obligations.CallsEnterTheirTarget : Prop :=
  (∀ (s : State) (e : Env) (target : DWord),
    let t := target.toNat
    let holds := fun (im : Image) (va : Nat) => im.code.any (fun r => decide (r.1 ≤ va) && decide (va < r.1 + r.2))
    (t % 4 ≠ 0 → e.checkCall s target = .error (.protection 0 t)) ∧
    ((∀ im, e.c.images.find? (fun im => holds im e.k.handle) = some im → holds im t = false) → e.checkCall s target = .error (.protection 0 t)) ∧
    (s.codeWord e.g.ctx e.g.core t = none → e.checkCall s target = .error (.protection 0 t)) ∧
    (∀ im w, e.c.images.find? (fun im => holds im e.k.handle) = some im → holds im t = true → t % 4 = 0 → s.codeWord e.g.ctx e.g.core t = some w →
      (w.extractLsb' 25 7 ≠ 0x78 ∨ w.extractLsb' 4 21 ≠ 0 → e.checkCall s target = .error .illegal) ∧
      (w.extractLsb' 25 7 = 0x78 → w.extractLsb' 4 21 = 0 →
        (e.k.regs < 64 * ((w.extractLsb' 0 4).toNat + 1) → e.checkCall s target = .error (.word 0x05 0)) ∧
        (64 * ((w.extractLsb' 0 4).toNat + 1) ≤ e.k.regs → e.checkCall s target = .ok ())))) ∧
  (∀ e : Env,
    let other := e.g.slot (!e.iss.slotB)
    let pushed := (if other.path.isSome then [Entry.path other.parked] else []) ++ (e.g.jr.map Entry.frame).toList
    (e.path.join = some (e.iss.pc + 4) → e.callFrame = .ok e.g) ∧
    (e.path.join ≠ some (e.iss.pc + 4) → 64 < e.g.stack.length + pushed.length → e.callFrame = .error (.word 0x04 0)) ∧
    (e.path.join ≠ some (e.iss.pc + 4) → e.g.stack.length + pushed.length ≤ 64 → e.callFrame = .ok { e.g.setSlot (!e.iss.slotB) Slot.free with
      stack := pushed ++ e.g.stack, jr := some ⟨e.iss.pc + 4, 0, e.path.join, e.path.line⟩, frames := e.g.frames + 1 })) ∧
  ∀ (s : State) (e : Env) (g : BitVec 3) (o : BitVec 22) (a : BitVec 7), s.env = some e → e.act g ≠ 0 → e.act g = e.path.mask →
    let ret := e.iss.pc + 4
    (∀ h, e.checkCall s (e.iss.pc + 4 * o.signExtend 64) = .error h → Faults (.call g o) s e h) ∧
    (∀ h, e.callFrame = .error h → Faults (.calli g a) s e h ∧
      (e.checkCall s (e.iss.pc + 4 * o.signExtend 64) = .ok () → Faults (.call g o) s e h)) ∧
    ∀ frame : Group, e.callFrame = .ok frame →
    (e.checkCall s (e.iss.pc + 4 * o.signExtend 64) = .ok () → ∃ t, exec (.call g o) s = .next t ∧ OnlyGroup s t e.g.gid ∧
      t.group? e.g.gid = some ((frame.setSlot e.iss.slotB
        (Slot.ofPath ⟨e.iss.pc + 4 * o.signExtend 64 + 4, e.path.mask, some ret, e.path.line⟩)).arriveTest e.iss.slotB)) ∧
    (∀ (tau : DWord) (here : BitVec 32), here ≠ 0 →
      (∀ n, here.getLsbD n = true ↔ e.path.mask.getLsbD n = true ∧ (e.g.lane n).dword (e.v a) = tau) →
      (∀ n, e.path.mask.getLsbD n = true → tau.toNat ≤ ((e.g.lane n).dword (e.v a)).toNat) →
      (∀ h, e.checkCall s tau = .error h → Faults (.calli g a) s e h) ∧
      (e.checkCall s tau = .ok () → ∃ t grp, exec (.calli g a) s = .next t ∧ OnlyGroup s t e.g.gid ∧ t.group? e.g.gid = some grp ∧
        (let q := Slot.ofPath ⟨tau + 4, here, some ret, e.path.line⟩
         let rest := e.path.mask &&& ~~~ here
         (rest = 0 → grp = (frame.setSlot e.iss.slotB q).arriveTest e.iss.slotB) ∧
         (rest ≠ 0 → grp = ((frame.setSlot e.iss.slotB q).setSlot (!e.iss.slotB)
          (Slot.ofPath ⟨e.iss.pc, rest, some ret, e.path.line⟩)).arriveTest e.iss.slotB))))

/-- 08, R152: NOP, whatever its guard, completes in every state in which it issues, and changes no state but that its slot goes on; its word, and the
words at OP 0x2C that are illegal. -/
def Obligations.NopDoesNothing : Prop :=
  (∀ (s : State) (e : Env) (g : BitVec 3), s.env = some e →
    (∃ t, exec (.nop g) s = .next t ∧ OnlyGroup s t e.g.gid ∧ t.group? e.g.gid = some (e.g.goto e.iss.slotB (e.iss.pc + 4)) ∧
      (e.g.goto e.iss.slotB (e.iss.pc + 4)).lanes = e.g.lanes) ∧ LaneWord (.nop g) g s e (fun _ l => l)) ∧
  decodeWf 0x58000000 = .ok (.nop 0) ∧
  (∀ w : Word, w.extractLsb' 25 7 = 0x2C → (3 ≤ (w.extractLsb' 1 7).toNat ∨ w.extractLsb' 15 7 ≠ 0 ∨ w.extractLsb' 8 7 ≠ 0 ∨ w.extractLsb' 0 1 ≠ 0) →
    ∀ i, decodeWf w ≠ .ok i) ∧
  (∀ w : Word, w.extractLsb' 25 7 = 0x2C → w.extractLsb' 0 22 = 0 → decodeWf w = .ok (.nop (w.extractLsb' 22 3)))

/-- 06, R81; 08, R151: EXIT and KILL end the lanes they name: those have exited, no lane's registers, predicates or flags and no byte of memory change
while a lane of the group that is no helper lane goes on, and the path goes on with its other lanes, or arrives without any. 06, R81; 08, R151: when the last lane of a group that is no helper lane exits, the group has ended and is gone; with the last group of a workgroup
the workgroup has ended, where no workgroup has a live stash window.
Where the manual leaves a corner open, the reading is the model's own (log 21). -/
def Obligations.ExitEndsLanesAndGroups : Prop :=
  (∀ (s : State) (e : Env) (g : BitVec 3) (p : BitVec 4) (x : BitVec 1) (i : Instr) (m : BitVec 32), s.env = some e → e.g.origins = none →
      ((i = .exit g ∧ m = e.act g) ∨
        (i = .kill g p x ∧ ∀ n, m.getLsbD n = true ↔ (e.act g).getLsbD n = true ∧ (e.g.lane n).pred p.toNat ≠ decide (x = 1))) →
      (∃ n, e.g.lanesOn.getLsbD n = true ∧ e.g.exited.getLsbD n = false ∧ e.g.helpers.getLsbD n = false ∧ m.getLsbD n = false) →
      ∃ t grp, exec i s = .next t ∧ OnlyGroup s t e.g.gid ∧ t.group? e.g.gid = some grp ∧ grp.exited = e.g.exited ||| m ∧ grp.lanes = e.g.lanes ∧
        grp = (e.g.exitLanes e.iss.slotB m).goto e.iss.slotB (e.iss.pc + 4) ∧
        (∀ q, (e.g.slot e.iss.slotB).path = some q → q.mask &&& ~~~ m ≠ 0 → q.join ≠ some (e.iss.pc + 4) →
          (grp.slot e.iss.slotB).path = some { q with pc := e.iss.pc + 4, mask := q.mask &&& ~~~ m })) ∧
  (∀ (s : State) (e : Env) (g : BitVec 3) (w : Workgroup), s.env = some e → e.g.origins = none → s.bars = [] → s.wgOf e.g = some w → (∀ v ∈ s.workgroups, v.stashes = []) →
      (∀ n, e.g.lanesOn.getLsbD n = true → e.g.exited.getLsbD n = false → e.g.helpers.getLsbD n = false → (e.act g).getLsbD n = true) →
      ∃ t, exec (.exit g) s = .next t ∧ t.group? e.g.gid = none ∧ (∀ k, k ≠ e.g.gid → t.group? k = s.group? k) ∧ t.mem = s.mem ∧
        (s.groups.all (fun x => x.gid == e.g.gid || x.isHandler || x.ctx != e.g.ctx || x.launch != e.g.launch || x.clu != e.g.clu || x.wgc != e.g.wgc) = true →
          ∃ v, t.wg? w.wid = some v ∧ v.ended = true))

/-- 06, R84: a path that reaches its own join, or that has lost its last lane, arrives: its lanes join the frame. While the other slot holds a path, that
one is waited for; else the frame's lanes form the path that goes on from the join with the outer join, a path on top of the stack is popped into the
other slot, and the frame that is then on top is open again. So in the outermost frame nothing is popped and no frame is left. -/
def Obligations.PathsMergeAtTheJoin : Prop :=
  ∀ (g : Group) (b : Bool) (p : Path) (f : Frame), (g.slot b).path = some p → p.mask = 0 ∨ p.join = some p.pc →
    g.jr = some f → f.outer ≠ some f.join → f.arrived ||| p.mask ≠ 0 →
    let k := g.arriveTest b
    (∀ q, (g.slot (!b)).path = some q →
      k.jr = some { f with arrived := f.arrived ||| p.mask } ∧ (k.slot b).path = none ∧ k.slot (!b) = g.slot (!b) ∧ k.stack = g.stack ∧ k.lanes = g.lanes) ∧
    ((g.slot (!b)).path = none →
      k.slot b = Slot.ofPath ⟨f.join, f.arrived ||| p.mask, f.outer, f.line⟩ ∧ k.lanes = g.lanes ∧
      (g.stack = [] → (k.slot (!b)).path = none ∧ k.jr = none ∧ k.stack = []) ∧
      (∀ o r, g.stack = .frame o :: r → (k.slot (!b)).path = none ∧ k.jr = some o ∧ k.stack = r) ∧
      (∀ x, g.stack = [.path x] → k.slot (!b) = x ∧ k.jr = none ∧ k.stack = []) ∧
      (∀ x o r, g.stack = .path x :: .frame o :: r → k.slot (!b) = x ∧ k.jr = some o ∧ k.stack = r))

/-! ### Loads, stores and atomics (11, R195–R203; 10, R170, R174, R181) -/

/-- 11, R195, R197; 10, R170, R174: LD.g in its five widths, without a modifier or as an acquire. Where every active lane finds a resident page of this
device, the lookahead window opens, and the request carries each lane's bytes of memory, b8 and b16 zero-extended; no byte of memory, no register, no
predicate and no flag changes. LD.g.strong waits for its release first (07, R117). A page that is not resident gives the lane zeros and sets its NR
(02, R28; 10, R184, Table 10-6). In a deterministic launch an acquiring or strong load is illegal (07, R129).
Where the manual leaves a corner open, the reading is the model's own (logs 15, 48). -/
def Obligations.GlobalLoads : Prop :=
  ∀ (s : State) (e : Env) (g : BitVec 3) (t a : BitVec 7) (la : BitVec 4) (sc o : BitVec 2) (pa : Nat → Nat), s.env = some e →
    ∀ x ∈ ([(.ldGB8 g t a la sc o, 1), (.ldGB16 g t a la sc o, 2), (.ldGB32 g t a la sc o, 4), (.ldGB64 g t a la sc o, 8),
        (.ldGB128 g t a la sc o, 16)] : List (Instr × Nat)),
      (e.l.det = true → o ≠ 0 → Faults x.1 s e .illegal) ∧
      (e.l.det = false → o = 0 → e.absent s (e.act g) (e.v a) x.2 .read →
        ∃ t', exec x.1 s = .next t' ∧ e.marksNr s t' (e.act g) (e.windowed s la)
          { s with requests := s.requests ++ [e.request s (.load ((lanesOf (e.act g)).map (fun n =>
            ⟨n, e.v t, loaded x.2 (List.replicate x.2 0)⟩)) [] [] none)] }) ∧
      (e.l.det = false → s.mem.wf = true → e.noCaches s → (∀ w ∈ s.workgroups, w.stashes = []) → e.finds s (e.act g) (e.v a) x.2 .read pa →
      (o = 0 ∨ o = 1 →
        ∃ t' src grp, exec x.1 s = .next t' ∧
          t' = { s with groups := t'.groups, requests := s.requests ++ [e.request s (.load ((lanesOf (e.act g)).map (fun n =>
              ⟨n, e.v t, loaded x.2 (s.mem.read (pa n) x.2)⟩)) [] src none)], fresh := s.fresh + 1, issue := none,
                             cores := t'.cores, clusters := t'.clusters, dies := t'.dies, l2 := t'.l2, hot := t'.hot, notices := t'.notices } ∧
          (∀ k, k ≠ e.g.gid → t'.group? k = s.group? k) ∧ t'.group? e.g.gid = some grp ∧
          grp = ({ e.g with windows := e.g.windows ++ [e.window s la.toNat] }.goto e.iss.slotB (e.iss.pc + 4)).withLanes grp.lanes ∧
          ∀ n, n < e.g.lanes.length → ∃ p, grp.lane n = (e.g.lane n).withPage p) ∧
      (o = 2 → e.act g ≠ 0 → ∃ t' reads grp, exec x.1 s = .next t' ∧
          t'.requests = s.requests ++ [e.request s (.release (e.scope sc) (.load e.policy [] reads (e.v t) x.2))] ∧
          (∀ n, (e.act g).getLsbD n = true → ∃ r ∈ reads, r.lane = n ∧ r.pa = pa n ∧ r.bytes.length = x.2) ∧
          t'.mem = s.mem ∧ t'.group? e.g.gid = some grp ∧ (grp.slot e.iss.slotB).wait = some (.request s.fresh) ∧
          ∀ n, n < e.g.lanes.length → ∃ p, grp.lane n = (e.g.lane n).withPage p))

/-- 11, R198–R200; 10, R175: LD.l, LDC and LDT with b16, b32, b64 and b128. LD.l outside the stash windows reads the Local Store that its address names;
LDC the constant segment, zeros past its end, and the argument block; LDT the bytes at a held page where the tile path holds nothing, and zeros, with NR
set, at a page that is not resident (02, R28; 10, Table 10-6). -/
def Obligations.LocalAndCachedLoads : Prop :=
  ∀ (s : State) (e : Env) (g : BitVec 3) (t a : BitVec 7) (la : BitVec 4) (w : BitVec 2) (l : Leaf), s.env = some e → e.l.det = false →
    let width := widthBytes w
    let ea := fun n => e.ea (e.v a) (e.g.lane n)
    let loads := fun (i : Instr) (read : Nat → List (BitVec 8)) => ∃ t' grp, exec i s = .next t' ∧
      t' = { s with groups := t'.groups, requests := s.requests ++ [e.request s (.load ((lanesOf (e.act g)).map (fun n =>
          ⟨n, e.v t, loaded width (read n)⟩)) [] [] none)], fresh := s.fresh + 1, issue := none,
                     cores := t'.cores, dies := t'.dies, l2 := t'.l2, hot := t'.hot, notices := t'.notices } ∧
      (∀ k, k ≠ e.g.gid → t'.group? k = s.group? k) ∧ t'.group? e.g.gid = some grp ∧
      grp = ((e.windowed s la).goto e.iss.slotB (e.iss.pc + 4)).withLanes grp.lanes ∧
      ∀ n, n < e.g.lanes.length → ∃ p, grp.lane n = (e.g.lane n).withPage p
    (∀ (tw : Nat → Workgroup) (off : Nat → Nat), e.g.isHandler = false →
      (∀ n, (e.act g).getLsbD n = true → e.lsTarget s ((ea n >>> 32).truncate 32) ((ea n).truncate 32) width = some (tw n, off n) ∧
        s.wg? (tw n).wid = some (tw n) ∧ (tw n).stashAt (off n) = none ∧ (tw n).lsPoison = []) →
      loads (.ldL g t a la w) (fun n => (tw n).ls.read (off n) width)) ∧
    (s.mem.wf = true → s.poison = [] → e.holdsPage s l → (s.core e.g.core).constants = [] →
      (∀ n, (e.act g).getLsbD n = true → (ea n).toNat < 0x11000 ∧ (ea n).toNat % width = 0 ∧ ∀ j, j < width →
        ((ea n).toNat < 0x10000 → (ea n).toNat + j < e.k.clen → e.k.constBase ≠ 0 → l.serves e.g.ctx (e.k.constBase + (ea n).toNat + j)) ∧
        (0x10000 ≤ (ea n).toNat → e.l.argPtr ≠ 0 → e.l.argPtr < 2 ^ 56 ∧ l.serves e.g.ctx (e.l.argPtr + ((ea n).toNat - 0x10000) + j))) →
      loads (.ldc g t a la w) (fun n => (List.range width).map (fun j =>
        let o := (ea n).toNat
        if o < 0x10000 then (if o + j < e.k.clen ∧ e.k.constBase ≠ 0 then s.mem.get (l.pa (e.k.constBase + o + j)) else 0)
        else if e.l.argPtr = 0 then 0 else s.mem.get (l.pa (e.l.argPtr + (o - 0x10000) + j))))) ∧
    (s.mem.wf = true → s.poison = [] → e.holdsPage s l → (s.core e.g.core).tiles = [] → (s.core e.g.core).tileBuf = [] →
      (∀ n, (e.act g).getLsbD n = true → (ea n).toNat % width = 0 ∧ ∀ j, j < width → l.serves e.g.ctx ((ea n).toNat + j)) →
      loads (.ldt g t a la w) (fun n => (List.range width).map (fun j => s.mem.get (l.pa ((ea n).toNat + j))))) ∧
    ((∀ n, (e.act g).getLsbD n = true → (ea n).toNat < 2 ^ 56 ∧ (ea n).toNat % width = 0 ∧ ∀ j, j < width →
        ∃ x, s.checkAccess e n (BitVec.ofNat 64 ((ea n).toNat + j)) 1 .read = some x ∧ x.res = false) →
      ∃ t', exec (.ldt g t a la w) s = .next t' ∧ e.marksNr s t' (e.act g) (e.windowed s la)
        { s with requests := s.requests ++ [e.request s (.load ((lanesOf (e.act g)).map (fun n =>
          ⟨n, e.v t, loaded width (List.replicate width 0)⟩)) [] [] none)] })

/-- 11, R195, R197; 10, R170, R174: ST.g in its five widths, in lanes that name different places. The D path of the core reads the bytes stored, at the
physical addresses of the lanes' effective addresses, and every other byte as before; memory takes them at once under policy 2 only, and no register,
predicate or flag changes, where the L1 has room. A releasing store waits for its release first (07, R117). At a page that is not resident nothing is
stored and NR is set (02, R28; 10, Table 10-6). In a deterministic launch a releasing or strong store is illegal (07, R129).
Where the manual leaves a corner open, the reading is the model's own (log 48). -/
def Obligations.GlobalStores : Prop :=
  ∀ (s : State) (e : Env) (g : BitVec 3) (t a : BitVec 7) (sc o : BitVec 2) (pa : Nat → Nat), s.env = some e →
    ∀ x ∈ ([(.stGB8 g t a sc o, 1), (.stGB16 g t a sc o, 2), (.stGB32 g t a sc o, 4), (.stGB64 g t a sc o, 8), (.stGB128 g t a sc o, 16)] :
        List (Instr × Nat)),
      (e.l.det = true → o ≠ 0 → Faults x.1 s e .illegal) ∧
      (e.l.det = false → o = 0 → e.absent s (e.storing g) (e.v a) x.2 .write →
        ∃ t', exec x.1 s = .next t' ∧ e.marksNr s t' (e.storing g) e.g s) ∧
      (e.l.det = false → e.finds s (e.storing g) (e.v a) x.2 .write pa →
      (∀ n, (e.storing g).getLsbD n = true → pa n % x.2 = 0) →
      (∀ n m, (e.storing g).getLsbD n = true → (e.storing g).getLsbD m = true → n ≠ m → pa n ≠ pa m) →
      let stored := fun (read : Nat → Option (BitVec 8)) (before : Nat → Option (BitVec 8)) =>
        (∀ n j, (e.storing g).getLsbD n = true → j < x.2 → read (pa n + j) = some (((e.g.lane n).bytes (e.v t + j) 1).headD 0)) ∧
        (∀ b, (∀ n, (e.storing g).getLsbD n = true → b < pa n ∨ pa n + x.2 ≤ b) → read b = before b)
      (o = 0 → e.policy = 2 ∨ (s.core e.g.core).l1.length + 32 ≤ 2048 → ∃ t' grp, exec x.1 s = .next t' ∧ stored (t'.byteD e.g.core) (s.byteD e.g.core) ∧
        (e.policy ≠ 2 → t' = { s with groups := t'.groups, cores := t'.cores, dies := t'.dies, fresh := t'.fresh, issue := none }) ∧
        (e.policy = 2 → stored (fun b => some (t'.mem.get b)) (fun b => some (s.mem.get b))) ∧
        t'.requests = s.requests ∧ t'.workgroups = s.workgroups ∧
        (∀ k, k ≠ e.g.gid → t'.group? k = s.group? k) ∧ t'.group? e.g.gid = some grp ∧
        grp = (e.g.goto e.iss.slotB (e.iss.pc + 4)).withLanes grp.lanes ∧ ∀ n, n < e.g.lanes.length → ∃ p, grp.lane n = (e.g.lane n).withPage p) ∧
      (o ≠ 0 → e.act g ≠ 0 → ∃ t' ws grp, exec x.1 s = .next t' ∧
        t'.requests = s.requests ++ [e.request s (.release (e.scope sc) (.store (o == 2) e.policy ws))] ∧
        (∀ n, (e.storing g).getLsbD n = true → ∃ r ∈ ws, r.lane = n ∧ r.pa = pa n ∧ r.bytes = (e.g.lane n).bytes (e.v t) x.2) ∧
        t'.mem = s.mem ∧ t'.group? e.g.gid = some grp ∧ (grp.slot e.iss.slotB).wait = some (.request s.fresh)))

/-- 11, R198, R200, R203; 10, R175: ST.l, LSADD and ST.t in lanes that name different places. ST.l writes and LSADD adds in the Local Store that the
address word names, and no other byte of a Local Store and no byte of memory changes; ST.t leaves its bytes in the core's tile write buffer, where it has
room, or, at a page that is not resident, only sets NR (02, R28; 10, Table 10-6). LSADD.f32 adds in FP32 to the nearest (11, R202, R203), and is illegal in
a deterministic launch (07, R129). -/
def Obligations.LocalStores : Prop :=
  (∀ x v : Word, AddsFp32 x v (fadd32Rne x v)) ∧
  ∀ (s : State) (e : Env) (g : BitVec 3) (t a : BitVec 7) (w : BitVec 2), s.env = some e →
    (e.l.det = true → Faults (.lsaddF32 g t a) s e .illegal) ∧
    (e.l.det = false →
    let width := widthBytes w
    let m := e.storing g
    (∀ (tw : Nat → Workgroup) (off : Nat → Nat), e.g.isHandler = false →
      let targets := fun (at_ : Nat → DWord) (size : Nat) => (∀ n, m.getLsbD n = true →
          e.lsTarget s ((at_ n >>> 32).truncate 32) ((at_ n).truncate 32) size = some (tw n, off n) ∧
          s.wg? (tw n).wid = some (tw n) ∧ (tw n).stashAt (off n) = none) ∧
        (∀ n k, m.getLsbD n = true → m.getLsbD k = true → n ≠ k → (tw n).wid ≠ (tw k).wid ∨ off n ≠ off k)
      let stores := fun (i : Instr) (bs : Nat → List (BitVec 8)) => ∃ t', exec i s = .next t' ∧
        t' = { s with groups := t'.groups, workgroups := t'.workgroups, fresh := t'.fresh, issue := none } ∧
        (∀ k, k ≠ e.g.gid → t'.group? k = s.group? k) ∧ t'.group? e.g.gid = some (e.g.goto e.iss.slotB (e.iss.pc + 4)) ∧
        ∀ id v, s.wg? id = some v → ∃ v', t'.wg? id = some v' ∧ v' = { v with ls := v'.ls, lsPoison := v'.lsPoison, late := v'.late } ∧
          (∀ n, m.getLsbD n = true → (tw n).wid = id → v'.ls.read (off n) (bs n).length = bs n) ∧
          (∀ b, (∀ n, m.getLsbD n = true → (tw n).wid = id → b < off n ∨ off n + (bs n).length ≤ b) → v'.ls.get b = v.ls.get b)
      (targets (fun n => e.ea (e.v a) (e.g.lane n)) width → stores (.stL g t a w) (fun n => (e.g.lane n).bytes (e.v t) width)) ∧
      (targets (fun n => (e.g.lane n).dword (e.v a)) 4 →
        stores (.lsaddI32 g t a) (fun n => leBytes 4 (leWord ((tw n).ls.read (off n) 4) + (e.g.lane n).word (e.v t)).toNat) ∧
        stores (.lsaddF32 g t a) (fun n => leBytes 4 (fadd32Rne (leWord ((tw n).ls.read (off n) 4)) ((e.g.lane n).word (e.v t))).toNat))) ∧
    (e.absent s m (e.v a) width .write → ∃ t', exec (.stT g t a w) s = .next t' ∧ e.marksNr s t' m e.g s) ∧
    (∀ pa : Nat → Nat, e.finds s m (e.v a) width .write pa → (s.core e.g.core).tileBuf.length + 32 ≤ 128 → (∀ n, m.getLsbD n = true → pa n % width = 0) →
      (∀ n k, m.getLsbD n = true → m.getLsbD k = true → n ≠ k → pa n ≠ pa k) →
      ∃ t' grp, exec (.stT g t a w) s = .next t' ∧
        t' = { s with groups := t'.groups, cores := t'.cores, dies := t'.dies, fresh := t'.fresh, issue := none } ∧
        (∀ n j, m.getLsbD n = true → j < width →
          ((t'.core e.g.core).buffered (pa n + j)).map (fun x => x.1) = some (((e.g.lane n).bytes (e.v t + j) 1).headD 0)) ∧
        (∀ b, (∀ n, m.getLsbD n = true → b < pa n ∨ pa n + width ≤ b) →
          ((t'.core e.g.core).buffered b).map (fun x => x.1) = ((s.core e.g.core).buffered b).map (fun x => x.1)) ∧
        (∀ k, k ≠ e.g.gid → t'.group? k = s.group? k) ∧ t'.group? e.g.gid = some grp ∧
        grp = (e.g.goto e.iss.slotB (e.iss.pc + 4)).withLanes grp.lanes ∧ ∀ n, n < e.g.lanes.length → ∃ p, grp.lane n = (e.g.lane n).withPage p))

/-- 11, R201, R202, Table 11-2; 07, R121: ATOM and RED at every scope, in lanes that name different words of this device's memory, where the caches
of the core hold nothing. The core reads each location's new value, and every other byte as before; memory takes it at once at device and system scope,
and under policy 2, and no other byte of memory changes. An ATOM's request carries the old value to its lane, and 0 to a helper lane; no register
changes. `.ar` and `.strong` wait for their release first. At a page that is not resident nothing is done, an ATOM gives 0, and NR is set (02, R28; 10,
Table 10-6). `.fadd.f32` adds in FP32 to the nearest, and a NaN result is 0x7FC00000. In a deterministic launch every ATOM is illegal, and a RED with
`.fadd.f32`, `.ar` or `.strong` (07, R129).
Where the manual leaves a corner open, the reading is the model's own (logs 6, 48). -/
def Obligations.AtomicWords : Prop :=
  (∀ (x v w : Word),
    atomNew .add x v w = x + v ∧ atomNew .and x v w = x &&& v ∧ atomNew .or x v w = x ||| v ∧ atomNew .xor x v w = x ^^^ v ∧
    (atomNew .minN x v w).toNat = min x.toNat v.toNat ∧ (atomNew .minS x v w).toInt = min x.toInt v.toInt ∧
    (atomNew .maxN x v w).toNat = max x.toNat v.toNat ∧ (atomNew .maxS x v w).toInt = max x.toInt v.toInt ∧
    atomNew .exch x v w = v ∧ atomNew .cas x v w = (if x = v then w else x) ∧
    (atomNew .inc x v w).toNat = (if v.toNat ≤ x.toNat then 0 else x.toNat + 1) ∧ atomNew .faddF32 x v w = fadd32Rne x v ∧
    AddsFp32 x v (fadd32Rne x v)) ∧
  ∀ (s : State) (e : Env) (g : BitVec 3) (t a : BitVec 6) (la : BitVec 4) (sc o : BitVec 2) (pa : Nat → Nat), s.env = some e →
    let off := e.k.vwv + 8 * a.toNat
    let m := e.storing g
    let swap := fun n => (e.g.lane n).word (e.v t + 4)
    let data := fun n => (e.g.lane n).word (e.v t)
    let old := fun n => leWord (s.mem.read (pa n) 4)
    let outside := fun b => ∀ n, m.getLsbD n = true → b < pa n ∨ pa n + 4 ≤ b
    let apart := (∀ n, m.getLsbD n = true → pa n % 4 = 0) ∧
      ∀ n k, m.getLsbD n = true → m.getLsbD k = true → n ≠ k → pa n ≠ pa k
    let performs := fun (op : AtomOp) (t' : State) =>
      t' = { s with mem := t'.mem, contexts := t'.contexts, cores := t'.cores, clusters := t'.clusters, dies := t'.dies, l2 := t'.l2, hot := t'.hot, notices := t'.notices,
                    groups := t'.groups, requests := t'.requests, fresh := t'.fresh, issue := none } ∧
      (∀ k, k ≠ e.g.gid → t'.group? k = s.group? k) ∧
      (∀ n, m.getLsbD n = true → (List.range 4).map (fun j => t'.byteD e.g.core (pa n + j)) =
        (leBytes 4 (atomNew op (old n) (data n) (swap n)).toNat).map some) ∧
      (∀ b, isRemote b = false → outside b → t'.byteD e.g.core b = s.byteD e.g.core b) ∧
      (∀ b, outside b → t'.mem.get b = s.mem.get b) ∧
      (sc = 3 ∨ e.policy = 2 → ∀ n, m.getLsbD n = true → t'.mem.read (pa n) 4 = leBytes 4 (atomNew op (old n) (data n) (swap n)).toNat) ∧
      (sc.toNat ≤ 1 → e.policy ≠ 2 → t'.mem = s.mem)
    (∀ x ∈ ([(.atomAdd g t a la sc o, .add), (.atomAnd g t a la sc o, .and), (.atomOr g t a la sc o, .or), (.atomXor g t a la sc o, .xor),
        (.atomMinN g t a la sc o, .minN), (.atomMinS g t a la sc o, .minS), (.atomMaxN g t a la sc o, .maxN), (.atomMaxS g t a la sc o, .maxS),
        (.atomExch g t a la sc o, .exch), (.atomCas g t a la sc o, .cas), (.atomInc g t a la sc o, .inc), (.atomFaddF32 g t a la sc o, .faddF32)] :
        List (Instr × AtomOp)),
      (e.l.det = true → Faults x.1 s e .illegal) ∧
      (e.l.det = false → o = 0 → e.absent s m off 4 .write →
        ∃ t', exec x.1 s = .next t' ∧ e.marksNr s t' m (e.windowed s.tick la)
          { s.tick with requests := s.requests ++ [e.request s.tick (.atom ((lanesOf (e.act g)).map (fun n =>
            ⟨n, e.v t, leBytes 4 0⟩)) (e.v t) [] none)] }) ∧
      (e.l.det = false → e.noCaches s → e.finds s m off 4 .write pa → apart →
        (o = 0 → ∃ t' r ws grp, exec x.1 s = .next t' ∧ performs x.2 t' ∧ t'.requests = s.requests ++ [r] ∧ r.gid = e.g.gid ∧
          r.job = .atom ws (e.v t) [] none ∧
          (∀ n, m.getLsbD n = true → (⟨n, e.v t, leBytes 4 (old n).toNat⟩ : LaneWrite) ∈ ws) ∧
          (∀ n, (e.act g).getLsbD n = true → e.g.isHelper n = true → (⟨n, e.v t, leBytes 4 0⟩ : LaneWrite) ∈ ws) ∧
          ws.length = popcount (e.act g) ∧ t'.group? e.g.gid = some grp ∧
          (∃ w, grp = ({ e.g with windows := e.g.windows ++ [w] }.goto e.iss.slotB (e.iss.pc + 4)).withLanes grp.lanes ∧ w.id = r.id) ∧
          ∀ n, n < e.g.lanes.length → ∃ p, grp.lane n = (e.g.lane n).withPage p) ∧
        (o ≠ 0 → e.act g ≠ 0 → ∃ t' acts zeros, exec x.1 s = .next t' ∧ t'.mem = s.mem ∧
          t'.requests = s.requests ++ [e.request s (.release (e.scope sc) (.atom (some (e.v t)) acts zeros))] ∧
          ∀ n, m.getLsbD n = true → ∃ r ∈ acts, r.lane = n ∧ r.pa = pa n ∧ r.op = x.2 ∧ r.v = data n ∧ r.swap = swap n))) ∧
    (∀ x ∈ ([(.redAdd g t a sc o, .add), (.redAnd g t a sc o, .and), (.redOr g t a sc o, .or), (.redXor g t a sc o, .xor), (.redMinN g t a sc o, .minN),
        (.redMinS g t a sc o, .minS), (.redMaxN g t a sc o, .maxN), (.redMaxS g t a sc o, .maxS), (.redInc g t a sc o, .inc),
        (.redFaddF32 g t a sc o, .faddF32)] : List (Instr × AtomOp)),
      (e.l.det = true → (o ≠ 0 ∨ x.2 = .faddF32) → Faults x.1 s e .illegal) ∧
      (e.l.det = false → o = 0 → e.absent s m off 4 .write → ∃ t', exec x.1 s = .next t' ∧ e.marksNr s t' m e.g s) ∧
      (e.l.det = false → e.noCaches s → e.finds s m off 4 .write pa → apart →
        (o = 0 → ∃ t' grp, exec x.1 s = .next t' ∧ performs x.2 t' ∧ t'.requests = s.requests ∧ t'.group? e.g.gid = some grp ∧
          grp = (e.g.goto e.iss.slotB (e.iss.pc + 4)).withLanes grp.lanes ∧
          ∀ n, n < e.g.lanes.length → ∃ p, grp.lane n = (e.g.lane n).withPage p) ∧
        (o ≠ 0 → e.act g ≠ 0 → ∃ t' acts, exec x.1 s = .next t' ∧ t'.mem = s.mem ∧
          t'.requests = s.requests ++ [e.request s (.release (e.scope sc) (.atom none acts []))] ∧
          ∀ n, m.getLsbD n = true → ∃ r ∈ acts, r.lane = n ∧ r.pa = pa n ∧ r.op = x.2 ∧ r.v = data n)))

/-- 17, R317–R320; 11, R195, R196: TAKING A CONTEXT-FATAL FAULT. A word that takes a fault leaves no effect in any lane and in memory: the halt line of its
running context is raised with the cause, the lane, the address and the place, and the group stands at the first hint of the word's run. A global
access (LD.g and ST.g with any order, ST.t, LDT, ATOM and RED at any scope) whose address has a bit of 63:56 set, is not aligned, or has no translation
that permits it is such a fault with cause 0x06 and names the lowest lane and its address, and so is an LDC past its space; a helper lane raises none.
Where the manual leaves a corner open, the reading is the model's own (logs 10, 36). -/
def Obligations.FaultsRaiseTheHaltLine : Prop :=
  (∀ (s : State) (e : Env) (h : Halt) (c : Context) (i : Instr), s.env = some e → e.g.origins = none → s.ctx? e.g.ctx = some c → c.run = .running →
    Faults i s e h → ∃ t grp d st, exec i s = .next t ∧ t = { s with groups := t.groups, contexts := t.contexts, issue := none } ∧
      (∀ k, k ≠ e.g.gid → t.group? k = s.group? k) ∧ t.group? e.g.gid = some grp ∧ grp.lanes = e.g.lanes ∧ grp.fault = some h ∧
      (grp.slot e.iss.slotB).path = (e.g.slot e.iss.slotB).path.map (fun p => { p with pc := e.hints.start.getD e.iss.pc }) ∧
      t.ctx? e.g.ctx = some d ∧ d = { c with run := .raised, stop := some st } ∧ st.halt = h ∧
      st.place = whereTag e.g e.k e.iss.pc h.lane ∧ st.raisedAt = s.time ∧ st.grid = e.l.no) ∧
  (∀ (s : State) (e : Env) (lane : Nat) (ea : DWord) (width : Nat) (n : Need),
    (2 ^ 56 ≤ ea.toNat ∨ ea.toNat % width ≠ 0 → s.checkAccess e lane ea width n = none) ∧
    (∀ l, s.checkAccess e lane ea width n = some l → l.res = true → l.permits n = true ∧ regionOf (l.pa ea.toNat) ≠ .reserved)) ∧
  (∀ (s : State) (e : Env) (g : BitVec 3) (t a : BitVec 7) (t' a' : BitVec 6) (la : BitVec 4) (sc o w : BitVec 2) (n : Nat), s.env = some e →
    e.g.isHelper n = false → (e.act g).getLsbD n = true →
    let raises := fun (i : Instr) (off width : Nat) (need : Need) =>
      s.checkAccess e n (e.ea off (e.g.lane n)) width need = none →
      (∀ k, k < n → (e.act g).getLsbD k = true → e.g.isHelper k = true ∨ s.checkAccess e k (e.ea off (e.g.lane k)) width need ≠ none) →
      ∃ d, Faults i s e ⟨0x06, 0, n, e.ea off (e.g.lane n), d⟩
    (e.l.det = false ∨ o = 0 →
      ∀ x ∈ ([(.ldGB8 g t a la sc o, 1, .read), (.ldGB16 g t a la sc o, 2, .read), (.ldGB32 g t a la sc o, 4, .read), (.ldGB64 g t a la sc o, 8, .read),
          (.ldGB128 g t a la sc o, 16, .read), (.stGB8 g t a sc o, 1, .write), (.stGB16 g t a sc o, 2, .write), (.stGB32 g t a sc o, 4, .write),
          (.stGB64 g t a sc o, 8, .write), (.stGB128 g t a sc o, 16, .write)] : List (Instr × Nat × Need)), raises x.1 (e.v a) x.2.1 x.2.2) ∧
    raises (.stT g t a w) (e.v a) (widthBytes w) .write ∧
    (e.l.det = false → ∀ i ∈ ([.atomAdd g t' a' la sc o, .atomAnd g t' a' la sc o, .atomOr g t' a' la sc o, .atomXor g t' a' la sc o,
        .atomMinN g t' a' la sc o, .atomMinS g t' a' la sc o, .atomMaxN g t' a' la sc o, .atomMaxS g t' a' la sc o, .atomExch g t' a' la sc o,
        .atomCas g t' a' la sc o, .atomInc g t' a' la sc o, .atomFaddF32 g t' a' la sc o, .redAdd g t' a' sc o, .redAnd g t' a' sc o,
        .redOr g t' a' sc o, .redXor g t' a' sc o, .redMinN g t' a' sc o, .redMinS g t' a' sc o, .redMaxN g t' a' sc o, .redMaxS g t' a' sc o,
        .redInc g t' a' sc o, .redFaddF32 g t' a' sc o] : List Instr), raises i (e.k.vwv + 8 * a'.toNat) 4 .write) ∧
    ((∀ k, k < n → (e.act g).getLsbD k = false) →
      let ea := e.ea (e.v a) (e.g.lane n)
      (2 ^ 56 ≤ ea.toNat ∨ ea.toNat % widthBytes w ≠ 0 ∨ s.checkAccess e n ea 1 .read = none → ∃ d, Faults (.ldt g t a la w) s e ⟨0x06, 0, n, ea, d⟩) ∧
      (0x11000 ≤ ea.toNat ∨ ea.toNat % widthBytes w ≠ 0 → ∃ d, Faults (.ldc g t a la w) s e ⟨0x06, 0, n, ea, d⟩)))

/-- 03, R37, R38; 11, R197, R202: the return of a load's or an ATOM's bytes. They are written in their lanes in order, the request is over, its window
stalls its slot no longer and lasts for the words that it has left, and nothing else differs.
Where the manual leaves a corner open, the reading is the model's own (logs 6, 43). -/
def Obligations.LoadsAndAtomsDeliver : Prop :=
  ∀ (s : State) (id : Nat) (r : Request) (x : RemoteReply) (g : Group) (ws : List LaneWrite) (dest : Nat) (src : List RemotePart)
    (acq : Option Scope) (i : Instr), s.live? id = some r → s.group? r.gid = some g →
    ((i = .loadDataReturn id x ∧ r.job = .load ws [] src none) ∨ (i = .atomResultReturn id x ∧ r.job = .atom ws dest [] acq)) →
    ∃ t grp, exec i s = .next t ∧
      t = { s with groups := t.groups, requests := s.requests.filter (fun q => q.id != id) } ∧
      (∀ k, k ≠ r.gid → t.group? k = s.group? k) ∧ t.group? r.gid = some grp ∧ grp = { g with lanes := grp.lanes, windows := grp.windows } ∧
      (∀ n, n < g.lanes.length → grp.lane n = ws.foldl (fun k w => if w.lane = n then k.put w.off w.bytes else k) (g.lane n)) ∧
      (∀ w, w ∈ grp.windows ↔ (w ∈ g.windows ∧ w.id ≠ id ∧ ¬ (w.complete = true ∧ w.left = 0)) ∨
        (∃ v ∈ g.windows, v.id = id ∧ v.left ≠ 0 ∧ w = { v with complete := true }))

/-! ### Fences, barriers, counters, copies, residency (11, R204–R217; 07, R117–R122; 10, R183–R187) -/

/-- 11, R211–R213, R215–R217; 07, R117, R118, R122: FENCE, PFENCE, BAR, ARRIVE and WAITC. A releasing form makes its request and holds its slot; FENCE.acq
invalidates at once; BAR needs every lane of its group; a counter that fails its checks is a protection fault. When the release is over, what it
precedes takes place: a fence goes on, a signal adds 1 modulo 2^64 at the counter's home, a group waits at its barrier until every participant that
has not ended has arrived. WAITC goes on when the counter has reached its target, and not before. What such an
event sends to another device is acknowledged before it takes place, and is a protection fault where it is refused or not answered in 10 ms (18, R333).
Where the manual leaves a corner open, the reading is the model's own (logs 6, 16, 18, 43, 48, 61). -/
def Obligations.FencesBarriersAndCounters : Prop :=
  (∀ (s : State) (e : Env) (g : BitVec 3) (o : BitVec 2) (sc : BitVec 3) (m n : BitVec 4) (k : BitVec 1) (d a : BitVec 7), s.env = some e →
    (e.l.det = true → Faults (.fence g o sc) s e .illegal) ∧
    (e.l.det = false → o ≠ 0 → HoldWord (.fence g o sc) s e (.release (scopeCode sc.toNat) (.fence (o != 1)))) ∧
    (e.l.det = false → (∀ w ∈ s.workgroups, w.stashes = []) → s.remoteBusy e.g.gid s.fresh = false →
      exec (.fence g 0 sc) s = .next (e.retire (s.invalidate e.g.core (scopeCode sc.toNat)))) ∧
    HoldWord (.pfence g m sc n) s e (.pfence (n ++ m) (scopeCode sc.toNat)) ∧
    (e.g.isHandler = false →
      ((∀ i, e.g.live.getLsbD i = true → e.path.mask.getLsbD i = true) → HoldWord (.bar g k) s e (.release (if k = 1 then .clu else .wg)
        (.bar (k == 1) (if k = 1 then e.g.barsC else e.g.barsW) e.hints.hdet))) ∧
      ((∃ i, e.g.live.getLsbD i = true ∧ e.path.mask.getLsbD i = false) → Faults (.bar g k) s e .operand)) ∧
    (∀ va : DWord, e.act g ≠ 0 → (∀ i, (e.act g).getLsbD i = true → (e.g.lane i).dword (e.v a) = va) →
      ((e.counterLeaf s va .write (e.counterScope == .sys)).isSome = true → HoldWord (.arrive g a) s e (.release e.counterScope (.arrive va.toNat))) ∧
      ((e.counterLeaf s va .write (e.counterScope == .sys)).isSome = false → Faults (.arrive g a) s e (.protection 0 va.toNat)) ∧
      (∀ t : Word, (∀ i, (e.act g).getLsbD i = true → (e.g.lane i).word (e.v d) = t) →
        (e.counterLeaf s va .read (e.counterScope == .sys)).isSome = true →
        ∃ t', exec (.waitc g d a) s = .next t' ∧ OnlyGroup s t' e.g.gid ∧ t'.group? e.g.gid = some (e.g.updSlot e.iss.slotB (fun x =>
          { x with wait := some (.counter va.toNat t.toNat (e.counterScope == .sys) s.time s.time), redo := none }))))) ∧
  (∀ (s : State) (id : Nat) (r : Request) (e : Env) (sc : Scope) (after : After) (x : RemoteReply) (u v : State), s.live? id = some r → s.reqEnv r = some e →
    r.job = .release sc after → s.remoteBusy r.gid id = false → s.release e.g e.actWord sc = .ok u → u.afterRelease e r sc after x = .ok v →
      exec (.releaseComplete id x) s = .next (s.withAck r x v) ∧ (after = .fence false → v = (u.dropRequest id).wake r) ∧
      (∀ va w, after = .arrive va → u.signalVa e.g.ctx (e.g.ctx, e.g.launch + 1) va = .ok w → v = ((w.publishArrive e va).dropRequest id).wake r)) ∧
  (∀ (s t : State) (r : Request) (x : RemoteReply), (sentAll (t.outbox.drop s.outbox.length) = [] → s.sentTo t = none) ∧
    (∀ a, s.sentTo t = some a → a ∈ sentAll (t.outbox.drop s.outbox.length)) ∧ (s.sentTo t = none → s.withAck r x t = t) ∧
    ∀ a, s.sentTo t = some a →
      (∀ bs, s.withAck r (.data bs) t = t) ∧ s.withAck r .refused t = (s.engineFault r 0x06 a).setSend r.id r.port (some s.time) ∧
      ((r.since = none ∨ ∃ w, r.since = some w ∧ s.time < w + 10000000) → s.withAck r .none t = s.setSend r.id r.port (some (r.since.getD s.time))) ∧
      ∀ w, r.since = some w → w + 10000000 ≤ s.time → s.withAck r .none t = s.withAck r .refused t) ∧
  (∀ (s : State) (ctx : Option Nat) (src : Nat × Nat) (pa : Nat) (trk : Bool), isRemote pa = false →
    (s.signal ctx src pa trk).mem.nat pa 8 = (s.mem.nat pa 8 + 1) % 2 ^ 64 ∧
    (∀ b, b < pa ∨ pa + 8 ≤ b → (s.signal ctx src pa trk).mem.get b = s.mem.get b)) ∧
  (∀ (s : State) (e : Env) (k : Nat) (role : Bool), s.env = some e → s.bars = [] → e.g.isHandler = false → (∀ w ∈ s.workgroups, w.stashes = []) →
    (∃ p ∈ s.groups, p.gid ≠ e.g.gid ∧ p.ctx = e.g.ctx ∧ p.launch = e.g.launch ∧ p.clu = e.g.clu ∧ p.wgc = e.g.wgc ∧ p.isHandler = false) →
    ∃ t grp b, s.arriveBar e false k role = .ok t ∧ t.bars = [b] ∧ b.arrived = [(e.g.gid, s.clock)] ∧ t.group? e.g.gid = some grp ∧
      (grp.slot e.iss.slotB).wait = some (.bar false k) ∧ grp.barsW = e.g.barsW + 1 ∧ t.mem = s.mem) ∧
  (∀ (s : State) (id : Nat) (r : Request) (e : Env) (mask : BitVec 8) (sc : Scope) (x : RemoteReply), s.live? id = some r → s.reqEnv r = some e → r.job = .pfence mask sc →
    mask.getLsbD 0 = false → mask.getLsbD 2 = false →
    let busy := ∃ q ∈ s.requests, q.gid = r.gid ∧ q.id < id ∧ ∃ b ∈ q.maskBits, mask.getLsbD b = true
    (busy → exec (.pfenceComplete ⟨id, x⟩) s = .next s) ∧
    (¬ busy → ∃ t, exec (.pfenceComplete ⟨id, x⟩) s = .next (t.wake r) ∧ t.mem = s.mem ∧ t.groups = s.groups ∧ t.requests = (s.dropRequest id).requests ∧
      (mask.getLsbD 1 = true → (t.core e.g.core).constants = []) ∧ (mask.getLsbD 1 = false → t = s.dropRequest id))) ∧
  (∀ (s : State) (gid : Nat) (b : Bool) (x : RemoteReply) (g : Group) (e : Env) (va t since asked v : Nat) (sys : Bool), s.group? gid = some g →
    (g.slot b).wait = some (.counter va t sys since asked) → s.slotEnv g b = some e → s.counterValue g.ctx va x = some v →
    (v < t → isRemote (s.counterPa g.ctx va) = false → exec (.waitcSatisfied gid b x) s = .next s) ∧
    (v < t → isRemote (s.counterPa g.ctx va) = true → exec (.waitcSatisfied gid b x) s =
      .next (s.updGroup gid (fun g => g.updSlot b (fun k => { k with wait := some (.counter va t sys since s.time) })))) ∧
    (t ≤ v → g.origins = none → g.resident = true → (∀ w ∈ s.workgroups, w.stashes = []) → ∃ t' iv cl, exec (.waitcSatisfied gid b x) s = .next t' ∧
      t'.mem = s.mem ∧ t'.requests = s.requests ∧ (∀ k, k ≠ gid → t'.group? k = s.group? k) ∧ t'.group? gid = some
        (((({ g with interval := iv, clocks := cl } : Group)).updSlot b (fun x => { x with wait := none })).goto b (e.iss.pc + 4))))

/-- 11, R204–R206, R209, R210; 10, R177, R178, R187: CP, CPCLOSE, CPWAIT and the end of a copy; STMAP, STFLUSH and STUNMAP. Each active lane that is no
helper lane starts the copy that its block describes; CPCLOSE gives the open ones to the next batch and its number to the lanes; CPWAIT of a batch
not closed yet is an operand-format fault, and waits while a copy of it runs; a global copy writes at its destination what its source held. A window
is mapped over its bytes of the Local Store, and unmapped after its dirty entries are written back.
Where the manual leaves a corner open, the reading is the model's own (logs 22, 23, 52). -/
def Obligations.CopiesAndStashWindows : Prop :=
  (∀ (s : State) (e : Env) (g : BitVec 3) (d a : BitVec 7) (la : BitVec 4), s.env = some e → e.l.det = false →
    (∀ c : Nat → Copy, e.g.isHandler = false → (∀ n, (e.storing g).getLsbD n = true → e.checkCopy s n (e.v a) (e.v d) = .ok (c n)) →
      ∃ t new, exec (.cp g d a) s = .next t ∧ t = { s with groups := t.groups, requests := s.requests ++ new, fresh := s.fresh + new.length, issue := none } ∧
        new.length = popcount (e.storing g) ∧ (∀ n, (e.storing g).getLsbD n = true →
          ∃ r ∈ new, r.gid = e.g.gid ∧ ∃ wid, r.job = .copy (copyOf (e.g.lane n) (e.v a) (e.v d)) none wid 0) ∧
        (∀ k, k ≠ e.g.gid → t.group? k = s.group? k) ∧ t.group? e.g.gid = some (e.g.goto e.iss.slotB (e.iss.pc + 4))) ∧
    (e.g.batch + 1 < 2 ^ 32 → ∃ t grp, exec (.cpclose g d la) s = .next t ∧ t.mem = s.mem ∧
      t.requests = (s.closeBatch e.g.gid (e.g.batch + 1)).requests ++
        [e.request s (.load ((lanesOf (e.act g)).map (fun i => ⟨i, e.v d, leBytes 4 (e.g.batch + 1)⟩)) [] [] none)] ∧
      t.group? e.g.gid = some grp ∧ grp.batch = e.g.batch + 1 ∧ grp.lanes = e.g.lanes) ∧
    (∀ n : Word, e.act g ≠ 0 → (∀ i, (e.act g).getLsbD i = true → (e.g.lane i).word (e.v d) = n) →
      (e.g.batch < n.toNat → Faults (.cpwait g d) s e .operand) ∧
      (n.toNat ≤ e.g.batch → s.batchBusy e.g.gid n.toNat = false → exec (.cpwait g d) s = .next (e.retire s)) ∧
      (n.toNat ≤ e.g.batch → s.batchBusy e.g.gid n.toNat = true → ∃ t, exec (.cpwait g d) s = .next t ∧ OnlyGroup s t e.g.gid ∧
        t.group? e.g.gid = some (e.g.updSlot e.iss.slotB (fun x => { x with wait := some (.batch n.toNat), redo := none })))) ∧
    (∀ (w : Workgroup) (v : Nat), e.g.isHandler = false → s.wgOf e.g = some w → s.wg? w.wid = some w → e.act g ≠ 0 →
      (∀ i, (e.act g).getLsbD i = true → (e.g.lane i).nat (e.v a) 16 = v) → w.stashes = [] →
      bits v 0 64 % 128 = 0 → bits v 0 64 < 2 ^ 56 → bits v 84 12 = 0 → bits v 64 32 % 128 = 0 → bits v 96 19 % 128 = 0 → bits v 96 19 ≠ 0 →
      bits v 96 19 ≤ 262144 → bits v 115 5 = 0 → bits v 123 5 = 0 → bits v 64 32 + bits v 96 19 ≤ w.lsSize →
      ∃ t, exec (.stmap g a) s = .next t ∧ t = { s with groups := t.groups, workgroups := t.workgroups, issue := none } ∧
        t.group? e.g.gid = some (e.g.goto e.iss.slotB (e.iss.pc + 4)) ∧
        t.wg? w.wid = some { w with stashes := [⟨bits v 120 3, bits v 0 64, bits v 64 32, bits v 96 19, []⟩] }) ∧
    (∀ (w : Workgroup) (v : Word) (u : State), e.g.isHandler = false → s.wgOf e.g = some w → e.act g ≠ 0 →
      (∀ i, (e.act g).getLsbD i = true → (e.g.lane i).word (e.v a) = v) →
      ((8 ≤ v.toNat ∨ ∀ x ∈ w.stashes, x.win ≠ v.toNat) → Faults (.stflush g a) s e .operand ∧ Faults (.stunmap g a) s e .operand) ∧
      (v.toNat < 8 → (∃ x ∈ w.stashes, x.win = v.toNat) → (if e.writes g then e.flush (e.act g) w v.toNat s else .ok s) = .ok u →
        exec (.stflush g a) s = .next (e.retire u) ∧ exec (.stunmap g a) s = .next (e.retire (u.updWg w.wid (fun x => x.endStash v.toNat)))))) ∧
  (∀ (w : Workgroup) (n : Nat), ∀ x ∈ (w.endStash n).stashes, x.win ≠ n) ∧
  (∀ (s u : State) (id wid n : Nat) (o : Bool) (r : Request) (c : Copy) (b : Option Nat), s.live? id = some r → r.job = .copy c b wid n →
    (s.runPart r.ctx r.gid wid c o n (c.total - n) = .ok u → exec (.copyComplete id o) s = .next (u.dropRequest id).settleBatches.settleEnds) ∧
    (∀ a, s.runPart r.ctx r.gid wid c o n (c.total - n) = .error (u, a) → exec (.copyComplete id o) s = .next (u.engineFault r 0x06 a))) ∧
  (∀ (s u v : State) (ctx gid wid : Nat) (c : Copy) (src dst : List (Nat × Bool)), c.kind = 2 →
    let die := dieOf (((s.wg? wid).map (fun w => w.core)).getD 0)
    s.copyRange die ctx c c.src.toNat .read 0 c.total = .ok (u, src) →
    u.copyRange die ctx c c.dst.toNat .write 0 c.total = .ok (v, dst) → (dst.map (fun p => p.1)).Nodup → src.length = dst.length →
    ∃ t, s.runPart ctx gid wid c false 0 c.total = .ok t ∧ (∀ i, i < dst.length → t.mem.get (dst.getD i (0, false)).1 = v.mem.get (src.getD i (0, false)).1) ∧
      (∀ a, (∀ p ∈ dst, p.1 ≠ a) → t.mem.get a = v.mem.get a))

/-- 11, R207, R208; 10, R183, R185, R186; 17, R322, R329, R330: PREQ, LOCK, UNLOCK, TLBINV, EBUD and STOPR, and the ends of their requests. A PREQ asks for the
pages of its lanes, and when they are served the counter is signalled; a LOCK answers 0, 1, 2 or 3 by the first condition of R186 that holds; UNLOCK
unpins the lines of its lanes; TLBINV holds its slot until no holder keeps a translation; EBUD.set moves the launch's reservation, never below what was used
and never up.
Where the manual leaves a corner open, the reading is the model's own (logs 18, 35, 37, 40, 53). -/
def Obligations.ResidencyLocksAndBudgets : Prop :=
  (∀ (s : State) (e : Env) (g : BitVec 3) (d a : BitVec 7) (la : BitVec 4), s.env = some e →
    let mine := (lanesOf (e.act g)).filter (fun i => !e.g.isHelper i)
    let addr := fun i => (e.g.lane i).dword (e.v a)
    (∀ (leaf : Nat → Leaf), (∀ i ∈ mine, s.checkAccess e i (addr i) 1 .read = some (leaf i)) →
      (∀ ctr : DWord, e.act g ≠ 0 → (∀ i, (e.act g).getLsbD i = true → (e.g.lane i).dword (e.v d) = ctr) →
        (e.counterLeaf s ctr .write true).isSome = true →
        SubmitWord (.preq g d a) s e (.preq ((mine.map (fun i => (leaf i).page)).eraseDups) ctr.toNat)) ∧
      LongWord (.lock g d a la) s e la (.lock (e.v d) (mine.map (fun i => (i, lockLine (leaf i) (addr i).toNat))) (e.act g &&& e.g.helpers)) ∧
      ∃ t, exec (.unlock g a) s = .next t ∧ t = { s with groups := t.groups, locked := t.locked, issue := none } ∧
        t.group? e.g.gid = some (e.g.goto e.iss.slotB (e.iss.pc + 4)) ∧
        ∀ k, k ∈ t.locked ↔ k ∈ s.locked ∧ ¬ (k.1 = e.g.ctx ∧ ∃ i ∈ mine, lockLine (leaf i) (addr i).toNat = some k.2)) ∧
    (e.privileged = true → HoldWord (.tlbinvCtx g) s e (.tlbinv none) ∧
      ∀ va, e.act g ≠ 0 → (∀ i, (e.act g).getLsbD i = true → (e.g.lane i).nat (e.v a) 8 = va) → HoldWord (.tlbinv g a) s e (.tlbinv (some va))) ∧
    (e.l.det = false → e.g.origins = none → LongWord (.ebudRd g d la) s e la (.load ((lanesOf (e.act g)).map (fun i =>
      ⟨i, e.v d, leBytes 4 (min e.l.used (2 ^ 32 - 1)) ++ leBytes 4 (energyFigure s 0 e.c.remaining)⟩)) [] [] none)) ∧
    (e.l.det = false → e.privileged = true → LongWord (.stopr g d a la) s e la (.load ((lanesOf (e.act g)).map (fun i =>
      ⟨i, e.v d, leBytes 4 (e.c.stopWord ((e.g.lane i).word (e.v a)).toNat)⟩)) [] [] none)) ∧
    (∀ v, e.act g ≠ 0 → (∀ i, (e.act g).getLsbD i = true → (e.g.lane i).nat (e.v a) 8 = v) →
      ∃ t c, exec (.ebudSet g a) s = .next t ∧ t = { s with groups := t.groups, contexts := t.contexts, issue := none } ∧
        t.group? e.g.gid = some (e.g.goto e.iss.slotB (e.iss.pc + 4)) ∧ t.ctx? e.c.no = some c ∧
        c.launch? e.l.no = some { e.l with reserved := max e.l.used (min e.l.reserved v) })) ∧
  (∀ (s : State) (ctx : Nat) (n : Nat),
    (s.lockOne ctx none).2 = 2 ∧ (homePoison s.poison n ≠ 0 → (s.lockOne ctx (some n)).2 = 3) ∧
    (homePoison s.poison n = 0 → (ctx, n) ∈ s.locked → s.lockOne ctx (some n) = (s, 0)) ∧
    (homePoison s.poison n = 0 → (ctx, n) ∉ s.locked →
      let full := (((s.ctx? ctx).map (fun c => c.args.lockQuota)).getD 0 ≤ (s.locked.filter (fun k => k.1 == ctx)).length) ∨
        8 ≤ ((s.locked.map (fun k => k.2)).eraseDups.filter (fun k => lineSet k == lineSet n)).length
      (full → s.lockOne ctx (some n) = (s, 1)) ∧ (¬ full → (s.lockOne ctx (some n)).2 = 0 ∧ (s.lockOne ctx (some n)).1 = ({ s with locked := (ctx, n) :: s.locked } : State).putHome n))) ∧
  (∀ (s : State) (id : Nat) (r : Request), s.live? id = some r →
    (∀ pages ctr v, r.job = .preq pages ctr → (∀ va ∈ pages, ∃ l, s.walkHome r.ctx va = some l ∧ l.res = true) →
      (s.setJob id (.preq [] ctr)).signalVa r.ctx (r.ctx, r.launch + 1) ctr = .ok v → ∀ x, exec (.pageRequestService ⟨id, x⟩) s =
        .next ((s.setJob id (.preq [] ctr)).withAck r x (v.dropRequest id).settleEnds)) ∧
    (∀ dest lane line, r.job = .lock dest [(lane, line)] 0 → exec (.lockStatusReturn id) s =
      .next ((s.lockOne r.ctx line).1.deliver r [⟨lane, dest, leBytes 4 (s.lockOne r.ctx line).2⟩])) ∧
    (∀ page, r.job = .tlbinv page → exec (.tlbinvSweepComplete id) s = .next (((s.sweepTlb r.ctx page).dropRequest id).wake r))) ∧
  (∀ (s : State) (ctx : Nat) (page : Option Nat) (l : Leaf), l.ctx = ctx → (∀ va, page = some va → l.covers ctx va = true) →
    (∀ c ∈ (s.sweepTlb ctx page).cores, l ∉ c.2.tlb) ∧ (∀ x ∈ (s.sweepTlb ctx page).engineTlb, l ∉ x.2) ∧
    (∀ g ∈ (s.sweepTlb ctx page).groups, ∀ k ∈ g.lanes, k.lastPage ≠ some l) ∧ (∀ d ∈ (s.sweepTlb ctx page).dies, ∀ w ∈ d.walk, w.ctx ≠ ctx))

/-! ### Matrix words (15, R282–R297; 13, R243–R245) -/

/-- 15, R282–R286, R288, R291–R297; 13, R234, R243: the matrix words in a group without FTRAP. MMA acts once for the group, in lanes that are all that go
on, and leaves its rows to a request, with INT8 each element of C plus the sum of products modulo 2^32; a guard that holds in some of those lanes only is an
operand-format fault. MACC adds two accumulators element by element, MZERO clears one and empties its row exponents, MQUANT converts one into a
fragment; MLD and MDRAIN make their requests from their descriptor; the first MMAJ of an instance joins it and goes on; MWAIT waits while an MMAJ is outstanding.
Where the manual leaves a corner open, the reading is the model's own (logs 12, 28, 50, 58). -/
def Obligations.MatrixWords : Prop :=
  ∀ (s : State) (e : Env) (g : BitVec 3) (t f la : BitVec 4) (c d p q : BitVec 3) (a : BitVec 7) (x : BitVec 1), s.env = some e → e.iss.redo = false →
    e.iss.delivered = none → e.g.ftrap = 0 →
    let lanes := lanesOf (e.act g)
    (∀ i ∈ [Instr.mma g t c a la f, .mld g d a la f, .mdrain g d a p x],
      (e.act g = 0 → exec i s = .next (e.retire s)) ∧ (e.act g ≠ 0 → e.act g ≠ e.g.live → Faults i s e .operand)) ∧
    (∀ v, e.act g ≠ 0 → e.act g = e.g.live → (∀ i, (e.act g).getLsbD i = true → (e.g.lane i).nat (e.v a) 8 = v) →
      (mmaLegal v (mmaCtl v f) c.toNat e.g.lanesOn = false → Faults (.mma g t c a la f) s e .operand) ∧
      (mmaLegal v (mmaCtl v f) c.toNat e.g.lanesOn = true → ∃ ws es fs, LongWord (.mma g t c a la f) s e la (.mma ws es fs) ∧
        ws = (e.mmaRows (mmaCtl v f) t c).flatMap (fun r => r.writes) ∧
        (f = 0 → bits v 0 4 = 8 → bits v 4 4 = 8 → bits v 8 4 = 8 → ∀ i, i < bits v 12 10 → ∃ w ∈ ws, w.lane = i ∧ w.off = e.acc c.toNat ∧
          ∀ j, j < bits v 22 10 → (leNat ((w.bytes.drop (4 * j)).take 4) : Int) = ((e.g.lane i).nat (e.acc c.toNat + 4 * j) 4 +
            ((List.range (bits v 32 10)).map (fun k => toSigned 8 ((e.g.lane i).nat (e.t t.toNat + k) 1) *
              toSigned 8 ((e.g.lane j).nat (e.t (bits v 42 4) + k) 1))).sum) % 2 ^ 32))) ∧
    (∃ ws es fs, LongWord (.macc g d p q la 8) s e la (.acc ws es fs) ∧ ws = lanes.map (fun i => ⟨i, e.acc d.toNat, (List.range 32).flatMap (fun j =>
      leBytes 4 ((e.g.lane i).nat (e.acc p.toNat + 4 * j) 4 + (e.g.lane i).nat (e.acc q.toNat + 4 * j) 4))⟩)) ∧
    (f = 0 ∨ f = 1 ∨ f = 2 → ∃ ws es fs, LongWord (.macc g d p q la f) s e la (.acc ws es fs) ∧
      let fm := if f = 0 then fp32 else if f = 1 then fp16 else bf16
      let n := if f = 0 then 4 else 2
      ws = lanes.map (fun i => ⟨i, e.acc d.toNat, (List.range (128 / n)).flatMap (fun j =>
        let u := fm.value ((e.g.lane i).nat (e.acc p.toNat + n * j) n)
        let v := fm.value ((e.g.lane i).nat (e.acc q.toNat + n * j) n)
        leBytes n (fm.deliver e.rounding [u, v] (exactAdd e.rounding.mode u v)).bits)⟩)) ∧
    (∃ ws es fs, LongWord (.macc g d p q la 9) s e la (.acc ws es fs) ∧ es.length = lanes.length ∧ ∀ i, (e.act g).getLsbD i = true →
      (((e.g.lane i).rowExp.getD p.toNat exaEmpty = exaNonfin ∨ (e.g.lane i).rowExp.getD q.toNat exaEmpty = exaNonfin) → (i, d.toNat, exaNonfin) ∈ es) ∧
      ((e.g.lane i).rowExp.getD q.toNat exaEmpty = exaEmpty →
        (i, d.toNat, (e.g.lane i).rowExp.getD p.toNat exaEmpty) ∈ es ∧ (i, (0 : BitVec 7)) ∈ fs)) ∧
    LongWord (.mzero g d la) s e la (.acc (lanes.map (fun i => ⟨i, e.acc d.toNat, List.replicate 128 0⟩)) (lanes.map (fun i => (i, d.toNat, exaEmpty)))
      (lanes.map (fun i => (i, 0)))) ∧
    (f = 1 ∨ f = 2 ∨ f = 9 ∨ f = 10 → ∃ ws fs, LongWord (.mquant g t p la f) s e la (.acc ws [] fs) ∧
      ws = lanes.map (fun i => ⟨i, e.t t.toNat, fragOf (mquantFmt f.toNat) ((List.range 32).map (fun j =>
        ((mquantFmt f.toNat).convert (e.satRounding (32 * i + j)) (fp32.value ((e.g.lane i).nat (e.acc p.toNat + 4 * j) 4))).bits))⟩)) ∧
    (f = 3 ∨ f = 4 ∨ f = 5 → (t = 15 → Faults (.mquant g t p la f) s e .operand) ∧ (t ≠ 15 → ∃ ws fs, LongWord (.mquant g t p la f) s e la (.acc ws [] fs) ∧
      ∀ i, (e.act g).getLsbD i = true → (∃ w ∈ ws, w.lane = i ∧ w.off = e.t t.toNat ∧ w.bytes.length = 64) ∧
        ∃ w ∈ ws, w.lane = i ∧ w.off = e.t (t.toNat + 1) ∧ leNat ((w.bytes.drop 32).take 2) % 2 ^ 16 =
          bandScale (mquantFmt f.toNat) (lanes.flatMap (fun k => ((e.g.lane k).fp32s (e.acc p.toNat) 32).map fp32.value)) % 2 ^ 16)) ∧
    (∀ (va : DWord) (u : State) (k : TileDesc), e.l.det = false → e.act g ≠ 0 → e.act g = e.g.live →
      (∀ i, (e.act g).getLsbD i = true → (e.g.lane i).dword (e.v a) = va) →
      (e.readTile va.toNat 16 s = .ok (u, k) → k.legal f.toNat d.toNat false e.g.lanesOn = true → exec (.mld g d a la f) s =
        .next (e.launchLong la (.mld va.toNat k.base k.pitch k.m k.n f.toNat d.toNat (e.act g) e.g.lanesOn []) u)) ∧
      (e.readTile va.toNat 64 s = .ok (u, k) → k.legal p.toNat d.toNat (x == 1) e.g.lanesOn = true → (x = 0 ∨ (3 ≤ p.toNat ∧ p.toNat ≤ 5)) →
        ∃ t' ws grp, exec (.mdrain g d a p x) s = .next t' ∧ t'.mem = u.mem ∧ t'.requests = u.requests ++ [e.request u (.mdrain va.toNat (k.m * k.n) ws 0)] ∧
          t'.group? e.g.gid = some grp ∧ (∀ i, i < e.g.lanes.length → ∃ fl pg, grp.lane i = { e.g.lane i with fflags := fl, lastPage := pg }) ∧
          (p = 6 → ws = (List.range k.m).map (fun r => ⟨k.base + r * k.pitch, (List.range k.n).flatMap (fun j =>
            (leBytes 4 ((e.g.lane r).nat (e.acc d.toNat + 4 * j) 4)).map (fun b => (b, (e.g.lane r).poisoned (e.acc d.toNat + 4 * j) 4)))⟩)))) ∧
    (∀ (v : Nat) (w u : Workgroup) (off : Nat), e.l.det = false → e.g.isHandler = false → e.act g ≠ 0 → e.act g = e.g.live → s.joints = [] → s.wgOf e.g = some w →
      (∀ i, (e.act g).getLsbD i = true → (e.g.lane i).nat (e.v a) 8 = v) → bits v 40 24 = 0 → bits v 24 1 = 0 →
      e.lsTarget s 0 (BitVec.ofNat 32 (bits v 0 32)) 32 = some (u, off) → e.memberOk s w.wid (e.g.joints + 1) (BitVec.ofNat 8 (bits v 32 8)) off f = true →
      ∃ t' j m grp, exec (.mmaj g d a f) s = .next t' ∧ t'.mem = s.mem ∧ t'.joints = [j] ∧ j.wid = w.wid ∧ j.k = e.g.joints + 1 ∧ j.started = false ∧
        j.mask = BitVec.ofNat 8 (bits v 32 8) ∧ j.members = [m] ∧ m.gid = e.g.gid ∧ m.accBase = d.toNat ∧ m.desc = off ∧
        t'.requests = s.requests ++ [e.request s (.mmaj w.wid (e.g.joints + 1))] ∧ t'.group? e.g.gid = some grp ∧
        grp.joints = e.g.joints + 1 ∧ grp.lanes = e.g.lanes) ∧
    (e.g.isHandler = false → (s.jointBusy e.g.gid = true → ∃ t', exec (.mwait g) s = .next t' ∧ OnlyGroup s t' e.g.gid ∧
        t'.group? e.g.gid = some (e.g.updSlot e.iss.slotB (fun y => { y with wait := some .mmaj, redo := none }))) ∧
      (s.jointBusy e.g.gid = false → s.joints = [] → ∃ t', exec (.mwait g) s = .next t' ∧ OnlyGroup s t' e.g.gid ∧
        t'.group? e.g.gid = some ((({ e.g with windows := e.g.windows.filter (fun w => !w.joint) } : Group).updSlot e.iss.slotB
          (fun y => { y with wait := none })).goto e.iss.slotB (e.iss.pc + 4))))

/-- 15, R285, R288, R289, R292–R296; 13, R234, R243; 03, R37: the ends of the matrix requests. MMA waits for the MMAs before it on its sub-core; what MMA,
MACC, MZERO and MQUANT computed, and what MLD reads from memory, is delivered to the lanes; MDRAIN's bytes land; an instance starts when every member
has issued, and its end takes the members' requests away and writes each block of the result in its member, with INT8 each element of C plus the sum of
products of the tiles in the Local Store modulo 2^32 (15, R289). A row of INT8 products adds the sums modulo 2^32 to its elements; one product
of FP32 elements, added to one, is rounded as FFMA rounds it.
Where the manual leaves a corner open, the reading is the model's own (logs 22, 28, 29, 30, 58). -/
def Obligations.MatrixRequestsComplete : Prop :=
  (∀ (s : State) (id : Nat) (r : Request) (g : Group) (ws : List LaneWrite) (es : List (Nat × Nat × BitVec 16)) (fs : List (Nat × BitVec 7)),
    s.live? id = some r → s.group? r.gid = some g →
    (r.job = .mma ws es fs → s.mmaBefore r = true → exec (.mmaComplete id) s = .next s) ∧
    (r.job = .mma ws es fs → s.mmaBefore r = false → ∃ t, exec (.mmaComplete id) s = .next t ∧ DeliversTo s t r g ws es fs) ∧
    (r.job = .acc ws es fs → ∃ t, exec (.maccMzeroMquantComplete id) s = .next t ∧ DeliversTo s t r g ws es fs) ∧
    (r.job = .fpLong ws fs → ∃ t, exec (.fpLongOpComplete id) s = .next t ∧ DeliversTo s t r g ws [] fs)) ∧
  (∀ (s u : State) (id : Nat) (r : Request) (e : Env) (desc base pitch m n code acc : Nat) (act lanes : BitVec 32)
    (got read : List (List (BitVec 8 × Bool))), s.live? id = some r → s.reqEnv r = some e → r.job = .mld desc base pitch m n code acc act lanes got →
    e.g.ftrap = 0 → (∀ x ∈ e.g.places, x.wait ≠ some (.request id)) → (∀ i, i < m → i < 32 ∧ lanes.getLsbD i = true) →
    s.mldRows (s.dieOfGroup r.gid) r.ctx base pitch (rowSpan (codeWidth code) n) got.length (m - got.length) got = .ok (u, read) →
    let rows := (read.zip (List.range m)).map (fun x => mldRow code acc (e.acc acc) x.2 n x.1)
    ∃ t, exec (.mldComplete id) s = .next t ∧ t.mem = u.mem ∧
      t.requests = u.requests.filter (fun q => q.id != id) ∧
      (rows.all (fun x => x.2.isEmpty) = true → ∀ g, u.group? r.gid = some g → DeliversTo u t r g (rows.flatMap (fun x => x.1.writes))
        (rows.flatMap (fun x => x.1.exps)) (rows.map (fun x => (x.1.lane, x.1.flags))))) ∧
  (∀ (acc off i n : Nat) (bs : List (BitVec 8 × Bool)), (mldRow 0 acc off i n bs).1.writes = [⟨i, off, (List.range n).flatMap (fun c =>
    leBytes 4 (leNat (((bs.drop (4 * c)).take 4).map (fun b => b.1))))⟩] ∧ (mldRow 0 acc off i n bs).1.flags = 0) ∧
  (∀ (s u : State) (id desc n k : Nat) (r : Request) (w : RowBytes) (pas : List (Nat × Bool)), s.live? id = some r → r.job = .mdrain desc n [w] k →
    s.engineRange .matrixEngine (dieOf (((s.group? r.gid).map (fun g => g.core)).getD 0)) r.ctx w.va w.bytes.length .write = .ok (u, pas) → exec (.mdrainWriteComplete id) s = .next ((u.engineLand r.ctx pas w.bytes).dropRequest id)) ∧
  (∀ (s : State) (id : Nat) (r : Request) (j : Joint), s.live? id = some r → s.jointOf r = some j →
    (j.full = true → j.started = false → ∃ t, exec (.mmajInstanceStart id) s = .next t ∧ t = { s with joints := t.joints } ∧
      t.joints = s.joints.map (fun x => if x = j then { x with started := true } else x)) ∧
    (j.full = false → exec (.mmajInstanceStart id) s = .next s) ∧
    (∀ (e : Env) (w : Workgroup) (m : JointMember) (ms : List JointMember), s.reqEnv r = some e → s.wg? j.wid = some w → j.members = m :: ms →
      j.started = true → j.complete = false → s.jointBefore j = false → w.lsPoison = [] → (∀ g ∈ s.groups, g.a.wait ≠ some .mmaj ∧ g.b.wait ≠ some .mmaj) →
      ∃ t, exec (.mmajComplete id) s = .next t ∧ t.mem = s.mem ∧ t.workgroups = s.workgroups ∧
        (∀ x ∈ t.requests, x ∈ s.requests ∧ ¬ (x.job = .mmaj j.wid j.k ∧ ∃ y ∈ j.members, y.gid = x.gid)) ∧
        (∀ k, (∀ y ∈ j.members, y.gid ≠ k) → t.group? k = s.group? k) ∧
        (∀ x ∈ t.joints, x.wid = j.wid → x.k = j.k → x.mask = j.mask → x.complete = true) ∧
        ∀ (d : JointDesc) (la lb : Layout) (y : JointMember) (g : Group) (b i c : Nat), jointDescOf j.desc = d → d.ta = 8 → d.tb = 8 → d.tc = 8 →
          layoutOf d.layA = some la → layoutOf d.layB = some lb → j.ls = w.ls → w.late = [] → (j.members.map (fun x => x.gid)).Nodup →
          y ∈ j.members → s.group? y.gid = some g →
          let n := (membersOf j.mask).length
          let row := 32 * (b / d.blocksAcross) + i
          let col := 32 * (b % d.blocksAcross) + c
          let place := fun (l : Layout) (tr : Bool) (r k : Nat) => if l.ord = tr then l.at_ r k else l.at_ k r
          let off := e.k.vwa + 128 * (y.accBase + b / n) + 4 * c
          b < d.blockCount → b % n = rankIn j.mask g.grp → i < 32 → row < d.m → c < 32 → col < d.n → i < g.lanes.length →
          ∃ grp, t.group? y.gid = some grp ∧ ((grp.lane i).nat off 4 : Int) = ((g.lane i).nat off 4 +
            (if y.flags.getLsbD 1 = y.flags.getLsbD 0 then 1 else -1) * ((List.range d.k).map (fun q =>
            toSigned 8 (w.ls.nat (place la (y.flags.getLsbD 3) row q) 1) * toSigned 8 (w.ls.nat (place lb (y.flags.getLsbD 2) q col) 1))).sum) % 2 ^ 32)) ∧
  (∀ (k : Rounding) (i c off : Nat) (l : Lane) (a : KLine) (bs : List KLine) (y : Nat → Int), ∃ w, (rowProduct k 8 i c off l a bs y).writes = [w] ∧
    w.lane = i ∧ w.off = off ∧ w.bytes.length = 4 * bs.length ∧ ∀ j, j < bs.length →
      (leNat ((w.bytes.drop (4 * j)).take 4) : Int) = ((l.nat (off + 4 * j) 4 : Int) + dotInt a (bs.getD j ⟨[], []⟩)) % 2 ^ 32) ∧
  (∀ (m : Mode) (a b c : Word), (dotRound fp32 (.plain m) ⟨[.value (fp32.value a.toNat)], []⟩ ⟨[.value (fp32.value b.toNat)], []⟩ c.toNat) =
    fp32.deliver (.plain m) [fp32.value a.toNat, fp32.value b.toNat, fp32.value c.toNat]
      (exactFma m (fp32.value a.toNat) (fp32.value b.toNat) (fp32.value c.toNat)))

/-! ### Standing products (04, R50–R71) -/

/-- 04, R63–R71; 07, R131: the words at the Thermos, in active lanes that agree on their handle. A handle that names no live, capturing binding of the context
is an operand-format fault. PSTALE and PSTAT ask for the status of their binding; PSETTLE, PUNBIND and PREFRESH ask for all captured so far to be
applied, and end the sync interval of the group; PUNBIND ends the capture; PREFRESH needs a legal selector; PSETTLE.async is complete for its window at once.
In a deterministic launch a background binding is an operand-format fault, and one that has collapsed since the launch began a det-capacity fault.
Where the manual leaves a corner open, the reading is the model's own (logs 32, 33, 50). -/
def Obligations.StandingProductWords : Prop :=
  ∀ (s : State) (e : Env) (g : BitVec 3) (d a : BitVec 7) (la : BitVec 4) (sc : BitVec 3), s.env = some e →
    let settling := [Instr.psettle g a la sc, .psettleAsync g d a la sc, .punbind g a la sc, .prefresh g d a la sc]
    (∀ (c : Context) (h : Word) (b : Binding), c.handle? h = some b →
      b ∈ c.bindings ∧ b.live = true ∧ b.capturing = true ∧ h.toNat = 256 * b.gen + b.slot) ∧
    (e.act g = 0 → la = 0 → ∀ i ∈ [Instr.pbind g d a la, .pstale g d a la, .pstat g d a la] ++ settling, exec i s = .next (e.retire s)) ∧
    (∀ h : Word, e.agree g (fun l => l.word (e.v a)) h → e.c.handle? h = none →
      ∀ i ∈ [Instr.pstale g d a la, .pstat g d a la] ++ settling, Faults i s e .operand) ∧
    (∀ (h : Word) (b : Binding), e.agree g (fun l => l.word (e.v a)) h → e.c.handle? h = some b →
      LongWord (.pstale g d a la) s e la (.pstatus false b.slot (e.v d) (e.act g)) ∧
      LongWord (.pstat g d a la) s e la (.pstatus true b.slot (e.v d) (e.act g)) ∧
      (e.l.det = true → b.desc.background = true → ∀ i ∈ settling, Faults i s e .operand) ∧
      (e.l.det = true → b.desc.background = false → (∃ t, b.collapsedAt = some t ∧ e.l.began ≤ t) →
        ∀ i ∈ settling, Faults i s e (.word 0x09 (e.lowest g))) ∧
      (e.l.det = false → e.g.isHandler = false →
        SettleWord (.psettle g a la sc) s e la (.psettle b.slot b.lastNo (scopeCode sc.toNat) none []) ∧
        (∃ t, exec (.punbind g a la sc) s = .next t ∧
          t = { s with groups := t.groups, contexts := t.contexts, requests := s.requests ++ [e.request s (.punbind b.slot b.lastNo (scopeCode sc.toNat))],
                       fresh := s.fresh + 1, issue := none } ∧
          t.contexts = (s.updCtx e.g.ctx (fun c => c.setBinding { b with capturing := false })).contexts ∧
          (∀ k, k ≠ e.g.gid → t.group? k = s.group? k) ∧
          t.group? e.g.gid = some ({ e.g.nextInterval with windows := e.g.windows ++ [e.window s la.toNat] }.goto e.iss.slotB (e.iss.pc + 4))) ∧
        (∀ sel : Word, e.agree g (fun l => l.word (e.v d)) sel →
          let ok := bits sel.toNat 20 10 = 0 ∧ ((bits sel.toNat 30 2 = 0 ∧ bits sel.toNat 0 20 = 0) ∨
            (bits sel.toNat 30 2 = 1 ∧ bits sel.toNat 0 20 < b.desc.m) ∨ (bits sel.toNat 30 2 = 2 ∧ bits sel.toNat 0 20 < b.desc.n))
          (ok → SettleWord (.prefresh g d a la sc) s e la (.prefresh b.slot b.lastNo (scopeCode sc.toNat) sel)) ∧
          (¬ ok → Faults (.prefresh g d a la sc) s e .operand)) ∧
        (∀ ctr : DWord, e.agree g (fun l => l.dword (e.v d)) ctr →
          ((e.counterLeaf s ctr .write (sc == 4)).isSome = false → Faults (.psettleAsync g d a la sc) s e (.protection (e.lowest g) ctr.toNat)) ∧
          ((e.counterLeaf s ctr .write (sc == 4)).isSome = true → ∃ t r, exec (.psettleAsync g d a la sc) s = .next t ∧ t.mem = s.mem ∧
            t.requests = s.requests ++ [r] ∧ r.gid = e.g.gid ∧ (∃ cs, r.job = .psettle b.slot b.lastNo (scopeCode sc.toNat) (some ctr.toNat) cs) ∧
            (∀ k, k ≠ e.g.gid → t.group? k = s.group? k) ∧
            t.group? e.g.gid = some ({ e.g.nextInterval with windows := e.g.windows ++
              (if la = 0 then [] else [{ e.window s la.toNat with complete := true }]) }.goto e.iss.slotB (e.iss.pc + 4)))))) ∧
    (∀ va : DWord, e.agree g (fun l => l.dword (e.v a)) va →
      (va.toNat % 64 ≠ 0 → Faults (.pbind g d a la) s e .operand) ∧
      (∀ (u : State) (x : Leaf) (b : Binding) (resident : Bool), e.l.det = false → va.toNat % 64 = 0 → s.engineAccess (some (.thermos 0)) e.g.ctx va.toNat .read = .ok (u, x) →
        isRemote (x.pa va.toNat) = false → u.proposeBinding e (u.mem.read (x.pa va.toNat) 64) (e.lowest g) (e.c.freeBinding.getD 0) = .ok (b, resident) →
        ∀ c, u.ctx? e.g.ctx = some c →
        (c.bindCode b resident ≠ 0 → exec (.pbind g d a la) s =
          .next (e.launchLong la (.pbind (c.bindCode b resident * 2 ^ 24) (e.v d) (e.act g) none) u)) ∧
        (c.bindCode b resident = 0 → exec (.pbind g d a la) s = .next (e.launchLong la (.pbind (b.gen * 256 + e.c.freeBinding.getD 0) (e.v d) (e.act g)
          (some (e.c.freeBinding.getD 0))) (u.updCtx e.g.ctx (fun c => { c with bindings := b :: c.bindings.filter (fun x => x.slot != e.c.freeBinding.getD 0) })))))) ∧
    (∀ (c : Context) (b : Binding) (resident : Bool), let live := c.bindings.filter (fun x => x.live)
      (64 ≤ live.length → c.bindCode b resident = 1) ∧
      (live.length < 64 → (∃ x ∈ live, runsMeet b.cRuns x.cRuns = true) → c.bindCode b resident = 2) ∧
      (live = [] → b.desc.reserve ≤ c.args.reserve.size → c.bindCode b resident = if resident then 0 else 4) ∧
      (live = [] → c.args.reserve.size < b.desc.reserve → c.bindCode b resident = 3))

/-- 04, R50–R57, R64–R71: what the Thermos does. A binding that is made has C computed from scratch from the operands at number 0; a settle through q leaves no
difference through q unapplied, writes no byte outside C, and the async form signals; PUNBIND waits for the earlier requests of its binding, and ends it;
PREFRESH of a row computes it from scratch from the operands as they stand after the settle; a background step applies what it is told, up to the
first lost difference, and is none of a binding that has no background policy and whose queue is not collapsing; PSTALE and PSTAT report. A correction in `.round` mode is one rounding of the exact sum.
Where the manual leaves a corner open, the reading is the model's own (logs 30, 32). -/
def Obligations.StandingProductRequests : Prop :=
  (∀ (s : State) (id : Nat) (r : Request) (g : Group), s.live? id = some r → s.group? r.gid = some g →
    (∀ word dest act, r.job = .pbind word dest act none → ∃ t, exec (.pbindComplete id) s = .next t ∧
      DeliversTo s t r g ((lanesOf act).map (fun i => ⟨i, dest, leBytes 4 word⟩)) [] []) ∧
    (∀ word dest act k b, r.job = .pbind word dest act (some k) → s.binding? r.ctx k = some b → ∃ t c, exec (.pbindComplete id) s = .next t ∧
      t.binding? r.ctx k = some c ∧ c.ready = true ∧ (∀ m, b.outsideC m → t.mem.get m = s.mem.get m) ∧
      (∀ x ∈ t.requests, x ∈ s.requests ∧ x.id ≠ id) ∧
      (∃ grp, t.group? r.gid = some grp ∧ ∀ n, n < g.lanes.length → grp.lane n =
        (g.lane n).takes n (g.isHelper n) ((lanesOf act).map (fun i => ⟨i, dest, leBytes 4 word⟩)) [] []) ∧
      (b.desc.exact = false → b.cApart → ∀ i j, i < b.desc.m → j < b.desc.n → t.mem.nat (b.cPa i j) (typeSize b.desc.tc) =
        scratchRound (typeFmt b.desc.ta) (typeFmt b.desc.tb) (typeFmt b.desc.tc) (pairsOf b b.aInit b.bInit i j) % 256 ^ typeSize b.desc.tc)) ∧
    (∀ stat slot dest act b, r.job = .pstatus stat slot dest act → s.binding? r.ctx slot = some b →
      let c : Binding := if stat then { b with refr := 0, refreshed := false, collapsed := false, peak := b.occupancy } else b
      let v := if stat then min 0xFFFF b.refr + 2 ^ 16 * min 0xFFFF b.peak + 2 ^ 32 * (b.drift.foldl (fun m x => max m x.toNat) 0)
        else min (2 ^ 32 - 1) (b.diffs.filter b.stale).length + 2 ^ 32 * b.status
      ∃ t, exec (.thermosStatusReply id) s = .next t ∧ DeliversTo (s.updCtx r.ctx (fun x => x.setBinding c)) t r g
        ((lanesOf act).map (fun i => ⟨i, dest, leBytes 8 v⟩)) [] [])) ∧
  (∀ (s : State) (id slot q : Nat) (sc : Scope) (r : Request) (b : Binding), s.live? id = some r → s.binding? r.ctx slot = some b → b.ready = true →
    b.orderly → q ≤ b.lastNo → (∀ w ∈ s.workgroups, w.stashes = []) →
    (r.job = .psettle slot q sc none [] → ∀ y, ∃ t c, exec (.psettleComplete ⟨id, y⟩) s = .next t ∧ t.binding? r.ctx slot = some c ∧ max b.applied q ≤ c.applied ∧
      (∀ x ∈ c.diffs, q < x.no) ∧ (∀ x ∈ b.diffs, c.applied < x.no → x ∈ c.diffs) ∧ (∀ m, b.outsideC m → t.mem.get m = s.mem.get m) ∧
      t.requests = s.requests.filter (fun x => x.id != id)) ∧
    (∀ ctr cs, r.job = .psettle slot q sc (some ctr) cs → ∃ u, s.work r.ctx slot (fun w => (w.settle q (s.detOf r)).roundingPass) = some u ∧
      (∀ v y, u.signalVa r.ctx (0, 0) ctr = .ok v →
        exec (.psettleComplete ⟨id, y⟩) s = .next (u.withAck r y ((v.publish (v.counterPa r.ctx ctr) cs).dropRequest id)))) ∧
    (r.job = .punbind slot q sc →
      ((∃ x ∈ s.requests, x.ctx = r.ctx ∧ x.id < id ∧ ∃ k f c l, x.job = .psettle slot k f c l) → exec (.punbindComplete id) s = .next s) ∧
      ((∀ x ∈ s.requests, x.ctx = r.ctx → id ≤ x.id) → ∃ t, exec (.punbindComplete id) s = .next t ∧ t.binding? r.ctx slot = none ∧
        (∀ m, b.outsideC m → t.mem.get m = s.mem.get m) ∧ t.requests = s.requests.filter (fun x => x.id != id))) ∧
    (∀ i sel, r.job = .prefresh slot q sc sel → bits sel.toNat 30 2 = 1 → bits sel.toNat 0 20 = i → i < b.desc.m →
      ∃ t c, exec (.prefreshComplete id) s = .next t ∧ t.binding? r.ctx slot = some c ∧ max b.applied q ≤ c.applied ∧ q ≤ c.rowQ.getD i 0 ∧
        (∀ m, b.outsideC m → t.mem.get m = s.mem.get m) ∧ t.requests = s.requests.filter (fun x => x.id != id) ∧
        (b.desc.exact = false → b.cApart → b.applied ≤ q → b.marked = [] → (∀ p ∈ b.points, p ≤ q) →
          ∀ j, j < b.desc.n → t.mem.nat (b.cPa i j) (typeSize b.desc.tc) =
            scratchRound (typeFmt b.desc.ta) (typeFmt b.desc.tb) (typeFmt b.desc.tc) (pairsOf b c.aInit c.bInit i j) % 256 ^ typeSize b.desc.tc))) ∧
  (∀ (s : State) (ctx slot n : Nat) (c : Context) (b : Binding), s.ctx? ctx = some c → c.binding? slot = some b → b.ready = true →
    b.orderly → c.goesOn (.thermos b.die) = true → n ≤ b.lastNo →
    (b.desc.background = true ∨ b.collapsing = true → ∃ t x, exec (.thermosBackgroundApply ctx slot n ⟨[], []⟩) s = .next t ∧
      t.binding? ctx slot = some x ∧ b.applied ≤ x.applied ∧
      ((∀ d ∈ b.diffs, d.lost = true → n < d.no) → n ≤ x.applied ∧ ∀ y ∈ x.diffs, n < y.no) ∧ (∀ m, b.outsideC m → t.mem.get m = s.mem.get m) ∧ t.requests = s.requests ∧ t.groups = s.groups) ∧
    (b.desc.background = false → b.collapsing = false → ∀ p, exec (.thermosBackgroundApply ctx slot n p) s = .next s)) ∧
  (∀ (w : Work) (i j n d : Nat) (x : FVal) (neg : Bool), w.b.desc.exact = false → exactAdd .rne ((typeFmt w.b.desc.tc).value (w.cAt i j)) x = .num neg n d →
    (w.correct i j x).cAt i j = ((typeFmt w.b.desc.tc).round (.plain .rne) neg n d).1 % 256 ^ typeSize w.b.desc.tc)

/-! ### Sketches (14, R252–R269; 12, R224, R225) -/

/-- 14, R252–R269; 12, R225: the sketch words, in active lanes that agree on their descriptor. Where it cannot be read they fault; SKADD makes one request with the
key and the value of each active lane that is no helper lane; SKQRY and SKSTAT make theirs with a window; SKINIT, SKSCALE and SKMERGE act
once for the group, and not at all where every active lane is a helper lane; SKMERGE needs two sketches of one shape, seed and scale.
Where the manual leaves a corner open, the reading is the model's own (log 31). -/
def Obligations.SketchWords : Prop :=
  ∀ (s : State) (e : Env) (g : BitVec 3) (d a : BitVec 7) (la : BitVec 4) (x : BitVec 1), s.env = some e → e.l.det = false →
    (e.storing g = 0 → ∀ i ∈ [Instr.skinit g a, .skscale g d a, .skmerge g d a x], exec i s = .next (e.retire s)) ∧
    (e.act g = 0 → exec (.skadd g d a) s = .next (e.retire s) ∧ (la = 0 → exec (.skqry g d a la) s = .next (e.retire s) ∧
      exec (.skstat g d a la) s = .next (e.retire s))) ∧
    (∀ va : DWord, e.agree g (fun l => l.dword (e.v a)) va →
      (∀ (t : State) (h : Halt), s.readSketch e (e.lowest g) va.toNat = .error (t, h) →
        (∀ i ∈ [Instr.skadd g d a, .skqry g d a la, .skstat g d a la], exec i s = .next (e.takeFault h t)) ∧
        (e.storing g ≠ 0 → exec (.skinit g a) s = .next (e.takeFault h t))) ∧
      (∀ (u : State) (k : Sketch), s.readSketch e (e.lowest g) va.toNat = .ok (u, k) →
        let adds := ((lanesOf (e.act g)).filter (fun i => !e.g.isHelper i)).map (fun i => (i, (e.g.lane i).dword (e.v d), (e.g.lane i).word (e.v d + 8)))
        (e.storing g ≠ 0 → exec (.skadd g d a) s = .next (e.retire (e.submit (.sketch k (.add adds) []) u))) ∧
        exec (.skqry g d a la) s = .next (e.launchLong la
          (.sketch k (.query (e.v d) ((lanesOf (e.act g)).map (fun i => (i, (e.g.lane i).dword (e.v d))))) []) u) ∧
        exec (.skstat g d a la) s = .next (e.launchLong la (.sketch k (.stat (e.v d) (e.act g)) []) u) ∧
        (e.storing g ≠ 0 →
          exec (.skinit g a) s = .next (e.retire (e.submit (.sketch k .init []) u)) ∧
          (∀ f : Word, e.agree g (fun l => l.word (e.v d)) f →
            exec (.skscale g d a) s = .next (e.retire (e.submit (.sketch k (.scale (toSigned 16 f.toNat)) []) u))) ∧
          (∀ (dva : DWord) (v : State) (dst : Sketch), e.agree g (fun l => l.dword (e.v d)) dva →
            u.readDestination e (e.lowest g) dva.toNat = .ok (.known v dst) →
            (k.alike dst = true → exec (.skmerge g d a 0) s = .next (e.retire (e.submit (.skmerge k dst none [] [] false) v)) ∧
              ∀ c, e.agree g (fun l => l.nat (e.v d + 8) 8) c → v.mergeCounter e (e.lowest g) dst c = .ok () →
                exec (.skmerge g d a 1) s = .next (e.retire (e.submit (.skmerge k dst (some c) [] [] false) v))) ∧
            (k.alike dst = false → Faults (.skmerge g d a 0) s e (.word 0x0C (e.lowest g))))))) ∧
    (∀ (lane va : Nat), va % 64 ≠ 0 → s.readSketch e lane va = .error (s, .operand)) ∧
    (∀ (lane va : Nat) (u : State) (k : Sketch), s.readSketch e lane va = .ok (u, k) → k.base % 256 = 0 ∧ 1 ≤ k.rows ∧ k.rows ≤ 16 ∧ 6 ≤ k.logCols ∧
      k.logCols ≤ 26 ∧ -64 ≤ k.scale ∧ k.scale ≤ 64)

/-- 14, R254–R269; 12, R225: what the sketch engines do. A request waits for the earlier ones of its group on its sketch; a step on a counter saturates it, and is
exact within the range; a query delivers an estimate per lane, or where it reads poison is a precise fault of its word, SKSTAT its word to all; init, scale,
add and merge go on by units, taken in any order and each once, and the last unit ends the request, with SAT and the signal of a merge; a merge of another
node is refused without an export, and with one is accepted, performed and acknowledged. Buckets lie in their row, and a quantised value in the range of a
counter. A merge that arrives for a page that has moved goes on to its new home.
Where the manual leaves a corner open, the reading is the model's own (logs 30, 31): so is it that Table 12-3 places the keys that it names and the hash of
R254 every other one (log 31). -/
def Obligations.SketchRequests : Prop :=
  (∀ (s u : State) (id : Nat) (n : Units) (r : Request), s.live? id = some r →
    (∀ k op done, r.job = .sketch k op done →
      ((∃ q ∈ s.requests, q.gid = r.gid ∧ q.id < id ∧ ∃ op' done', q.job = .sketch k op' done') → exec (.sketchRequestPerformed id n) s = .next s) ∧
      ((∀ q ∈ s.requests, q.gid = r.gid → id ≤ q.id) →
        (∀ e dest keys ws bad, op = .query dest keys → s.reqEnv r = some e → s.skAnswer e.g r.ctx k dest keys = .ok (u, ws, bad) →
          (bad = [] → exec (.sketchRequestPerformed id n) s = .next (u.deliver r ws)) ∧
          (∀ x xs, bad = x :: xs → ∃ d, exec (.sketchRequestPerformed id n) s = .next (e.flightFault ⟨0x07, 0, x.1, BitVec.ofNat 64 x.2, d⟩ u))) ∧
        (∀ dest act cs, op = .stat dest act → s.skScan r.ctx k (List.range k.size) = .ok (u, cs) →
          exec (.sketchRequestPerformed id n) s = .next (u.deliver r ((lanesOf act).map (fun i => ⟨i, dest, leBytes 4 (skWord (u.satOf k) cs)⟩)))) ∧
        (op = .init ∨ (∃ f, op = .scale f) ∨ (∃ xs, op = .add xs) → s.skUnits r.ctx k op done (unitsTaken (op.units k) done n) = .ok u →
          let done' := unitsDone (op.units k) done n
          (spansSize done' < op.units k → exec (.sketchRequestPerformed id n) s = .next (u.setJob id (.sketch k op done'))) ∧
          (op.units k ≤ spansSize done' → exec (.sketchRequestPerformed id n) s =
            .next ((if op = .init then u.setSat r.ctx k false else u).dropRequest id))))) ∧
    (∀ src dst ctr done got sent, r.job = .skmerge src dst ctr done got sent → (∀ q ∈ s.requests, q.gid = r.gid → id ≤ q.id) →
      let done' := unitsDone src.size done n
      (isRemote dst.descPa = false → s.mergeUnits r.ctx src dst (unitsTaken src.size done n) = .ok u →
        let w := u.setJob id (.skmerge src dst ctr done' [] false)
        (spansSize done' < src.size → exec (.skmergeComplete id n .none) s = .next w) ∧
        (src.size ≤ spansSize done' →
          let v := if w.satOf src then w.setSat r.ctx dst true else w
          (ctr = none → exec (.skmergeComplete id n .none) s = .next (v.dropRequest id)) ∧
          (∀ a x, ctr = some a → v.signalVa r.ctx (r.ctx, r.launch + 1) a = .ok x → exec (.skmergeComplete id n .none) s = .next (x.dropRequest id)))) ∧
      (isRemote dst.descPa = true →
        (sent = false → ∀ cs, s.skScan r.ctx src (unitsTaken src.size done n) = .ok (u, cs) →
          (spansSize done' < src.size → exec (.skmergeComplete id n .none) s = .next (u.setJob id (.skmerge src dst ctr done' (got ++ cs) false))) ∧
          (src.size ≤ spansSize done' → ∃ t m, exec (.skmergeComplete id n .none) s = .next t ∧ t.outbox = u.outbox ++ [.merge (sysNode dst.descPa) m] ∧
            m.counters = gotCounters (got ++ cs) src.size ∧ m.off = sysOff dst.descPa ∧ t.mem = u.mem)) ∧
        (sent = true → exec (.skmergeComplete id n .none) s = .next s ∧ exec (.skmergeComplete id n (.data [])) s = .next (s.dropRequest id) ∧
          exec (.skmergeComplete id n .refused) s = .next (s.engineFault r 0x06 dst.descVa))))) ∧
  (∀ (total : Nat) (done : List (Nat × Nat)) (n : Units) (i : Nat), (i ∈ unitsTaken total done n → i < total ∧ inSpans done i = false) ∧
    (inSpans (unitsDone total done n) i = true ↔ inSpans done i = true ∨ i ∈ unitsTaken total done n)) ∧
  (∀ (s u : State) (id : Nat) (n : Units) (r : Request) (x : RemoteReply) (dst : Sketch) (q : RemoteMerge) (done : List (Nat × Nat)),
    s.request? id = some r → r.job = .merging dst q done → s.mergingUnits r.ctx dst q (unitsTaken dst.size done n) = .ok u →
    let done' := unitsDone dst.size done n
    (spansSize done' < dst.size → exec (.skmergeComplete id n x) s = .next (u.setJob id (.merging dst q done'))) ∧
    (dst.size ≤ spansSize done' → q.sat = false → q.signal = none → exec (.skmergeComplete id n x) s =
      .next ((u.answer q.node true []).dropRequest id))) ∧
  (∀ (s : State) (q : RemoteMerge),
    ((∀ x ∈ s.grants, x.node ≠ q.node) → exec (.remoteMergeArrival q) s = .next (s.answer q.node false [])) ∧
    (∀ ctx, s.exporter q.node q.off 64 = some ctx → isRemote (s.forwarded q.off) = true → exec (.remoteMergeArrival q) s =
      .next { s with outbox := s.outbox ++ [.merge (sysNode (s.forwarded q.off)) { q with off := sysOff (s.forwarded q.off) }] }) ∧
    (∀ ctx k, s.exporter q.node q.off 64 = some ctx → isRemote (s.forwarded q.off) = false →
      s.mergeTarget ctx (s.forwarded q.off) q.tracked = some k →
      q.rows = k.rows → q.logCols = k.logCols → q.scale = k.scale → q.seed = k.seed → q.counters.length = k.size → q.signal = none →
      ∃ r, exec (.remoteMergeArrival q) s = .next { s with requests := s.requests ++ [r], fresh := s.fresh + 1 } ∧ r.id = s.fresh ∧ r.ctx = ctx ∧
        r.job = .merging k q [])) ∧
  (∀ (s u t : State) (ctx : Nat) (k : Sketch) (i pa : Nat) (trk : Bool) (f : Int → Int), s.skCell ctx k i .write = .ok (u, pa, trk) →
    s.skStep ctx k i f = .ok t → (pa + 4 ≤ k.descPa + 0x14 ∨ k.descPa + 0x18 ≤ pa) →
    t.skRead pa = max (-(2 ^ 31 - 1)) (min (2 ^ 31 - 1) (f (u.skRead pa))) ∧
    (f (u.skRead pa) < -(2 ^ 31 - 1) ∨ 2 ^ 31 - 1 < f (u.skRead pa) → t.satOf k = true) ∧
    (∀ b, (b < pa ∨ pa + 4 ≤ b) → (b < k.descPa + 0x14 ∨ k.descPa + 0x18 ≤ b) → t.mem.get b = u.mem.get b)) ∧
  (∀ (key seed : DWord) (r c : Nat), c ≤ 64 → (skPlace key seed r c).1 < 2 ^ c ∧
    (∀ x, tablePlace key seed r c = some x → skPlace key seed r c = x) ∧
    (tablePlace key seed r c = none → (skPlace key seed r c).1 = (mix64 (key ^^^ mix64 (seed + BitVec.ofNat 64 r * 0x9E3779B97F4A7C15#64))).toNat / 2 ^ (64 - c) ∧
      (skPlace key seed r c).2 = (mix64 (key ^^^ mix64 (seed + BitVec.ofNat 64 r * 0x9E3779B97F4A7C15#64))).getLsbD 0)) ∧
  (∀ (v : Word) (scale : Int), -(2 ^ 31 - 1) ≤ (quantise v scale).1 ∧ (quantise v scale).1 ≤ 2 ^ 31 - 1) ∧
  (∀ xs : List Int, xs ≠ [] → lowerMedian xs ∈ xs) ∧
  (∀ (s : State) (ctx : Nat) (k : Sketch) (key : DWord) (v : Word) (b : Bool), quantise v k.scale = (0, b) → b = false → s.skAddLane ctx k key v = .ok s)

/-! ### Lane traps and their handlers (17, R307–R316) -/

/-- 17, R308, R312–R316: the words of traps. TRAP and BKPT stop every active lane that is no helper lane, with cause 6 or 7 and the code: into the core's pool,
in ascending order, or, without a handler, with a stop of cause 0x21; in a handler group they are illegal, as HRD, HWR and ERET are outside one. HRD and HWR
read and write 4 bytes, or 8 with .b64, of one origin lane's registers and of the words of Table 17-3 after them; the rest of that space, an offset at or above the
budget, and a misaligned one are register-range faults, and a write of a word that is only read a protection fault. ERET.x asks for the origin's word again, unless it is TRAP or BKPT, and ERET.c
gives its destination the value, if it has one; EXIT ends the origin lane too; the handler lane ends, and with the last one its group.
Where the manual leaves a corner open, the reading is the model's own (logs 17, 29, 36). -/
def Obligations.TrapWords : Prop :=
  ∀ (s : State) (e : Env) (g : BitVec 3) (d a n : BitVec 7) (la : BitVec 4) (x : BitVec 1), s.env = some e → e.iss.redo = false →
    (e.g.isHandler = true → Faults (.trap g n) s e .illegal ∧ Faults (.bkpt g n) s e .illegal) ∧
    (e.g.isHandler = false → ∀ i ∈ [Instr.hrd g d a la x, .hwr g d a x, .eretC g a, .eretX g], Faults i s e .illegal) ∧
    (e.g.isHandler = false → ∀ p ∈ [(Instr.trap g n, 6), (.bkpt g n, 7)],
      (e.storing g = 0 → exec p.1 s = .next (e.retire s)) ∧
      (e.storing g ≠ 0 → ∃ t w, exec p.1 s = .next t ∧ (∀ k, k ≠ e.g.gid → t.group? k = s.group? k) ∧
        t.group? e.g.gid = some (e.g.updSlot e.iss.slotB (fun y => { y with wait := some (.lanes w), redo := none })) ∧
        w.pc = e.iss.pc ∧ w.word = e.iss.word ∧ w.act = e.act g ∧ w.lanes = e.storing g ∧ w.served = 0 ∧ w.redo = 0 ∧ w.exits = 0 ∧
        w.causes = (lanesOf (e.storing g)).map (fun i => (i, p.2, n.toNat)) ∧
        (e.k.handler ≠ 0 → t = { s with groups := t.groups, cores := t.cores, issue := none } ∧ (t.core e.g.core).pool = (s.core e.g.core).pool ++
          (lanesOf (e.storing g)).map (fun i => ⟨⟨e.g.gid, e.iss.slotB, i, p.2, n.toNat⟩, s.clock⟩)) ∧
        (e.k.handler = 0 → t = { s with groups := t.groups, contexts := t.contexts, issue := none } ∧ (e.c.run = .running → ∃ c j,
          t.ctx? e.g.ctx = some c ∧ c.run = .raised ∧ c.stop = some j ∧ j.halt.cause = 0x21 ∧ j.halt.origin = 0 ∧ j.halt.detail = e.storing g ∧
          (∀ i, (e.storing g).getLsbD i = true → j.halt.lane ≤ i) ∧ j.raisedAt = s.time)))) ∧
    (∀ (os : List Origin) (o : Origin) (i : Nat) (og : Group) (w : TrapWord), e.g.origins = some os → os[i]? = some o → i < 32 → e.act g = 1#32 <<< i →
      s.group? o.gid = some og → og.trapWord o.lane = some w → o.gid ≠ e.g.gid → o.lane < og.lanes.length → og.tags = [] →
      let off := ((e.g.lane i).word (e.v a)).toNat
      let own := og.lane o.lane
      let v := (e.g.lane i).bytes (e.v d) 8
      let word := fun (b : Nat) => leBytes 4 (
        if b = 0x400 then own.preds.toNat else if b = 0x404 then own.fflags.toNat else if b = 0x408 then (if own.nr then 1 else 0)
        else if b = 0x40C then og.frnd.toNat else if b = 0x410 then og.ftrap.toNat
        else if b = 0x414 then (((w.flags.find? (fun (f : Nat × BitVec 7) => f.1 == o.lane)).map (fun (f : Nat × BitVec 7) => f.2)).getD 0).toNat
        else if b = 0x418 then w.word.toNat
        else if 0x420 ≤ b ∧ b < 0x440 then ((own.rowExp.getD ((b - 0x420) / 4) exaEmpty).signExtend 32).toNat else 0)
      let put := fun (l : Lane) (b : Nat) (x : List (BitVec 8)) =>
        if b = 0x400 then { l with preds := BitVec.ofNat 12 (leNat x) } else if b = 0x404 then { l with fflags := BitVec.ofNat 7 (leNat x) }
        else if b = 0x408 then { l with nr := leNat x % 2 == 1 }
        else { l with rowExp := setNth l.rowExp ((b - 0x420) / 4) (BitVec.ofNat 16 (leNat x)) }
      let width : BitVec 1 → Nat := fun x => if x = 1 then 8 else 4
      (off % width x ≠ 0 ∨ (e.k.regs ≤ off ∧ off < 0x400) ∨ 0x460 ≤ off →
        Faults (.hrd g d a la x) s e (.word 0x03 i) ∧ Faults (.hwr g d a x) s e (.word 0x03 i)) ∧
      (off % width x = 0 → 0x400 ≤ off → (0x40C < off + width x ∧ off < 0x420) ∨ (0x440 ≤ off ∧ off < 0x460) → Faults (.hwr g d a x) s e (.word 0x06 i)) ∧
      (∀ bs, (off % width x = 0 ∧ off < e.k.regs ∧ off < 0x400 ∧ own.poisoned off (width x) = false ∧ bs = own.bytes off (width x)) ∨
          (off % width x = 0 ∧ 0x400 ≤ off ∧ off < 0x460 ∧ bs = if x = 1 then word off ++ word (off + 4) else word off) →
        LongWord (.hrd g d a la x) s e la (.load [⟨i, e.v d, bs⟩] [] [] none)) ∧
      (∀ l, (off % width x = 0 ∧ off < e.k.regs ∧ off < 0x400 ∧ l = own.put off (v.take (width x))) ∨
          (x = 0 ∧ off % 4 = 0 ∧ ((0x400 ≤ off ∧ off < 0x40C) ∨ (0x420 ≤ off ∧ off < 0x440)) ∧ l = put own off (v.take 4)) ∨
          (x = 1 ∧ off % 8 = 0 ∧ (off = 0x400 ∨ (0x420 ≤ off ∧ off < 0x440)) ∧ l = put (put own off (v.take 4)) (off + 4) (v.drop 4)) →
        ∃ t, exec (.hwr g d a x) s = .next t ∧ t = { s with groups := t.groups, issue := none } ∧ t.group? o.gid = some (og.setLane o.lane l) ∧
          t.group? e.g.gid = some (e.g.goto e.iss.slotB (e.iss.pc + 4)) ∧ (∀ k, k ≠ o.gid → k ≠ e.g.gid → t.group? k = s.group? k)) ∧
      (let bit : BitVec 32 := 1#32 <<< o.lane
       let after := fun (r : Bool) (ex : Bool) (l : Lane) => (og.updPlaces (fun y => match y.traps o.lane with
         | some w => { y with wait := some (.lanes { w with
             served := w.served ||| bit, redo := if r then w.redo ||| bit else w.redo, exits := if ex then w.exits ||| bit else w.exits }) }
         | none => y)).setLane o.lane l
       let ended := (e.g.exitLanes e.iss.slotB (1#32 <<< i)).goto e.iss.slotB (e.iss.pc + 4)
       let ends := fun (z : Instr) (own' : Group) =>
         (ended.isOver = false → ∃ t, exec z s = .next t ∧ t = { s with groups := t.groups, issue := none } ∧ t.group? e.g.gid = some ended ∧
           t.group? o.gid = some own' ∧ (∀ k, k ≠ o.gid → k ≠ e.g.gid → t.group? k = s.group? k)) ∧
         (ended.isOver = true → s.bars = [] → (∀ y ∈ s.workgroups, y.ended = false) → ∃ t, exec z s = .next t ∧
           t = { s with groups := t.groups, contexts := t.contexts, workgroups := t.workgroups, issue := none } ∧ t.group? e.g.gid = none ∧
           t.group? o.gid = some own' ∧ (∀ k, k ≠ o.gid → k ≠ e.g.gid → t.group? k = s.group? k))
       (w.joint = none → ends (.eretX g) (after (!isSoftTrap (bodyInstr w.word)) false own)) ∧
       (w.joint ≠ none → ∃ h, Faults (.eretX g) s e h ∧ h.cause = 0x0B ∧ h.lane = i) ∧
       ((∀ b c f z y, bodyInstr w.word ≠ some (.mdrain b c f z y)) → predDest (bodyInstr w.word) = none →
         (∀ base n, w.dests.find? (fun z => z.1 == o.lane) = some (o.lane, [⟨base, n⟩]) → base ≤ 1024 → n ≤ 8 →
           ends (.eretC g a) (after false false (own.put base (((e.g.lane i).bytes (e.v a) 8).take n)))) ∧
         (w.dests.find? (fun z => z.1 == o.lane) = none → ends (.eretC g a) (after false false own))) ∧
       (∀ q, predDest (bodyInstr w.word) = some q → ends (.eretC g a) (after false false (own.putPred q.toNat (((e.g.lane i).word (e.v a)).getLsbD 0)))) ∧
       (∀ b c f z y, bodyInstr w.word = some (.mdrain b c f z y) → 3 ≤ z.toNat → z.toNat ≤ 5 → ∃ h, Faults (.eretC g a) s e h ∧ h.cause = 0x0B ∧ h.lane = i) ∧
       ends (.exit g) (after false true own)))

/-- 17, R308, R309, R312, R313: handler groups. When 32 lanes of a kernel are pooled, or the oldest has waited 256 clocks, and a handler slot is free, up to
32 of them, oldest first, become a group, once the issued words of their groups have completed, whose windows close, at the handler's entry, with registers and modes as at a start; not before. When every trapped lane of a word has been
served, the slot goes on to the next word, or stands at the word's run again for the lanes that asked for it; not before.
Where the manual leaves a corner open, the reading is the model's own (logs 17, 29). -/
def Obligations.HandlersFormAndReturn : Prop :=
  (∀ (s : State) (core : Nat) (k : Nat × Kernel) (slot : Nat) (c : Context) (p : Pooled) (ps : List Pooled), (s.core core).pool = p :: ps →
    (∀ y ∈ p :: ps, s.pooledKernel y = some k) → (p :: ps).Nodup → s.ctx? k.1 = some c → c.goesOn (.core core) = true →
    (ps.length < 31 → s.clock < p.at_ + 256 → exec (.handlerGroupFormation core) s = .next s) ∧
    (s.freeHandler core = none → exec (.handlerGroupFormation core) s = .next s) ∧
    let gids := ((p :: ps).take 32).map (fun y => y.origin.gid)
    ((∃ y ∈ gids, s.drained y = false) → exec (.handlerGroupFormation core) s = .next s) ∧
    (31 ≤ ps.length ∨ p.at_ + 256 ≤ s.clock → s.freeHandler core = some slot → (∀ y ∈ gids, s.drained y = true) →
      ∃ t h, exec (.handlerGroupFormation core) s = .next t ∧ t = { s with cores := t.cores, groups := t.groups, fresh := s.fresh + 1 } ∧
      t.groups = s.groups.map (fun x => if x.gid ∈ gids then x.closeWindows else x) ++ [h] ∧ (t.core core).pool = (p :: ps).drop 32 ∧
      h.gid = s.fresh ∧ h.core = core ∧ h.slotNo = slot ∧ h.origins = some (((p :: ps).take 32).map (fun y => y.origin)) ∧ h.ctx = k.1 ∧
      h.a.path = some ⟨BitVec.ofNat 64 k.2.handler, h.lanesOn, none, []⟩ ∧ h.b.path = none ∧ h.frnd = 0 ∧ h.ftrap = 0 ∧ h.stack = [] ∧ h.jr = none ∧
      (∀ i, h.lanesOn.getLsbD i = true ↔ i < min 32 (ps.length + 1)) ∧ (∀ i, i < 32 → h.lane i = Lane.start))) ∧
  (∀ (s : State) (gid : Nat) (b : Bool) (g : Group) (c : Context) (w : TrapWord), s.group? gid = some g → s.ctx? g.ctx = some c →
    (g.slot b).wait = some (.lanes w) → c.goesOn (.core g.core) = true →
    (w.lanes &&& ~~~ w.served ≠ 0 → exec (.originSlotResume gid b) s = .next s) ∧
    (w.lanes &&& ~~~ w.served = 0 → s.wordBusy gid b w.pc = false → w.joint = none →
      let back := (g.exitLanes b w.exits).updSlot b (fun y => { y with wait := none })
      (w.redo = 0 → (back.goto b (w.pc + 4)).isOver = false → ∃ t, exec (.originSlotResume gid b) s = .next t ∧ t = { s with groups := t.groups } ∧
        (∀ k, k ≠ gid → t.group? k = s.group? k) ∧ t.group? gid = some (back.goto b (w.pc + 4))) ∧
      (w.redo &&& ~~~ w.exits ≠ 0 → back.isOver = false → ∃ t grp r, exec (.originSlotResume gid b) s = .next t ∧ t = { s with groups := t.groups } ∧
        (∀ k, k ≠ gid → t.group? k = s.group? k) ∧ t.group? gid = some grp ∧ grp.lanes = g.lanes ∧ grp.exited = g.exited ||| w.exits ∧
        (grp.slot b).redo = some r ∧ r.pc = w.pc ∧ r.lanes = w.redo &&& ~~~ w.exits ∧ (grp.slot b).wait = none ∧
        ∀ q, (g.slot b).path = some q → (grp.slot b).path = some { q with pc := w.hints.start.getD w.pc, mask := q.mask &&& ~~~ w.exits })))

/-! ### Recipes, tags, hints, the fast file (17, R324–R328; 03, R33–R36; 06, R86, R89) -/

/-- 17, R324–R328; 06, R89: RTAG tags the register of the recipe that it names with it, unless the recipe is another register's, 32 tags stand, or the chain would be
deeper than two; RUNTAG releases; both are illegal in a handler group, and nothing without an active lane. A replay that comes about leaves its register
materialised, and where no word waits for one nothing happens. A fill brings a chunk into the fast file; where that is full, one chunk
of another group of the sub-core leaves it (00, R1).
Where the manual leaves a corner open, the reading is the model's own (logs 14, 34, 51, 57). -/
def Obligations.RecipesTagsAndFills : Prop :=
  (∀ (s : State) (e : Env) (g : BitVec 3) (d : BitVec 7) (n : BitVec 5) (p : BitVec 1), s.env = some e →
    (e.g.isHandler = true → Faults (.rtag g d n p) s e .illegal ∧ Faults (.runtag g d p) s e .illegal) ∧
    (e.g.isHandler = false → e.act g = 0 → exec (.rtag g d n p) s = .next (e.retire s) ∧ exec (.runtag g d p) s = .next (e.retire s)) ∧
    (e.g.isHandler = false → e.act g ≠ 0 →
      (e.k.recipe? n.toNat = none → Faults (.rtag g d n p) s e .operand) ∧
      (∀ r, e.k.recipe? n.toNat = some r →
        let others := e.g.tags.filter (fun t => !t.span.meets (r.span e.k))
        (r.target ≠ d.toNat ∨ r.pair ≠ (p == 1) ∨ 32 ≤ others.length ∨ r.tooDeep e.k others = true → Faults (.rtag g d n p) s e .operand) ∧
        (r.tooDeep e.k others = true ↔ ∃ x ∈ others, r.uses e.k x.span = true ∧ ∃ q, e.k.recipe? x.recipe = some q ∧ ∃ y ∈ others, q.uses e.k y.span = true) ∧
        (r.target = d.toNat → r.pair = (p == 1) → others.length < 32 → r.tooDeep e.k others = false → ∃ t, exec (.rtag g d n p) s = .next t ∧
          OnlyGroup s t e.g.gid ∧ t.group? e.g.gid =
            some ({ e.g with tags := others ++ [(⟨e.k.vwv + 4 * d.toNat, p == 1, r.k, false, none⟩ : Tag)] }.goto e.iss.slotB (e.iss.pc + 4)))) ∧
      ∃ t grp, exec (.runtag g d p) s = .next t ∧ OnlyGroup s t e.g.gid ∧ t.group? e.g.gid = some grp ∧
        grp = { e.g with tags := grp.tags }.goto e.iss.slotB (e.iss.pc + 4) ∧
        ∀ x, x ∈ grp.tags ↔ x ∈ e.g.tags ∧ (vspan e.k d (if p = 1 then 2 else 1)).meets x.span = false)) ∧
  (∀ (s : State) (gid tag : Nat), s.waitingFor gid tag = none → exec (.recipeReplay gid tag .none) s = .next s) ∧
  (∀ (s : State) (gid tag : Nat) (e : Env) (t : Tag) (g : Group) (k : Kernel), s.waitingFor gid tag = some (e, t) → s.group? gid = some g →
    s.kernelOf g.ctx g.launch = some k →
    (∀ u, State.replay 3 s k gid t = .ok u → exec (.recipeReplay gid tag .none) s = .next u) ∧
    (∀ c, State.replay 3 s k gid t = .error (.fault c) → exec (.recipeReplay gid tag .none) s = .next (s.failReplay e t c))) ∧
  (∀ (n : Nat) (s u : State) (k : Kernel) (gid : Nat) (t : Tag), (k.recipe? t.recipe).isSome = true → State.replay (n + 1) s k gid t = .ok u →
    ∀ g, u.group? gid = some g → ∀ x ∈ g.tags, x.off = t.off → x.dropped = false) ∧
  (∀ (s : State) (gid c : Nat) (g : Group) (k : Kernel), s.group? gid = some g → s.kernelOf g.ctx g.launch = some k → g.resident = true → g.regs k ≤ 1024 →
    64 * c < g.regs k / 64 * 64 →
    let others := s.fastOthers g.core g.sub gid
    let own := ((List.range 16).filter (fun x => x != c && g.fast.getLsbD x)).length
    ∃ t out, exec (.fastFileChunkFill gid c []) s = .next t ∧ t = { s with groups := t.groups, fresh := t.fresh } ∧ (∀ x ∈ out, x ∈ others) ∧
      (others.length + own < 32 → out = []) ∧ (32 ≤ others.length + own → out.length = 1) ∧
      t.group? gid = some { g with fast := g.fast ||| (1#16 <<< c) } ∧
      ∀ n x, n ≠ gid → s.group? n = some x → t.group? n =
        some { x with fast := (out.filter (fun y => y.1 == n)).foldl (fun f y => f &&& ~~~ (1#16 <<< y.2)) x.fast })

/-- 03, R33–R36; 06, R86, R89: a hint word is held by its slot: the run takes it, a second one of its kind spoils the run, the slot goes on and keeps the issue of
its group, and no lane and nothing else changes. HIVL also marks the chunks that it names, as far as the kernel has them; whether it drops a register that
a tag lets the device drop is free.
Where the manual leaves a corner open, the reading is the model's own (logs 6, 14, 57). -/
def Obligations.HintWords : Prop :=
  ∀ (s : State) (e : Env) (v : BitVec 24) (o : BitVec 20) (m : BitVec 16) (x y : BitVec 1) (p : BitVec 4) (c : BitVec 2) (r : BitVec 3), s.env = some e →
    let h := { e.hints with count := e.hints.count + 1, start := some (e.hints.start.getD e.iss.pc) }
    (∀ z ∈ [(Instr.himm x v, { h with himm := some (x == 1, v), bad := e.hints.bad || e.hints.himm.isSome }),
        (.hoff o, { h with hoff := some o, bad := e.hints.bad || e.hints.hoff.isSome }),
        (.hgrd x y p, { h with hgrd := some (x == 1, y == 1, p), bad := e.hints.bad || e.hints.hgrd.isSome }),
        (.hsem x c, { h with hsem := some (x == 1, c), bad := e.hints.bad || e.hints.hsem.isSome }),
        (.hrnd r, { h with hrnd := some r, bad := e.hints.bad || e.hints.hrnd.isSome }),
        (.hsat m x y, { h with hsat := some (y == 1, x == 1, m), bad := e.hints.bad || e.hints.hsat.isSome }),
        (.hdet, { h with hdet := true, bad := e.hints.bad || e.hints.hdet })],
      ∃ t grp, exec z.1 s = .next t ∧ OnlyGroup s t e.g.gid ∧ t.group? e.g.gid = some grp ∧ grp.lanes = e.g.lanes ∧ grp.windows = e.g.windows ∧
        ∀ q, (e.g.slot e.iss.slotB).path = some q → q.mask ≠ 0 → q.join ≠ some (e.iss.pc + 4) →
          grp.slot e.iss.slotB = { e.g.slot e.iss.slotB with path := some { q with pc := e.iss.pc + 4 }, hints := z.2, again := false } ∧
          grp.slot (!e.iss.slotB) = e.g.slot (!e.iss.slotB) ∧ grp.keep = some e.iss.slotB) ∧
    ∃ t grp, exec (.hivl m) s = .next t ∧ OnlyGroupAndFree s t e.g.gid ∧ t.group? e.g.gid = some grp ∧
      grp.marked = m &&& budgetChunks (e.g.regs e.k) ∧ grp.lanes = e.g.lanes ∧
      (∀ q, (e.g.slot e.iss.slotB).path = some q → q.mask ≠ 0 → q.join ≠ some (e.iss.pc + 4) → (grp.slot e.iss.slotB).path = some { q with pc := e.iss.pc + 4 } ∧
        (grp.slot e.iss.slotB).hints = { h with hivl := some m, bad := e.hints.bad || e.hints.hivl.isSome } ∧ grp.keep = some e.iss.slotB)

/-! ### Host commands, the device on its own, placement (18, R333–R346; 06, R94–R106; 10, R188–R194; 17, R318, R320) -/

/-- 18, R337–R346; 17, R318, R320, R321: the host commands. The first node that commands becomes the host node; another is answered with status 4, and nothing
changes; a command of no context is answered with 2, and one of a context whose vacate or halt is not answered waits its turn. Each command of an idle
context has its effect and its answer; halt, vacate and a map that moves a page are answered later, the map with status 6 and a protection fault where
another device refuses, or does not answer within 10 ms, and what still arrives for a page that has moved is forwarded until its old frame is free. A
message is a command only with that command's CODE and LEN, and ranges overlap where they share a byte, so that an unused one overlaps none.
Where the manual leaves a corner open, the reading is the model's own (logs 7, 24, 25, 38, 39, 40, 60): so is the byte order of the 384-bit values of an
image's measurement, of the attestation and of the public key (log 8). -/
def Obligations.HostCommands : Prop :=
  (∀ (s : State) (h : CmdHead) (args : ContextArgs) (va : BitVec 64) (size fl : BitVec 8) (frame : BitVec 64) (img : ImageSource) (desc : List (BitVec 8))
      (k : BitVec 32) (nonce : BitVec 384) (budget : BitVec 64),
    let cmds := [Instr.destroyContext h, .map h va size fl frame, .exportFrame h va size fl frame, .unmap h va, .withdrawExport h va, .loadImage h k img,
      .start h desc, .halt h, .resume h, .vacate h k, .readStopRecord h k, .attest h nonce, .setEnergyBudget h budget, .queryContext h]
    (∀ n, s.hostNode = some n → n ≠ h.node → ∀ i ∈ cmds ++ [.createContext h args, .queryIdentity h, .queryPublicKey h, .queryErrorCounts h, .queryThermal h],
      exec i s = .next { s with outbox := s.outbox ++ [.reply h.node (replyBytes h 4 [])] }) ∧
    ((s.hostNode = none ∨ s.hostNode = some h.node) →
      let u : State := { s with hostNode := some h.node }
      (s.ctx? h.ctx.toNat = none → ∀ i ∈ cmds, exec i s = .next (u.reply h 2 [])) ∧
      (∀ c, s.ctx? h.ctx.toNat = some c → (c.halting.isSome = true ∨ c.vacating.isSome = true) →
        ∀ i ∈ cmds, exec i s = .next (u.updCtx c.no (fun c => { c with waiting := c.waiting ++ [i] }))) ∧
      exec (.queryIdentity h) s = .next (u.reply h 0 (leBytes 2 s.node.toNat ++ leBytes 8 Config.serial.toNat ++
        leBytes 4 (Config.romVersion.toNat + 2 ^ 24 * ((List.range 36).filter (fun i => s.failedPorts.getLsbD i)).length))) ∧
      exec (.queryPublicKey h) s = .next (u.reply h 0 (leBytes 97 Config.publicKey.toNat)) ∧
      exec (.queryErrorCounts h) s = .next (u.reply h 0 (s.dies.flatMap (fun d => leBytes 8 d.corrected ++ leBytes 8 d.deferred))) ∧
      exec (.queryThermal h) s = .next (u.reply h 0 (s.dies.flatMap (fun d => leBytes 2 d.temp ++ leBytes 1 d.clock))) ∧
      (u.argsValid args = false → exec (.createContext h args) s = .next (u.reply h 1 [])) ∧
      (u.argsValid args = true → ((∀ n, n < 16 → (s.ctx? n).isSome = true) ∨ ∃ c ∈ s.contexts, argsClash c.args args = true) →
        exec (.createContext h args) s = .next (u.reply h 5 [])) ∧
      (u.argsValid args = true → (∃ n, n < 16 ∧ s.ctx? n = none) → (∀ c ∈ s.contexts, argsClash c.args args = false) → ∃ t c,
        exec (.createContext h args) s = .next t ∧ t.contexts = s.contexts ++ [c] ∧ c.no < 16 ∧ s.ctx? c.no = none ∧ c.run = .running ∧ c.launches = [] ∧
        c.budget = args.budget ∧ c.args.cores = args.cores ∧ t.mem = s.mem ∧ t.outbox = s.outbox ++ [.reply h.node (replyBytes h 0 (leBytes 1 c.no))]) ∧
      (∀ c, s.ctx? h.ctx.toNat = some c → u.busy c = false →
        exec (.attest h nonce) s = .next (u.reply h 0 (attestation nonce c.measurement c.no)) ∧
        exec (.queryContext h) s = .next (u.reply h 0 (leBytes 8 c.consumed ++ leBytes 8 c.budget ++ leBytes 8 c.residencyFailures ++ leBytes 8 c.brokenPromises)) ∧
        exec (.setEnergyBudget h budget) s = .next ((u.updCtx c.no (fun c => { c with budget := budget.toNat })).reply h 0 []) ∧
        (c.records[k.toNat]? = none → exec (.readStopRecord h k) s = .next (u.reply h 2 [])) ∧
        (∀ r, c.records[k.toNat]? = some r → exec (.readStopRecord h k) s = .next (u.reply h 0 r)) ∧
        (c.run = .halted → exec (.halt h) s = .next (u.reply h 0 []) ∧ exec (.resume h) s = .next ((u.resumeContext c.no).reply h 0 []) ∧
          exec (.vacate h k) s = .next (u.reply h 3 [])) ∧
        (c.run = .running → exec (.resume h) s = .next (u.reply h 3 []) ∧
          (∃ t x j, exec (.halt h) s = .next t ∧ t = { u with contexts := t.contexts } ∧ t.ctx? c.no = some x ∧ x.run = .raised ∧ x.halting = some h ∧
            x.stop = some j ∧ j.halt.cause = 0x20 ∧ j.halt.origin = 3 ∧ j.raisedAt = s.time) ∧
          (c.coreList.length < k.toNat → exec (.vacate h k) s = .next (u.reply h 1 [])) ∧
          (k.toNat ≤ c.coreList.length → (∀ l ∈ c.launches, l.ended = true) → ∃ t x, exec (.vacate h k) s = .next t ∧
            t = { u with contexts := t.contexts, workgroups := t.workgroups } ∧ t.ctx? c.no = some x ∧ x.vacating = some (h, k.toNat))) ∧
        (c.waiting = [] → ∃ t, exec (.destroyContext h) s = .next t ∧ t.ctx? c.no = none ∧ (∀ g ∈ t.groups, g.ctx ≠ c.no) ∧
          (∀ w ∈ t.workgroups, w.ctx ≠ c.no) ∧ (∀ r ∈ t.requests, r.ctx ≠ c.no) ∧ (∀ x ∈ t.grants, x.ctx ≠ c.no) ∧ (∀ x ∈ t.locked, x.1 ≠ c.no) ∧
          ∃ ms, t.outbox = s.outbox ++ ms ++ [.reply h.node (replyBytes h 0 [])]) ∧
        ((u.sourceBytes img).bind imageTables = none → exec (.loadImage h k img) s = .next (u.reply h 1 [])) ∧
        (∀ bs xs t, u.sourceBytes img = some bs → imageTables bs = some (xs, t) → k.toNat < 2 → (∀ x ∈ xs, x.written = true → u.reaches c.no x = true) → ∃ v x,
          exec (.loadImage h k img) s = .next v ∧ (∃ ms, v.outbox = s.outbox ++ ms ++ [.reply h.node (replyBytes h 0 (leBytes 8 (firstCode t.code)))]) ∧
          v.ctx? c.no = some x ∧ x.measurement = Config.sha384 (leBytes 48 c.measurement.toNat ++ leBytes 48 (Config.sha384 bs).toNat ++ leBytes 4 k.toNat) ∧
          x.kernels = t.kernels.map (fun y => y.1) ++ c.kernels.filter (fun y => !(t.kernels.map (fun z => z.1)).any (fun z => z.handle == y.handle)) ∧
          x.images = ⟨t.code, k.getLsbD 0⟩ :: overlaid (xs.filter ImageSection.written) c.images ∧ v.groups = s.groups) ∧
        ((c.kernel? (leNat (desc.take 8)) = none → exec (.start h desc) s = .next (u.reply h 1 [])) ∧
          (∀ kn, c.kernel? (leNat (desc.take 8)) = some kn →
            let l := launchOf desc kn true 0 s.time
            ((∃ x ∈ c.launches, x.root = true ∧ x.ended = false) → exec (.start h desc) s = .next (u.reply h 3 [])) ∧
            ((∀ x ∈ c.launches, x.root = true → x.ended = true) →
              (desc.length ≠ 64 ∨ descLegal c desc = false ∨ u.countersOk c.no l = false → exec (.start h desc) s = .next (u.reply h 1 [])) ∧
              (desc.length = 64 → descLegal c desc = true → u.countersOk c.no l = true →
                (u.admission c l kn.regs = 0 → exec (.start h desc) s = .next ((u.accept c.no l).reply h 0 (leBytes 8 (u.promiseOf % 2 ^ 48)))) ∧
                (u.admission c l kn.regs ≠ 0 → exec (.start h desc) s =
                  .next (({ u with fresh := u.fresh + 1 } : State).reply h 0 (leBytes 8 (u.admission c l kn.regs * 2 ^ 48)))))))) ∧
        (fl.getLsbD 7 = true → exec (.map h va size fl frame) s = exec (.exportFrame h va size fl frame) s) ∧
        (va.getLsbD 7 = true → exec (.unmap h va) s = exec (.withdrawExport h va) s) ∧
        (sizeCode size = none → exec (.map h va size fl frame) s = .next (u.reply h 1 []) ∧ exec (.exportFrame h va size fl frame) s = .next (u.reply h 1 [])) ∧
        (∀ b, sizeCode size = some b → fl.getLsbD 7 = false →
          let f := u.localFrame frame.toNat
          (bits fl.toNat 0 2 ≠ 0 ∨ 2 ^ 56 ≤ va.toNat ∨ va.toNat % 2 ^ b ≠ 0 ∨ frameAllowed c f (2 ^ b) (fl.getLsbD 2) = false → exec (.map h va size fl frame) s = .next (u.reply h 1 [])) ∧
          (bits fl.toNat 0 2 = 0 → va.toNat < 2 ^ 56 → va.toNat % 2 ^ b = 0 → frameAllowed c f (2 ^ b) (fl.getLsbD 2) = true →
            (placeOf s.mem va.toNat b walkLevels c.args.root = .other → exec (.map h va size fl frame) s = .next (u.reply h 1 [])) ∧
            (placeOf s.mem va.toNat b walkLevels c.args.root = .noTable → exec (.map h va size fl frame) s = .next (u.reply h 5 [])) ∧
            (∀ a, placeOf s.mem va.toNat b walkLevels c.args.root = .open_ a → ∃ t : State, exec (.map h va size fl frame) s = .next (t.reply h 0 []) ∧
              ((∀ w ∈ s.workgroups, w.ended = true → w.stashes = []) →
                t.mem.nat a 8 = (f + 3 + bits fl.toNat 2 5 * 4) % 2 ^ 64 ∧ (∀ x, x < a ∨ a + 8 ≤ x → t.mem.get x = s.mem.get x))) ∧
            (∀ a x, placeOf s.mem va.toNat b walkLevels c.args.root = .leaf a x → bits x 16 36 * 2 ^ 16 ≠ f →
              (s.pinned (bits x 16 36 * 2 ^ 16) (2 ^ b) = true → exec (.map h va size fl frame) s = .next (u.reply h 6 [])) ∧
              (s.pinned (bits x 16 36 * 2 ^ 16) (2 ^ b) = false → ∃ t r, exec (.map h va size fl frame) s = .next t ∧
                t = { u with requests := s.requests ++ [r], fresh := s.fresh + 1 } ∧ r.ctx = c.no ∧
                ∃ l, r.job = .migrate va.toNat l f h.tag h.node ∧ l.frame = bits x 16 36 * 2 ^ 16)))) ∧
        (va.getLsbD 7 = false →
          (2 ^ 56 ≤ va.toNat ∨ leafSlot s.mem va.toNat walkLevels c.args.root = none → exec (.unmap h va) s = .next (u.reply h 2 [])) ∧
          (∀ a x lo, va.toNat < 2 ^ 56 → leafSlot s.mem va.toNat walkLevels c.args.root = some (a, x, lo) →
            ((∃ y ∈ s.contexts, ∃ b ∈ y.bindings, b.holds (bits x 16 36 * 2 ^ 16) (2 ^ lo) = true) → exec (.unmap h va) s = .next (u.reply h 6 [])) ∧
            ((∀ y ∈ s.contexts, ∀ b ∈ y.bindings, b.holds (bits x 16 36 * 2 ^ 16) (2 ^ lo) = false) → ∃ t : State, exec (.unmap h va) s = .next (t.reply h 0 []) ∧
              t.mem.nat a 8 = 0 ∧ (∀ y, y < a ∨ a + 8 ≤ y → t.mem.get y = s.mem.get y)))) ∧
        (∀ b, sizeCode size = some b → u.localFrame frame.toNat % 2 ^ b = 0 → regionOf (u.localFrame frame.toNat) = .hbm →
          covered c.args.hbm (u.localFrame frame.toNat) (2 ^ b) = true → ∃ t : State, exec (.exportFrame h va size fl frame) s = .next (t.reply h 0 []) ∧
          t = { u with grants := t.grants } ∧ (⟨c.no, va.extractLsb' 40 11, u.localFrame frame.toNat, 2 ^ b⟩ : Grant) ∈ t.grants) ∧
        (bits va.toNat 51 13 = 0 → bits va.toNat 8 8 = 0 → bits va.toNat 0 7 = 0 →
          ((∃ x ∈ s.grants, x.node = va.extractLsb' 40 11 ∧ x.base = bits va.toNat 16 24 * 2 ^ 16) → ∃ t : State, exec (.withdrawExport h va) s = .next (t.reply h 0 []) ∧
            t = { u with grants := t.grants } ∧ ∀ x, x ∈ t.grants ↔ x ∈ s.grants ∧ ¬ (x.node = va.extractLsb' 40 11 ∧ x.base = bits va.toNat 16 24 * 2 ^ 16)) ∧
          ((∀ x ∈ s.grants, x.node = va.extractLsb' 40 11 → x.base ≠ bits va.toNat 16 24 * 2 ^ 16) →
            exec (.withdrawExport h va) s = .next (u.reply h 2 [])))))) ∧
  (∀ (s : State) (id va frame : Nat) (r : Request) (leaf : Leaf) (tag : BitVec 16) (node : BitVec 11), s.request? id = some r →
    r.job = .migrate va leaf frame tag node → (∀ c, s.ctx? r.ctx = some c → c.waiting = []) → id < s.fresh →
    let head : CmdHead := ⟨node, BitVec.ofNat 8 r.ctx, tag, 3⟩
    let after := s.endCopied leaf.frame (2 ^ leaf.bits)
    (isRemote leaf.frame = true →
      let fails := ((s.engineFault r 0x06 leaf.frame).dropRequest r.id).endCopied leaf.frame (2 ^ leaf.bits)
      (∀ t, r.since = some t → s.time < t + 10000000 → exec (.pageMigrationComplete id .none) s = .next (s.setSend id r.port r.since)) ∧
      (∀ t, r.since = some t → t + 10000000 ≤ s.time → exec (.pageMigrationComplete id .none) s = .next (fails.reply head 6 [])) ∧
      exec (.pageMigrationComplete id .refused) s = .next (fails.reply head 6 [])) ∧
    (isRemote leaf.frame = false →
      (s.pinned leaf.frame (2 ^ leaf.bits) = true →
        exec (.pageMigrationComplete id .none) s = .next ((after.dropRequest r.id).reply head 6 [])) ∧
      (s.pinned leaf.frame (2 ^ leaf.bits) = false → ∀ x, (x = .data [] ∨ s.sentTo (s.endMigration r va leaf frame head []) = none) →
        ∃ t ms, exec (.pageMigrationComplete id x) s = .next t ∧
        (∀ x ∈ t.requests, x.id = id → x.job = .forward leaf.frame (2 ^ leaf.bits) frame) ∧ (∃ x ∈ t.requests, x.id = id) ∧
        t.outbox = s.outbox ++ ms ++ [.reply node (replyBytes head 0 [])]))) ∧
  (∀ (s : State) (id old size frame : Nat) (r : Request) (c : Context), s.request? id = some r → r.job = .forward old size frame → s.ctx? r.ctx = some c →
    exec (.pageMigrationComplete id .none) s = .next { s with
      requests := s.requests.filter (fun x => x.id != id)
      contexts := (if regionOf old = .hbm then s.updCtx r.ctx (fun c => { c with pool := c.pool ++ [old] }) else s).contexts } ∧
    (∀ pa, old ≤ pa → pa < old + size → (∀ x ∈ s.requests, ∀ o z f, x.job = .forward o z f → x = r) → s.forwarded pa = pa - old + frame)) ∧
  (∀ (node : BitVec 11) (msg : List (BitVec 8)) (src : RemoteReply), let h := headOf node msg
    (∀ i, messageCommand node msg src = some i → leNat ((msg.drop 4).take 4) = msg.length - 12 ∧ msg.length ≤ 460 ∧ 1 ≤ h.code.toNat ∧ h.code.toNat ≤ 13) ∧
    (∀ d, msg = [7#8, h.ctx] ++ leBytes 2 h.tag.toNat ++ leBytes 4 0 ++ d → d.length = 4 → messageCommand node msg src = some (.halt h))) ∧
  (∀ a b : Span, spansMeet a b = true ↔ ∃ x, a.base ≤ x ∧ x < a.base + a.size ∧ b.base ≤ x ∧ x < b.base + b.size)

/-- 18, R333, R335, R339, R341, R343, R344; 10, R170, R188, R189, R191, R194; 17, R330: what comes about on its own. A reset leaves what ResetState says, with deep
memory as it was; a throttle and a lowering only lower clocks, the latter not below
the floor that promises set; a trip raises every running context's halt line with cause 0x20, and 10 ms later the
device resets; energy adds up; a failed link sends a request out elsewhere, and one not answered for 10 ms faults at an address that it waits for, a load as if it
were refused; remote and host accesses are performed at their
home, or forwarded once where the page has moved, and answered, or refused; a write-back brings dirty bytes of a line home, all of them where the line leaves; counts are halved every 1,048,576 ns, and a
count at its threshold starts again from 0 and leaves a record and a signal; an uncorrectable error poisons what is dirty or at its home, and a clean line leaves
its cache.
Where the manual leaves a corner open, the reading is the model's own (logs 40 to 45, 51, 55, 59). -/
def Obligations.DeviceEvents : Prop :=
  (∀ (s : State) (failed : BitVec 36), s.mem.wf = true →
    (∃ t, exec (.reset failed) s = .next t ∧ t.contexts = [] ∧ t.groups = [] ∧ t.workgroups = [] ∧ t.requests = [] ∧ t.grants = [] ∧ t.hostNode = none ∧
      t.node = Config.strapNode ∧ t.failedPorts = failed ∧ t.trippedAt = none ∧
      ∀ a, t.mem.get a = if a < hbmSize then 0 else s.mem.get a) ∧
    (∀ z, s.trippedAt = some z → (z + 10000000 ≤ s.time → exec (.tripReset failed) s = exec (.reset failed) s) ∧
      (s.time < z + 10000000 → exec (.tripReset failed) s = .next s)) ∧
    (s.trippedAt = none → exec (.tripReset failed) s = .next s)) ∧
  (∀ (s : State) (die temp clock : Nat), s.dies.length = 4 →
    ((4 ≤ die ∨ temp < 1050 ∨ clock = 0 ∨ (s.die die).clock ≤ clock) → exec (.thermalThrottle die temp clock) s = .next s) ∧
    (die < 4 → 1050 ≤ temp → temp < 2 ^ 16 → 0 < clock → clock < (s.die die).clock → ∃ t, exec (.thermalThrottle die temp clock) s = .next t ∧
      t = { s with dies := t.dies, contexts := t.contexts } ∧ (t.die die).clock = clock ∧ (t.die die).temp = temp ∧ (∀ i, i ≠ die → t.die i = s.die i) ∧
      t.contexts = s.contexts.map (fun c => if c.coreList.any (fun i => i / 32 == die) then { c with clock := min c.clock clock } else c)) ∧
    (die < 4 → 1150 ≤ temp → temp < 2 ^ 16 → ∃ t, exec (.thermalTrip die temp) s = .next t ∧ t = { s with dies := t.dies, contexts := t.contexts, trippedAt := t.trippedAt } ∧
      (s.trippedAt = none → t.trippedAt = some s.time) ∧ (t.die die).temp = temp ∧
      ∀ n c, s.ctx? n = some c → c.run = .running → ∃ x j, t.ctx? n = some x ∧ x.run = .raised ∧ x.stop = some j ∧ j.halt.cause = 0x20 ∧ j.halt.origin = 3) ∧
    (die < 4 → temp < 1150 → exec (.thermalTrip die temp) s = .next s)) ∧
  (∀ (s : State) (ctx clock : Nat) (c : Context), s.ctx? ctx = some c →
    ((∀ l ∈ c.launches, l.ended = true) → s.clockFloor c = 0) ∧
    (clock = 0 ∨ c.clock ≤ clock ∨ clock < s.clockFloor c → exec (.clockLowering ctx clock) s = .next s) ∧
    (0 < clock → clock < c.clock → s.clockFloor c ≤ clock → ∃ t, exec (.clockLowering ctx clock) s = .next t ∧ t = { s with dies := t.dies, contexts := t.contexts } ∧
      t.ctx? ctx = some { c with clock := clock } ∧ ∀ i, (t.die i).clock ≤ (s.die i).clock)) ∧
  (∀ (s : State) (ctx charge n m : Nat) (c : Context), s.ctx? ctx = some c → ∃ t x, exec (.energyCountUpdate ctx charge [(n, m)]) s = .next t ∧
    t = { s with contexts := t.contexts } ∧ t.ctx? ctx = some x ∧ x.charges = c.charges + charge ∧ x.budget = c.budget ∧
    x.launches = c.launches.map (fun l => if l.ended = false ∧ l.no = n then { l with used := l.used + m } else l)) ∧
  (∀ (s : State) (id port : Nat) (r : Request) (c : Context) (a : Nat), s.request? id = some r → s.ctx? r.ctx = some c → s.awayAddr r = some a →
    (∀ n, s.portOf r = some n → r.port = none → n < 36 ∧ c.args.ports.getLsbD n = true) ∧
    (s.portOf r ≠ some port → c.args.ports.getLsbD port = true → ∃ t, exec (.linkRetry id port) s = .next t ∧ t = { s with requests := t.requests } ∧
      t.request? id = some { r with port := some port }) ∧
    (s.portOf r = some port ∨ c.args.ports.getLsbD port = false → exec (.linkRetry id port) s = .next s) ∧
    (∀ z, s.live? id = some r → r.since = some z →
      (s.time < z + 10000000 → exec (.requestTimeout id) s = .next s) ∧
      (z + 10000000 ≤ s.time →
        let load := ((∃ ws ps src acq, r.job = .load ws ps src acq) ∨ (∃ ws ls, r.job = .reload ws ls) ∨ ((∃ ls, r.job = .fetch ls) ∧ opOf r.word ≠ 0x6F))
        (load → ∀ t, exec (.loadDataReturn id .refused) s = .next t → exec (.requestTimeout id) s = .next (t.setSend id r.port (some s.time))) ∧
        (∀ va leaf frame tag node, r.job = .migrate va leaf frame tag node → exec (.requestTimeout id) s = exec (.pageMigrationComplete id .none) s) ∧
        (¬ load → (∀ va leaf frame tag node, r.job ≠ .migrate va leaf frame tag node) → ∃ t, exec (.requestTimeout id) s = .next t ∧
          t = { s with requests := t.requests, contexts := t.contexts } ∧
          (c.run = .running → ∃ x j, t.ctx? r.ctx = some x ∧ x.run = .raised ∧ x.stop = some j ∧ j.halt.cause = 0x06 ∧ j.halt.origin = 2 ∧
            ∃ a' ∈ s.awayAddrs r, j.halt.addr = BitVec.ofNat 64 a'))))) ∧
  (∀ (s : State) (q : RemoteReq), let p := s.forwarded q.off
    ((∀ pa, (∀ c ∈ s.contexts, pa < c.args.reserve.base ∨ c.args.reserve.base + c.args.reserve.size ≤ pa) → s.outsideByte pa = s.mem.get pa) ∧
      ((∀ r ∈ s.requests, ∀ old size frame, r.job ≠ .forward old size frame) → p = q.off)) ∧
    ((∀ x ∈ s.grants, x.node ≠ q.node) → exec (.remoteRequestArrival q) s = .next (s.answer q.node false []) ∧
      (s.hostNode ≠ some q.node → exec (.hostFWrite q) s = .next (s.answer q.node false []))) ∧
    (∀ x ∈ s.grants, x.node = q.node → (s.ctx? x.ctx).isSome = true → isRemote p = true → x.base ≤ q.off → q.off + accSize q.acc ≤ x.base + x.size →
      accAligned q.off q.acc = true →
        exec (.remoteRequestArrival q) s = .next { s with outbox := s.outbox ++ [.request (sysNode p) (sysOff p) q.acc q.tracked] }) ∧
    (∀ x ∈ s.grants, x.node = q.node → (s.ctx? x.ctx).isSome = true → isRemote p = false →
      (∀ n, q.acc = .read n → x.base ≤ q.off → q.off + n ≤ x.base + x.size → ∃ t, exec (.remoteRequestArrival q) s = .next t ∧ t.mem = s.mem ∧
        t.outbox = s.outbox ++ [.answer q.node true ((List.range n).map (fun i => s.outsideByte (p + i)))]) ∧
      (∀ bs, q.acc = .write bs → x.base ≤ q.off → q.off + bs.length ≤ x.base + x.size → ∃ t, exec (.remoteRequestArrival q) s = .next t ∧
        t.outbox = s.outbox ++ [.answer q.node true []] ∧ t.mem.read p bs.length = bs ∧
        (∀ a, a < p ∨ p + bs.length ≤ a → t.mem.get a = s.mem.get a)) ∧
      (∀ op v w, q.acc = .atom op v w → x.base ≤ q.off → q.off + 4 ≤ x.base + x.size → q.off % 4 = 0 → ∃ t, exec (.remoteRequestArrival q) s = .next t ∧
        t.outbox = s.outbox ++ [.answer q.node true (s.mem.read p 4)] ∧
        t.mem.read p 4 = leBytes 4 (atomNew op (leWord (s.mem.read p 4)) v w).toNat ∧
        (∀ a, a < p ∨ p + 4 ≤ a → t.mem.get a = s.mem.get a))) ∧
    (s.hostNode = some q.node → isRemote p = false →
      (∀ bs, q.acc = .write bs → q.off + bs.length ≤ hbmSize → ∃ t, exec (.hostFWrite q) s = .next t ∧ t.outbox = s.outbox ++ [.answer q.node true []] ∧
        t.mem.read p bs.length = bs ∧ (∀ a, a < p ∨ p + bs.length ≤ a → t.mem.get a = s.mem.get a)) ∧
      (q.acc = .signal → q.off % 8 = 0 → q.off + 8 ≤ hbmSize → ∃ t, exec (.hostFWrite q) s = .next t ∧
        t.mem.nat p 8 = (s.mem.nat p 8 + 1) % 2 ^ 64 ∧ (∀ a, a < p ∨ p + 8 ≤ a → t.mem.get a = s.mem.get a)))) ∧
  (∀ (s : State) (n no : Nat) (drop : Bool),
    (findLine (s.clusterCache n) no = none → drop = false → exec (.cacheWriteBack (.cluster n) no drop .none) s = .next s.tick) ∧
    (findLine (s.core n).l1 no = none → drop = false → exec (.cacheWriteBack (.l1 n) no drop .none) s = .next s.tick) ∧
    (findLine (s.core n).tileBuf no = none → exec (.cacheWriteBack (.tileBuffer n) no drop .none) s = .next s) ∧
    (∀ l, findLine (s.clusterCache n) no = some l → isRemote (128 * no) = false → ∃ (t : State) (m : BitVec 128),
      exec (.cacheWriteBack (.cluster n) no drop .none) s = .next t ∧ (drop = true → m = BitVec.allOnes 128) ∧
      (∀ i, i < 128 → m.getLsbD i = m.getLsbD (i / 8 * 8)) ∧
      t.groups = s.groups ∧ t.requests = s.requests ∧ t.cores = s.cores ∧ t.outbox = s.outbox ∧
      (∀ i, i < 128 → t.mem.get (128 * no + i) = if l.dirty.getLsbD i && m.getLsbD i then l.bytes.get i else s.mem.get (128 * no + i)) ∧
      (∀ a, a / 128 ≠ no → t.mem.get a = s.mem.get a) ∧ (drop = true → findLine (t.clusterCache n) no = none)) ∧
    (((s.clusterCache (clusterOf n)).filter (fun x => x.no != no && clusterSetOf x.no == clusterSetOf no)).length < 16 →
      ∃ t, exec (.cacheWriteBack (.l1 n) no true .none) s = .next t ∧ t.mem = s.mem ∧ t.groups = s.groups ∧ findLine (t.core n).l1 no = none)) ∧
  (∀ (s : State) (die no : Nat), die < s.dies.length → ∃ t, exec (.remoteReadLineDrop die no) s = .next t ∧ t = { s with dies := t.dies } ∧
    findLine (t.die die).remote no = none ∧ ∀ i, i ≠ die → t.die i = s.die i) ∧
  (∀ (s : State), (s.time < (s.decays + 1) * 1048576 → exec .hotnessDecay s = .next s) ∧
    ((s.decays + 1) * 1048576 ≤ s.time →
      exec .hotnessDecay s = .next { s with hot := s.hot.map (fun h => { h with count := h.count / 2 }), decays := s.decays + 1 })) ∧
  (∀ (s : State) (ctx block req : Nat) (c : Context), s.ctx? ctx = some c →
    (c.owns (65536 * block) = false ∨ (block, req) ∉ s.notices → exec (.hotnessNotification ctx block req) s = .next s) ∧
    (c.owns (65536 * block) = true → (block, req) ∈ s.notices → isRemote c.args.ringCounter.toNat = false →
      let v := s.mem.nat c.args.ringCounter.toNat 8
      let at_ := c.args.ringBase + 16 * (v % c.args.ringN)
      (c.args.ringCounter.toNat + 8 ≤ at_ ∨ at_ + 16 ≤ c.args.ringCounter.toNat) → ∃ t, exec (.hotnessNotification ctx block req) s = .next t ∧
        t.mem.read at_ 16 = leBytes 8 (65536 * block) ++ leBytes 2 req ++ leBytes 2 c.args.threshold ++ leBytes 4 s.time ∧
        t.mem.nat c.args.ringCounter.toNat 8 = (v + 1) % 2 ^ 64 ∧ t.notices = s.notices.erase (block, req))) ∧
  (∀ (t : Nat) (h : HotCount), (t = 0 ∨ min 65535 (h.count + 1) < t → (h.more t).count = min 65535 (h.count + 1)) ∧
    (t ≠ 0 → t ≤ min 65535 (h.count + 1) → (h.more t).count = 0)) ∧
  (∀ (s : State) (block req : Nat), let n := ((s.hot.find? (fun h => h.block == block && h.req == req)).map (fun h => h.count)).getD 0
    (s.countHot block req).notices = s.notices ++
      if s.threshold block ≠ 0 ∧ s.threshold block ≤ min 65535 (n + 1) then [(block, req)] else []) ∧
  (∀ (s : State) (w n no : Nat) (p : BitVec 4),
    (regionOf (32 * w) = .hbm ∨ regionOf (32 * w) = .deep → (∀ k ∈ s.copied, k.1 ≠ w / 4) → ∃ t, exec (.uncorrectableError (.home w)) s = .next t ∧ t = { s with poison := t.poison } ∧
      ∀ x, x ∈ t.poison ↔ x = w ∨ x ∈ s.poison) ∧
    (∃ t, exec (.uncorrectableError (.l1 n no p)) s = .next t ∧ t = { s with cores := t.cores } ∧
      (∀ l, findLine (s.core n).l1 no = some l → (s.core n).l1.filter (fun x => x.no == no) = [l] → findLine (t.core n).l1 no =
        if l.dirty = 0 then none else some { l with poison := l.poison ||| p, taint := l.taint ||| (l.dirty &&& wordBytes p) })) ∧
    (∃ t, exec (.uncorrectableError (.cluster n no p)) s = .next t ∧ t = { s with clusters := t.clusters }) ∧
    (∃ t, exec (.uncorrectableError (.tileBuffer n no p)) s = .next t ∧ t = { s with cores := t.cores } ∧
      (∀ l, (s.core n).tileBuf.filter (fun x => x.no == no) = [l] → l.dirty ≠ 0 → findLine (t.core n).tileBuf no =
        some { l with poison := l.poison ||| p, taint := l.taint ||| (l.dirty &&& wordBytes p) })) ∧
    (∃ t, exec (.uncorrectableError (.tiles n no)) s = .next t ∧ t = { s with cores := t.cores } ∧ findLine (t.core n).tiles no = none) ∧
    (∃ t, exec (.uncorrectableError (.constants n no)) s = .next t ∧ t = { s with cores := t.cores } ∧ findLine (t.core n).constants no = none) ∧
    (n < s.dies.length → ∃ t, exec (.uncorrectableError (.remote n no)) s = .next t ∧ t = { s with dies := t.dies } ∧ findLine (t.die n).remote no = none))

/-- 11, R218–R221; 06, R91–R106; 17, R318: launches, placement, saves, moves and stops. LAUNCH is illegal in a deterministic launch and in a handler group; it
waits for its release, is admitted or refused, and the result is delivered; an ended launch signals its counter once, when what it sent to other devices is
acknowledged and its dirty bytes have left. A cluster that may be placed has its
workgroups and groups at their start; nothing is placed before a launch waits with its dependence met. A waiting workgroup may be saved, and comes back when a
wait of it is over; a vacate stops, moves and restores, its groups at unit boundaries, or as a halt of the context stopped them, and is answered when its cores
are free and hold nothing dirty; the last unit that stops halts its context.
Where the manual leaves a corner open, the reading is the model's own (logs 18, 21, 24, 36, 38, 50, 54): so are that LAUNCH's release is a request for which the
slot waits (log 48), and what a lane of a new group holds where the manual gives no value (log 3). -/
def Obligations.LaunchesPlacementAndStops : Prop :=
  (∀ (s : State) (e : Env) (g : BitVec 3) (d a : BitVec 7) (la : BitVec 4), s.env = some e →
    (e.l.det = true ∨ e.g.isHandler = true → Faults (.launch g d a la) s e .illegal) ∧
    (e.l.det = false → e.g.isHandler = false → e.act g = 0 → LongWord (.launch g d a la) s e la (.load [] [] [] none)) ∧
    (e.l.det = false → e.g.isHandler = false → ∀ va : DWord, e.agree g (fun l => l.dword (e.v a)) va →
      ∃ t, exec (.launch g d a la) s = .next t ∧
        t = { s with groups := t.groups, requests := s.requests ++ [e.request s (.release .dev (.launch va.toNat (e.v d) (e.act g)))],
                     fresh := s.fresh + 1, issue := none } ∧ (∀ k, k ≠ e.g.gid → t.group? k = s.group? k) ∧
        t.group? e.g.gid = some ({ e.g with windows := e.g.windows ++ [e.window s la.toNat] }.updSlot e.iss.slotB
          (fun x => { x with wait := some (.request s.fresh), redo := none })))) ∧
  (∀ (s : State) (id dest : Nat) (desc : List (BitVec 8)) (act : BitVec 32) (r : Request) (g : Group) (c : Context) (k : Kernel), s.live? id = some r →
    r.job = .launch desc dest act → s.group? r.gid = some g → s.ctx? r.ctx = some c → c.kernel? (leNat (desc.take 8)) = some k →
    let l := launchOf desc k false 0 s.time
    let out := fun (v : Nat) => (lanesOf act).map (fun i => (⟨i, dest, leBytes 8 v⟩ : LaneWrite))
    (s.admission c l k.regs = 0 → ∃ t u x y, exec (.launchAdmissionReply id) s = .next t ∧ DeliversTo u t r g (out (s.promiseOf % 2 ^ 48)) [] [] ∧
      u = { s with contexts := u.contexts, fresh := s.fresh + 1 } ∧ u.ctx? r.ctx = some x ∧ x.launches = c.launches ++ [y] ∧ y.no = c.nextGrid ∧
      y.reserved = l.energy ∧ y.handle = l.handle ∧ y.kernel = k ∧ y.placed = []) ∧
    (s.admission c l k.regs ≠ 0 → ∃ t, exec (.launchAdmissionReply id) s = .next t ∧
      DeliversTo { s with fresh := s.fresh + 1 } t r g (out (s.admission c l k.regs * 2 ^ 48)) [] [])) ∧
  (∀ (s : State) (ctx n : Nat) (c : Context) (l : Launch), s.ctx? ctx = some c → c.launch? n = some l →
    (l.ended = false ∨ l.signalled = true ∨ c.run ≠ .running ∨ s.launchBusy ctx n = true ∨ (∃ w ∈ s.workgroups, w.ctx = ctx ∧ w.launch = n ∧ w.freed = false) →
      exec (.launchCompletionSignal ctx n .none) s = .next s) ∧
    (s.launchBusy ctx n = true ↔ ∃ r ∈ s.requests, r.ctx = ctx ∧ (r.launch = n ∨ r.gid = 0) ∧ r.remoteAccess = true) ∧
    (∀ u, l.ended = true → l.signalled = false → c.run = .running → s.launchBusy ctx n = false → (∀ w ∈ s.workgroups, w.ctx = ctx → w.launch = n → w.freed = true) →
      (if l.counter = 0 then .ok (s.pushContext c) else (s.pushContext c).signalVa ctx (ctx, n + 1) l.counter) = .ok u →
      (u.outbox = s.outbox → ∃ t x y, exec (.launchCompletionSignal ctx n .none) s = .next t ∧ t.ctx? ctx = some x ∧ x.launch? n = some y ∧ y.signalled = true ∧
        (∀ w ∈ t.workgroups, ¬ (w.ctx = ctx ∧ w.launch = n)) ∧ t.mem = u.mem) ∧
      (s.acked .none l.sent u = .waits → exec (.launchCompletionSignal ctx n .none) s =
        .next (s.updLaunch ctx n (fun l => { l with sent := some (l.sent.getD s.time) })))) ∧
    (∀ p : CorePlace, let k := l.kernel
      (l.waiting = false → exec (.clusterPlacement ctx n [p]) s = .next s) ∧
      (∀ slots, c.run = .running → l.waiting = true → l.wgs = 1 → s.passed ctx l = false → s.movedClusters ctx n = [] → s.firstBack c l l.nextCluster 0 = false → p.core ∈ c.openCores →
        clusterOf p.core ∈ c.homesFor l → c.args.cores.getLsbD p.core = true → p.subs.length = l.groups → l.ls ≤ s.freeLs p.core →
        s.recipeRoom p.core k = true → takeSlots s p.core p.subs [] = some slots →
        ∃ t w gs x y, exec (.clusterPlacement ctx n [p]) s = .next t ∧ t.workgroups = s.workgroups ++ [w] ∧ t.groups = s.groups ++ gs ∧ t.mem = s.mem ∧
          w.core = p.core ∧ w.ls = [] ∧ w.lsSize = l.ls ∧ w.resident = true ∧ w.slots = slots ∧ gs.length = slots.length ∧
          (∀ g ∈ gs, g.ctx = c.no ∧ g.launch = l.no ∧ g.core = p.core ∧ g.resident = true ∧ g.slotNo ∈ slots ∧ g.frnd = l.frnd ∧ g.ftrap = l.ftrap ∧
            g.exited = 0 ∧ g.count = 0 ∧ g.a.path = some ⟨BitVec.ofNat 64 l.handle, g.lanesOn, none, []⟩ ∧ g.b.path = none ∧ ∀ i, i < 32 → g.lane i = Lane.start) ∧
          t.ctx? ctx = some x ∧ x.launch? n = some y ∧ y.placed = l.placed ++ [⟨l.nextCluster, clusterOf p.core, false, false⟩]))) ∧
  (∀ (s : State) (id : Nat) (w : Workgroup) (c : Context) (k : Kernel) (l : Launch), s.wg? id = some w → s.ctx? w.ctx = some c →
    c.launch? w.launch = some l → l.kernel = k →
    (s.maySave c k w = false → exec (.waitingWorkgroupSave id) s = .next s) ∧
    (s.maySave c k w = true → ∃ t x, exec (.waitingWorkgroupSave id) s = .next t ∧ t.wg? id = some x ∧ x.resident = false ∧ x.ls = w.ls ∧
      ∀ g ∈ s.groupsIn w, ∃ y, t.group? g.gid = some y ∧ y.resident = false) ∧
    (∀ p : CorePlace,
      (s.satisfied w = true ↔ w.resident = false ∧ w.moved = false ∧ w.ended = false ∧ (s.groupsIn w).all s.waitsVisible = false) ∧
      (s.satisfied w = false → exec (.waitingWorkgroupRestore id p) s = .next s) ∧
      let quiet := ∀ r ∈ s.requests, (∀ ws ps src acq, r.job ≠ .load ws ps src acq) ∧ ∀ ws ls, r.job ≠ .reload ws ls
      (s.passed c.no l = true ∨ s.firstBack c l w.clu w.wgc = true ∨ s.movedBefore c l w.clu = true → exec (.waitingWorkgroupRestore id p) s = .next s) ∧
      (∀ t, quiet → s.firstBack c l w.clu w.wgc = false → s.movedBefore c l w.clu = false → c.run = .running → s.satisfied w = true → clusterOf p.core ∈ s.returnHomes c l w → p.core ∈ c.openCores → s.passed c.no l = false →
        s.returnWorkgroup l k w p = some t →
        exec (.waitingWorkgroupRestore id p) s = .next (t.updLaunch c.no l.no (fun l => l.homeAt w.clu (clusterOf p.core))) ∧
        ∃ x, t.wg? id = some x ∧ x.resident = true ∧ x.core = p.core ∧ x.ls = w.ls) ∧
      (∀ t, quiet → s.firstBack c l w.clu 0 = false → c.no = w.ctx → c.run = .running → w.resident = false → w.moved = true → s.clusterWgs w.ctx w.launch w.clu = [w] → w.ended = false →
        (s.movedClusters w.ctx w.launch).head? = some w.clu → p.core ∈ c.openCores → s.passed w.ctx l = false →
        s.returnWorkgroup l k w p = some t → ∃ v x y z, exec (.clusterRestore w.ctx w.launch w.clu [p]) s = .next v ∧ v.wg? id = some x ∧ x.resident = true ∧
          x.moved = false ∧ x.core = p.core ∧ v.groups = t.groups ∧ v.ctx? w.ctx = some y ∧ y.launch? w.launch = some z ∧
          z.placed = mapWhere (fun q => q.clu == w.clu) (fun q => { q with cc := clusterOf p.core }) l.placed))) ∧
  (∀ (s : State) (g : Group) (c : Context) (w : Workgroup) (gid : Nat), s.group? gid = some g → s.ctx? g.ctx = some c → s.wgOf g = some w →
    (g.isHandler = true →
      (c.run = .halted → g.resident = true → g.core ∈ c.vacated → exec (.groupVacateStop gid) s = .next (s.updGroup gid (fun x => { x with resident := false }))) ∧
      (c.run ≠ .halted ∨ g.core ∉ c.vacated → exec (.groupVacateStop gid) s = .next s)) ∧
    (g.isHandler = false → (c.run = .raised ∨ w.moved = false ∨ g.resident = false ∨
      (c.run = .running ∧ (s.jointOpen w.ctx w.launch w.clu = true ∨ s.savable g false = false))) → exec (.groupVacateStop gid) s = .next s) ∧
    (g.isHandler = false → c.run ≠ .raised → w.moved = true → g.resident = true →
      (c.run = .running → s.jointOpen w.ctx w.launch w.clu = false ∧ s.savable g false = true) → w.resident = true → w.ended = false →
      (∃ x ∈ s.groupsIn w, x.gid ≠ gid ∧ x.resident = true) →
      ∃ t y, exec (.groupVacateStop gid) s = .next t ∧ t.group? gid = some y ∧ y.resident = false ∧ t.workgroups = s.workgroups)) ∧
  (∀ (s : State) (ctx : Nat) (c : Context), s.ctx? ctx = some c →
    (∀ h n, c.vacating = some (h, n) →
      (s.vacateDone c = false → exec (.vacateReply ctx) s = .next s) ∧
      (s.vacateDone c = true → c.waiting = [] → ∃ t x, exec (.vacateReply ctx) s = .next t ∧ t.ctx? ctx = some x ∧ x.vacating = none ∧
        (∀ i, i < 128 → (x.args.cores.getLsbD i = true ↔ c.args.cores.getLsbD i = true ∧ i ∉ c.vacated)) ∧
        let u := s.track (s.pushCores c.no c.vacated) c.no 0
        t.outbox = u.outbox ++ [.reply h.node (replyBytes h 0 [])] ∧ t.mem = u.mem)) ∧
    (∀ u i, (c.run = .running → exec (.unitStop ctx u) s = .next s) ∧
      (c.run = .raised → c.stop = some i → u ∉ i.pending → exec (.unitStop ctx u) s = .next s) ∧
      (c.run = .raised → c.stop = some i → i.pending = [u] → (∀ n, u ≠ .core n) → c.waiting = [] → 64 ≤ c.args.stopArea.size →
        ∃ t x, exec (.unitStop ctx u) s = .next t ∧ t.ctx? ctx = some x ∧ x.run = .halted ∧ x.halting = none ∧
          x.records.head? = some (summaryRecord { i with pending := [], lastStop := s.time } x.nrec s.time (decide (c.args.stopArea.size / 64 < x.nrec))) ∧
          (c.halting = none → t.outbox = s.outbox) ∧ (∀ h, c.halting = some h → t.outbox = s.outbox ++ [.reply h.node (replyBytes h 0 [])]))))

/-! ### Encodings, the step, reset, and the invariant -/

/-- 03, R29–R36, R40: some words of the spec's encoding tables (3-5, 4-7, 8-6, 9-2, 11-10, 12-5, 14-7, 15-14, 16-2, 17-10) decode to the instructions
that they stand for there. -/
def Obligations.DecodedWords : Prop :=
  decodeWf 0xFC000003 = .ok (.hivl 3) ∧ decodeWf 0xF8004000 = .ok (.himm 0 0x4000) ∧ decodeWf 0x3A00800C = .ok (.movi 0 1 12) ∧
  decodeWf 0x4004800D = .ok (.icmpR 0 1 2 0 13) ∧ decodeWf 0x74880620 = .ok (.ldGB32 2 16 6 2 0 0) ∧ decodeWf 0x7E00860D = .ok (.stGB32 0 1 6 3 1) ∧
  decodeWf 0x9A058000 = .ok (.fence 0 1 3) ∧ decodeWf 0x58000004 = .ok (.exit 0) ∧ decodeWf 0x00018104 = .ok (.iaddR 0 3 1 2 0) ∧
  decodeWf 0x2E078F55 = .ok (.xorI 0 15 15 0x55) ∧ decodeWf 0x603DC290 = .ok (.lperm 0 15 7 5 16) ∧ decodeWf 0x6A008006 = .ok (.smov 0 1 3) ∧
  decodeWf 0x5A800051 = .ok (.kill 2 5 1) ∧ decodeWf 0xD40A0C0B = .ok (.psettleAsync 0 20 12 0 3) ∧ decodeWf 0x94081208 = .ok (.redAdd 0 16 9 2 0) ∧
  decodeWf 0x84048404 = .ok (.ldL 0 9 4 0 1) ∧ decodeWf 0x9230850C = .ok (.atomFaddF32 0 33 2 0 3 0) ∧ decodeWf 0x9A258001 = .ok (.pfence 0 9 3 0) ∧
  decodeWf 0x9C050C00 = .ok (.cp 0 10 12) ∧ decodeWf 0xD8861000 = .ok (.skadd 2 12 16) ∧ decodeWf 0xA6040206 = .ok (.ffma 0 8 2 3 0) ∧
  decodeWf 0xBC02861E = .ok (.fcvt 0 5 6 0 7 1 0) ∧ decodeWf 0xC0088420 = .ok (.mma 0 2 1 4 2 0) ∧ decodeWf 0xE0040019 = .ok (.rtag 0 8 3 1) ∧
  decodeWf 0xE6060B21 = .ok (.hrd 0 12 11 2 1) ∧ decodeWf 0xEE028612 = .ok (.stopr 0 5 6 1)

/-- 03, R29–R36, R40: decoding and encoding agree. Every well-formed word instruction, with every operand at every value, is encoded, and its word decodes to it;
and a word that decodes to an instruction is the one that the instruction is encoded as, so that no two words mean one instruction. -/
def Obligations.DecodeEncode : Prop :=
  (∀ i : Instr, i.wf = true → i.isWord = true → ∃ w, encode i = some w ∧ decodeWf w = .ok i) ∧
  (∀ (w : Word) (i : Instr), decodeWf w = .ok i → i.isWord = true ∧ encode i = some w)

/-- 06, R86–R88; 03, R30, R34, R38: a step runs the decoded instruction. Where the next move is an issue, its sub-core takes the slot, and the word at its PC
decodes, the step is exec of the instruction in the state in which the word has issued: time has passed, the word is counted, and the windows of the slot have
moved on. A word that does not decode is an illegal-instruction fault instead. An event that comes about has its meaning from exec, and so has the command
in a message; a message that is none is answered as an invalid argument. While lines of a page in migration are copied, what a step performs at one of the two
frames holds at the other too (10, R190).
Where the manual leaves a corner open, the reading is the model's own (logs 1, 10, 40, 60). -/
def Obligations.StepRunsDecodedWord : Prop :=
  (∀ (s : State) (m : Move) (r : List Move), s.agenda = m :: r →
    let u := ({ s with agenda := r } : State).advance m.clocks m.ns
    (∀ i, m.act = .event i → i.isWord = false → step s = s.ends (exec i u)) ∧
    (∀ node bytes src, m.act = .message node bytes src →
      (∀ i, messageCommand node bytes src = some i → step s = s.ends (exec i u)) ∧
      (messageCommand node bytes src = none → step s = s.ends (.next (u.noCommand (headOf node bytes)))))) ∧
  (∀ s t : State, t.copied = [] → s.ends (.next t) = .next t) ∧
  (∀ (s : State) (f : Fault), s.ends (.fault f) = .fault f) ∧
  ∀ (s : State) (m : Move) (r : List Move) (g : Group) (b : Bool) (p : Path) (c : Context) (l : Launch) (w : Word) (e : Env),
    s.agenda = m :: r → m.act = .issue g.gid b →
    let u := ({ s with agenda := r } : State).advance m.clocks m.ns
    let iss := Issue.of g b p.pc w
    u.group? g.gid = some g → u.picked g.core g.sub = some (g, b) → (g.slot b).path = some p → u.ctx? g.ctx = some c → c.launch? g.launch = some l →
    (g.isHandler = false → (g.slot b).again = false → g.count < l.bound) → u.codeWord g.ctx g.core p.pc.toNat = some w →
    ({ u with issue := some iss } : State).env = some e →
    (∀ x, opOf w < 0x7C → decodeWf w = .error x → ∃ f, (u.issues g iss).env = some f ∧ step s = s.ends (.next (f.takeFault .illegal (u.issues g iss)))) ∧
    ∀ i, decodeWf w = .ok i →
      (0x7C ≤ opOf w → step s = s.ends (exec i (u.issues g iss))) ∧
      (opOf w < 0x7C → hintsLegal e.hints w = false → ∃ f, (u.issues g iss).env = some f ∧ step s = s.ends (.next (f.takeFault .illegal (u.issues g iss)))) ∧
      (∀ reads writes, opOf w < 0x7C → hintsLegal e.hints w = true → spans e.k e.hints (u.matrixCtl e i) i = (reads, writes) →
        ((g.slot b).again = true ∨
          ((g.breaches b reads writes i = false ∨ waitsPending i = true) ∧ (∀ q ∈ reads ++ writes, q.off + q.size ≤ e.g.regs e.k) ∧
            u.consumesPoison e (e.act (guardOf w)) reads i = 0 ∧ g.tags = [] ∧ u.originReplays e i = [])) →
        step s = s.ends (exec i (u.issues g { iss with reads := reads, writes := writes })))

/-- 18, R343, R337, R333; 10, R175: the machine right after reset. Every byte of HBM is zero, there is no context, no work and no cached line, no host node, no
export, nothing sent, no hint of a stop, NODE is what the balls give, no port is left out, and memory is in its canonical form. Of these the manual states HBM's
bytes, the empty device and NODE. That deep memory reads as zero (log 2), that caches, walk caches and engine translations are empty, no word is poisoned, the error counts
and the time are 0 (log 3), that no port is left out at power on (log 4), and the values of the model's own fields (log 1), are the model's choice. -/
def Obligations.ResetState : Prop :=
  State.reset.mem.wf = true ∧ (∀ a, State.reset.mem.get a = 0) ∧ State.reset.contexts = [] ∧ State.reset.groups = [] ∧ State.reset.workgroups = [] ∧
  State.reset.requests = [] ∧ State.reset.poison = [] ∧ State.reset.locked = [] ∧ State.reset.grants = [] ∧ State.reset.l2 = [] ∧ State.reset.engineTlb = [] ∧ State.reset.stamps = [] ∧ State.reset.outbox = [] ∧
  State.reset.notices = [] ∧ State.reset.copied = [] ∧ State.reset.leaving = [] ∧
  State.reset.hostNode = none ∧ State.reset.node = Config.strapNode ∧ State.reset.failedPorts = 0 ∧ State.reset.trippedAt = none ∧ State.reset.time = 0 ∧
  (∀ n, State.reset.core n = Core.empty ∧ State.reset.clusterCache n = []) ∧ State.reset.dies.length = 4 ∧
  (∀ d ∈ State.reset.dies, d.corrected = 0 ∧ d.deferred = 0 ∧ d.walk = [] ∧ d.remote = [])

/-- 10, R175, R191: memory keeps its canonical form, addresses rising and no listed byte that an unlisted one reads as, through every step of the machine: every
word, event and command, and every move of the model's own schedule (log 1). -/
def Obligations.StepKeepsMemoryCanonical : Prop :=
  ∀ s t : State, s.mem.wf = true → step s = .next t → t.mem.wf = true
end

