-- ==== Sys2Proof/Laws/Exec.lean ====
section
/-! SUPPORT. What `exec` does with each instruction: its meaning, by name. -/

namespace Sys2Proof.Machine

@[simp] theorem exec_iaddR {g d a b x} (s : State) : exec (.iaddR g d a b x) s = execIaddR g d a b x s := rfl
@[simp] theorem exec_iaddI {g d a i} (s : State) : exec (.iaddI g d a i) s = execIaddI g d a i s := rfl
@[simp] theorem exec_isub {g d a b x} (s : State) : exec (.isub g d a b x) s = execIsub g d a b x s := rfl
@[simp] theorem exec_iadd64 {g d a b x} (s : State) : exec (.iadd64 g d a b x) s = execIadd64 g d a b x s := rfl
@[simp] theorem exec_imulR {g d a b x} (s : State) : exec (.imulR g d a b x) s = execImulR g d a b x s := rfl
@[simp] theorem exec_imulI {g d a i} (s : State) : exec (.imulI g d a i) s = execImulI g d a i s := rfl
@[simp] theorem exec_imulh {g d a b x_} (s : State) : exec (.imulh g d a b x_) s = execImulh g d a b x_ s := rfl
@[simp] theorem exec_imad {g d a b x} (s : State) : exec (.imad g d a b x) s = execImad g d a b x s := rfl
@[simp] theorem exec_imadw {g d a b x_} (s : State) : exec (.imadw g d a b x_) s = execImadw g d a b x_ s := rfl
@[simp] theorem exec_imin {g d a b x_} (s : State) : exec (.imin g d a b x_) s = execImin g d a b x_ s := rfl
@[simp] theorem exec_imax {g d a b x_} (s : State) : exec (.imax g d a b x_) s = execImax g d a b x_ s := rfl
@[simp] theorem exec_iabs {g d a} (s : State) : exec (.iabs g d a) s = execIabs g d a s := rfl
@[simp] theorem exec_ineg {g d a} (s : State) : exec (.ineg g d a) s = execIneg g d a s := rfl
@[simp] theorem exec_notW {g d a} (s : State) : exec (.notW g d a) s = execNotW g d a s := rfl
@[simp] theorem exec_popc {g d a} (s : State) : exec (.popc g d a) s = execPopc g d a s := rfl
@[simp] theorem exec_clz {g d a} (s : State) : exec (.clz g d a) s = execClz g d a s := rfl
@[simp] theorem exec_brev {g d a} (s : State) : exec (.brev g d a) s = execBrev g d a s := rfl
@[simp] theorem exec_mov {g d a} (s : State) : exec (.mov g d a) s = execMov g d a s := rfl
@[simp] theorem exec_shlR {g d a b x} (s : State) : exec (.shlR g d a b x) s = execShlR g d a b x s := rfl
@[simp] theorem exec_shlI {g d a n} (s : State) : exec (.shlI g d a n) s = execShlI g d a n s := rfl
@[simp] theorem exec_shrR {g d a b x_} (s : State) : exec (.shrR g d a b x_) s = execShrR g d a b x_ s := rfl
@[simp] theorem exec_shrNI {g d a n} (s : State) : exec (.shrNI g d a n) s = execShrNI g d a n s := rfl
@[simp] theorem exec_shrSI {g d a n} (s : State) : exec (.shrSI g d a n) s = execShrSI g d a n s := rfl
@[simp] theorem exec_rot {g d a b x} (s : State) : exec (.rot g d a b x) s = execRot g d a b x s := rfl
@[simp] theorem exec_andR {g d a b x} (s : State) : exec (.andR g d a b x) s = execAndR g d a b x s := rfl
@[simp] theorem exec_andI {g d a i} (s : State) : exec (.andI g d a i) s = execAndI g d a i s := rfl
@[simp] theorem exec_orR {g d a b x} (s : State) : exec (.orR g d a b x) s = execOrR g d a b x s := rfl
@[simp] theorem exec_orI {g d a i} (s : State) : exec (.orI g d a i) s = execOrI g d a i s := rfl
@[simp] theorem exec_xorR {g d a b x} (s : State) : exec (.xorR g d a b x) s = execXorR g d a b x s := rfl
@[simp] theorem exec_xorI {g d a i} (s : State) : exec (.xorI g d a i) s = execXorI g d a i s := rfl
@[simp] theorem exec_lut3 {g d a b} (s : State) : exec (.lut3 g d a b) s = execLut3 g d a b s := rfl
@[simp] theorem exec_bfx {g d a b x_} (s : State) : exec (.bfx g d a b x_) s = execBfx g d a b x_ s := rfl
@[simp] theorem exec_bfi {g d a b x} (s : State) : exec (.bfi g d a b x) s = execBfi g d a b x s := rfl
@[simp] theorem exec_leaX1X2 {g d a b k} (s : State) : exec (.leaX1X2 g d a b k) s = execLeaX1X2 g d a b k s := rfl
@[simp] theorem exec_leaX4X8 {g d a b k} (s : State) : exec (.leaX4X8 g d a b k) s = execLeaX4X8 g d a b k s := rfl
@[simp] theorem exec_movi {g d i} (s : State) : exec (.movi g d i) s = execMovi g d i s := rfl
@[simp] theorem exec_icmpR {g p c a b} (s : State) : exec (.icmpR g p c a b) s = execIcmpR g p c a b s := rfl
@[simp] theorem exec_icmpI {g p c a i} (s : State) : exec (.icmpI g p c a i) s = execIcmpI g p c a i s := rfl
@[simp] theorem exec_fcmpF32 {g p c a b} (s : State) : exec (.fcmpF32 g p c a b) s = execFcmpF32 g p c a b s := rfl
@[simp] theorem exec_fcmpF64 {g p c a b} (s : State) : exec (.fcmpF64 g p c a b) s = execFcmpF64 g p c a b s := rfl
@[simp] theorem exec_fcmpF16 {g p c a b} (s : State) : exec (.fcmpF16 g p c a b) s = execFcmpF16 g p c a b s := rfl
@[simp] theorem exec_plut {g p a b c} (s : State) : exec (.plut g p a b c) s = execPlut g p a b c s := rfl
@[simp] theorem exec_p2v {g d} (s : State) : exec (.p2v g d) s = execP2v g d s := rfl
@[simp] theorem exec_v2p {g a} (s : State) : exec (.v2p g a) s = execV2p g a s := rfl
@[simp] theorem exec_ptestNr {g p} (s : State) : exec (.ptestNr g p) s = execPtestNr g p s := rfl
@[simp] theorem exec_sel {g d a p n} (s : State) : exec (.sel g d a p n) s = execSel g d a p n s := rfl
@[simp] theorem exec_bra {g o} (s : State) : exec (.bra g o) s = execBra g o s := rfl
@[simp] theorem exec_brd {g t j} (s : State) : exec (.brd g t j) s = execBrd g t j s := rfl
@[simp] theorem exec_call {g o} (s : State) : exec (.call g o) s = execCall g o s := rfl
@[simp] theorem exec_calli {g a} (s : State) : exec (.calli g a) s = execCalli g a s := rfl
@[simp] theorem exec_nop {g} (s : State) : exec (.nop g) s = execNop g s := rfl
@[simp] theorem exec_ret {g} (s : State) : exec (.ret g) s = execRet g s := rfl
@[simp] theorem exec_exit {g} (s : State) : exec (.exit g) s = execExit g s := rfl
@[simp] theorem exec_kill {g p n} (s : State) : exec (.kill g p n) s = execKill g p n s := rfl
@[simp] theorem exec_lperm {g p c a b} (s : State) : exec (.lperm g p c a b) s = execLperm g p c a b s := rfl
@[simp] theorem exec_qxchH {g d a} (s : State) : exec (.qxchH g d a) s = execQxchH g d a s := rfl
@[simp] theorem exec_qxchV {g d a} (s : State) : exec (.qxchV g d a) s = execQxchV g d a s := rfl
@[simp] theorem exec_qxchD {g d a} (s : State) : exec (.qxchD g d a) s = execQxchD g d a s := rfl
@[simp] theorem exec_qbcast {g d a q} (s : State) : exec (.qbcast g d a q) s = execQbcast g d a q s := rfl
@[simp] theorem exec_pollAnd {g p x_} (s : State) : exec (.pollAnd g p x_) s = execPollAnd g p x_ s := rfl
@[simp] theorem exec_pollOr {g p x_} (s : State) : exec (.pollOr g p x_) s = execPollOr g p x_ s := rfl
@[simp] theorem exec_pollSame {g p x_} (s : State) : exec (.pollSame g p x_) s = execPollSame g p x_ s := rfl
@[simp] theorem exec_pick {g p} (s : State) : exec (.pick g p) s = execPick g p s := rfl
@[simp] theorem exec_pmask {g d p n} (s : State) : exec (.pmask g d p n) s = execPmask g d p n s := rfl
@[simp] theorem exec_xred {g d a m} (s : State) : exec (.xred g d a m) s = execXred g d a m s := rfl
@[simp] theorem exec_smov {g d m} (s : State) : exec (.smov g d m) s = execSmov g d m s := rfl
@[simp] theorem exec_ssetFflags {g a} (s : State) : exec (.ssetFflags g a) s = execSsetFflags g a s := rfl
@[simp] theorem exec_ssetFrnd {g a} (s : State) : exec (.ssetFrnd g a) s = execSsetFrnd g a s := rfl
@[simp] theorem exec_ssetFtrap {g a} (s : State) : exec (.ssetFtrap g a) s = execSsetFtrap g a s := rfl
@[simp] theorem exec_ldGB8 {g t a l x_ o} (s : State) : exec (.ldGB8 g t a l x_ o) s = execLdGB8 g t a l x_ o s := rfl
@[simp] theorem exec_ldGB16 {g t a l x_ o} (s : State) : exec (.ldGB16 g t a l x_ o) s = execLdGB16 g t a l x_ o s := rfl
@[simp] theorem exec_ldGB32 {g t a l x_ o} (s : State) : exec (.ldGB32 g t a l x_ o) s = execLdGB32 g t a l x_ o s := rfl
@[simp] theorem exec_ldGB64 {g t a l x_ o} (s : State) : exec (.ldGB64 g t a l x_ o) s = execLdGB64 g t a l x_ o s := rfl
@[simp] theorem exec_ldGB128 {g t a l x_ o} (s : State) : exec (.ldGB128 g t a l x_ o) s = execLdGB128 g t a l x_ o s := rfl
@[simp] theorem exec_stGB8 {g t a x_ o} (s : State) : exec (.stGB8 g t a x_ o) s = execStGB8 g t a x_ o s := rfl
@[simp] theorem exec_stGB16 {g t a x_ o} (s : State) : exec (.stGB16 g t a x_ o) s = execStGB16 g t a x_ o s := rfl
@[simp] theorem exec_stGB32 {g t a x_ o} (s : State) : exec (.stGB32 g t a x_ o) s = execStGB32 g t a x_ o s := rfl
@[simp] theorem exec_stGB64 {g t a x_ o} (s : State) : exec (.stGB64 g t a x_ o) s = execStGB64 g t a x_ o s := rfl
@[simp] theorem exec_stGB128 {g t a x_ o} (s : State) : exec (.stGB128 g t a x_ o) s = execStGB128 g t a x_ o s := rfl
@[simp] theorem exec_ldL {g t a l w} (s : State) : exec (.ldL g t a l w) s = execLdL g t a l w s := rfl
@[simp] theorem exec_stL {g t a w} (s : State) : exec (.stL g t a w) s = execStL g t a w s := rfl
@[simp] theorem exec_ldc {g t a l w} (s : State) : exec (.ldc g t a l w) s = execLdc g t a l w s := rfl
@[simp] theorem exec_ldt {g t a l w} (s : State) : exec (.ldt g t a l w) s = execLdt g t a l w s := rfl
@[simp] theorem exec_stT {g t a w} (s : State) : exec (.stT g t a w) s = execStT g t a w s := rfl
@[simp] theorem exec_atomAdd {g t a l x_ o} (s : State) : exec (.atomAdd g t a l x_ o) s = execAtomAdd g t a l x_ o s := rfl
@[simp] theorem exec_atomAnd {g t a l x_ o} (s : State) : exec (.atomAnd g t a l x_ o) s = execAtomAnd g t a l x_ o s := rfl
@[simp] theorem exec_atomOr {g t a l x_ o} (s : State) : exec (.atomOr g t a l x_ o) s = execAtomOr g t a l x_ o s := rfl
@[simp] theorem exec_atomXor {g t a l x_ o} (s : State) : exec (.atomXor g t a l x_ o) s = execAtomXor g t a l x_ o s := rfl
@[simp] theorem exec_atomMinN {g t a l x_ o} (s : State) : exec (.atomMinN g t a l x_ o) s = execAtomMinN g t a l x_ o s := rfl
@[simp] theorem exec_atomMinS {g t a l x_ o} (s : State) : exec (.atomMinS g t a l x_ o) s = execAtomMinS g t a l x_ o s := rfl
@[simp] theorem exec_atomMaxN {g t a l x_ o} (s : State) : exec (.atomMaxN g t a l x_ o) s = execAtomMaxN g t a l x_ o s := rfl
@[simp] theorem exec_atomMaxS {g t a l x_ o} (s : State) : exec (.atomMaxS g t a l x_ o) s = execAtomMaxS g t a l x_ o s := rfl
@[simp] theorem exec_atomExch {g t a l x_ o} (s : State) : exec (.atomExch g t a l x_ o) s = execAtomExch g t a l x_ o s := rfl
@[simp] theorem exec_atomCas {g t a l x_ o} (s : State) : exec (.atomCas g t a l x_ o) s = execAtomCas g t a l x_ o s := rfl
@[simp] theorem exec_atomInc {g t a l x_ o} (s : State) : exec (.atomInc g t a l x_ o) s = execAtomInc g t a l x_ o s := rfl
@[simp] theorem exec_atomFaddF32 {g t a l x_ o} (s : State) : exec (.atomFaddF32 g t a l x_ o) s = execAtomFaddF32 g t a l x_ o s := rfl
@[simp] theorem exec_redAdd {g t a x_ o} (s : State) : exec (.redAdd g t a x_ o) s = execRedAdd g t a x_ o s := rfl
@[simp] theorem exec_redAnd {g t a x_ o} (s : State) : exec (.redAnd g t a x_ o) s = execRedAnd g t a x_ o s := rfl
@[simp] theorem exec_redOr {g t a x_ o} (s : State) : exec (.redOr g t a x_ o) s = execRedOr g t a x_ o s := rfl
@[simp] theorem exec_redXor {g t a x_ o} (s : State) : exec (.redXor g t a x_ o) s = execRedXor g t a x_ o s := rfl
@[simp] theorem exec_redMinN {g t a x_ o} (s : State) : exec (.redMinN g t a x_ o) s = execRedMinN g t a x_ o s := rfl
@[simp] theorem exec_redMinS {g t a x_ o} (s : State) : exec (.redMinS g t a x_ o) s = execRedMinS g t a x_ o s := rfl
@[simp] theorem exec_redMaxN {g t a x_ o} (s : State) : exec (.redMaxN g t a x_ o) s = execRedMaxN g t a x_ o s := rfl
@[simp] theorem exec_redMaxS {g t a x_ o} (s : State) : exec (.redMaxS g t a x_ o) s = execRedMaxS g t a x_ o s := rfl
@[simp] theorem exec_redInc {g t a x_ o} (s : State) : exec (.redInc g t a x_ o) s = execRedInc g t a x_ o s := rfl
@[simp] theorem exec_redFaddF32 {g t a x_ o} (s : State) : exec (.redFaddF32 g t a x_ o) s = execRedFaddF32 g t a x_ o s := rfl
@[simp] theorem exec_fence {g o x_} (s : State) : exec (.fence g o x_) s = execFence g o x_ s := rfl
@[simp] theorem exec_pfence {g m x_ n} (s : State) : exec (.pfence g m x_ n) s = execPfence g m x_ n s := rfl
@[simp] theorem exec_bar {g k} (s : State) : exec (.bar g k) s = execBar g k s := rfl
@[simp] theorem exec_arrive {g a} (s : State) : exec (.arrive g a) s = execArrive g a s := rfl
@[simp] theorem exec_waitc {g d a} (s : State) : exec (.waitc g d a) s = execWaitc g d a s := rfl
@[simp] theorem exec_launch {g d a l} (s : State) : exec (.launch g d a l) s = execLaunch g d a l s := rfl
@[simp] theorem exec_cp {g d a} (s : State) : exec (.cp g d a) s = execCp g d a s := rfl
@[simp] theorem exec_cpclose {g d l} (s : State) : exec (.cpclose g d l) s = execCpclose g d l s := rfl
@[simp] theorem exec_cpwait {g d} (s : State) : exec (.cpwait g d) s = execCpwait g d s := rfl
@[simp] theorem exec_preq {g d a} (s : State) : exec (.preq g d a) s = execPreq g d a s := rfl
@[simp] theorem exec_lock {g d a l} (s : State) : exec (.lock g d a l) s = execLock g d a l s := rfl
@[simp] theorem exec_unlock {g a} (s : State) : exec (.unlock g a) s = execUnlock g a s := rfl
@[simp] theorem exec_stmap {g a} (s : State) : exec (.stmap g a) s = execStmap g a s := rfl
@[simp] theorem exec_stunmap {g a} (s : State) : exec (.stunmap g a) s = execStunmap g a s := rfl
@[simp] theorem exec_stflush {g a} (s : State) : exec (.stflush g a) s = execStflush g a s := rfl
@[simp] theorem exec_lsaddF32 {g d a} (s : State) : exec (.lsaddF32 g d a) s = execLsaddF32 g d a s := rfl
@[simp] theorem exec_lsaddI32 {g d a} (s : State) : exec (.lsaddI32 g d a) s = execLsaddI32 g d a s := rfl
@[simp] theorem exec_fadd {g d a b x} (s : State) : exec (.fadd g d a b x) s = execFadd g d a b x s := rfl
@[simp] theorem exec_fsub {g d a b x} (s : State) : exec (.fsub g d a b x) s = execFsub g d a b x s := rfl
@[simp] theorem exec_fmul {g d a b x} (s : State) : exec (.fmul g d a b x) s = execFmul g d a b x s := rfl
@[simp] theorem exec_ffma {g d a b x} (s : State) : exec (.ffma g d a b x) s = execFfma g d a b x s := rfl
@[simp] theorem exec_faddF64 {g d a b} (s : State) : exec (.faddF64 g d a b) s = execFaddF64 g d a b s := rfl
@[simp] theorem exec_fsubF64 {g d a b} (s : State) : exec (.fsubF64 g d a b) s = execFsubF64 g d a b s := rfl
@[simp] theorem exec_fmulF64 {g d a b} (s : State) : exec (.fmulF64 g d a b) s = execFmulF64 g d a b s := rfl
@[simp] theorem exec_ffmaF64 {g d a b} (s : State) : exec (.ffmaF64 g d a b) s = execFfmaF64 g d a b s := rfl
@[simp] theorem exec_fminF32 {g d a b} (s : State) : exec (.fminF32 g d a b) s = execFminF32 g d a b s := rfl
@[simp] theorem exec_fmaxF32 {g d a b} (s : State) : exec (.fmaxF32 g d a b) s = execFmaxF32 g d a b s := rfl
@[simp] theorem exec_fminnumF32 {g d a b} (s : State) : exec (.fminnumF32 g d a b) s = execFminnumF32 g d a b s := rfl
@[simp] theorem exec_fmaxnumF32 {g d a b} (s : State) : exec (.fmaxnumF32 g d a b) s = execFmaxnumF32 g d a b s := rfl
@[simp] theorem exec_fminF64 {g d a b} (s : State) : exec (.fminF64 g d a b) s = execFminF64 g d a b s := rfl
@[simp] theorem exec_fmaxF64 {g d a b} (s : State) : exec (.fmaxF64 g d a b) s = execFmaxF64 g d a b s := rfl
@[simp] theorem exec_fminnumF64 {g d a b} (s : State) : exec (.fminnumF64 g d a b) s = execFminnumF64 g d a b s := rfl
@[simp] theorem exec_fmaxnumF64 {g d a b} (s : State) : exec (.fmaxnumF64 g d a b) s = execFmaxnumF64 g d a b s := rfl
@[simp] theorem exec_fscale {g d a b x} (s : State) : exec (.fscale g d a b x) s = execFscale g d a b x s := rfl
@[simp] theorem exec_vrsqe {g d a b} (s : State) : exec (.vrsqe g d a b) s = execVrsqe g d a b s := rfl
@[simp] theorem exec_fdivF32 {g d a l} (s : State) : exec (.fdivF32 g d a l) s = execFdivF32 g d a l s := rfl
@[simp] theorem exec_fdivF64 {g d a l} (s : State) : exec (.fdivF64 g d a l) s = execFdivF64 g d a l s := rfl
@[simp] theorem exec_fsqrtF32 {g d a l} (s : State) : exec (.fsqrtF32 g d a l) s = execFsqrtF32 g d a l s := rfl
@[simp] theorem exec_fsqrtF64 {g d a l} (s : State) : exec (.fsqrtF64 g d a l) s = execFsqrtF64 g d a l s := rfl
@[simp] theorem exec_frcpF32 {g d a l} (s : State) : exec (.frcpF32 g d a l) s = execFrcpF32 g d a l s := rfl
@[simp] theorem exec_frcpF64 {g d a l} (s : State) : exec (.frcpF64 g d a l) s = execFrcpF64 g d a l s := rfl
@[simp] theorem exec_fexp2F32 {g d a l} (s : State) : exec (.fexp2F32 g d a l) s = execFexp2F32 g d a l s := rfl
@[simp] theorem exec_flog2F32 {g d a l} (s : State) : exec (.flog2F32 g d a l) s = execFlog2F32 g d a l s := rfl
@[simp] theorem exec_fsinF32 {g d a l} (s : State) : exec (.fsinF32 g d a l) s = execFsinF32 g d a l s := rfl
@[simp] theorem exec_fcosF32 {g d a l} (s : State) : exec (.fcosF32 g d a l) s = execFcosF32 g d a l s := rfl
@[simp] theorem exec_frndF32 {g d a} (s : State) : exec (.frndF32 g d a) s = execFrndF32 g d a s := rfl
@[simp] theorem exec_frndF64 {g d a} (s : State) : exec (.frndF64 g d a) s = execFrndF64 g d a s := rfl
@[simp] theorem exec_fclassF32 {g d a} (s : State) : exec (.fclassF32 g d a) s = execFclassF32 g d a s := rfl
@[simp] theorem exec_fclassF64 {g d a} (s : State) : exec (.fclassF64 g d a) s = execFclassF64 g d a s := rfl
@[simp] theorem exec_fjoin {g d a} (s : State) : exec (.fjoin g d a) s = execFjoin g d a s := rfl
@[simp] theorem exec_fsplitRow {g d a x_} (s : State) : exec (.fsplitRow g d a x_) s = execFsplitRow g d a x_ s := rfl
@[simp] theorem exec_fsplitCol {g d a x_} (s : State) : exec (.fsplitCol g d a x_) s = execFsplitCol g d a x_ s := rfl
@[simp] theorem exec_fcvt {g d a x_ t n x} (s : State) : exec (.fcvt g d a x_ t n x) s = execFcvt g d a x_ t n x s := rfl
@[simp] theorem exec_mma {g t c a l f} (s : State) : exec (.mma g t c a l f) s = execMma g t c a l f s := rfl
@[simp] theorem exec_mmaj {g b a f} (s : State) : exec (.mmaj g b a f) s = execMmaj g b a f s := rfl
@[simp] theorem exec_mwait {g} (s : State) : exec (.mwait g) s = execMwait g s := rfl
@[simp] theorem exec_macc {g d p q l f} (s : State) : exec (.macc g d p q l f) s = execMacc g d p q l f s := rfl
@[simp] theorem exec_mzero {g d l} (s : State) : exec (.mzero g d l) s = execMzero g d l s := rfl
@[simp] theorem exec_mld {g d a l f} (s : State) : exec (.mld g d a l f) s = execMld g d a l f s := rfl
@[simp] theorem exec_mdrain {g d a f q} (s : State) : exec (.mdrain g d a f q) s = execMdrain g d a f q s := rfl
@[simp] theorem exec_mquant {g d a l f} (s : State) : exec (.mquant g d a l f) s = execMquant g d a l f s := rfl
@[simp] theorem exec_pbind {g d a l} (s : State) : exec (.pbind g d a l) s = execPbind g d a l s := rfl
@[simp] theorem exec_pstale {g d a l} (s : State) : exec (.pstale g d a l) s = execPstale g d a l s := rfl
@[simp] theorem exec_pstat {g d a l} (s : State) : exec (.pstat g d a l) s = execPstat g d a l s := rfl
@[simp] theorem exec_psettle {g a l x_} (s : State) : exec (.psettle g a l x_) s = execPsettle g a l x_ s := rfl
@[simp] theorem exec_psettleAsync {g d a l x_} (s : State) : exec (.psettleAsync g d a l x_) s = execPsettleAsync g d a l x_ s := rfl
@[simp] theorem exec_punbind {g a l x_} (s : State) : exec (.punbind g a l x_) s = execPunbind g a l x_ s := rfl
@[simp] theorem exec_prefresh {g d a l x_} (s : State) : exec (.prefresh g d a l x_) s = execPrefresh g d a l x_ s := rfl
@[simp] theorem exec_skadd {g d a} (s : State) : exec (.skadd g d a) s = execSkadd g d a s := rfl
@[simp] theorem exec_skqry {g d a l} (s : State) : exec (.skqry g d a l) s = execSkqry g d a l s := rfl
@[simp] theorem exec_skinit {g a} (s : State) : exec (.skinit g a) s = execSkinit g a s := rfl
@[simp] theorem exec_skscale {g d a} (s : State) : exec (.skscale g d a) s = execSkscale g d a s := rfl
@[simp] theorem exec_skstat {g d a l} (s : State) : exec (.skstat g d a l) s = execSkstat g d a l s := rfl
@[simp] theorem exec_skmerge {g d a x_} (s : State) : exec (.skmerge g d a x_) s = execSkmerge g d a x_ s := rfl
@[simp] theorem exec_rtag {g d k p} (s : State) : exec (.rtag g d k p) s = execRtag g d k p s := rfl
@[simp] theorem exec_runtag {g d p} (s : State) : exec (.runtag g d p) s = execRuntag g d p s := rfl
@[simp] theorem exec_trap {g n} (s : State) : exec (.trap g n) s = execTrap g n s := rfl
@[simp] theorem exec_bkpt {g n} (s : State) : exec (.bkpt g n) s = execBkpt g n s := rfl
@[simp] theorem exec_hrd {g d a l w} (s : State) : exec (.hrd g d a l w) s = execHrd g d a l w s := rfl
@[simp] theorem exec_hwr {g d a w} (s : State) : exec (.hwr g d a w) s = execHwr g d a w s := rfl
@[simp] theorem exec_eretC {g a} (s : State) : exec (.eretC g a) s = execEretC g a s := rfl
@[simp] theorem exec_eretX {g} (s : State) : exec (.eretX g) s = execEretX g s := rfl
@[simp] theorem exec_tlbinv {g a} (s : State) : exec (.tlbinv g a) s = execTlbinv g a s := rfl
@[simp] theorem exec_tlbinvCtx {g} (s : State) : exec (.tlbinvCtx g) s = execTlbinvCtx g s := rfl
@[simp] theorem exec_ebudRd {g d l} (s : State) : exec (.ebudRd g d l) s = execEbudRd g d l s := rfl
@[simp] theorem exec_ebudSet {g a} (s : State) : exec (.ebudSet g a) s = execEbudSet g a s := rfl
@[simp] theorem exec_stopr {g d a l} (s : State) : exec (.stopr g d a l) s = execStopr g d a l s := rfl
@[simp] theorem exec_himm {p i} (s : State) : exec (.himm p i) s = execHimm p i s := rfl
@[simp] theorem exec_hoff {o} (s : State) : exec (.hoff o) s = execHoff o s := rfl
@[simp] theorem exec_hivl {m} (s : State) : exec (.hivl m) s = execHivl m s := rfl
@[simp] theorem exec_hgrd {v n p} (s : State) : exec (.hgrd v n p) s = execHgrd v n p s := rfl
@[simp] theorem exec_hsem {x_ c} (s : State) : exec (.hsem x_ c) s = execHsem x_ c s := rfl
@[simp] theorem exec_hrnd {m} (s : State) : exec (.hrnd m) s = execHrnd m s := rfl
@[simp] theorem exec_hsat {x_ r t} (s : State) : exec (.hsat x_ r t) s = execHsat x_ r t s := rfl
@[simp] theorem exec_hdet (s : State) : exec .hdet s = execHdet s := rfl
@[simp] theorem exec_createContext {h args} (s : State) : exec (.createContext h args) s = execCreateContext h args s := rfl
@[simp] theorem exec_destroyContext {h} (s : State) : exec (.destroyContext h) s = execDestroyContext h s := rfl
@[simp] theorem exec_map {h va size flags frame} (s : State) : exec (.map h va size flags frame) s = execMap h va size flags frame s := rfl
@[simp] theorem exec_exportFrame {h va size flags frame} (s : State) : exec (.exportFrame h va size flags frame) s = execExportFrame h va size flags frame s := rfl
@[simp] theorem exec_unmap {h va} (s : State) : exec (.unmap h va) s = execUnmap h va s := rfl
@[simp] theorem exec_withdrawExport {h va} (s : State) : exec (.withdrawExport h va) s = execWithdrawExport h va s := rfl
@[simp] theorem exec_loadImage {h flags image} (s : State) : exec (.loadImage h flags image) s = execLoadImage h flags image s := rfl
@[simp] theorem exec_start {h desc} (s : State) : exec (.start h desc) s = execStart h desc s := rfl
@[simp] theorem exec_halt {h} (s : State) : exec (.halt h) s = execHalt h s := rfl
@[simp] theorem exec_resume {h} (s : State) : exec (.resume h) s = execResume h s := rfl
@[simp] theorem exec_vacate {h k} (s : State) : exec (.vacate h k) s = execVacate h k s := rfl
@[simp] theorem exec_readStopRecord {h index} (s : State) : exec (.readStopRecord h index) s = execReadStopRecord h index s := rfl
@[simp] theorem exec_attest {h nonce} (s : State) : exec (.attest h nonce) s = execAttest h nonce s := rfl
@[simp] theorem exec_setEnergyBudget {h budget} (s : State) : exec (.setEnergyBudget h budget) s = execSetEnergyBudget h budget s := rfl
@[simp] theorem exec_queryIdentity {h} (s : State) : exec (.queryIdentity h) s = execQueryIdentity h s := rfl
@[simp] theorem exec_queryPublicKey {h} (s : State) : exec (.queryPublicKey h) s = execQueryPublicKey h s := rfl
@[simp] theorem exec_queryContext {h} (s : State) : exec (.queryContext h) s = execQueryContext h s := rfl
@[simp] theorem exec_queryErrorCounts {h} (s : State) : exec (.queryErrorCounts h) s = execQueryErrorCounts h s := rfl
@[simp] theorem exec_queryThermal {h} (s : State) : exec (.queryThermal h) s = execQueryThermal h s := rfl
@[simp] theorem exec_reset {failed} (s : State) : exec (.reset failed) s = execReset failed s := rfl
@[simp] theorem exec_thermalThrottle {die temp clock} (s : State) : exec (.thermalThrottle die temp clock) s = execThermalThrottle die temp clock s := rfl
@[simp] theorem exec_thermalTrip {die temp} (s : State) : exec (.thermalTrip die temp) s = execThermalTrip die temp s := rfl
@[simp] theorem exec_tripReset {failed} (s : State) : exec (.tripReset failed) s = execTripReset failed s := rfl
@[simp] theorem exec_clockLowering {ctx clock} (s : State) : exec (.clockLowering ctx clock) s = execClockLowering ctx clock s := rfl
@[simp] theorem exec_energyCountUpdate {ctx charge used} (s : State) : exec (.energyCountUpdate ctx charge used) s = execEnergyCountUpdate ctx charge used s := rfl
@[simp] theorem exec_linkRetry {id port} (s : State) : exec (.linkRetry id port) s = execLinkRetry id port s := rfl
@[simp] theorem exec_requestTimeout {id} (s : State) : exec (.requestTimeout id) s = execRequestTimeout id s := rfl
@[simp] theorem exec_remoteRequestArrival {q} (s : State) : exec (.remoteRequestArrival q) s = execRemoteRequestArrival q s := rfl
@[simp] theorem exec_remoteMergeArrival {q} (s : State) : exec (.remoteMergeArrival q) s = execRemoteMergeArrival q s := rfl
@[simp] theorem exec_hostFWrite {q} (s : State) : exec (.hostFWrite q) s = execHostFWrite q s := rfl
@[simp] theorem exec_cacheWriteBack {c line drop remote} (s : State) : exec (.cacheWriteBack c line drop remote) s = execCacheWriteBack c line drop remote s := rfl
@[simp] theorem exec_thermosBackgroundApply {ctx slot upTo refresh} (s : State) : exec (.thermosBackgroundApply ctx slot upTo refresh) s = execThermosBackgroundApply ctx slot upTo refresh s := rfl
@[simp] theorem exec_loadDataReturn {id remote} (s : State) : exec (.loadDataReturn id remote) s = execLoadDataReturn id remote s := rfl
@[simp] theorem exec_pageMigrationComplete {id remote} (s : State) : exec (.pageMigrationComplete id remote) s = execPageMigrationComplete id remote s := rfl
@[simp] theorem exec_skmergeComplete {id n remote} (s : State) : exec (.skmergeComplete id n remote) s = execSkmergeComplete id n remote s := rfl
@[simp] theorem exec_hotnessNotification {ctx block req} (s : State) : exec (.hotnessNotification ctx block req) s = execHotnessNotification ctx block req s := rfl
@[simp] theorem exec_releaseComplete {id remote} (s : State) : exec (.releaseComplete id remote) s = execReleaseComplete id remote s := rfl
@[simp] theorem exec_waitcSatisfied {gid slotB remote} (s : State) : exec (.waitcSatisfied gid slotB remote) s = execWaitcSatisfied gid slotB remote s := rfl
@[simp] theorem exec_clusterPlacement {ctx launch place} (s : State) : exec (.clusterPlacement ctx launch place) s = execClusterPlacement ctx launch place s := rfl
@[simp] theorem exec_waitingWorkgroupRestore {wg place} (s : State) : exec (.waitingWorkgroupRestore wg place) s = execWaitingWorkgroupRestore wg place s := rfl
@[simp] theorem exec_clusterRestore {ctx launch cluster place} (s : State) : exec (.clusterRestore ctx launch cluster place) s = execClusterRestore ctx launch cluster place s := rfl
@[simp] theorem exec_recipeReplay {gid tag remote} (s : State) : exec (.recipeReplay gid tag remote) s = execRecipeReplay gid tag remote s := rfl
@[simp] theorem exec_atomResultReturn {id remote} (s : State) : exec (.atomResultReturn id remote) s = execAtomResultReturn id remote s := rfl
@[simp] theorem exec_pbindComplete {id} (s : State) : exec (.pbindComplete id) s = execPbindComplete id s := rfl
@[simp] theorem exec_psettleComplete {id} (s : State) : exec (.psettleComplete id) s = execPsettleComplete id s := rfl
@[simp] theorem exec_punbindComplete {id} (s : State) : exec (.punbindComplete id) s = execPunbindComplete id s := rfl
@[simp] theorem exec_prefreshComplete {id} (s : State) : exec (.prefreshComplete id) s = execPrefreshComplete id s := rfl
@[simp] theorem exec_thermosStatusReply {id} (s : State) : exec (.thermosStatusReply id) s = execThermosStatusReply id s := rfl
@[simp] theorem exec_fpLongOpComplete {id} (s : State) : exec (.fpLongOpComplete id) s = execFpLongOpComplete id s := rfl
@[simp] theorem exec_mmaComplete {id} (s : State) : exec (.mmaComplete id) s = execMmaComplete id s := rfl
@[simp] theorem exec_mldComplete {id} (s : State) : exec (.mldComplete id) s = execMldComplete id s := rfl
@[simp] theorem exec_mdrainWriteComplete {id} (s : State) : exec (.mdrainWriteComplete id) s = execMdrainWriteComplete id s := rfl
@[simp] theorem exec_mmajInstanceStart {id} (s : State) : exec (.mmajInstanceStart id) s = execMmajInstanceStart id s := rfl
@[simp] theorem exec_mmajComplete {id} (s : State) : exec (.mmajComplete id) s = execMmajComplete id s := rfl
@[simp] theorem exec_copyComplete {id overlap} (s : State) : exec (.copyComplete id overlap) s = execCopyComplete id overlap s := rfl
@[simp] theorem exec_pageRequestService {id} (s : State) : exec (.pageRequestService id) s = execPageRequestService id s := rfl
@[simp] theorem exec_sketchRequestPerformed {id n} (s : State) : exec (.sketchRequestPerformed id n) s = execSketchRequestPerformed id n s := rfl
@[simp] theorem exec_hotnessDecay (s : State) : exec .hotnessDecay s = execHotnessDecay s := rfl
@[simp] theorem exec_pfenceComplete {id} (s : State) : exec (.pfenceComplete id) s = execPfenceComplete id s := rfl
@[simp] theorem exec_tlbinvSweepComplete {id} (s : State) : exec (.tlbinvSweepComplete id) s = execTlbinvSweepComplete id s := rfl
@[simp] theorem exec_launchAdmissionReply {id} (s : State) : exec (.launchAdmissionReply id) s = execLaunchAdmissionReply id s := rfl
@[simp] theorem exec_launchCompletionSignal {ctx launch remote} (s : State) : exec (.launchCompletionSignal ctx launch remote) s = execLaunchCompletionSignal ctx launch remote s := rfl
@[simp] theorem exec_waitingWorkgroupSave {wg} (s : State) : exec (.waitingWorkgroupSave wg) s = execWaitingWorkgroupSave wg s := rfl
@[simp] theorem exec_groupVacateStop {gid} (s : State) : exec (.groupVacateStop gid) s = execGroupVacateStop gid s := rfl
@[simp] theorem exec_vacateReply {ctx} (s : State) : exec (.vacateReply ctx) s = execVacateReply ctx s := rfl
@[simp] theorem exec_fastFileChunkFill {gid chunk evict} (s : State) : exec (.fastFileChunkFill gid chunk evict) s = execFastFileChunkFill gid chunk evict s := rfl
@[simp] theorem exec_handlerGroupFormation {core} (s : State) : exec (.handlerGroupFormation core) s = execHandlerGroupFormation core s := rfl
@[simp] theorem exec_originSlotResume {gid slotB} (s : State) : exec (.originSlotResume gid slotB) s = execOriginSlotResume gid slotB s := rfl
@[simp] theorem exec_unitStop {ctx unit} (s : State) : exec (.unitStop ctx unit) s = execUnitStop ctx unit s := rfl
@[simp] theorem exec_lockStatusReturn {id} (s : State) : exec (.lockStatusReturn id) s = execLockStatusReturn id s := rfl
@[simp] theorem exec_maccMzeroMquantComplete {id} (s : State) : exec (.maccMzeroMquantComplete id) s = execMaccMzeroMquantComplete id s := rfl
@[simp] theorem exec_remoteReadLineDrop {die line} (s : State) : exec (.remoteReadLineDrop die line) s = execRemoteReadLineDrop die line s := rfl
@[simp] theorem exec_uncorrectableError {at_} (s : State) : exec (.uncorrectableError at_) s = execUncorrectableError at_ s := rfl

end Sys2Proof.Machine
end

