-- ==== Sys2Proof/Laws/State.lean ====
section
/-! SUPPORT. What each update of the state changes and leaves: one lemma per field. -/

namespace Sys2Proof.Machine

/-! ### setCore -/
@[simp] theorem State.setCore_mem (s : State) (n : Nat) (c : Core) : (s.setCore n c).mem = s.mem := rfl
@[simp] theorem State.setCore_poison (s : State) (n : Nat) (c : Core) : (s.setCore n c).poison = s.poison := rfl
@[simp] theorem State.setCore_l2 (s : State) (n : Nat) (c : Core) : (s.setCore n c).l2 = s.l2 := rfl
@[simp] theorem State.setCore_locked (s : State) (n : Nat) (c : Core) : (s.setCore n c).locked = s.locked := rfl
@[simp] theorem State.setCore_stamps (s : State) (n : Nat) (c : Core) : (s.setCore n c).stamps = s.stamps := rfl
@[simp] theorem State.setCore_hot (s : State) (n : Nat) (c : Core) : (s.setCore n c).hot = s.hot := rfl
@[simp] theorem State.setCore_notices (s : State) (n : Nat) (c : Core) : (s.setCore n c).notices = s.notices := rfl
@[simp] theorem State.setCore_copied (s : State) (n : Nat) (c : Core) : (s.setCore n c).copied = s.copied := rfl
@[simp] theorem State.setCore_leaving (s : State) (n : Nat) (c : Core) : (s.setCore n c).leaving = s.leaving := rfl
@[simp] theorem State.setCore_cores (s : State) (n : Nat) (c : Core) : (s.setCore n c).cores = setKey s.cores n c := rfl
@[simp] theorem State.setCore_clusters (s : State) (n : Nat) (c : Core) : (s.setCore n c).clusters = s.clusters := rfl
@[simp] theorem State.setCore_dies (s : State) (n : Nat) (c : Core) : (s.setCore n c).dies = s.dies := rfl
@[simp] theorem State.setCore_engineTlb (s : State) (n : Nat) (c : Core) : (s.setCore n c).engineTlb = s.engineTlb := rfl
@[simp] theorem State.setCore_contexts (s : State) (n : Nat) (c : Core) : (s.setCore n c).contexts = s.contexts := rfl
@[simp] theorem State.setCore_workgroups (s : State) (n : Nat) (c : Core) : (s.setCore n c).workgroups = s.workgroups := rfl
@[simp] theorem State.setCore_groups (s : State) (n : Nat) (c : Core) : (s.setCore n c).groups = s.groups := rfl
@[simp] theorem State.setCore_bars (s : State) (n : Nat) (c : Core) : (s.setCore n c).bars = s.bars := rfl
@[simp] theorem State.setCore_joints (s : State) (n : Nat) (c : Core) : (s.setCore n c).joints = s.joints := rfl
@[simp] theorem State.setCore_requests (s : State) (n : Nat) (c : Core) : (s.setCore n c).requests = s.requests := rfl
@[simp] theorem State.setCore_grants (s : State) (n : Nat) (c : Core) : (s.setCore n c).grants = s.grants := rfl
@[simp] theorem State.setCore_outbox (s : State) (n : Nat) (c : Core) : (s.setCore n c).outbox = s.outbox := rfl
@[simp] theorem State.setCore_hostNode (s : State) (n : Nat) (c : Core) : (s.setCore n c).hostNode = s.hostNode := rfl
@[simp] theorem State.setCore_node (s : State) (n : Nat) (c : Core) : (s.setCore n c).node = s.node := rfl
@[simp] theorem State.setCore_failedPorts (s : State) (n : Nat) (c : Core) : (s.setCore n c).failedPorts = s.failedPorts := rfl
@[simp] theorem State.setCore_trippedAt (s : State) (n : Nat) (c : Core) : (s.setCore n c).trippedAt = s.trippedAt := rfl
@[simp] theorem State.setCore_time (s : State) (n : Nat) (c : Core) : (s.setCore n c).time = s.time := rfl
@[simp] theorem State.setCore_clock (s : State) (n : Nat) (c : Core) : (s.setCore n c).clock = s.clock := rfl
@[simp] theorem State.setCore_decays (s : State) (n : Nat) (c : Core) : (s.setCore n c).decays = s.decays := rfl
@[simp] theorem State.setCore_counterVcs (s : State) (n : Nat) (c : Core) : (s.setCore n c).counterVcs = s.counterVcs := rfl
@[simp] theorem State.setCore_fresh (s : State) (n : Nat) (c : Core) : (s.setCore n c).fresh = s.fresh := rfl
@[simp] theorem State.setCore_agenda (s : State) (n : Nat) (c : Core) : (s.setCore n c).agenda = s.agenda := rfl
@[simp] theorem State.setCore_issue (s : State) (n : Nat) (c : Core) : (s.setCore n c).issue = s.issue := rfl

/-! ### setClusterCache -/
@[simp] theorem State.setClusterCache_mem (s : State) (n : Nat) (l : List Line) : (s.setClusterCache n l).mem = s.mem := rfl
@[simp] theorem State.setClusterCache_poison (s : State) (n : Nat) (l : List Line) : (s.setClusterCache n l).poison = s.poison := rfl
@[simp] theorem State.setClusterCache_l2 (s : State) (n : Nat) (l : List Line) : (s.setClusterCache n l).l2 = s.l2 := rfl
@[simp] theorem State.setClusterCache_locked (s : State) (n : Nat) (l : List Line) : (s.setClusterCache n l).locked = s.locked := rfl
@[simp] theorem State.setClusterCache_stamps (s : State) (n : Nat) (l : List Line) : (s.setClusterCache n l).stamps = s.stamps := rfl
@[simp] theorem State.setClusterCache_hot (s : State) (n : Nat) (l : List Line) : (s.setClusterCache n l).hot = s.hot := rfl
@[simp] theorem State.setClusterCache_notices (s : State) (n : Nat) (l : List Line) : (s.setClusterCache n l).notices = s.notices := rfl
@[simp] theorem State.setClusterCache_copied (s : State) (n : Nat) (l : List Line) : (s.setClusterCache n l).copied = s.copied := rfl
@[simp] theorem State.setClusterCache_leaving (s : State) (n : Nat) (l : List Line) : (s.setClusterCache n l).leaving = s.leaving := rfl
@[simp] theorem State.setClusterCache_cores (s : State) (n : Nat) (l : List Line) : (s.setClusterCache n l).cores = s.cores := rfl
@[simp] theorem State.setClusterCache_clusters (s : State) (n : Nat) (l : List Line) : (s.setClusterCache n l).clusters = setKey s.clusters n l := rfl
@[simp] theorem State.setClusterCache_dies (s : State) (n : Nat) (l : List Line) : (s.setClusterCache n l).dies = s.dies := rfl
@[simp] theorem State.setClusterCache_engineTlb (s : State) (n : Nat) (l : List Line) : (s.setClusterCache n l).engineTlb = s.engineTlb := rfl
@[simp] theorem State.setClusterCache_contexts (s : State) (n : Nat) (l : List Line) : (s.setClusterCache n l).contexts = s.contexts := rfl
@[simp] theorem State.setClusterCache_workgroups (s : State) (n : Nat) (l : List Line) : (s.setClusterCache n l).workgroups = s.workgroups := rfl
@[simp] theorem State.setClusterCache_groups (s : State) (n : Nat) (l : List Line) : (s.setClusterCache n l).groups = s.groups := rfl
@[simp] theorem State.setClusterCache_bars (s : State) (n : Nat) (l : List Line) : (s.setClusterCache n l).bars = s.bars := rfl
@[simp] theorem State.setClusterCache_joints (s : State) (n : Nat) (l : List Line) : (s.setClusterCache n l).joints = s.joints := rfl
@[simp] theorem State.setClusterCache_requests (s : State) (n : Nat) (l : List Line) : (s.setClusterCache n l).requests = s.requests := rfl
@[simp] theorem State.setClusterCache_grants (s : State) (n : Nat) (l : List Line) : (s.setClusterCache n l).grants = s.grants := rfl
@[simp] theorem State.setClusterCache_outbox (s : State) (n : Nat) (l : List Line) : (s.setClusterCache n l).outbox = s.outbox := rfl
@[simp] theorem State.setClusterCache_hostNode (s : State) (n : Nat) (l : List Line) : (s.setClusterCache n l).hostNode = s.hostNode := rfl
@[simp] theorem State.setClusterCache_node (s : State) (n : Nat) (l : List Line) : (s.setClusterCache n l).node = s.node := rfl
@[simp] theorem State.setClusterCache_failedPorts (s : State) (n : Nat) (l : List Line) : (s.setClusterCache n l).failedPorts = s.failedPorts := rfl
@[simp] theorem State.setClusterCache_trippedAt (s : State) (n : Nat) (l : List Line) : (s.setClusterCache n l).trippedAt = s.trippedAt := rfl
@[simp] theorem State.setClusterCache_time (s : State) (n : Nat) (l : List Line) : (s.setClusterCache n l).time = s.time := rfl
@[simp] theorem State.setClusterCache_clock (s : State) (n : Nat) (l : List Line) : (s.setClusterCache n l).clock = s.clock := rfl
@[simp] theorem State.setClusterCache_decays (s : State) (n : Nat) (l : List Line) : (s.setClusterCache n l).decays = s.decays := rfl
@[simp] theorem State.setClusterCache_counterVcs (s : State) (n : Nat) (l : List Line) : (s.setClusterCache n l).counterVcs = s.counterVcs := rfl
@[simp] theorem State.setClusterCache_fresh (s : State) (n : Nat) (l : List Line) : (s.setClusterCache n l).fresh = s.fresh := rfl
@[simp] theorem State.setClusterCache_agenda (s : State) (n : Nat) (l : List Line) : (s.setClusterCache n l).agenda = s.agenda := rfl
@[simp] theorem State.setClusterCache_issue (s : State) (n : Nat) (l : List Line) : (s.setClusterCache n l).issue = s.issue := rfl

/-! ### setDie -/
@[simp] theorem State.setDie_mem (s : State) (n : Nat) (d : Die) : (s.setDie n d).mem = s.mem := rfl
@[simp] theorem State.setDie_poison (s : State) (n : Nat) (d : Die) : (s.setDie n d).poison = s.poison := rfl
@[simp] theorem State.setDie_l2 (s : State) (n : Nat) (d : Die) : (s.setDie n d).l2 = s.l2 := rfl
@[simp] theorem State.setDie_locked (s : State) (n : Nat) (d : Die) : (s.setDie n d).locked = s.locked := rfl
@[simp] theorem State.setDie_stamps (s : State) (n : Nat) (d : Die) : (s.setDie n d).stamps = s.stamps := rfl
@[simp] theorem State.setDie_hot (s : State) (n : Nat) (d : Die) : (s.setDie n d).hot = s.hot := rfl
@[simp] theorem State.setDie_notices (s : State) (n : Nat) (d : Die) : (s.setDie n d).notices = s.notices := rfl
@[simp] theorem State.setDie_copied (s : State) (n : Nat) (d : Die) : (s.setDie n d).copied = s.copied := rfl
@[simp] theorem State.setDie_leaving (s : State) (n : Nat) (d : Die) : (s.setDie n d).leaving = s.leaving := rfl
@[simp] theorem State.setDie_cores (s : State) (n : Nat) (d : Die) : (s.setDie n d).cores = s.cores := rfl
@[simp] theorem State.setDie_clusters (s : State) (n : Nat) (d : Die) : (s.setDie n d).clusters = s.clusters := rfl
@[simp] theorem State.setDie_dies (s : State) (n : Nat) (d : Die) : (s.setDie n d).dies = setNth s.dies n d := rfl
@[simp] theorem State.setDie_engineTlb (s : State) (n : Nat) (d : Die) : (s.setDie n d).engineTlb = s.engineTlb := rfl
@[simp] theorem State.setDie_contexts (s : State) (n : Nat) (d : Die) : (s.setDie n d).contexts = s.contexts := rfl
@[simp] theorem State.setDie_workgroups (s : State) (n : Nat) (d : Die) : (s.setDie n d).workgroups = s.workgroups := rfl
@[simp] theorem State.setDie_groups (s : State) (n : Nat) (d : Die) : (s.setDie n d).groups = s.groups := rfl
@[simp] theorem State.setDie_bars (s : State) (n : Nat) (d : Die) : (s.setDie n d).bars = s.bars := rfl
@[simp] theorem State.setDie_joints (s : State) (n : Nat) (d : Die) : (s.setDie n d).joints = s.joints := rfl
@[simp] theorem State.setDie_requests (s : State) (n : Nat) (d : Die) : (s.setDie n d).requests = s.requests := rfl
@[simp] theorem State.setDie_grants (s : State) (n : Nat) (d : Die) : (s.setDie n d).grants = s.grants := rfl
@[simp] theorem State.setDie_outbox (s : State) (n : Nat) (d : Die) : (s.setDie n d).outbox = s.outbox := rfl
@[simp] theorem State.setDie_hostNode (s : State) (n : Nat) (d : Die) : (s.setDie n d).hostNode = s.hostNode := rfl
@[simp] theorem State.setDie_node (s : State) (n : Nat) (d : Die) : (s.setDie n d).node = s.node := rfl
@[simp] theorem State.setDie_failedPorts (s : State) (n : Nat) (d : Die) : (s.setDie n d).failedPorts = s.failedPorts := rfl
@[simp] theorem State.setDie_trippedAt (s : State) (n : Nat) (d : Die) : (s.setDie n d).trippedAt = s.trippedAt := rfl
@[simp] theorem State.setDie_time (s : State) (n : Nat) (d : Die) : (s.setDie n d).time = s.time := rfl
@[simp] theorem State.setDie_clock (s : State) (n : Nat) (d : Die) : (s.setDie n d).clock = s.clock := rfl
@[simp] theorem State.setDie_decays (s : State) (n : Nat) (d : Die) : (s.setDie n d).decays = s.decays := rfl
@[simp] theorem State.setDie_counterVcs (s : State) (n : Nat) (d : Die) : (s.setDie n d).counterVcs = s.counterVcs := rfl
@[simp] theorem State.setDie_fresh (s : State) (n : Nat) (d : Die) : (s.setDie n d).fresh = s.fresh := rfl
@[simp] theorem State.setDie_agenda (s : State) (n : Nat) (d : Die) : (s.setDie n d).agenda = s.agenda := rfl
@[simp] theorem State.setDie_issue (s : State) (n : Nat) (d : Die) : (s.setDie n d).issue = s.issue := rfl

/-! ### setGroup -/
@[simp] theorem State.setGroup_mem (s : State) (g : Group) : (s.setGroup g).mem = s.mem := rfl
@[simp] theorem State.setGroup_poison (s : State) (g : Group) : (s.setGroup g).poison = s.poison := rfl
@[simp] theorem State.setGroup_l2 (s : State) (g : Group) : (s.setGroup g).l2 = s.l2 := rfl
@[simp] theorem State.setGroup_locked (s : State) (g : Group) : (s.setGroup g).locked = s.locked := rfl
@[simp] theorem State.setGroup_stamps (s : State) (g : Group) : (s.setGroup g).stamps = s.stamps := rfl
@[simp] theorem State.setGroup_hot (s : State) (g : Group) : (s.setGroup g).hot = s.hot := rfl
@[simp] theorem State.setGroup_notices (s : State) (g : Group) : (s.setGroup g).notices = s.notices := rfl
@[simp] theorem State.setGroup_copied (s : State) (g : Group) : (s.setGroup g).copied = s.copied := rfl
@[simp] theorem State.setGroup_leaving (s : State) (g : Group) : (s.setGroup g).leaving = s.leaving := rfl
@[simp] theorem State.setGroup_cores (s : State) (g : Group) : (s.setGroup g).cores = s.cores := rfl
@[simp] theorem State.setGroup_clusters (s : State) (g : Group) : (s.setGroup g).clusters = s.clusters := rfl
@[simp] theorem State.setGroup_dies (s : State) (g : Group) : (s.setGroup g).dies = s.dies := rfl
@[simp] theorem State.setGroup_engineTlb (s : State) (g : Group) : (s.setGroup g).engineTlb = s.engineTlb := rfl
@[simp] theorem State.setGroup_contexts (s : State) (g : Group) : (s.setGroup g).contexts = s.contexts := rfl
@[simp] theorem State.setGroup_workgroups (s : State) (g : Group) : (s.setGroup g).workgroups = s.workgroups := rfl
@[simp] theorem State.setGroup_groups (s : State) (g : Group) : (s.setGroup g).groups = mapWhere (fun x => x.gid == g.gid) (fun _ => g) s.groups := rfl
@[simp] theorem State.setGroup_bars (s : State) (g : Group) : (s.setGroup g).bars = s.bars := rfl
@[simp] theorem State.setGroup_joints (s : State) (g : Group) : (s.setGroup g).joints = s.joints := rfl
@[simp] theorem State.setGroup_requests (s : State) (g : Group) : (s.setGroup g).requests = s.requests := rfl
@[simp] theorem State.setGroup_grants (s : State) (g : Group) : (s.setGroup g).grants = s.grants := rfl
@[simp] theorem State.setGroup_outbox (s : State) (g : Group) : (s.setGroup g).outbox = s.outbox := rfl
@[simp] theorem State.setGroup_hostNode (s : State) (g : Group) : (s.setGroup g).hostNode = s.hostNode := rfl
@[simp] theorem State.setGroup_node (s : State) (g : Group) : (s.setGroup g).node = s.node := rfl
@[simp] theorem State.setGroup_failedPorts (s : State) (g : Group) : (s.setGroup g).failedPorts = s.failedPorts := rfl
@[simp] theorem State.setGroup_trippedAt (s : State) (g : Group) : (s.setGroup g).trippedAt = s.trippedAt := rfl
@[simp] theorem State.setGroup_time (s : State) (g : Group) : (s.setGroup g).time = s.time := rfl
@[simp] theorem State.setGroup_clock (s : State) (g : Group) : (s.setGroup g).clock = s.clock := rfl
@[simp] theorem State.setGroup_decays (s : State) (g : Group) : (s.setGroup g).decays = s.decays := rfl
@[simp] theorem State.setGroup_counterVcs (s : State) (g : Group) : (s.setGroup g).counterVcs = s.counterVcs := rfl
@[simp] theorem State.setGroup_fresh (s : State) (g : Group) : (s.setGroup g).fresh = s.fresh := rfl
@[simp] theorem State.setGroup_agenda (s : State) (g : Group) : (s.setGroup g).agenda = s.agenda := rfl
@[simp] theorem State.setGroup_issue (s : State) (g : Group) : (s.setGroup g).issue = s.issue := rfl

/-! ### updGroup -/
@[simp] theorem State.updGroup_mem (s : State) (n : Nat) (f : Group → Group) : (s.updGroup n f).mem = s.mem := rfl
@[simp] theorem State.updGroup_poison (s : State) (n : Nat) (f : Group → Group) : (s.updGroup n f).poison = s.poison := rfl
@[simp] theorem State.updGroup_l2 (s : State) (n : Nat) (f : Group → Group) : (s.updGroup n f).l2 = s.l2 := rfl
@[simp] theorem State.updGroup_locked (s : State) (n : Nat) (f : Group → Group) : (s.updGroup n f).locked = s.locked := rfl
@[simp] theorem State.updGroup_stamps (s : State) (n : Nat) (f : Group → Group) : (s.updGroup n f).stamps = s.stamps := rfl
@[simp] theorem State.updGroup_hot (s : State) (n : Nat) (f : Group → Group) : (s.updGroup n f).hot = s.hot := rfl
@[simp] theorem State.updGroup_notices (s : State) (n : Nat) (f : Group → Group) : (s.updGroup n f).notices = s.notices := rfl
@[simp] theorem State.updGroup_copied (s : State) (n : Nat) (f : Group → Group) : (s.updGroup n f).copied = s.copied := rfl
@[simp] theorem State.updGroup_leaving (s : State) (n : Nat) (f : Group → Group) : (s.updGroup n f).leaving = s.leaving := rfl
@[simp] theorem State.updGroup_cores (s : State) (n : Nat) (f : Group → Group) : (s.updGroup n f).cores = s.cores := rfl
@[simp] theorem State.updGroup_clusters (s : State) (n : Nat) (f : Group → Group) : (s.updGroup n f).clusters = s.clusters := rfl
@[simp] theorem State.updGroup_dies (s : State) (n : Nat) (f : Group → Group) : (s.updGroup n f).dies = s.dies := rfl
@[simp] theorem State.updGroup_engineTlb (s : State) (n : Nat) (f : Group → Group) : (s.updGroup n f).engineTlb = s.engineTlb := rfl
@[simp] theorem State.updGroup_contexts (s : State) (n : Nat) (f : Group → Group) : (s.updGroup n f).contexts = s.contexts := rfl
@[simp] theorem State.updGroup_workgroups (s : State) (n : Nat) (f : Group → Group) : (s.updGroup n f).workgroups = s.workgroups := rfl
@[simp] theorem State.updGroup_groups (s : State) (n : Nat) (f : Group → Group) : (s.updGroup n f).groups = mapWhere (fun x => x.gid == n) f s.groups := rfl
@[simp] theorem State.updGroup_bars (s : State) (n : Nat) (f : Group → Group) : (s.updGroup n f).bars = s.bars := rfl
@[simp] theorem State.updGroup_joints (s : State) (n : Nat) (f : Group → Group) : (s.updGroup n f).joints = s.joints := rfl
@[simp] theorem State.updGroup_requests (s : State) (n : Nat) (f : Group → Group) : (s.updGroup n f).requests = s.requests := rfl
@[simp] theorem State.updGroup_grants (s : State) (n : Nat) (f : Group → Group) : (s.updGroup n f).grants = s.grants := rfl
@[simp] theorem State.updGroup_outbox (s : State) (n : Nat) (f : Group → Group) : (s.updGroup n f).outbox = s.outbox := rfl
@[simp] theorem State.updGroup_hostNode (s : State) (n : Nat) (f : Group → Group) : (s.updGroup n f).hostNode = s.hostNode := rfl
@[simp] theorem State.updGroup_node (s : State) (n : Nat) (f : Group → Group) : (s.updGroup n f).node = s.node := rfl
@[simp] theorem State.updGroup_failedPorts (s : State) (n : Nat) (f : Group → Group) : (s.updGroup n f).failedPorts = s.failedPorts := rfl
@[simp] theorem State.updGroup_trippedAt (s : State) (n : Nat) (f : Group → Group) : (s.updGroup n f).trippedAt = s.trippedAt := rfl
@[simp] theorem State.updGroup_time (s : State) (n : Nat) (f : Group → Group) : (s.updGroup n f).time = s.time := rfl
@[simp] theorem State.updGroup_clock (s : State) (n : Nat) (f : Group → Group) : (s.updGroup n f).clock = s.clock := rfl
@[simp] theorem State.updGroup_decays (s : State) (n : Nat) (f : Group → Group) : (s.updGroup n f).decays = s.decays := rfl
@[simp] theorem State.updGroup_counterVcs (s : State) (n : Nat) (f : Group → Group) : (s.updGroup n f).counterVcs = s.counterVcs := rfl
@[simp] theorem State.updGroup_fresh (s : State) (n : Nat) (f : Group → Group) : (s.updGroup n f).fresh = s.fresh := rfl
@[simp] theorem State.updGroup_agenda (s : State) (n : Nat) (f : Group → Group) : (s.updGroup n f).agenda = s.agenda := rfl
@[simp] theorem State.updGroup_issue (s : State) (n : Nat) (f : Group → Group) : (s.updGroup n f).issue = s.issue := rfl

/-! ### updCtx -/
@[simp] theorem State.updCtx_mem (s : State) (n : Nat) (f : Context → Context) : (s.updCtx n f).mem = s.mem := rfl
@[simp] theorem State.updCtx_poison (s : State) (n : Nat) (f : Context → Context) : (s.updCtx n f).poison = s.poison := rfl
@[simp] theorem State.updCtx_l2 (s : State) (n : Nat) (f : Context → Context) : (s.updCtx n f).l2 = s.l2 := rfl
@[simp] theorem State.updCtx_locked (s : State) (n : Nat) (f : Context → Context) : (s.updCtx n f).locked = s.locked := rfl
@[simp] theorem State.updCtx_stamps (s : State) (n : Nat) (f : Context → Context) : (s.updCtx n f).stamps = s.stamps := rfl
@[simp] theorem State.updCtx_hot (s : State) (n : Nat) (f : Context → Context) : (s.updCtx n f).hot = s.hot := rfl
@[simp] theorem State.updCtx_notices (s : State) (n : Nat) (f : Context → Context) : (s.updCtx n f).notices = s.notices := rfl
@[simp] theorem State.updCtx_copied (s : State) (n : Nat) (f : Context → Context) : (s.updCtx n f).copied = s.copied := rfl
@[simp] theorem State.updCtx_leaving (s : State) (n : Nat) (f : Context → Context) : (s.updCtx n f).leaving = s.leaving := rfl
@[simp] theorem State.updCtx_cores (s : State) (n : Nat) (f : Context → Context) : (s.updCtx n f).cores = s.cores := rfl
@[simp] theorem State.updCtx_clusters (s : State) (n : Nat) (f : Context → Context) : (s.updCtx n f).clusters = s.clusters := rfl
@[simp] theorem State.updCtx_dies (s : State) (n : Nat) (f : Context → Context) : (s.updCtx n f).dies = s.dies := rfl
@[simp] theorem State.updCtx_engineTlb (s : State) (n : Nat) (f : Context → Context) : (s.updCtx n f).engineTlb = s.engineTlb := rfl
@[simp] theorem State.updCtx_contexts (s : State) (n : Nat) (f : Context → Context) : (s.updCtx n f).contexts = mapWhere (fun c => c.no == n) f s.contexts := rfl
@[simp] theorem State.updCtx_workgroups (s : State) (n : Nat) (f : Context → Context) : (s.updCtx n f).workgroups = s.workgroups := rfl
@[simp] theorem State.updCtx_groups (s : State) (n : Nat) (f : Context → Context) : (s.updCtx n f).groups = s.groups := rfl
@[simp] theorem State.updCtx_bars (s : State) (n : Nat) (f : Context → Context) : (s.updCtx n f).bars = s.bars := rfl
@[simp] theorem State.updCtx_joints (s : State) (n : Nat) (f : Context → Context) : (s.updCtx n f).joints = s.joints := rfl
@[simp] theorem State.updCtx_requests (s : State) (n : Nat) (f : Context → Context) : (s.updCtx n f).requests = s.requests := rfl
@[simp] theorem State.updCtx_grants (s : State) (n : Nat) (f : Context → Context) : (s.updCtx n f).grants = s.grants := rfl
@[simp] theorem State.updCtx_outbox (s : State) (n : Nat) (f : Context → Context) : (s.updCtx n f).outbox = s.outbox := rfl
@[simp] theorem State.updCtx_hostNode (s : State) (n : Nat) (f : Context → Context) : (s.updCtx n f).hostNode = s.hostNode := rfl
@[simp] theorem State.updCtx_node (s : State) (n : Nat) (f : Context → Context) : (s.updCtx n f).node = s.node := rfl
@[simp] theorem State.updCtx_failedPorts (s : State) (n : Nat) (f : Context → Context) : (s.updCtx n f).failedPorts = s.failedPorts := rfl
@[simp] theorem State.updCtx_trippedAt (s : State) (n : Nat) (f : Context → Context) : (s.updCtx n f).trippedAt = s.trippedAt := rfl
@[simp] theorem State.updCtx_time (s : State) (n : Nat) (f : Context → Context) : (s.updCtx n f).time = s.time := rfl
@[simp] theorem State.updCtx_clock (s : State) (n : Nat) (f : Context → Context) : (s.updCtx n f).clock = s.clock := rfl
@[simp] theorem State.updCtx_decays (s : State) (n : Nat) (f : Context → Context) : (s.updCtx n f).decays = s.decays := rfl
@[simp] theorem State.updCtx_counterVcs (s : State) (n : Nat) (f : Context → Context) : (s.updCtx n f).counterVcs = s.counterVcs := rfl
@[simp] theorem State.updCtx_fresh (s : State) (n : Nat) (f : Context → Context) : (s.updCtx n f).fresh = s.fresh := rfl
@[simp] theorem State.updCtx_agenda (s : State) (n : Nat) (f : Context → Context) : (s.updCtx n f).agenda = s.agenda := rfl
@[simp] theorem State.updCtx_issue (s : State) (n : Nat) (f : Context → Context) : (s.updCtx n f).issue = s.issue := rfl

/-! ### updLaunch -/
@[simp] theorem State.updLaunch_mem (s : State) (c n : Nat) (f : Launch → Launch) : (s.updLaunch c n f).mem = s.mem := rfl
@[simp] theorem State.updLaunch_poison (s : State) (c n : Nat) (f : Launch → Launch) : (s.updLaunch c n f).poison = s.poison := rfl
@[simp] theorem State.updLaunch_l2 (s : State) (c n : Nat) (f : Launch → Launch) : (s.updLaunch c n f).l2 = s.l2 := rfl
@[simp] theorem State.updLaunch_locked (s : State) (c n : Nat) (f : Launch → Launch) : (s.updLaunch c n f).locked = s.locked := rfl
@[simp] theorem State.updLaunch_stamps (s : State) (c n : Nat) (f : Launch → Launch) : (s.updLaunch c n f).stamps = s.stamps := rfl
@[simp] theorem State.updLaunch_hot (s : State) (c n : Nat) (f : Launch → Launch) : (s.updLaunch c n f).hot = s.hot := rfl
@[simp] theorem State.updLaunch_notices (s : State) (c n : Nat) (f : Launch → Launch) : (s.updLaunch c n f).notices = s.notices := rfl
@[simp] theorem State.updLaunch_copied (s : State) (c n : Nat) (f : Launch → Launch) : (s.updLaunch c n f).copied = s.copied := rfl
@[simp] theorem State.updLaunch_leaving (s : State) (c n : Nat) (f : Launch → Launch) : (s.updLaunch c n f).leaving = s.leaving := rfl
@[simp] theorem State.updLaunch_cores (s : State) (c n : Nat) (f : Launch → Launch) : (s.updLaunch c n f).cores = s.cores := rfl
@[simp] theorem State.updLaunch_clusters (s : State) (c n : Nat) (f : Launch → Launch) : (s.updLaunch c n f).clusters = s.clusters := rfl
@[simp] theorem State.updLaunch_dies (s : State) (c n : Nat) (f : Launch → Launch) : (s.updLaunch c n f).dies = s.dies := rfl
@[simp] theorem State.updLaunch_engineTlb (s : State) (c n : Nat) (f : Launch → Launch) : (s.updLaunch c n f).engineTlb = s.engineTlb := rfl
@[simp] theorem State.updLaunch_contexts (s : State) (c n : Nat) (f : Launch → Launch) : (s.updLaunch c n f).contexts = mapWhere (fun x => x.no == c) (fun x => x.updLaunch n f) s.contexts := rfl
@[simp] theorem State.updLaunch_workgroups (s : State) (c n : Nat) (f : Launch → Launch) : (s.updLaunch c n f).workgroups = s.workgroups := rfl
@[simp] theorem State.updLaunch_groups (s : State) (c n : Nat) (f : Launch → Launch) : (s.updLaunch c n f).groups = s.groups := rfl
@[simp] theorem State.updLaunch_bars (s : State) (c n : Nat) (f : Launch → Launch) : (s.updLaunch c n f).bars = s.bars := rfl
@[simp] theorem State.updLaunch_joints (s : State) (c n : Nat) (f : Launch → Launch) : (s.updLaunch c n f).joints = s.joints := rfl
@[simp] theorem State.updLaunch_requests (s : State) (c n : Nat) (f : Launch → Launch) : (s.updLaunch c n f).requests = s.requests := rfl
@[simp] theorem State.updLaunch_grants (s : State) (c n : Nat) (f : Launch → Launch) : (s.updLaunch c n f).grants = s.grants := rfl
@[simp] theorem State.updLaunch_outbox (s : State) (c n : Nat) (f : Launch → Launch) : (s.updLaunch c n f).outbox = s.outbox := rfl
@[simp] theorem State.updLaunch_hostNode (s : State) (c n : Nat) (f : Launch → Launch) : (s.updLaunch c n f).hostNode = s.hostNode := rfl
@[simp] theorem State.updLaunch_node (s : State) (c n : Nat) (f : Launch → Launch) : (s.updLaunch c n f).node = s.node := rfl
@[simp] theorem State.updLaunch_failedPorts (s : State) (c n : Nat) (f : Launch → Launch) : (s.updLaunch c n f).failedPorts = s.failedPorts := rfl
@[simp] theorem State.updLaunch_trippedAt (s : State) (c n : Nat) (f : Launch → Launch) : (s.updLaunch c n f).trippedAt = s.trippedAt := rfl
@[simp] theorem State.updLaunch_time (s : State) (c n : Nat) (f : Launch → Launch) : (s.updLaunch c n f).time = s.time := rfl
@[simp] theorem State.updLaunch_clock (s : State) (c n : Nat) (f : Launch → Launch) : (s.updLaunch c n f).clock = s.clock := rfl
@[simp] theorem State.updLaunch_decays (s : State) (c n : Nat) (f : Launch → Launch) : (s.updLaunch c n f).decays = s.decays := rfl
@[simp] theorem State.updLaunch_counterVcs (s : State) (c n : Nat) (f : Launch → Launch) : (s.updLaunch c n f).counterVcs = s.counterVcs := rfl
@[simp] theorem State.updLaunch_fresh (s : State) (c n : Nat) (f : Launch → Launch) : (s.updLaunch c n f).fresh = s.fresh := rfl
@[simp] theorem State.updLaunch_agenda (s : State) (c n : Nat) (f : Launch → Launch) : (s.updLaunch c n f).agenda = s.agenda := rfl
@[simp] theorem State.updLaunch_issue (s : State) (c n : Nat) (f : Launch → Launch) : (s.updLaunch c n f).issue = s.issue := rfl

/-! ### updWg -/
@[simp] theorem State.updWg_mem (s : State) (n : Nat) (f : Workgroup → Workgroup) : (s.updWg n f).mem = s.mem := rfl
@[simp] theorem State.updWg_poison (s : State) (n : Nat) (f : Workgroup → Workgroup) : (s.updWg n f).poison = s.poison := rfl
@[simp] theorem State.updWg_l2 (s : State) (n : Nat) (f : Workgroup → Workgroup) : (s.updWg n f).l2 = s.l2 := rfl
@[simp] theorem State.updWg_locked (s : State) (n : Nat) (f : Workgroup → Workgroup) : (s.updWg n f).locked = s.locked := rfl
@[simp] theorem State.updWg_stamps (s : State) (n : Nat) (f : Workgroup → Workgroup) : (s.updWg n f).stamps = s.stamps := rfl
@[simp] theorem State.updWg_hot (s : State) (n : Nat) (f : Workgroup → Workgroup) : (s.updWg n f).hot = s.hot := rfl
@[simp] theorem State.updWg_notices (s : State) (n : Nat) (f : Workgroup → Workgroup) : (s.updWg n f).notices = s.notices := rfl
@[simp] theorem State.updWg_copied (s : State) (n : Nat) (f : Workgroup → Workgroup) : (s.updWg n f).copied = s.copied := rfl
@[simp] theorem State.updWg_leaving (s : State) (n : Nat) (f : Workgroup → Workgroup) : (s.updWg n f).leaving = s.leaving := rfl
@[simp] theorem State.updWg_cores (s : State) (n : Nat) (f : Workgroup → Workgroup) : (s.updWg n f).cores = s.cores := rfl
@[simp] theorem State.updWg_clusters (s : State) (n : Nat) (f : Workgroup → Workgroup) : (s.updWg n f).clusters = s.clusters := rfl
@[simp] theorem State.updWg_dies (s : State) (n : Nat) (f : Workgroup → Workgroup) : (s.updWg n f).dies = s.dies := rfl
@[simp] theorem State.updWg_engineTlb (s : State) (n : Nat) (f : Workgroup → Workgroup) : (s.updWg n f).engineTlb = s.engineTlb := rfl
@[simp] theorem State.updWg_contexts (s : State) (n : Nat) (f : Workgroup → Workgroup) : (s.updWg n f).contexts = s.contexts := rfl
@[simp] theorem State.updWg_workgroups (s : State) (n : Nat) (f : Workgroup → Workgroup) : (s.updWg n f).workgroups = mapWhere (fun w => w.wid == n) f s.workgroups := rfl
@[simp] theorem State.updWg_groups (s : State) (n : Nat) (f : Workgroup → Workgroup) : (s.updWg n f).groups = s.groups := rfl
@[simp] theorem State.updWg_bars (s : State) (n : Nat) (f : Workgroup → Workgroup) : (s.updWg n f).bars = s.bars := rfl
@[simp] theorem State.updWg_joints (s : State) (n : Nat) (f : Workgroup → Workgroup) : (s.updWg n f).joints = s.joints := rfl
@[simp] theorem State.updWg_requests (s : State) (n : Nat) (f : Workgroup → Workgroup) : (s.updWg n f).requests = s.requests := rfl
@[simp] theorem State.updWg_grants (s : State) (n : Nat) (f : Workgroup → Workgroup) : (s.updWg n f).grants = s.grants := rfl
@[simp] theorem State.updWg_outbox (s : State) (n : Nat) (f : Workgroup → Workgroup) : (s.updWg n f).outbox = s.outbox := rfl
@[simp] theorem State.updWg_hostNode (s : State) (n : Nat) (f : Workgroup → Workgroup) : (s.updWg n f).hostNode = s.hostNode := rfl
@[simp] theorem State.updWg_node (s : State) (n : Nat) (f : Workgroup → Workgroup) : (s.updWg n f).node = s.node := rfl
@[simp] theorem State.updWg_failedPorts (s : State) (n : Nat) (f : Workgroup → Workgroup) : (s.updWg n f).failedPorts = s.failedPorts := rfl
@[simp] theorem State.updWg_trippedAt (s : State) (n : Nat) (f : Workgroup → Workgroup) : (s.updWg n f).trippedAt = s.trippedAt := rfl
@[simp] theorem State.updWg_time (s : State) (n : Nat) (f : Workgroup → Workgroup) : (s.updWg n f).time = s.time := rfl
@[simp] theorem State.updWg_clock (s : State) (n : Nat) (f : Workgroup → Workgroup) : (s.updWg n f).clock = s.clock := rfl
@[simp] theorem State.updWg_decays (s : State) (n : Nat) (f : Workgroup → Workgroup) : (s.updWg n f).decays = s.decays := rfl
@[simp] theorem State.updWg_counterVcs (s : State) (n : Nat) (f : Workgroup → Workgroup) : (s.updWg n f).counterVcs = s.counterVcs := rfl
@[simp] theorem State.updWg_fresh (s : State) (n : Nat) (f : Workgroup → Workgroup) : (s.updWg n f).fresh = s.fresh := rfl
@[simp] theorem State.updWg_agenda (s : State) (n : Nat) (f : Workgroup → Workgroup) : (s.updWg n f).agenda = s.agenda := rfl
@[simp] theorem State.updWg_issue (s : State) (n : Nat) (f : Workgroup → Workgroup) : (s.updWg n f).issue = s.issue := rfl

/-! ### dropRequest -/
@[simp] theorem State.dropRequest_mem (s : State) (n : Nat) : (s.dropRequest n).mem = s.mem := rfl
@[simp] theorem State.dropRequest_poison (s : State) (n : Nat) : (s.dropRequest n).poison = s.poison := rfl
@[simp] theorem State.dropRequest_l2 (s : State) (n : Nat) : (s.dropRequest n).l2 = s.l2 := rfl
@[simp] theorem State.dropRequest_locked (s : State) (n : Nat) : (s.dropRequest n).locked = s.locked := rfl
@[simp] theorem State.dropRequest_stamps (s : State) (n : Nat) : (s.dropRequest n).stamps = s.stamps := rfl
@[simp] theorem State.dropRequest_hot (s : State) (n : Nat) : (s.dropRequest n).hot = s.hot := rfl
@[simp] theorem State.dropRequest_notices (s : State) (n : Nat) : (s.dropRequest n).notices = s.notices := rfl
@[simp] theorem State.dropRequest_copied (s : State) (n : Nat) : (s.dropRequest n).copied = s.copied := rfl
@[simp] theorem State.dropRequest_leaving (s : State) (n : Nat) : (s.dropRequest n).leaving = s.leaving := rfl
@[simp] theorem State.dropRequest_cores (s : State) (n : Nat) : (s.dropRequest n).cores = s.cores := rfl
@[simp] theorem State.dropRequest_clusters (s : State) (n : Nat) : (s.dropRequest n).clusters = s.clusters := rfl
@[simp] theorem State.dropRequest_dies (s : State) (n : Nat) : (s.dropRequest n).dies = s.dies := rfl
@[simp] theorem State.dropRequest_engineTlb (s : State) (n : Nat) : (s.dropRequest n).engineTlb = s.engineTlb := rfl
@[simp] theorem State.dropRequest_contexts (s : State) (n : Nat) : (s.dropRequest n).contexts = s.contexts := rfl
@[simp] theorem State.dropRequest_workgroups (s : State) (n : Nat) : (s.dropRequest n).workgroups = s.workgroups := rfl
@[simp] theorem State.dropRequest_groups (s : State) (n : Nat) : (s.dropRequest n).groups = s.groups := rfl
@[simp] theorem State.dropRequest_bars (s : State) (n : Nat) : (s.dropRequest n).bars = s.bars := rfl
@[simp] theorem State.dropRequest_joints (s : State) (n : Nat) : (s.dropRequest n).joints = s.joints := rfl
@[simp] theorem State.dropRequest_requests (s : State) (n : Nat) : (s.dropRequest n).requests = s.requests.filter (fun r => r.id != n) := rfl
@[simp] theorem State.dropRequest_grants (s : State) (n : Nat) : (s.dropRequest n).grants = s.grants := rfl
@[simp] theorem State.dropRequest_outbox (s : State) (n : Nat) : (s.dropRequest n).outbox = s.outbox := rfl
@[simp] theorem State.dropRequest_hostNode (s : State) (n : Nat) : (s.dropRequest n).hostNode = s.hostNode := rfl
@[simp] theorem State.dropRequest_node (s : State) (n : Nat) : (s.dropRequest n).node = s.node := rfl
@[simp] theorem State.dropRequest_failedPorts (s : State) (n : Nat) : (s.dropRequest n).failedPorts = s.failedPorts := rfl
@[simp] theorem State.dropRequest_trippedAt (s : State) (n : Nat) : (s.dropRequest n).trippedAt = s.trippedAt := rfl
@[simp] theorem State.dropRequest_time (s : State) (n : Nat) : (s.dropRequest n).time = s.time := rfl
@[simp] theorem State.dropRequest_clock (s : State) (n : Nat) : (s.dropRequest n).clock = s.clock := rfl
@[simp] theorem State.dropRequest_decays (s : State) (n : Nat) : (s.dropRequest n).decays = s.decays := rfl
@[simp] theorem State.dropRequest_counterVcs (s : State) (n : Nat) : (s.dropRequest n).counterVcs = s.counterVcs := rfl
@[simp] theorem State.dropRequest_fresh (s : State) (n : Nat) : (s.dropRequest n).fresh = s.fresh := rfl
@[simp] theorem State.dropRequest_agenda (s : State) (n : Nat) : (s.dropRequest n).agenda = s.agenda := rfl
@[simp] theorem State.dropRequest_issue (s : State) (n : Nat) : (s.dropRequest n).issue = s.issue := rfl

/-! ### setJob -/
@[simp] theorem State.setJob_mem (s : State) (n : Nat) (j : Job) : (s.setJob n j).mem = s.mem := rfl
@[simp] theorem State.setJob_poison (s : State) (n : Nat) (j : Job) : (s.setJob n j).poison = s.poison := rfl
@[simp] theorem State.setJob_l2 (s : State) (n : Nat) (j : Job) : (s.setJob n j).l2 = s.l2 := rfl
@[simp] theorem State.setJob_locked (s : State) (n : Nat) (j : Job) : (s.setJob n j).locked = s.locked := rfl
@[simp] theorem State.setJob_stamps (s : State) (n : Nat) (j : Job) : (s.setJob n j).stamps = s.stamps := rfl
@[simp] theorem State.setJob_hot (s : State) (n : Nat) (j : Job) : (s.setJob n j).hot = s.hot := rfl
@[simp] theorem State.setJob_notices (s : State) (n : Nat) (j : Job) : (s.setJob n j).notices = s.notices := rfl
@[simp] theorem State.setJob_copied (s : State) (n : Nat) (j : Job) : (s.setJob n j).copied = s.copied := rfl
@[simp] theorem State.setJob_leaving (s : State) (n : Nat) (j : Job) : (s.setJob n j).leaving = s.leaving := rfl
@[simp] theorem State.setJob_cores (s : State) (n : Nat) (j : Job) : (s.setJob n j).cores = s.cores := rfl
@[simp] theorem State.setJob_clusters (s : State) (n : Nat) (j : Job) : (s.setJob n j).clusters = s.clusters := rfl
@[simp] theorem State.setJob_dies (s : State) (n : Nat) (j : Job) : (s.setJob n j).dies = s.dies := rfl
@[simp] theorem State.setJob_engineTlb (s : State) (n : Nat) (j : Job) : (s.setJob n j).engineTlb = s.engineTlb := rfl
@[simp] theorem State.setJob_contexts (s : State) (n : Nat) (j : Job) : (s.setJob n j).contexts = s.contexts := rfl
@[simp] theorem State.setJob_workgroups (s : State) (n : Nat) (j : Job) : (s.setJob n j).workgroups = s.workgroups := rfl
@[simp] theorem State.setJob_groups (s : State) (n : Nat) (j : Job) : (s.setJob n j).groups = s.groups := rfl
@[simp] theorem State.setJob_bars (s : State) (n : Nat) (j : Job) : (s.setJob n j).bars = s.bars := rfl
@[simp] theorem State.setJob_joints (s : State) (n : Nat) (j : Job) : (s.setJob n j).joints = s.joints := rfl
@[simp] theorem State.setJob_requests (s : State) (n : Nat) (j : Job) : (s.setJob n j).requests = mapWhere (fun r => r.id == n) (fun r => { r with job := j, since := j.away.map (fun _ => s.time) <|> r.since }) s.requests := rfl
@[simp] theorem State.setJob_grants (s : State) (n : Nat) (j : Job) : (s.setJob n j).grants = s.grants := rfl
@[simp] theorem State.setJob_outbox (s : State) (n : Nat) (j : Job) : (s.setJob n j).outbox = s.outbox := rfl
@[simp] theorem State.setJob_hostNode (s : State) (n : Nat) (j : Job) : (s.setJob n j).hostNode = s.hostNode := rfl
@[simp] theorem State.setJob_node (s : State) (n : Nat) (j : Job) : (s.setJob n j).node = s.node := rfl
@[simp] theorem State.setJob_failedPorts (s : State) (n : Nat) (j : Job) : (s.setJob n j).failedPorts = s.failedPorts := rfl
@[simp] theorem State.setJob_trippedAt (s : State) (n : Nat) (j : Job) : (s.setJob n j).trippedAt = s.trippedAt := rfl
@[simp] theorem State.setJob_time (s : State) (n : Nat) (j : Job) : (s.setJob n j).time = s.time := rfl
@[simp] theorem State.setJob_clock (s : State) (n : Nat) (j : Job) : (s.setJob n j).clock = s.clock := rfl
@[simp] theorem State.setJob_decays (s : State) (n : Nat) (j : Job) : (s.setJob n j).decays = s.decays := rfl
@[simp] theorem State.setJob_counterVcs (s : State) (n : Nat) (j : Job) : (s.setJob n j).counterVcs = s.counterVcs := rfl
@[simp] theorem State.setJob_fresh (s : State) (n : Nat) (j : Job) : (s.setJob n j).fresh = s.fresh := rfl
@[simp] theorem State.setJob_agenda (s : State) (n : Nat) (j : Job) : (s.setJob n j).agenda = s.agenda := rfl
@[simp] theorem State.setJob_issue (s : State) (n : Nat) (j : Job) : (s.setJob n j).issue = s.issue := rfl

/-! ### setSend -/
@[simp] theorem State.setSend_mem (s : State) (n : Nat) (p t : Option Nat) : (s.setSend n p t).mem = s.mem := rfl
@[simp] theorem State.setSend_poison (s : State) (n : Nat) (p t : Option Nat) : (s.setSend n p t).poison = s.poison := rfl
@[simp] theorem State.setSend_l2 (s : State) (n : Nat) (p t : Option Nat) : (s.setSend n p t).l2 = s.l2 := rfl
@[simp] theorem State.setSend_locked (s : State) (n : Nat) (p t : Option Nat) : (s.setSend n p t).locked = s.locked := rfl
@[simp] theorem State.setSend_stamps (s : State) (n : Nat) (p t : Option Nat) : (s.setSend n p t).stamps = s.stamps := rfl
@[simp] theorem State.setSend_hot (s : State) (n : Nat) (p t : Option Nat) : (s.setSend n p t).hot = s.hot := rfl
@[simp] theorem State.setSend_notices (s : State) (n : Nat) (p t : Option Nat) : (s.setSend n p t).notices = s.notices := rfl
@[simp] theorem State.setSend_copied (s : State) (n : Nat) (p t : Option Nat) : (s.setSend n p t).copied = s.copied := rfl
@[simp] theorem State.setSend_leaving (s : State) (n : Nat) (p t : Option Nat) : (s.setSend n p t).leaving = s.leaving := rfl
@[simp] theorem State.setSend_cores (s : State) (n : Nat) (p t : Option Nat) : (s.setSend n p t).cores = s.cores := rfl
@[simp] theorem State.setSend_clusters (s : State) (n : Nat) (p t : Option Nat) : (s.setSend n p t).clusters = s.clusters := rfl
@[simp] theorem State.setSend_dies (s : State) (n : Nat) (p t : Option Nat) : (s.setSend n p t).dies = s.dies := rfl
@[simp] theorem State.setSend_engineTlb (s : State) (n : Nat) (p t : Option Nat) : (s.setSend n p t).engineTlb = s.engineTlb := rfl
@[simp] theorem State.setSend_contexts (s : State) (n : Nat) (p t : Option Nat) : (s.setSend n p t).contexts = s.contexts := rfl
@[simp] theorem State.setSend_workgroups (s : State) (n : Nat) (p t : Option Nat) : (s.setSend n p t).workgroups = s.workgroups := rfl
@[simp] theorem State.setSend_groups (s : State) (n : Nat) (p t : Option Nat) : (s.setSend n p t).groups = s.groups := rfl
@[simp] theorem State.setSend_bars (s : State) (n : Nat) (p t : Option Nat) : (s.setSend n p t).bars = s.bars := rfl
@[simp] theorem State.setSend_joints (s : State) (n : Nat) (p t : Option Nat) : (s.setSend n p t).joints = s.joints := rfl
@[simp] theorem State.setSend_requests (s : State) (n : Nat) (p t : Option Nat) : (s.setSend n p t).requests = mapWhere (fun r => r.id == n) (fun r => { r with port := p, since := t }) s.requests := rfl
@[simp] theorem State.setSend_grants (s : State) (n : Nat) (p t : Option Nat) : (s.setSend n p t).grants = s.grants := rfl
@[simp] theorem State.setSend_outbox (s : State) (n : Nat) (p t : Option Nat) : (s.setSend n p t).outbox = s.outbox := rfl
@[simp] theorem State.setSend_hostNode (s : State) (n : Nat) (p t : Option Nat) : (s.setSend n p t).hostNode = s.hostNode := rfl
@[simp] theorem State.setSend_node (s : State) (n : Nat) (p t : Option Nat) : (s.setSend n p t).node = s.node := rfl
@[simp] theorem State.setSend_failedPorts (s : State) (n : Nat) (p t : Option Nat) : (s.setSend n p t).failedPorts = s.failedPorts := rfl
@[simp] theorem State.setSend_trippedAt (s : State) (n : Nat) (p t : Option Nat) : (s.setSend n p t).trippedAt = s.trippedAt := rfl
@[simp] theorem State.setSend_time (s : State) (n : Nat) (p t : Option Nat) : (s.setSend n p t).time = s.time := rfl
@[simp] theorem State.setSend_clock (s : State) (n : Nat) (p t : Option Nat) : (s.setSend n p t).clock = s.clock := rfl
@[simp] theorem State.setSend_decays (s : State) (n : Nat) (p t : Option Nat) : (s.setSend n p t).decays = s.decays := rfl
@[simp] theorem State.setSend_counterVcs (s : State) (n : Nat) (p t : Option Nat) : (s.setSend n p t).counterVcs = s.counterVcs := rfl
@[simp] theorem State.setSend_fresh (s : State) (n : Nat) (p t : Option Nat) : (s.setSend n p t).fresh = s.fresh := rfl
@[simp] theorem State.setSend_agenda (s : State) (n : Nat) (p t : Option Nat) : (s.setSend n p t).agenda = s.agenda := rfl
@[simp] theorem State.setSend_issue (s : State) (n : Nat) (p t : Option Nat) : (s.setSend n p t).issue = s.issue := rfl

/-! ### updLate -/
@[simp] theorem State.updLate_mem (s : State) (f : LateWrite → LateWrite) : (s.updLate f).mem = s.mem := rfl
@[simp] theorem State.updLate_poison (s : State) (f : LateWrite → LateWrite) : (s.updLate f).poison = s.poison := rfl
@[simp] theorem State.updLate_l2 (s : State) (f : LateWrite → LateWrite) : (s.updLate f).l2 = s.l2 := rfl
@[simp] theorem State.updLate_locked (s : State) (f : LateWrite → LateWrite) : (s.updLate f).locked = s.locked := rfl
@[simp] theorem State.updLate_stamps (s : State) (f : LateWrite → LateWrite) : (s.updLate f).stamps = s.stamps := rfl
@[simp] theorem State.updLate_hot (s : State) (f : LateWrite → LateWrite) : (s.updLate f).hot = s.hot := rfl
@[simp] theorem State.updLate_notices (s : State) (f : LateWrite → LateWrite) : (s.updLate f).notices = s.notices := rfl
@[simp] theorem State.updLate_copied (s : State) (f : LateWrite → LateWrite) : (s.updLate f).copied = s.copied := rfl
@[simp] theorem State.updLate_leaving (s : State) (f : LateWrite → LateWrite) : (s.updLate f).leaving = s.leaving := rfl
@[simp] theorem State.updLate_cores (s : State) (f : LateWrite → LateWrite) : (s.updLate f).cores = s.cores := rfl
@[simp] theorem State.updLate_clusters (s : State) (f : LateWrite → LateWrite) : (s.updLate f).clusters = s.clusters := rfl
@[simp] theorem State.updLate_dies (s : State) (f : LateWrite → LateWrite) : (s.updLate f).dies = s.dies := rfl
@[simp] theorem State.updLate_engineTlb (s : State) (f : LateWrite → LateWrite) : (s.updLate f).engineTlb = s.engineTlb := rfl
@[simp] theorem State.updLate_contexts (s : State) (f : LateWrite → LateWrite) : (s.updLate f).contexts = s.contexts := rfl
@[simp] theorem State.updLate_workgroups (s : State) (f : LateWrite → LateWrite) : (s.updLate f).workgroups = s.workgroups.map (fun w => { w with late := w.late.map f }) := rfl
@[simp] theorem State.updLate_groups (s : State) (f : LateWrite → LateWrite) : (s.updLate f).groups = s.groups := rfl
@[simp] theorem State.updLate_bars (s : State) (f : LateWrite → LateWrite) : (s.updLate f).bars = s.bars := rfl
@[simp] theorem State.updLate_joints (s : State) (f : LateWrite → LateWrite) : (s.updLate f).joints = s.joints := rfl
@[simp] theorem State.updLate_requests (s : State) (f : LateWrite → LateWrite) : (s.updLate f).requests = s.requests := rfl
@[simp] theorem State.updLate_grants (s : State) (f : LateWrite → LateWrite) : (s.updLate f).grants = s.grants := rfl
@[simp] theorem State.updLate_outbox (s : State) (f : LateWrite → LateWrite) : (s.updLate f).outbox = s.outbox := rfl
@[simp] theorem State.updLate_hostNode (s : State) (f : LateWrite → LateWrite) : (s.updLate f).hostNode = s.hostNode := rfl
@[simp] theorem State.updLate_node (s : State) (f : LateWrite → LateWrite) : (s.updLate f).node = s.node := rfl
@[simp] theorem State.updLate_failedPorts (s : State) (f : LateWrite → LateWrite) : (s.updLate f).failedPorts = s.failedPorts := rfl
@[simp] theorem State.updLate_trippedAt (s : State) (f : LateWrite → LateWrite) : (s.updLate f).trippedAt = s.trippedAt := rfl
@[simp] theorem State.updLate_time (s : State) (f : LateWrite → LateWrite) : (s.updLate f).time = s.time := rfl
@[simp] theorem State.updLate_clock (s : State) (f : LateWrite → LateWrite) : (s.updLate f).clock = s.clock := rfl
@[simp] theorem State.updLate_decays (s : State) (f : LateWrite → LateWrite) : (s.updLate f).decays = s.decays := rfl
@[simp] theorem State.updLate_counterVcs (s : State) (f : LateWrite → LateWrite) : (s.updLate f).counterVcs = s.counterVcs := rfl
@[simp] theorem State.updLate_fresh (s : State) (f : LateWrite → LateWrite) : (s.updLate f).fresh = s.fresh := rfl
@[simp] theorem State.updLate_agenda (s : State) (f : LateWrite → LateWrite) : (s.updLate f).agenda = s.agenda := rfl
@[simp] theorem State.updLate_issue (s : State) (f : LateWrite → LateWrite) : (s.updLate f).issue = s.issue := rfl

/-! ### freeSave -/
@[simp] theorem State.freeSave_mem (s : State) (c o : Nat) : (s.freeSave c o).mem = s.mem := rfl
@[simp] theorem State.freeSave_poison (s : State) (c o : Nat) : (s.freeSave c o).poison = s.poison := rfl
@[simp] theorem State.freeSave_l2 (s : State) (c o : Nat) : (s.freeSave c o).l2 = s.l2 := rfl
@[simp] theorem State.freeSave_locked (s : State) (c o : Nat) : (s.freeSave c o).locked = s.locked := rfl
@[simp] theorem State.freeSave_stamps (s : State) (c o : Nat) : (s.freeSave c o).stamps = s.stamps := rfl
@[simp] theorem State.freeSave_hot (s : State) (c o : Nat) : (s.freeSave c o).hot = s.hot := rfl
@[simp] theorem State.freeSave_notices (s : State) (c o : Nat) : (s.freeSave c o).notices = s.notices := rfl
@[simp] theorem State.freeSave_copied (s : State) (c o : Nat) : (s.freeSave c o).copied = s.copied := rfl
@[simp] theorem State.freeSave_leaving (s : State) (c o : Nat) : (s.freeSave c o).leaving = s.leaving := rfl
@[simp] theorem State.freeSave_cores (s : State) (c o : Nat) : (s.freeSave c o).cores = s.cores := rfl
@[simp] theorem State.freeSave_clusters (s : State) (c o : Nat) : (s.freeSave c o).clusters = s.clusters := rfl
@[simp] theorem State.freeSave_dies (s : State) (c o : Nat) : (s.freeSave c o).dies = s.dies := rfl
@[simp] theorem State.freeSave_engineTlb (s : State) (c o : Nat) : (s.freeSave c o).engineTlb = s.engineTlb := rfl
@[simp] theorem State.freeSave_contexts (s : State) (c o : Nat) : (s.freeSave c o).contexts = mapWhere (fun x => x.no == c) (fun x => { x with saves := x.saves.filter (fun y => y.1 != o) }) s.contexts := rfl
@[simp] theorem State.freeSave_workgroups (s : State) (c o : Nat) : (s.freeSave c o).workgroups = s.workgroups := rfl
@[simp] theorem State.freeSave_groups (s : State) (c o : Nat) : (s.freeSave c o).groups = s.groups := rfl
@[simp] theorem State.freeSave_bars (s : State) (c o : Nat) : (s.freeSave c o).bars = s.bars := rfl
@[simp] theorem State.freeSave_joints (s : State) (c o : Nat) : (s.freeSave c o).joints = s.joints := rfl
@[simp] theorem State.freeSave_requests (s : State) (c o : Nat) : (s.freeSave c o).requests = s.requests := rfl
@[simp] theorem State.freeSave_grants (s : State) (c o : Nat) : (s.freeSave c o).grants = s.grants := rfl
@[simp] theorem State.freeSave_outbox (s : State) (c o : Nat) : (s.freeSave c o).outbox = s.outbox := rfl
@[simp] theorem State.freeSave_hostNode (s : State) (c o : Nat) : (s.freeSave c o).hostNode = s.hostNode := rfl
@[simp] theorem State.freeSave_node (s : State) (c o : Nat) : (s.freeSave c o).node = s.node := rfl
@[simp] theorem State.freeSave_failedPorts (s : State) (c o : Nat) : (s.freeSave c o).failedPorts = s.failedPorts := rfl
@[simp] theorem State.freeSave_trippedAt (s : State) (c o : Nat) : (s.freeSave c o).trippedAt = s.trippedAt := rfl
@[simp] theorem State.freeSave_time (s : State) (c o : Nat) : (s.freeSave c o).time = s.time := rfl
@[simp] theorem State.freeSave_clock (s : State) (c o : Nat) : (s.freeSave c o).clock = s.clock := rfl
@[simp] theorem State.freeSave_decays (s : State) (c o : Nat) : (s.freeSave c o).decays = s.decays := rfl
@[simp] theorem State.freeSave_counterVcs (s : State) (c o : Nat) : (s.freeSave c o).counterVcs = s.counterVcs := rfl
@[simp] theorem State.freeSave_fresh (s : State) (c o : Nat) : (s.freeSave c o).fresh = s.fresh := rfl
@[simp] theorem State.freeSave_agenda (s : State) (c o : Nat) : (s.freeSave c o).agenda = s.agenda := rfl
@[simp] theorem State.freeSave_issue (s : State) (c o : Nat) : (s.freeSave c o).issue = s.issue := rfl

/-! ### unleave -/
@[simp] theorem State.unleave_mem (s : State) (c : CacheSel) (n : Nat) : (s.unleave c n).mem = s.mem := rfl
@[simp] theorem State.unleave_poison (s : State) (c : CacheSel) (n : Nat) : (s.unleave c n).poison = s.poison := rfl
@[simp] theorem State.unleave_l2 (s : State) (c : CacheSel) (n : Nat) : (s.unleave c n).l2 = s.l2 := rfl
@[simp] theorem State.unleave_locked (s : State) (c : CacheSel) (n : Nat) : (s.unleave c n).locked = s.locked := rfl
@[simp] theorem State.unleave_stamps (s : State) (c : CacheSel) (n : Nat) : (s.unleave c n).stamps = s.stamps := rfl
@[simp] theorem State.unleave_hot (s : State) (c : CacheSel) (n : Nat) : (s.unleave c n).hot = s.hot := rfl
@[simp] theorem State.unleave_notices (s : State) (c : CacheSel) (n : Nat) : (s.unleave c n).notices = s.notices := rfl
@[simp] theorem State.unleave_copied (s : State) (c : CacheSel) (n : Nat) : (s.unleave c n).copied = s.copied := rfl
@[simp] theorem State.unleave_leaving (s : State) (c : CacheSel) (n : Nat) : (s.unleave c n).leaving = s.leaving.filter (fun k => !(k.1 == c && k.2.1 == n)) := rfl
@[simp] theorem State.unleave_cores (s : State) (c : CacheSel) (n : Nat) : (s.unleave c n).cores = s.cores := rfl
@[simp] theorem State.unleave_clusters (s : State) (c : CacheSel) (n : Nat) : (s.unleave c n).clusters = s.clusters := rfl
@[simp] theorem State.unleave_dies (s : State) (c : CacheSel) (n : Nat) : (s.unleave c n).dies = s.dies := rfl
@[simp] theorem State.unleave_engineTlb (s : State) (c : CacheSel) (n : Nat) : (s.unleave c n).engineTlb = s.engineTlb := rfl
@[simp] theorem State.unleave_contexts (s : State) (c : CacheSel) (n : Nat) : (s.unleave c n).contexts = s.contexts := rfl
@[simp] theorem State.unleave_workgroups (s : State) (c : CacheSel) (n : Nat) : (s.unleave c n).workgroups = s.workgroups := rfl
@[simp] theorem State.unleave_groups (s : State) (c : CacheSel) (n : Nat) : (s.unleave c n).groups = s.groups := rfl
@[simp] theorem State.unleave_bars (s : State) (c : CacheSel) (n : Nat) : (s.unleave c n).bars = s.bars := rfl
@[simp] theorem State.unleave_joints (s : State) (c : CacheSel) (n : Nat) : (s.unleave c n).joints = s.joints := rfl
@[simp] theorem State.unleave_requests (s : State) (c : CacheSel) (n : Nat) : (s.unleave c n).requests = s.requests := rfl
@[simp] theorem State.unleave_grants (s : State) (c : CacheSel) (n : Nat) : (s.unleave c n).grants = s.grants := rfl
@[simp] theorem State.unleave_outbox (s : State) (c : CacheSel) (n : Nat) : (s.unleave c n).outbox = s.outbox := rfl
@[simp] theorem State.unleave_hostNode (s : State) (c : CacheSel) (n : Nat) : (s.unleave c n).hostNode = s.hostNode := rfl
@[simp] theorem State.unleave_node (s : State) (c : CacheSel) (n : Nat) : (s.unleave c n).node = s.node := rfl
@[simp] theorem State.unleave_failedPorts (s : State) (c : CacheSel) (n : Nat) : (s.unleave c n).failedPorts = s.failedPorts := rfl
@[simp] theorem State.unleave_trippedAt (s : State) (c : CacheSel) (n : Nat) : (s.unleave c n).trippedAt = s.trippedAt := rfl
@[simp] theorem State.unleave_time (s : State) (c : CacheSel) (n : Nat) : (s.unleave c n).time = s.time := rfl
@[simp] theorem State.unleave_clock (s : State) (c : CacheSel) (n : Nat) : (s.unleave c n).clock = s.clock := rfl
@[simp] theorem State.unleave_decays (s : State) (c : CacheSel) (n : Nat) : (s.unleave c n).decays = s.decays := rfl
@[simp] theorem State.unleave_counterVcs (s : State) (c : CacheSel) (n : Nat) : (s.unleave c n).counterVcs = s.counterVcs := rfl
@[simp] theorem State.unleave_fresh (s : State) (c : CacheSel) (n : Nat) : (s.unleave c n).fresh = s.fresh := rfl
@[simp] theorem State.unleave_agenda (s : State) (c : CacheSel) (n : Nat) : (s.unleave c n).agenda = s.agenda := rfl
@[simp] theorem State.unleave_issue (s : State) (c : CacheSel) (n : Nat) : (s.unleave c n).issue = s.issue := rfl

/-! ### tick -/
@[simp] theorem State.tick_mem (s : State) : (s.tick).mem = s.mem := rfl
@[simp] theorem State.tick_poison (s : State) : (s.tick).poison = s.poison := rfl
@[simp] theorem State.tick_l2 (s : State) : (s.tick).l2 = s.l2 := rfl
@[simp] theorem State.tick_locked (s : State) : (s.tick).locked = s.locked := rfl
@[simp] theorem State.tick_stamps (s : State) : (s.tick).stamps = s.stamps := rfl
@[simp] theorem State.tick_hot (s : State) : (s.tick).hot = s.hot := rfl
@[simp] theorem State.tick_notices (s : State) : (s.tick).notices = s.notices := rfl
@[simp] theorem State.tick_copied (s : State) : (s.tick).copied = s.copied := rfl
@[simp] theorem State.tick_leaving (s : State) : (s.tick).leaving = s.leaving := rfl
@[simp] theorem State.tick_cores (s : State) : (s.tick).cores = s.cores := rfl
@[simp] theorem State.tick_clusters (s : State) : (s.tick).clusters = s.clusters := rfl
@[simp] theorem State.tick_dies (s : State) : (s.tick).dies = s.dies := rfl
@[simp] theorem State.tick_engineTlb (s : State) : (s.tick).engineTlb = s.engineTlb := rfl
@[simp] theorem State.tick_contexts (s : State) : (s.tick).contexts = s.contexts := rfl
@[simp] theorem State.tick_workgroups (s : State) : (s.tick).workgroups = s.workgroups := rfl
@[simp] theorem State.tick_groups (s : State) : (s.tick).groups = s.groups := rfl
@[simp] theorem State.tick_bars (s : State) : (s.tick).bars = s.bars := rfl
@[simp] theorem State.tick_joints (s : State) : (s.tick).joints = s.joints := rfl
@[simp] theorem State.tick_requests (s : State) : (s.tick).requests = s.requests := rfl
@[simp] theorem State.tick_grants (s : State) : (s.tick).grants = s.grants := rfl
@[simp] theorem State.tick_outbox (s : State) : (s.tick).outbox = s.outbox := rfl
@[simp] theorem State.tick_hostNode (s : State) : (s.tick).hostNode = s.hostNode := rfl
@[simp] theorem State.tick_node (s : State) : (s.tick).node = s.node := rfl
@[simp] theorem State.tick_failedPorts (s : State) : (s.tick).failedPorts = s.failedPorts := rfl
@[simp] theorem State.tick_trippedAt (s : State) : (s.tick).trippedAt = s.trippedAt := rfl
@[simp] theorem State.tick_time (s : State) : (s.tick).time = s.time := rfl
@[simp] theorem State.tick_clock (s : State) : (s.tick).clock = s.clock := rfl
@[simp] theorem State.tick_decays (s : State) : (s.tick).decays = s.decays := rfl
@[simp] theorem State.tick_counterVcs (s : State) : (s.tick).counterVcs = s.counterVcs := rfl
@[simp] theorem State.tick_fresh (s : State) : (s.tick).fresh = s.fresh + 1 := rfl
@[simp] theorem State.tick_agenda (s : State) : (s.tick).agenda = s.agenda := rfl
@[simp] theorem State.tick_issue (s : State) : (s.tick).issue = s.issue := rfl

/-! ### Group.setLane -/
@[simp] theorem Group.setLane_gid (g : Group) (i : Nat) (l : Lane) : (g.setLane i l).gid = g.gid := rfl
@[simp] theorem Group.setLane_ctx (g : Group) (i : Nat) (l : Lane) : (g.setLane i l).ctx = g.ctx := rfl
@[simp] theorem Group.setLane_launch (g : Group) (i : Nat) (l : Lane) : (g.setLane i l).launch = g.launch := rfl
@[simp] theorem Group.setLane_clu (g : Group) (i : Nat) (l : Lane) : (g.setLane i l).clu = g.clu := rfl
@[simp] theorem Group.setLane_wgc (g : Group) (i : Nat) (l : Lane) : (g.setLane i l).wgc = g.wgc := rfl
@[simp] theorem Group.setLane_grp (g : Group) (i : Nat) (l : Lane) : (g.setLane i l).grp = g.grp := rfl
@[simp] theorem Group.setLane_core (g : Group) (i : Nat) (l : Lane) : (g.setLane i l).core = g.core := rfl
@[simp] theorem Group.setLane_sub (g : Group) (i : Nat) (l : Lane) : (g.setLane i l).sub = g.sub := rfl
@[simp] theorem Group.setLane_slotNo (g : Group) (i : Nat) (l : Lane) : (g.setLane i l).slotNo = g.slotNo := rfl
@[simp] theorem Group.setLane_resident (g : Group) (i : Nat) (l : Lane) : (g.setLane i l).resident = g.resident := rfl
@[simp] theorem Group.setLane_lanesOn (g : Group) (i : Nat) (l : Lane) : (g.setLane i l).lanesOn = g.lanesOn := rfl
@[simp] theorem Group.setLane_helpers (g : Group) (i : Nat) (l : Lane) : (g.setLane i l).helpers = g.helpers := rfl
@[simp] theorem Group.setLane_exited (g : Group) (i : Nat) (l : Lane) : (g.setLane i l).exited = g.exited := rfl
@[simp] theorem Group.setLane_lanes (g : Group) (i : Nat) (l : Lane) : (g.setLane i l).lanes = setNth g.lanes i l := rfl
@[simp] theorem Group.setLane_frnd (g : Group) (i : Nat) (l : Lane) : (g.setLane i l).frnd = g.frnd := rfl
@[simp] theorem Group.setLane_ftrap (g : Group) (i : Nat) (l : Lane) : (g.setLane i l).ftrap = g.ftrap := rfl
@[simp] theorem Group.setLane_a (g : Group) (i : Nat) (l : Lane) : (g.setLane i l).a = g.a := rfl
@[simp] theorem Group.setLane_b (g : Group) (i : Nat) (l : Lane) : (g.setLane i l).b = g.b := rfl
@[simp] theorem Group.setLane_jr (g : Group) (i : Nat) (l : Lane) : (g.setLane i l).jr = g.jr := rfl
@[simp] theorem Group.setLane_stack (g : Group) (i : Nat) (l : Lane) : (g.setLane i l).stack = g.stack := rfl
@[simp] theorem Group.setLane_frames (g : Group) (i : Nat) (l : Lane) : (g.setLane i l).frames = g.frames := rfl
@[simp] theorem Group.setLane_lastB (g : Group) (i : Nat) (l : Lane) : (g.setLane i l).lastB = g.lastB := rfl
@[simp] theorem Group.setLane_keep (g : Group) (i : Nat) (l : Lane) : (g.setLane i l).keep = g.keep := rfl
@[simp] theorem Group.setLane_windows (g : Group) (i : Nat) (l : Lane) : (g.setLane i l).windows = g.windows := rfl
@[simp] theorem Group.setLane_marked (g : Group) (i : Nat) (l : Lane) : (g.setLane i l).marked = g.marked := rfl
@[simp] theorem Group.setLane_fast (g : Group) (i : Nat) (l : Lane) : (g.setLane i l).fast = g.fast := rfl
@[simp] theorem Group.setLane_count (g : Group) (i : Nat) (l : Lane) : (g.setLane i l).count = g.count := rfl
@[simp] theorem Group.setLane_batch (g : Group) (i : Nat) (l : Lane) : (g.setLane i l).batch = g.batch := rfl
@[simp] theorem Group.setLane_barsW (g : Group) (i : Nat) (l : Lane) : (g.setLane i l).barsW = g.barsW := rfl
@[simp] theorem Group.setLane_barsC (g : Group) (i : Nat) (l : Lane) : (g.setLane i l).barsC = g.barsC := rfl
@[simp] theorem Group.setLane_joints (g : Group) (i : Nat) (l : Lane) : (g.setLane i l).joints = g.joints := rfl
@[simp] theorem Group.setLane_tags (g : Group) (i : Nat) (l : Lane) : (g.setLane i l).tags = g.tags := rfl
@[simp] theorem Group.setLane_interval (g : Group) (i : Nat) (l : Lane) : (g.setLane i l).interval = g.interval := rfl
@[simp] theorem Group.setLane_clocks (g : Group) (i : Nat) (l : Lane) : (g.setLane i l).clocks = g.clocks := rfl
@[simp] theorem Group.setLane_origins (g : Group) (i : Nat) (l : Lane) : (g.setLane i l).origins = g.origins := rfl
@[simp] theorem Group.setLane_fault (g : Group) (i : Nat) (l : Lane) : (g.setLane i l).fault = g.fault := rfl
@[simp] theorem Group.setLane_saveAt (g : Group) (i : Nat) (l : Lane) : (g.setLane i l).saveAt = g.saveAt := rfl
@[simp] theorem Group.setLane_since (g : Group) (i : Nat) (l : Lane) : (g.setLane i l).since = g.since := rfl
@[simp] theorem Group.setLane_refetch (g : Group) (i : Nat) (l : Lane) : (g.setLane i l).refetch = g.refetch := rfl
@[simp] theorem Group.setLane_budget (g : Group) (i : Nat) (l : Lane) : (g.setLane i l).budget = g.budget := rfl
/-! ### Group.setSlot -/
@[simp] theorem Group.setSlot_gid (g : Group) (b : Bool) (x : Slot) : (g.setSlot b x).gid = g.gid := by cases b <;> rfl
@[simp] theorem Group.setSlot_ctx (g : Group) (b : Bool) (x : Slot) : (g.setSlot b x).ctx = g.ctx := by cases b <;> rfl
@[simp] theorem Group.setSlot_launch (g : Group) (b : Bool) (x : Slot) : (g.setSlot b x).launch = g.launch := by cases b <;> rfl
@[simp] theorem Group.setSlot_clu (g : Group) (b : Bool) (x : Slot) : (g.setSlot b x).clu = g.clu := by cases b <;> rfl
@[simp] theorem Group.setSlot_wgc (g : Group) (b : Bool) (x : Slot) : (g.setSlot b x).wgc = g.wgc := by cases b <;> rfl
@[simp] theorem Group.setSlot_grp (g : Group) (b : Bool) (x : Slot) : (g.setSlot b x).grp = g.grp := by cases b <;> rfl
@[simp] theorem Group.setSlot_core (g : Group) (b : Bool) (x : Slot) : (g.setSlot b x).core = g.core := by cases b <;> rfl
@[simp] theorem Group.setSlot_sub (g : Group) (b : Bool) (x : Slot) : (g.setSlot b x).sub = g.sub := by cases b <;> rfl
@[simp] theorem Group.setSlot_slotNo (g : Group) (b : Bool) (x : Slot) : (g.setSlot b x).slotNo = g.slotNo := by cases b <;> rfl
@[simp] theorem Group.setSlot_resident (g : Group) (b : Bool) (x : Slot) : (g.setSlot b x).resident = g.resident := by cases b <;> rfl
@[simp] theorem Group.setSlot_lanesOn (g : Group) (b : Bool) (x : Slot) : (g.setSlot b x).lanesOn = g.lanesOn := by cases b <;> rfl
@[simp] theorem Group.setSlot_helpers (g : Group) (b : Bool) (x : Slot) : (g.setSlot b x).helpers = g.helpers := by cases b <;> rfl
@[simp] theorem Group.setSlot_exited (g : Group) (b : Bool) (x : Slot) : (g.setSlot b x).exited = g.exited := by cases b <;> rfl
@[simp] theorem Group.setSlot_lanes (g : Group) (b : Bool) (x : Slot) : (g.setSlot b x).lanes = g.lanes := by cases b <;> rfl
@[simp] theorem Group.setSlot_frnd (g : Group) (b : Bool) (x : Slot) : (g.setSlot b x).frnd = g.frnd := by cases b <;> rfl
@[simp] theorem Group.setSlot_ftrap (g : Group) (b : Bool) (x : Slot) : (g.setSlot b x).ftrap = g.ftrap := by cases b <;> rfl
@[simp] theorem Group.setSlot_jr (g : Group) (b : Bool) (x : Slot) : (g.setSlot b x).jr = g.jr := by cases b <;> rfl
@[simp] theorem Group.setSlot_stack (g : Group) (b : Bool) (x : Slot) : (g.setSlot b x).stack = g.stack := by cases b <;> rfl
@[simp] theorem Group.setSlot_frames (g : Group) (b : Bool) (x : Slot) : (g.setSlot b x).frames = g.frames := by cases b <;> rfl
@[simp] theorem Group.setSlot_lastB (g : Group) (b : Bool) (x : Slot) : (g.setSlot b x).lastB = g.lastB := by cases b <;> rfl
@[simp] theorem Group.setSlot_keep (g : Group) (b : Bool) (x : Slot) : (g.setSlot b x).keep = g.keep := by cases b <;> rfl
@[simp] theorem Group.setSlot_windows (g : Group) (b : Bool) (x : Slot) : (g.setSlot b x).windows = g.windows := by cases b <;> rfl
@[simp] theorem Group.setSlot_marked (g : Group) (b : Bool) (x : Slot) : (g.setSlot b x).marked = g.marked := by cases b <;> rfl
@[simp] theorem Group.setSlot_fast (g : Group) (b : Bool) (x : Slot) : (g.setSlot b x).fast = g.fast := by cases b <;> rfl
@[simp] theorem Group.setSlot_count (g : Group) (b : Bool) (x : Slot) : (g.setSlot b x).count = g.count := by cases b <;> rfl
@[simp] theorem Group.setSlot_batch (g : Group) (b : Bool) (x : Slot) : (g.setSlot b x).batch = g.batch := by cases b <;> rfl
@[simp] theorem Group.setSlot_barsW (g : Group) (b : Bool) (x : Slot) : (g.setSlot b x).barsW = g.barsW := by cases b <;> rfl
@[simp] theorem Group.setSlot_barsC (g : Group) (b : Bool) (x : Slot) : (g.setSlot b x).barsC = g.barsC := by cases b <;> rfl
@[simp] theorem Group.setSlot_joints (g : Group) (b : Bool) (x : Slot) : (g.setSlot b x).joints = g.joints := by cases b <;> rfl
@[simp] theorem Group.setSlot_tags (g : Group) (b : Bool) (x : Slot) : (g.setSlot b x).tags = g.tags := by cases b <;> rfl
@[simp] theorem Group.setSlot_interval (g : Group) (b : Bool) (x : Slot) : (g.setSlot b x).interval = g.interval := by cases b <;> rfl
@[simp] theorem Group.setSlot_clocks (g : Group) (b : Bool) (x : Slot) : (g.setSlot b x).clocks = g.clocks := by cases b <;> rfl
@[simp] theorem Group.setSlot_origins (g : Group) (b : Bool) (x : Slot) : (g.setSlot b x).origins = g.origins := by cases b <;> rfl
@[simp] theorem Group.setSlot_fault (g : Group) (b : Bool) (x : Slot) : (g.setSlot b x).fault = g.fault := by cases b <;> rfl
@[simp] theorem Group.setSlot_saveAt (g : Group) (b : Bool) (x : Slot) : (g.setSlot b x).saveAt = g.saveAt := by cases b <;> rfl
@[simp] theorem Group.setSlot_since (g : Group) (b : Bool) (x : Slot) : (g.setSlot b x).since = g.since := by cases b <;> rfl
@[simp] theorem Group.setSlot_refetch (g : Group) (b : Bool) (x : Slot) : (g.setSlot b x).refetch = g.refetch := by cases b <;> rfl
@[simp] theorem Group.setSlot_budget (g : Group) (b : Bool) (x : Slot) : (g.setSlot b x).budget = g.budget := by cases b <;> rfl
@[simp] theorem Group.setSlot_slot (g : Group) (b : Bool) (x : Slot) : (g.setSlot b x).slot b = x := by cases b <;> rfl
@[simp] theorem Group.setSlot_other (g : Group) (b : Bool) (x : Slot) : (g.setSlot b x).slot (!b) = g.slot (!b) := by cases b <;> rfl

/-! ### Group.updPlaces -/
@[simp] theorem Group.updPlaces_gid (g : Group) (f : Slot → Slot) : (g.updPlaces f).gid = g.gid := rfl
@[simp] theorem Group.updPlaces_ctx (g : Group) (f : Slot → Slot) : (g.updPlaces f).ctx = g.ctx := rfl
@[simp] theorem Group.updPlaces_launch (g : Group) (f : Slot → Slot) : (g.updPlaces f).launch = g.launch := rfl
@[simp] theorem Group.updPlaces_clu (g : Group) (f : Slot → Slot) : (g.updPlaces f).clu = g.clu := rfl
@[simp] theorem Group.updPlaces_wgc (g : Group) (f : Slot → Slot) : (g.updPlaces f).wgc = g.wgc := rfl
@[simp] theorem Group.updPlaces_grp (g : Group) (f : Slot → Slot) : (g.updPlaces f).grp = g.grp := rfl
@[simp] theorem Group.updPlaces_core (g : Group) (f : Slot → Slot) : (g.updPlaces f).core = g.core := rfl
@[simp] theorem Group.updPlaces_sub (g : Group) (f : Slot → Slot) : (g.updPlaces f).sub = g.sub := rfl
@[simp] theorem Group.updPlaces_slotNo (g : Group) (f : Slot → Slot) : (g.updPlaces f).slotNo = g.slotNo := rfl
@[simp] theorem Group.updPlaces_resident (g : Group) (f : Slot → Slot) : (g.updPlaces f).resident = g.resident := rfl
@[simp] theorem Group.updPlaces_lanesOn (g : Group) (f : Slot → Slot) : (g.updPlaces f).lanesOn = g.lanesOn := rfl
@[simp] theorem Group.updPlaces_helpers (g : Group) (f : Slot → Slot) : (g.updPlaces f).helpers = g.helpers := rfl
@[simp] theorem Group.updPlaces_exited (g : Group) (f : Slot → Slot) : (g.updPlaces f).exited = g.exited := rfl
@[simp] theorem Group.updPlaces_lanes (g : Group) (f : Slot → Slot) : (g.updPlaces f).lanes = g.lanes := rfl
@[simp] theorem Group.updPlaces_frnd (g : Group) (f : Slot → Slot) : (g.updPlaces f).frnd = g.frnd := rfl
@[simp] theorem Group.updPlaces_ftrap (g : Group) (f : Slot → Slot) : (g.updPlaces f).ftrap = g.ftrap := rfl
@[simp] theorem Group.updPlaces_a (g : Group) (f : Slot → Slot) : (g.updPlaces f).a = f g.a := rfl
@[simp] theorem Group.updPlaces_b (g : Group) (f : Slot → Slot) : (g.updPlaces f).b = f g.b := rfl
@[simp] theorem Group.updPlaces_jr (g : Group) (f : Slot → Slot) : (g.updPlaces f).jr = g.jr := rfl
@[simp] theorem Group.updPlaces_stack (g : Group) (f : Slot → Slot) : (g.updPlaces f).stack = g.stack.map (Entry.upd f) := rfl
@[simp] theorem Group.updPlaces_frames (g : Group) (f : Slot → Slot) : (g.updPlaces f).frames = g.frames := rfl
@[simp] theorem Group.updPlaces_lastB (g : Group) (f : Slot → Slot) : (g.updPlaces f).lastB = g.lastB := rfl
@[simp] theorem Group.updPlaces_keep (g : Group) (f : Slot → Slot) : (g.updPlaces f).keep = g.keep := rfl
@[simp] theorem Group.updPlaces_windows (g : Group) (f : Slot → Slot) : (g.updPlaces f).windows = g.windows := rfl
@[simp] theorem Group.updPlaces_marked (g : Group) (f : Slot → Slot) : (g.updPlaces f).marked = g.marked := rfl
@[simp] theorem Group.updPlaces_fast (g : Group) (f : Slot → Slot) : (g.updPlaces f).fast = g.fast := rfl
@[simp] theorem Group.updPlaces_count (g : Group) (f : Slot → Slot) : (g.updPlaces f).count = g.count := rfl
@[simp] theorem Group.updPlaces_batch (g : Group) (f : Slot → Slot) : (g.updPlaces f).batch = g.batch := rfl
@[simp] theorem Group.updPlaces_barsW (g : Group) (f : Slot → Slot) : (g.updPlaces f).barsW = g.barsW := rfl
@[simp] theorem Group.updPlaces_barsC (g : Group) (f : Slot → Slot) : (g.updPlaces f).barsC = g.barsC := rfl
@[simp] theorem Group.updPlaces_joints (g : Group) (f : Slot → Slot) : (g.updPlaces f).joints = g.joints := rfl
@[simp] theorem Group.updPlaces_tags (g : Group) (f : Slot → Slot) : (g.updPlaces f).tags = g.tags := rfl
@[simp] theorem Group.updPlaces_interval (g : Group) (f : Slot → Slot) : (g.updPlaces f).interval = g.interval := rfl
@[simp] theorem Group.updPlaces_clocks (g : Group) (f : Slot → Slot) : (g.updPlaces f).clocks = g.clocks := rfl
@[simp] theorem Group.updPlaces_origins (g : Group) (f : Slot → Slot) : (g.updPlaces f).origins = g.origins := rfl
@[simp] theorem Group.updPlaces_fault (g : Group) (f : Slot → Slot) : (g.updPlaces f).fault = g.fault := rfl
@[simp] theorem Group.updPlaces_saveAt (g : Group) (f : Slot → Slot) : (g.updPlaces f).saveAt = g.saveAt := rfl
@[simp] theorem Group.updPlaces_since (g : Group) (f : Slot → Slot) : (g.updPlaces f).since = g.since := rfl
@[simp] theorem Group.updPlaces_refetch (g : Group) (f : Slot → Slot) : (g.updPlaces f).refetch = g.refetch := rfl
@[simp] theorem Group.updPlaces_budget (g : Group) (f : Slot → Slot) : (g.updPlaces f).budget = g.budget := rfl

/-! ### Lanes -/
@[simp] theorem Lane.put_preds (l : Lane) (o : Nat) (bs : List (BitVec 8)) : (l.put o bs).preds = l.preds := rfl
@[simp] theorem Lane.put_fflags (l : Lane) (o : Nat) (bs : List (BitVec 8)) : (l.put o bs).fflags = l.fflags := rfl
@[simp] theorem Lane.put_nr (l : Lane) (o : Nat) (bs : List (BitVec 8)) : (l.put o bs).nr = l.nr := rfl
@[simp] theorem Lane.put_rowExp (l : Lane) (o : Nat) (bs : List (BitVec 8)) : (l.put o bs).rowExp = l.rowExp := rfl
@[simp] theorem Lane.put_lastPage (l : Lane) (o : Nat) (bs : List (BitVec 8)) : (l.put o bs).lastPage = l.lastPage := rfl
@[simp] theorem Lane.put_regs (l : Lane) (o : Nat) (bs : List (BitVec 8)) : (l.put o bs).regs = l.regs.write o bs := rfl
@[simp] theorem Lane.putPred_regs (l : Lane) (p : Nat) (v : Bool) : (l.putPred p v).regs = l.regs := rfl
@[simp] theorem Lane.putPred_poison (l : Lane) (p : Nat) (v : Bool) : (l.putPred p v).poison = l.poison := rfl
@[simp] theorem Lane.putPred_fflags (l : Lane) (p : Nat) (v : Bool) : (l.putPred p v).fflags = l.fflags := rfl
@[simp] theorem Lane.putPred_nr (l : Lane) (p : Nat) (v : Bool) : (l.putPred p v).nr = l.nr := rfl
@[simp] theorem Lane.putPred_rowExp (l : Lane) (p : Nat) (v : Bool) : (l.putPred p v).rowExp = l.rowExp := rfl
@[simp] theorem Lane.putPred_lastPage (l : Lane) (p : Nat) (v : Bool) : (l.putPred p v).lastPage = l.lastPage := rfl
@[simp] theorem Lane.raise_regs (l : Lane) (m : BitVec 7) : (l.raise m).regs = l.regs := rfl
@[simp] theorem Lane.raise_poison (l : Lane) (m : BitVec 7) : (l.raise m).poison = l.poison := rfl
@[simp] theorem Lane.raise_preds (l : Lane) (m : BitVec 7) : (l.raise m).preds = l.preds := rfl
@[simp] theorem Lane.raise_nr (l : Lane) (m : BitVec 7) : (l.raise m).nr = l.nr := rfl
@[simp] theorem Lane.raise_rowExp (l : Lane) (m : BitVec 7) : (l.raise m).rowExp = l.rowExp := rfl
@[simp] theorem Lane.raise_lastPage (l : Lane) (m : BitVec 7) : (l.raise m).lastPage = l.lastPage := rfl
@[simp] theorem Lane.raise_fflags (l : Lane) (m : BitVec 7) : (l.raise m).fflags = l.fflags ||| m := rfl

end Sys2Proof.Machine
end

