-- ==== Sys2Proof/Laws/Groups.lean ====
section
/-! SUPPORT. Groups, their lanes and slots: look-ups after updates, what the end of a word leaves, and the words that work lane by lane. -/

namespace Sys2Proof.Machine

/-! ### Look-ups -/

theorem find_mapWhere (p : α → Bool) (q : α → Bool) (f : α → α) (hf : ∀ x, p x = true → q (f x) = q x) (l : List α) :
    (mapWhere p f l).find? q = (l.find? q).map (fun x => if p x then f x else x) := by
  induction l with
  | nil => rfl
  | cons x r ih =>
    simp only [mapWhere, List.map_cons, List.find?_cons] at ih ⊢
    by_cases hp : p x <;> simp only [hp, if_true, if_false, Bool.false_eq_true]
    · rw [hf x hp]; by_cases hq : q x <;> simp [hq, hp]; simpa using ih
    · by_cases hq : q x <;> simp [hq, hp]; simpa using ih

theorem group_gid {s : State} {n : Nat} {g : Group} (h : s.group? n = some g) : g.gid = n := by
  have := List.find?_some h; simpa using this

theorem group_updGroup (s : State) (n : Nat) (f : Group → Group) (hf : ∀ g, (f g).gid = g.gid) :
    (s.updGroup n f).group? n = (s.group? n).map f := by
  unfold State.updGroup State.group?
  rw [find_mapWhere _ _ _ (fun x _ => by simp [hf])]
  cases h : s.groups.find? (fun g => g.gid == n) with
  | none => rfl
  | some g => have := List.find?_some h; simp at this; simp [this]

theorem group_updGroup_other (s : State) (n k : Nat) (f : Group → Group) (hf : ∀ g, (f g).gid = g.gid) (h : k ≠ n) :
    (s.updGroup n f).group? k = s.group? k := by
  unfold State.updGroup State.group?
  rw [find_mapWhere _ _ _ (fun x _ => by simp [hf])]
  cases hk : s.groups.find? (fun g => g.gid == k) with
  | none => rfl
  | some g => have := List.find?_some hk; simp at this; simp [this, h]

@[simp] theorem updGroup_updGroup (s : State) (n : Nat) (f f' : Group → Group) (hf : ∀ g, (f g).gid = g.gid) :
    (s.updGroup n f).updGroup n f' = s.updGroup n (fun g => f' (f g)) := by
  unfold State.updGroup mapWhere
  simp only [List.map_map]
  congr 1
  apply List.map_congr_left
  intro g _
  by_cases hg : g.gid = n <;> simp [hg, hf]

/-! ### The issuing word's surroundings -/

theorem env_group {s : State} {e : Env} (h : s.env = some e) : s.group? e.g.gid = some e.g := by
  unfold State.env at h
  split at h
  · cases h
  · split at h
    · cases h
    · rename_i g hg
      split at h
      · cases h
      · simp only [Option.map_eq_some_iff] at h
        obtain ⟨l, hl, rfl⟩ := h
        rw [group_gid hg]; exact hg

theorem env_issue {s : State} {e : Env} (h : s.env = some e) : s.issue = some e.iss := by
  unfold State.env at h
  split at h
  · cases h
  · rename_i iss hi
    split at h
    · cases h
    · split at h
      · cases h
      · simp only [Option.map_eq_some_iff] at h
        obtain ⟨l, hl, rfl⟩ := h
        exact hi

theorem inWord_ok {s : State} {e : Env} {body : Env → Except Halt State} {t : State} (h : s.env = some e) (hb : body e = .ok t) :
    inWord s body = .next t := by simp [inWord, h, hb]

theorem inWord_error {s : State} {e : Env} {body : Env → Except Halt State} {x : Halt} (h : s.env = some e) (hb : body e = .error x) :
    inWord s body = .next (e.takeFault x s) := by simp [inWord, h, hb]

/-! ### Slots: arrival and merge do not look at lanes -/

@[simp] theorem withLanes_setSlot (g : Group) (ls : List Lane) (b : Bool) (x : Slot) :
    (g.withLanes ls).setSlot b x = (g.setSlot b x).withLanes ls := by cases b <;> rfl

@[simp] theorem withLanes_slot (g : Group) (ls : List Lane) (b : Bool) : (g.withLanes ls).slot b = g.slot b := by cases b <;> rfl

@[simp] theorem withLanes_jr (g : Group) (ls : List Lane) : (g.withLanes ls).jr = g.jr := rfl
@[simp] theorem withLanes_stack (g : Group) (ls : List Lane) : (g.withLanes ls).stack = g.stack := rfl

/-- JR set, as a function. -/
theorem withLanes_setJr (g : Group) (ls : List Lane) (f : Option Frame) :
    ({ g.withLanes ls with jr := f } : Group) = ({ g with jr := f } : Group).withLanes ls := rfl

@[simp] theorem popPath_lanes (g : Group) (ls : List Lane) (b : Bool) : (g.withLanes ls).popPath b = (g.popPath b).withLanes ls := by
  unfold Group.popPath
  simp only [withLanes_stack, withLanes_slot, withLanes_setSlot]
  split
  · by_cases h : (g.slot b).path.isNone = true <;> simp only [h, if_true, if_false, Bool.false_eq_true] <;> rfl
  · rfl

@[simp] theorem popFrame_lanes (g : Group) (ls : List Lane) : (g.withLanes ls).popFrame = g.popFrame.withLanes ls := by
  unfold Group.popFrame
  simp only [withLanes_stack, withLanes_jr]
  split
  · by_cases h : g.jr.isNone = true <;> simp only [h, if_true, if_false, Bool.false_eq_true] <;> rfl
  · rfl

theorem merge_lanes (n : Nat) : ∀ (b : Bool) (g : Group) (ls : List Lane),
    Group.merge n b (g.withLanes ls) = (Group.merge n b g).withLanes ls := by
  induction n with
  | zero => intro b g ls; rfl
  | succ n ih =>
    intro b g ls
    unfold Group.merge
    simp only [withLanes_slot, withLanes_jr]
    by_cases hs : ((g.slot b).path.isSome || (g.slot !b).path.isSome) = true
    · simp only [hs, if_true]
    · simp only [hs, if_false, Bool.false_eq_true]
      cases hj : g.jr with
      | none => rfl
      | some f =>
        rw [withLanes_setJr]
        by_cases ha : (f.arrived != 0) = true
        · simp only [ha, if_true, withLanes_setSlot, popPath_lanes, popFrame_lanes, withLanes_jr]
          by_cases ho : (f.outer == some f.join) = true
          · simp only [ho, if_true]
            split
            · rfl
            · simp only [withLanes_setJr, withLanes_setSlot, ih]
          · simp only [ho, if_false, Bool.false_eq_true]
        · simp only [ha, if_false, Bool.false_eq_true, popPath_lanes, popFrame_lanes, withLanes_jr]
          split
          · exact ih ..
          · rfl

@[simp] theorem arriveTest_lanes (g : Group) (ls : List Lane) (b : Bool) : (g.withLanes ls).arriveTest b = (g.arriveTest b).withLanes ls := by
  unfold Group.arriveTest
  simp only [withLanes_slot, withLanes_jr, withLanes_stack]
  split
  · rfl
  · split
    · split
      · split
        · exact withLanes_setSlot ..
        · rfl
      · exact (congrArg (Group.merge _ b) (withLanes_setSlot { g with jr := some _ } ls b Slot.free)).trans (merge_lanes ..)
    · rfl

@[simp] theorem goto_lanes (g : Group) (ls : List Lane) (b : Bool) (pc : DWord) : (g.withLanes ls).goto b pc = (g.goto b pc).withLanes ls := by
  unfold Group.goto Group.updSlot
  simp only [withLanes_slot, withLanes_setSlot, arriveTest_lanes]

/-! ### Arrival keeps what is not a slot, a frame or the stack -/

theorem merge_gid (n : Nat) : ∀ (b : Bool) (g : Group), (Group.merge n b g).gid = g.gid ∧ (Group.merge n b g).lanes = g.lanes := by
  induction n with
  | zero => intro b g; exact ⟨rfl, rfl⟩
  | succ n ih =>
    have pp : ∀ (g : Group) (b : Bool), (g.popPath b).gid = g.gid ∧ (g.popPath b).lanes = g.lanes := by
      intro g b; unfold Group.popPath
      split
      · split <;> simp
      · exact ⟨rfl, rfl⟩
    have pf : ∀ g : Group, g.popFrame.gid = g.gid ∧ g.popFrame.lanes = g.lanes := by
      intro g; unfold Group.popFrame
      split
      · split <;> simp
      · exact ⟨rfl, rfl⟩
    intro b g
    unfold Group.merge
    split
    · exact ⟨rfl, rfl⟩
    · split
      · exact ⟨rfl, rfl⟩
      · rename_i f hf
        simp only
        split
        · split
          · split
            · simp [pf, pp]
            · simp [ih, pf, pp]
          · simp [pf, pp]
        · split <;> simp [ih, pf, pp]

theorem arriveTest_gid (g : Group) (b : Bool) : (g.arriveTest b).gid = g.gid ∧ (g.arriveTest b).lanes = g.lanes := by
  unfold Group.arriveTest
  split
  · exact ⟨rfl, rfl⟩
  · split
    · split
      · split <;> simp
      · simp [merge_gid]
    · exact ⟨rfl, rfl⟩

@[simp] theorem goto_gid (g : Group) (b : Bool) (pc : DWord) : (g.goto b pc).gid = g.gid := by
  unfold Group.goto Group.updSlot; rw [(arriveTest_gid _ _).1]; simp

@[simp] theorem goto_lanes_eq (g : Group) (b : Bool) (pc : DWord) : (g.goto b pc).lanes = g.lanes := by
  unfold Group.goto Group.updSlot; rw [(arriveTest_gid _ _).2]; simp

/-! ### Lanes -/

@[simp] theorem updLane_gid (g : Group) (i : Nat) (f : Lane → Lane) : (g.updLane i f).gid = g.gid := rfl

theorem setNth_length (l : List α) (n : Nat) (v : α) : (setNth l n v).length = l.length := by
  induction l generalizing n with
  | nil => rfl
  | cons x r ih => cases n <;> simp [setNth, ih]

theorem getD_setNth (l : List α) (n m : Nat) (v d : α) : (setNth l n v).getD m d = if m = n ∧ n < l.length then v else l.getD m d := by
  induction l generalizing n m with
  | nil => simp [setNth]
  | cons x r ih =>
    cases n with
    | zero => cases m <;> simp [setNth]
    | succ n =>
      cases m with
      | zero => simp [setNth]
      | succ m => simpa [setNth] using ih n m

theorem lane_updLane (g : Group) (i n : Nat) (f : Lane → Lane) (hn : n < g.lanes.length) :
    (g.updLane i f).lane n = if n = i then f (g.lane i) else g.lane n := by
  unfold Group.updLane Group.setLane Group.lane
  rw [getD_setNth]
  by_cases h : n = i
  · subst h; simp [hn]
  · simp [h]

theorem updLane_length (g : Group) (i : Nat) (f : Lane → Lane) : (g.updLane i f).lanes.length = g.lanes.length := setNth_length ..

/-- Lanes changed one after another: only those named change, each by its own function. -/
theorem fold_updLane (f : Nat → Lane → Lane) (is : List Nat) (hnd : is.Nodup) (g : Group) (n : Nat) (hn : n < g.lanes.length) :
    ((is.foldl (fun grp i => grp.updLane i (f i)) g).lane n = if n ∈ is then f n (g.lane n) else g.lane n) ∧
    (is.foldl (fun grp i => grp.updLane i (f i)) g).lanes.length = g.lanes.length := by
  induction is generalizing g with
  | nil => simp
  | cons i r ih =>
    rw [List.nodup_cons] at hnd
    have h := ih hnd.2 (g.updLane i (f i)) (by rwa [updLane_length])
    simp only [List.foldl_cons]
    refine ⟨?_, ?_⟩
    · rw [h.1, lane_updLane _ _ _ _ hn]
      by_cases hni : n = i
      · subst hni; simp [hnd.1]
      · simp [hni]
    · rw [h.2, updLane_length]

/-- Changing lanes changes nothing else of the group. -/
theorem fold_updLane_group (f : Nat → Lane → Lane) (is : List Nat) (g : Group) :
    is.foldl (fun grp i => grp.updLane i (f i)) g = g.withLanes (is.foldl (fun grp i => grp.updLane i (f i)) g).lanes := by
  induction is generalizing g with
  | nil => rfl
  | cons i r ih => simp only [List.foldl_cons]; rw [ih]; rfl

theorem allLanes_nodup : allLanes.Nodup := by decide

theorem lanesOf_nodup (m : BitVec 32) : (lanesOf m).Nodup := allLanes_nodup.filter _

theorem mem_lanesOf (m : BitVec 32) (n : Nat) : n ∈ lanesOf m ↔ m.getLsbD n = true := by
  unfold lanesOf
  simp only [List.mem_filter]
  constructor
  · exact fun h => h.2
  · intro h
    refine ⟨?_, h⟩
    have hn : n < 32 := Nat.lt_of_not_le (fun hc => by rw [BitVec.getLsbD_of_ge m n hc] at h; cases h)
    have : allLanes = List.range 32 := by decide
    rw [this]; exact List.mem_range.mpr hn

/-! ### Words that work lane by lane -/

@[simp] theorem updGroup_env_g (s : State) (n : Nat) (f : Group → Group) : (s.updGroup n f).issue = s.issue := rfl

/-- A word whose outcome is a change of its group's lanes, after which its slot goes on, is a `LaneWord`. -/
theorem laneWord_of_group {i : Instr} {g : BitVec 3} {s : State} {e : Env} {f : Nat → Lane → Lane} {F : Group → Group} (he : s.env = some e)
    (h : exec i s = .next (e.retire (s.updGroup e.g.gid F))) (hgid : ∀ grp, (F grp).gid = grp.gid) (hF : F e.g = e.g.withLanes (F e.g).lanes)
    (hl : ∀ n, n < e.g.lanes.length → (F e.g).lane n = if (e.eff g).getLsbD n then f n (e.g.lane n) else e.g.lane n) : LaneWord i g s e f := by
  refine ⟨_, (F e.g).goto e.iss.slotB (e.iss.pc + 4), h, ⟨rfl, ?_⟩, ?_, ?_, ?_⟩
  · intro k hk
    show State.group? ((s.updGroup e.g.gid _).updGroup e.g.gid _) k = _
    rw [group_updGroup_other _ _ _ _ (fun g => goto_gid ..) hk, group_updGroup_other _ _ _ _ hgid hk]
  · show State.group? ((s.updGroup e.g.gid _).updGroup e.g.gid _) e.g.gid = _
    rw [group_updGroup _ _ _ (fun g => goto_gid ..), group_updGroup _ _ _ hgid, env_group he]
    rfl
  · unfold WentOn
    conv => lhs; rw [hF]
    rw [goto_lanes, goto_lanes_eq]
  · intro n hn
    rw [← hl n hn]
    unfold Group.lane
    rw [goto_lanes_eq]

theorem fold_updLane_gid (f : Nat → Lane → Lane) (is : List Nat) (g : Group) : (is.foldl (fun grp i => grp.updLane i (f i)) g).gid = g.gid := by
  rw [fold_updLane_group]; rfl

/-- A word whose outcome is that its lanes are changed one by one and its slot goes on is a `LaneWord`. -/
theorem laneWord_of {i : Instr} {g : BitVec 3} {s : State} {e : Env} {f : Nat → Lane → Lane} (he : s.env = some e)
    (h : exec i s = .next (e.retire (e.eachLane g f s))) : LaneWord i g s e f :=
  laneWord_of_group he h (fun _ => fold_updLane_gid ..) (fold_updLane_group ..) (fun n hn => by
    rw [(fold_updLane f _ (lanesOf_nodup (e.eff g)) e.g n hn).1]; simp only [mem_lanesOf])

end Sys2Proof.Machine
end

