-- ==== Sys2Proof/Laws/Memory.lean ====
section
/-! SUPPORT. Byte memories: reading after writing, and the canonical form that every operation keeps. -/

namespace Sys2Proof.Machine

/-! ### Reading after writing -/

theorem above_get (m : Mem) (a b : Nat) (h : a < b) : (Mem.above a m).get b = m.get b := by
  induction m with
  | nil => rfl
  | cons c m ih =>
    obtain ⟨k, v⟩ := c
    simp only [Mem.above]
    split
    · rename_i hk
      rw [ih]; simp only [Mem.get, show ¬ b < k by omega, show b ≠ k by omega, if_false]
    · rfl

theorem above_get_low (m : Mem) (a b : Nat) (h : b ≤ a) : (Mem.above a m).get b = 0 := by
  induction m with
  | nil => rfl
  | cons c m ih =>
    obtain ⟨k, v⟩ := c
    simp only [Mem.above]
    split
    · exact ih
    · simp only [Mem.get, show b < k by omega, if_true]

@[simp] theorem get_set (m : Mem) (a : Nat) (v : BitVec 8) : (m.set a v).get a = v := by
  induction m with
  | nil => simp only [Mem.set]; split <;> simp_all [Mem.get]
  | cons c m ih =>
    obtain ⟨k, b⟩ := c
    simp only [Mem.set]
    split
    · split
      · rename_i h1 h2; simp [Mem.get, h1, h2]
      · simp [Mem.get]
    · split
      · split
        · rename_i h; rw [above_get_low _ _ _ (Nat.le_refl _), h]
        · rename_i h _; simp [Mem.get, h]
      · rename_i h1 h2; simp only [Mem.get, h1, h2, if_false]; exact ih

theorem get_set_other (m : Mem) (a b : Nat) (v : BitVec 8) (h : b ≠ a) : (m.set a v).get b = m.get b := by
  induction m with
  | nil => simp only [Mem.set]; split <;> simp [Mem.get, h]
  | cons c m ih =>
    obtain ⟨k, x⟩ := c
    simp only [Mem.set]
    split
    · split
      · rfl
      · simp only [Mem.get, h, if_false]
        split
        · rename_i h1 _ h2; rw [if_pos (by omega)]
        · rfl
    · split
      · rename_i h1 h2
        subst h2
        split
        · simp only [Mem.get, h, if_false]
          split
          · rename_i hb; exact above_get_low _ _ _ (by omega)
          · exact above_get _ _ _ (by omega)
        · simp only [Mem.get, h, if_false]
      · simp only [Mem.get]; rw [ih]

theorem read_length (m : Mem) (a n : Nat) : (m.read a n).length = n := by
  induction n generalizing a with
  | zero => rfl
  | succ n ih => simp [Mem.read, ih]

theorem get_write (bs : List (BitVec 8)) (m : Mem) (a b : Nat) :
    (m.write a bs).get b = if a ≤ b ∧ b < a + bs.length then bs.getD (b - a) 0 else m.get b := by
  induction bs generalizing m a with
  | nil =>
    rw [if_neg (by intro h; simp only [List.length_nil, Nat.add_zero] at h; omega)]; rfl
  | cons x r ih =>
    simp only [Mem.write, List.length_cons]
    rw [ih]
    by_cases h : b = a
    · subst h
      rw [if_neg (by omega), get_set, if_pos (by omega)]; simp
    · rw [get_set_other _ _ _ _ h]
      by_cases h1 : a + 1 ≤ b ∧ b < a + 1 + r.length
      · rw [if_pos h1, if_pos (by omega)]
        rw [show b - a = (b - (a + 1)) + 1 by omega]; simp
      · rw [if_neg h1, if_neg (by omega)]

/-- What a range holds depends on its bytes alone. -/
theorem read_congr (m m' : Mem) (a n : Nat) (h : ∀ b, a ≤ b → b < a + n → m.get b = m'.get b) : m.read a n = m'.read a n := by
  induction n generalizing a with
  | zero => rfl
  | succ n ih =>
    simp only [Mem.read]
    rw [h a (by omega) (by omega), ih (a + 1) (fun b h1 h2 => h b (by omega) (by omega))]

theorem read_write (m : Mem) (a : Nat) (bs : List (BitVec 8)) : (m.write a bs).read a bs.length = bs := by
  induction bs generalizing m a with
  | nil => rfl
  | cons x r ih =>
    simp only [List.length_cons, Mem.read, Mem.write]
    rw [ih, get_write, if_neg (by omega), get_set]

theorem read_write_other (m : Mem) (a c n : Nat) (bs : List (BitVec 8)) (h : c + n ≤ a ∨ a + bs.length ≤ c) :
    (m.write a bs).read c n = m.read c n :=
  read_congr _ _ _ _ (fun b h1 h2 => by rw [get_write, if_neg (by omega)])

theorem leBytes_length (n v : Nat) : (leBytes n v).length = n := by
  induction n generalizing v with
  | zero => rfl
  | succ n ih => simp [leBytes, ih]

theorem leNat_leBytes (n v : Nat) : leNat (leBytes n v) = v % 256 ^ n := by
  induction n generalizing v with
  | zero => simp [leBytes, leNat]; omega
  | succ n ih =>
    simp only [leBytes, leNat, ih, BitVec.toNat_ofNat]
    have : v % 256 ^ (n + 1) = v % 256 + 256 * (v / 256 % 256 ^ n) := by rw [Nat.pow_succ, Nat.mul_comm, Nat.mod_mul]
    omega

/-! ### The canonical form -/

theorem wfFrom_weaken (m : Mem) (lo hi : Nat) (h : lo ≤ hi) (hw : Mem.wfFrom hi m = true) : Mem.wfFrom lo m = true := by
  cases m with
  | nil => rfl
  | cons c m =>
    obtain ⟨k, b⟩ := c
    simp only [Mem.wfFrom, Bool.and_eq_true, decide_eq_true_eq] at hw ⊢
    exact ⟨⟨by omega, hw.1.2⟩, hw.2⟩

theorem wfFrom_above (m : Mem) (lo a : Nat) (h : lo ≤ a + 1) (hw : Mem.wfFrom lo m = true) : Mem.wfFrom (a + 1) (Mem.above a m) = true := by
  induction m generalizing lo with
  | nil => rfl
  | cons c m ih =>
    obtain ⟨k, b⟩ := c
    simp only [Mem.wfFrom, Bool.and_eq_true, decide_eq_true_eq] at hw
    simp only [Mem.above]
    split
    · exact ih (k + 1) (by omega) hw.2
    · simp only [Mem.wfFrom, Bool.and_eq_true, decide_eq_true_eq]; exact ⟨⟨by omega, hw.1.2⟩, hw.2⟩

theorem wfFrom_set (m : Mem) (lo a : Nat) (v : BitVec 8) (h : lo ≤ a) (hw : Mem.wfFrom lo m = true) : Mem.wfFrom lo (m.set a v) = true := by
  induction m generalizing lo with
  | nil =>
    simp only [Mem.set]
    split
    · rfl
    · rename_i hv; simp only [Mem.wfFrom, Bool.and_eq_true, decide_eq_true_eq, bne_iff_ne]; exact ⟨⟨h, hv⟩, trivial⟩
  | cons c m ih =>
    obtain ⟨k, b⟩ := c
    simp only [Mem.wfFrom, Bool.and_eq_true, decide_eq_true_eq] at hw
    simp only [Mem.set]
    split
    · split
      · simp only [Mem.wfFrom, Bool.and_eq_true, decide_eq_true_eq]; exact hw
      · rename_i h1 hv
        simp only [Mem.wfFrom, Bool.and_eq_true, decide_eq_true_eq]
        exact ⟨⟨h, by simpa using hv⟩, ⟨by omega, hw.1.2⟩, hw.2⟩
    · split
      · split
        · exact wfFrom_weaken _ _ (a + 1) (by omega) (wfFrom_above _ (k + 1) a (by omega) hw.2)
        · rename_i hv
          simp only [Mem.wfFrom, Bool.and_eq_true, decide_eq_true_eq]
          exact ⟨⟨hw.1.1, by simpa using hv⟩, hw.2⟩
      · simp only [Mem.wfFrom, Bool.and_eq_true, decide_eq_true_eq]
        exact ⟨hw.1, ih (k + 1) (by omega) hw.2⟩

@[simp] theorem wf_nil : Mem.wf [] = true := rfl

theorem wf_set (m : Mem) (a : Nat) (v : BitVec 8) (h : m.wf = true) : (m.set a v).wf = true := wfFrom_set _ _ _ _ (Nat.zero_le _) h

theorem wf_write (bs : List (BitVec 8)) (m : Mem) (a : Nat) (h : m.wf = true) : (m.write a bs).wf = true := by
  induction bs generalizing m a with
  | nil => exact h
  | cons x r ih => exact ih _ _ (wf_set _ _ _ h)

theorem wfFrom_filter (p : Host.Cell → Bool) (m : Mem) (lo : Nat) (h : Mem.wfFrom lo m = true) : Mem.wfFrom lo (m.filter p) = true := by
  induction m generalizing lo with
  | nil => rfl
  | cons c m ih =>
    obtain ⟨k, b⟩ := c
    simp only [Mem.wfFrom, Bool.and_eq_true, decide_eq_true_eq] at h
    simp only [List.filter_cons]
    split
    · simp only [Mem.wfFrom, Bool.and_eq_true, decide_eq_true_eq]; exact ⟨h.1, ih _ h.2⟩
    · exact wfFrom_weaken _ _ (k + 1) (by omega) (ih _ h.2)

theorem wf_filter (p : Host.Cell → Bool) (m : Mem) (h : m.wf = true) : Mem.wf (m.filter p) = true := wfFrom_filter p m 0 h

theorem wf_clear (m : Mem) (lo n : Nat) (h : m.wf = true) : (m.clear lo n).wf = true := wf_filter _ _ h

/-- Any sequence of byte writes keeps the canonical form. -/
theorem wf_foldl_set {α : Type} (l : List α) (a : α → Nat) (v : α → BitVec 8) (m : Mem) (h : m.wf = true) :
    Mem.wf (l.foldl (fun m x => m.set (a x) (v x)) m) = true := by
  induction l generalizing m with
  | nil => exact h
  | cons x r ih => exact ih _ (wf_set _ _ _ h)

theorem get_wfFrom_low (m : Mem) (lo b : Nat) (hw : Mem.wfFrom lo m = true) (h : b < lo) : m.get b = 0 := by
  cases m with
  | nil => rfl
  | cons c m =>
    obtain ⟨k, v⟩ := c
    simp only [Mem.wfFrom, Bool.and_eq_true, decide_eq_true_eq] at hw
    simp only [Mem.get, show b < k by omega, if_true]

/-- Memories in canonical form that read alike are equal. -/
theorem wfFrom_ext (m m' : Mem) (lo : Nat) (h : Mem.wfFrom lo m = true) (h' : Mem.wfFrom lo m' = true) (hg : ∀ b, lo ≤ b → m'.get b = m.get b) :
    m' = m := by
  induction m generalizing m' lo with
  | nil =>
    cases m' with
    | nil => rfl
    | cons c r =>
      obtain ⟨k, v⟩ := c
      simp only [Mem.wfFrom, Bool.and_eq_true, decide_eq_true_eq] at h'
      have := hg k (by omega)
      simp [Mem.get] at this
      simp [this] at h'
  | cons c m ih =>
    obtain ⟨k, v⟩ := c
    simp only [Mem.wfFrom, Bool.and_eq_true, decide_eq_true_eq] at h
    cases m' with
    | nil =>
      have := hg k (by omega)
      simp [Mem.get] at this
      simp [← this] at h
    | cons c' r =>
      obtain ⟨k', v'⟩ := c'
      simp only [Mem.wfFrom, Bool.and_eq_true, decide_eq_true_eq] at h'
      have hk : k' = k := by
        rcases Nat.lt_trichotomy k' k with hlt | heq | hgt
        · have := hg k' (by omega)
          simp [Mem.get, hlt] at this
          simp [this] at h'
        · exact heq
        · have := hg k (by omega)
          simp [Mem.get, hgt] at this
          simp [← this] at h
      subst hk
      have hv : v' = v := by have := hg k' (by omega); simpa [Mem.get] using this
      subst hv
      rw [ih r (k' + 1) h.2 h'.2 (fun b hb => by
        have := hg b (by omega)
        simpa only [Mem.get, show ¬ b < k' by omega, show b ≠ k' by omega, if_false] using this)]

end Sys2Proof.Machine
end

