-- ==== Sys2Proof/Laws/Landing.lean ====
section
/-! SUPPORT. What the shared operations on caches and homes change, and that each keeps memory in its canonical form. -/

namespace Sys2Proof.Machine

/-! ### Folds -/

/-- What each step of a fold keeps, the fold keeps. -/
theorem foldl_keeps {α : Type} {P : State → Prop} (f : State → α → State) (hf : ∀ s x, P s → P (f s x)) (xs : List α) :
    ∀ s, P s → P (xs.foldl f s) := by
  induction xs with
  | nil => exact fun _ h => h
  | cons x xs ih => exact fun s h => ih _ (hf s x h)

/-- A fold whose steps leave a part of the state leaves it. -/
theorem foldl_same {α β : Type} (p : State → β) (f : State → α → State) (hf : ∀ s x, p (f s x) = p s) (xs : List α) (s : State) :
    p (xs.foldl f s) = p s :=
  foldl_keeps (P := fun t => p t = p s) f (fun t x h => (hf t x).trans h) xs s rfl

/-! ### Landing at the homes -/

theorem countErrors (xs : List (Nat × Nat)) : ∀ u : State, ∃ ds, xs.foldl (fun (s : State) w =>
    s.setDie (homeDie (w.1 * 32)) { s.die (homeDie (w.1 * 32)) with deferred := (s.die (homeDie (w.1 * 32))).deferred + 1 }) u = { u with dies := ds } := by
  induction xs with
  | nil => exact fun u => ⟨u.dies, rfl⟩
  | cons x xs ih => exact fun u => ih _

theorem landBytes_mem (s : State) (ctx : Option Nat) (bytes : List (Nat × BitVec 8)) (ps : List Nat) :
    (s.landBytes ctx bytes ps).mem = bytes.foldl (fun m w => m.set w.1 w.2) s.mem := by
  unfold State.landBytes
  cases ctx <;>
  · simp only []
    obtain ⟨ds, h⟩ := countErrors _ _
    rw [h]
    try rfl

theorem landBytes_frame (s : State) (ctx : Option Nat) (bytes : List (Nat × BitVec 8)) (ps : List Nat) :
    s.landBytes ctx bytes ps = { s with mem := (s.landBytes ctx bytes ps).mem, poison := (s.landBytes ctx bytes ps).poison,
                                        contexts := (s.landBytes ctx bytes ps).contexts, dies := (s.landBytes ctx bytes ps).dies } := by
  unfold State.landBytes
  cases ctx <;>
  · simp only []
    obtain ⟨ds, h⟩ := countErrors _ _
    rw [h]
    try rfl

theorem land_mem (s : State) (ctx : Option Nat) (ws : List (Nat × BitVec 8 × Bool)) (ps : List Nat) :
    (s.land ctx ws ps).mem = (ws.map (fun w => (w.1, w.2.1))).foldl (fun m w => m.set w.1 w.2) s.mem :=
  landBytes_mem s ctx _ ps

/-- A landing changes memory, poison, contexts (what their bindings capture) and the error counts of the dies. -/
theorem land_frame (s : State) (ctx : Option Nat) (ws : List (Nat × BitVec 8 × Bool)) (ps : List Nat) :
    s.land ctx ws ps = { s with mem := (s.land ctx ws ps).mem, poison := (s.land ctx ws ps).poison,
                                contexts := (s.land ctx ws ps).contexts, dies := (s.land ctx ws ps).dies } := by
  unfold State.land
  simp only []
  rw [landBytes_frame]

theorem land_wf (s : State) (ctx : Option Nat) (ws : List (Nat × BitVec 8 × Bool)) (ps : List Nat) (h : s.mem.wf = true) :
    (s.land ctx ws ps).mem.wf = true := by
  rw [land_mem]; exact wf_foldl_set _ _ _ _ h

@[simp] theorem sendRemote_mem (s : State) (die : Nat) (ws : List (Nat × BitVec 8 × Bool)) : (s.sendRemote die ws).mem = s.mem := rfl

theorem landAny_wf (s : State) (die : Nat) (ctx : Option Nat) (ws : List (Nat × BitVec 8 × Bool)) (ps : List Nat) (h : s.mem.wf = true) :
    (s.landAny die ctx ws ps).mem.wf = true := by
  unfold State.landAny
  split
  · exact h
  · split
    · exact h
    · exact land_wf _ _ _ _ h

theorem landWord_wf (s : State) (a v : Nat) (h : s.mem.wf = true) : (s.landWord a v).mem.wf = true := land_wf _ _ _ _ h

/-- Waits that a signal ends extend promises: contexts are all that differs. -/
@[simp] theorem countWaits_mem (s : State) (source : Nat × Nat) (pa old new : Nat) : (s.countWaits source pa old new).mem = s.mem := by
  unfold State.countWaits
  refine foldl_same (fun t => t.mem) _ (fun t g => ?_) _ _
  refine foldl_same (fun t => t.mem) _ (fun _ _ => ?_) _ _
  rfl

theorem signal_wf (s : State) (ctx : Option Nat) (src : Nat × Nat) (pa : Nat) (trk : Bool) (h : s.mem.wf = true) :
    (s.signal ctx src pa trk).mem.wf = true := by
  unfold State.signal
  split
  · exact h
  · exact land_wf _ _ _ _ (by rw [countWaits_mem]; exact h)

/-! ### L2: which lines stand there, and the hotness counts -/

@[simp] theorem trimSet_mem (s : State) (set : Nat × Nat × Nat) (new : Nat) : (s.trimSet set new).mem = s.mem := by
  unfold State.trimSet
  simp only []
  repeat' split
  all_goals rfl

@[simp] theorem putHome_mem (s : State) (no : Nat) : (s.putHome no).mem = s.mem := by
  unfold State.putHome
  split
  · rfl
  · rw [trimSet_mem]

@[simp] theorem putRemote_mem (s : State) (die : Nat) (l : Line) : (s.putRemote die l).mem = s.mem := by
  unfold State.putRemote
  simp only [trimSet_mem, State.setDie_mem]

@[simp] theorem countHot_mem (s : State) (b r : Nat) : (s.countHot b r).mem = s.mem := rfl

@[simp] theorem readHome_mem (s : State) (no : Nat) (hot : Bool) (r : Nat) : (s.readHome no hot r).mem = s.mem := by
  unfold State.readHome
  simp only []
  repeat' split
  · rfl
  · rw [countHot_mem, putHome_mem]
  · rw [putHome_mem]

@[simp] theorem readLines_mem (s : State) (pa n : Nat) (hot : Bool) (r : Nat) : (s.readLines pa n hot r).mem = s.mem :=
  foldl_same (fun t => t.mem) _ (fun _ _ => readHome_mem ..) _ _

/-! ### Caches: a full one gives up a line, whose dirty bytes go outward -/

theorem backClusterIn_wf (s : State) (ctx : Option Nat) (cc no : Nat) (m : BitVec 128) (h : s.mem.wf = true) :
    (s.backClusterIn ctx cc no m).mem.wf = true := by
  unfold State.backClusterIn
  split
  · exact h
  · split
    · exact h
    · exact landAny_wf _ _ _ _ _ h

theorem backCluster_wf (s : State) (ctx : Option Nat) (cc no : Nat) (h : s.mem.wf = true) : (s.backCluster ctx cc no).mem.wf = true :=
  backClusterIn_wf _ _ _ _ _ h

theorem putCluster_wf (s : State) (cc : Nat) (l : Line) (h : s.mem.wf = true) : (s.putCluster cc l).mem.wf = true := by
  unfold State.putCluster
  simp only []
  repeat' split
  all_goals first
    | exact h
    | exact backCluster_wf _ _ _ _ h

theorem backL1In_wf (s : State) (core no : Nat) (m : BitVec 128) (h : s.mem.wf = true) : (s.backL1In core no m).mem.wf = true := by
  unfold State.backL1In
  simp only []
  repeat' split
  · exact h
  · exact h
  · exact putCluster_wf _ _ _ h

theorem backL1_wf (s : State) (core no : Nat) (h : s.mem.wf = true) : (s.backL1 core no).mem.wf = true := backL1In_wf _ _ _ _ h

theorem putL1_wf (s : State) (core : Nat) (l : Line) (h : s.mem.wf = true) : (s.putL1 core l).mem.wf = true := by
  unfold State.putL1
  simp only []
  repeat' split
  all_goals first
    | exact h
    | exact backL1_wf _ _ _ h

/-- An L1 with room takes a line and gives up none: its core is all that differs. -/
theorem putL1_room (s : State) (core : Nat) (l : Line)
    (h : ((s.setCore core { s.core core with l1 := putLine (s.core core).l1 l }).core core).l1.length ≤ 2048) :
    s.putL1 core l = s.setCore core { s.core core with l1 := putLine (s.core core).l1 l } := by
  unfold State.putL1
  simp only [if_pos h]

theorem fillCluster_wf (s : State) (cc die no : Nat) (hot first : Bool) (h : s.mem.wf = true) :
    (s.fillCluster cc die no hot first).mem.wf = true := by
  unfold State.fillCluster
  simp only []
  split
  · exact h
  · split
    · exact h
    · exact putCluster_wf _ _ _ (by rw [readHome_mem]; exact h)

theorem fillL1_wf (s : State) (core no : Nat) (hot first : Bool) (h : s.mem.wf = true) : (s.fillL1 core no hot first).mem.wf = true := by
  unfold State.fillL1
  simp only []
  split
  · exact h
  · split
    · exact fillCluster_wf _ _ _ _ _ _ h
    · split
      · exact putL1_wf _ _ _ (fillCluster_wf _ _ _ _ _ _ h)
      · exact fillCluster_wf _ _ _ _ _ _ h

theorem allocate_wf (s : State) (core pa n : Nat) (policy : BitVec 2) (hot : Bool) (h : s.mem.wf = true) :
    (s.allocate core pa n policy hot).mem.wf = true := by
  unfold State.allocate
  refine foldl_keeps (P := fun t => t.mem.wf = true) _ (fun t x ht => ?_) _ _ h
  split
  · split
    · exact ht
    · rw [readHome_mem]; exact ht
  · exact fillL1_wf _ _ _ _ _ ht

theorem storeD_wf (s : State) (ctx core gid pa : Nat) (bs : List (BitVec 8)) (policy : BitVec 2) (trk tainted : Bool) (h : s.mem.wf = true) :
    (s.storeD ctx core gid pa bs policy trk tainted).mem.wf = true := by
  unfold State.storeD
  simp only []
  split
  · refine landAny_wf _ _ _ _ _ ?_
    split <;> (try split) <;> exact h
  · exact putL1_wf _ _ _ h

theorem push_wf (s : State) (ctx core gid : Nat) (sc : Scope) (h : s.mem.wf = true) : (s.push ctx core gid sc).mem.wf = true := by
  have h1 : ((dirtyOf gid (s.core core).l1).foldl (fun s no => s.backL1 core no) s).mem.wf = true :=
    foldl_keeps (P := fun t => t.mem.wf = true) _ (fun t x ht => backL1_wf _ _ _ ht) _ _ h
  unfold State.push
  cases sc with
  | grp => exact h
  | wg => exact h
  | clu => exact h1
  | dev => exact foldl_keeps (P := fun t => t.mem.wf = true) _ (fun t x ht => backCluster_wf _ _ _ _ ht) _ _ h1
  | sys => exact foldl_keeps (P := fun t => t.mem.wf = true) _ (fun t x ht => backCluster_wf _ _ _ _ ht) _ _ h1

/-- An acquire drops lines: cores, cluster caches and remote-read lines are all that differs. -/
theorem invalidate_frame (s : State) (core : Nat) (sc : Scope) :
    s.invalidate core sc = { s with cores := (s.invalidate core sc).cores, clusters := (s.invalidate core sc).clusters, dies := (s.invalidate core sc).dies } := by
  unfold State.invalidate
  cases sc <;> rfl

@[simp] theorem invalidate_mem (s : State) (core : Nat) (sc : Scope) : (s.invalidate core sc).mem = s.mem := by rw [invalidate_frame]

theorem expose_wf (s : State) (ctx core pa n : Nat) (sc : Scope) (h : s.mem.wf = true) : (s.expose ctx core pa n sc).mem.wf = true := by
  unfold State.expose
  cases sc with
  | grp => exact h
  | wg => exact h
  | clu => exact backL1_wf _ _ _ h
  | dev => exact backCluster_wf _ _ _ _ (backL1_wf _ _ _ h)
  | sys => exact backCluster_wf _ _ _ _ (backL1_wf _ _ _ h)

theorem atomStep_wf (s : State) (ctx core gid : Nat) (sc : Scope) (policy : BitVec 2) (a : AtomAct) (h : s.mem.wf = true) :
    (s.atomStep ctx core gid sc policy a).2.2.mem.wf = true := by
  have hx := expose_wf s ctx core a.pa 4 sc h
  unfold State.atomStep
  cases sc with
  | grp => exact storeD_wf _ _ _ _ _ _ _ _ _ (fillL1_wf _ _ _ _ _ hx)
  | wg => exact storeD_wf _ _ _ _ _ _ _ _ _ (fillL1_wf _ _ _ _ _ hx)
  | clu =>
    have ht := fun l => putCluster_wf _ (clusterOf core) l (fillCluster_wf _ (clusterOf core) (dieOf core) (lineNo a.pa) a.hot (policy == 1) hx)
    simp only []
    split
    · exact landAny_wf _ _ _ _ _ (ht _)
    · exact ht _
  | dev => exact land_wf _ _ _ _ (by rw [readHome_mem]; exact hx)
  | sys => exact land_wf _ _ _ _ (by rw [readHome_mem]; exact hx)

/-! ### Frames that move, and the device's own areas -/

theorem drainRange_wf (s : State) (lo size : Nat) (h : s.mem.wf = true) : (s.drainRange lo size).mem.wf = true := by
  unfold State.drainRange
  refine foldl_keeps (P := fun t => t.mem.wf = true) _ (fun t x ht => ?_) _ _ ?_
  · exact foldl_keeps (P := fun t => t.mem.wf = true) _ (fun t x ht => by rw [State.setCore_mem]; exact landAny_wf _ _ _ _ _ ht) _ _ ht
  · refine foldl_keeps (P := fun t => t.mem.wf = true) _ (fun t x ht => ?_) _ _ ?_
    · exact foldl_keeps (P := fun t => t.mem.wf = true) _ (fun t x ht => backCluster_wf _ _ _ _ ht) _ _ ht
    · refine foldl_keeps (P := fun t => t.mem.wf = true) _ (fun t x ht => ?_) _ _ h
      exact foldl_keeps (P := fun t => t.mem.wf = true) _ (fun t x ht => backL1_wf _ _ _ ht) _ _ ht

@[simp] theorem forgetRange_mem (s : State) (lo size : Nat) : (s.forgetRange lo size).mem = s.mem := rfl

theorem copyFrame_wf (s : State) (old new size : Nat) (h : s.mem.wf = true) : (s.copyFrame old new size).mem.wf = true :=
  wf_foldl_set _ _ _ _ (wf_clear _ _ _ h)

@[simp] theorem sendFrame_mem (s : State) (frame : Nat) (bs : List (BitVec 8)) : (s.sendFrame frame bs).mem = s.mem := by
  unfold State.sendFrame
  refine foldl_same (fun t => t.mem) _ (fun _ _ => ?_) _ _
  rfl

theorem landFrame_wf (s : State) (new : Nat) (bs : List (BitVec 8)) (ps : List Nat) (h : s.mem.wf = true) : (s.landFrame new bs ps).mem.wf = true :=
  foldl_keeps (P := fun t => t.mem.wf = true) _ (fun _ _ ht => land_wf _ _ _ _ ht) _ _ h

theorem moveFrame_wf (s : State) (old new size : Nat) (data : List (BitVec 8)) (h : s.mem.wf = true) : (s.moveFrame old new size data).mem.wf = true := by
  unfold State.moveFrame
  split
  · rw [sendFrame_mem]; exact h
  · split
    · exact landFrame_wf _ _ _ _ h
    · split
      · exact wf_write _ _ _ (wf_clear _ _ _ h)
      · exact copyFrame_wf _ _ _ _ h

@[simp] theorem sweepTlb_mem (s : State) (ctx : Nat) (page : Option Nat) : (s.sweepTlb ctx page).mem = s.mem := rfl

@[simp] theorem follow_mem (s : State) (old size new : Nat) : (s.follow old size new).mem = s.mem := by
  unfold State.follow; split <;> rfl

theorem migratePage_wf (s : State) (ctx va frame : Nat) (data : List (BitVec 8)) (h : s.mem.wf = true) : (s.migratePage ctx va frame data).mem.wf = true := by
  unfold State.migratePage
  split
  · exact h
  · split
    · exact h
    · simp only [follow_mem, sweepTlb_mem]
      refine landWord_wf _ _ _ ?_
      rw [forgetRange_mem, forgetRange_mem]
      refine moveFrame_wf _ _ _ _ _ ?_
      split
      · exact h
      · exact drainRange_wf _ _ _ h

theorem copyLine_wf (s : State) (old new : Nat) (h : s.mem.wf = true) : (s.copyLine old new).mem.wf = true := by
  unfold State.copyLine
  simp only []
  split
  · exact landFrame_wf _ _ _ _ h
  · exact copyFrame_wf _ _ _ _ h

/-- What copied lines hold at their two frames is kept the same by writes of bytes alone. -/
theorem mirror_wf (s t : State) (h : t.mem.wf = true) : (s.mirror t).mem.wf = true :=
  foldl_keeps (P := fun t => t.mem.wf = true) _ (fun _ _ ht => wf_foldl_set _ _ _ _ ht) _ _ h

@[simp] theorem mirror_none {s t : State} (h : t.copied = []) : s.mirror t = t := by simp [State.mirror, h]

theorem servePage_wf (s : State) (ctx va : Nat) (h : s.mem.wf = true) : (s.servePage ctx va).1.mem.wf = true := by
  unfold State.servePage
  repeat' split
  all_goals first
    | exact h
    | exact migratePage_wf _ _ _ _ _ h

@[simp] theorem noteEngine_mem (s : State) (u : Option StopUnit) (l : Leaf) : (s.noteEngine u l).mem = s.mem := by
  unfold State.noteEngine
  repeat' split
  all_goals rfl

theorem engineAccess_wf {s t : State} {u : Option StopUnit} {ctx va : Nat} {n : Need} {l : Leaf} (h : s.engineAccess u ctx va n = .ok (t, l))
    (hw : s.mem.wf = true) : t.mem.wf = true := by
  unfold State.engineAccess at h
  split at h
  · contradiction
  · split at h
    · contradiction
    · split at h
      · contradiction
      · split at h
        · cases h; rw [noteEngine_mem]; exact hw
        · have hs := servePage_wf s ctx va hw
          split at h
          · contradiction
          · rename_i u hu
            rw [hu] at hs
            split at h
            · split at h
              · cases h; rw [noteEngine_mem]; exact hs
              · contradiction
            · contradiction

/-- An access that fails leaves memory as it was, or as a page request that it made left it. -/
theorem engineAccess_error_wf {s t : State} {u : Option StopUnit} {ctx va : Nat} {n : Need} (h : s.engineAccess u ctx va n = .error t)
    (hw : s.mem.wf = true) : t.mem.wf = true := by
  have hs := servePage_wf s ctx va hw
  unfold State.engineAccess at h
  repeat' split at h
  all_goals first
    | contradiction
    | (cases h; exact hw)
    | (rename_i hu; cases h; rw [hu] at hs; exact hs)
    | (rename_i hu _ _; cases h; rw [hu] at hs; exact hs)
    | (rename_i hu _ _ _ _; cases h; rw [hu] at hs; exact hs)

theorem signalVa_wf {s t : State} {ctx : Nat} {src : Nat × Nat} {va : Nat} (h : s.signalVa ctx src va = .ok t) (hw : s.mem.wf = true) : t.mem.wf = true := by
  unfold State.signalVa at h
  split at h
  · contradiction
  · rename_i u l hu
    cases h
    exact signal_wf _ _ _ _ _ (engineAccess_wf hu hw)

theorem ownWrite_wf (s : State) (base : Nat) (bs : List (BitVec 8)) (h : s.mem.wf = true) : (s.ownWrite base bs).mem.wf = true :=
  wf_write _ _ _ (wf_clear _ _ _ h)

theorem saveBytes_wf (s : State) (ctx owner : Nat) (bs : List (BitVec 8)) (h : s.mem.wf = true) : (s.saveBytes ctx owner bs).1.mem.wf = true := by
  unfold State.saveBytes
  split
  · exact h
  · split
    · exact h
    · exact ownWrite_wf _ _ _ h

end Sys2Proof.Machine
end

