-- ==== Sys2Proof/Laws/Faults.lean ====
section
/-! SUPPORT. What the shared operations of words change: ending a word, making a request, trapping lanes, raising the halt line and taking a fault. -/

namespace Sys2Proof.Machine

/-! ### The halt line -/

/-- The halt line is the context's: nothing else differs. -/
theorem raiseLine_frame (s : State) (ctx : Nat) (i : StopInfo) : s.raiseLine ctx i = { s with contexts := (s.raiseLine ctx i).contexts } := rfl

theorem ctx_no {s : State} {n : Nat} {c : Context} (h : s.ctx? n = some c) : c.no = n := by
  have := List.find?_some h; simpa using this

theorem ctx_updCtx (s : State) (n : Nat) (f : Context → Context) (hf : ∀ c, (f c).no = c.no) : (s.updCtx n f).ctx? n = (s.ctx? n).map f := by
  unfold State.updCtx State.ctx?
  simp only []
  rw [find_mapWhere _ _ _ (fun x _ => by simp [hf])]
  cases h : s.contexts.find? (fun c => c.no == n) with
  | none => rfl
  | some c => have := List.find?_some h; simp at this; simp [this]

theorem ctx_updCtx_other (s : State) (n k : Nat) (f : Context → Context) (hf : ∀ c, (f c).no = c.no) (h : k ≠ n) : (s.updCtx n f).ctx? k = s.ctx? k := by
  unfold State.updCtx State.ctx?
  simp only []
  rw [find_mapWhere _ _ _ (fun x _ => by simp [hf])]
  cases hk : s.contexts.find? (fun c => c.no == k) with
  | none => rfl
  | some c => have := List.find?_some hk; simp at this; simp [this, h]

/-- The line of a running context is raised with its cause, and its units have still to stop (17, R318). -/
theorem raiseLine_running {s : State} {n : Nat} {c : Context} (i : StopInfo) (hc : s.ctx? n = some c) (hr : c.run = .running) :
    (s.raiseLine n i).ctx? n = some { c with run := .raised, stop := some { i with pending := s.unitsOf n } } := by
  unfold State.raiseLine
  simp only []
  rw [ctx_updCtx, hc]
  · simp [hr]
  · intro x
    split
    · rfl
    · split <;> rfl
    · rfl

/-- No other context's line is raised. -/
theorem raiseLine_other (s : State) (n k : Nat) (i : StopInfo) (h : k ≠ n) : (s.raiseLine n i).ctx? k = s.ctx? k := by
  unfold State.raiseLine
  simp only []
  refine ctx_updCtx_other _ _ _ _ (fun x => ?_) h
  split
  · rfl
  · split <;> rfl
  · rfl

/-- Taking a fault changes the group, its context's halt line, and ends the issue. -/
theorem takeFault_frame (e : Env) (h : Halt) (s : State) :
    e.takeFault h s = { s with groups := (e.takeFault h s).groups, contexts := (e.takeFault h s).contexts, issue := none } := by
  unfold Env.takeFault
  rfl

@[simp] theorem takeFault_mem (e : Env) (h : Halt) (s : State) : (e.takeFault h s).mem = s.mem := by rw [takeFault_frame]

@[simp] theorem updWord_gid (g : Group) (b : Bool) (pc : DWord) (f : Slot → Slot) : (g.updWord b pc f).gid = g.gid := by
  unfold Group.updWord
  simp only []
  split
  · rfl
  · exact Group.setSlot_gid ..

@[simp] theorem updSlot_gid (g : Group) (b : Bool) (f : Slot → Slot) : (g.updSlot b f).gid = g.gid := Group.setSlot_gid ..

theorem takeFault_other (e : Env) (h : Halt) (s : State) (k : Nat) (hk : k ≠ e.g.gid) : (e.takeFault h s).group? k = s.group? k := by
  unfold Env.takeFault
  refine group_updGroup_other s e.g.gid k _ (fun g => ?_) hk
  simp only []
  split
  · exact updSlot_gid ..
  · exact updWord_gid ..

/-- A fault of a word in flight changes its group and its context's halt line; the word stays in flight. -/
theorem flightFault_frame (e : Env) (h : Halt) (s : State) :
    e.flightFault h s = { s with groups := (e.flightFault h s).groups, contexts := (e.flightFault h s).contexts } := rfl

@[simp] theorem flightFault_mem (e : Env) (h : Halt) (s : State) : (e.flightFault h s).mem = s.mem := rfl

/-- A fault that an engine raises is its context's halt line. -/
theorem engineFault_frame (s : State) (r : Request) (cause addr : Nat) :
    s.engineFault r cause addr = { s with contexts := (s.engineFault r cause addr).contexts } := by
  unfold State.engineFault
  rfl

@[simp] theorem engineFault_mem (s : State) (r : Request) (cause addr : Nat) : (s.engineFault r cause addr).mem = s.mem := by rw [engineFault_frame]

/-! ### The end of a word -/

@[simp] theorem retire_mem (e : Env) (s : State) : (e.retire s).mem = s.mem := rfl
@[simp] theorem await_mem (e : Env) (w : Wait) (s : State) : (e.await w s).mem = s.mem := rfl
@[simp] theorem submit_mem (e : Env) (job : Job) (s : State) : (e.submit job s).mem = s.mem := rfl
@[simp] theorem launchLong_mem (e : Env) (la : BitVec 4) (job : Job) (s : State) : (e.launchLong la job s).mem = s.mem := rfl

/-- A word that makes a request: the requests and its group are all that differs. -/
theorem launchLong_frame (e : Env) (la : BitVec 4) (job : Job) (s : State) :
    e.launchLong la job s = { s with groups := (e.launchLong la job s).groups, requests := s.requests ++ [e.request s job], fresh := s.fresh + 1, issue := none } := rfl

/-- Lanes that trap leave memory alone, and so does the word that they leave undone. -/
theorem trapOr_mem (e : Env) (ts : List LaneTrap) (g : BitVec 3) (d : Option Delivered) (done : State → State) (s : State) (h : (done s).mem = s.mem) :
    (e.trapOr ts g d done s).mem = s.mem := by
  unfold Env.trapOr
  cases ts with
  | nil => exact h
  | cons t ts => simp only [Env.pool]; split <;> rfl

/-- A word that sends bytes away makes requests of them, and leaves memory alone. -/
@[simp] theorem sends_mem (e : Env) (s t : State) : (e.sends s t).mem = t.mem :=
  foldl_same State.mem (fun t a => e.submit (.remoteWrite a) t) (fun _ _ => rfl) _ t

/-- An event that waits for acknowledgements changes its request alone until it takes place. -/
theorem withAck_keeps {P : State → Prop} (s : State) (r : Request) (remote : RemoteReply) (t : State) (ht : P t)
    (hw : ∀ u p x, P u → P (u.setSend r.id p x)) (hs : P s) (hf : ∀ a, P (s.engineFault r 0x06 a)) : P (s.withAck r remote t) := by
  unfold State.withAck
  split
  · exact ht
  · exact hw _ _ _ hs
  · exact hw _ _ _ (hf _)

theorem withAck_wf (s : State) (r : Request) (remote : RemoteReply) (t : State) (hs : s.mem.wf = true) (ht : t.mem.wf = true) :
    (s.withAck r remote t).mem.wf = true :=
  withAck_keeps (P := fun u => u.mem.wf = true) s r remote t ht (fun _ _ _ h => h) hs (fun a => by rw [engineFault_mem]; exact hs)

/-! ### What every word keeps -/

/-- A word whose effect keeps a property, and a fault that keeps it, keep it in every next state. -/
theorem inWord_keeps {P : State → Prop} {s t : State} {body : Env → Except Halt State} (h : inWord s body = .next t)
    (hb : ∀ e u, s.env = some e → body e = .ok u → P u) (hf : ∀ e x, s.env = some e → P (e.takeFault x s)) : P t := by
  unfold inWord at h
  split at h
  · contradiction
  · rename_i e he
    split at h
    · rename_i u hu; cases h; exact hb e _ he hu
    · rename_i x hx; cases h; exact hf e _ he

/-- A word keeps memory canonical if its effect does: a fault leaves memory alone. -/
theorem inWord_wf {s t : State} {body : Env → Except Halt State} (h : inWord s body = .next t) (hw : s.mem.wf = true)
    (hb : ∀ e u, s.env = some e → body e = .ok u → u.mem.wf = true) : t.mem.wf = true :=
  inWord_keeps h hb (fun e x _ => by rw [takeFault_mem]; exact hw)

end Sys2Proof.Machine
end

