-- ==== Sys2Proof/Laws/Fp.lean ====
section
/-! SUPPORT. Floating-point words in lanes that do not trap: results written and flags raised, lane by lane. -/

namespace Sys2Proof.Machine

@[simp] theorem withLanes_isHelper (g : Group) (ls : List Lane) (n : Nat) : (g.withLanes ls).isHelper n = g.isHelper n := rfl

theorem raiseFlags_group (fs : List (Nat × BitVec 7)) (g : Group) : g.raiseFlags fs = g.withLanes (g.raiseFlags fs).lanes := by
  unfold Group.raiseFlags
  induction fs generalizing g with
  | nil => rfl
  | cons x r ih =>
    simp only [List.foldl_cons]
    split
    · exact ih g
    · rw [ih]; rfl

theorem raiseFlags_lane (fs : List (Nat × BitVec 7)) (hnd : (fs.map (·.1)).Nodup) (g : Group) (n : Nat) (hn : n < g.lanes.length) :
    (g.raiseFlags fs).lane n =
      match fs.find? (fun x => x.1 == n) with
      | some x => if g.isHelper n then g.lane n else (g.lane n).raise x.2
      | none => g.lane n := by
  induction fs generalizing g with
  | nil => rfl
  | cons x r ih =>
    simp only [List.map_cons, List.nodup_cons] at hnd
    have hx : ∀ y ∈ r, y.1 = n → x.1 ≠ n := by
      intro y hy hyn hxn
      exact hnd.1 (by rw [hxn, ← hyn]; exact List.mem_map_of_mem hy)
    have step : ∀ k : Group, (k.raiseFlags (x :: r)) = ((if k.isHelper x.1 then k else k.updLane x.1 (fun l => l.raise x.2)).raiseFlags r) := fun _ => rfl
    rw [step]
    simp only [List.find?_cons]
    by_cases hh : g.isHelper x.1
    · rw [if_pos hh, ih hnd.2 g hn]
      by_cases hxn : x.1 = n
      · subst hxn
        have : r.find? (fun y => y.1 == x.1) = none := by
          rw [List.find?_eq_none]; intro y hy hc; exact hx y hy (by simpa using hc) rfl
        simp [this, hh]
      · rw [show (x.1 == n) = false by simpa using hxn]
    · rw [if_neg hh, ih hnd.2 _ (by rw [updLane_length]; exact hn)]
      have hlane := lane_updLane g x.1 n (fun l => l.raise x.2) hn
      have hhelp : (g.updLane x.1 fun l => l.raise x.2).isHelper n = g.isHelper n := rfl
      rw [hlane, hhelp]
      by_cases hxn : x.1 = n
      · subst hxn
        have : r.find? (fun y => y.1 == x.1) = none := by
          rw [List.find?_eq_none]; intro y hy hc; exact hx y hy (by simpa using hc) rfl
        simp [this, hh]
      · rw [show (x.1 == n) = false by simpa using hxn, if_neg (Ne.symm hxn)]

theorem fold_put_group (rs : List FpLane) (g : Group) :
    rs.foldl (fun grp r => grp.updLane r.lane r.put) g = g.withLanes (rs.foldl (fun grp r => grp.updLane r.lane r.put) g).lanes := by
  induction rs generalizing g with
  | nil => rfl
  | cons x r ih => simp only [List.foldl_cons]; rw [ih]; rfl

theorem fold_put_lane (R : Nat → FpLane) (hR : ∀ i, (R i).lane = i) (is : List Nat) (hnd : is.Nodup) (g : Group) (n : Nat) (hn : n < g.lanes.length) :
    ((is.map R).foldl (fun grp r => grp.updLane r.lane r.put) g).lane n = (if n ∈ is then (R n).put (g.lane n) else g.lane n) ∧
    ((is.map R).foldl (fun grp r => grp.updLane r.lane r.put) g).lanes.length = g.lanes.length := by
  have h := fold_updLane (fun i => (R i).put) is hnd g n hn
  rw [List.foldl_map]
  simp only [hR]
  exact h

theorem fpTraps_none {e : Env} {g : BitVec 3} {R : Nat → FpLane} (hR : ∀ i, (R i).lane = i)
    (h : ∀ i, (e.eff g).getLsbD i → e.g.isHelper i = false → trapCause e.g.ftrap (R i).sn (R i).flags = none) (is : List Nat) :
    e.fpTraps g (is.map R) = [] := by
  unfold Env.fpTraps
  rw [List.filterMap_eq_nil_iff]
  intro r hr
  obtain ⟨i, -, rfl⟩ := List.mem_map.mp hr
  rw [hR]
  by_cases he : (e.eff g).getLsbD i = true
  · by_cases hh : e.g.isHelper i = true
    · simp [hh]
    · simp only [Bool.not_eq_true] at hh
      simp [he, hh, h i he hh]
  · simp [he]

/-- The lanes that a word counts in are active lanes of it. -/
theorem eff_act (e : Env) (g : BitVec 3) (n : Nat) (h : (e.eff g).getLsbD n = true) : (e.act g).getLsbD n = true := by
  unfold Env.eff at h
  unfold Env.act at h ⊢
  by_cases hr : e.iss.redo = true
  · simp only [hr, if_true, BitVec.getLsbD_and, Bool.and_eq_true] at h ⊢; exact h.2
  · simp only [hr, if_false, Bool.false_eq_true] at h ⊢; exact h

/-- A floating-point word none of whose lanes traps is a `LaneWord`. -/
theorem fpWord_of {i : Instr} {g : BitVec 3} {s : State} {e : Env} {R : Nat → FpLane} {d : Option Delivered} (he : s.env = some e)
    (h : exec i s = .next (e.finishFp g d ((lanesOf (e.act g)).map R) s)) (hR : ∀ i, (R i).lane = i)
    (hno : ∀ i, (e.eff g).getLsbD i → e.g.isHelper i = false → trapCause e.g.ftrap (R i).sn (R i).flags = none) :
    LaneWord i g s e (fun n l => fpEffect e n (R n).put (R n).flags l) := by
  have ht := fpTraps_none hR hno (lanesOf (e.act g))
  have hd : e.fpDone g ((lanesOf (e.act g)).map R) = ((lanesOf (e.act g)).filter (fun i => (e.eff g).getLsbD i)).map R := by
    unfold Env.fpDone
    rw [ht]
    simp only [List.any_nil, Bool.not_false, Bool.and_true, List.filter_map, Function.comp_def, hR]
  unfold Env.finishFp at h
  rw [ht, hd] at h
  have hnd := (lanesOf_nodup (e.act g)).filter (fun i => (e.eff g).getLsbD i)
  refine laneWord_of_group he h ?_ ?_ ?_
  · intro grp; rw [raiseFlags_group, fold_put_group]; rfl
  · rw [raiseFlags_group, fold_put_group]; rfl
  · intro n hn
    have hp := fold_put_lane R hR _ hnd e.g n hn
    rw [raiseFlags_lane _ (by rw [List.map_map, List.map_map]; simp only [Function.comp_def, hR, List.map_id']; exact hnd) _ n (by rw [hp.2]; exact hn), hp.1]
    rw [fold_put_group, withLanes_isHelper]
    simp only [List.mem_filter, mem_lanesOf]
    by_cases hc : (e.eff g).getLsbD n = true
    · have ha := eff_act e g n hc
      have hf : (List.map (fun r : FpLane => (r.lane, r.flags)) (((lanesOf (e.act g)).filter (fun i => (e.eff g).getLsbD i)).map R)).find? (fun x => x.1 == n)
          = some (n, (R n).flags) := by
        rw [List.map_map, List.find?_map]
        have : ((lanesOf (e.act g)).filter (fun i => (e.eff g).getLsbD i)).find? ((fun x : Nat × BitVec 7 => x.1 == n) ∘ ((fun r : FpLane => (r.lane, r.flags)) ∘ R)) = some n := by
          have hm : n ∈ (lanesOf (e.act g)).filter (fun i => (e.eff g).getLsbD i) := by rw [List.mem_filter, mem_lanesOf]; exact ⟨ha, hc⟩
          simp only [Function.comp_def, hR]
          generalize (lanesOf (e.act g)).filter (fun i => (e.eff g).getLsbD i) = is at hm ⊢
          induction is with
          | nil => cases hm
          | cons x r ih =>
            simp only [List.find?_cons]
            by_cases hx : x = n
            · simp [hx]
            · rcases List.mem_cons.mp hm with h1 | h1
              · exact absurd h1.symm hx
              · rw [show (x == n) = false by simpa using hx]; exact ih h1
        rw [this]; simp [hR]
      rw [hf]
      simp [ha, hc, fpEffect]
    · have hf : (List.map (fun r : FpLane => (r.lane, r.flags)) (((lanesOf (e.act g)).filter (fun i => (e.eff g).getLsbD i)).map R)).find? (fun x => x.1 == n) = none := by
        rw [List.find?_eq_none]
        intro x hx
        simp only [List.map_map, List.mem_map, List.mem_filter, Function.comp_def, hR] at hx
        obtain ⟨i, ⟨-, hi⟩, rfl⟩ := hx
        simp only [beq_iff_eq]
        intro hc'
        exact hc (hc' ▸ hi)
      rw [hf]
      simp [hc]

/-- A `LaneWord` may name another function that does the same to the lanes as they are. -/
theorem LaneWord.congr {i : Instr} {g : BitVec 3} {s : State} {e : Env} {f f' : Nat → Lane → Lane} (h : LaneWord i g s e f)
    (hf : ∀ n, f n (e.g.lane n) = f' n (e.g.lane n)) : LaneWord i g s e f' := by
  obtain ⟨t, grp, h1, h2, h3, h4, h5⟩ := h
  exact ⟨t, grp, h1, h2, h3, h4, fun n hn => by rw [h5 n hn, hf]⟩

end Sys2Proof.Machine
end

