-- ==== Sys2Proof/Laws/PerInstr.lean ====
section
/-! SUPPORT. What holds of every instruction by its constructor. -/

namespace Sys2Proof.Laws.Unencoded

/-- A device event or host command, which has no encoding, breaks no rule of R30: only words are ever ill-formed. -/
def Statement (i : Instr) : Prop := i.isWord = false → i.wf = true

theorem iaddR (g : BitVec 3) (d : BitVec 7) (a : BitVec 7) (b : BitVec 7) (x : BitVec 1) : Statement (.iaddR g d a b x) := nofun
theorem iaddI (g : BitVec 3) (d : BitVec 7) (a : BitVec 7) (i : BitVec 8) : Statement (.iaddI g d a i) := nofun
theorem isub (g : BitVec 3) (d : BitVec 7) (a : BitVec 7) (b : BitVec 7) (x : BitVec 1) : Statement (.isub g d a b x) := nofun
theorem iadd64 (g : BitVec 3) (d : BitVec 7) (a : BitVec 7) (b : BitVec 7) (x : BitVec 1) : Statement (.iadd64 g d a b x) := nofun
theorem imulR (g : BitVec 3) (d : BitVec 7) (a : BitVec 7) (b : BitVec 7) (x : BitVec 1) : Statement (.imulR g d a b x) := nofun
theorem imulI (g : BitVec 3) (d : BitVec 7) (a : BitVec 7) (i : BitVec 8) : Statement (.imulI g d a i) := nofun
theorem imulh (g : BitVec 3) (d : BitVec 7) (a : BitVec 7) (b : BitVec 7) (s : BitVec 1) : Statement (.imulh g d a b s) := nofun
theorem imad (g : BitVec 3) (d : BitVec 7) (a : BitVec 7) (b : BitVec 7) (x : BitVec 1) : Statement (.imad g d a b x) := nofun
theorem imadw (g : BitVec 3) (d : BitVec 7) (a : BitVec 7) (b : BitVec 7) (s : BitVec 1) : Statement (.imadw g d a b s) := nofun
theorem imin (g : BitVec 3) (d : BitVec 7) (a : BitVec 7) (b : BitVec 7) (s : BitVec 1) : Statement (.imin g d a b s) := nofun
theorem imax (g : BitVec 3) (d : BitVec 7) (a : BitVec 7) (b : BitVec 7) (s : BitVec 1) : Statement (.imax g d a b s) := nofun
theorem iabs (g : BitVec 3) (d : BitVec 7) (a : BitVec 7) : Statement (.iabs g d a) := nofun
theorem ineg (g : BitVec 3) (d : BitVec 7) (a : BitVec 7) : Statement (.ineg g d a) := nofun
theorem notW (g : BitVec 3) (d : BitVec 7) (a : BitVec 7) : Statement (.notW g d a) := nofun
theorem popc (g : BitVec 3) (d : BitVec 7) (a : BitVec 7) : Statement (.popc g d a) := nofun
theorem clz (g : BitVec 3) (d : BitVec 7) (a : BitVec 7) : Statement (.clz g d a) := nofun
theorem brev (g : BitVec 3) (d : BitVec 7) (a : BitVec 7) : Statement (.brev g d a) := nofun
theorem mov (g : BitVec 3) (d : BitVec 7) (a : BitVec 7) : Statement (.mov g d a) := nofun
theorem shlR (g : BitVec 3) (d : BitVec 7) (a : BitVec 7) (b : BitVec 7) (x : BitVec 1) : Statement (.shlR g d a b x) := nofun
theorem shlI (g : BitVec 3) (d : BitVec 7) (a : BitVec 7) (n : BitVec 5) : Statement (.shlI g d a n) := nofun
theorem shrR (g : BitVec 3) (d : BitVec 7) (a : BitVec 7) (b : BitVec 7) (s : BitVec 1) : Statement (.shrR g d a b s) := nofun
theorem shrNI (g : BitVec 3) (d : BitVec 7) (a : BitVec 7) (n : BitVec 5) : Statement (.shrNI g d a n) := nofun
theorem shrSI (g : BitVec 3) (d : BitVec 7) (a : BitVec 7) (n : BitVec 5) : Statement (.shrSI g d a n) := nofun
theorem rot (g : BitVec 3) (d : BitVec 7) (a : BitVec 7) (b : BitVec 7) (x : BitVec 1) : Statement (.rot g d a b x) := nofun
theorem andR (g : BitVec 3) (d : BitVec 7) (a : BitVec 7) (b : BitVec 7) (x : BitVec 1) : Statement (.andR g d a b x) := nofun
theorem andI (g : BitVec 3) (d : BitVec 7) (a : BitVec 7) (i : BitVec 8) : Statement (.andI g d a i) := nofun
theorem orR (g : BitVec 3) (d : BitVec 7) (a : BitVec 7) (b : BitVec 7) (x : BitVec 1) : Statement (.orR g d a b x) := nofun
theorem orI (g : BitVec 3) (d : BitVec 7) (a : BitVec 7) (i : BitVec 8) : Statement (.orI g d a i) := nofun
theorem xorR (g : BitVec 3) (d : BitVec 7) (a : BitVec 7) (b : BitVec 7) (x : BitVec 1) : Statement (.xorR g d a b x) := nofun
theorem xorI (g : BitVec 3) (d : BitVec 7) (a : BitVec 7) (i : BitVec 8) : Statement (.xorI g d a i) := nofun
theorem lut3 (g : BitVec 3) (d : BitVec 7) (a : BitVec 7) (b : BitVec 7) : Statement (.lut3 g d a b) := nofun
theorem bfx (g : BitVec 3) (d : BitVec 7) (a : BitVec 7) (b : BitVec 7) (s : BitVec 1) : Statement (.bfx g d a b s) := nofun
theorem bfi (g : BitVec 3) (d : BitVec 7) (a : BitVec 7) (b : BitVec 7) (x : BitVec 1) : Statement (.bfi g d a b x) := nofun
theorem leaX1X2 (g : BitVec 3) (d : BitVec 7) (a : BitVec 7) (b : BitVec 7) (k : BitVec 1) : Statement (.leaX1X2 g d a b k) := nofun
theorem leaX4X8 (g : BitVec 3) (d : BitVec 7) (a : BitVec 7) (b : BitVec 7) (k : BitVec 1) : Statement (.leaX4X8 g d a b k) := nofun
theorem movi (g : BitVec 3) (d : BitVec 7) (i : BitVec 8) : Statement (.movi g d i) := nofun
theorem icmpR (g : BitVec 3) (p : BitVec 4) (c : BitVec 4) (a : BitVec 7) (b : BitVec 7) : Statement (.icmpR g p c a b) := nofun
theorem icmpI (g : BitVec 3) (p : BitVec 4) (c : BitVec 4) (a : BitVec 7) (i : BitVec 7) : Statement (.icmpI g p c a i) := nofun
theorem fcmpF32 (g : BitVec 3) (p : BitVec 4) (c : BitVec 4) (a : BitVec 7) (b : BitVec 7) : Statement (.fcmpF32 g p c a b) := nofun
theorem fcmpF64 (g : BitVec 3) (p : BitVec 4) (c : BitVec 4) (a : BitVec 7) (b : BitVec 7) : Statement (.fcmpF64 g p c a b) := nofun
theorem fcmpF16 (g : BitVec 3) (p : BitVec 4) (c : BitVec 4) (a : BitVec 7) (b : BitVec 7) : Statement (.fcmpF16 g p c a b) := nofun
theorem plut (g : BitVec 3) (p : BitVec 4) (a : BitVec 4) (b : BitVec 4) (c : BitVec 4) : Statement (.plut g p a b c) := nofun
theorem p2v (g : BitVec 3) (d : BitVec 7) : Statement (.p2v g d) := nofun
theorem v2p (g : BitVec 3) (a : BitVec 7) : Statement (.v2p g a) := nofun
theorem ptestNr (g : BitVec 3) (p : BitVec 4) : Statement (.ptestNr g p) := nofun
theorem sel (g : BitVec 3) (d : BitVec 7) (a : BitVec 7) (p : BitVec 4) (n : BitVec 1) : Statement (.sel g d a p n) := nofun
theorem bra (g : BitVec 3) (o : BitVec 22) : Statement (.bra g o) := nofun
theorem brd (g : BitVec 3) (t : BitVec 11) (j : BitVec 11) : Statement (.brd g t j) := nofun
theorem call (g : BitVec 3) (o : BitVec 22) : Statement (.call g o) := nofun
theorem calli (g : BitVec 3) (a : BitVec 7) : Statement (.calli g a) := nofun
theorem nop (g : BitVec 3) : Statement (.nop g) := nofun
theorem ret (g : BitVec 3) : Statement (.ret g) := nofun
theorem exit (g : BitVec 3) : Statement (.exit g) := nofun
theorem kill (g : BitVec 3) (p : BitVec 4) (n : BitVec 1) : Statement (.kill g p n) := nofun
theorem lperm (g : BitVec 3) (p : BitVec 4) (c : BitVec 4) (a : BitVec 7) (b : BitVec 7) : Statement (.lperm g p c a b) := nofun
theorem qxchH (g : BitVec 3) (d : BitVec 7) (a : BitVec 7) : Statement (.qxchH g d a) := nofun
theorem qxchV (g : BitVec 3) (d : BitVec 7) (a : BitVec 7) : Statement (.qxchV g d a) := nofun
theorem qxchD (g : BitVec 3) (d : BitVec 7) (a : BitVec 7) : Statement (.qxchD g d a) := nofun
theorem qbcast (g : BitVec 3) (d : BitVec 7) (a : BitVec 7) (q : BitVec 2) : Statement (.qbcast g d a q) := nofun
theorem pollAnd (g : BitVec 3) (p : BitVec 4) (s : BitVec 4) : Statement (.pollAnd g p s) := nofun
theorem pollOr (g : BitVec 3) (p : BitVec 4) (s : BitVec 4) : Statement (.pollOr g p s) := nofun
theorem pollSame (g : BitVec 3) (p : BitVec 4) (s : BitVec 4) : Statement (.pollSame g p s) := nofun
theorem pick (g : BitVec 3) (p : BitVec 4) : Statement (.pick g p) := nofun
theorem pmask (g : BitVec 3) (d : BitVec 7) (p : BitVec 4) (n : BitVec 1) : Statement (.pmask g d p n) := nofun
theorem xred (g : BitVec 3) (d : BitVec 7) (a : BitVec 7) (m : BitVec 7) : Statement (.xred g d a m) := nofun
theorem smov (g : BitVec 3) (d : BitVec 7) (m : BitVec 7) : Statement (.smov g d m) := nofun
theorem ssetFflags (g : BitVec 3) (a : BitVec 7) : Statement (.ssetFflags g a) := nofun
theorem ssetFrnd (g : BitVec 3) (a : BitVec 7) : Statement (.ssetFrnd g a) := nofun
theorem ssetFtrap (g : BitVec 3) (a : BitVec 7) : Statement (.ssetFtrap g a) := nofun
theorem ldGB8 (g : BitVec 3) (t : BitVec 7) (a : BitVec 7) (l : BitVec 4) (s : BitVec 2) (o : BitVec 2) : Statement (.ldGB8 g t a l s o) := nofun
theorem ldGB16 (g : BitVec 3) (t : BitVec 7) (a : BitVec 7) (l : BitVec 4) (s : BitVec 2) (o : BitVec 2) : Statement (.ldGB16 g t a l s o) := nofun
theorem ldGB32 (g : BitVec 3) (t : BitVec 7) (a : BitVec 7) (l : BitVec 4) (s : BitVec 2) (o : BitVec 2) : Statement (.ldGB32 g t a l s o) := nofun
theorem ldGB64 (g : BitVec 3) (t : BitVec 7) (a : BitVec 7) (l : BitVec 4) (s : BitVec 2) (o : BitVec 2) : Statement (.ldGB64 g t a l s o) := nofun
theorem ldGB128 (g : BitVec 3) (t : BitVec 7) (a : BitVec 7) (l : BitVec 4) (s : BitVec 2) (o : BitVec 2) : Statement (.ldGB128 g t a l s o) := nofun
theorem stGB8 (g : BitVec 3) (t : BitVec 7) (a : BitVec 7) (s : BitVec 2) (o : BitVec 2) : Statement (.stGB8 g t a s o) := nofun
theorem stGB16 (g : BitVec 3) (t : BitVec 7) (a : BitVec 7) (s : BitVec 2) (o : BitVec 2) : Statement (.stGB16 g t a s o) := nofun
theorem stGB32 (g : BitVec 3) (t : BitVec 7) (a : BitVec 7) (s : BitVec 2) (o : BitVec 2) : Statement (.stGB32 g t a s o) := nofun
theorem stGB64 (g : BitVec 3) (t : BitVec 7) (a : BitVec 7) (s : BitVec 2) (o : BitVec 2) : Statement (.stGB64 g t a s o) := nofun
theorem stGB128 (g : BitVec 3) (t : BitVec 7) (a : BitVec 7) (s : BitVec 2) (o : BitVec 2) : Statement (.stGB128 g t a s o) := nofun
theorem ldL (g : BitVec 3) (t : BitVec 7) (a : BitVec 7) (l : BitVec 4) (w : BitVec 2) : Statement (.ldL g t a l w) := nofun
theorem stL (g : BitVec 3) (t : BitVec 7) (a : BitVec 7) (w : BitVec 2) : Statement (.stL g t a w) := nofun
theorem ldc (g : BitVec 3) (t : BitVec 7) (a : BitVec 7) (l : BitVec 4) (w : BitVec 2) : Statement (.ldc g t a l w) := nofun
theorem ldt (g : BitVec 3) (t : BitVec 7) (a : BitVec 7) (l : BitVec 4) (w : BitVec 2) : Statement (.ldt g t a l w) := nofun
theorem stT (g : BitVec 3) (t : BitVec 7) (a : BitVec 7) (w : BitVec 2) : Statement (.stT g t a w) := nofun
theorem atomAdd (g : BitVec 3) (t : BitVec 6) (a : BitVec 6) (l : BitVec 4) (s : BitVec 2) (o : BitVec 2) : Statement (.atomAdd g t a l s o) := nofun
theorem atomAnd (g : BitVec 3) (t : BitVec 6) (a : BitVec 6) (l : BitVec 4) (s : BitVec 2) (o : BitVec 2) : Statement (.atomAnd g t a l s o) := nofun
theorem atomOr (g : BitVec 3) (t : BitVec 6) (a : BitVec 6) (l : BitVec 4) (s : BitVec 2) (o : BitVec 2) : Statement (.atomOr g t a l s o) := nofun
theorem atomXor (g : BitVec 3) (t : BitVec 6) (a : BitVec 6) (l : BitVec 4) (s : BitVec 2) (o : BitVec 2) : Statement (.atomXor g t a l s o) := nofun
theorem atomMinN (g : BitVec 3) (t : BitVec 6) (a : BitVec 6) (l : BitVec 4) (s : BitVec 2) (o : BitVec 2) : Statement (.atomMinN g t a l s o) := nofun
theorem atomMinS (g : BitVec 3) (t : BitVec 6) (a : BitVec 6) (l : BitVec 4) (s : BitVec 2) (o : BitVec 2) : Statement (.atomMinS g t a l s o) := nofun
theorem atomMaxN (g : BitVec 3) (t : BitVec 6) (a : BitVec 6) (l : BitVec 4) (s : BitVec 2) (o : BitVec 2) : Statement (.atomMaxN g t a l s o) := nofun
theorem atomMaxS (g : BitVec 3) (t : BitVec 6) (a : BitVec 6) (l : BitVec 4) (s : BitVec 2) (o : BitVec 2) : Statement (.atomMaxS g t a l s o) := nofun
theorem atomExch (g : BitVec 3) (t : BitVec 6) (a : BitVec 6) (l : BitVec 4) (s : BitVec 2) (o : BitVec 2) : Statement (.atomExch g t a l s o) := nofun
theorem atomCas (g : BitVec 3) (t : BitVec 6) (a : BitVec 6) (l : BitVec 4) (s : BitVec 2) (o : BitVec 2) : Statement (.atomCas g t a l s o) := nofun
theorem atomInc (g : BitVec 3) (t : BitVec 6) (a : BitVec 6) (l : BitVec 4) (s : BitVec 2) (o : BitVec 2) : Statement (.atomInc g t a l s o) := nofun
theorem atomFaddF32 (g : BitVec 3) (t : BitVec 6) (a : BitVec 6) (l : BitVec 4) (s : BitVec 2) (o : BitVec 2) : Statement (.atomFaddF32 g t a l s o) := nofun
theorem redAdd (g : BitVec 3) (t : BitVec 6) (a : BitVec 6) (s : BitVec 2) (o : BitVec 2) : Statement (.redAdd g t a s o) := nofun
theorem redAnd (g : BitVec 3) (t : BitVec 6) (a : BitVec 6) (s : BitVec 2) (o : BitVec 2) : Statement (.redAnd g t a s o) := nofun
theorem redOr (g : BitVec 3) (t : BitVec 6) (a : BitVec 6) (s : BitVec 2) (o : BitVec 2) : Statement (.redOr g t a s o) := nofun
theorem redXor (g : BitVec 3) (t : BitVec 6) (a : BitVec 6) (s : BitVec 2) (o : BitVec 2) : Statement (.redXor g t a s o) := nofun
theorem redMinN (g : BitVec 3) (t : BitVec 6) (a : BitVec 6) (s : BitVec 2) (o : BitVec 2) : Statement (.redMinN g t a s o) := nofun
theorem redMinS (g : BitVec 3) (t : BitVec 6) (a : BitVec 6) (s : BitVec 2) (o : BitVec 2) : Statement (.redMinS g t a s o) := nofun
theorem redMaxN (g : BitVec 3) (t : BitVec 6) (a : BitVec 6) (s : BitVec 2) (o : BitVec 2) : Statement (.redMaxN g t a s o) := nofun
theorem redMaxS (g : BitVec 3) (t : BitVec 6) (a : BitVec 6) (s : BitVec 2) (o : BitVec 2) : Statement (.redMaxS g t a s o) := nofun
theorem redInc (g : BitVec 3) (t : BitVec 6) (a : BitVec 6) (s : BitVec 2) (o : BitVec 2) : Statement (.redInc g t a s o) := nofun
theorem redFaddF32 (g : BitVec 3) (t : BitVec 6) (a : BitVec 6) (s : BitVec 2) (o : BitVec 2) : Statement (.redFaddF32 g t a s o) := nofun
theorem fence (g : BitVec 3) (o : BitVec 2) (s : BitVec 3) : Statement (.fence g o s) := nofun
theorem pfence (g : BitVec 3) (m : BitVec 4) (s : BitVec 3) (n : BitVec 4) : Statement (.pfence g m s n) := nofun
theorem bar (g : BitVec 3) (k : BitVec 1) : Statement (.bar g k) := nofun
theorem arrive (g : BitVec 3) (a : BitVec 7) : Statement (.arrive g a) := nofun
theorem waitc (g : BitVec 3) (d : BitVec 7) (a : BitVec 7) : Statement (.waitc g d a) := nofun
theorem launch (g : BitVec 3) (d : BitVec 7) (a : BitVec 7) (l : BitVec 4) : Statement (.launch g d a l) := nofun
theorem cp (g : BitVec 3) (d : BitVec 7) (a : BitVec 7) : Statement (.cp g d a) := nofun
theorem cpclose (g : BitVec 3) (d : BitVec 7) (l : BitVec 4) : Statement (.cpclose g d l) := nofun
theorem cpwait (g : BitVec 3) (d : BitVec 7) : Statement (.cpwait g d) := nofun
theorem preq (g : BitVec 3) (d : BitVec 7) (a : BitVec 7) : Statement (.preq g d a) := nofun
theorem lock (g : BitVec 3) (d : BitVec 7) (a : BitVec 7) (l : BitVec 4) : Statement (.lock g d a l) := nofun
theorem unlock (g : BitVec 3) (a : BitVec 7) : Statement (.unlock g a) := nofun
theorem stmap (g : BitVec 3) (a : BitVec 7) : Statement (.stmap g a) := nofun
theorem stunmap (g : BitVec 3) (a : BitVec 7) : Statement (.stunmap g a) := nofun
theorem stflush (g : BitVec 3) (a : BitVec 7) : Statement (.stflush g a) := nofun
theorem lsaddF32 (g : BitVec 3) (d : BitVec 7) (a : BitVec 7) : Statement (.lsaddF32 g d a) := nofun
theorem lsaddI32 (g : BitVec 3) (d : BitVec 7) (a : BitVec 7) : Statement (.lsaddI32 g d a) := nofun
theorem fadd (g : BitVec 3) (d : BitVec 7) (a : BitVec 7) (b : BitVec 7) (x : BitVec 1) : Statement (.fadd g d a b x) := nofun
theorem fsub (g : BitVec 3) (d : BitVec 7) (a : BitVec 7) (b : BitVec 7) (x : BitVec 1) : Statement (.fsub g d a b x) := nofun
theorem fmul (g : BitVec 3) (d : BitVec 7) (a : BitVec 7) (b : BitVec 7) (x : BitVec 1) : Statement (.fmul g d a b x) := nofun
theorem ffma (g : BitVec 3) (d : BitVec 7) (a : BitVec 7) (b : BitVec 7) (x : BitVec 1) : Statement (.ffma g d a b x) := nofun
theorem faddF64 (g : BitVec 3) (d : BitVec 7) (a : BitVec 7) (b : BitVec 7) : Statement (.faddF64 g d a b) := nofun
theorem fsubF64 (g : BitVec 3) (d : BitVec 7) (a : BitVec 7) (b : BitVec 7) : Statement (.fsubF64 g d a b) := nofun
theorem fmulF64 (g : BitVec 3) (d : BitVec 7) (a : BitVec 7) (b : BitVec 7) : Statement (.fmulF64 g d a b) := nofun
theorem ffmaF64 (g : BitVec 3) (d : BitVec 7) (a : BitVec 7) (b : BitVec 7) : Statement (.ffmaF64 g d a b) := nofun
theorem fminF32 (g : BitVec 3) (d : BitVec 7) (a : BitVec 7) (b : BitVec 7) : Statement (.fminF32 g d a b) := nofun
theorem fmaxF32 (g : BitVec 3) (d : BitVec 7) (a : BitVec 7) (b : BitVec 7) : Statement (.fmaxF32 g d a b) := nofun
theorem fminnumF32 (g : BitVec 3) (d : BitVec 7) (a : BitVec 7) (b : BitVec 7) : Statement (.fminnumF32 g d a b) := nofun
theorem fmaxnumF32 (g : BitVec 3) (d : BitVec 7) (a : BitVec 7) (b : BitVec 7) : Statement (.fmaxnumF32 g d a b) := nofun
theorem fminF64 (g : BitVec 3) (d : BitVec 7) (a : BitVec 7) (b : BitVec 7) : Statement (.fminF64 g d a b) := nofun
theorem fmaxF64 (g : BitVec 3) (d : BitVec 7) (a : BitVec 7) (b : BitVec 7) : Statement (.fmaxF64 g d a b) := nofun
theorem fminnumF64 (g : BitVec 3) (d : BitVec 7) (a : BitVec 7) (b : BitVec 7) : Statement (.fminnumF64 g d a b) := nofun
theorem fmaxnumF64 (g : BitVec 3) (d : BitVec 7) (a : BitVec 7) (b : BitVec 7) : Statement (.fmaxnumF64 g d a b) := nofun
theorem fscale (g : BitVec 3) (d : BitVec 7) (a : BitVec 7) (b : BitVec 7) (x : BitVec 1) : Statement (.fscale g d a b x) := nofun
theorem vrsqe (g : BitVec 3) (d : BitVec 7) (a : BitVec 7) (b : BitVec 7) : Statement (.vrsqe g d a b) := nofun
theorem fdivF32 (g : BitVec 3) (d : BitVec 7) (a : BitVec 7) (l : BitVec 4) : Statement (.fdivF32 g d a l) := nofun
theorem fdivF64 (g : BitVec 3) (d : BitVec 7) (a : BitVec 7) (l : BitVec 4) : Statement (.fdivF64 g d a l) := nofun
theorem fsqrtF32 (g : BitVec 3) (d : BitVec 7) (a : BitVec 7) (l : BitVec 4) : Statement (.fsqrtF32 g d a l) := nofun
theorem fsqrtF64 (g : BitVec 3) (d : BitVec 7) (a : BitVec 7) (l : BitVec 4) : Statement (.fsqrtF64 g d a l) := nofun
theorem frcpF32 (g : BitVec 3) (d : BitVec 7) (a : BitVec 7) (l : BitVec 4) : Statement (.frcpF32 g d a l) := nofun
theorem frcpF64 (g : BitVec 3) (d : BitVec 7) (a : BitVec 7) (l : BitVec 4) : Statement (.frcpF64 g d a l) := nofun
theorem fexp2F32 (g : BitVec 3) (d : BitVec 7) (a : BitVec 7) (l : BitVec 4) : Statement (.fexp2F32 g d a l) := nofun
theorem flog2F32 (g : BitVec 3) (d : BitVec 7) (a : BitVec 7) (l : BitVec 4) : Statement (.flog2F32 g d a l) := nofun
theorem fsinF32 (g : BitVec 3) (d : BitVec 7) (a : BitVec 7) (l : BitVec 4) : Statement (.fsinF32 g d a l) := nofun
theorem fcosF32 (g : BitVec 3) (d : BitVec 7) (a : BitVec 7) (l : BitVec 4) : Statement (.fcosF32 g d a l) := nofun
theorem frndF32 (g : BitVec 3) (d : BitVec 7) (a : BitVec 7) : Statement (.frndF32 g d a) := nofun
theorem frndF64 (g : BitVec 3) (d : BitVec 7) (a : BitVec 7) : Statement (.frndF64 g d a) := nofun
theorem fclassF32 (g : BitVec 3) (d : BitVec 7) (a : BitVec 7) : Statement (.fclassF32 g d a) := nofun
theorem fclassF64 (g : BitVec 3) (d : BitVec 7) (a : BitVec 7) : Statement (.fclassF64 g d a) := nofun
theorem fjoin (g : BitVec 3) (d : BitVec 7) (a : BitVec 7) : Statement (.fjoin g d a) := nofun
theorem fsplitRow (g : BitVec 3) (d : BitVec 7) (a : BitVec 7) (s : BitVec 4) : Statement (.fsplitRow g d a s) := nofun
theorem fsplitCol (g : BitVec 3) (d : BitVec 7) (a : BitVec 7) (s : BitVec 4) : Statement (.fsplitCol g d a s) := nofun
theorem fcvt (g : BitVec 3) (d : BitVec 7) (a : BitVec 7) (s : BitVec 3) (t : BitVec 3) (n : BitVec 1) (x : BitVec 1) : Statement (.fcvt g d a s t n x) := nofun
theorem mma (g : BitVec 3) (t : BitVec 4) (c : BitVec 3) (a : BitVec 7) (l : BitVec 4) (f : BitVec 4) : Statement (.mma g t c a l f) := nofun
theorem mmaj (g : BitVec 3) (b : BitVec 3) (a : BitVec 7) (f : BitVec 4) : Statement (.mmaj g b a f) := nofun
theorem mwait (g : BitVec 3) : Statement (.mwait g) := nofun
theorem macc (g : BitVec 3) (d : BitVec 3) (p : BitVec 3) (q : BitVec 3) (l : BitVec 4) (f : BitVec 4) : Statement (.macc g d p q l f) := nofun
theorem mzero (g : BitVec 3) (d : BitVec 3) (l : BitVec 4) : Statement (.mzero g d l) := nofun
theorem mld (g : BitVec 3) (d : BitVec 3) (a : BitVec 7) (l : BitVec 4) (f : BitVec 4) : Statement (.mld g d a l f) := nofun
theorem mdrain (g : BitVec 3) (d : BitVec 3) (a : BitVec 7) (f : BitVec 3) (q : BitVec 1) : Statement (.mdrain g d a f q) := nofun
theorem mquant (g : BitVec 3) (d : BitVec 4) (a : BitVec 3) (l : BitVec 4) (f : BitVec 4) : Statement (.mquant g d a l f) := nofun
theorem pbind (g : BitVec 3) (d : BitVec 7) (a : BitVec 7) (l : BitVec 4) : Statement (.pbind g d a l) := nofun
theorem pstale (g : BitVec 3) (d : BitVec 7) (a : BitVec 7) (l : BitVec 4) : Statement (.pstale g d a l) := nofun
theorem pstat (g : BitVec 3) (d : BitVec 7) (a : BitVec 7) (l : BitVec 4) : Statement (.pstat g d a l) := nofun
theorem psettle (g : BitVec 3) (a : BitVec 7) (l : BitVec 4) (s : BitVec 3) : Statement (.psettle g a l s) := nofun
theorem psettleAsync (g : BitVec 3) (d : BitVec 7) (a : BitVec 7) (l : BitVec 4) (s : BitVec 3) : Statement (.psettleAsync g d a l s) := nofun
theorem punbind (g : BitVec 3) (a : BitVec 7) (l : BitVec 4) (s : BitVec 3) : Statement (.punbind g a l s) := nofun
theorem prefresh (g : BitVec 3) (d : BitVec 7) (a : BitVec 7) (l : BitVec 4) (s : BitVec 3) : Statement (.prefresh g d a l s) := nofun
theorem skadd (g : BitVec 3) (d : BitVec 7) (a : BitVec 7) : Statement (.skadd g d a) := nofun
theorem skqry (g : BitVec 3) (d : BitVec 7) (a : BitVec 7) (l : BitVec 4) : Statement (.skqry g d a l) := nofun
theorem skinit (g : BitVec 3) (a : BitVec 7) : Statement (.skinit g a) := nofun
theorem skscale (g : BitVec 3) (d : BitVec 7) (a : BitVec 7) : Statement (.skscale g d a) := nofun
theorem skstat (g : BitVec 3) (d : BitVec 7) (a : BitVec 7) (l : BitVec 4) : Statement (.skstat g d a l) := nofun
theorem skmerge (g : BitVec 3) (d : BitVec 7) (a : BitVec 7) (s : BitVec 1) : Statement (.skmerge g d a s) := nofun
theorem rtag (g : BitVec 3) (d : BitVec 7) (k : BitVec 5) (p : BitVec 1) : Statement (.rtag g d k p) := nofun
theorem runtag (g : BitVec 3) (d : BitVec 7) (p : BitVec 1) : Statement (.runtag g d p) := nofun
theorem trap (g : BitVec 3) (n : BitVec 7) : Statement (.trap g n) := nofun
theorem bkpt (g : BitVec 3) (n : BitVec 7) : Statement (.bkpt g n) := nofun
theorem hrd (g : BitVec 3) (d : BitVec 7) (a : BitVec 7) (l : BitVec 4) (w : BitVec 1) : Statement (.hrd g d a l w) := nofun
theorem hwr (g : BitVec 3) (d : BitVec 7) (a : BitVec 7) (w : BitVec 1) : Statement (.hwr g d a w) := nofun
theorem eretC (g : BitVec 3) (a : BitVec 7) : Statement (.eretC g a) := nofun
theorem eretX (g : BitVec 3) : Statement (.eretX g) := nofun
theorem tlbinv (g : BitVec 3) (a : BitVec 7) : Statement (.tlbinv g a) := nofun
theorem tlbinvCtx (g : BitVec 3) : Statement (.tlbinvCtx g) := nofun
theorem ebudRd (g : BitVec 3) (d : BitVec 7) (l : BitVec 4) : Statement (.ebudRd g d l) := nofun
theorem ebudSet (g : BitVec 3) (a : BitVec 7) : Statement (.ebudSet g a) := nofun
theorem stopr (g : BitVec 3) (d : BitVec 7) (a : BitVec 7) (l : BitVec 4) : Statement (.stopr g d a l) := nofun
theorem himm (p : BitVec 1) (i : BitVec 24) : Statement (.himm p i) := nofun
theorem hoff (o : BitVec 20) : Statement (.hoff o) := nofun
theorem hivl (m : BitVec 16) : Statement (.hivl m) := nofun
theorem hgrd (v : BitVec 1) (n : BitVec 1) (p : BitVec 4) : Statement (.hgrd v n p) := nofun
theorem hsem (s : BitVec 1) (c : BitVec 2) : Statement (.hsem s c) := nofun
theorem hrnd (m : BitVec 3) : Statement (.hrnd m) := nofun
theorem hsat (s : BitVec 16) (r : BitVec 1) (t : BitVec 1) : Statement (.hsat s r t) := nofun
theorem hdet : Statement (.hdet) := nofun
theorem createContext (h : CmdHead) (args : ContextArgs) : Statement (.createContext h args) := fun _ => rfl
theorem destroyContext (h : CmdHead) : Statement (.destroyContext h) := fun _ => rfl
theorem map (h : CmdHead) (va : BitVec 64) (size flags : BitVec 8) (frame : BitVec 64) : Statement (.map h va size flags frame) := fun _ => rfl
theorem exportFrame (h : CmdHead) (va : BitVec 64) (size flags : BitVec 8) (frame : BitVec 64) : Statement (.exportFrame h va size flags frame) := fun _ => rfl
theorem unmap (h : CmdHead) (va : BitVec 64) : Statement (.unmap h va) := fun _ => rfl
theorem withdrawExport (h : CmdHead) (va : BitVec 64) : Statement (.withdrawExport h va) := fun _ => rfl
theorem loadImage (h : CmdHead) (flags : BitVec 32) (image : ImageSource) : Statement (.loadImage h flags image) := fun _ => rfl
theorem start (h : CmdHead) (desc : List (BitVec 8)) : Statement (.start h desc) := fun _ => rfl
theorem halt (h : CmdHead) : Statement (.halt h) := fun _ => rfl
theorem resume (h : CmdHead) : Statement (.resume h) := fun _ => rfl
theorem vacate (h : CmdHead) (k : BitVec 32) : Statement (.vacate h k) := fun _ => rfl
theorem readStopRecord (h : CmdHead) (index : BitVec 32) : Statement (.readStopRecord h index) := fun _ => rfl
theorem attest (h : CmdHead) (nonce : BitVec 384) : Statement (.attest h nonce) := fun _ => rfl
theorem setEnergyBudget (h : CmdHead) (budget : BitVec 64) : Statement (.setEnergyBudget h budget) := fun _ => rfl
theorem queryIdentity (h : CmdHead) : Statement (.queryIdentity h) := fun _ => rfl
theorem queryPublicKey (h : CmdHead) : Statement (.queryPublicKey h) := fun _ => rfl
theorem queryContext (h : CmdHead) : Statement (.queryContext h) := fun _ => rfl
theorem queryErrorCounts (h : CmdHead) : Statement (.queryErrorCounts h) := fun _ => rfl
theorem queryThermal (h : CmdHead) : Statement (.queryThermal h) := fun _ => rfl
theorem reset (failed : BitVec 36) : Statement (.reset failed) := fun _ => rfl
theorem thermalThrottle (die temp clock : Nat) : Statement (.thermalThrottle die temp clock) := fun _ => rfl
theorem thermalTrip (die temp : Nat) : Statement (.thermalTrip die temp) := fun _ => rfl
theorem tripReset (failed : BitVec 36) : Statement (.tripReset failed) := fun _ => rfl
theorem clockLowering (ctx clock : Nat) : Statement (.clockLowering ctx clock) := fun _ => rfl
theorem energyCountUpdate (ctx charge : Nat) (used : List (Nat × Nat)) : Statement (.energyCountUpdate ctx charge used) := fun _ => rfl
theorem linkRetry (id port : Nat) : Statement (.linkRetry id port) := fun _ => rfl
theorem requestTimeout (id : Nat) : Statement (.requestTimeout id) := fun _ => rfl
theorem remoteRequestArrival (q : RemoteReq) : Statement (.remoteRequestArrival q) := fun _ => rfl
theorem remoteMergeArrival (q : RemoteMerge) : Statement (.remoteMergeArrival q) := fun _ => rfl
theorem hostFWrite (q : RemoteReq) : Statement (.hostFWrite q) := fun _ => rfl
theorem cacheWriteBack (c : CacheSel) (line : Nat) (drop : Bool) (remote : RemoteReply) : Statement (.cacheWriteBack c line drop remote) := fun _ => rfl
theorem thermosBackgroundApply (ctx slot upTo : Nat) (refresh : Picks) : Statement (.thermosBackgroundApply ctx slot upTo refresh) := fun _ => rfl
theorem loadDataReturn (id : Nat) (remote : RemoteReply) : Statement (.loadDataReturn id remote) := fun _ => rfl
theorem pageMigrationComplete (id : Nat) (remote : RemoteReply) : Statement (.pageMigrationComplete id remote) := fun _ => rfl
theorem skmergeComplete (id : Nat) (n : Units) (remote : RemoteReply) : Statement (.skmergeComplete id n remote) := fun _ => rfl
theorem hotnessNotification (ctx : Nat) (block : Nat) (req : Nat) : Statement (.hotnessNotification ctx block req) := fun _ => rfl
theorem releaseComplete (id : Nat) (remote : RemoteReply) : Statement (.releaseComplete id remote) := fun _ => rfl
theorem waitcSatisfied (gid : Nat) (slotB : Bool) (remote : RemoteReply) : Statement (.waitcSatisfied gid slotB remote) := fun _ => rfl
theorem clusterPlacement (ctx launch : Nat) (place : List CorePlace) : Statement (.clusterPlacement ctx launch place) := fun _ => rfl
theorem waitingWorkgroupRestore (wg : Nat) (place : CorePlace) : Statement (.waitingWorkgroupRestore wg place) := fun _ => rfl
theorem clusterRestore (ctx launch cluster : Nat) (place : List CorePlace) : Statement (.clusterRestore ctx launch cluster place) := fun _ => rfl
theorem recipeReplay (gid tag : Nat) (remote : RemoteReply) : Statement (.recipeReplay gid tag remote) := fun _ => rfl
theorem atomResultReturn (id : Nat) (remote : RemoteReply) : Statement (.atomResultReturn id remote) := fun _ => rfl
theorem pbindComplete (id : Nat) : Statement (.pbindComplete id) := fun _ => rfl
theorem psettleComplete (id : Answered) : Statement (.psettleComplete id) := fun _ => rfl
theorem punbindComplete (id : Nat) : Statement (.punbindComplete id) := fun _ => rfl
theorem prefreshComplete (id : Nat) : Statement (.prefreshComplete id) := fun _ => rfl
theorem thermosStatusReply (id : Nat) : Statement (.thermosStatusReply id) := fun _ => rfl
theorem fpLongOpComplete (id : Nat) : Statement (.fpLongOpComplete id) := fun _ => rfl
theorem mmaComplete (id : Nat) : Statement (.mmaComplete id) := fun _ => rfl
theorem mldComplete (id : Nat) : Statement (.mldComplete id) := fun _ => rfl
theorem mdrainWriteComplete (id : Nat) : Statement (.mdrainWriteComplete id) := fun _ => rfl
theorem mmajInstanceStart (id : Nat) : Statement (.mmajInstanceStart id) := fun _ => rfl
theorem mmajComplete (id : Nat) : Statement (.mmajComplete id) := fun _ => rfl
theorem copyComplete (id : Nat) (overlap : Bool) : Statement (.copyComplete id overlap) := fun _ => rfl
theorem pageRequestService (id : Answered) : Statement (.pageRequestService id) := fun _ => rfl
theorem sketchRequestPerformed (id : Nat) (n : Units) : Statement (.sketchRequestPerformed id n) := fun _ => rfl
theorem hotnessDecay : Statement (.hotnessDecay) := fun _ => rfl
theorem pfenceComplete (id : Answered) : Statement (.pfenceComplete id) := fun _ => rfl
theorem tlbinvSweepComplete (id : Nat) : Statement (.tlbinvSweepComplete id) := fun _ => rfl
theorem launchAdmissionReply (id : Nat) : Statement (.launchAdmissionReply id) := fun _ => rfl
theorem launchCompletionSignal (ctx launch : Nat) (remote : RemoteReply) : Statement (.launchCompletionSignal ctx launch remote) := fun _ => rfl
theorem waitingWorkgroupSave (wg : Nat) : Statement (.waitingWorkgroupSave wg) := fun _ => rfl
theorem groupVacateStop (gid : Nat) : Statement (.groupVacateStop gid) := fun _ => rfl
theorem vacateReply (ctx : Nat) : Statement (.vacateReply ctx) := fun _ => rfl
theorem fastFileChunkFill (gid chunk : Nat) (evict : List (Nat × Nat)) : Statement (.fastFileChunkFill gid chunk evict) := fun _ => rfl
theorem handlerGroupFormation (core : Nat) : Statement (.handlerGroupFormation core) := fun _ => rfl
theorem originSlotResume (gid : Nat) (slotB : Bool) : Statement (.originSlotResume gid slotB) := fun _ => rfl
theorem unitStop (ctx : Nat) (unit : StopUnit) : Statement (.unitStop ctx unit) := fun _ => rfl
theorem lockStatusReturn (id : Nat) : Statement (.lockStatusReturn id) := fun _ => rfl
theorem maccMzeroMquantComplete (id : Nat) : Statement (.maccMzeroMquantComplete id) := fun _ => rfl
theorem remoteReadLineDrop (die line : Nat) : Statement (.remoteReadLineDrop die line) := fun _ => rfl
theorem uncorrectableError (at_ : ErrorAt) : Statement (.uncorrectableError at_) := fun _ => rfl

end Sys2Proof.Laws.Unencoded
end

