-- ==== Sys2Proof/Tests/Slice0.lean ====
section
/-! SUPPORT. Tests of the model on small values, decoding of words written out from the spec, and a witness for each statement with hypotheses. -/

namespace Sys2Proof.Tests

open Sys2Proof Sys2Proof.Machine

/-! ### Ill-formed instructions (03, R30; WellFormed)

One term for each check of `Instr.wf`, the check broken and nothing else: it is refused. -/

theorem test_ill_formed_1 : ([
    .iadd64 1 9 16 24 1, .iadd64 1 8 9 24 1, .imadw 6 9 16 24 1, .leaX1X2 1 9 16 24 1, .leaX1X2 1 8 9 24 1, .leaX4X8 1 9 16 24 1,
    .leaX4X8 1 8 9 24 1, .icmpR 6 12 2 8 16, .icmpR 6 5 6 8 16, .icmpI 6 12 9 8 16, .icmpI 6 5 6 8 16, .fcmpF32 1 12 6 8 16, .fcmpF32 1 5 8 8 16,
    .fcmpF64 1 5 5 9 16, .fcmpF64 1 5 5 8 9, .fcmpF64 1 12 5 8 16, .fcmpF64 1 5 8 8 16, .fcmpF16 1 12 4 8 16, .fcmpF16 1 5 8 8 16, .plut 5 12 1 2 3,
    .plut 5 4 12 2 3, .plut 5 4 1 12 3] : List Instr).all (fun i => !i.wf) = true := by decide

theorem test_ill_formed_2 : ([
    .plut 5 4 1 2 12, .ptestNr 1 12, .sel 4 8 16 12 1, .calli 6 9, .kill 5 12 1, .lperm 6 12 5 8 16, .pollAnd 1 12 5, .pollAnd 1 5 12,
    .pollOr 1 12 5, .pollOr 1 5 12, .pollSame 2 12 5, .pollSame 2 5 12, .pick 5 12, .pmask 6 8 12 1, .xred 5 8 16 8, .smov 5 9 18, .smov 5 8 13,
    .ldGB8 6 8 9 6 1 1, .ldGB8 6 8 16 6 1 3, .ldGB16 1 8 9 6 1 1, .ldGB16 1 8 16 6 1 3, .ldGB32 1 8 9 6 1 1] : List Instr).all (fun i => !i.wf) = true := by decide

theorem test_ill_formed_3 : ([
    .ldGB32 1 8 16 6 1 3, .ldGB64 1 9 16 6 1 1, .ldGB64 1 8 9 6 1 1, .ldGB64 1 8 16 6 1 3, .ldGB128 1 8 9 6 1 1, .ldGB128 1 10 16 6 1 1,
    .ldGB128 1 8 16 6 1 3, .stGB8 6 8 9 1 1, .stGB8 6 8 16 1 3, .stGB16 1 8 9 1 1, .stGB16 1 8 16 1 3, .stGB32 1 8 9 1 1, .stGB32 1 8 16 1 3,
    .stGB64 1 9 16 1 1, .stGB64 1 8 9 1 1, .stGB64 1 8 16 1 3, .stGB128 1 8 9 1 1, .stGB128 1 10 16 1 1, .stGB128 1 8 16 1 3, .ldL 4 8 9 6 1,
    .ldL 4 9 16 6 2, .ldL 4 10 16 6 3] : List Instr).all (fun i => !i.wf) = true := by decide

theorem test_ill_formed_4 : ([
    .stL 4 8 9 1, .stL 4 9 16 2, .stL 4 10 16 3, .ldc 4 8 9 6 1, .ldc 4 9 16 6 2, .ldc 4 10 16 6 3, .ldt 4 8 9 6 1, .ldt 4 9 16 6 2,
    .ldt 4 10 16 6 3, .stT 4 8 9 1, .stT 4 9 16 2, .stT 4 10 16 3, .atomAdd 1 22 22 6 1 3, .atomAnd 1 22 22 6 1 3, .atomOr 1 22 22 6 1 3,
    .atomXor 1 22 22 6 1 3, .atomMinN 2 22 22 6 1 3, .atomMinS 2 22 22 6 1 3, .atomMaxN 2 22 22 6 1 3, .atomMaxS 2 22 22 6 1 3,
    .atomExch 2 22 22 6 1 3, .atomCas 1 9 22 6 1 1] : List Instr).all (fun i => !i.wf) = true := by decide

theorem test_ill_formed_5 : ([
    .atomCas 1 22 22 6 1 3, .atomInc 1 22 22 6 1 3, .atomFaddF32 5 22 22 6 1 3, .redAdd 1 22 22 1 3, .redAnd 1 22 22 1 3, .redOr 6 22 22 1 3,
    .redXor 1 22 22 1 3, .redMinN 1 22 22 1 3, .redMinS 1 22 22 1 3, .redMaxN 1 22 22 1 3, .redMaxS 1 22 22 1 3, .redInc 1 22 22 1 3,
    .redFaddF32 4 22 22 1 3, .fence 6 1 5, .pfence 1 1 5 6, .pfence 1 0 4 0, .arrive 1 9, .waitc 6 8 9, .launch 1 9 16 6, .launch 1 8 9 6,
    .cp 3 9 16, .cp 3 8 10] : List Instr).all (fun i => !i.wf) = true := by decide

theorem test_ill_formed_6 : ([
    .preq 5 9 16, .preq 5 8 9, .lock 5 8 9 6, .unlock 1 9, .stmap 6 10, .lsaddF32 2 8 9, .lsaddI32 2 8 9, .faddF64 1 9 16 24, .faddF64 1 8 9 24,
    .faddF64 1 8 16 9, .fsubF64 1 9 16 24, .fsubF64 1 8 9 24, .fsubF64 1 8 16 9, .fmulF64 1 9 16 24, .fmulF64 1 8 9 24, .fmulF64 1 8 16 9,
    .ffmaF64 1 9 16 24, .ffmaF64 1 8 9 24, .ffmaF64 1 8 16 9, .fminF64 1 9 16 24, .fminF64 1 8 9 24, .fminF64 1 8 16 9] : List Instr).all (fun i => !i.wf) = true := by decide

theorem test_ill_formed_7 : ([
    .fmaxF64 1 9 16 24, .fmaxF64 1 8 9 24, .fmaxF64 1 8 16 9, .fminnumF64 4 9 16 24, .fminnumF64 4 8 9 24, .fminnumF64 4 8 16 9,
    .fmaxnumF64 4 9 16 24, .fmaxnumF64 4 8 9 24, .fmaxnumF64 4 8 16 9, .fscale 1 9 16 24 1, .fscale 1 8 9 24 1, .fdivF64 1 9 16 6, .fdivF64 1 8 9 6,
    .fsqrtF64 2 9 16 6, .fsqrtF64 2 8 9 6, .frcpF64 1 9 16 6, .frcpF64 1 8 9 6, .frndF64 1 9 16, .frndF64 1 8 9, .fclassF64 3 8 9, .fjoin 6 9 16,
    .fjoin 6 8 10] : List Instr).all (fun i => !i.wf) = true := by decide

theorem test_ill_formed_8 : ([
    .fsplitRow 3 8 9 5, .fsplitRow 3 10 16 5, .fsplitRow 3 124 16 5, .fsplitRow 3 8 16 0, .fsplitCol 3 8 9 5, .fsplitCol 3 10 16 5,
    .fsplitCol 3 124 16 5, .fsplitCol 3 8 16 0, .fcvt 5 8 16 0 2 1 0, .fcvt 5 8 16 1 1 0 0, .fcvt 5 8 9 0 2 0 0, .fcvt 5 9 8 2 0 0 0,
    .fcvt 5 8 16 6 7 0 0, .fcvt 5 8 16 0 1 0 1, .fcvt 5 8 9 1 2 0 1, .fcvt 5 9 16 2 1 0 1, .fcvt 5 8 12 1 4 0 1, .fcvt 5 10 16 1 4 0 1,
    .fcvt 5 9 16 1 6 0 1, .fcvt 5 12 16 4 1 0 1, .fcvt 5 8 10 4 1 0 1, .fcvt 5 8 9 6 1 0 1] : List Instr).all (fun i => !i.wf) = true := by decide

theorem test_ill_formed_9 : ([
    .mma 4 6 4 9 6 6, .mmaj 5 4 9 6, .macc 5 4 4 4 6 3, .mld 4 4 9 6 6, .mld 4 4 8 6 3, .mdrain 1 4 9 4 1, .mquant 1 6 4 6 6, .pbind 6 8 9 6,
    .pstale 1 9 16 6, .pstat 6 9 16 6, .psettle 1 8 6 5, .psettleAsync 6 9 16 6 4, .psettleAsync 6 8 16 6 5, .punbind 1 8 6 5, .prefresh 2 8 16 6 5,
    .skadd 6 8 9, .skadd 6 10 16, .skqry 6 9 16 6, .skqry 6 8 9 6, .skinit 1 9, .skscale 1 8 9, .skstat 1 8 9 6] : List Instr).all (fun i => !i.wf) = true := by decide

theorem test_ill_formed_10 : ([
    .skmerge 1 8 9 1, .skmerge 1 10 16 1, .rtag 5 9 11 1, .runtag 1 9 1, .hrd 4 9 16 6 1, .hwr 4 9 16 1, .eretC 6 9, .tlbinv 1 9, .ebudRd 1 9 6,
    .ebudSet 1 9, .hivl 511, .hgrd 0 1 12, .hgrd 1 1 0, .hgrd 1 0 3, .hsem 1 3, .hrnd 5] : List Instr).all (fun i => !i.wf) = true := by decide

/-! ### Decoding, every constructor

The word of each row of the opcode table, its fixed bits and a value in each field at the bits that the table gives it. -/

theorem test_decode_rows_1 : [
    0x01841031, 0x0384105A, 0x05441031, 0x06441031, 0x09841031, 0x0B84105A, 0x0D841031, 0x0F441031, 0x11841031, 0x13441031, 0x15441031, 0x17441000,
    0x17441002, 0x17441004, 0x17441006, 0x17041008, 0x1744100A, 0x1704100C, 0x19441031, 0x1B44100B, 0x1D441031].map decodeWf = [
    .ok (.iaddR 6 8 16 24 1), .ok (.iaddI 6 8 16 90), .ok (.isub 5 8 16 24 1), .ok (.iadd64 1 8 16 24 1), .ok (.imulR 6 8 16 24 1),
    .ok (.imulI 6 8 16 90), .ok (.imulh 6 8 16 24 1), .ok (.imad 5 8 16 24 1), .ok (.imadw 6 8 16 24 1), .ok (.imin 5 8 16 24 1),
    .ok (.imax 5 8 16 24 1), .ok (.iabs 5 8 16), .ok (.ineg 5 8 16), .ok (.notW 5 8 16), .ok (.popc 5 8 16), .ok (.clz 4 8 16), .ok (.brev 5 8 16),
    .ok (.mov 4 8 16), .ok (.shlR 5 8 16 24 1), .ok (.shlI 5 8 16 11), .ok (.shrR 5 8 16 24 1)] := rfl

theorem test_decode_rows_2 : [
    0x1F84100B, 0x2184100B, 0x23041031, 0x25441031, 0x2744105A, 0x29041031, 0x2B04105A, 0x2D441031, 0x2F44105A, 0x31441030, 0x33041031, 0x35041031,
    0x36441031, 0x38441031, 0x3B44005A, 0x41948410, 0x43964410, 0x44558410, 0x46554410, 0x48550410, 0x4B5048C0].map decodeWf = [
    .ok (.shrNI 6 8 16 11), .ok (.shrSI 6 8 16 11), .ok (.rot 4 8 16 24 1), .ok (.andR 5 8 16 24 1), .ok (.andI 5 8 16 90), .ok (.orR 4 8 16 24 1),
    .ok (.orI 4 8 16 90), .ok (.xorR 5 8 16 24 1), .ok (.xorI 5 8 16 90), .ok (.lut3 5 8 16 24), .ok (.bfx 4 8 16 24 1), .ok (.bfi 4 8 16 24 1),
    .ok (.leaX1X2 1 8 16 24 1), .ok (.leaX4X8 1 8 16 24 1), .ok (.movi 5 8 90), .ok (.icmpR 6 5 2 8 16), .ok (.icmpI 6 5 9 8 16),
    .ok (.fcmpF32 1 5 6 8 16), .ok (.fcmpF64 1 5 5 8 16), .ok (.fcmpF16 1 5 4 8 16), .ok (.plut 5 4 1 2 3)] := rfl

theorem test_decode_rows_3 : [
    0x4D040000, 0x4D000802, 0x4C428004, 0x4F041051, 0x51168F25, 0x53168AD1, 0x55568F25, 0x57800800, 0x59000000, 0x59000002, 0x59400004, 0x5B400051,
    0x61BD4410, 0x63841000, 0x63841002, 0x63841004, 0x6244100A, 0x64540280, 0x64544280, 0x64948280, 0x6554C000].map decodeWf = [
    .ok (.p2v 4 8), .ok (.v2p 4 8), .ok (.ptestNr 1 5), .ok (.sel 4 8 16 5 1), .ok (.bra 4 1478437), .ok (.brd 4 721 721), .ok (.call 5 1478437),
    .ok (.calli 6 8), .ok (.nop 4), .ok (.ret 4), .ok (.exit 5), .ok (.kill 5 5 1), .ok (.lperm 6 15 5 8 16), .ok (.qxchH 6 8 16),
    .ok (.qxchV 6 8 16), .ok (.qxchD 6 8 16), .ok (.qbcast 1 8 16 1), .ok (.pollAnd 1 5 5), .ok (.pollOr 1 5 5), .ok (.pollSame 2 5 5),
    .ok (.pick 5 5)] := rfl

theorem test_decode_rows_4 : [
    0x67840051, 0x69441006, 0x6B440024, 0x6D000830, 0x6C800834, 0x6CC00836, 0x71841065, 0x72441065, 0x74441065, 0x76441065, 0x78441065, 0x7B841005,
    0x7C441005, 0x7E441005, 0x80441005, 0x82441005, 0x85041064, 0x87041004, 0x89041064, 0x8B041064, 0x8D041004].map decodeWf = [
    .ok (.pmask 6 8 5 1), .ok (.xred 5 8 16 3), .ok (.smov 5 8 18), .ok (.ssetFflags 4 8), .ok (.ssetFrnd 2 8), .ok (.ssetFtrap 3 8),
    .ok (.ldGB8 6 8 16 6 1 1), .ok (.ldGB16 1 8 16 6 1 1), .ok (.ldGB32 1 8 16 6 1 1), .ok (.ldGB64 1 8 16 6 1 1), .ok (.ldGB128 1 8 16 6 1 1),
    .ok (.stGB8 6 8 16 1 1), .ok (.stGB16 1 8 16 1 1), .ok (.stGB32 1 8 16 1 1), .ok (.stGB64 1 8 16 1 1), .ok (.stGB128 1 8 16 1 1),
    .ok (.ldL 4 8 16 6 1), .ok (.stL 4 8 16 1), .ok (.ldc 4 8 16 6 1), .ok (.ldt 4 8 16 6 1), .ok (.stT 4 8 16 1)] := rfl

theorem test_decode_rows_5 : [
    0x8E4B2C65, 0x8E4B2D65, 0x8E6B2C65, 0x8E6B2D65, 0x908B2C65, 0x908B2D65, 0x90AB2C65, 0x90AB2D65, 0x928B2C65, 0x924B2D65, 0x926B2C65, 0x936B2D65,
    0x944B2C05, 0x944B2D05, 0x95AB2C05, 0x946B2D05, 0x964B2C05, 0x964B2D05, 0x966B2C05, 0x966B2D05, 0x984B2C05].map decodeWf = [
    .ok (.atomAdd 1 22 22 6 1 1), .ok (.atomAnd 1 22 22 6 1 1), .ok (.atomOr 1 22 22 6 1 1), .ok (.atomXor 1 22 22 6 1 1),
    .ok (.atomMinN 2 22 22 6 1 1), .ok (.atomMinS 2 22 22 6 1 1), .ok (.atomMaxN 2 22 22 6 1 1), .ok (.atomMaxS 2 22 22 6 1 1),
    .ok (.atomExch 2 22 22 6 1 1), .ok (.atomCas 1 22 22 6 1 1), .ok (.atomInc 1 22 22 6 1 1), .ok (.atomFaddF32 5 22 22 6 1 1),
    .ok (.redAdd 1 22 22 1 1), .ok (.redAnd 1 22 22 1 1), .ok (.redOr 6 22 22 1 1), .ok (.redXor 1 22 22 1 1), .ok (.redMinN 1 22 22 1 1),
    .ok (.redMinS 1 22 22 1 1), .ok (.redMaxN 1 22 22 1 1), .ok (.redMaxS 1 22 22 1 1), .ok (.redInc 1 22 22 1 1)] := rfl

theorem test_decode_rows_6 : [
    0x990B2D05, 0x9B858000, 0x9A5A0601, 0x9B008002, 0x9A400803, 0x9B841004, 0x9A441065, 0x9CC41000, 0x9C440061, 0x9C440002, 0x9D441003, 0x9D441064,
    0x9C400805, 0x9D800806, 0x9C400807, 0x9C400808, 0x9E841000, 0x9E841001, 0xA1441031, 0xA3441031, 0xA5441031].map decodeWf = [
    .ok (.redFaddF32 4 22 22 1 1), .ok (.fence 6 1 3), .ok (.pfence 1 6 4 6), .ok (.bar 4 1), .ok (.arrive 1 8), .ok (.waitc 6 8 16),
    .ok (.launch 1 8 16 6), .ok (.cp 3 8 16), .ok (.cpclose 1 8 6), .ok (.cpwait 1 8), .ok (.preq 5 8 16), .ok (.lock 5 8 16 6), .ok (.unlock 1 8),
    .ok (.stmap 6 8), .ok (.stunmap 1 8), .ok (.stflush 1 8), .ok (.lsaddF32 2 8 16), .ok (.lsaddI32 2 8 16), .ok (.fadd 5 8 16 24 1),
    .ok (.fsub 5 8 16 24 1), .ok (.fmul 5 8 16 24 1)] := rfl

theorem test_decode_rows_7 : [
    0xA7441031, 0xA8441030, 0xA8441031, 0xAA441030, 0xAA441031, 0xAC441030, 0xAC441031, 0xAF041030, 0xAF041031, 0xB0441030, 0xB0441031, 0xB3041030,
    0xB3041031, 0xB4441031, 0xB7841030, 0xB8441060, 0xB8441061, 0xB8841062, 0xB8841063, 0xB8441064, 0xB8441065].map decodeWf = [
    .ok (.ffma 5 8 16 24 1), .ok (.faddF64 1 8 16 24), .ok (.fsubF64 1 8 16 24), .ok (.fmulF64 1 8 16 24), .ok (.ffmaF64 1 8 16 24),
    .ok (.fminF32 1 8 16 24), .ok (.fmaxF32 1 8 16 24), .ok (.fminnumF32 4 8 16 24), .ok (.fmaxnumF32 4 8 16 24), .ok (.fminF64 1 8 16 24),
    .ok (.fmaxF64 1 8 16 24), .ok (.fminnumF64 4 8 16 24), .ok (.fmaxnumF64 4 8 16 24), .ok (.fscale 1 8 16 24 1), .ok (.vrsqe 6 8 16 24),
    .ok (.fdivF32 1 8 16 6), .ok (.fdivF64 1 8 16 6), .ok (.fsqrtF32 2 8 16 6), .ok (.fsqrtF64 2 8 16 6), .ok (.frcpF32 1 8 16 6),
    .ok (.frcpF64 1 8 16 6)] := rfl

theorem test_decode_rows_8 : [
    0xB8841066, 0xB8841067, 0xB8441068, 0xB8441069, 0xBA441000, 0xBA441002, 0xBAC41004, 0xBAC41006, 0xBB841008, 0xBAC4102A, 0xBAC4102B, 0xBD441008,
    0xC11A0866, 0xC3420806, 0xC5800000, 0xC7422468, 0xC9820060, 0xCB020866, 0xCC420809, 0xCE430462, 0xD1841060].map decodeWf = [
    .ok (.fexp2F32 2 8 16 6), .ok (.flog2F32 2 8 16 6), .ok (.fsinF32 1 8 16 6), .ok (.fcosF32 1 8 16 6), .ok (.frndF32 1 8 16),
    .ok (.frndF64 1 8 16), .ok (.fclassF32 3 8 16), .ok (.fclassF64 3 8 16), .ok (.fjoin 6 8 16), .ok (.fsplitRow 3 8 16 5),
    .ok (.fsplitCol 3 8 16 5), .ok (.fcvt 5 8 16 0 2 0 0), .ok (.mma 4 6 4 8 6 6), .ok (.mmaj 5 4 8 6), .ok (.mwait 6), .ok (.macc 5 4 4 4 6 8),
    .ok (.mzero 6 4 6), .ok (.mld 4 4 8 6 6), .ok (.mdrain 1 4 8 4 1), .ok (.mquant 1 6 4 6 2), .ok (.pbind 6 8 16 6)] := rfl

theorem test_decode_rows_9 : [
    0xD2441060, 0xD3841061, 0xD4400864, 0xD584106C, 0xD6400864, 0xD684106C, 0xD9841000, 0xDB841060, 0xDC400800, 0xDC441001, 0xDC441062, 0xDE441001,
    0xE1440059, 0xE2440001, 0xE5400010, 0xE5400011, 0xE7041061, 0xE9041001, 0xEB800800, 0xEB800001, 0xEC400800].map decodeWf = [
    .ok (.pstale 1 8 16 6), .ok (.pstat 6 8 16 6), .ok (.psettle 1 8 6 4), .ok (.psettleAsync 6 8 16 6 4), .ok (.punbind 1 8 6 4),
    .ok (.prefresh 2 8 16 6 4), .ok (.skadd 6 8 16), .ok (.skqry 6 8 16 6), .ok (.skinit 1 8), .ok (.skscale 1 8 16), .ok (.skstat 1 8 16 6),
    .ok (.skmerge 1 8 16 1), .ok (.rtag 5 8 11 1), .ok (.runtag 1 8 1), .ok (.trap 5 8), .ok (.bkpt 5 8), .ok (.hrd 4 8 16 6 1), .ok (.hwr 4 8 16 1),
    .ok (.eretC 6 8), .ok (.eretX 6), .ok (.tlbinv 1 8)] := rfl

theorem test_decode_rows_10 : [
    0xECC00001, 0xEE440060, 0xEE400801, 0xEF841062, 0xF95A3C96, 0xFA05A3C9, 0xFC000A05, 0xFE000018, 0xFE200006, 0xFE400003, 0xFE6168F3, 0xFE800000].map decodeWf = [
    .ok (.tlbinvCtx 3), .ok (.ebudRd 1 8 6), .ok (.ebudSet 1 8), .ok (.stopr 6 8 16 6), .ok (.himm 1 5913750), .ok (.hoff 369609), .ok (.hivl 2565),
    .ok (.hgrd 0 1 8), .ok (.hsem 1 2), .ok (.hrnd 3), .ok (.hsat 23100 1 1), .ok (.hdet)] := rfl

/-! ### The words that the spec writes out

The instruction words of the encoding tables (3-5, 4-7, 8-6, 9-2, 11-10, 12-5, 14-7, 15-14, 16-2, 17-10) and what they stand for there. -/

theorem test_spec_words_1 : [
    0xFC000003, 0xF8004000, 0x3A020000, 0x3A00800C, 0x4004800D, 0xD0060400, 0xD4000C03, 0xFA0001C0, 0x74880620, 0x7E880600, 0x9A058000, 0xFE000008,
    0x74090600, 0x58000004, 0xD2070C00, 0xD2080C21, 0xD40A0C0B, 0xD6000C03, 0xD60B0C0B, 0xF8000007, 0x2E078F55].map decodeWf = [
    .ok (.hivl 3), .ok (.himm 0 16384), .ok (.movi 0 4 0), .ok (.movi 0 1 12), .ok (.icmpR 0 1 2 0 13), .ok (.pbind 0 12 4 0),
    .ok (.psettle 0 12 0 3), .ok (.hoff 448), .ok (.ldGB32 2 16 6 2 0 0), .ok (.stGB32 2 16 6 0 0), .ok (.fence 0 1 3), .ok (.hgrd 0 0 8),
    .ok (.ldGB32 0 18 6 0 0 0), .ok (.exit 0), .ok (.pstale 0 14 12 0), .ok (.pstat 0 16 12 2), .ok (.psettleAsync 0 20 12 0 3),
    .ok (.punbind 0 12 0 3), .ok (.prefresh 0 22 12 0 3), .ok (.himm 0 7), .ok (.xorI 0 15 15 85)] := rfl

theorem test_spec_words_2 : [
    0x420CC885, 0x02081101, 0x6A008006, 0x00018104, 0xF80000AC, 0x3002050C, 0x603DC290, 0x62040500, 0x64084080, 0x66038010, 0x68030500, 0x56000800,
    0x58000002, 0x5A800051, 0x74060A00, 0x26060C1F, 0xFA000200, 0x94081208, 0xFE800000, 0x9A008002, 0x940C1C0C].map decodeWf = [
    .ok (.icmpI 0 3 3 17 5), .ok (.iaddI 0 16 17 1), .ok (.smov 0 1 3), .ok (.iaddR 0 3 1 2 0), .ok (.himm 0 172), .ok (.lut3 0 4 5 6),
    .ok (.lperm 0 15 7 5 16), .ok (.qxchH 0 8 5), .ok (.pollOr 0 2 1), .ok (.pmask 0 7 1 0), .ok (.xred 0 6 5 0), .ok (.calli 0 8), .ok (.ret 0),
    .ok (.kill 2 5 1), .ok (.ldGB32 0 12 10 0 0 0), .ok (.andI 0 12 12 31), .ok (.hoff 512), .ok (.redAdd 0 16 9 2 0), .ok (.hdet), .ok (.bar 0 1),
    .ok (.redAdd 0 24 14 3 0)] := rfl

theorem test_spec_words_3 : [
    0xFE200004, 0x7609040D, 0x7E00860D, 0xFA000040, 0x84048404, 0xFA010000, 0x88050208, 0x8E0A040D, 0x920A050C, 0x9230850C, 0x9E038400, 0x9A0E0000,
    0x9A258001, 0x9A018201, 0x9A000002, 0x9A000603, 0x9A080804, 0x9A0F1C25, 0x9C050C00, 0x9C028001, 0x9C028002].map decodeWf = [
    .ok (.hsem 1 0), .ok (.ldGB64 0 18 4 0 3 1), .ok (.stGB32 0 1 6 3 1), .ok (.hoff 64), .ok (.ldL 0 9 4 0 1), .ok (.hoff 65536),
    .ok (.ldc 0 10 2 0 2), .ok (.atomAdd 0 20 2 0 3 1), .ok (.atomCas 0 20 2 0 3 0), .ok (.atomFaddF32 0 33 2 0 3 0), .ok (.lsaddF32 0 7 4),
    .ok (.fence 0 3 4), .ok (.pfence 0 9 3 0), .ok (.pfence 0 0 3 2), .ok (.bar 0 0), .ok (.arrive 0 6), .ok (.waitc 0 16 8),
    .ok (.launch 0 30 28 2), .ok (.cp 0 10 12), .ok (.cpclose 0 5 0), .ok (.cpwait 0 5)] := rfl

theorem test_spec_words_4 : [
    0x9C040403, 0x9C018604, 0x9C000605, 0x9C000C06, 0x9C000207, 0x9C000208, 0xD8861000, 0xDE0C1001, 0x9A019C04, 0x9A020201, 0xDAD01200, 0xDC111401,
    0xB6D52A5C, 0xDC001000, 0xDA141430, 0xDC029012, 0xDE0C1000, 0xA6040206, 0xA002050D, 0xAA050C1D, 0xAC008206].map decodeWf = [
    .ok (.preq 0 8 4), .ok (.lock 0 3 6 0), .ok (.unlock 0 6), .ok (.stmap 0 12), .ok (.stunmap 0 2), .ok (.stflush 0 2), .ok (.skadd 2 12 16),
    .ok (.skmerge 0 24 16 1), .ok (.waitc 0 3 28), .ok (.pfence 0 0 4 2), .ok (.skqry 3 32 18 0), .ok (.skscale 0 34 20), .ok (.vrsqe 3 42 42 46),
    .ok (.skinit 0 16), .ok (.skqry 0 40 20 3), .ok (.skstat 0 5 16 1), .ok (.skmerge 0 24 16 0), .ok (.ffma 0 8 2 3 0), .ok (.fadd 0 4 5 6 1),
    .ok (.ffmaF64 0 10 12 14), .ok (.fminF32 0 1 2 3)] := rfl

theorem test_spec_words_5 : [
    0xB80A1540, 0xB80B1823, 0xBA048A04, 0xBA10282E, 0xBA194008, 0xBC018228, 0xBC02861E, 0xBC0A0839, 0xC0088420, 0xC2000600, 0xC4000000, 0xC6018A00,
    0xC8028000, 0xCA010811, 0xCC000A0B, 0xCE020013, 0xE0320000, 0xE0350008, 0xE0360010, 0xBA10102F, 0xBA2A122F].map decodeWf = [
    .ok (.fdivF32 0 20 21 4), .ok (.fsqrtF64 0 22 24 2), .ok (.fclassF32 0 9 10), .ok (.fsplitRow 0 32 40 7), .ok (.fjoin 0 50 64),
    .ok (.fcvt 0 3 2 1 2 0 0), .ok (.fcvt 0 5 6 0 7 1 0), .ok (.fcvt 0 20 8 1 6 0 1), .ok (.mma 0 2 1 4 2 0), .ok (.mmaj 0 0 6 0), .ok (.mwait 0),
    .ok (.macc 0 3 1 2 0 0), .ok (.mzero 0 5 0), .ok (.mld 0 2 8 1 1), .ok (.mdrain 0 0 10 5 1), .ok (.mquant 0 4 0 1 3), .ok (.rtag 0 100 0 0),
    .ok (.rtag 0 106 1 0), .ok (.rtag 0 108 2 0), .ok (.fsplitCol 0 32 16 7), .ok (.fsplitCol 0 84 18 7)] := rfl

theorem test_spec_words_6 : [
    0x34029634, 0xC0080400, 0x34183136, 0xCC006C0E, 0x9A018101, 0xE0040019, 0xE2320000, 0xE400000A, 0xE4000001, 0xE6050B00, 0xE6060B21, 0xE8050B00,
    0xEA007800, 0xEA000001, 0xEC000400, 0xEC000001, 0xEE0A0000, 0xEE001601, 0xEE028612].map decodeWf = [
    .ok (.bfi 0 5 22 26 0), .ok (.mma 0 2 0 4 0 0), .ok (.bfi 0 48 49 27 0), .ok (.mdrain 0 0 108 7 0), .ok (.pfence 0 0 3 1), .ok (.rtag 0 8 3 1),
    .ok (.runtag 0 100 0), .ok (.trap 0 5), .ok (.bkpt 0 0), .ok (.hrd 0 10 11 0 0), .ok (.hrd 0 12 11 2 1), .ok (.hwr 0 10 11 0),
    .ok (.eretC 0 120), .ok (.eretX 0), .ok (.tlbinv 0 4), .ok (.tlbinvCtx 0), .ok (.ebudRd 0 20 0), .ok (.ebudSet 0 22), .ok (.stopr 0 5 6 1)] := rfl

/-! ### The small machine of the witnesses

One group of 32 lanes on core 0 (`bareGroup`), every page of the context in frame 0 on; a word of its slot A is being issued at 0x1000. -/

/-- The issue of a word with a hint run, executed for the first time. -/
def tIss (h : Hints) : Issue := ⟨2, false, 0x1000, 0, h, false, 0, 0, none, [], [], none⟩

/-- The surroundings of a word, from what varies. -/
def tMk (h : Hints) (g : Group) (l : Launch) (k : Kernel) : Env :=
  ⟨tIss h, g, { bareContext with launches := [{ l with kernel := k }], kernels := [k] }, { l with kernel := k }, k⟩

/-- The surroundings of a word without hints in the bare group. -/
def tEnv : Env := tMk Hints.empty bareGroup bareLaunch bareKernel

/-- The machine in which a word has these surroundings. -/
def tState (e : Env) : State := { State.reset.bare with contexts := [e.c], groups := [e.g], issue := some e.iss }

/-- The page tables of the first page, from the root of the bare context. -/
def tTables : Mem :=
  [(0x10000, 0x12001), (0x12000, 0x14001), (0x14000, 0x14201), (0x14200, 0x14301), (0x14300, 0x14401), (0x14400, 0x3F)].foldl
    (fun m x => Mem.write m x.1 (leBytes 8 x.2)) []

/-- The bare group with another group of hints, in a deterministic launch, or with some lanes changed. -/
def tHint (h : Hints) : Env := tMk h bareGroup bareLaunch bareKernel
def tImm (first : Bool) (v : BitVec 24) : Env := tHint { Hints.empty with himm := some (first, v) }
def tDetLaunch : Launch := { bareLaunch with det := true }
def tGroup (g : Group) : Env := tMk Hints.empty g bareLaunch bareKernel
def tDet (g : Group) : Env := tMk Hints.empty g tDetLaunch bareKernel
/-- Lane 1 with a word in a register, or with its predicates set. -/
def tReg (g : Group) (lane reg : Nat) (v : Word) : Group := g.updLane lane (fun l => l.putWord (4 * reg) v)
def tPred (g : Group) (lane : Nat) (p : Nat) : Group := g.updLane lane (fun l => l.putPred p true)
/-- A handler group of one lane, whose origin is lane 5 of group 7. -/
def tHandler : Group := { bareGroup with origins := some [⟨7, false, 5, 6, 3⟩] }
/-- A group with an open frame: lanes 0 to 15 on the path of slot A, the others on that of slot B, joined at 0x1100. -/
def tSplit : Group :=
  { bareGroup with
    a := Slot.ofPath ⟨0x1000, 0x0000FFFF, some 0x1100, [(0, false)]⟩, b := Slot.ofPath ⟨0x1040, 0xFFFF0000, some 0x1100, [(0, true)]⟩,
    jr := some ⟨0x1100, 0, none, []⟩, frames := 1 }

theorem test_env : (tState tEnv).env = some tEnv := rfl
theorem test_env_split : (tState (tGroup tSplit)).env = some (tGroup tSplit) := rfl

/-! ### Witnesses: registers, integer and logic words -/

theorem witness_ReadAfterWrite : (0 + 4 ≤ 4 ∨ 4 + 4 ≤ 0) ∧ (8 ≠ 7) ∧
    let m : Mem := [(5, 1), (7, 2)]
    let n : Mem := Mem.set [(5, 1)] 7 2
    m.wf = true ∧ n.wf = true ∧ ∀ b, n.get b = m.get b := ⟨by decide, by decide, by decide, by decide, fun _ => rfl⟩

theorem witness_OperandForms :
    (tEnv.hints.himm = none ∧ ∀ x : BitVec 1, x = 0 ∨ x = 1) ∧ (tImm false 0x123456).hints.himm = some (false, 0x123456) ∧
    (tImm true 0xFFFFFF).hints.himm = some (true, 0xFFFFFF) := by decide

theorem witness_IntegerRegisterWords :
    ((tState tEnv).env = some tEnv ∧ ∃ o, tEnv.operands 1 2 0 = .ok o) ∧ ((tState tEnv).env = some tEnv ∧ ∃ h, tEnv.operands 1 2 1 = .error h) ∧
    ((tState (tImm true 5)).env = some (tImm true 5) ∧ ∃ o, (tImm true 5).operands 127 127 1 = .ok o) :=
  ⟨⟨rfl, _, rfl⟩, ⟨rfl, _, rfl⟩, ⟨rfl, _, rfl⟩⟩

theorem witness_IntegerImmediateAndVariantWords : (tState tEnv).env = some tEnv := rfl

theorem witness_IntegerPairWordsAndLut :
    ((tState tEnv).env = some tEnv ∧ tEnv.hints.himm = none ∧ (126 : BitVec 7).toNat % 2 = 0) ∧
    (tEnv.hints.himm = none ∧ ((1 : BitVec 1) = 1 ∨ (127 : BitVec 7).toNat % 2 = 1)) ∧
    ((tState (tImm true 7)).env = some (tImm true 7) ∧ (tImm true 7).hints.himm = some (true, 7)) ∧
    ((tState (tImm false 255)).env = some (tImm false 255) ∧ (tImm false 255).hints.himm = some (false, 255) ∧ (255 : BitVec 24).toNat < 256) ∧
    ((tState (tImm false 256)).env = some (tImm false 256) ∧ ∀ hi, (tImm false 256).hints.himm = some (false, hi) → 256 ≤ hi.toNat) :=
  ⟨⟨rfl, rfl, rfl⟩, by decide, ⟨rfl, rfl⟩, ⟨rfl, rfl, by decide⟩, rfl, fun hi h => by
    have : (256 : BitVec 24) = hi := by injection h with h; injection h
    subst this; decide⟩

theorem witness_BitFieldResults : 31 < 32 ∧ 0 < 32 ∧ 32 - (clzWord 0x00010000).toNat ≤ 17 ∧ 16 + (clzWord 0x00010000).toNat = 31 := by decide

/-! ### Witnesses: predicates and cross-lane words -/

theorem witness_PredicateWords :
    ((13 : BitVec 4).toNat % 8 ≤ 5 ∧ (0 : BitVec 4).toNat % 8 ≤ 5) ∧ ((tState tEnv).env = some tEnv ∧ tEnv.hints.himm = none) ∧
    ((tState (tImm true 1)).env = some (tImm true 1) ∧ (tImm true 1).hints.himm = some (true, 1)) :=
  ⟨by decide, ⟨rfl, rfl⟩, ⟨rfl, rfl⟩⟩

theorem witness_PredicatesAndGuards : 11 < 12 ∧ tEnv.iss.redo = false ∧ tEnv.path.mask.getLsbD 31 = true ∧
    (tGroup (tPred bareGroup 3 6)).iss.redo = false ∧ ((tGroup (tPred bareGroup 3 6)).eff 7).getLsbD 3 = true ∧
    ((tGroup (tPred bareGroup 3 6)).eff 7).getLsbD 4 = false := by decide

theorem witness_PlutCombinesThreePredicates :
    ((tState (tImm false 3)).env = some (tImm false 3) ∧ (tImm false 3).hints.himm = some (false, 3) ∧ (3 : BitVec 24).toNat < 256) ∧
    ((tState tEnv).env = some tEnv ∧ ∀ hi, tEnv.hints.himm = some (false, hi) → 256 ≤ hi.toNat) ∧
    (0x4A000000 : Word).extractLsb' 25 7 = 0x25 :=
  ⟨⟨rfl, rfl, by decide⟩, ⟨rfl, nofun⟩, by decide⟩

theorem witness_SelSelectsOrKeeps : (tState tEnv).env = some tEnv ∧ (0x4E0000B1 : Word).extractLsb' 25 7 = 0x27 := ⟨rfl, by decide⟩

theorem witness_PmaskWritesTheMask :
    ((tState tEnv).env = some tEnv ∧ ¬ (tEnv.l.det = true ∧ tEnv.g.isHandler = true)) ∧
    ((tState (tDet tHandler)).env = some (tDet tHandler) ∧ (tDet tHandler).l.det = true ∧ (tDet tHandler).g.isHandler = true) ∧
    (tEnv.iss.redo = false ∧ (tEnv.act 0).getLsbD 31 = true) ∧ (0x660000B1 : Word).extractLsb' 25 7 = 0x33 :=
  ⟨⟨rfl, by decide⟩, ⟨rfl, rfl, rfl⟩, by decide, by decide⟩

theorem witness_CrossLaneWords :
    ((tState tEnv).env = some tEnv ∧ tEnv.l.det = false) ∧
    ((tState (tDet bareGroup)).env = some (tDet bareGroup) ∧ (tDet bareGroup).g.isHandler = false ∧ (tDet bareGroup).g.jr = none) ∧
    ¬ (tEnv.l.det = true ∧ tEnv.g.isHandler = true) ∧
    ((tState (tDet tHandler)).env = some (tDet tHandler) ∧ (tDet tHandler).l.det = true ∧ (tDet tHandler).g.isHandler = true) :=
  ⟨⟨rfl, rfl⟩, ⟨rfl, rfl, rfl⟩, by decide, ⟨rfl, rfl, rfl⟩⟩

theorem witness_XredReducesTheActiveLanes :
    (tState tEnv).env = some tEnv ∧ ¬ (tEnv.l.det = true ∧ tEnv.g.isHandler = true) ∧ (7 : BitVec 7).toNat ≤ 7 ∧ tEnv.act 0 ≠ 0 ∧
    (0x6800000E : Word).extractLsb' 25 7 = 0x34 := ⟨rfl, by decide, by decide, by decide, by decide⟩

theorem witness_DeterministicCrossLaneConflict :
    ((tState (tDet tSplit)).env = some (tDet tSplit) ∧ (tDet tSplit).l.det = true ∧ (tDet tSplit).g.isHandler = false ∧
      (tDet tSplit).g.jr.isSome = true ∧ ((tDet tSplit).act 0).getLsbD 15 = true ∧ lpermIndex 7 15 ((tDet tSplit).lpermSel 7 31 15) = some 16 ∧
      (tDet tSplit).path.mask.getLsbD 16 = false ∧ (tDet tSplit).g.lanesOn.getLsbD 16 = true ∧ (tDet tSplit).g.exited.getLsbD 16 = false) ∧
    ((tState (tDet bareGroup)).env = some (tDet bareGroup) ∧ (tDet bareGroup).g.jr = none) :=
  ⟨⟨rfl, by decide, by decide, by decide, by decide, by decide, by decide, by decide, by decide⟩, ⟨rfl, rfl⟩⟩

/-- With a frame open and every source in the path: the first sixteen lanes change words in pairs. -/
theorem witness_DeterministicCrossLaneConflict_none :
    (tDet tSplit).g.jr.isSome = true ∧ (∀ n, n < 32 → ((tDet tSplit).act 0).getLsbD n = true → (tDet tSplit).path.mask.getLsbD (Nat.xor n 1) = true) ∧
    lpermIndex 0 0 31 = some 31 ∧ lpermIndex 0 0 32 = none ∧ lpermIndex 8 31 33 = some 1 := by decide

theorem witness_SpecialRegisters :
    ((tState tEnv).env = some tEnv ∧ tEnv.g.origins = none ∧ tEnv.l.det = false) ∧
    ((tState (tDet bareGroup)).env = some (tDet bareGroup) ∧ (tDet bareGroup).g.origins = none ∧ (tDet bareGroup).l.det = true ∧
      (tDet bareGroup).g.jr = none) := ⟨⟨rfl, rfl, rfl⟩, ⟨rfl, rfl, rfl, rfl⟩⟩

/-- Where the lanes differ in v1, where they agree on a mode, and where no lane is active. -/
def tMode (v : Word) : Group := (List.range 32).foldl (fun g i => tReg g i 1 v) bareGroup

theorem witness_SsetWords :
    ((tState tEnv).env = some tEnv ∧ tEnv.privileged = true ∧ tEnv.g.isHandler = false) ∧
    (∀ n, n < 32 → ((tGroup (tMode 4)).act 0).getLsbD n = true ∧ ((tGroup (tMode 4)).g.lane n).word ((tGroup (tMode 4)).v (1 : BitVec 7)) = 4) ∧
    ((tState (tGroup (tMode 5))).env = some (tGroup (tMode 5)) ∧ (tGroup (tMode 5)).act 0 ≠ 0 ∧ 5 ≤ (5 : Word).toNat % 8) ∧
    ((tEnv.act 0).getLsbD 0 = true ∧ ((tGroup (tReg bareGroup 0 1 9)).g.lane 0).word 4 ≠ ((tGroup (tReg bareGroup 0 1 9)).g.lane 1).word 4) ∧
    ((tState (tGroup tHandler)).env = some (tGroup tHandler) ∧ (tGroup tHandler).privileged = true ∧ (tGroup tHandler).g.isHandler = true) ∧
    tEnv.act 1 = 0 :=
  ⟨⟨rfl, by decide, by decide⟩, by decide, ⟨rfl, by decide, by decide⟩, by decide, ⟨rfl, by decide, by decide⟩, by decide⟩

/-- The bare context with its image unprivileged. -/
def tUser : Env := { tEnv with c := { tEnv.c with images := [⟨[(0x1000, 0x1000)], false⟩] } }

theorem witness_PrivilegedWords : (tState tUser).env = some tUser ∧ tUser.privileged = false ∧ tUser.g.isHandler = false ∧ tUser.l.det = false :=
  ⟨rfl, by decide, by decide, by decide⟩

/-! ### Witnesses: floating point -/

theorem witness_RoundingIsExact :
    (0x7F7FFFFF < 2 ^ fp32.width ∧ fp32.value 0x3F800001 = .num false 8388609 8388608) ∧ (0x3F800001 < 2 ^ fp32.width) ∧ (0 < 1 ∧ 0 < 3) ∧
    (fp32.round (.plain .rtz) false 1 3).1 < fp32.maxBits ∧ (e5m2.round (.plain .rdn) true (2 ^ 40) 1).2.getLsbD 2 = true ∧
    e5m2.value e5m2.maxBits = .num false (7 * 2 ^ 13) 1 := by decide

/-- Lane 3 adds infinities of both signs under an FTRAP of all causes. -/
def tTrap : Group := { tReg (tReg bareGroup 3 1 0x7F800000) 3 2 0xFF800000 with ftrap := 0x3F }

/-- With no cause enabled in FTRAP no lane traps. -/
theorem noTrap_bare (g : BitVec 3) (r : Nat → FRes) : NoTrap g tEnv r := by
  intro n _ _
  show trapCause 0 _ _ = none
  simp [trapCause]

theorem witness_FpArithmeticWords :
    (tState tEnv).env = some tEnv ∧ tEnv.eff 0 ≠ 0 ∧ ∀ r : Lane → FRes, NoTrap 0 tEnv (fun n => r (tEnv.g.lane n)) :=
  ⟨rfl, by decide, fun _ => noTrap_bare _ _⟩

theorem witness_FpMinMaxCompareAndClassWords :
    (tState tEnv).env = some tEnv ∧ (7 : BitVec 4).toNat ≤ 7 ∧ (∀ x : BitVec 1, x = 0 ∨ x = 1) ∧ ∀ r : Lane → FRes, NoTrap 0 tEnv (fun n => r (tEnv.g.lane n)) :=
  ⟨rfl, by decide, by decide, fun _ => noTrap_bare _ _⟩

/-- A request of the bare group. -/
def tReq (j : Job) : Request := ⟨9, 0, 0, 2, false, 0x0FFC, 0, Hints.empty, j, none, none, 0xFFFF⟩
/-- The machine with that request outstanding and no word being issued. -/
def tWith (j : Job) : State := { tState tEnv with issue := none, requests := [tReq j] }

theorem witness_FpLongWords :
    ((tState tEnv).env = some tEnv ∧ ∀ r : Lane → FRes, NoTrap 0 tEnv (fun n => r (tEnv.g.lane n))) ∧
    ((tWith (.fpLong [⟨31, 4, [1, 2, 3, 4]⟩] [(31, 4)])).live? 9 = some (tReq (.fpLong [⟨31, 4, [1, 2, 3, 4]⟩] [(31, 4)])) ∧
      (tWith (.fpLong [⟨31, 4, [1, 2, 3, 4]⟩] [(31, 4)])).group? 2 = some bareGroup) :=
  ⟨⟨rfl, fun _ => noTrap_bare _ _⟩, rfl, rfl⟩

/-- A word executed again after a trap in lane 0, whose first execution delivered a band scale or a row exponent. -/
def tRedo (v : Int) : Env := { tEnv with iss := { tIss Hints.empty with redo := true, act := 1, eff := 1, delivered := some ⟨[v]⟩ } }

theorem witness_FpConversionWords :
    (tState tEnv).env = some tEnv ∧ tEnv.g.ftrap = 0 ∧ ((1 : BitVec 3) = 1 ∧ 4 ≤ (6 : BitVec 3).toNat) ∧ tEnv.iss.delivered = none ∧
    ((tState (tRedo 7)).env = some (tRedo 7) ∧ (tRedo 7).iss.delivered = some ⟨[7]⟩ ∧ (⟨[7]⟩ : Delivered) ≠ ⟨[8]⟩) ∧
    (4 ≤ (4 : BitVec 3).toNat ∧ (2 : BitVec 3).toNat < 4) ∧ (tEnv.joinSlot 4).isSome = true ∧ tEnv.joinSlot 3 = none :=
  ⟨rfl, rfl, by decide, rfl, ⟨rfl, rfl, by decide⟩, by decide, by decide, by decide⟩

/-- The kinds of FP32 operands and of elements of a block, at the ends of their ranges. -/
theorem witness_FpClauses :
    fp32.value 0x7F800000 = .inf false ∧ fp32.value 0xFF800000 = .inf true ∧ (fp32.value 0xFFFFFFFF).isNan = true ∧ (fp32.value 0x7F800001).isSnan = true ∧
    (∃ n d, fp32.value 0x80000000 = .num true n d ∧ n = 0) ∧ (∃ n d, fp32.value 0x43480000 = .num false n d ∧ n ≤ 200 * d ∧ n = 200 * d) ∧
    (∃ n d, fp32.value 0x43480001 = .num false n d ∧ 200 * d < n) ∧ (∃ n d, fp32.value 0x3E800000 = .num false n d ∧ n * 2 ^ 2 = d) ∧
    (∃ p q, e3m5 0xFE = some (p, q)) ∧ e3m5 0xFF = none ∧ (∃ n d, bf16.value 0x3F80 = .num false n d ∧ 0 < n) ∧ 0x3F80 < 2 ^ 16 :=
  ⟨rfl, rfl, rfl, rfl, ⟨_, _, rfl, by decide⟩, ⟨_, _, rfl, by decide, by decide⟩, ⟨_, _, rfl, by decide⟩, ⟨_, _, rfl, by decide⟩, ⟨_, _, rfl⟩, rfl,
    ⟨_, _, rfl, by decide⟩, by decide⟩

theorem witness_SlicesAreLeadingDigits : 0 < 3 ∧ 2 < 3 := by decide

theorem witness_FpLaneTraps :
    (tState (tGroup tTrap)).env = some (tGroup tTrap) ∧ ((tGroup tTrap).eff 0).getLsbD 3 = true ∧ (tGroup tTrap).g.isHelper 3 = false ∧
    (let r := addOp fp32 (tGroup tTrap) (((tGroup tTrap).g.lane 3).word 4).toNat (((tGroup tTrap).g.lane 3).word 8).toNat 0
     trapCause (tGroup tTrap).g.ftrap r.sn r.flags ≠ none) ∧ bareKernel.handler = 0 ∧ bareContext.run = .running :=
  ⟨rfl, by decide, by decide, by decide, rfl, rfl⟩
/-! ### Witnesses: control flow -/

/-- The word's guard holds in lane 3 only, G naming p0. -/
def tOne : Env := tGroup (tPred bareGroup 3 0)
/-- The bare group with a join at 0x1100. -/
def tJoined : Env := tGroup { bareGroup with a := Slot.ofPath ⟨0x1000, BitVec.allOnes 32, some 0x1100, []⟩ }

theorem witness_UniformTransfers :
    ((tState tOne).env = some tOne ∧ tOne.act 2 = 0) ∧ ((tState tOne).env = some tOne ∧ tOne.act 1 ≠ 0 ∧ tOne.act 1 ≠ tOne.path.mask) :=
  ⟨⟨rfl, by decide⟩, rfl, by decide, by decide⟩

theorem witness_BraMovesThePath :
    ((tState tJoined).env = some tJoined ∧ tJoined.act 0 ≠ 0 ∧ tJoined.act 0 = tJoined.path.mask ∧
      (tJoined.g.slot tJoined.iss.slotB).path = some tJoined.path ∧ tJoined.path.mask ≠ 0 ∧
      tJoined.path.join ≠ some (tJoined.iss.pc + 4 * (0x3FFFFF : BitVec 22).signExtend 64)) ∧ (0x513FFFFF : Word).extractLsb' 25 7 = 0x28 :=
  ⟨⟨rfl, by decide, by decide, rfl, by decide, by decide⟩, by decide⟩

theorem witness_RetGoesToTheJoin :
    ((tState tEnv).env = some tEnv ∧ tEnv.act 0 ≠ 0 ∧ tEnv.act 0 = tEnv.path.mask ∧ tEnv.path.join = none) ∧
    ((tState tJoined).env = some tJoined ∧ tJoined.act 0 ≠ 0 ∧ tJoined.act 0 = tJoined.path.mask ∧ tJoined.path.join = some 0x1100) :=
  ⟨⟨rfl, by decide, by decide, rfl⟩, rfl, by decide, by decide, rfl⟩

/-- A divergence stack of n entries under the open frame of `tSplit`, whose slot A alone has a path: a BRD pushes one entry more. -/
def tStacked (n : Nat) : Env :=
  tGroup { tPred tSplit 3 0 with b := Slot.free, stack := List.replicate n (.frame ⟨0x1200, 0, none, []⟩) }

theorem witness_BrdDiverges :
    (tState tOne).env = some tOne ∧ tOne.act 2 = 0 ∧ (tOne.act 0 ≠ 0 ∧ tOne.path.mask &&& ~~~ tOne.act 0 = 0) ∧
    (∀ n ∈ [63, 64], (tStacked n).act 1 ≠ 0 ∧ (tStacked n).path.mask &&& ~~~ (tStacked n).act 1 ≠ 0) ∧
    (let e := tStacked 63
     e.g.stack.length + ((if (e.g.slot true).path.isSome then [Entry.path (e.g.slot true).parked] else []) ++ (e.g.jr.map Entry.frame).toList).length ≤ 64) ∧
    (let e := tStacked 64
     64 < e.g.stack.length + ((if (e.g.slot true).path.isSome then [Entry.path (e.g.slot true).parked] else []) ++ (e.g.jr.map Entry.frame).toList).length) ∧
    (let x : Slot := { Slot.free with wait := some (.request 9) }
     (∀ n, x.wait ≠ some (.batch n)) ∧ x.wait ≠ some .mmaj) ∧ (let x : Slot := { Slot.free with wait := some (.batch 3) }
     (∃ n, x.wait = some (.batch n)) ∨ x.wait = some .mmaj) :=
  ⟨rfl, by decide, by decide, by decide, by decide, by decide, ⟨nofun, nofun⟩, .inl ⟨3, rfl⟩⟩

theorem witness_BrdDiverges_env : (tState (tStacked 63)).env = some (tStacked 63) ∧ (tState (tStacked 64)).env = some (tStacked 64) := ⟨rfl, rfl⟩

/-- A function header at 0x1100, OP 0x78 with no more registers than 64. -/
def tCode (e : Env) : State := { tState e with mem := Mem.write [] 0x1100 (leBytes 4 0xF0000000) }
/-- Every lane calls 0x1100 through v2:v3, but lane 31 calls 0x1104, which is no header. -/
def tTargets : Env := tGroup (tReg ((List.range 32).foldl (fun g i => tReg g i 2 0x1100) bareGroup) 31 2 0x1104)
/-- Every lane calls 0x1104. -/
def tBadTargets : Env := tGroup ((List.range 32).foldl (fun g i => tReg g i 2 0x1104) bareGroup)

theorem witness_CallsEnterTheirTarget :
    ((tCode tEnv).env = some tEnv ∧ tEnv.act 0 ≠ 0 ∧ tEnv.act 0 = tEnv.path.mask ∧ (∃ f, tEnv.callFrame = .ok f) ∧
      tEnv.checkCall (tCode tEnv) (tEnv.iss.pc + 4 * (0x40 : BitVec 22).signExtend 64) = .ok () ∧
      ∃ h, tEnv.checkCall (tCode tEnv) (tEnv.iss.pc + 4 * (0x41 : BitVec 22).signExtend 64) = .error h) ∧
    ((tCode tTargets).env = some tTargets ∧ tTargets.act 0 ≠ 0 ∧ tTargets.act 0 = tTargets.path.mask ∧ (∃ f, tTargets.callFrame = .ok f) ∧
      (∀ n, n < 32 → ((0x7FFFFFFF : BitVec 32).getLsbD n = true ↔
        tTargets.path.mask.getLsbD n = true ∧ (tTargets.g.lane n).dword (tTargets.v (2 : BitVec 7)) = 0x1100)) ∧
      (∀ n, n < 32 → (0x1100 : DWord).toNat ≤ ((tTargets.g.lane n).dword (tTargets.v (2 : BitVec 7))).toNat) ∧
      tTargets.checkCall (tCode tTargets) 0x1100 = .ok ()) ∧
    ((tCode tBadTargets).env = some tBadTargets ∧ (∀ n, n < 32 → (tBadTargets.g.lane n).dword (tBadTargets.v (2 : BitVec 7)) = 0x1104) ∧
      ∃ h, tBadTargets.checkCall (tCode tBadTargets) 0x1104 = .error h) :=
  ⟨⟨rfl, by decide, by decide, ⟨_, rfl⟩, rfl, _, rfl⟩, ⟨rfl, by decide, by decide, ⟨_, rfl⟩, by decide, by decide, rfl⟩, rfl, by decide, _, rfl⟩

/-- A target with a header of 16 units, in a kernel of 15, and frames that find the stack at 63 and at 64 entries. -/
theorem witness_CallsEnterTheirTarget_clauses :
    (0x1102 % 4 ≠ 0 ∧ (tCode tEnv).codeWord 0 0 0x20000 = none) ∧
    ((∀ im ∈ bareContext.images, im.code.any (fun r => decide (r.1 ≤ 0x1000) && decide (0x1000 < r.1 + r.2)) = true) ∧
      ∀ im ∈ bareContext.images, im.code.any (fun r => decide (r.1 ≤ 0x2000) && decide (0x2000 < r.1 + r.2)) = false) ∧
    ((0xF000000F : Word).extractLsb' 25 7 = 0x78 ∧ (0xF000000F : Word).extractLsb' 4 21 = 0 ∧ 64 * (((0xF000000F : Word).extractLsb' 0 4).toNat + 1) ≤ bareKernel.regs ∧
      960 < 64 * (((0xF000000F : Word).extractLsb' 0 4).toNat + 1)) ∧ (0xF0000010 : Word).extractLsb' 4 21 ≠ 0 ∧
    (tJoined.path.join ≠ some (tJoined.iss.pc + 4) ∧
      (tGroup { bareGroup with a := Slot.ofPath ⟨0x1000, BitVec.allOnes 32, some 0x1004, []⟩ }).path.join = some 0x1004) ∧
    (let full := fun (n : Nat) => { bareGroup with jr := some ⟨0x1100, 0, none, []⟩, stack := List.replicate n (Entry.frame ⟨0x1100, 0, none, []⟩) }
     (full 63).stack.length + 1 ≤ 64 ∧ 64 < (full 64).stack.length + 1) := by decide

theorem witness_NopDoesNothing : (tState tEnv).env = some tEnv ∧ (0x58000006 : Word).extractLsb' 25 7 = 0x2C ∧
    3 ≤ ((0x58000006 : Word).extractLsb' 1 7).toNat ∧ (0x58400000 : Word).extractLsb' 25 7 = 0x2C ∧ (0x58400000 : Word).extractLsb' 0 22 = 0 :=
  ⟨rfl, by decide, by decide, by decide, by decide⟩

/-- Lanes 0 to 30 have exited already. -/
def tLast : Env := tGroup { bareGroup with exited := 0x7FFFFFFF, a := Slot.ofPath ⟨0x1000, 0x80000000, none, []⟩ }

theorem witness_ExitEndsLanesAndGroups :
    ((tState tOne).env = some tOne ∧ tOne.g.origins = none ∧
      (∃ n, tOne.g.lanesOn.getLsbD n = true ∧ tOne.g.exited.getLsbD n = false ∧ tOne.g.helpers.getLsbD n = false ∧ (tOne.act 1).getLsbD n = false) ∧
      tOne.path.mask &&& ~~~ tOne.act 1 ≠ 0 ∧ tOne.path.join ≠ some (tOne.iss.pc + 4)) ∧
    (∀ n, n < 32 → ((8 : BitVec 32).getLsbD n = true ↔ (tOne.act 0).getLsbD n = true ∧ (tOne.g.lane n).pred 0 ≠ decide ((0 : BitVec 1) = 1))) ∧
    ((tState tLast).env = some tLast ∧ tLast.g.origins = none ∧ (tState tLast).bars = [] ∧ (tState tLast).wgOf tLast.g = some bareWorkgroup ∧
      bareWorkgroup.stashes = [] ∧ (∀ n, n < 32 → tLast.g.lanesOn.getLsbD n = true → tLast.g.exited.getLsbD n = false →
        tLast.g.helpers.getLsbD n = false → (tLast.act 0).getLsbD n = true) ∧
      (tState tLast).groups.all (fun x => x.gid == tLast.g.gid || x.isHandler || x.ctx != tLast.g.ctx || x.launch != tLast.g.launch ||
        x.clu != tLast.g.clu || x.wgc != tLast.g.wgc) = true) :=
  ⟨⟨rfl, rfl, ⟨31, by decide⟩, by decide, by decide⟩, by decide, rfl, rfl, rfl, rfl, rfl, by decide, by decide⟩

/-- The path of slot A has reached the join, or lost its last lane; slot B has a path, or holds none over the stack that is given. -/
def tArrived : Group := { tSplit with a := Slot.ofPath ⟨0x1100, 0x0000FFFF, some 0x1100, [(0, false)]⟩ }
def tMerging (st : List Entry) : Group := { tArrived with b := Slot.free, jr := some ⟨0x1100, 0xFFFF0000, some 0x1200, []⟩, stack := st }
def tParkedPath : Slot := Slot.ofPath ⟨0x1080, 0x0000FF00, some 0x1200, []⟩

theorem witness_PathsMergeAtTheJoin :
    ((tArrived.slot false).path = some ⟨0x1100, 0x0000FFFF, some 0x1100, [(0, false)]⟩ ∧ tArrived.jr = some ⟨0x1100, 0, none, []⟩ ∧
      (none : Option DWord) ≠ some 0x1100 ∧ (0 : BitVec 32) ||| 0x0000FFFF ≠ 0 ∧ (tArrived.slot true).path = some ⟨0x1040, 0xFFFF0000, some 0x1100, [(0, true)]⟩) ∧
    (∀ st ∈ [[], [.frame ⟨0x1200, 0, none, []⟩], [.path tParkedPath], [.path tParkedPath, .frame ⟨0x1200, 0, none, []⟩]],
      ((tMerging st).slot false).path = some ⟨0x1100, 0x0000FFFF, some 0x1100, [(0, false)]⟩ ∧ (tMerging st).jr = some ⟨0x1100, 0xFFFF0000, some 0x1200, []⟩ ∧
        (some 0x1200 : Option DWord) ≠ some 0x1100 ∧ ((tMerging st).slot true).path = none ∧ (tMerging st).stack = st) ∧
    (let p : Path := ⟨0x1080, 0, some 0x1200, []⟩
     p.mask = 0 ∧ (0xFFFF0000 : BitVec 32) ||| p.mask ≠ 0) :=
  ⟨⟨rfl, rfl, by decide, by decide, rfl⟩, by decide, by decide⟩

/-! ### Witnesses: memory -/

/-- The guard holds in lanes 0 and 31; their pairs v2:v3 hold two addresses, and the other lanes' hold 0. -/
def tTwo (x y : Word) : Group := tReg (tReg (tPred (tPred bareGroup 0 0) 31 0) 0 2 x) 31 2 y
def tAt (x y : Nat) (n : Nat) : Nat := if n = 31 then y else x

/-- What `Env.finds` asks, checked lane by lane. -/
def tFinds (e : Env) (s : State) (m : BitVec 32) (off width : Nat) (n : Need) (pa : Nat → Nat) : Bool :=
  (List.range 32).all (fun i => !m.getLsbD i || (match s.checkAccess e i (e.ea off (e.g.lane i)) width n with
    | some l => l.res && pa i == l.pa (e.ea off (e.g.lane i)).toNat && !isRemote (pa i)
    | none => false))

theorem finds_of (e : Env) (s : State) (m : BitVec 32) (off width : Nat) (n : Need) (pa : Nat → Nat)
    (h : tFinds e s m off width n pa = true) : e.finds s m off width n pa := by
  intro i hi
  have hlt : i < 32 := by
    rcases Nat.lt_or_ge i 32 with h | h
    · exact h
    · rw [BitVec.getLsbD_of_ge _ _ h] at hi; exact absurd hi (by decide)
  have := List.all_eq_true.mp h i (List.mem_range.mpr hlt)
  rw [hi] at this
  split at this
  · rename_i l hl
    simp only [Bool.not_true, Bool.false_or, Bool.and_eq_true, beq_iff_eq, Bool.not_eq_true'] at this
    exact ⟨l, hl, this.1.1, this.1.2, this.2⟩
  · simp at this

/-- The machine with the page tables of the first two pages, of which the second is not resident. -/
def tPaged (e : Env) : State := { tState e with mem := Mem.write tTables 0x14408 (leBytes 8 (deepBase + 0x3B)) }

/-- What `Env.absent` asks, checked lane by lane. -/
theorem absent_of (e : Env) (s : State) (m : BitVec 32) (off width : Nat) (n : Need)
    (h : (List.range 32).all (fun i => !m.getLsbD i || ((s.checkAccess e i (e.ea off (e.g.lane i)) width n).map Leaf.res == some false)) = true) :
    e.absent s m off width n := by
  intro i hi
  have hlt : i < 32 := by
    rcases Nat.lt_or_ge i 32 with h | h
    · exact h
    · rw [BitVec.getLsbD_of_ge _ _ h] at hi; exact absurd hi (by decide)
  have := List.all_eq_true.mp h i (List.mem_range.mpr hlt)
  rw [hi] at this
  simpa using this

/-- Two lanes of the bare group access two places of 16 bytes; or of the page that is not resident. -/
def tGone : Env := tGroup (tTwo 0x12000 0x12010)
def tAcc : Env := tGroup (tTwo 0x2000 0x2010)

theorem witness_GlobalLoads :
    (tState tAcc).env = some tAcc ∧ tAcc.l.det = false ∧ (tState tAcc).mem.wf = true ∧ tAcc.noCaches (tState tAcc) ∧
    (∀ w ∈ (tState tAcc).workgroups, w.stashes = []) ∧ tAcc.act 1 ≠ 0 ∧
    (∀ width ∈ [1, 2, 4, 8, 16], tAcc.finds (tState tAcc) (tAcc.act 1) (tAcc.v (2 : BitVec 7)) width .read (tAt 0x2000 0x2010)) ∧
    ((tState (tDet bareGroup)).env = some (tDet bareGroup) ∧ (tDet bareGroup).l.det = true ∧ (2 : BitVec 2) ≠ 0) ∧
    ((tPaged tGone).env = some tGone ∧ tGone.l.det = false ∧ tGone.act 1 ≠ 0 ∧ ∀ width ∈ [1, 2, 4, 8, 16],
      tGone.absent (tPaged tGone) (tGone.act 1) (tGone.v (2 : BitVec 7)) width .read) :=
  ⟨rfl, rfl, rfl, ⟨by decide, by decide, rfl⟩, by decide, by decide, fun width h => finds_of _ _ _ _ _ _ _ (by revert width; decide),
    ⟨rfl, rfl, by decide⟩, rfl, rfl, by decide, fun width h => absent_of _ _ _ _ _ _ (by revert width; decide)⟩

/-- The bare workgroup with a Local Store of 4 KB. -/
def tLs (e : Env) : State := { tState e with workgroups := [{ bareWorkgroup with lsSize := 0x1000 }] }
def tLocal : Env := tGroup (tTwo 0x100 0xFF0)
/-- Lane 0 reads the last bytes of the constant segment, lane 31 the argument block. -/
def tConst : Env :=
  tMk Hints.empty (tTwo 0x1F0 0x10010) { bareLaunch with argPtr := 0x8000 } { bareKernel with clen := 0x200, constBase := 0x4000 }

theorem holds_bare (e : Env) (h : e.g.core = 0) (hl : ∀ l ∈ e.g.lanes, l.lastPage = none) : e.holdsPage (tState e) bareLeaf := by
  refine ⟨?_, rfl, fun i => Or.inl ?_⟩
  · rw [h]; rfl
  · show (e.g.lanes.getD i _).lastPage = none
    rw [List.getD_eq_getElem?_getD]
    cases hx : e.g.lanes[i]? with
    | none => rfl
    | some l => exact hl l (List.mem_of_getElem? hx)

theorem witness_LocalAndCachedLoads :
    ((tLs tLocal).env = some tLocal ∧ tLocal.l.det = false ∧ tLocal.g.isHandler = false ∧
      ∀ n ∈ [0, 31], (tLocal.act 1).getLsbD n = true ∧
        tLocal.lsTarget (tLs tLocal) (((tLocal.ea 8 (tLocal.g.lane n)) >>> 32).truncate 32) ((tLocal.ea 8 (tLocal.g.lane n)).truncate 32) 16 =
          some ({ bareWorkgroup with lsSize := 0x1000 }, tAt 0x100 0xFF0 n) ∧
        (tLs tLocal).wg? 1 = some { bareWorkgroup with lsSize := 0x1000 } ∧ bareWorkgroup.stashAt (tAt 0x100 0xFF0 n) = none ∧
        bareWorkgroup.lsPoison = []) ∧
    ((tState tConst).env = some tConst ∧ (tState tConst).mem.wf = true ∧ (tState tConst).poison = [] ∧ tConst.holdsPage (tState tConst) bareLeaf ∧
      ((tState tConst).core 0).constants = [] ∧ ∀ n ∈ [0, 31], (tConst.act 1).getLsbD n = true ∧
        (tConst.ea 8 (tConst.g.lane n)).toNat < 0x11000 ∧ (tConst.ea 8 (tConst.g.lane n)).toNat % 16 = 0) ∧
    (∀ j, j < 16 → bareLeaf.serves 0 (0x4000 + 0x1F0 + j) ∧ bareLeaf.serves 0 (0x8000 + 0x10 + j) ∧ bareLeaf.serves 0 (0x2010 + j)) ∧
    ((tState tAcc).env = some tAcc ∧ tAcc.holdsPage (tState tAcc) bareLeaf ∧ ((tState tAcc).core 0).tiles = [] ∧ ((tState tAcc).core 0).tileBuf = []) ∧
    (∀ n ∈ [0, 31], (tGone.act 1).getLsbD n = true ∧ (tGone.ea 8 (tGone.g.lane n)).toNat < 2 ^ 56 ∧ (tGone.ea 8 (tGone.g.lane n)).toNat % 16 = 0 ∧
      ∀ j, j < 16 → ((tPaged tGone).checkAccess tGone n (BitVec.ofNat 64 ((tGone.ea 8 (tGone.g.lane n)).toNat + j)) 1 .read).map Leaf.res = some false) :=
  ⟨⟨rfl, rfl, rfl, by decide⟩, ⟨rfl, rfl, rfl, holds_bare _ rfl (by decide), by decide, by decide⟩, by unfold Leaf.serves; decide,
    ⟨rfl, holds_bare _ rfl (by decide), by decide, by decide⟩, by decide⟩

theorem witness_GlobalStores :
    (tState tAcc).env = some tAcc ∧ tAcc.l.det = false ∧ tAcc.act 1 ≠ 0 ∧
    (∀ width ∈ [1, 2, 4, 8, 16], tAcc.finds (tState tAcc) (tAcc.storing 1) (tAcc.v (2 : BitVec 7)) width .write (tAt 0x2000 0x2010)) ∧
    (∀ width ∈ [1, 2, 4, 8, 16], 0x2000 % width = 0 ∧ 0x2010 % width = 0) ∧ tAcc.storing 1 = 0x80000001 ∧
    tAt 0x2000 0x2010 0 ≠ tAt 0x2000 0x2010 31 ∧ ((tState tAcc).core 0).l1.length + 32 ≤ 2048 ∧
    (tMk { Hints.empty with hsem := some (false, 2) } bareGroup bareLaunch bareKernel).policy = 2 ∧
    (∀ width ∈ [1, 2, 4, 8, 16], tGone.absent (tPaged tGone) (tGone.storing 1) (tGone.v (2 : BitVec 7)) width .write) :=
  ⟨rfl, rfl, by decide, fun width h => finds_of _ _ _ _ _ _ _ (by revert width; decide), by decide, by decide, by decide, by decide, by decide,
    fun width h => absent_of _ _ _ _ _ _ (by revert width; decide)⟩

theorem witness_LocalStores :
    ((tLs tLocal).env = some tLocal ∧ tLocal.l.det = false ∧ tLocal.g.isHandler = false ∧ tLocal.storing 1 = 0x80000001 ∧
      (∀ size ∈ [2, 4, 8, 16], ∀ n ∈ [0, 31],
        tLocal.lsTarget (tLs tLocal) (((tLocal.ea 8 (tLocal.g.lane n)) >>> 32).truncate 32) ((tLocal.ea 8 (tLocal.g.lane n)).truncate 32) size =
          some ({ bareWorkgroup with lsSize := 0x1000 }, tAt 0x100 0xFF0 n)) ∧ tAt 0x100 0xFF0 0 ≠ tAt 0x100 0xFF0 31) ∧
    ((tState (tDet bareGroup)).env = some (tDet bareGroup) ∧ (tDet bareGroup).l.det = true) ∧ ((tState tAcc).core 0).tileBuf.length + 32 ≤ 128 ∧
    (∀ width ∈ [2, 4, 8, 16], tAcc.finds (tState tAcc) (tAcc.storing 1) (tAcc.v (2 : BitVec 7)) width .write (tAt 0x2000 0x2010) ∧
      tGone.absent (tPaged tGone) (tGone.storing 1) (tGone.v (2 : BitVec 7)) width .write) :=
  ⟨⟨rfl, rfl, rfl, by decide, by decide, by decide⟩, ⟨rfl, rfl⟩, by decide,
    fun width h => ⟨finds_of _ _ _ _ _ _ _ (by revert width; decide), absent_of _ _ _ _ _ _ (by revert width; decide)⟩⟩

theorem witness_AtomicWords :
    ((tState tAcc).env = some tAcc ∧ tAcc.l.det = false ∧ tAcc.noCaches (tState tAcc) ∧ tAcc.act 1 ≠ 0 ∧
      tAcc.finds (tState tAcc) (tAcc.storing 1) (tAcc.k.vwv + 8 * (1 : BitVec 6).toNat) 4 .write (tAt 0x2000 0x2010) ∧
      0x2000 % 4 = 0 ∧ 0x2010 % 4 = 0 ∧ tAt 0x2000 0x2010 0 ≠ tAt 0x2000 0x2010 31) ∧
    ((tState (tDet bareGroup)).env = some (tDet bareGroup) ∧ (tDet bareGroup).l.det = true) ∧
    tGone.absent (tPaged tGone) (tGone.storing 1) (tGone.k.vwv + 8 * (1 : BitVec 6).toNat) 4 .write ∧
    ((0 : BitVec 2).toNat ≤ 1 ∧ tAcc.policy ≠ 2) :=
  ⟨⟨rfl, rfl, ⟨by decide, by decide, rfl⟩, by decide, finds_of _ _ _ _ _ _ _ (by decide), by decide⟩, ⟨rfl, rfl⟩, absent_of _ _ _ _ _ _ (by decide), by decide⟩

/-- The clauses of FP32 addition: a NaN operand; infinities of one and of two signs, and beside a number; sums that are zero, round and overflow. -/
theorem witness_AddsFp32 :
    (fp32.value 0x7F800001).isNan = true ∧ fp32.value 0x7F800000 = .inf false ∧ fp32.value 0xFF800000 = .inf true ∧ (fp32.value 0x3F800000).isFinite = true ∧
    (∃ n d, fp32.value 0x80000000 = .num true n d ∧ n = 0) ∧
    (∃ n d n' d', fp32.value 0x3F800000 = .num false n d ∧ fp32.value 0xBF800000 = .num true n' d' ∧ (n : Int) * d' + -(n' : Int) * d = 0) ∧
    (∃ n d n' d', fp32.value 0x3F800001 = .num false n d ∧ fp32.value 0x33800000 = .num false n' d' ∧ (n : Int) * d' + (n' : Int) * d ≠ 0) ∧
    fadd32Rne 0x7F7FFFFF 0x7F7FFFFF = 0x7F800000 ∧ fadd32Rne 0x80000000 0x80000000 = 0x80000000 ∧ fadd32Rne 0x3F800001 0x33800000 = 0x3F800002 :=
  ⟨by decide, rfl, rfl, by decide, ⟨_, _, rfl, by decide⟩, ⟨_, _, _, _, rfl, rfl, by decide⟩, ⟨_, _, _, _, rfl, rfl, by decide⟩, by decide⟩

/-- Lane 0 is aligned, lane 31 is not. -/
def tSkew : Env := tGroup (tTwo 0x2000 0x2008)
/-- Lane 3 alone is active, with an address that is not aligned to 8 bytes. -/
def tFirst : Env := tGroup (tReg (tPred bareGroup 3 0) 3 2 0x2004)

theorem witness_FaultsRaiseTheHaltLine :
    ((tState tEnv).env = some tEnv ∧ tEnv.g.origins = none ∧ (tState tEnv).ctx? tEnv.g.ctx = some tEnv.c ∧ tEnv.c.run = .running ∧
      Faults (.ret 0) (tState tEnv) tEnv .illegal) ∧
    (2 ^ 56 ≤ (0x0100000000000000 : DWord).toNat ∧ (0x2001 : DWord).toNat % 2 ≠ 0) ∧
    (tState tAcc).checkAccess tAcc 0 0x2000 4 .write = some bareLeaf ∧
    ((tState tSkew).env = some tSkew ∧ tSkew.g.isHelper 31 = false ∧ (tSkew.act 1).getLsbD 31 = true ∧
      (tState tSkew).checkAccess tSkew 31 (tSkew.ea (tSkew.v (2 : BitVec 7)) (tSkew.g.lane 31)) 16 .read = none ∧
      ∀ k, k < 31 → (tSkew.act 1).getLsbD k = true →
        (tState tSkew).checkAccess tSkew k (tSkew.ea (tSkew.v (2 : BitVec 7)) (tSkew.g.lane k)) 16 .read ≠ none) ∧
    ((tState tFirst).env = some tFirst ∧ tFirst.g.isHelper 3 = false ∧ (tFirst.act 1).getLsbD 3 = true ∧ (∀ k, k < 3 → (tFirst.act 1).getLsbD k = false) ∧
      (tFirst.ea 8 (tFirst.g.lane 3)).toNat % widthBytes 2 ≠ 0) :=
  ⟨⟨rfl, rfl, rfl, rfl, rfl⟩, by decide, by decide, ⟨rfl, by decide, by decide, by decide, by decide⟩, rfl, by decide, by decide, by decide, by decide⟩

/-- The machine with a request outstanding whose window has words left. -/
def tWaiting (j : Job) : State := { tWith j with groups := [{ bareGroup with windows := [⟨9, false, 3, [], [], false, false⟩] }] }

theorem witness_LoadsAndAtomsDeliver :
    (∀ j ∈ [Job.load [⟨0, 4, [1, 2, 3, 4]⟩] [] [] none, .atom [⟨0, 4, [1, 2, 3, 4]⟩] 4 [] none],
      (tWaiting j).live? 9 = some (tReq j) ∧ ((tWaiting j).group? 2).isSome = true) := by decide
/-! ### Witnesses: fences, copies, residency -/

/-- Every lane holds the same word in a register. -/
def tAll (g : Group) (reg : Nat) (v : Word) : Group := (List.range 32).foldl (fun g i => tReg g i reg v) g
/-- Every lane holds the address 0x2000 in v2:v3 and the value 7 in v4; v6:v7 holds 0x2004. -/
def tUni : Env := tGroup (tAll (tAll (tAll bareGroup 2 0x2000) 4 7) 6 0x2004)
/-- A machine with the page tables of the first page and a request outstanding. -/
def tEng (j : Job) : State := { tWith j with mem := tTables }
/-- Another group of the workgroup. -/
def tPair : State := { tState tEnv with groups := [bareGroup, { bareGroup with gid := 3, grp := 1, slotNo := 1 }] }
/-- The bare group waits for 7 at the counter at 0x2000, which holds n. -/
def tCounter (n : Nat) : State :=
  { tEng (.fetch []) with
    mem := Mem.write tTables 0x2000 (leBytes 8 n), groups := [bareGroup.updSlot false (fun x => { x with wait := some (.counter 0x2000 7 false 0 0) })] }

/-- The second page of the context lies on node 5, and the bare group waits for 7 at a counter there. -/
def tFar : State :=
  { tWith (.fetch []) with
    mem := Mem.write tTables 0x14408 (leBytes 8 (systemBase + 5 * 2 ^ 40 + 0x3F))
    groups := [bareGroup.updSlot false (fun x => { x with wait := some (.counter 0x10008 7 false 0 0) })] }

theorem witness_FencesBarriersAndCounters_words :
    ((tState tEnv).env = some tEnv ∧ tEnv.l.det = false ∧ (∀ w ∈ (tState tEnv).workgroups, w.stashes = []) ∧
      (tState tEnv).remoteBusy tEnv.g.gid (tState tEnv).fresh = false ∧ tEnv.g.isHandler = false ∧
      ∀ i, i < 32 → tEnv.g.live.getLsbD i = true → tEnv.path.mask.getLsbD i = true) ∧
    ((tState (tDet bareGroup)).env = some (tDet bareGroup) ∧ (tDet bareGroup).l.det = true) ∧
    ((tState (tGroup tSplit)).env = some (tGroup tSplit) ∧ (tGroup tSplit).g.isHandler = false ∧
      ∃ i, (tGroup tSplit).g.live.getLsbD i = true ∧ (tGroup tSplit).path.mask.getLsbD i = false) ∧
    ((tState tUni).env = some tUni ∧ tUni.act 0 ≠ 0 ∧ (∀ i, i < 32 → (tUni.g.lane i).dword 8 = 0x2000 ∧ (tUni.g.lane i).word 16 = 7 ∧
        (tUni.g.lane i).dword 24 = 0x2004) ∧
      (tUni.counterLeaf (tState tUni) 0x2000 .write (tUni.counterScope == .sys)).isSome = true ∧
      (tUni.counterLeaf (tState tUni) 0x2004 .write (tUni.counterScope == .sys)).isSome = false ∧
      (tUni.counterLeaf (tState tUni) 0x2000 .read (tUni.counterScope == .sys)).isSome = true) :=
  ⟨⟨rfl, rfl, by decide, by decide, by decide, by decide⟩, ⟨rfl, rfl⟩, ⟨rfl, by decide, 16, by decide⟩,
    rfl, by decide, by decide, by decide, by decide, by decide⟩

theorem witness_FencesBarriersAndCounters_ends :
    ((tEng (.release .dev (.fence false))).live? 9 = some (tReq (.release .dev (.fence false))) ∧
      ∃ e u v, (tEng (.release .dev (.fence false))).reqEnv (tReq (.release .dev (.fence false))) = some e ∧
        (tEng (.release .dev (.fence false))).remoteBusy 2 9 = false ∧
        (tEng (.release .dev (.fence false))).release e.g e.actWord .dev = .ok u ∧
        u.afterRelease e (tReq (.release .dev (.fence false))) .dev (.fence false) .none = .ok v) ∧
    (∃ e u v w, (tEng (.release .dev (.arrive 0x2000))).reqEnv (tReq (.release .dev (.arrive 0x2000))) = some e ∧
        (tEng (.release .dev (.arrive 0x2000))).release e.g e.actWord .dev = .ok u ∧
        u.afterRelease e (tReq (.release .dev (.arrive 0x2000))) .dev (.arrive 0x2000) .none = .ok v ∧ u.signalVa e.g.ctx (e.g.ctx, e.g.launch + 1) 0x2000 = .ok w) ∧
    isRemote 0x2000 = false ∧
    (tPair.env = some tEnv ∧ tPair.bars = [] ∧ tEnv.g.isHandler = false ∧ ∃ p ∈ tPair.groups, p.gid ≠ tEnv.g.gid ∧ p.ctx = tEnv.g.ctx ∧
      p.launch = tEnv.g.launch ∧ p.clu = tEnv.g.clu ∧ p.wgc = tEnv.g.wgc ∧ p.isHandler = false) ∧
    (∃ e, (tEng (.pfence 0x0A .dev)).live? 9 = some (tReq (.pfence 0x0A .dev)) ∧ (tEng (.pfence 0x0A .dev)).reqEnv (tReq (.pfence 0x0A .dev)) = some e ∧
      (0x0A : BitVec 8).getLsbD 0 = false ∧ (0x0A : BitVec 8).getLsbD 2 = false) ∧
    (3 ∈ Request.maskBits { tReq (.copy ⟨2, none, 16, 1, 0, 0, 0x100⟩ none 1 0) with id := 8 } ∧ (0x0A : BitVec 8).getLsbD 3 = true) ∧
    (∀ n ∈ [6, 7], ∃ g e, (tCounter n).group? 2 = some g ∧ (g.slot false).wait = some (.counter 0x2000 7 false 0 0) ∧
      (tCounter n).slotEnv g false = some e ∧ (tCounter n).counterValue g.ctx 0x2000 .none = some n ∧ g.origins = none ∧ g.resident = true ∧
      isRemote ((tCounter n).counterPa g.ctx 0x2000) = false ∧ ∀ w ∈ (tCounter n).workgroups, w.stashes = []) ∧
    (∃ e, tFar.slotEnv (tFar.groups.getD 0 bareGroup) false = some e ∧ tFar.counterValue 0 0x10008 (.data (leBytes 8 6)) = some 6 ∧ 6 < 7 ∧
      isRemote (tFar.counterPa 0 0x10008) = true) ∧
    (State.reset.sentTo { State.reset with outbox := [Message.request 5 16 .signal false] } = some (systemBase + 5 * 2 ^ 40 + 16) ∧
      State.reset.sentTo State.reset = none ∧ 3 < 1 + 10000000 ∧ 1 + 10000000 ≤ 10000001) :=
  ⟨⟨rfl, _, _, _, rfl, by decide, rfl, rfl⟩, ⟨_, _, _, _, rfl, rfl, rfl, rfl⟩, by decide,
    ⟨rfl, rfl, rfl, { bareGroup with gid := 3, grp := 1, slotNo := 1 }, by decide, by decide, rfl, rfl, rfl, rfl, rfl⟩,
    ⟨_, rfl, rfl, by decide, by decide⟩, by decide,
    fun n h => by
      simp only [List.mem_cons, List.not_mem_nil, or_false] at h
      rcases h with rfl | rfl <;> exact ⟨_, _, rfl, rfl, rfl, by decide, rfl, rfl, by decide, by decide⟩,
    ⟨_, rfl, by decide, by decide, by decide⟩, by decide⟩

/-- Lanes 0 and 31 copy 16 bytes from 0x2000 to 0x2100 and to 0x2200, with a block in v4 to v7 and the destination in v8:v9; a count of 1 stands in v1. -/
def tCopyGroup : Group :=
  let f := fun (g : Group) (i : Nat) (dst : Word) => tReg (tReg (tReg (tPred g i 0) i 4 0x2000) i 6 0x00001002) i 8 dst
  { tAll (f (f bareGroup 0 0x2100) 31 0x2200) 1 1 with batch := 1 }
def tCopies : Env := tGroup tCopyGroup
def tGlobalCopy (dst : DWord) : Copy := ⟨2, none, 16, 1, 0, 0x2000, dst⟩

theorem witness_CopiesAndStashWindows_words :
    ((tState tCopies).env = some tCopies ∧ tCopies.l.det = false ∧ tCopies.g.isHandler = false ∧ tCopies.storing 1 = 0x80000001 ∧
      tCopies.checkCopy (tState tCopies) 0 16 32 = .ok (tGlobalCopy 0x2100) ∧ tCopies.checkCopy (tState tCopies) 31 16 32 = .ok (tGlobalCopy 0x2200)) ∧
    (tCopies.g.batch + 1 < 2 ^ 32) ∧
    (tCopies.act 0 ≠ 0 ∧ (∀ i, i < 32 → (tCopies.g.lane i).word 4 = 1) ∧ (1 : Word).toNat ≤ tCopies.g.batch ∧ tEnv.g.batch < (1 : Word).toNat ∧
      (tState tCopies).batchBusy 2 1 = false ∧ ({ tState tCopies with requests := [tReq (.copy (tGlobalCopy 0x2100) (some 1) 1 0)] } : State).batchBusy 2 1 = true) :=
  ⟨⟨rfl, rfl, rfl, by decide, rfl, rfl⟩, by decide, by decide, by decide, by decide, by decide, by decide, by decide⟩

/-- Every lane's v4 to v7 map window 5 of 128 bytes at LS offset 0xF80 over 0x2000; v1 holds the number of the window. -/
def tWindowGroup : Group := tAll (tAll (tAll (tAll bareGroup 4 0x2000) 6 0xF80) 7 0x05000080) 1 5
def tWindow : Env := tGroup tWindowGroup
def tMapped : Workgroup := { bareWorkgroup with lsSize := 0x1000, stashes := [⟨5, 0x2000, 0xF80, 0x80, []⟩] }

set_option maxRecDepth 8000 in
theorem witness_CopiesAndStashWindows_windows :
    (let v := 2 ^ 96 * 0x05000080 + 2 ^ 64 * 0xF80 + 0x2000
     (tLs tWindow).env = some tWindow ∧ tWindow.g.isHandler = false ∧ (tLs tWindow).wgOf tWindow.g = some { bareWorkgroup with lsSize := 0x1000 } ∧
      (tLs tWindow).wg? 1 = some { bareWorkgroup with lsSize := 0x1000 } ∧ tWindow.act 0 ≠ 0 ∧ (∀ i, i < 32 → (tWindow.g.lane i).nat 16 16 = v) ∧
      bits v 0 64 % 128 = 0 ∧ bits v 0 64 < 2 ^ 56 ∧ bits v 84 12 = 0 ∧ bits v 64 32 % 128 = 0 ∧ bits v 96 19 % 128 = 0 ∧ bits v 96 19 ≠ 0 ∧
      bits v 96 19 ≤ 262144 ∧ bits v 115 5 = 0 ∧ bits v 123 5 = 0 ∧ bits v 64 32 + bits v 96 19 ≤ 0x1000) ∧
    ((∀ i, i < 32 → (tWindow.g.lane i).word 4 = 5) ∧ (∀ x ∈ bareWorkgroup.stashes, x.win ≠ 5) ∧ 8 ≤ (8 : Word).toNat ∧ (5 : Word).toNat < 8 ∧
      (∃ x ∈ tMapped.stashes, x.win = 5) ∧
      ∃ u, (if tWindow.writes 0 then tWindow.flush (tWindow.act 0) tMapped 5 { tState tWindow with workgroups := [tMapped] }
        else .ok { tState tWindow with workgroups := [tMapped] }) = .ok u) :=
  ⟨⟨rfl, rfl, rfl, rfl, by decide⟩, by decide, by decide, by decide, by decide, by decide, _, rfl⟩

theorem ok_of {α β : Type} (x : Except α β) (h : (match x with | .ok _ => true | .error _ => false) = true) : ∃ u, x = .ok u := by
  cases x with
  | ok u => exact ⟨u, rfl⟩
  | error a => cases h

theorem error_of {α β : Type} (x : Except α β) (h : (match x with | .ok _ => false | .error _ => true) = true) : ∃ a, x = .error a := by
  cases x with
  | ok u => cases h
  | error a => exact ⟨a, rfl⟩

/-- The places of a copy's bytes, where both ranges are found. -/
def tRanges (s : State) (c : Copy) : Option (List (Nat × Bool) × List (Nat × Bool)) :=
  match s.copyRange 0 0 c c.src.toNat .read 0 c.total with
  | .error _ => none
  | .ok (u, src) => match u.copyRange 0 0 c c.dst.toNat .write 0 c.total with
    | .error _ => none
    | .ok (_, dst) => some (src, dst)

theorem ranges_of (s : State) (c : Copy) (h : (match tRanges s c with | some r => decide (r.2.map (fun p => p.1)).Nodup && r.1.length == r.2.length | none => false) = true) :
    ∃ u v src dst, s.copyRange 0 0 c c.src.toNat .read 0 c.total = .ok (u, src) ∧ u.copyRange 0 0 c c.dst.toNat .write 0 c.total = .ok (v, dst) ∧
      (dst.map (fun p => p.1)).Nodup ∧ src.length = dst.length := by
  unfold tRanges at h
  split at h
  · rename_i r hr
    split at hr
    · cases hr
    · rename_i u src hs
      split at hr
      · cases hr
      · rename_i v dst hd
        cases hr
        simp only [Bool.and_eq_true, decide_eq_true_eq, beq_iff_eq] at h
        exact ⟨u, v, src, dst, hs, hd, h.1, h.2⟩
  · cases h

theorem witness_CopiesAndStashWindows_copies :
    ((tEng (.copy (tGlobalCopy 0x2100) none 1 0)).live? 9 = some (tReq (.copy (tGlobalCopy 0x2100) none 1 0)) ∧
      ∃ u, (tEng (.copy (tGlobalCopy 0x2100) none 1 0)).runPart 0 2 1 (tGlobalCopy 0x2100) true 0 (tGlobalCopy 0x2100).total = .ok u) ∧
    (∃ a, (tEng (.copy (tGlobalCopy 0x20000) none 1 0)).runPart 0 2 1 (tGlobalCopy 0x20000) true 0 (tGlobalCopy 0x20000).total = .error a) ∧
    (∃ u v src dst, (tEng (.fetch [])).copyRange 0 0 (tGlobalCopy 0x2100) (tGlobalCopy 0x2100).src.toNat .read 0 (tGlobalCopy 0x2100).total = .ok (u, src) ∧
      u.copyRange 0 0 (tGlobalCopy 0x2100) (tGlobalCopy 0x2100).dst.toNat .write 0 (tGlobalCopy 0x2100).total = .ok (v, dst) ∧ (dst.map (fun p => p.1)).Nodup ∧ src.length = dst.length) :=
  ⟨⟨rfl, ok_of _ (by decide)⟩, error_of _ (by decide), ranges_of _ _ (by decide)⟩

theorem witness_ResidencyLocksAndBudgets :
    ((tState tUni).env = some tUni ∧ (∀ i, i < 32 → (tState tUni).checkAccess tUni i ((tUni.g.lane i).dword 8) 1 .read = some bareLeaf) ∧
      tUni.act 0 ≠ 0 ∧ (∀ i, i < 32 → (tUni.g.lane i).dword 8 = 0x2000 ∧ (tUni.g.lane i).nat 8 8 = 0x2000) ∧
      (tUni.counterLeaf (tState tUni) 0x2000 .write true).isSome = true ∧ tUni.privileged = true ∧ tUni.l.det = false ∧ tUni.g.origins = none) ∧
    (homePoison [4] 1 ≠ 0 ∧ homePoison [] 1 = 0 ∧ (0, 1) ∈ ({ State.reset with locked := [(0, 1)] } : State).locked ∧
      ((0, 1) ∉ ({ State.reset.bare with locked := [] } : State).locked)) ∧
    (let s := tEng (.preq [0] 0x2000)
     s.live? 9 = some (tReq (.preq [0] 0x2000)) ∧ s.walkHome 0 0 = some bareLeaf ∧ bareLeaf.res = true ∧
      ∃ u, (s.setJob 9 (.preq [] 0x2000)).signalVa 0 (0, 1) 0x2000 = .ok u) ∧
    (tEng (.lock 4 [(31, some 64)] 0)).live? 9 = some (tReq (.lock 4 [(31, some 64)] 0)) ∧
    (tEng (.tlbinv (some 0x2000))).live? 9 = some (tReq (.tlbinv (some 0x2000))) ∧ (bareLeaf.ctx = 0 ∧ bareLeaf.covers 0 0xFFFF = true) :=
  ⟨⟨rfl, by decide, by decide, by decide, by decide, by decide, rfl, rfl⟩, by decide, ⟨rfl, by decide, rfl, ok_of _ (by decide)⟩, rfl, rfl, by decide⟩
/-! ### Witnesses: matrix words -/

theorem okPair_of {ε α β : Type} (x : Except ε (α × β)) (p : β → Bool) (h : (match x with | .ok (_, k) => p k | .error _ => false) = true) :
    ∃ u k, x = .ok (u, k) ∧ p k = true := by
  cases x with
  | ok v => exact ⟨v.1, v.2, rfl, h⟩
  | error a => cases h

theorem somePair_of {α β : Type} (x : Option (α × β)) (p : β → Bool) (h : (match x with | some (_, k) => p k | none => false) = true) :
    ∃ u k, x = some (u, k) ∧ p k = true := by
  cases x with
  | some v => exact ⟨v.1, v.2, rfl, h⟩
  | none => cases h

/-- Every lane holds a control pair of 32 by 32 by 16 elements of INT8 in v2:v3, and the address 0x3000 in v4:v5. -/
def tMmaCtl : Nat := 0x1008020888
def tMatrix : Env := tGroup (tAll (tAll (tAll bareGroup 2 0x08020888) 3 0x10) 4 0x3000)
/-- A tile of 32 rows of 32 elements of 4 bytes at 0x4000, described at 0x3000. -/
def tTile (e : Env) : State := { tState e with mem := Mem.write tTables 0x3000 (leBytes 8 0x4000 ++ leBytes 4 128 ++ leBytes 2 32 ++ leBytes 2 32) }

theorem witness_MatrixWords_registers :
    ((tState tMatrix).env = some tMatrix ∧ tMatrix.iss.redo = false ∧ tMatrix.iss.delivered = none ∧ tMatrix.g.ftrap = 0 ∧ tMatrix.act 0 ≠ 0 ∧
      tMatrix.act 0 = tMatrix.g.live ∧ ∀ i, i < 32 → (tMatrix.g.lane i).nat 8 8 = tMmaCtl) ∧
    (tOne.iss.redo = false ∧ tOne.act 2 = 0 ∧ tOne.act 1 ≠ 0 ∧ tOne.act 1 ≠ tOne.g.live) ∧
    (mmaLegal tMmaCtl (mmaCtl tMmaCtl 0) 7 tMatrix.g.lanesOn = true ∧ mmaLegal (tMmaCtl + 2 ^ 58) (mmaCtl (tMmaCtl + 2 ^ 58) 0) 7 tMatrix.g.lanesOn = false ∧
      bits tMmaCtl 0 4 = 8 ∧ bits tMmaCtl 4 4 = 8 ∧ bits tMmaCtl 8 4 = 8) ∧
    (let f : BitVec 4 := 2
     f = 0 ∨ f = 1 ∨ f = 2) ∧
    (let f : BitVec 4 := 10
     f = 1 ∨ f = 2 ∨ f = 9 ∨ f = 10) ∧
    (let f : BitVec 4 := 5
     f = 3 ∨ f = 4 ∨ f = 5) :=
  ⟨⟨rfl, rfl, rfl, rfl, by decide, by decide, by decide⟩, by decide, by decide, by decide, by decide, by decide⟩

theorem witness_MatrixWords_memory :
    ((tTile tMatrix).env = some tMatrix ∧ tMatrix.l.det = false ∧ (∀ i, i < 32 → (tMatrix.g.lane i).dword 16 = 0x3000) ∧
      (∃ u k, tMatrix.readTile 0x3000 16 (tTile tMatrix) = .ok (u, k) ∧ k.legal 0 7 false tMatrix.g.lanesOn = true) ∧
      (∃ u k, tMatrix.readTile 0x3000 64 (tTile tMatrix) = .ok (u, k) ∧ k.legal 6 7 false tMatrix.g.lanesOn = true) ∧
      (∃ u k, tMatrix.readTile 0x3000 64 (tTile tMatrix) = .ok (u, k) ∧ k.legal 6 7 false tMatrix.g.lanesOn = true)) ∧
    ∃ u k, tMatrix.readTile 0x3000 64 { tTile tMatrix with mem := Mem.write tTables 0x3000 (leBytes 8 0x4000 ++ leBytes 4 32 ++ leBytes 2 32 ++ leBytes 2 32 ++
        List.replicate 24 0 ++ leBytes 4 32) } = .ok (u, k) ∧ k.legal 4 7 true tMatrix.g.lanesOn = true :=
  ⟨⟨rfl, rfl, by decide, okPair_of _ _ (by decide), okPair_of _ _ (by decide), okPair_of _ _ (by decide)⟩, okPair_of _ _ (by decide)⟩

/-- Two groups of one workgroup with a Local Store; every lane of the first holds the operand of an MMAJ of both in v2:v3. -/
def tMember : Env := tGroup (tAll (tAll bareGroup 2 0x40) 3 3)
def tSecond : Group := { bareGroup with gid := 3, grp := 1, slotNo := 1 }
def tPairLs : State := { tLs tMember with groups := [tMember.g, tSecond] }
/-- The joint instance of both, of which the first has issued or both have. -/
def tMemberOf (gid : Nat) : JointMember := ⟨gid, false, 0, BitVec.allOnes 32, 0x40, 0, 0x0FFC, 0, Hints.empty, 0⟩
/-- The descriptor of an INT8 product of 33 by 16 by 2 elements, A at 0x400 and B at 0x800 of the Local Store. -/
def tJointDesc : List (BitVec 8) :=
  leBytes 8 (0x400 + 2 ^ 20 + 2 ^ 35) ++ leBytes 8 (0x800 + 2 ^ 20 + 2 ^ 35) ++ [8, 8, 8, 0] ++ leBytes 2 33 ++ leBytes 2 16 ++ leBytes 2 2 ++ leBytes 6 0
def tJoint (full started : Bool) : Joint := ⟨1, 1, 3, if full then [tMemberOf 2, tMemberOf 3] else [tMemberOf 2], started, false, [], [], tJointDesc, []⟩
def tJoining (j : Joint) : State := { tPairLs with issue := none, requests := [tReq (.mmaj 1 1)], joints := [j] }

theorem witness_MatrixWords_joint :
    (tPairLs.env = some tMember ∧ tMember.g.isHandler = false ∧ tMember.act 0 ≠ 0 ∧ tMember.act 0 = tMember.g.live ∧ tPairLs.joints = [] ∧
      tPairLs.wgOf tMember.g = some { bareWorkgroup with lsSize := 0x1000 } ∧ (∀ i, i < 32 → (tMember.g.lane i).nat 8 8 = 0x300000040) ∧
      bits 0x300000040 40 24 = 0 ∧ bits 0x300000040 24 1 = 0 ∧
      tMember.lsTarget tPairLs 0 (BitVec.ofNat 32 (bits 0x300000040 0 32)) 32 = some ({ bareWorkgroup with lsSize := 0x1000 }, 0x40) ∧
      tMember.memberOk tPairLs 1 1 (BitVec.ofNat 8 (bits 0x300000040 32 8)) 0x40 0 = true) ∧
    (({ tState tEnv with requests := [tReq (.mmaj 1 1)] } : State).env = some tEnv ∧ ({ tState tEnv with requests := [tReq (.mmaj 1 1)] } : State).jointBusy 2 = true ∧
      (tState tEnv).jointBusy 2 = false ∧ (tState tEnv).joints = []) :=
  ⟨⟨rfl, rfl, by decide, by decide, rfl, rfl, by decide, by decide, by decide, by decide, by decide⟩, rfl, by decide, by decide, rfl⟩


theorem witness_MatrixRequestsComplete_registers :
    (∀ j ∈ [Job.mma [⟨31, 0, [1]⟩] [(31, 7, 3)] [(31, 4)], .acc [⟨31, 0, [1]⟩] [] [], .fpLong [⟨31, 0, [1]⟩] [(31, 4)]],
      (tWith j).live? 9 = some (tReq j) ∧ (tWith j).group? 2 = some bareGroup) ∧
    (tWith (.mma [] [] [])).mmaBefore (tReq (.mma [] [] [])) = false ∧
    (({ tWith (.mma [] [] []) with requests := [{ tReq (.mma [] [] []) with id := 8 }, tReq (.mma [] [] [])] } : State).mmaBefore (tReq (.mma [] [] [])) = true) := by
  decide

theorem witness_MatrixRequestsComplete_memory :
    (let j := Job.mld 0x3000 0x4000 128 32 32 0 7 (BitVec.allOnes 32) (BitVec.allOnes 32) []
     (tEng j).live? 9 = some (tReq j) ∧ ∃ e, (tEng j).reqEnv (tReq j) = some e ∧ e.g.ftrap = 0 ∧ (∀ x ∈ e.g.places, x.wait ≠ some (.request 9)) ∧
      (∀ i, i < 32 → i < 32 ∧ (BitVec.allOnes 32).getLsbD i = true)) ∧
    (∃ u read, (tEng (.fetch [])).mldRows 0 0 0x4000 16 16 0 2 [] = .ok (u, read) ∧
      ((read.zip (List.range 2)).map (fun x => mldRow 0 7 (tEnv.acc 7) x.2 4 x.1)).all (fun x => x.2.isEmpty) = true) ∧
    (let j := Job.mdrain 0x3000 4 [⟨0x4000, [(1, false), (2, false), (3, false), (4, false)]⟩] 0
     (tEng j).live? 9 = some (tReq j)) ∧ ∃ u pas, (tEng (.fetch [])).engineRange .matrixEngine 0 0 0x4000 4 .write = .ok (u, pas) ∧ (pas.length == 4) = true :=
  ⟨⟨rfl, _, rfl, rfl, by decide, by decide⟩,
    okPair_of _ (fun (read : List (List (BitVec 8 × Bool))) => ((read.zip (List.range 2)).map (fun x => mldRow 0 7 (tEnv.acc 7) x.2 4 x.1)).all (fun x => x.2.isEmpty)) (by decide), rfl, okPair_of _ (fun (p : List (Nat × Bool)) => p.length == 4) (by decide)⟩

theorem witness_MatrixRequestsComplete_joint :
    ((tJoining (tJoint true false)).live? 9 = some (tReq (.mmaj 1 1)) ∧ (tJoining (tJoint true false)).jointOf (tReq (.mmaj 1 1)) = some (tJoint true false) ∧
      (tJoint true false).full = true ∧ (tJoint true false).started = false ∧ (tJoint false false).full = false ∧
      (tJoining (tJoint false false)).jointOf (tReq (.mmaj 1 1)) = some (tJoint false false)) ∧
    (let s := tJoining (tJoint true true)
     ∃ e, s.reqEnv (tReq (.mmaj 1 1)) = some e ∧ s.wg? 1 = some { bareWorkgroup with lsSize := 0x1000 } ∧ (tJoint true true).members = [tMemberOf 2, tMemberOf 3] ∧
      (tJoint true true).started = true ∧ (tJoint true true).complete = false ∧ s.jointBefore (tJoint true true) = false ∧ bareWorkgroup.lsPoison = [] ∧
      ∀ g ∈ s.groups, g.a.wait ≠ some .mmaj ∧ g.b.wait ≠ some .mmaj) ∧
    (let d := jointDescOf tJointDesc
     d.ta = 8 ∧ d.tb = 8 ∧ d.tc = 8 ∧ (layoutOf d.layA).isSome = true ∧ (layoutOf d.layB).isSome = true ∧ (tJoint true true).ls = bareWorkgroup.ls ∧
      bareWorkgroup.late = [] ∧ ((tJoint true true).members.map (fun x => x.gid)).Nodup ∧ (tJoining (tJoint true true)).group? 3 = some tSecond ∧
      1 < d.blockCount ∧ 1 % (membersOf (tJoint true true).mask).length = rankIn (tJoint true true).mask tSecond.grp ∧ 32 * (1 / d.blocksAcross) + 0 < d.m ∧
      32 * (1 % d.blocksAcross) + 15 < d.n ∧ 0 < tSecond.lanes.length) :=
  ⟨⟨rfl, rfl, by decide, rfl, by decide, rfl⟩, ⟨_, rfl, rfl, rfl, rfl, rfl, by decide, rfl, by decide⟩, by decide⟩
/-! ### Witnesses: standing products -/

theorem agree_of {α : Type} [DecidableEq α] (e : Env) (g : BitVec 3) (f : Lane → α) (v : α)
    (h : (decide (e.act g ≠ 0) && (List.range 32).all (fun i => !(e.act g).getLsbD i || decide (f (e.g.lane i) = v))) = true) : e.agree g f v := by
  simp only [Bool.and_eq_true, decide_eq_true_eq, List.all_eq_true, List.mem_range] at h
  refine ⟨h.1, fun i hi => ?_⟩
  have hlt : i < 32 := by
    rcases Nat.lt_or_ge i 32 with h | h
    · exact h
    · rw [BitVec.getLsbD_of_ge _ _ h] at hi; exact absurd hi (by decide)
  have := h.2 i hlt
  rw [hi] at this
  simpa using this

theorem someOk_of {α β ε : Type} (x : Option α) (f : α → Except ε β)
    (h : (match x with | none => false | some u => match f u with | .ok _ => true | .error _ => false) = true) : ∃ u v, x = some u ∧ f u = .ok v := by
  cases x with
  | none => cases h
  | some u =>
    simp only at h
    cases hf : f u with
    | ok v => exact ⟨u, v, rfl, hf⟩
    | error a => rw [hf] at h; cases h

theorem some_of {α : Type} (x : Option α) (h : x.isSome = true) : ∃ v, x = some v := by
  cases x with
  | none => cases h
  | some v => exact ⟨v, rfl⟩

/-- C of 2 by 2 elements of FP32 at 0x5000, from A of 2 by 1 at 0x6000 and B of 1 by 2 at 0x7000. -/
def tDesc (bg : Bool) : BindDesc := ⟨0x5000, 0x6000, 0x7000, 2, 2, 1, 2, 1, 2, 0, 0, 0, false, bg, 0, 0, 16⟩
/-- A binding of it in slot 0, generation 1, with one difference captured and not applied; made, or still to be made. -/
def tBinding (bg ready : Bool) : Binding :=
  { Binding.start 0 1 0 (tDesc bg) [(0, 0)] [(0, 0)] [(0, 0)] [] with ready := ready, lastNo := 1, diffs := [⟨1, false, 0, 0, 0, 0x3F800000, false, false, false⟩] }
/-- The bare context with that binding; every lane has its handle in v1, the counter 0x2000 in v2:v3 and a selector of row 1 in v4. -/
def tThermosGroup : Group := tAll (tAll (tAll bareGroup 1 0x100) 2 0x2000) 4 0x40000001
def tThermosOf (l : Launch) (g : Group) (bs : List Binding) : Env :=
  ⟨tIss Hints.empty, g, { bareContext with launches := [{ l with kernel := bareKernel }], bindings := bs }, { l with kernel := bareKernel }, bareKernel⟩
def tThermos (bg : Bool) : Env := tThermosOf bareLaunch tThermosGroup [tBinding bg true]
def tThermosDet (bg : Bool) (at_ : Option Nat) : Env := tThermosOf tDetLaunch tThermosGroup [{ tBinding bg true with collapsedAt := at_ }]

theorem witness_StandingProductWords_handles :
    ((tState (tThermos false)).env = some (tThermos false) ∧ (tThermos false).agree 0 (fun l => l.word ((tThermos false).v (1 : BitVec 7))) 0x100 ∧
      (tThermos false).c.handle? 0x100 = some (tBinding false true) ∧ (tThermos false).l.det = false ∧ (tThermos false).g.isHandler = false ∧
      (tThermos false).agree 0 (fun l => l.word 16) 0x40000001 ∧ (tThermos false).agree 0 (fun l => l.dword 8) 0x2000) ∧
    ((tState (tThermosOf bareLaunch tThermosGroup [])).env = some (tThermosOf bareLaunch tThermosGroup []) ∧
      (tThermosOf bareLaunch tThermosGroup []).c.handle? 0x100 = none) ∧ ((tThermos false).act 1 = 0 ∧ (0 : BitVec 4) = 0) ∧
    ((tState (tThermosDet true none)).env = some (tThermosDet true none) ∧ (tThermosDet true none).l.det = true ∧
      (tThermosDet true none).c.handle? 0x100 = some (tBinding true true) ∧ (tBinding true true).desc.background = true) ∧
    ((tState (tThermosDet false (some 0))).env = some (tThermosDet false (some 0)) ∧ (tThermosDet false (some 0)).l.began ≤ 0 ∧
      (tThermosDet false (some 0)).c.handle? 0x100 = some { tBinding false true with collapsedAt := some 0 }) :=
  ⟨⟨rfl, agree_of _ _ _ _ (by decide), by decide, rfl, rfl, agree_of _ _ _ _ (by decide), agree_of _ _ _ _ (by decide)⟩, ⟨rfl, by decide⟩,
    by decide, ⟨rfl, rfl, by decide, rfl⟩, rfl, by decide, by decide⟩

theorem witness_StandingProductWords_operands :
    (bits (0x40000001 : Word).toNat 20 10 = 0 ∧ bits (0x40000001 : Word).toNat 30 2 = 1 ∧ bits (0x40000001 : Word).toNat 0 20 < (tDesc false).m) ∧
    (bits (0x40000002 : Word).toNat 30 2 = 1 ∧ ¬ bits (0x40000002 : Word).toNat 0 20 < (tDesc false).m) ∧
    ((tThermos false).counterLeaf (tState (tThermos false)) 0x2000 .write false).isSome = true ∧
    ((tThermos false).counterLeaf (tState (tThermos false)) 0x2004 .write false).isSome = false := by decide

/-- Every lane has the address 0x3000 in v2:v3, where memory holds the descriptor of `tDesc`. -/
def tBind : Env := tGroup (tAll bareGroup 2 0x3000)
def tBindState : State :=
  { tState tBind with
    mem := Mem.write tTables 0x3000 (leBytes 8 0x5000 ++ leBytes 8 0x6000 ++ leBytes 8 0x7000 ++ leBytes 4 2 ++ leBytes 4 2 ++ leBytes 4 1 ++ leBytes 4 2 ++
      leBytes 4 1 ++ leBytes 4 2 ++ leBytes 4 0 ++ leBytes 4 0 ++ leBytes 4 0 ++ leBytes 4 16) }

set_option maxRecDepth 8000 in
theorem witness_StandingProductWords_bind :
    (tBindState.env = some tBind ∧ tBind.agree 0 (fun l => l.dword (tBind.v (2 : BitVec 7))) 0x3000 ∧ (0x3000 : DWord).toNat % 64 = 0 ∧
      (0x3020 : DWord).toNat % 64 ≠ 0 ∧ tBind.l.det = false) ∧
    (∃ u k, tBindState.engineAccess (some (.thermos 0)) tBind.g.ctx 0x3000 .read = .ok (u, k) ∧ (k == bareLeaf) = true) ∧ isRemote (bareLeaf.pa 0x3000) = false ∧
    (∃ b resident, tBindState.proposeBinding tBind (tBindState.mem.read (bareLeaf.pa 0x3000) 64) (tBind.lowest 0) 0 = .ok (b, resident) ∧ resident = true) ∧
    (bareContext.bindings.filter (fun x => x.live) = [] ∧ (tDesc false).reserve ≤ bareContext.args.reserve.size) ∧
    (64 ≤ ((List.replicate 64 (tBinding false true)).filter (fun x => x.live)).length ∧
      runsMeet (tBinding false true).cRuns (tBinding true true).cRuns = true ∧ bareContext.args.reserve.size < ({ tDesc false with queue := 65536 } : BindDesc).reserve) :=
  ⟨⟨rfl, agree_of _ _ _ _ (by decide), by decide, by decide, rfl⟩, okPair_of _ (fun k => k == bareLeaf) (by decide), by decide,
    (okPair_of _ (fun r => r) (by decide)), by decide, by decide⟩

/-- A machine with that binding and a request at the Thermos. -/
def tAtThermos (bg ready : Bool) (j : Job) : State := { tEng j with contexts := [{ bareContext with bindings := [tBinding bg ready] }] }

theorem apart_binding (bg ready : Bool) : (tBinding bg ready).cApart := by
  intro i j k l hi hj hk hl hne
  have hi : i < 2 := hi
  have hj : j < 2 := hj
  have hk : k < 2 := hk
  have hl : l < 2 := hl
  rcases (by omega : i = 0 ∨ i = 1) with rfl | rfl <;> rcases (by omega : j = 0 ∨ j = 1) with rfl | rfl <;>
    rcases (by omega : k = 0 ∨ k = 1) with rfl | rfl <;> rcases (by omega : l = 0 ∨ l = 1) with rfl | rfl <;>
    first
      | exact absurd rfl hne
      | (cases bg <;> cases ready <;> decide)

theorem witness_StandingProductRequests :
    (∀ j ∈ [Job.pbind 0x01000000 4 1 none, .pbind 0x100 4 1 (some 0), .pstatus true 0 4 1, .psettle 0 1 .dev none [], .psettle 0 1 .dev (some 0x2000) [],
        .punbind 0 1 .dev, .prefresh 0 1 .dev 0x40000001],
      (tAtThermos false true j).live? 9 = some (tReq j) ∧ (tAtThermos false true j).group? 2 = some bareGroup ∧
      (tAtThermos false true j).binding? 0 0 = some (tBinding false true) ∧ (tAtThermos false false j).binding? 0 0 = some (tBinding false false)) ∧
    ((tBinding false true).ready = true ∧ (∀ w ∈ (tAtThermos false true (.punbind 0 1 .dev)).workgroups, w.stashes = []) ∧
      (tBinding false true).orderly ∧ (tBinding false true).marked = [] ∧ (∀ p ∈ (tBinding false true).points, p ≤ 1) ∧ (tBinding false true).applied ≤ 1 ∧
      (∀ x ∈ (tAtThermos false true (.punbind 0 1 .dev)).requests, x.ctx = 0 → 9 ≤ x.id)) ∧
    (∃ x ∈ [{ tReq (.psettle 0 1 .dev none []) with id := 8 }], x.ctx = 0 ∧ x.id < 9 ∧ ∃ k f c l, x.job = .psettle 0 k f c l) ∧
    (∃ u v, (tAtThermos false true (.psettle 0 1 .dev (some 0x2000) [])).work 0 0 (fun w => (w.settle 1
      ((tAtThermos false true (.psettle 0 1 .dev (some 0x2000) [])).detOf (tReq (.psettle 0 1 .dev (some 0x2000) [])))).roundingPass) = some u ∧
        u.signalVa 0 (0, 0) 0x2000 = .ok v) ∧
    (bits (0x40000001 : Word).toNat 30 2 = 1 ∧ bits (0x40000001 : Word).toNat 0 20 = 1 ∧ 1 < (tDesc false).m ∧ (tBinding false true).rowQ.length = 2) ∧
    ((tBinding true true).desc.background = true ∧ bareContext.goesOn (.thermos (tBinding true true).die) = true ∧ 1 ≤ (tBinding true true).lastNo ∧
      (∀ d ∈ (tBinding true true).diffs, d.lost = true → 1 < d.no) ∧ (tBinding false true).desc.background = false ∧ (tBinding false true).collapsing = false) ∧
    (∃ neg n d, exactAdd .rne ((typeFmt 0).value 0x3F800000) ((typeFmt 0).value 0x40000000) = .num neg n d) :=
  ⟨by decide, ⟨rfl, by decide, ⟨rfl, rfl, rfl, by decide, by decide, by decide⟩, rfl, by decide, by decide, by decide⟩,
    ⟨_, List.mem_cons_self, rfl, by decide, _, _, _, _, rfl⟩, someOk_of _ _ (by decide), by decide, by decide, _, _, _, rfl⟩

/-! ### Witnesses: sketches -/

/-- The descriptor at 0x3000 of a sketch of one row of 64 counters at 0x4000, and one of the same shape at 0x3100 with its counters at 0x4100. -/
def tSketchBytes (base : Nat) : List (BitVec 8) := leBytes 8 base ++ leBytes 8 7 ++ [1, 6, 0, 0] ++ List.replicate 44 0
def tSketch (base va : Nat) : Sketch := ⟨base, 1, 6, 0, 7, va, va, true⟩
/-- Every lane has 0x3000 in v2:v3, a key in v4:v5, a value in v6 and, for a merge, 0x3100 in v8:v9 and the counter 0x2000 in v10:v11. -/
def tSketchGroup : Group := tAll (tAll (tAll (tAll (tAll bareGroup 2 0x3000) 4 9) 6 0x3F800000) 8 0x3100) 10 0x2000
def tSk : Env := tGroup tSketchGroup
def tSkState : State :=
  { tState tSk with mem := Mem.write (Mem.write tTables 0x3000 (tSketchBytes 0x4000)) 0x3100 (tSketchBytes 0x4100) }
/-- The same machine between words, with a request. -/
def tSkWith (j : Job) : State := { tSkState with issue := none, requests := [tReq j] }

set_option maxRecDepth 8000 in
theorem witness_SketchWords :
    (tSkState.env = some tSk ∧ tSk.l.det = false ∧ tSk.storing 0 ≠ 0 ∧ tSk.storing 1 = 0 ∧ tSk.act 1 = 0 ∧
      tSk.agree 0 (fun l => l.dword (tSk.v (2 : BitVec 7))) 0x3000 ∧ tSk.agree 0 (fun l => l.dword (tSk.v (8 : BitVec 7))) 0x3100 ∧
      tSk.agree 0 (fun l => l.nat (tSk.v (8 : BitVec 7) + 8) 8) 0x2000 ∧ tSk.agree 0 (fun l => l.word (tSk.v (6 : BitVec 7))) 0x3F800000) ∧
    (∃ u k, tSkState.readSketch tSk (tSk.lowest 0) 0x3000 = .ok (u, k) ∧ (k == tSketch 0x4000 0x3000) = true) ∧
    (∃ h, tSkState.readSketch tSk (tSk.lowest 0) 0x3040 = .error h) ∧
    (match tSkState.readDestination tSk (tSk.lowest 0) 0x3100 with | .ok (.known _ d) => (tSketch 0x4000 0x3000).alike d | _ => false) = true ∧
    ((tSketch 0x4000 0x3000).alike { tSketch 0x4100 0x3100 with seed := 8 } = false) ∧
    (match tSkState.mergeCounter tSk (tSk.lowest 0) (tSketch 0x4100 0x3100) 0x2000 with | .ok _ => true | .error _ => false) = true ∧ 0x3020 % 64 ≠ 0 :=
  ⟨⟨rfl, rfl, by decide, by decide, by decide, agree_of _ _ _ _ (by decide), agree_of _ _ _ _ (by decide), agree_of _ _ _ _ (by decide),
    agree_of _ _ _ _ (by decide)⟩, okPair_of _ (fun k => k == tSketch 0x4000 0x3000) (by decide), error_of _ (by decide), by decide, by decide, by decide, by decide⟩

/-- What a remote merge into the sketch at 0x3100 asks for. -/
def tMerge : RemoteMerge := ⟨5, 0x3100, 1, 6, 0, 7, List.replicate 64 (0, false), false, none, true⟩
def tGranted : State := { tSkState with issue := none, grants := [⟨0, 5, 0, 0x10000⟩] }

/-- Key 9 has no place of its own in Table 12-3. -/
theorem cells_nine : (tSketch 0x4000 0x3000).cells 9 = [hashPlace 9 7 0 6] := by
  have h : skPlace 9 7 0 6 = hashPlace 9 7 0 6 := by
    unfold skPlace
    rw [show tablePlace 9 7 0 6 = none from by decide, Option.getD_none]
  show [(0 * 2 ^ 6 + (skPlace 9 7 0 6).1, (skPlace 9 7 0 6).2)] = _
  rw [h]
  rfl

/-- What a query of key 9 looks at, from the place of its counter. -/
def tLook (s : State) (z : Nat × Bool) : Except (State × Nat) (State × List Int × Option Nat) :=
  foldE (fun (acc : State × List Int × Option Nat) (c : Nat × Bool) =>
    match acc.1.skCell 0 (tSketch 0x4000 0x3000) c.1 .read with
    | .error a => .error a
    | .ok (s, pa, _) =>
      .ok (s, acc.2.1 ++ [if c.2 then -s.skRead pa else s.skRead pa], acc.2.2 <|> if s.poison.contains (pa / 32) then some (0x4000 + 4 * c.1) else none))
    (s, [], none) [z]

theorem looks_at (s : State) (z : Nat × Bool) (hz : (tSketch 0x4000 0x3000).cells 9 = [z]) : s.skLook 0 (tSketch 0x4000 0x3000) 9 = tLook s z := by
  unfold State.skLook tLook
  rw [hz]
  rfl

/-- The query of one lane with key 9, from what it finds at the place of its counter. -/
theorem answers_at (s : State) (z : Nat × Bool) (hz : (tSketch 0x4000 0x3000).cells 9 = [z]) (p : List LaneWrite × List (Nat × Nat) → Bool)
    (h : (match tLook s z with
      | .error _ => false
      | .ok (_, xs, bad) =>
        p ([⟨31, 4, leBytes 4 (if bad.isSome then 0 else estimate (lowerMedian xs) 0).toNat⟩], bad.toList.map (fun a => (31, a)))) = true) :
    ∃ u k, s.skAnswer tSketchGroup 0 (tSketch 0x4000 0x3000) 4 [(31, 9)] = .ok (u, k) ∧ p k = true := by
  rw [← looks_at s z hz] at h
  have help : tSketchGroup.isHelper 31 = false := by decide
  unfold State.skAnswer foldE foldE
  revert h
  generalize s.skLook 0 (tSketch 0x4000 0x3000) 9 = y
  cases y with
  | error a => exact nofun
  | ok x =>
    obtain ⟨u, xs, bad⟩ := x
    intro h
    refine ⟨u, _, ?_, h⟩
    simp only [help]
    rfl

set_option maxRecDepth 8000 in
theorem witness_SketchRequests_ours :
    (let k := tSketch 0x4000 0x3000
     (∀ op ∈ [SketchOp.init, .add [(0, 9, 0x3F800000)], .query 4 [(31, 9)], .scale 1, .stat 4 1],
        (tSkWith (.sketch k op [])).live? 9 = some (tReq (.sketch k op [])) ∧ ∀ q ∈ (tSkWith (.sketch k op [])).requests, q.gid = 2 → 9 ≤ q.id) ∧
      (∃ e, (tSkWith (.sketch k .init [])).reqEnv (tReq (.sketch k .init [])) = some e ∧ e.g = tSketchGroup) ∧
      (∃ u ws, (tSkWith (.fetch [])).skAnswer tSketchGroup 0 k 4 [(31, 9)] = .ok (u, ws) ∧ (ws.2 == []) = true) ∧
      (∃ u ws, ({ tSkWith (.fetch []) with poison := List.range' 512 8 } : State).skAnswer tSketchGroup 0 k 4 [(31, 9)] = .ok (u, ws) ∧
        (ws.2.length == 1) = true) ∧
      (∃ u cs, (tSkWith (.fetch [])).skScan 0 k (List.range k.size) = .ok (u, cs) ∧ (cs.length == 64) = true) ∧
      (∃ u, (tSkWith (.fetch [])).skUnits 0 k .init [(3, 1)] (unitsTaken (SketchOp.init.units k) [(3, 1)] ⟨2, 3⟩) = .ok u) ∧
      (spansSize (unitsDone (SketchOp.init.units k) [(3, 1)] ⟨2, 3⟩) < SketchOp.init.units k ∧
        SketchOp.init.units k ≤ spansSize (unitsDone (SketchOp.init.units k) [(3, 64)] ⟨0, 3⟩))) ∧
    (∃ q ∈ [{ tReq (.sketch (tSketch 0x4000 0x3000) .init []) with id := 8 }, tReq (.sketch (tSketch 0x4000 0x3000) .init [])],
      q.gid = 2 ∧ q.id < 9 ∧ ∃ op done, q.job = .sketch (tSketch 0x4000 0x3000) op done) ∧
    (2 ∈ unitsTaken 64 [(3, 1)] ⟨2, 3⟩ ∧ inSpans (unitsDone 64 [(3, 1)] ⟨2, 3⟩) 3 = true) :=
  ⟨⟨by decide, ⟨_, rfl, rfl⟩, answers_at _ _ cells_nine (fun w => w.2 == []) (by decide), answers_at _ _ cells_nine (fun w => w.2.length == 1) (by decide),
    okPair_of _ (fun (c : List (Nat × Int × Bool)) => c.length == 64) (by decide), ok_of _ (by decide), by decide⟩,
    ⟨_, List.mem_cons_self, rfl, by decide, _, _, rfl⟩, by decide⟩

set_option maxRecDepth 8000 in
theorem witness_SketchRequests_merges :
    (let j := Job.skmerge (tSketch 0x4000 0x3000) (tSketch 0x4100 0x3100) (some 0x2000) [(0, 63)] [] false
     (tSkWith j).live? 9 = some (tReq j) ∧ isRemote (tSketch 0x4100 0x3100).descPa = false ∧ unitsTaken 64 [(0, 63)] ⟨0, 64⟩ = [63] ∧
      (∃ u, (tSkWith j).mergeUnits 0 (tSketch 0x4000 0x3000) (tSketch 0x4100 0x3100) [63] = .ok u) ∧
      (tSketch 0x4000 0x3000).size ≤ spansSize (unitsDone 64 [(0, 63)] ⟨0, 64⟩) ∧
      (∃ w, (tSkWith j).signalVa 0 (0, 1) 0x2000 = .ok w) ∧ isRemote (systemBase + 5 * 2 ^ 40 + 0x3100) = true ∧
      (∃ u cs, (tSkWith j).skScan 0 (tSketch 0x4000 0x3000) [63] = .ok (u, cs) ∧ (cs.length == 1) = true)) ∧
    ((∀ x ∈ (tSkWith (.fetch [])).grants, x.node ≠ tMerge.node) ∧ tGranted.exporter tMerge.node tMerge.off 64 = some 0 ∧
      isRemote (tGranted.forwarded tMerge.off) = false ∧
      (let s : State := { tGranted with requests := [tReq (.forward 0 0x10000 (systemBase + 5 * 2 ^ 40))] }
       s.exporter tMerge.node tMerge.off 64 = some 0 ∧ isRemote (s.forwarded tMerge.off) = true) ∧
      ∃ k, tGranted.mergeTarget 0 (tGranted.forwarded tMerge.off) tMerge.tracked = some k ∧ tMerge.rows = k.rows ∧ tMerge.logCols = k.logCols ∧ tMerge.scale = k.scale ∧
        tMerge.seed = k.seed ∧ tMerge.counters.length = k.size ∧ tMerge.signal = none) ∧
    (let j := Job.merging (tSketch 0x4100 0x3100) tMerge [(0, 63)]
     (tSkWith j).request? 9 = some (tReq j) ∧ ∃ u, (tSkWith j).mergingUnits 0 (tSketch 0x4100 0x3100) tMerge (unitsTaken 64 [(0, 63)] ⟨0, 64⟩) = .ok u) ∧
    (∃ u c, (tSkWith (.fetch [])).skCell 0 (tSketch 0x4000 0x3000) 63 .write = .ok (u, c) ∧ (c.1 == 0x40FC) = true) ∧
    (∃ t, (tSkWith (.fetch [])).skStep 0 (tSketch 0x4000 0x3000) 63 (fun x => x + 2 ^ 31) = .ok t) ∧
    ((tablePlace 0 0x7240 0 6).isSome = true ∧ tablePlace 16 0x7240 0 6 = none ∧ tablePlace 0 0x7240 0 7 = none) ∧
    (6 ≤ 64 ∧ [(3 : Int), 1, 2] ≠ [] ∧ quantise 0 0 = (0, false)) :=
  ⟨⟨rfl, by decide, by decide, ok_of _ (by decide), by decide, ok_of _ (by decide), by decide, okPair_of _ (fun (c : List (Nat × Int × Bool)) => c.length == 1) (by decide)⟩,
    ⟨by decide, by decide, by decide, by decide, _, rfl, by decide, by decide, by decide, by decide, by decide, rfl⟩, ⟨rfl, ok_of _ (by decide)⟩,
    okPair_of _ (fun (c : Nat × Bool) => c.1 == 0x40FC) (by decide), ok_of _ (by decide), by decide, by decide⟩
/-! ### Witnesses: traps and handlers -/

/-- Lane 5 of group 7 waits at a word whose lanes trapped; `dests` are the bytes that the word would have written there. -/
def tTrapWord (word : Word) (served redo : BitVec 32) (joint : Option Nat) : TrapWord :=
  ⟨0x1000, word, Hints.empty, 0x20, 0x20, [(5, 1, 0)], [(5, 1)], [(5, [⟨32, 4⟩])], served, redo, 0, none, joint⟩
def tOrigin (w : TrapWord) : Group := { bareGroup with gid := 7, slotNo := 1, grp := 1 }.updSlot false (fun x => { x with wait := some (.lanes w) })
/-- A handler group of two lanes, the first of which serves lane 5 of group 7, with an offset in v1, and p0 set in it alone. -/
def tServing (off : Word) : Env :=
  tGroup (tReg (tPred { bareGroup with lanesOn := 3, slotNo := 64, a := Slot.ofPath ⟨0x1000, 3, none, []⟩,
                                       origins := some [⟨7, false, 5, 1, 0⟩, ⟨7, false, 6, 1, 0⟩] } 0 0) 0 1 off)
def tServingState (off : Word) (w : TrapWord) : State := { tState (tServing off) with groups := [(tServing off).g, tOrigin w] }

/-- FADD v8, FCMP p5, MDRAIN of FP8 and TRAP, as the lanes' words. -/
theorem witness_TrapWords_words :
    (∀ w ∈ [(0xA1441030 : Word), 0xE5400010], predDest (bodyInstr w) = none ∧ ∀ b c f z y, bodyInstr w ≠ some (.mdrain b c f z y)) ∧
    predDest (bodyInstr 0x44558410) = some 5 ∧ bodyInstr 0xCC420809 = some (.mdrain 1 4 8 4 1) ∧ isSoftTrap (bodyInstr 0xE5400010) = true := by
  refine ⟨?_, by decide, by decide, by decide⟩
  intro w hw
  simp only [List.mem_cons, List.not_mem_nil, or_false] at hw
  rcases hw with rfl | rfl <;> refine ⟨by decide, fun b c f z y h => ?_⟩ <;> exact absurd (Option.some.inj h) (fun h => by cases h)

theorem witness_TrapWords :
    (tState tEnv).env = some tEnv ∧ tEnv.iss.redo = false ∧ tEnv.g.isHandler = false ∧ tEnv.storing 0 ≠ 0 ∧ tEnv.storing 1 = 0 ∧ tEnv.k.handler = 0 ∧
      tEnv.c.run = .running := ⟨rfl, rfl, rfl, by decide, by decide, rfl, rfl⟩

theorem witness_TrapWords_origin (off : Word) :
    let w := tTrapWord 0xA1441030 0 0 none
    (tServingState off w).env = some (tServing off) ∧ (tServing off).iss.redo = false ∧ (tServing off).g.isHandler = true ∧
      (tServing off).g.origins = some [⟨7, false, 5, 1, 0⟩, ⟨7, false, 6, 1, 0⟩] ∧
      (tServingState off w).group? 7 = some (tOrigin w) ∧ (tOrigin w).trapWord 5 = some w ∧
      7 ≠ (tServing off).g.gid ∧ 5 < (tOrigin w).lanes.length ∧ (tOrigin w).tags = [] :=
  ⟨rfl, rfl, rfl, rfl, rfl, rfl, show 7 ≠ 2 by decide, by decide, rfl⟩

theorem witness_TrapWords_offsets :
    [(0x402 : Word), 0x404, 0x460, 0x40C, 0x408, 0x440, 0x458, 0x3FC, 0x3F8, 0x400, 0x414, 0x418, 0x41C, 0x420, 0x43C, 0x438].all (fun off => ((tServing off).g.lane 0).word 4 == off) = true ∧
    0x3FC < bareKernel.regs ∧ (tServing 0x3FC).act 1 = 1#32 <<< 0 := ⟨by decide, by decide, by decide⟩

/-- The widths at the ends of the ranges of Table 17-3, and a handler's last lane. -/
theorem witness_TrapWords_ranges :
    ((0x404 : Nat) % 8 ≠ 0 ∧ (0x408 : Nat) % 8 = 0 ∧ 0x40C < 0x408 + 8 ∧ 0x40C < 0x410 + 4 ∧ 0x458 % 8 = 0 ∧ 0x458 < 0x460 ∧ 0x438 % 8 = 0 ∧ 0x438 < 0x440) ∧
    ((tMk Hints.empty (tServing 0x3C0).g bareLaunch { bareKernel with regs := 960 }).k.regs ≤ 0x3C0 ∧ 0x3C0 < 0x400) ∧
    (let last : Env := { tServing 0 with g := { (tServing 0).g with lanesOn := 1 } }
     ((last.g.exitLanes false (1#32 <<< 0)).goto false 0x1004).isOver = true) ∧
    (tServingState 0 (tTrapWord 0xA1441030 0 0 none)).bars = [] ∧
    (∀ y ∈ (tServingState 0 (tTrapWord 0xA1441030 0 0 none)).workgroups, y.ended = false) ∧
    (({ tTrapWord 0xE5400010 0 0 none with dests := [] } : TrapWord).dests.find? (fun (z : Nat × List RegSpan) => z.1 == 5) = none) := by decide

theorem witness_TrapWords_returns :
    ((tTrapWord 0xA1441030 0 0 none).joint = none ∧ (tTrapWord 0xA1441030 0 0 (some 1)).joint ≠ none ∧
      (tTrapWord 0xA1441030 0 0 none).dests.find? (fun z => z.1 == 5) = some (5, [⟨32, 4⟩])) ∧
    ((tOrigin (tTrapWord 0xA1441030 0 0 none)).lane 5).poisoned 0x3FC 4 = false ∧
    (((tServing 0x3FC).g.exitLanes false (1#32 <<< 0)).goto false 0x1004).isOver = false := by decide

/-- A kernel with a handler; n lanes of group 2 are pooled since clock 0, and k handler slots are taken. -/
def tHandled : Env := tMk Hints.empty bareGroup bareLaunch { bareKernel with handler := 0x1400 }
def tPooled (n : Nat) : List Pooled := (List.range n).map (fun i => ⟨⟨2, false, i, 1, 0⟩, 0⟩)
def tPools (n k clock : Nat) : State :=
  { (tState tHandled).setCore 0 { Core.empty with pool := tPooled n } with
    issue := none, clock := clock
    groups := bareGroup :: (List.range k).map (fun i => { tHandler with gid := 10 + i, slotNo := 64 + i }) }

theorem witness_HandlersFormAndReturn_form :
    (∀ x ∈ [(32, 255), (31, 255), (31, 256), (1, 256)], ∃ p ps, tPooled x.1 = p :: ps ∧ ((tPools x.1 0 x.2).core 0).pool = p :: ps ∧
      (∀ y ∈ p :: ps, (tPools x.1 0 x.2).pooledKernel y = some (0, tHandled.k)) ∧ (p :: ps).Nodup ∧ (tPools x.1 0 x.2).ctx? 0 = some tHandled.c ∧
      tHandled.c.goesOn (.core 0) = true ∧ (tPools x.1 0 x.2).freeHandler 0 = some 64 ∧ (tPools x.1 0 x.2).drained 2 = true) ∧
    ({ tPools 32 0 0 with requests := [tReq (.fpLong [⟨31, 4, [1]⟩] [])] } : State).drained 2 = false ∧
    (tPools 32 4 0).freeHandler 0 = none ∧ (∀ p ∈ tPooled 31, (tPools 31 0 255).clock < p.at_ + 256) :=
  ⟨by
    intro x hx
    simp only [List.mem_cons, List.not_mem_nil, or_false] at hx
    rcases hx with rfl | rfl | rfl | rfl <;> exact ⟨_, _, rfl, by decide, by decide, by decide, rfl, by decide, by decide, by decide⟩, by decide, by decide, by decide⟩

theorem witness_HandlersFormAndReturn_return :
    (∀ w, (tServingState 0 w).ctx? 0 = some tEnv.c) ∧ (∀ w ∈ [tTrapWord 0xA1441030 0 0 none, tTrapWord 0xA1441030 0x20 0 none, tTrapWord 0xA1441030 0x20 0x20 none],
      (tServingState 0 w).group? 7 = some (tOrigin w) ∧ ((tOrigin w).slot false).wait = some (.lanes w) ∧
      tEnv.c.goesOn (.core (tOrigin w).core) = true ∧ (tServingState 0 w).wordBusy 7 false w.pc = false ∧
      (((tOrigin w).exitLanes false w.exits).updSlot false (fun y => { y with wait := none })).isOver = false) ∧
    (let w := tTrapWord 0xA1441030 0 0 none
     w.lanes &&& ~~~ w.served ≠ 0) ∧
    (let w := tTrapWord 0xA1441030 0x20 0 none
     w.lanes &&& ~~~ w.served = 0 ∧ w.redo = 0 ∧ w.joint = none ∧
      ((((tOrigin w).exitLanes false w.exits).updSlot false (fun y => { y with wait := none })).goto false (w.pc + 4)).isOver = false) ∧
    (let w := tTrapWord 0xA1441030 0x20 0x20 none
     w.redo &&& ~~~ w.exits ≠ 0) := ⟨fun _ => rfl, by decide, by decide, by decide, by decide⟩

/-! ### Witnesses: recipes and hints -/

/-- A kernel with a recipe of v1: number 3, the one word MOVI v1, 12, after a HOFF that no such word takes if `bad`; the group has its register dropped, and the word at 0x1000 adds v1 to itself. -/
def tRecipe (bad : Bool) : Recipe := ⟨3, 1, false, [(if bad then 0xFA0001C0 else 0, 0x3A00800C)]⟩
def tRecipes (w : Bool) (ts : List Tag) : Env := tMk Hints.empty { bareGroup with tags := ts } bareLaunch { bareKernel with recipes := [tRecipe w] }
def tDropped (w : Bool) : State := { tState (tRecipes w [⟨4, false, 3, true, none⟩]) with issue := none, mem := Mem.write [] 0x1000 (leBytes 4 0x00028102) }

theorem witness_RecipesTagsAndFills_words :
    ((tState (tRecipes false [])).env = some (tRecipes false []) ∧ (tRecipes false []).g.isHandler = false ∧
      (tRecipes false []).act 0 ≠ 0 ∧ (tRecipes false []).act 1 = 0 ∧ (tRecipes false []).k.recipe? 3 = some (tRecipe false) ∧
      (tRecipes false []).k.recipe? 4 = none ∧ (tRecipe false).target = (1 : BitVec 7).toNat ∧ (tRecipe false).target ≠ (2 : BitVec 7).toNat ∧
      (tRecipe false).pair = ((0 : BitVec 1) == 1) ∧ (tRecipe false).tooDeep (tRecipes false []).k [] = false) ∧
    (32 ≤ ((List.range 32).map (fun i => (⟨8 + 4 * i, false, 3, false, none⟩ : Tag))).length) ∧
    ((tState (tGroup tHandler)).env = some (tGroup tHandler) ∧ (tGroup tHandler).g.isHandler = true) :=
  ⟨⟨rfl, rfl, by decide, by decide, by decide, by decide, by decide, by decide, by decide, by decide⟩, by decide, rfl, rfl⟩

theorem witness_RecipesTagsAndFills_replays :
    (tState tEnv).waitingFor 2 4 = none ∧ (∃ x, (tDropped false).waitingFor 2 4 = some x) ∧
    ((tDropped false).group? 2).isSome = true ∧ (tDropped false).kernelOf 0 0 = some (tRecipes false []).k ∧
    (∃ u, State.replay 3 (tDropped false) (tRecipes false []).k 2 ⟨4, false, 3, true, none⟩ = .ok u) ∧
    (∃ x, (tDropped true).waitingFor 2 4 = some x) ∧
    (match State.replay 3 (tDropped true) (tRecipes true []).k 2 ⟨4, false, 3, true, none⟩ with | .error (.fault _) => true | _ => false) = true ∧
    ((tState tEnv).kernelOf 0 0 = some bareKernel ∧ bareGroup.resident = true ∧ bareKernel.regs ≤ 1024 ∧ 64 * 15 < bareKernel.regs / 64 * 64) :=
  ⟨by decide, some_of _ (by decide), by decide, by decide, ok_of _ (by decide), some_of _ (by decide), by decide, by decide⟩

/-- Recipe 4 of v2 reads v1, which recipe 3 rebuilds from v3, which is tagged too. -/
theorem witness_RecipesTagsAndFills_chain :
    (let k : Kernel := { bareKernel with recipes := [⟨3, 1, false, [(0, 0x00018300)]⟩, ⟨4, 2, false, [(0, 0x00010100)]⟩, ⟨5, 3, false, [(0, 0x3A01800C)]⟩] }
     (k.recipe? 4).map (fun r => r.tooDeep k [⟨4, false, 3, false, none⟩, ⟨12, false, 5, false, none⟩]) = some true ∧
     (k.recipe? 4).map (fun r => r.tooDeep k [⟨4, false, 3, false, none⟩]) = some false) := by decide

/-- Two other groups of the sub-core fill its fast file. -/
theorem witness_RecipesTagsAndFills_full :
    (let s : State := { tState tEnv with groups := [bareGroup, { bareGroup with gid := 3, slotNo := 1 }, { bareGroup with gid := 4, slotNo := 2 }] }
     32 ≤ (s.fastOthers 0 0 2).length ∧ ((tState tEnv).fastOthers 0 0 2).length + 16 < 32) := by decide

theorem witness_HintWords :
    (tState tEnv).env = some tEnv ∧ (tEnv.g.slot tEnv.iss.slotB).path = some tEnv.path ∧ tEnv.path.mask ≠ 0 ∧ tEnv.path.join ≠ some (tEnv.iss.pc + 4) ∧
    tEnv.g.tags = [] := ⟨rfl, rfl, by decide, by decide, rfl⟩

/-! ### Witnesses: host commands -/

/-- The head of a command of node 5 to context n, and a device with page tables whose context 0 is as `f` makes it. -/
def tHead (n : Nat) : CmdHead := ⟨5, BitVec.ofNat 8 n, 0x1234, 2⟩
def tHost (f : Context → Context) : State := { tState tEnv with issue := none, mem := tTables, contexts := [f tEnv.c] }
def tIdle : State := tHost id
def tCtx : Context := tEnv.c

theorem witness_HostCommands_who :
    (∃ n, ({ tIdle with hostNode := some 9 } : State).hostNode = some n ∧ n ≠ (tHead 0).node) ∧ tIdle.hostNode = none ∧
    ({ tIdle with hostNode := some 5 } : State).hostNode = some (tHead 0).node ∧ tIdle.ctx? (tHead 3).ctx.toNat = none ∧
    (∃ c, (tHost (fun c => { c with halting := some (tHead 0) })).ctx? (tHead 0).ctx.toNat = some c ∧ c.halting.isSome = true ∧ c.vacating.isSome = false) ∧
    (∃ c, (tHost (fun c => { c with vacating := some (tHead 0, 0) })).ctx? (tHead 0).ctx.toNat = some c ∧ c.vacating.isSome = true ∧ c.run = .running) :=
  ⟨⟨9, rfl, by decide⟩, rfl, rfl, rfl, ⟨_, rfl, rfl, rfl⟩, ⟨_, rfl, rfl, rfl⟩⟩

/-- Arguments that share no resource with the bare context. -/
def tOther : ContextArgs :=
  { bareArgs with cores := 2, ports := 2, hbm := [⟨0x200000, 0x200000⟩], reserve := ⟨0x300000, 0x10000⟩, saveArea := ⟨0x310000, 0x10000⟩,
                  stopArea := ⟨0x320000, 0x10000⟩ }

theorem witness_HostCommands_create :
    tIdle.argsValid { tOther with stopArea := ⟨0x320000, 0xFFC0⟩ } = false ∧ tIdle.argsValid tOther = true ∧ tIdle.argsValid bareArgs = true ∧
    (∃ c ∈ tIdle.contexts, argsClash c.args bareArgs = true) ∧ (∃ n, n < 16 ∧ tIdle.ctx? n = none) ∧ (∀ c ∈ tIdle.contexts, argsClash c.args tOther = false) ∧
    (∀ n, n < 16 → (({ tIdle with contexts := (List.range 16).map (fun n => { tCtx with no := n }) } : State).ctx? n).isSome = true) :=
  ⟨by decide, by decide, by decide, ⟨tCtx, List.mem_singleton.mpr rfl, by decide⟩, ⟨15, by decide, rfl⟩,
   fun c h => by rw [List.mem_singleton.mp h]; decide, by decide⟩

/-- A launch in every phase: the one root grid of the bare context, ended or not. -/
def tEnded : State := tHost (fun c => { c with launches := [{ bareLaunch with ended := true }] })

theorem witness_HostCommands_runs :
    (tIdle.ctx? (tHead 0).ctx.toNat = some tCtx ∧ tIdle.busy tCtx = false) ∧ tCtx.records[(0 : BitVec 32).toNat]? = none ∧
    (∃ r, ({ tCtx with records := [List.replicate 64 0] } : Context).records[(0 : BitVec 32).toNat]? = some r) ∧
    (∃ c, (tHost (fun c => { c with run := .halted })).ctx? 0 = some c ∧ c.run = .halted ∧ (tHost (fun c => { c with run := .halted })).busy c = false) ∧
    tCtx.run = .running ∧ tCtx.coreList.length < (2 : BitVec 32).toNat ∧ (1 : BitVec 32).toNat ≤ tCtx.coreList.length ∧
    (∃ c, tEnded.ctx? 0 = some c ∧ c.run = .running ∧ tEnded.busy c = false ∧ c.coreList.length = 1 ∧ ∀ l ∈ c.launches, l.ended = true) ∧ tCtx.waiting = [] :=
  ⟨⟨rfl, by decide⟩, rfl, ⟨_, rfl⟩, ⟨_, rfl, rfl, by decide⟩, rfl, by decide, by decide, ⟨_, rfl, rfl, by decide, by decide, by decide⟩, rfl⟩

/-- An image of one data section of eight bytes at address 8 (0x1FFF0000 where page 0 does not reach), and one of an unknown kind. -/
def tImage (kind va : Nat) : List (BitVec 8) := leBytes 4 kind ++ leBytes 4 0 ++ leBytes 8 va ++ leBytes 8 8 ++ List.replicate 8 0x5A

theorem witness_HostCommands_images :
    imageTables (tImage 9 8) = none ∧ (1 : BitVec 32).toNat < 2 ∧
    ∃ xs t, imageTables (tImage 2 8) = some (xs, t) ∧ ∀ x ∈ xs, x.written = true → tIdle.reaches tCtx.no x = true :=
  ⟨by decide, by decide, _, _, rfl, by decide⟩

/-- The machine as node 7: a source in its own HBM, one of node 5 that is answered, and one that is no system address. -/
def tSeven : State := { tIdle with node := 7 }

theorem witness_HostCommands_sources :
    (tSeven.sourceBytes ⟨BitVec.ofNat 64 (systemBase + 7 * 2 ^ 40 + 0x10000), 8, .none⟩).isSome = true ∧
    tSeven.sourceBytes ⟨BitVec.ofNat 64 (systemBase + 5 * 2 ^ 40), 32, .data (tImage 2 8)⟩ = some (tImage 2 8) ∧
    tSeven.sourceBytes ⟨0x100, 8, .none⟩ = none := by decide

/-- A halted context whose vacate waits. -/
theorem witness_HostCommands_halted :
    (let s := tHost (fun c => { c with run := .halted, vacating := some (tHead 0, 1) })
     ∃ c, s.ctx? (tHead 0).ctx.toNat = some c ∧ c.run = .halted ∧ c.vacating.isSome = true) := ⟨_, rfl, rfl, rfl⟩

/-- A descriptor of the bare kernel: gx, and the energy that it asks for. -/
def tLaunchDesc (gx energy : Nat) : List (BitVec 8) :=
  leBytes 8 0x1000 ++ leBytes 28 0 ++ leBytes 4 gx ++ leBytes 4 1 ++ [1, 1, 32, 0] ++ leBytes 4 0 ++ leBytes 4 1000 ++ leBytes 4 energy ++ leBytes 4 0

/-- The bare context with a save area that its kernel fits. -/
def tRoomy (f : Context → Context) : State :=
  tHost (fun c => f { c with args := { c.args with hbm := [⟨0, 0x800000⟩], saveArea := ⟨0x200000, 0x600000⟩ }, launches := [{ bareLaunch with ended := true }] })

theorem witness_HostCommands_start :
    tCtx.kernel? (leNat ((leBytes 64 0x999).take 8)) = none ∧ tCtx.kernel? (leNat ((tLaunchDesc 1 1).take 8)) = some bareKernel ∧
    (∃ x ∈ tCtx.launches, x.root = true ∧ x.ended = false) ∧
    (∃ c, (tRoomy id).ctx? 0 = some c ∧ (tRoomy id).busy c = false ∧ (∀ x ∈ c.launches, x.root = true → x.ended = true) ∧
      descLegal c (tLaunchDesc 0 1) = false ∧ (tLaunchDesc 1 1).length = 64 ∧ descLegal c (tLaunchDesc 1 1) = true ∧
      (tRoomy id).countersOk c.no (launchOf (tLaunchDesc 1 1) bareKernel true 0 (tRoomy id).time) = true ∧
      (tRoomy id).admission c (launchOf (tLaunchDesc 1 1) bareKernel true 0 (tRoomy id).time) bareKernel.regs = 0) ∧
    (∃ c, (tRoomy (fun c => { c with budget := 0 })).ctx? 0 = some c ∧
      (tRoomy (fun c => { c with budget := 0 })).admission c (launchOf (tLaunchDesc 1 1) bareKernel true 0 0) bareKernel.regs ≠ 0) :=
  ⟨by decide, by decide, ⟨bareLaunch, List.mem_singleton.mpr rfl, rfl, rfl⟩,
   ⟨_, rfl, by decide, by decide, by decide, by decide, by decide, by decide, by decide⟩, ⟨_, rfl, by decide⟩⟩

theorem witness_HostCommands_map :
    (0x80 : BitVec 8).getLsbD 7 = true ∧ (0x80 : BitVec 64).getLsbD 7 = true ∧ sizeCode 4 = none ∧ sizeCode 0 = some 16 ∧ sizeCode 3 = some 30 ∧
    (0x7C : BitVec 8).getLsbD 7 = false ∧ bits (0x7C : BitVec 8).toNat 0 2 = 0 ∧ bits (0x7D : BitVec 8).toNat 0 2 ≠ 0 ∧
    2 ^ 56 ≤ (0x100000000000000 : BitVec 64).toNat ∧ (0x8000 : BitVec 64).toNat % 2 ^ 16 ≠ 0 ∧
    frameAllowed tCtx (tIdle.localFrame 0x20000) (2 ^ 16) true = true ∧ frameAllowed tCtx (tIdle.localFrame 0x20000) (2 ^ 16) false = false ∧
    frameAllowed tCtx (tIdle.localFrame 0x120000) (2 ^ 16) true = false := by decide

theorem witness_HostCommands_places :
    placeOf tIdle.mem 0 21 walkLevels tCtx.args.root = .other ∧ placeOf tIdle.mem (2 ^ 46) 16 walkLevels tCtx.args.root = .noTable ∧
    placeOf tIdle.mem 0x10000 16 walkLevels tCtx.args.root = .open_ 0x14408 ∧ placeOf tIdle.mem 0 16 walkLevels tCtx.args.root = .leaf 0x14400 0x3F ∧
    bits 0x3F 16 36 * 2 ^ 16 ≠ 0x20000 ∧ tIdle.pinned 0 (2 ^ 16) = false ∧ ({ tIdle with locked := [(0, 0)] } : State).pinned 0 (2 ^ 16) = true := by decide

/-- An export of the first 64 KiB beyond page 1 to node 5, by context 0. -/
def tExport : Grant := ⟨0, 5, 0x20000, 0x10000⟩
def tExporting : State := { tIdle with grants := [tExport] }
/-- The VA of a withdrawal: node 5 and frame 0x20000. -/
def tExported : BitVec 64 := 0x50000020080

theorem witness_HostCommands_unmap :
    (0 : BitVec 64).getLsbD 7 = false ∧ leafSlot tIdle.mem 0x10000 walkLevels tCtx.args.root = none ∧
    leafSlot tIdle.mem 0 walkLevels tCtx.args.root = some (0x14400, 0x3F, 16) ∧
    (∀ y ∈ tIdle.contexts, ∀ b ∈ y.bindings, b.holds 0 (2 ^ 16) = false) ∧
    (∃ y ∈ (tHost (fun c => { c with bindings := [tBinding false true] })).contexts, ∃ b ∈ y.bindings, b.holds 0 (2 ^ 16) = true) :=
  ⟨rfl, by decide, by decide, by decide, ⟨_, List.mem_singleton.mpr rfl, tBinding false true, List.mem_singleton.mpr rfl, by decide⟩⟩

theorem witness_HostCommands_exports :
    tIdle.localFrame 0x20000 % 2 ^ 16 = 0 ∧ regionOf (tIdle.localFrame 0x20000) = .hbm ∧ covered tCtx.args.hbm (tIdle.localFrame 0x20000) (2 ^ 16) = true ∧
    bits tExported.toNat 51 13 = 0 ∧ bits tExported.toNat 8 8 = 0 ∧ bits tExported.toNat 0 7 = 0 ∧
    (∃ x ∈ tExporting.grants, x.node = tExported.extractLsb' 40 11 ∧ x.base = bits tExported.toNat 16 24 * 2 ^ 16) ∧
    (∀ x ∈ tIdle.grants, x.node = tExported.extractLsb' 40 11 → x.base ≠ bits tExported.toNat 16 24 * 2 ^ 16) :=
  ⟨by decide, by decide, by decide, by decide, by decide, by decide, ⟨tExport, List.mem_singleton.mpr rfl, by decide, by decide⟩, nofun⟩

/-- The machine when the exported page has moved to node 5, and what still arrives for it is forwarded. -/
def tForwarding : State := { tExporting with requests := [tReq (.forward 0x20000 0x10000 (systemBase + 5 * 2 ^ 40))] }

/-- A page of context 0 that moves, from this device or from another. -/
def tMoving (from_ : Nat) : State := { tIdle with requests := [tReq (.migrate 0 { bareLeaf with frame := from_ } 0x20000 7 5)] }

theorem witness_HostCommands_migrations : (∀ f ∈ [0, 2 ^ 51], (tMoving f).request? 9 = some (tReq (.migrate 0 { bareLeaf with frame := f } 0x20000 7 5))) ∧
    (∀ c, tIdle.ctx? (tReq (.fetch [])).ctx = some c → c.waiting = []) ∧ isRemote 0 = false ∧ isRemote (2 ^ 51) = true ∧
    (tMoving 0).pinned 0 (2 ^ 16) = false ∧ ({ tMoving 0 with locked := [(0, 0)] } : State).pinned 0 (2 ^ 16) = true ∧
    9 < ({ tMoving 0 with fresh := 10 } : State).fresh ∧ (9999999 < 0 + 10000000 ∧ 0 + 10000000 ≤ 10000000) :=
  ⟨by decide, fun c h => by rw [← Option.some.inj (show some tCtx = some c from h)]; rfl, by decide, by decide, by decide, by decide, by decide, by decide⟩

theorem witness_HostCommands_forwards :
    (let r := tReq (.forward 0x20000 0x10000 (systemBase + 5 * 2 ^ 40))
     tForwarding.request? 9 = some r ∧ (tForwarding.ctx? r.ctx).isSome = true ∧ 0x20000 ≤ 0x2FFFF ∧ 0x2FFFF < 0x20000 + 0x10000 ∧ ∀ x ∈ tForwarding.requests, x = r) ∧
    (let d : List (BitVec 8) := leBytes 4 0
     messageCommand 5 ([7#8, 0] ++ leBytes 2 0x1234 ++ leBytes 4 0 ++ d) .none = some (.halt ⟨5, 0, 0x1234, 7⟩) ∧ d.length = 4 ∧
     messageCommand 5 ([14#8, 0] ++ leBytes 2 0x1234 ++ leBytes 4 0 ++ d) .none = none) := by decide

/-! ### Witnesses: what comes about on its own -/

/-- Tripped at 5 ns, ten milliseconds and a nanosecond less before. -/
def tTripped (time : Nat) : State := { tIdle with trippedAt := some 5, time := time }
/-- Context 0 with other arguments, or on two ports with notifications at a count of 4. -/
def tArgs (f : ContextArgs → ContextArgs) : State := tHost (fun c => { c with args := f c.args })
/-- A fetch from node 0, which went out at time 0 on the port that is given. -/
def tFetch (port : Option Nat) : Request := { tReq (.fetch [2 ^ 44]) with since := some 0, port := port }
def tPorts (port : Option Nat) (ports : BitVec 64) (time : Nat) : State :=
  { tArgs (fun a => { a with ports := ports }) with requests := [tFetch port], time := time }

theorem witness_DeviceEvents_heat :
    tIdle.mem.wf = true ∧ (tTripped 10000005).trippedAt = some 5 ∧ 5 + 10000000 ≤ (tTripped 10000005).time ∧ (tTripped 10000004).time < 5 + 10000000 ∧
    tIdle.trippedAt = none ∧ tIdle.dies.length = 4 ∧ (tIdle.die 3).clock = 16 ∧ 1050 ≤ 1149 ∧ (15 : Nat) < 16 ∧ (1150 : Nat) < 2 ^ 16 ∧
    (∃ n c, tEnded.ctx? n = some c ∧ c.run = .running ∧ 0 < 15 ∧ 15 < c.clock ∧ (∀ l ∈ c.launches, l.ended = true) ∧ tEnded.clockFloor c ≤ 15) :=
  ⟨by decide, rfl, by decide, by decide, rfl, by decide, by decide, by decide, by decide, by decide, 0, _, rfl, rfl, by decide, by decide, by decide, by decide⟩

theorem witness_DeviceEvents_links :
    (tPorts (some 0) 3 10000000).request? 9 = some (tFetch (some 0)) ∧ (∃ c, (tPorts (some 0) 3 10000000).ctx? 0 = some c ∧ c.run = .running ∧
      c.args.ports.getLsbD 1 = true ∧ c.args.ports.getLsbD 2 = false) ∧ (tPorts (some 0) 3 10000000).awayAddr (tFetch (some 0)) = some (2 ^ 51) ∧
    (tPorts (some 0) 3 10000000).portOf (tFetch (some 0)) = some 0 ∧ (tPorts (some 0) 3 10000000).live? 9 = some (tFetch (some 0)) ∧
    0 + 10000000 ≤ (tPorts (some 0) 3 10000000).time ∧ (tPorts (some 0) 3 9999999).time < 0 + 10000000 :=
  ⟨by decide, ⟨_, rfl, by decide, by decide, by decide⟩, by decide, by decide, by decide, by decide, by decide⟩

/-- A write to node 0 that no load waits for. -/
theorem witness_DeviceEvents_timeouts :
    (let s : State := { tArgs id with requests := [{ tReq (.remoteWrite (2 ^ 51)) with since := some 0 }], time := 10000000 }
     s.live? 9 = some { tReq (.remoteWrite (2 ^ 51)) with since := some 0 } ∧ s.awayAddr { tReq (.remoteWrite (2 ^ 51)) with since := some 0 } = some (2 ^ 51)) ∧
    opOf (tFetch none).word ≠ 0x6F ∧ opOf 0xDE000000 = 0x6F := by decide

theorem witness_DeviceEvents_port : (tPorts none 8 0).portOf (tFetch none) = some 3 := by
  have h : (tPorts none 8 0).portOf (tFetch none) = ((List.range 36).filter (fun i => (8 : BitVec 64).getLsbD i))[Config.portHash (2 ^ 51) % 1]? := rfl
  rw [h, Nat.mod_one]
  rfl

/-- Accesses of node 5 to what context 0 exports to it, up to its end, and of node 6, to which nothing is exported. -/
def tRemote (node : BitVec 11) (acc : RemoteAcc) (off : Nat) : RemoteReq := ⟨node, off, acc, true⟩

theorem witness_DeviceEvents_remote :
    (∀ x ∈ tExporting.grants, x.node ≠ (tRemote 6 (.read 1) 0x20000).node) ∧ tExporting.hostNode ≠ some 6 ∧ tExport ∈ tExporting.grants ∧ tExport.node = 5 ∧
    (tExporting.ctx? tExport.ctx).isSome = true ∧ (tExport.base ≤ 0x2FF80 ∧ 0x2FF80 + 128 ≤ tExport.base + tExport.size) ∧
    (tExport.base ≤ 0x20000 ∧ 0x20000 + ([1, 2] : List (BitVec 8)).length ≤ tExport.base + tExport.size) ∧
    (tExport.base ≤ 0x2FFFC ∧ 0x2FFFC + 4 ≤ tExport.base + tExport.size ∧ 0x2FFFC % 4 = 0) ∧
    ({ tExporting with hostNode := some 5 } : State).hostNode = some (tRemote 5 .signal 0x20000).node ∧ (hbmSize - 2) + ([1, 2] : List (BitVec 8)).length ≤ hbmSize ∧
    (hbmSize - 8) % 8 = 0 ∧ (∀ r ∈ tExporting.requests, ∀ old size frame, r.job ≠ .forward old size frame) ∧ isRemote (tExporting.forwarded 0x2FF80) = false ∧
    (isRemote (tForwarding.forwarded 0x2FF80) = true ∧ accAligned 0x2FF80 (.read 128) = true ∧ tExport ∈ tForwarding.grants) ∧
    (∀ c ∈ tExporting.contexts, (0x20000 : Nat) < c.args.reserve.base ∨ c.args.reserve.base + c.args.reserve.size ≤ 0x20000) :=
  ⟨by decide, nofun, List.mem_singleton.mpr rfl, rfl, by decide, by decide, by decide, by decide, by decide, by decide, by decide,
    fun r h => absurd (show r ∈ ([] : List Request) from h) (List.not_mem_nil), by decide, by decide, by decide⟩

/-- Line 64, with its second byte dirty, in the cluster cache and in the L1 of core 0. -/
def tDirty : Line := ⟨64, [(1, 0x5A)], BitVec.allOnes 128, 2, 0, 0, 0, [2], false⟩
def tCached : State := ({ tIdle with clusters := [(0, [tDirty])] } : State).setCore 0 { (tIdle.core 0) with l1 := [tDirty] }

theorem witness_DeviceEvents_caches :
    findLine (tIdle.clusterCache 0) 64 = none ∧ findLine (tIdle.core 0).l1 64 = none ∧ findLine (tIdle.core 0).tileBuf 64 = none ∧
    findLine (tCached.clusterCache 0) 64 = some tDirty ∧ isRemote (128 * 64) = false ∧ 3 < tIdle.dies.length ∧
    findLine (tCached.core 0).l1 64 = some tDirty ∧ (tCached.core 0).l1.filter (fun x => x.no == 64) = [tDirty] ∧
    regionOf (32 * 0) = .hbm ∧ regionOf (32 * (deepBase / 32)) = .deep := by decide

theorem witness_DeviceEvents_room :
    ((tIdle.clusterCache (clusterOf 0)).filter (fun x => x.no != 64 && clusterSetOf x.no == clusterSetOf 64)).length < 16 := by
  rw [show tIdle.clusterCache (clusterOf 0) = [] from rfl]
  decide

/-- Block 0 has been read four times by another device, and context 0 asks for a notification then, with its counter at 0x1000. -/
def tHot : State :=
  { tArgs (fun a => { a with threshold := 4, ringBase := 0x1010, ringCounter := 0x1000 }) with
    hot := [⟨0, 0x8005, 3⟩], notices := [(0, 0x8005)], time := 1048576 }

theorem witness_DeviceEvents_hotness :
    ({ tHot with time := 1048575 } : State).time < (tHot.decays + 1) * 1048576 ∧ (tHot.decays + 1) * 1048576 ≤ tHot.time ∧
    (∃ c, tIdle.ctx? 0 = some c ∧ (0, 0x8005) ∉ tIdle.notices) ∧ (4 ≠ 0 ∧ 4 ≤ min 65535 ((⟨0, 0x8005, 3⟩ : HotCount).count + 1)) ∧
    (min 65535 ((⟨0, 0x8005, 2⟩ : HotCount).count + 1) < 4) ∧ (tHot.threshold 0 ≠ 0 ∧ tHot.threshold 0 ≤ min 65535 (3 + 1)) ∧
    ∃ c, tHot.ctx? 0 = some c ∧ c.owns (65536 * 0) = true ∧ (0, 0x8005) ∈ tHot.notices ∧ isRemote c.args.ringCounter.toNat = false ∧
      c.args.ringCounter.toNat + 8 ≤ c.args.ringBase + 16 * (tHot.mem.nat c.args.ringCounter.toNat 8 % c.args.ringN) :=
  ⟨by decide, by decide, ⟨_, rfl, by decide⟩, by decide, by decide, by decide, _, rfl, by decide, by decide, by decide, by decide⟩

/-- A dirty line in a tile write buffer, and no line of a page that moves. -/
theorem witness_DeviceEvents_errors :
    ((({ tIdle with cores := [(0, { tIdle.core 0 with tileBuf := [tDirty] })] } : State).core 0).tileBuf.filter (fun x => x.no == 64) = [tDirty]) ∧
    tDirty.dirty ≠ 0 ∧ (∀ k ∈ tIdle.copied, k.1 ≠ 0) ∧ 3 < tIdle.dies.length := by decide

/-! ### Witnesses: launches, placement, stops -/

theorem witness_LaunchesPlacementAndStops_word :
    ((tState (tDet bareGroup)).env = some (tDet bareGroup) ∧ (tDet bareGroup).l.det = true) ∧ (tEnv.l.det = false ∧ tEnv.g.isHandler = false ∧ tEnv.act 1 = 0) ∧
    ((tState tUni).env = some tUni ∧ tUni.l.det = false ∧ tUni.g.isHandler = false ∧
      tUni.act 0 ≠ 0 ∧ (∀ i, i < 32 → (tUni.g.lane i).dword (tUni.v (2 : BitVec 7)) = 0x2000)) :=
  ⟨⟨rfl, rfl⟩, ⟨rfl, rfl, by decide⟩, rfl, rfl, rfl, by decide, by decide⟩

/-- A launch of the bare kernel stands at the distributor, which admits it or not. -/
def tOffered (f : Context → Context) : State := { tRoomy f with requests := [tReq (.launch (tLaunchDesc 1 1) 64 1)] }

theorem witness_LaunchesPlacementAndStops_admission :
    ((tOffered id).live? 9 = some (tReq (.launch (tLaunchDesc 1 1) 64 1)) ∧ (tOffered id).group? 2 = some bareGroup) ∧
    (∃ c, (tOffered id).ctx? 0 = some c ∧ c.kernel? (leNat ((tLaunchDesc 1 1).take 8)) = some bareKernel ∧
      (tOffered id).admission c (launchOf (tLaunchDesc 1 1) bareKernel false 0 0) bareKernel.regs = 0) ∧
    (∃ c, (tOffered (fun c => { c with budget := 0 })).ctx? 0 = some c ∧
      (tOffered (fun c => { c with budget := 0 })).admission c (launchOf (tLaunchDesc 1 1) bareKernel false 0 0) bareKernel.regs ≠ 0) :=
  ⟨⟨by decide, by decide⟩, ⟨_, rfl, by decide, by decide⟩, ⟨_, rfl, by decide⟩⟩

/-- A launch that has ended, with a counter to signal or none; and one that waits for its first cluster. -/
def tDone (counter : Nat) : Launch := { bareLaunch with ended := true, counter := counter }
def tNext : Launch := { bareLaunch with placed := [] }
def tLaunches (ls : List Launch) : State := { tHost (fun c => { c with launches := ls }) with groups := [], workgroups := [] }

theorem witness_LaunchesPlacementAndStops_end :
    (∃ c, tIdle.ctx? 0 = some c ∧ c.launch? 0 = some bareLaunch ∧ bareLaunch.ended = false) ∧
    (∀ n ∈ [0, 0x2000], ∃ c, (tLaunches [tDone n]).ctx? 0 = some c ∧ c.launch? 0 = some (tDone n) ∧ (tDone n).ended = true ∧ (tDone n).signalled = false ∧
      c.run = .running ∧ (tLaunches [tDone n]).workgroups = [] ∧
      ((tDone n).counter = 0 ∨ (match ((tLaunches [tDone n]).pushContext c).signalVa 0 (0, 0 + 1) (tDone n).counter with
        | .ok u => u.outbox == (tLaunches [tDone n]).outbox
        | .error _ => false) = true) ∧
      (tLaunches [tDone n]).launchBusy 0 0 = false) ∧
    ({ tLaunches [tDone 0] with requests := [tReq (.remoteWrite 0)] } : State).launchBusy 0 0 = true ∧
    (∃ w, tIdle.workgroups = [w] ∧ w.ctx = 0 ∧ w.launch = 0 ∧ w.freed = false) ∧
    (let s : State := { tLaunches [tDone 0x10008] with mem := tFar.mem }
     ∃ c, s.ctx? 0 = some c ∧ (match (s.pushContext c).signalVa 0 (0, 1) 0x10008 with
       | .ok u => s.acked .none none u == .waits
       | .error _ => false) = true) :=
  ⟨⟨_, rfl, rfl, rfl⟩, by
    intro n hn
    simp only [List.mem_cons, List.not_mem_nil, or_false] at hn
    rcases hn with rfl | rfl <;> exact ⟨_, rfl, rfl, rfl, rfl, rfl, rfl, by decide, by decide⟩, by decide, ⟨_, rfl, rfl, rfl, rfl⟩, _, rfl,
    by decide⟩

theorem witness_LaunchesPlacementAndStops_placement :
    (∃ c, tIdle.ctx? 0 = some c ∧ c.kernel? bareLaunch.handle = some bareKernel ∧ bareLaunch.waiting = false) ∧
    ∃ c slots, (tLaunches [tNext]).ctx? 0 = some c ∧ c.launch? 0 = some tNext ∧ c.kernel? tNext.handle = some bareKernel ∧ c.run = .running ∧ tNext.waiting = true ∧
      tNext.wgs = 1 ∧ (tLaunches [tNext]).passed 0 tNext = false ∧ (tLaunches [tNext]).movedClusters 0 0 = [] ∧ (tLaunches [tNext]).firstBack c tNext tNext.nextCluster 0 = false ∧ 0 ∈ c.openCores ∧ clusterOf 0 ∈ c.homesFor tNext ∧
      c.args.cores.getLsbD 0 = true ∧ [3].length = tNext.groups ∧ tNext.ls ≤ (tLaunches [tNext]).freeLs 0 ∧ (tLaunches [tNext]).recipeRoom 0 bareKernel = true ∧
      takeSlots (tLaunches [tNext]) 0 [3] [] = some slots :=
  ⟨⟨_, rfl, rfl, by decide⟩, _, _, rfl, rfl, rfl, rfl, rfl, rfl, by decide, rfl, by decide, by decide, by decide, rfl, rfl, by decide, rfl, rfl⟩

/-- The group of the bare workgroup waits for a counter, and a cluster of a second launch waits for a place; the workgroup is on core 0, or saved. -/
def tAwaits : Group := bareGroup.updSlot false (fun x => { x with wait := some (.counter 0x2000 1 false 0 0) })
def tParked (g : Group) (w : Workgroup) : State :=
  { tRoomy (fun c => { c with launches := [bareLaunch, { tNext with no := 1 }] }) with groups := [g], workgroups := [w] }
def tSaved : Workgroup := { bareWorkgroup with resident := false }
def tAway : Group := { bareGroup with resident := false }

theorem witness_LaunchesPlacementAndStops_save :
    (∃ c, (tParked bareGroup bareWorkgroup).ctx? 0 = some c ∧ (tParked bareGroup bareWorkgroup).maySave c bareKernel bareWorkgroup = false) ∧
    (∃ c, (tParked tAwaits bareWorkgroup).wg? 1 = some bareWorkgroup ∧ (tParked tAwaits bareWorkgroup).ctx? 0 = some c ∧
      (tParked tAwaits bareWorkgroup).kernelOf 0 0 = some bareKernel ∧ c.launch? 0 = some bareLaunch ∧
      (tParked tAwaits bareWorkgroup).maySave c bareKernel bareWorkgroup = true) ∧
    ((tParked { tAwaits with resident := false } tSaved).groupsIn tSaved).all (tParked { tAwaits with resident := false } tSaved).waitsVisible = true :=
  ⟨⟨_, rfl, by decide⟩, ⟨_, rfl, rfl, rfl, rfl, by decide⟩, by decide⟩

theorem witness_LaunchesPlacementAndStops_restore :
    (∃ c t, (tParked tAway tSaved).wg? 1 = some tSaved ∧ (tParked tAway tSaved).ctx? 0 = some c ∧ c.run = .running ∧
      (tParked tAway tSaved).satisfied tSaved = true ∧ clusterOf 0 ∈ (tParked tAway tSaved).returnHomes c bareLaunch tSaved ∧
      0 ∈ c.openCores ∧ (tParked tAway tSaved).passed c.no bareLaunch = false ∧ (tParked tAway tSaved).requests = [] ∧
      (tParked tAway tSaved).firstBack c bareLaunch 0 0 = false ∧ (tParked tAway tSaved).movedBefore c bareLaunch 0 = false ∧
      (tParked tAway tSaved).returnWorkgroup bareLaunch bareKernel tSaved ⟨0, [2]⟩ = some t) ∧
    (∃ c t, (tParked tAway { tSaved with moved := true }).ctx? 0 = some c ∧ (tParked tAway { tSaved with moved := true }).firstBack c bareLaunch 0 0 = false ∧
      (tParked tAway { tSaved with moved := true }).clusterWgs 0 0 0 = [{ tSaved with moved := true }] ∧
      ((tParked tAway { tSaved with moved := true }).movedClusters 0 0).head? = some 0 ∧ (tParked tAway { tSaved with moved := true }).passed 0 bareLaunch = false ∧
      (tParked tAway { tSaved with moved := true }).returnWorkgroup bareLaunch bareKernel { tSaved with moved := true } ⟨0, [2]⟩ = some t) :=
  ⟨⟨_, _, rfl, rfl, rfl, by decide, by decide, by decide, by decide, rfl, by decide, by decide, rfl⟩, _, _, rfl, by decide, rfl, by decide, by decide, rfl⟩

/-- A workgroup of two groups that a vacate moves. -/
def tMoved : State :=
  { tParked bareGroup { bareWorkgroup with moved := true } with groups := [bareGroup, { bareGroup with gid := 3, grp := 1, slotNo := 1 }] }

theorem witness_LaunchesPlacementAndStops_move :
    (∃ c, tIdle.group? 2 = some bareGroup ∧ tIdle.ctx? 0 = some c ∧ tIdle.wgOf bareGroup = some bareWorkgroup ∧ bareWorkgroup.moved = false) ∧
    ∃ c w, tMoved.group? 2 = some bareGroup ∧ tMoved.ctx? 0 = some c ∧ tMoved.wgOf bareGroup = some w ∧ c.run = .running ∧ w.moved = true ∧
      bareGroup.isHandler = false ∧ tHandler.isHandler = true ∧ bareGroup.resident = true ∧ tMoved.jointOpen w.ctx w.launch w.clu = false ∧ tMoved.savable bareGroup false = true ∧ w.resident = true ∧ w.ended = false ∧ ∃ x ∈ tMoved.groupsIn w, x.gid ≠ 2 ∧ x.resident = true :=
  ⟨⟨_, rfl, rfl, rfl, rfl⟩, _, _, rfl, rfl, rfl, rfl, rfl, rfl, rfl, rfl, by decide, by decide, rfl, rfl, by decide⟩

/-- A vacate of the one core, before and after its work has left; and a context whose last unit is to stop, for a halt or for a fault. -/
def tVacating (work : Bool) : State :=
  { tHost (fun c => { c with vacating := some (tHead 0, 1) }) with groups := if work then [bareGroup] else [], workgroups := if work then [bareWorkgroup] else [] }
def tStop : StopInfo := ⟨⟨0x20, 3, 0, 0, 0⟩, 0, 0, 0, 0, 0, 0, 0, [.copyEngine]⟩
def tStopping (h : Option CmdHead) : State := tHost (fun c => { c with run := .raised, stop := some tStop, halting := h })

theorem witness_LaunchesPlacementAndStops_stops :
    (∀ b ∈ [false, true], ∃ c, (tVacating b).ctx? 0 = some c ∧ c.vacating = some (tHead 0, 1) ∧ (tVacating b).vacateDone c = !b ∧ c.waiting = []) ∧
    tCtx.run = .running ∧ StopUnit.core 0 ∉ tStop.pending ∧
    (∀ h ∈ [none, some (tHead 0)], ∃ c, (tStopping h).ctx? 0 = some c ∧ c.run = .raised ∧ c.stop = some tStop ∧ tStop.pending = [.copyEngine] ∧
      (∀ n, StopUnit.copyEngine ≠ .core n) ∧ c.waiting = [] ∧ 64 ≤ c.args.stopArea.size ∧ c.halting = h) := by
  refine ⟨fun b _ => ?_, rfl, by decide, fun h hh => ?_⟩
  · cases b <;> exact ⟨_, rfl, rfl, by decide, rfl⟩
  · simp only [List.mem_cons, List.not_mem_nil, or_false] at hh
    rcases hh with rfl | rfl <;> exact ⟨_, rfl, rfl, rfl, rfl, nofun, rfl, by decide, rfl⟩

/-! ### Witnesses: encodings and the step -/

theorem witness_DecodeEncode :
    (Instr.iaddR 7 127 127 127 1).wf = true ∧ (Instr.iaddR 7 127 127 127 1).isWord = true ∧ decodeWf 0x01FFFFFF = .ok (.iaddR 7 127 127 127 1) := ⟨by decide, by decide, rfl⟩

/-- The bare machine about to issue a word at 0x1000, 9 clocks and 4 ns from now, after a run of hints. -/
def tStep (h : Hints) (w : Nat) : State :=
  let s := State.reset.withFetchWord 32 w
  { s with agenda := [⟨9, 4, .issue 2 false⟩], groups := s.groups.map (fun g => g.updSlot false (fun x => { x with hints := h })) }
def tStepGroup (h : Hints) : Group := bareGroup.updSlot false (fun x => { x with hints := h })
/-- That machine when the time has passed. -/
def tThen (h : Hints) (w : Nat) : State := ({ tStep h w with agenda := [] } : State).advance 9 4
/-- A run with an HOFF, which IADD does not take. -/
def tOff : Hints := { Hints.empty with hoff := some 28, count := 1 }

theorem witness_StepRunsDecodedWord (h : Hints) (w : Nat) : (tStep h w).agenda = [⟨9, 4, .issue 2 false⟩] := rfl

theorem witness_StepRunsDecodedWord_picked :
    ∀ x ∈ [(Hints.empty, 0x00018104), (tOff, 0x00018104), (Hints.empty, 0x3C000000), (Hints.empty, 0xF8004000)],
      (tThen x.1 x.2).group? (tStepGroup x.1).gid = some (tStepGroup x.1) ∧
      (tThen x.1 x.2).picked 0 0 = some (tStepGroup x.1, false) ∧ ((tStepGroup x.1).slot false).path = some ⟨0x1000, BitVec.allOnes 32, none, []⟩ ∧
      (tStepGroup x.1).isHandler = false ∧ (tStepGroup x.1).count < bareLaunch.bound ∧ (tThen x.1 x.2).codeWord 0 0 0x1000 = some (BitVec.ofNat 32 x.2) := by
  decide

theorem witness_StepRunsDecodedWord_env (h : Hints) (w : Nat) (v : Word) :
    ∃ c e, (tThen h w).ctx? 0 = some c ∧ c.launch? 0 = some bareLaunch ∧
      ({ tThen h w with issue := some (Issue.of (tStepGroup h) false 0x1000 v) } : State).env = some e ∧ e.hints = h ∧ e.k = bareKernel ∧ e.g.tags = [] :=
  ⟨_, _, rfl, rfl, rfl, rfl, rfl, rfl⟩

theorem witness_StepRunsDecodedWord_words :
    (∃ x, decodeWf 0x3C000000 = .error x) ∧ opOf 0x3C000000 < 0x7C ∧ decodeWf 0xF8004000 = .ok (.himm 0 0x4000) ∧ 0x7C ≤ opOf 0xF8004000 ∧
    decodeWf 0x00018104 = .ok (.iaddR 0 3 1 2 0) ∧ hintsLegal tOff 0x00018104 = false ∧ hintsLegal Hints.empty 0x00018104 = true ∧
    (∀ q ∈ (spans bareKernel Hints.empty 0 (.iaddR 0 3 1 2 0)).1 ++ (spans bareKernel Hints.empty 0 (.iaddR 0 3 1 2 0)).2, q.off + q.size ≤ bareKernel.regs) ∧
    (tStepGroup Hints.empty).breaches false [⟨4, 4⟩] [⟨12, 4⟩] (.iaddR 0 3 1 2 0) = false ∧
    (tState tEnv).consumesPoison tEnv (tEnv.act 0) [⟨4, 4⟩] (.iaddR 0 3 1 2 0) = 0 ∧ (tState tEnv).originReplays tEnv (.iaddR 0 3 1 2 0) = [] :=
  ⟨error_of _ (by decide), by decide, rfl, by decide, rfl, by decide, by decide, by decide, by decide, by decide, by decide⟩

theorem witness_StepRunsDecodedWord_events :
    (let m : Move := ⟨1, 2, .event .hotnessDecay⟩
     ({ State.reset with agenda := [m] } : State).agenda = [m] ∧ m.act = .event .hotnessDecay ∧ Instr.hotnessDecay.isWord = false) ∧
    (let m : Move := ⟨1, 2, .message 5 [14#8] .none⟩
     m.act = .message 5 [14#8] .none ∧ messageCommand 5 [14#8] .none = none) := by decide

theorem witness_StepRunsDecodedWord_copied : State.reset.copied = [] ∧ (tThen Hints.empty 0x00018104).copied = [] := ⟨rfl, rfl⟩

theorem witness_StepKeepsMemoryCanonical :
    (tStep Hints.empty 0x00018104).mem.wf = true ∧ ∃ t, step (tStep Hints.empty 0x00018104) = .next t := ⟨by decide, _, rfl⟩

/-! ### Results that the spec works out, and some worked out by hand from its rules -/

/-- Register vr of lane n of the bare group after a step. -/
def tOut (o : Host.Outcome State Fault Refusal) (n r : Nat) : Option Word :=
  match o with
  | .next t => (t.group? 2).map (fun g => (g.lane n).word (4 * r))
  | _ => none
/-- The machine whose lane 3 holds words in v1, v2 and v3, after a run of hints. -/
def tArith (h : Hints) (x y z : Word) : State := tState (tHint h |> fun e => { e with g := tReg (tReg (tReg bareGroup 3 1 x) 3 2 y) 3 3 z })
def tHimm (first : Bool) (v : BitVec 24) : Hints := { Hints.empty with himm := some (first, v), count := 1 }

/-- 03, R33: `ISUB v3, 1000, v2` with v2 = 1001. -/
theorem test_isub_himm : tOut (exec (.isub 0 3 2 0x74 0) (tArith (tHimm true 3) 0 1001 0)) 3 3 = some 0xFFFFFFFF := by decide
/-- By hand from 08: the sum of the largest word and 1 is 0. -/
theorem test_iadd_wraps : tOut (exec (.iaddR 0 3 1 2 0) (tArith Hints.empty 0xFFFFFFFF 1 7)) 3 3 = some 0 := by decide
/-- By hand from 08: the high halves of (−1)·(−1) and of (2^32 − 1)^2. -/
theorem test_imulh : tOut (exec (.imulh 0 3 1 2 1) (tArith Hints.empty 0xFFFFFFFF 0xFFFFFFFF 7)) 3 3 = some 0 ∧
    tOut (exec (.imulh 0 3 1 2 0) (tArith Hints.empty 0xFFFFFFFF 0xFFFFFFFF 7)) 3 3 = some 0xFFFFFFFE := by decide
/-- By hand from 08: a shift by 33 is one by 1. -/
theorem test_shl_amount : tOut (exec (.shlR 0 3 1 2 0) (tArith Hints.empty 0x80000001 33 7)) 3 3 = some 2 := by decide
/-- 08, R136, the two examples of BFX. -/
theorem test_bfx : tOut (exec (.bfx 0 3 1 2 1) (tArith Hints.empty 0x8000F0A5 0x0804 0)) 3 3 = some 0x0000000A ∧
    tOut (exec (.bfx 0 3 1 2 1) (tArith Hints.empty 0x8000F0A5 0x081C 0)) 3 3 = some 0xFFFFFFF8 := by decide
/-- 08, R136, the example of BFI: bits 11:4 of D become bits 7:0 of A. -/
theorem test_bfi : tOut (exec (.bfi 0 3 1 2 0) (tArith (tHimm false 8) 0xABCD 0 0xFFFFFFFF)) 3 3 = some 0xFFFFFCDF := by decide
/-- 08, R137, the example of LUT3: A and B merged under the mask in D. -/
theorem test_lut3 : tOut (exec (.lut3 0 3 1 2) (tArith (tHimm false 0xAC) 0x12345678 0x9ABCDEF0 0xFFFF0000)) 3 3 = some 0x1234DEF0 := by decide
/-- 08, R140, the example of PLUT: p4 := NOT p1. -/
theorem test_plut :
    (match exec (.plut 0 4 1 1 2) (tState (tHint (tHimm false 3) |> fun e => { e with g := tPred (tPred bareGroup 3 1) 4 4 })) with
      | .next t => (t.group? 2).map (fun g => ((g.lane 3).pred 4, (g.lane 4).pred 4))
      | _ => none) = some (false, true) := by decide
/-- By hand from 13: 1 + 2^-24 in FP32 ties to 1, upward with RUP, and both are inexact. -/
theorem test_fp32_tie :
    fp32.deliver (.plain .rne) [] (exactAdd .rne (fp32.value 0x3F800000) (fp32.value 0x33800000)) = ⟨0x3F800000, flagNX, false⟩ ∧
    fp32.deliver (.plain .rup) [] (exactAdd .rup (fp32.value 0x3F800000) (fp32.value 0x33800000)) = ⟨0x3F800001, flagNX, false⟩ := by decide
/-- 13, Table 13-2: the band scale of a largest magnitude of 93, and the block. -/
theorem test_quantised_block : bandScale e2m1 [fp32.value 0x42BA0000] = 0x3F00 ∧
    quantBlock e2m1 0x3F00 (fun _ => none)
      (([0x3F99999A, 0xBE99999A, 0, 0x40200000, 0x3D4CCCCD, 0xBF800000, 0x3F333333, 0x3ECCCCCD] : List Nat).map fp32.value) =
      (0x56, [5, 9, 0, 7, 0, 0xC, 3, 2], flagNX, false) := by decide
/-- 13, Table 13-4: the slices of 1.1 in a row with exponent 2. -/
theorem test_slices : splitValue (fp64.value 0x3FF199999999999A) 2 8 = ([35, 25, 76, 102, 51, 25, 76, 104] ++ List.replicate 8 0, 0) := by decide
/-- 15, Table 15-7: the operands of the worked MMA, and its rows. -/
def tWords (g : Group) (lane : Nat) (ws : List (Nat × Word)) : Group := ws.foldl (fun g x => tReg g lane x.1 x.2) g
def tMma : Env :=
  tMk Hints.empty (tWords (tWords (tWords bareGroup 0 [(32, 0x3F800000), (33, 0x40000000), (48, 0x3F800000)]) 1 [(32, 0x40400000), (33, 0x40800000), (49, 0x3F800000)])
    2 [(48, 0x40000000), (49, 0x3F800000)]) bareLaunch { bareKernel with vwa := 512 }

theorem test_mma_rows : mmaLegal 0xC0200C02000 (mmaCtl 0xC0200C02000 0) 1 (BitVec.allOnes 32) = true ∧
    (tMma.mmaRows (mmaCtl 0xC0200C02000 0) 2 1).map (fun r =>
      (r.lane, (r.writes.foldl (fun l w => l.put w.off w.bytes) (tMma.g.lane r.lane)).bytes 0x280 16, r.flags)) =
    [(0, leBytes 4 0x3F800000 ++ leBytes 4 0x40000000 ++ leBytes 4 0x40800000 ++ leBytes 4 0, 0),
     (1, leBytes 4 0x40400000 ++ leBytes 4 0x40800000 ++ leBytes 4 0x41200000 ++ leBytes 4 0, 0)] := by decide
set_option maxRecDepth 10000 in
/-- 08, Table 8-4, step 1: the CALLI of two targets. -/
theorem test_calli :
    (match exec (.calli 0 8) { tState (tGroup { bareGroup with lanes := (List.range 32).map (fun i => Lane.start.putWord 32 (if i < 16 then 0x1800 else 0x1400)) }) with
        mem := Mem.write (Mem.write [] 0x1400 (leBytes 4 0xF0000001)) 0x1800 (leBytes 4 0xF0000001) } with
      | .next t => (t.group? 2).map (fun g => (g.jr, g.a.path, g.b.path, g.stack))
      | _ => none) =
    some (some ⟨0x1004, 0, none, []⟩, some ⟨0x1404, 0xFFFF0000, some 0x1004, []⟩, some ⟨0x1000, 0x0000FFFF, some 0x1004, []⟩, []) := by decide
/-- 11, Table 11-7: the descriptor. -/
theorem test_descriptor :
    let l := launchOf (leBytes 8 0x800000 ++ leBytes 8 0x700200 ++ leBytes 8 0x700100 ++ leBytes 8 0 ++ leBytes 4 0 ++ leBytes 4 4 ++ leBytes 4 1 ++
      [1, 2, 32, 5] ++ leBytes 2 0 ++ leBytes 2 0 ++ leBytes 4 1000 ++ leBytes 4 200 ++ leBytes 4 0) bareKernel false 0 0
    [l.handle, l.argPtr, l.counter, l.gx, l.gy, l.wgs, l.groups, l.lanes, l.prio, l.bound, l.energy, l.deadline] =
      [0x800000, 0x700200, 0x700100, 4, 1, 1, 2, 32, 5, 1000, 200, 0] ∧ launchResult 0 150000 = 0x249F0 ∧ launchResult 3 0 = 0x30000 * 2 ^ 32 := by decide
end Sys2Proof.Tests
end

section
/-! SUPPORT. Proofs about a lane's registers and predicates, the guards, and the special registers (02, R21–R27; 03, R32; 08, R160–R162). -/

namespace Sys2Proof.Machine

/-! ### Register bytes: reading after writing (02, R21, R23) -/

@[simp] theorem nat_putNat (l : Lane) (off n v : Nat) : (l.putNat off n v).nat off n = v % 256 ^ n := by
  have hread := read_write l.regs off (leBytes n v)
  rw [leBytes_length] at hread
  rw [Lane.nat, Lane.bytes, Lane.putNat, Lane.put_regs, hread, leNat_leBytes]

theorem bytes_putNat_of_disjoint (l : Lane) {off n v o m : Nat} (h : o + m ≤ off ∨ off + n ≤ o) :
    (l.putNat off n v).bytes o m = l.bytes o m :=
  read_write_other _ _ _ _ _ (by rwa [leBytes_length])

/-- Settles O1: a lane's bytes by reading after a write of bytes, a memory's by reading after a write of one byte and by extensionality of the
canonical form. -/
theorem readAfterWrite : Obligations.ReadAfterWrite := by
  unfold Obligations.ReadAfterWrite
  refine ⟨fun l off n v => ?_, fun m a v => ?_⟩
  · exact ⟨nat_putNat l off n v, fun _ _ h => bytes_putNat_of_disjoint l h, rfl, rfl, rfl, rfl, rfl⟩
  · exact ⟨get_set m a v, fun b h => get_set_other m a b v h, wf_set m a v, fun m' h h' hread => wfFrom_ext m m' 0 h h' fun b _ => hread b⟩

/-! ### Masks made bit by bit -/

/-- A bit of an OR over a list is set where it was set before, or where some element sets it. -/
theorem getLsbD_foldl_or {α : Type} {w : Nat} (f : α → BitVec w) (xs : List α) (start : BitVec w) (i : Nat) :
    (xs.foldl (fun m x => m ||| f x) start).getLsbD i = true ↔ start.getLsbD i = true ∨ ∃ x ∈ xs, (f x).getLsbD i = true := by
  induction xs generalizing start with
  | nil => simp
  | cons x xs ih => simp [ih, or_assoc]

theorem getLsbD_one_shiftLeft (w k i : Nat) : (1#w <<< k).getLsbD i = decide (i = k ∧ i < w) := by
  rw [← BitVec.twoPow_eq, BitVec.getLsbD_twoPow, ← Bool.decide_and]
  exact decide_eq_decide.mpr (by omega)

theorem getLsbD_maskOf (xs : List Nat) (n : Nat) : (maskOf xs).getLsbD n = true ↔ n ∈ xs ∧ n < 32 := by
  simp only [maskOf, getLsbD_foldl_or, getLsbD_one_shiftLeft, decide_eq_true_eq]
  simp

theorem exists_getLsbD_of_ne_zero {w : Nat} {m : BitVec w} (h : m ≠ 0) : ∃ n, m.getLsbD n = true := by
  by_contra hnone
  exact h (BitVec.eq_of_getLsbD_eq fun n _ => by simpa using not_exists.mp hnone n)

/-- The first lane of a mask that has one, and the others. -/
theorem lanesOf_eq_cons {m : BitVec 32} {n : Nat} (h : m.getLsbD n = true) :
    ∃ i is, lanesOf m = i :: is ∧ ∀ j, m.getLsbD j = true ↔ j = i ∨ j ∈ is := by
  obtain ⟨i, is, his⟩ := List.exists_cons_of_ne_nil (List.ne_nil_of_mem ((mem_lanesOf m n).mpr h))
  exact ⟨i, is, his, fun j => by rw [← mem_lanesOf, his, List.mem_cons]⟩

/-! ### Predicates and guards (02, R26; 03, R32) -/

theorem pred_putPred_same (l : Lane) {p : Nat} (v : Bool) (hp : p < 12) : (l.putPred p v).pred p = v := by
  cases v <;> simp [Lane.putPred, Lane.pred, hp]

theorem pred_putPred_other (l : Lane) {p q : Nat} (v : Bool) (h : q ≠ p) : (l.putPred p v).pred q = l.pred q := by
  have hbit : (1#12 <<< p).getLsbD q = false := by rw [getLsbD_one_shiftLeft]; simp [h]
  cases v with
  | true => simp only [Lane.putPred, Lane.pred, if_true, BitVec.getLsbD_or, hbit, Bool.or_false]
  | false =>
    have hin : (decide (q < 12) && l.preds.getLsbD q) = l.preds.getLsbD q := by
      rw [Bool.and_eq_right_iff_imp]
      exact fun hq => decide_eq_true (BitVec.lt_of_getLsbD hq)
    simp only [Lane.putPred, Lane.pred, Bool.false_eq_true, if_false, BitVec.getLsbD_and, BitVec.getLsbD_not, hbit, Bool.not_false, Bool.and_true]
    rw [Bool.and_comm, hin]

theorem guardHolds_of_hgrd {g : BitVec 3} {h : Hints} {never neg : Bool} {p : BitVec 4} (hg : h.hgrd = some (never, neg, p)) (l : Lane) :
    guardHolds g h l = true ↔ never = false ∧ l.pred p.toNat ≠ neg := by simp [guardHolds, hg]

theorem guardHolds_of_no_hgrd {g : BitVec 3} {h : Hints} (hg : h.hgrd = none) (l : Lane) :
    guardHolds g h l = true ↔ g = 0 ∨ l.pred (g.toNat - 1) = true := by
  simp only [guardHolds, hg, Bool.if_true_left, Bool.or_eq_true, decide_eq_true_eq]

theorem getLsbD_guardMask (g : BitVec 3) (h : Hints) (grp : Group) (m : BitVec 32) (n : Nat) :
    (guardMask g h grp m).getLsbD n = true ↔ m.getLsbD n = true ∧ guardHolds g h (grp.lane n) = true := by
  rw [guardMask, getLsbD_maskOf, List.mem_filter, mem_lanesOf]
  exact ⟨fun hn => hn.1, fun hn => ⟨hn, BitVec.lt_of_getLsbD hn.1⟩⟩

theorem eff_of_not_redo {e : Env} (g : BitVec 3) (h : e.iss.redo = false) : e.eff g = guardMask g e.hints e.g e.path.mask := by
  simp [Env.eff, Env.act, h]

/-- Settles O8: a predicate bit by bit, and the mask of a guard. -/
theorem predicatesAndGuards : Obligations.PredicatesAndGuards := by
  unfold Obligations.PredicatesAndGuards
  refine ⟨fun l p q v hp => ?_, fun e g n hredo => ?_⟩
  · split
    · next hq => subst hq; exact pred_putPred_same l v hp
    · next hq => exact pred_putPred_other l v hq
  · rw [eff_of_not_redo g hredo, getLsbD_guardMask]
    cases hg : e.hints.hgrd with
    | some x =>
      obtain ⟨never, neg, p⟩ := x
      exact and_congr_right' (guardHolds_of_hgrd hg _)
    | none => exact and_congr_right' (guardHolds_of_no_hgrd hg _)

/-! ### SMOV (08, R160) -/

/-- TABLE 2-6 IN A GROUP THAT IS NO HANDLER GROUP: what a lane reads in each special register. -/
def Env.ownSpecial (e : Env) (time : Nat) (m : BitVec 7) (i : Nat) : Nat :=
  match m.toNat with
  | 0x00 => i
  | 0x01 => i / 4
  | 0x02 => e.g.grp
  | 0x03 => e.g.clu * e.l.wgs + e.g.wgc
  | 0x04 => e.g.wgc
  | 0x05 => e.g.clu
  | 0x06 => e.l.no
  | 0x07 => if e.g.isHelper i then 1 else 0
  | 0x08 => e.l.lanes
  | 0x09 => e.l.groups
  | 0x0A => e.l.wgs
  | 0x0B => e.l.wgs * (e.l.gx * e.l.gy)
  | 0x0C => e.l.gx * e.l.gy
  | 0x10 => e.g.core
  | 0x11 => dieOf e.g.core
  | 0x12 => time
  | 0x13 => 0
  | 0x18 => (e.g.lane i).fflags.toNat
  | 0x19 => e.g.gflags.toNat
  | 0x1A => e.g.frnd.toNat
  | 0x1B => e.g.ftrap.toNat
  | 0x1C => e.k.vwv
  | 0x1D => e.k.vwt
  | _ => e.k.vwa

/-- Nothing stops an SMOV in such a group: its register is none that a deterministic launch keeps from programs, and `%gflags` has no conflict. -/
def SmovReads (e : Env) (m : BitVec 7) : Prop :=
  (e.l.det = true → m ≠ 0x10 ∧ m ≠ 0x11 ∧ m ≠ 0x12) ∧ (e.l.det = true → m = 0x19 → e.g.jr = none)

theorem smovReads_of_ne {e : Env} {m : BitVec 7} (h : m ≠ 0x10 ∧ m ≠ 0x11 ∧ m ≠ 0x12) (hgflags : m ≠ 0x19) : SmovReads e m :=
  ⟨fun _ => h, fun _ hm => absurd hm hgflags⟩

theorem smovReads_of_not_det {e : Env} (m : BitVec 7) (h : e.l.det = false) : SmovReads e m := by
  simp [SmovReads, h]

theorem smovReads_gflags {e : Env} (h : e.l.det = false ∨ e.g.jr = none) : SmovReads e 0x19 :=
  ⟨fun _ => by decide, fun hdet _ => h.resolve_left (by simp [hdet])⟩

section NoHandler
variable {s : State} {e : Env} (ho : e.g.origins = none)
include ho

theorem isHandler_of_no_origins : e.g.isHandler = false := by rw [Group.isHandler, ho]; rfl

theorem shown_of_no_origins (i : Nat) : s.shown e i = (e.g, e.l, i) := by rw [State.shown, ho]; rfl

theorem origOf_of_no_origins (i : Nat) : s.origOf e i = 0 := by rw [State.origOf, ho]; rfl

theorem nlane_of_no_origins (l : Launch) : s.nlane e l = l.lanes := by rw [State.nlane, isHandler_of_no_origins ho]; rfl

theorem special_of_no_origins (m : BitVec 7) (i : Nat) : s.special e m i = e.ownSpecial s.time m i := by
  simp only [State.special, shown_of_no_origins ho, nlane_of_no_origins ho, origOf_of_no_origins ho, isHandler_of_no_origins ho,
    Bool.false_and, Bool.false_eq_true, if_false] <;> rfl

variable (he : s.env = some e) {g : BitVec 3} {d m : BitVec 7}
include he

theorem smov_laneWord (hok : SmovReads e m) :
    LaneWord (.smov g d m) g s e fun n l =>
      if m = 0x12 || m = 0x13 then l.putDword (e.v d) (BitVec.ofNat 64 (e.ownSpecial s.time m n))
      else l.putWord (e.v d) (BitVec.ofNat 32 (e.ownSpecial s.time m n)) := by
  obtain ⟨hkept, hgflags⟩ := hok
  have hlegal : (e.l.det && (m = 0x10 || m = 0x11 || m = 0x12)) = false := by
    simp only [Bool.and_eq_false_imp, Bool.or_eq_false_iff, decide_eq_false_iff_not]
    exact fun hdet => ⟨⟨(hkept hdet).1, (hkept hdet).2.1⟩, (hkept hdet).2.2⟩
  have hfree : (e.l.det && m = 0x19 && e.g.jr.isSome) = false := by
    simp only [Bool.and_eq_false_imp, Bool.and_eq_true, decide_eq_true_eq]
    exact fun ⟨hdet, hm⟩ => by rw [hgflags hdet hm]; rfl
  refine laneWord_of he (inWord_ok he ?_)
  simp only [hlegal, hfree, Env.detHandler, isHandler_of_no_origins ho, special_of_no_origins ho, Bool.and_false, Bool.false_and,
    Bool.false_eq_true, if_false]

theorem smov_wordResult (hok : SmovReads e m) (hm : m ≠ 0x12 ∧ m ≠ 0x13) {v : Nat → Lane → Word}
    (hv : ∀ n, BitVec.ofNat 32 (e.ownSpecial s.time m n) = v n (e.g.lane n)) : WordResult (.smov g d m) g d s e v :=
  (smov_laneWord ho he hok).congr fun n => by
    rw [if_neg (by simpa only [Bool.or_eq_true, decide_eq_true_eq, not_or] using hm), hv]

theorem smov_pairResult (hok : SmovReads e m) (hm : m = 0x12 ∨ m = 0x13) {v : Nat → Lane → DWord}
    (hv : ∀ n, BitVec.ofNat 64 (e.ownSpecial s.time m n) = v n (e.g.lane n)) : PairResult (.smov g d m) g d s e v :=
  (smov_laneWord ho he hok).congr fun n => by
    rw [if_pos (by simpa only [Bool.or_eq_true, decide_eq_true_eq] using hm), hv]

end NoHandler

theorem smov_faults_of_det {s : State} {e : Env} (he : s.env = some e) (g : BitVec 3) (d : BitVec 7) {m : BitVec 7} (hdet : e.l.det = true)
    (hm : m ∈ ([0x10, 0x11, 0x12] : List (BitVec 7))) : Faults (.smov g d m) s e .illegal := by
  have hcond : (e.l.det && (m = 0x10 || m = 0x11 || m = 0x12)) = true := by simpa [hdet, or_assoc] using hm
  exact inWord_error he (by simp only [hcond, if_true])

/-- `%gflags` is the OR of the flags of the lanes that have not exited. -/
theorem getLsbD_gflags (grp : Group) (i : Nat) :
    grp.gflags.getLsbD i = true ↔ ∃ n, grp.live.getLsbD n = true ∧ (grp.lane n).fflags.getLsbD i = true := by
  simp [Group.gflags, getLsbD_foldl_or, mem_lanesOf]

/-- Settles O15: each register by Table 2-6 as an ordinary group reads it. -/
theorem specialRegisters : Obligations.SpecialRegisters := by
  unfold Obligations.SpecialRegisters
  intro s e g d he ho
  have word {m : BitVec 7} (hm : m ∉ ([0x10, 0x11, 0x12, 0x13, 0x19] : List (BitVec 7))) {v : Nat → Lane → Word}
      (hv : ∀ n, BitVec.ofNat 32 (e.ownSpecial s.time m n) = v n (e.g.lane n)) : WordResult (.smov g d m) g d s e v := by
    simp only [List.mem_cons, List.not_mem_nil, or_false, not_or] at hm
    obtain ⟨hcore, hdie, hdtime, horig, hgflags⟩ := hm
    exact smov_wordResult ho he (smovReads_of_ne ⟨hcore, hdie, hdtime⟩ hgflags) ⟨hdtime, horig⟩ hv
  have toWord {w : Nat} (x : BitVec w) : BitVec.ofNat 32 x.toNat = x.zeroExtend 32 := BitVec.ofNat_toNat ..
  refine ⟨?lane, ?quad, ?grp, ?wg, ?wgc, ?clu, ?grid, ?hlp, ?nlane, ?ngrp, ?nwgc, ?nwg, ?nclu, ?fflags, fun hfree => ?gflags, ?frnd, ?ftrap,
    ?vwv, ?vwt, ?vwa, ?orig, fun hdet => ?unlessDet, fun hdet m hm => smov_faults_of_det he g d hdet hm⟩
  case lane | quad | grp | wg | wgc | clu | grid | nlane | ngrp | nwgc | nwg | nclu | vwv | vwt | vwa =>
    exact word (by decide) fun _ => rfl
  case hlp => exact word (by decide) fun _ => apply_ite (BitVec.ofNat 32) ..
  case fflags | frnd | ftrap => exact word (by decide) fun _ => toWord _
  case gflags =>
    refine ⟨e.g.gflags.zeroExtend 32, fun i hi => ?_, smov_wordResult ho he (smovReads_gflags hfree) (by decide) fun _ => toWord _⟩
    rw [BitVec.getLsbD_setWidth, decide_eq_true hi, Bool.true_and, getLsbD_gflags]
  case orig => exact smov_pairResult ho he (smovReads_of_ne (by decide) (by decide)) (by decide) fun _ => rfl
  case unlessDet =>
    have hok (m : BitVec 7) : SmovReads e m := smovReads_of_not_det m hdet
    exact ⟨smov_wordResult ho he (hok _) (by decide) fun _ => rfl, smov_wordResult ho he (hok _) (by decide) fun _ => rfl,
      smov_pairResult ho he (hok _) (by decide) fun _ => rfl⟩

/-! ### Operands that all active lanes share (03, R33; 11, R196) -/

section Uniform
variable {α : Type} [DecidableEq α] {e : Env} {g : BitVec 3}

theorem uniform_of_inactive (f : Lane → α) (h : e.act g = 0) : e.uniform g f = .ok none := by
  rw [Env.uniform, h]; rfl

theorem uniform_of_agree {f : Lane → α} {v : α} (h : e.agree g f v) : e.uniform g f = .ok (some v) := by
  obtain ⟨hact, hv⟩ := h
  obtain ⟨n, hn⟩ := exists_getLsbD_of_ne_zero hact
  obtain ⟨i, is, his, hmem⟩ := lanesOf_eq_cons hn
  have hi : f (e.g.lane i) = v := hv i ((hmem i).mpr (.inl rfl))
  have hrest : ∀ j ∈ is, f (e.g.lane j) = v := fun j hj => hv j ((hmem j).mpr (.inr hj))
  rw [Env.uniform, his, List.map_cons, hi]
  exact if_pos (by simpa using hrest)

theorem uniform_of_differ {f : Lane → α} {n m : Nat} (hn : (e.act g).getLsbD n = true) (hm : (e.act g).getLsbD m = true)
    (hne : f (e.g.lane n) ≠ f (e.g.lane m)) : e.uniform g f = .error .operand := by
  obtain ⟨i, is, his, hmem⟩ := lanesOf_eq_cons hn
  rw [Env.uniform, his, List.map_cons]
  refine if_neg fun hall => hne ?_
  have hrest : ∀ j ∈ is, f (e.g.lane j) = f (e.g.lane i) := by simpa using hall
  have hfirst : ∀ j, (e.act g).getLsbD j = true → f (e.g.lane j) = f (e.g.lane i) := fun j hj =>
    ((hmem j).mp hj).elim (fun h => by rw [h]) (hrest j)
  rw [hfirst n hn, hfirst m hm]

end Uniform

/-! ### SSET (08, R161, R162) -/

/-- A word whose outcome is a change of its group, after which its slot goes on: what it leaves. -/
theorem groupWord_of {i : Instr} {s : State} {e : Env} {F : Group → Group} (he : s.env = some e)
    (h : exec i s = .next (e.retire (s.updGroup e.g.gid F))) (hgid : ∀ grp, (F grp).gid = grp.gid) :
    ∃ t grp, exec i s = .next t ∧ OnlyGroup s t e.g.gid ∧ t.group? e.g.gid = some grp ∧ grp = (F e.g).goto e.iss.slotB (e.iss.pc + 4) := by
  refine ⟨_, _, h, ⟨rfl, fun k hk => ?_⟩, ?_, rfl⟩
  · show State.group? ((s.updGroup e.g.gid F).updGroup e.g.gid _) k = _
    rw [group_updGroup_other _ _ _ _ (fun _ => goto_gid ..) hk, group_updGroup_other _ _ _ _ hgid hk]
  · show State.group? ((s.updGroup e.g.gid F).updGroup e.g.gid _) e.g.gid = _
    rw [group_updGroup _ _ _ (fun _ => goto_gid ..), group_updGroup _ _ _ hgid, env_group he]
    rfl

theorem privilege_ok {e : Env} (hp : e.privileged = true) : e.privilege = .ok () := if_pos hp

/-- SSET of `%frnd` takes a mode of 0 to 4 that the active lanes share. -/
theorem ssetFrnd_eq (g : BitVec 3) (a : BitVec 7) (s : State) : exec (.ssetFrnd g a) s =
    ssetGroup g a (fun _ w => w.toNat % 8 ≤ 4) (fun w grp => { grp with frnd := w.truncate 3 }) s := rfl

section Privileged
variable {s : State} {e : Env} (he : s.env = some e) (hp : e.privileged = true) {g : BitVec 3} {a : BitVec 7}
include he

theorem ssetFtrap_faults_of_handler (hh : e.g.isHandler = true) : Faults (.ssetFtrap g a) s e .illegal :=
  inWord_error he (if_pos hh)

/-- In a group that is no handler group SSET of `%ftrap` takes any value that the active lanes share. -/
theorem ssetFtrap_eq (hh : e.g.isHandler = false) : exec (.ssetFtrap g a) s =
    ssetGroup g a (fun _ _ => true) (fun w grp => { grp with ftrap := w.truncate 6 }) s := by
  simp only [exec_ssetFtrap, execSsetFtrap, ssetGroup, inWord, he, hh, Bool.false_eq_true, if_false, if_true]

include hp

theorem ssetFflags_laneWord : LaneWord (.ssetFflags g a) g s e fun n l =>
    if e.g.isHelper n then l else { l with fflags := (l.word (e.v a)).truncate 7 } :=
  laneWord_of he (inWord_ok he (by rw [privilege_ok hp]))

variable {check : Env → Word → Bool} {put : Word → Group → Group}

theorem ssetGroup_of_agree {w : Word} (hw : e.agree g (fun l => l.word (e.v a)) w) (hc : check e w = true) :
    ssetGroup g a check put s = .next (e.retire (s.updGroup e.g.gid (put w))) :=
  inWord_ok he (by simp only [privilege_ok hp, uniform_of_agree hw, hc, if_true])

theorem ssetGroup_of_illegal {w : Word} (hw : e.agree g (fun l => l.word (e.v a)) w) (hc : check e w = false) :
    ssetGroup g a check put s = .next (e.takeFault .illegal s) :=
  inWord_error he (by simp only [privilege_ok hp, uniform_of_agree hw, hc, Bool.false_eq_true, if_false])

theorem ssetGroup_of_differ {n m : Nat} (hn : (e.act g).getLsbD n = true) (hm : (e.act g).getLsbD m = true)
    (hne : (e.g.lane n).word (e.v a) ≠ (e.g.lane m).word (e.v a)) : ssetGroup g a check put s = .next (e.takeFault .operand s) :=
  inWord_error he (by simp only [privilege_ok hp, uniform_of_differ (f := fun l => l.word (e.v a)) hn hm hne])

theorem ssetGroup_of_inactive (hact : e.act g = 0) : ssetGroup g a check put s = .next (e.retire s) :=
  inWord_ok he (by simp only [privilege_ok hp, uniform_of_inactive _ hact])

end Privileged

/-- Settles O16: `%fflags` lane by lane, `%frnd` and `%ftrap` by whether the active lanes agree, differ or are none. -/
theorem ssetWords : Obligations.SsetWords := by
  unfold Obligations.SsetWords
  intro s e g a he hp
  refine ⟨ssetFflags_laneWord he hp, fun w hw hact => ?agree, fun n m hn hm hne => ?differ, ssetFtrap_faults_of_handler he, fun hact => ?inactive⟩
  case agree =>
    have hagree : e.agree g (fun l => l.word (e.v a)) w := ⟨hact, hw⟩
    refine ⟨fun hmode => ?_, fun hmode => ?_, fun hh => ?_⟩
    · exact groupWord_of he ((ssetFrnd_eq g a s).trans (ssetGroup_of_agree he hp hagree (decide_eq_true hmode))) fun _ => rfl
    · exact (ssetFrnd_eq g a s).trans (ssetGroup_of_illegal he hp hagree (decide_eq_false (by omega)))
    · exact groupWord_of he ((ssetFtrap_eq he hh).trans (ssetGroup_of_agree he hp hagree rfl)) fun _ => rfl
  case differ =>
    exact ⟨(ssetFrnd_eq g a s).trans (ssetGroup_of_differ he hp hn hm hne),
      fun hh => (ssetFtrap_eq he hh).trans (ssetGroup_of_differ he hp hn hm hne)⟩
  case inactive =>
    exact ⟨(ssetFrnd_eq g a s).trans (ssetGroup_of_inactive he hp hact),
      fun hh => (ssetFtrap_eq he hh).trans (ssetGroup_of_inactive he hp hact)⟩

end Sys2Proof.Machine
end

section
/-! SUPPORT. Proofs about the encoding (03, R29–R36, R40): a word is settled by the fixed bits of its row of the encoding tables and by what its fields hold;
an instruction's word fits its row, so that the decoder's questions about it have the answers that lead to that row, and every row that the decoder finds for
a word is the row that the word fits. -/

namespace Sys2Proof

/-! ### A row of the encoding tables, and the words that fit it -/

/-- A field of a row: how many bits it has, and the lowest. -/
structure FieldAt where
  len : Nat
  lo : Nat

/-- Bits of a word and what they hold. -/
structure BitsAt where
  lo : Nat
  len : Nat
  val : Nat

/-- The bit `p` lies in one of the fields. -/
def inField (fs : List FieldAt) (p : Nat) : Bool := fs.any fun f => f.lo ≤ p && p < f.lo + f.len

/-- What a word holds in each field, with the field's place, as `packWord` takes it. -/
def readFields (w : Word) (fs : List FieldAt) : List (Nat × Nat) := fs.map fun f => ((fieldOf w f.lo f.len).toNat, f.lo)

/-- A word fits a row: outside the fields it has the row's fixed bits, and the fields hold `vs`. -/
structure FitsRow (w : Word) (base : Nat) (fs : List FieldAt) (vs : List (Nat × Nat)) : Prop where
  fixed : ∀ p < 32, inField fs p = false → w.getLsbD p = base.testBit p
  fields : readFields w fs = vs

/-- The fields follow each other downwards and do not overlap, and the fixed bits are zero there. -/
def apart (base : Nat) : List FieldAt → Bool
  | [] => true
  | f :: fs => base / 2 ^ f.lo % 2 ^ f.len == 0 && fs.all (fun g => g.lo + g.len ≤ f.lo) && apart base fs

/-- The row of a 32-bit word. -/
def rowOk (base : Nat) (fs : List FieldAt) : Bool := apart base fs && fs.all fun f => f.lo + f.len ≤ 32

/-- Operands of the widths of the fields, each at its field's place. -/
inductive Placed : List FieldAt → List (Nat × Nat) → Prop
  | nil : Placed [] []
  | cons {n lo : Nat} {fs : List FieldAt} {vs : List (Nat × Nat)} (v : BitVec n) (rest : Placed fs vs) : Placed (⟨n, lo⟩ :: fs) ((v.toNat, lo) :: vs)

theorem apart_cons {base : Nat} {f : FieldAt} {fs : List FieldAt} :
    apart base (f :: fs) = true ↔ base / 2 ^ f.lo % 2 ^ f.len = 0 ∧ (∀ g ∈ fs, g.lo + g.len ≤ f.lo) ∧ apart base fs = true := by
  simp only [apart, Bool.and_eq_true, beq_iff_eq, List.all_eq_true, decide_eq_true_eq, and_assoc]

theorem inField_iff {fs : List FieldAt} {p : Nat} : inField fs p = true ↔ ∃ f ∈ fs, f.lo ≤ p ∧ p < f.lo + f.len := by
  simp only [inField, List.any_eq_true, Bool.and_eq_true, decide_eq_true_eq]

theorem inField_cons_eq_false {f : FieldAt} {fs : List FieldAt} {p : Nat} :
    inField (f :: fs) p = false ↔ ¬(f.lo ≤ p ∧ p < f.lo + f.len) ∧ inField fs p = false := by
  simp only [← Bool.not_eq_true, inField_iff, List.exists_mem_cons_iff, not_or]

theorem getLsbD_fieldOf (w : Word) (lo n j : Nat) : (fieldOf w lo n).getLsbD j = (decide (j < n) && w.getLsbD (lo + j)) := by
  rw [fieldOf, BitVec.getLsbD_ofNat, Nat.testBit_div_two_pow, BitVec.getLsbD, Nat.add_comm]

/-- Its row and what its fields hold settle a word. -/
theorem FitsRow.unique {w w' : Word} {base : Nat} {fs : List FieldAt} {vs : List (Nat × Nat)} (h : FitsRow w base fs vs) (h' : FitsRow w' base fs vs) :
    w = w' := by
  refine BitVec.eq_of_getLsbD_eq fun p hp => ?_
  cases hin : inField fs p with
  | false => rw [h.fixed p hp hin, h'.fixed p hp hin]
  | true =>
    obtain ⟨f, hf, hlo, hhi⟩ := inField_iff.mp hin
    have hread := List.map_inj_left.mp (h.fields.trans h'.fields.symm) f hf
    have hfield : fieldOf w f.lo f.len = fieldOf w' f.lo f.len := BitVec.eq_of_toNat_eq (congrArg Prod.fst hread)
    have hbit := congrArg (fun v => v.getLsbD (p - f.lo)) hfield
    have hj : p - f.lo < f.len := by omega
    simpa only [getLsbD_fieldOf, decide_eq_true hj, Bool.true_and, Nat.add_sub_cancel' hlo] using hbit

/-! ### The word that an encoding puts together -/

theorem testBit_add_field {base lo n v : Nat} (hz : base / 2 ^ lo % 2 ^ n = 0) (hv : v < 2 ^ n) (p : Nat) :
    (base + v * 2 ^ lo).testBit p = if lo ≤ p ∧ p < lo + n then v.testBit (p - lo) else base.testBit p := by
  have hlow : base % 2 ^ lo < 2 ^ lo := Nat.mod_lt _ (Nat.two_pow_pos lo)
  have hbase : base = 2 ^ lo * (2 ^ n * (base / 2 ^ lo / 2 ^ n) + 0) + base % 2 ^ lo := by
    rw [← hz, Nat.div_add_mod, Nat.div_add_mod]
  have hsum : base + v * 2 ^ lo = 2 ^ lo * (2 ^ n * (base / 2 ^ lo / 2 ^ n) + v) + base % 2 ^ lo := by
    rw [Nat.add_zero] at hbase
    rw [Nat.mul_add, Nat.mul_comm v, Nat.add_right_comm, ← hbase]
  rw [hsum]
  conv_rhs => rw [hbase]
  simp only [Nat.testBit_two_pow_mul_add _ hlow, Nat.testBit_two_pow_mul_add _ hv, Nat.testBit_two_pow_mul_add _ (Nat.two_pow_pos n)]
  grind

/-- A filled field leaves the fields below it zero. -/
theorem apart_add_field {base lo : Nat} (v : Nat) {fs : List FieldAt} (hlow : ∀ g ∈ fs, g.lo + g.len ≤ lo) (hok : apart base fs = true) :
    apart (base + v * 2 ^ lo) fs = true := by
  induction fs with
  | nil => rfl
  | cons f fs ih =>
    obtain ⟨hf, hapart, htail⟩ := apart_cons.mp hok
    obtain ⟨k, hk⟩ := Nat.exists_eq_add_of_le (hlow f List.mem_cons_self)
    have hmul : v * 2 ^ lo = 2 ^ f.lo * (2 ^ f.len * (v * 2 ^ k)) := by rw [hk]; ring
    refine apart_cons.mpr ⟨?_, hapart, ih (fun g hg => hlow g (List.mem_cons_of_mem _ hg)) htail⟩
    rw [hmul, Nat.add_mul_div_left _ _ (Nat.two_pow_pos _), Nat.add_mul_mod_self_left, hf]

section Packed
variable {base : Nat} {fs : List FieldAt} {vs : List (Nat × Nat)}

theorem testBit_packWord_fixed (hp : Placed fs vs) (hok : apart base fs = true) {p : Nat} (hout : inField fs p = false) :
    (packWord base vs).testBit p = base.testBit p := by
  induction hp generalizing base with
  | nil => rfl
  | cons v _ ih =>
    obtain ⟨hz, hlow, htail⟩ := apart_cons.mp hok
    obtain ⟨hhead, hrest⟩ := inField_cons_eq_false.mp hout
    rw [packWord, ih (apart_add_field v.toNat hlow htail) hrest, testBit_add_field hz v.isLt, if_neg hhead]

theorem getLsbD_packWord {p : Nat} (hp : p < 32) : (BitVec.ofNat 32 (packWord base vs)).getLsbD p = (packWord base vs).testBit p := by
  rw [BitVec.getLsbD_ofNat, decide_eq_true hp, Bool.true_and]

theorem readFields_packWord (hp : Placed fs vs) (hok : apart base fs = true) (h32 : ∀ f ∈ fs, f.lo + f.len ≤ 32) :
    readFields (BitVec.ofNat 32 (packWord base vs)) fs = vs := by
  induction hp generalizing base with
  | nil => rfl
  | @cons n lo fs vs v rest ih =>
    obtain ⟨hz, hlow, htail⟩ := apart_cons.mp hok
    have hok' := apart_add_field v.toNat hlow htail
    have hhead : fieldOf (BitVec.ofNat 32 (packWord (base + v.toNat * 2 ^ lo) vs)) lo n = v := by
      refine BitVec.eq_of_getLsbD_eq fun j hj => ?_
      have hout : inField fs (lo + j) = false := by
        rw [← Bool.not_eq_true, inField_iff]
        rintro ⟨g, hg, -, hhi⟩
        exact absurd ((hlow g hg).trans (Nat.le_add_right lo j)) hhi.not_ge
      have hlt : lo + j < 32 := (Nat.add_lt_add_left hj lo).trans_le (h32 _ List.mem_cons_self)
      rw [getLsbD_fieldOf, decide_eq_true hj, Bool.true_and, getLsbD_packWord hlt, testBit_packWord_fixed rest hok' hout,
        testBit_add_field hz v.isLt, if_pos ⟨Nat.le_add_right lo j, Nat.add_lt_add_left hj lo⟩, Nat.add_sub_cancel_left, BitVec.getLsbD]
    exact List.cons_eq_cons.mpr ⟨congrArg (·.toNat, lo) hhead, ih hok' fun f hf => h32 f (List.mem_cons_of_mem _ hf)⟩

/-- The word that an encoding puts together fits its row. -/
theorem fitsRow_packWord (hp : Placed fs vs) (hok : rowOk base fs = true) : FitsRow (BitVec.ofNat 32 (packWord base vs)) base fs vs := by
  simp only [rowOk, Bool.and_eq_true, List.all_eq_true, decide_eq_true_eq] at hok
  exact ⟨fun _ hlt hout => (getLsbD_packWord hlt).trans (testBit_packWord_fixed hp hok.1 hout), readFields_packWord hp hok.1 hok.2⟩

end Packed

/-! ### The decoder's questions -/

/-- What is known of a word. -/
def Known (w : Word) (ks : List BitsAt) : Prop := ∀ k ∈ ks, bitsAre w.toNat k.lo k.len k.val = true

/-- A condition of the decoder asks whether the word has all of these bits. -/
inductive Asks (w : Word) : Bool → List BitsAt → Prop
  | bits {lo len val : Nat} : Asks w (bitsAre w.toNat lo len val) [⟨lo, len, val⟩]
  | both {a b : Bool} {ks ks' : List BitsAt} : Asks w a ks → Asks w b ks' → Asks w (a && b) (ks ++ ks')

theorem known_append {w : Word} {ks ks' : List BitsAt} : Known w (ks ++ ks') ↔ Known w ks ∧ Known w ks' := List.forall_mem_append

theorem Asks.iff_known {w : Word} {b : Bool} {ks : List BitsAt} (h : Asks w b ks) : b = true ↔ Known w ks := by
  induction h with
  | bits => simp only [Known, List.forall_mem_singleton]
  | both _ _ iha ihb => rw [Bool.and_eq_true, iha, ihb, known_append]

theorem bitsAre_iff {w : Word} {lo len val : Nat} :
    bitsAre w.toNat lo len val = true ↔ val < 2 ^ len ∧ ∀ j < len, w.getLsbD (lo + j) = val.testBit j := by
  have hbit (j : Nat) : (w.toNat / 2 ^ lo % 2 ^ len).testBit j = (decide (j < len) && w.getLsbD (lo + j)) := by
    rw [Nat.testBit_mod_two_pow, Nat.testBit_div_two_pow, BitVec.getLsbD, Nat.add_comm]
  rw [bitsAre, beq_iff_eq]
  refine ⟨fun h => ⟨h ▸ Nat.mod_lt _ (Nat.two_pow_pos len), fun j hj => ?_⟩, fun ⟨hval, h⟩ => Nat.eq_of_testBit_eq fun j => ?_⟩
  · rw [← h, hbit, decide_eq_true hj, Bool.true_and]
  · rw [hbit]
    by_cases hj : j < len
    · rw [decide_eq_true hj, Bool.true_and, h j hj]
    · rw [decide_eq_false hj, Bool.false_and, Nat.testBit_lt_two_pow (hval.trans_le (Nat.pow_le_pow_right two_pos (not_lt.mp hj)))]

/-! ### What a row answers -/

/-- The bits `k` lie outside the fields of a row, and are as `k` says. -/
def rowHas (base : Nat) (fs : List FieldAt) (k : BitsAt) : Bool :=
  k.val < 2 ^ k.len && k.lo + k.len ≤ 32 && (List.range k.len).all fun j => !inField fs (k.lo + j) && base.testBit (k.lo + j) == k.val.testBit j

/-- One of the bits `k` lies outside the fields of a row, and is not as `k` says. -/
def rowLacks (base : Nat) (fs : List FieldAt) (k : BitsAt) : Bool :=
  (List.range k.len).any fun j => k.lo + j < 32 && !inField fs (k.lo + j) && base.testBit (k.lo + j) != k.val.testBit j

/-- What the fixed bits of a row alone say to a question. -/
def rowAnswer (base : Nat) (fs : List FieldAt) (ks : List BitsAt) : Option Bool :=
  if ks.all (rowHas base fs) then some true else if ks.any (rowLacks base fs) then some false else none

section
variable {w : Word} {base : Nat} {fs : List FieldAt} {vs : List (Nat × Nat)} (h : FitsRow w base fs vs)
include h

theorem FitsRow.bitsAre_of_rowHas {k : BitsAt} (hk : rowHas base fs k = true) : bitsAre w.toNat k.lo k.len k.val = true := by
  simp only [rowHas, Bool.and_eq_true, decide_eq_true_eq, List.all_eq_true, List.mem_range, Bool.not_eq_true', beq_iff_eq] at hk
  obtain ⟨⟨hval, h32⟩, hbits⟩ := hk
  exact bitsAre_iff.mpr ⟨hval, fun j hj => (h.fixed _ (by omega) (hbits j hj).1).trans (hbits j hj).2⟩

theorem FitsRow.not_bitsAre_of_rowLacks {k : BitsAt} (hk : rowLacks base fs k = true) : ¬bitsAre w.toNat k.lo k.len k.val = true := by
  simp only [rowLacks, List.any_eq_true, List.mem_range, Bool.and_eq_true, decide_eq_true_eq, Bool.not_eq_true', bne_iff_ne] at hk
  obtain ⟨j, hj, ⟨h32, hout⟩, hne⟩ := hk
  exact fun hw => hne ((h.fixed _ h32 hout).symm.trans ((bitsAre_iff.mp hw).2 j hj))

theorem FitsRow.answer {b a : Bool} {ks : List BitsAt} (hb : Asks w b ks) (ha : rowAnswer base fs ks = some a) : b = a := by
  rw [rowAnswer] at ha
  split at ha
  next hall =>
    cases ha
    exact hb.iff_known.mpr fun k hk => h.bitsAre_of_rowHas (List.all_eq_true.mp hall k hk)
  next =>
    split at ha
    next hany =>
      cases ha
      obtain ⟨k, hk, hlacks⟩ := List.any_eq_true.mp hany
      exact Bool.eq_false_iff.mpr fun htrue => h.not_bitsAre_of_rowLacks hlacks (hb.iff_known.mp htrue k hk)
    next => cases ha

/-- The decoder goes the way that the row says. -/
theorem FitsRow.ask {b a : Bool} {ks : List BitsAt} {x y r : Option Instr} (hb : Asks w b ks) (ha : rowAnswer base fs ks = some a)
    (hr : cond a x y = r) : (if b then x else y) = r := by
  rw [h.answer hb ha, ← hr, Bool.cond_eq_ite]

theorem FitsRow.op (hop : rowHas base fs ⟨25, 7, base / 2 ^ 25⟩ = true) : w.toNat / 2 ^ 25 = base / 2 ^ 25 := by
  have hw := h.bitsAre_of_rowHas hop
  rw [bitsAre, beq_iff_eq] at hw
  have hlt : w.toNat / 2 ^ 25 < 2 ^ 7 := Nat.div_lt_of_lt_mul w.isLt
  rwa [Nat.mod_eq_of_lt hlt] at hw

end

/-! ### From an instruction to its word and back -/

/-- The word that an encoding puts together is decoded to an instruction if every word that fits its row is. -/
theorem decodeRow_packWord {i : Instr} {base : Nat} {fs : List FieldAt} {vs : List (Nat × Nat)} (hp : Placed fs vs) (hok : rowOk base fs = true)
    (hop : rowHas base fs ⟨25, 7, base / 2 ^ 25⟩ = true) (hrow : ∀ w, FitsRow w base fs vs → decodeAt (base / 2 ^ 25) w = some i) :
    decodeRow (BitVec.ofNat 32 (packWord base vs)) = some i := by
  have hfits := fitsRow_packWord hp hok
  rw [decodeRow, hfits.op hop]
  exact hrow _ hfits

/-- THE WORD OF AN INSTRUCTION IS DECODED TO IT: every question on the way is answered by the row, and the fields give the operands. -/
theorem decodeRow_encode {i : Instr} {w : Word} (hw : encode i = some w) : decodeRow w = some i := by
  -- Events and commands have no word; of each other instruction the word stands as its encoding puts it together.
  cases i <;> cases hw
  all_goals
    refine decodeRow_packWord (by repeat constructor) (by decide) (by decide) fun w h => ?_
    -- The operands, read off the fields; then the OP, and one question after another down to the row.
    have hfields := h.fields
    simp only [readFields, List.map_cons, List.map_nil, List.cons.injEq, Prod.mk.injEq, BitVec.toNat_inj, and_true] at hfields
    simp +decide only [decodeAt, decodeFrom00, decodeFrom10, decodeFrom20, decodeFrom30, decodeFrom40, decodeFrom50, decodeFrom60, decodeFrom70, ↓reduceIte]
    repeat refine h.ask (by repeat constructor) rfl ?_
    change some _ = some _
    simp only [hfields]

/-! ### From a word to its instruction and back -/

/-- The bits outside the fields of a row are known, and as the row has them. -/
def pinned (base : Nat) (fs : List FieldAt) (ks : List BitsAt) : Bool :=
  (List.range 32).all fun p => inField fs p || ks.any fun k => k.lo ≤ p && p < k.lo + k.len && base.testBit p == k.val.testBit (p - k.lo)

theorem fitsRow_of_known {w : Word} {base : Nat} {fs : List FieldAt} {ks : List BitsAt} (hk : Known w ks) (hpin : pinned base fs ks = true) :
    FitsRow w base fs (readFields w fs) := by
  refine ⟨fun p hp hout => ?_, rfl⟩
  simp only [pinned, List.all_eq_true, List.mem_range, Bool.or_eq_true, List.any_eq_true, Bool.and_eq_true, decide_eq_true_eq, beq_iff_eq] at hpin
  obtain ⟨k, hmem, ⟨hlo, hhi⟩, hbit⟩ := (hpin p hp).resolve_left (by rw [hout]; exact Bool.false_ne_true)
  have hw := (bitsAre_iff.mp (hk k hmem)).2 (p - k.lo) (by omega)
  rw [hbit, ← hw, Nat.add_sub_cancel' hlo]

/-- THE DECODER, QUESTION BY QUESTION: with `ks` known of the word, each row that it may still find is one whose fixed bits are known by then, whose
operands are the word's own fields, and which the encoder has for the instruction. -/
inductive FindsRows (w : Word) : List BitsAt → Option Instr → Prop
  | none {ks : List BitsAt} : FindsRows w ks none
  | row {ks : List BitsAt} {i : Instr} {base : Nat} {fs : List FieldAt} {vs : List (Nat × Nat)} (henc : encode i = some (BitVec.ofNat 32 (packWord base vs)))
      (hp : Placed fs vs) (hread : readFields w fs = vs) (hok : rowOk base fs = true) (hpin : pinned base fs ks = true) : FindsRows w ks (some i)
  | ask {ks ks' : List BitsAt} {b : Bool} {x y : Option Instr} (hb : Asks w b ks') (hx : FindsRows w (ks' ++ ks) x) (hy : FindsRows w ks y) :
      FindsRows w ks (if b then x else y)
  | op {ks : List BitsAt} {k : Nat} {x y : Option Instr} (hx : FindsRows w (⟨25, 7, k⟩ :: ks) x) (hy : FindsRows w ks y) :
      FindsRows w ks (if w.toNat / 2 ^ 25 = k then x else y)
  | range {ks : List BitsAt} {k : Nat} {x y : Option Instr} (hx : FindsRows w ks x) (hy : FindsRows w ks y) :
      FindsRows w ks (if w.toNat / 2 ^ 25 < k then x else y)

/-- What is found is encoded as the word. -/
theorem FindsRows.encode_eq {w : Word} {ks : List BitsAt} {o : Option Instr} (h : FindsRows w ks o) (hk : Known w ks) {i : Instr} (hi : o = some i) :
    encode i = some w := by
  induction h with
  | none => cases hi
  | row henc hp hread hok hpin =>
    cases hi
    rw [henc, (fitsRow_packWord hp hok).unique (hread ▸ fitsRow_of_known hk hpin)]
  | ask hb _ _ ihx ihy =>
    split at hi
    next hyes => exact ihx (known_append.mpr ⟨hb.iff_known.mp hyes, hk⟩) hi
    next => exact ihy hk hi
  | @op _ k _ _ _ _ ihx ihy =>
    split at hi
    next heq =>
      have hop : bitsAre w.toNat 25 7 k = true := by
        rw [bitsAre, beq_iff_eq, heq, Nat.mod_eq_of_lt (by omega)]
      exact ihx (List.forall_mem_cons.mpr ⟨hop, hk⟩) hi
    next => exact ihy hk hi
  | range _ _ ihx ihy =>
    split at hi
    next => exact ihx hk hi
    next => exact ihy hk hi

/-- The decoder's tables, entry by entry: each constructor of `FindsRows` is one shape of entry, and its conditions on a row are computed. -/
theorem findsRows_decodeRow (w : Word) : FindsRows w [] (decodeRow w) := by
  repeat' constructor

theorem encode_of_decodeRow {w : Word} {i : Instr} (h : decodeRow w = some i) : encode i = some w :=
  (findsRows_decodeRow w).encode_eq (fun _ hk => nomatch hk) h

/-! ### Decoding with the checks of R30 -/

theorem decode_eq_ok {w : Word} {i : Instr} : decode w = .ok i ↔ decodeRow w = some i := by
  rw [decode]
  cases decodeRow w with
  | some j => exact ⟨fun h => by cases h; rfl, fun h => by cases h; rfl⟩
  | none =>
    refine ⟨fun h => ?_, nofun⟩
    dsimp only at h
    split at h <;> cases h

theorem decodeWf_eq_ok {w : Word} {i : Instr} : decodeWf w = .ok i ↔ decodeRow w = some i ∧ i.wf = true := by
  rw [← decode_eq_ok, decodeWf]
  cases decode w with
  | error e => exact ⟨nofun, fun h => nomatch h.1⟩
  | ok j =>
    simp only [Except.ok.injEq]
    split
    next hwf => exact ⟨fun h => by cases h; exact ⟨rfl, hwf⟩, fun h => congrArg _ h.1⟩
    next hwf => exact ⟨nofun, fun ⟨hj, hi⟩ => absurd (hj ▸ hi) hwf⟩

theorem decodeWf_of_encode {i : Instr} {w : Word} (hw : encode i = some w) (hwf : i.wf = true) : decodeWf w = .ok i :=
  decodeWf_eq_ok.mpr ⟨decodeRow_encode hw, hwf⟩

/-- Settles O57: the word of an instruction fits the row of its encoding, along which the decoder finds the instruction; and a row that the decoder finds for
a word is one that the word fits. -/
theorem decodeEncode : Obligations.DecodeEncode := by
  unfold Obligations.DecodeEncode
  refine ⟨fun i hwf hword => ?_, fun w i h => ?_⟩
  · obtain ⟨w, hw⟩ := Option.isSome_iff_exists.mp hword
    exact ⟨w, hw, decodeWf_of_encode hw hwf⟩
  · have hw := encode_of_decodeRow (decodeWf_eq_ok.mp h).1
    exact ⟨Option.isSome_iff_exists.mpr ⟨w, hw⟩, hw⟩

/-- Settles O56: each word is the one that its instruction is encoded as. -/
theorem decodedWords : Obligations.DecodedWords := by
  unfold Obligations.DecodedWords
  and_intros
  all_goals exact decodeWf_of_encode rfl rfl

end Sys2Proof
end

section
/-! SUPPORT. Proofs about the operand forms and the hint words (03, R33–R36; 06, R86, R89). -/

namespace Sys2Proof.Machine

/-! ### Operand forms (03, R33) -/

/-- Settles O2: without an HIMM by the value of X, with one by the operand that it names. -/
theorem operandForms : Obligations.OperandForms := by
  unfold Obligations.OperandForms
  intro e a b x
  refine ⟨fun hnone hx => ?_, fun hnone hx => ?_, fun hi hsome => ?_, fun hi hsome => ?_,
    fun i l => ⟨fun hnone => ?_, fun hi hsome => ?_, fun hi hsome => ?_⟩⟩
  · rw [Env.operands, hnone]; exact if_pos hx
  · rw [Env.operands, hnone]; exact if_neg (by rw [hx]; decide)
  · rw [Env.operands, hsome]; rfl
  · rw [Env.operands, hsome]; rfl
  · rw [Env.operandsI, hnone]
  · rw [Env.operandsI, hsome]; rfl
  · rw [Env.operandsI, hsome]; rfl

/-! ### Arrival changes nothing of a group but its paths and frames (06, R83, R84) -/

/-- `g'` is `g` but for its slots, its JR and its stack. -/
def OnlyPaths (g g' : Group) : Prop := g' = { g with a := g'.a, b := g'.b, jr := g'.jr, stack := g'.stack }

theorem OnlyPaths.trans {g g' g'' : Group} (h : OnlyPaths g g') (h' : OnlyPaths g' g'') : OnlyPaths g g'' := by
  rw [OnlyPaths] at h h' ⊢
  rw [h', h]

theorem onlyPaths_setJr (g : Group) (f : Option Frame) : OnlyPaths g { g with jr := f } := rfl

theorem onlyPaths_setSlot (g : Group) (b : Bool) (x : Slot) : OnlyPaths g (g.setSlot b x) := by cases b <;> rfl

theorem onlyPaths_popPath (g : Group) (b : Bool) : OnlyPaths g (g.popPath b) := by
  rw [Group.popPath]
  split
  · split
    · exact (onlyPaths_setSlot g b _).trans rfl
    · rfl
  · rfl

theorem onlyPaths_popFrame (g : Group) : OnlyPaths g g.popFrame := by
  rw [Group.popFrame]
  split
  · split <;> rfl
  · rfl

/-- The paths and frames that a merge takes from the stack. -/
theorem onlyPaths_pops (g : Group) (b : Bool) : OnlyPaths g ((g.popPath b).popPath (!b)).popFrame :=
  ((onlyPaths_popPath g b).trans (onlyPaths_popPath _ _)).trans (onlyPaths_popFrame _)

theorem onlyPaths_merge (n : Nat) (b : Bool) (g : Group) : OnlyPaths g (Group.merge n b g) := by
  induction n generalizing g with
  | zero => rfl
  | succ n ih =>
    rw [Group.merge]
    split
    · rfl
    · split
      · rfl
      · next f _ =>
        dsimp only
        split
        · have hpops := ((onlyPaths_setJr g none).trans (onlyPaths_setSlot _ b (Slot.ofPath ⟨f.join, f.arrived, f.outer, f.line⟩))).trans (onlyPaths_pops _ b)
          split
          · split
            · exact hpops
            · exact ((hpops.trans (onlyPaths_setJr _ _)).trans (onlyPaths_setSlot _ b Slot.free)).trans (ih _)
          · exact hpops
        · have hpops := (onlyPaths_setJr g none).trans (onlyPaths_pops _ b)
          split
          · exact hpops.trans (ih _)
          · exact hpops

theorem onlyPaths_arriveTest (g : Group) (b : Bool) : OnlyPaths g (g.arriveTest b) := by
  rw [Group.arriveTest]
  split
  · rfl
  · split
    · split
      · split
        · exact onlyPaths_setSlot ..
        · rfl
      · exact ((onlyPaths_setJr g _).trans (onlyPaths_setSlot _ b Slot.free)).trans (onlyPaths_merge ..)
    · rfl

theorem arriveTest_of_no_arrival {g : Group} {b : Bool} {q : Path} (hpath : (g.slot b).path = some q) (hmask : q.mask ≠ 0) (hjoin : q.join ≠ some q.pc) :
    g.arriveTest b = g := by
  rw [Group.arriveTest, hpath]
  refine if_neg fun h => ?_
  rw [Bool.or_eq_true, beq_iff_eq, beq_iff_eq] at h
  exact h.elim hmask hjoin

/-! ### A hint that is held (03, R34; 06, R86) -/

section Hold
variable (g : Group) (b : Bool) (h : Hints) (pc : DWord)

/-- Holding a hint changes nothing of a group but its paths and frames, and which slot keeps the issue. -/
theorem hold_eq : g.hold b h pc =
    { g with a := (g.hold b h pc).a, b := (g.hold b h pc).b, jr := (g.hold b h pc).jr, stack := (g.hold b h pc).stack, keep := (g.hold b h pc).keep } := by
  have hpaths := (onlyPaths_setSlot g b { g.slot b with path := (g.slot b).path.map (fun p => { p with pc := pc }), hints := h, again := false }).trans
    (onlyPaths_arriveTest _ b)
  rw [OnlyPaths] at hpaths
  rw [Group.hold]
  dsimp only
  rw [hpaths]

@[simp] theorem hold_gid : (g.hold b h pc).gid = g.gid := by rw [hold_eq]
@[simp] theorem hold_lanes : (g.hold b h pc).lanes = g.lanes := by rw [hold_eq]
@[simp] theorem hold_windows : (g.hold b h pc).windows = g.windows := by rw [hold_eq]
@[simp] theorem hold_marked : (g.hold b h pc).marked = g.marked := by rw [hold_eq]

variable {g b h pc}

/-- A slot whose path does not arrive at its join holds the run and keeps the issue of its group. -/
theorem hold_of_no_arrival {q : Path} (hpath : (g.slot b).path = some q) (hmask : q.mask ≠ 0) (hjoin : q.join ≠ some pc) (hcount : h.count ≠ 0) :
    g.hold b h pc = { g.setSlot b { g.slot b with path := some { q with pc := pc }, hints := h, again := false } with keep := some b } := by
  rw [Group.hold]
  dsimp only
  rw [hpath, Option.map_some, arriveTest_of_no_arrival (q := { q with pc := pc }) (by rw [Group.setSlot_slot]) hmask hjoin, Group.setSlot_slot, if_neg hcount]

end Hold

section HoldState
variable (e : Env) (h : Hints) (s : State)

theorem group_hold {g : Group} (hg : s.group? e.g.gid = some g) : (e.hold h s).group? e.g.gid = some (g.hold e.iss.slotB h (e.iss.pc + 4)) := by
  show State.group? (s.updGroup e.g.gid _) e.g.gid = _
  rw [group_updGroup _ _ _ fun _ => hold_gid .., hg, Option.map_some]

theorem group_hold_other {k : Nat} (hk : k ≠ e.g.gid) : (e.hold h s).group? k = s.group? k :=
  group_updGroup_other _ _ _ _ (fun _ => hold_gid ..) hk

end HoldState

section HintWord
variable {s : State} {e : Env} (he : s.env = some e) {h : Hints}
include he

/-- A hint word but for HIVL: its slot holds the run after it, and nothing else changes. -/
theorem holdHint_holds {i : Instr} (hexec : exec i s = holdHint i s) (htake : e.hints.take e.iss.pc i = some h) (hcount : h.count ≠ 0) :
    ∃ t grp, exec i s = .next t ∧ OnlyGroup s t e.g.gid ∧ t.group? e.g.gid = some grp ∧ grp.lanes = e.g.lanes ∧ grp.windows = e.g.windows ∧
      ∀ q, (e.g.slot e.iss.slotB).path = some q → q.mask ≠ 0 → q.join ≠ some (e.iss.pc + 4) →
        grp.slot e.iss.slotB = { e.g.slot e.iss.slotB with path := some { q with pc := e.iss.pc + 4 }, hints := h, again := false } ∧
        grp.slot (!e.iss.slotB) = e.g.slot (!e.iss.slotB) ∧ grp.keep = some e.iss.slotB := by
  have hnext : exec i s = .next (e.hold h s) := hexec.trans (inWord_ok he (by rw [htake]))
  refine ⟨_, _, hnext, ⟨rfl, fun k hk => group_hold_other e h s hk⟩, group_hold e h s (env_group he), hold_lanes .., hold_windows ..,
    fun q hpath hmask hjoin => ?_⟩
  rw [hold_of_no_arrival hpath hmask hjoin hcount]
  exact ⟨Group.setSlot_slot .., Group.setSlot_other .., rfl⟩

/-- What HIVL does to its group before the hint is held: chunks are marked, and tagged registers may be dropped. -/
def Env.mark (e : Env) (s : State) (m : BitVec 16) (g : Group) : Group := { g.mayDrop s with marked := m &&& budgetChunks (e.g.regs e.k) }

theorem exec_hivl_eq {m : BitVec 16} (htake : e.hints.take e.iss.pc (.hivl m) = some h) :
    exec (.hivl m) s = .next (e.hold h (s.updGroup e.g.gid (e.mark s m))).tick :=
  (exec_hivl s).trans (inWord_ok he (by simp only [htake]; rfl))

theorem hivl_holds {m : BitVec 16} (htake : e.hints.take e.iss.pc (.hivl m) = some h) (hcount : h.count ≠ 0) :
    ∃ t grp, exec (.hivl m) s = .next t ∧ OnlyGroupAndFree s t e.g.gid ∧ t.group? e.g.gid = some grp ∧
      grp.marked = m &&& budgetChunks (e.g.regs e.k) ∧ grp.lanes = e.g.lanes ∧
      ∀ q, (e.g.slot e.iss.slotB).path = some q → q.mask ≠ 0 → q.join ≠ some (e.iss.pc + 4) →
        (grp.slot e.iss.slotB).path = some { q with pc := e.iss.pc + 4 } ∧ (grp.slot e.iss.slotB).hints = h ∧ grp.keep = some e.iss.slotB := by
  have hmark : (s.updGroup e.g.gid (e.mark s m)).group? e.g.gid = some (e.mark s m e.g) := by
    rw [group_updGroup _ _ (e.mark s m) fun _ => rfl, env_group he, Option.map_some]
  refine ⟨_, _, exec_hivl_eq he htake, ⟨rfl, fun k hk => ?_⟩, group_hold e h _ hmark, hold_marked .., hold_lanes .., fun q hpath hmask hjoin => ?_⟩
  · exact (group_hold_other e h _ hk).trans (group_updGroup_other _ _ _ _ (fun _ => rfl) hk)
  · rw [hold_of_no_arrival (g := e.mark s m e.g) hpath hmask hjoin hcount]
    exact ⟨congrArg Slot.path (Group.setSlot_slot ..), congrArg Slot.hints (Group.setSlot_slot ..), rfl⟩

end HintWord

/-- Settles O52: the hints but for HIVL by what a held hint leaves; HIVL marks its chunks and draws a free value besides. -/
theorem hintWords : Obligations.HintWords := by
  unfold Obligations.HintWords
  intro s e v o m x y p c r he h
  have hcount : e.hints.count + 1 ≠ 0 := Nat.succ_ne_zero _
  refine ⟨?_, hivl_holds he rfl hcount⟩
  simp only [List.forall_mem_cons]
  refine ⟨?himm, ?hoff, ?hgrd, ?hsem, ?hrnd, ?hsat, ?hdet, List.forall_mem_nil _⟩
  case himm | hoff | hgrd | hsem | hrnd | hsat | hdet => exact holdHint_holds he rfl rfl hcount

end Sys2Proof.Machine
end

section
/-! SUPPORT. Proofs about the return of a load's or an ATOM's bytes (03, R37, R38; 11, R197, R202). -/

namespace Sys2Proof.Machine

theorem live?_id {s : State} {id : Nat} {r : Request} (h : s.live? id = some r) : r.id = id := by
  have hfound : s.request? id = some r := by
    rw [State.live?] at h
    grind
  simpa using List.find?_some hfound

/-! ### Register bytes of a request -/

theorem writes_withLanes (g : Group) (ws : List LaneWrite) : g.writes ws = g.withLanes (g.writes ws).lanes := by
  induction ws generalizing g with
  | nil => rfl
  | cons w ws ih => exact ih (g.updLane w.lane fun l => l.put w.off w.bytes)

theorem lane_writes (g : Group) (ws : List LaneWrite) {n : Nat} (hn : n < g.lanes.length) :
    (g.writes ws).lane n = ws.foldl (fun k w => if w.lane = n then k.put w.off w.bytes else k) (g.lane n) := by
  induction ws generalizing g with
  | nil => rfl
  | cons w ws ih =>
    have hlane : (g.updLane w.lane fun l => l.put w.off w.bytes).lane n = if w.lane = n then (g.lane n).put w.off w.bytes else g.lane n := by
      rw [lane_updLane _ _ _ _ hn]
      by_cases hw : n = w.lane
      · rw [if_pos hw, if_pos hw.symm, hw]
      · rw [if_neg hw, if_neg (Ne.symm hw)]
    rw [List.foldl_cons, ← hlane]
    exact ih _ ((updLane_length ..).symm ▸ hn)

/-! ### The windows of a group when a word completes -/

/-- The windows of a group once the word of request `id` has completed. -/
def closedWindows (id : Nat) (ws : List Window) : List Window :=
  (ws.map fun w => if w.id == id then { w with complete := true } else w).filter fun w => !(w.complete && w.left == 0)

theorem mem_closedWindows {id : Nat} {ws : List Window} {w : Window} :
    w ∈ closedWindows id ws ↔ (w ∈ ws ∧ w.id ≠ id ∧ ¬(w.complete = true ∧ w.left = 0)) ∨
      ∃ v ∈ ws, v.id = id ∧ v.left ≠ 0 ∧ w = { v with complete := true } := by
  have hkept : (!(w.complete && w.left == 0)) = true ↔ ¬(w.complete = true ∧ w.left = 0) := by
    rw [Bool.not_eq_true', ← Bool.not_eq_true, Bool.and_eq_true, beq_iff_eq]
  rw [closedWindows, List.mem_filter, List.mem_map, hkept]
  constructor
  · rintro ⟨⟨v, hv, rfl⟩, hw⟩
    by_cases hid : v.id = id
    · rw [if_pos (beq_iff_eq.mpr hid)] at hw ⊢
      exact .inr ⟨v, hv, hid, fun h0 => hw ⟨rfl, h0⟩, rfl⟩
    · rw [if_neg (mt beq_iff_eq.mp hid)] at hw ⊢
      exact .inl ⟨hv, hid, hw⟩
  · rintro (⟨hmem, hid, hw⟩ | ⟨v, hv, hid, hleft, rfl⟩)
    · exact ⟨⟨w, hmem, if_neg (mt beq_iff_eq.mp hid)⟩, hw⟩
    · exact ⟨⟨v, hv, if_pos (beq_iff_eq.mpr hid)⟩, fun h => hleft h.2⟩

/-! ### Delivery -/

/-- A group when the bytes of request `id` are in its lanes. -/
def Group.delivered (g : Group) (id : Nat) (ws : List LaneWrite) : Group := { g.writes ws with windows := closedWindows id g.windows }

theorem writes_gid (g : Group) (ws : List LaneWrite) : (g.writes ws).gid = g.gid := by rw [writes_withLanes]; rfl

theorem deliver_groups (s : State) (r : Request) (ws : List LaneWrite) (k : Nat) : (s.deliver r ws).group? k =
    (s.updGroup r.gid fun g => g.delivered r.id ws).group? k := by
  have hwindows : ∀ g : Group, ({ g.writes ws with windows := closedWindows r.id (g.writes ws).windows } : Group) = g.delivered r.id ws := fun g => by
    rw [Group.delivered, writes_withLanes]; rfl
  show State.group? ((s.updGroup r.gid _).updGroup r.gid _) k = _
  rw [updGroup_updGroup _ _ _ _ fun g => writes_gid g ws]
  exact congrArg (fun f => (s.updGroup r.gid f).group? k) (funext hwindows)

/-- What a delivery changes: one group, and the request is over. -/
theorem deliver_eq {s : State} {r : Request} {g : Group} (hg : s.group? r.gid = some g) (ws : List LaneWrite) :
    s.deliver r ws = { s with groups := (s.deliver r ws).groups, requests := s.requests.filter fun q => q.id != r.id } ∧
    (∀ k, k ≠ r.gid → (s.deliver r ws).group? k = s.group? k) ∧ (s.deliver r ws).group? r.gid = some (g.delivered r.id ws) := by
  have hgid : ∀ g : Group, (g.delivered r.id ws).gid = g.gid := fun g => writes_gid g ws
  refine ⟨rfl, fun k hk => ?_, ?_⟩
  · rw [deliver_groups, group_updGroup_other _ _ _ _ hgid hk]
  · rw [deliver_groups, group_updGroup _ _ _ hgid, hg, Option.map_some]

theorem exec_loadDataReturn_of_load {s : State} {id : Nat} {r : Request} (hr : s.live? id = some r) {ws : List LaneWrite} {src : List RemotePart}
    (hj : r.job = .load ws [] src none) (x : RemoteReply) : exec (.loadDataReturn id x) s = .next (s.deliver r ws) := by
  simp only [exec_loadDataReturn, execLoadDataReturn, hr, hj]

theorem exec_atomResultReturn_of_atom {s : State} {id : Nat} {r : Request} (hr : s.live? id = some r) {ws : List LaneWrite} {dest : Nat}
    {acq : Option Scope} (hj : r.job = .atom ws dest [] acq) (x : RemoteReply) : exec (.atomResultReturn id x) s = .next (s.deliver r ws) := by
  simp only [exec_atomResultReturn, execAtomResultReturn, hr, hj, List.isEmpty_nil, if_true]

/-- Settles O39: both events deliver the bytes of their request. -/
theorem loadsAndAtomsDeliver : Obligations.LoadsAndAtomsDeliver := by
  unfold Obligations.LoadsAndAtomsDeliver
  intro s id r x g ws dest src acq i hr hg hi
  have hexec : exec i s = .next (s.deliver r ws) := by
    obtain ⟨rfl, hj⟩ | ⟨rfl, hj⟩ := hi
    · exact exec_loadDataReturn_of_load hr hj x
    · exact exec_atomResultReturn_of_atom hr hj x
  obtain rfl := live?_id hr
  obtain ⟨hframe, hothers, hgroup⟩ := deliver_eq hg ws
  refine ⟨_, _, hexec, hframe, hothers, hgroup, ?_, fun n hn => lane_writes g ws hn, fun w => mem_closedWindows⟩
  rw [Group.delivered, writes_withLanes]
  rfl

end Sys2Proof.Machine
end

section
/-! SUPPORT. Proofs about the words at the Thermos (04, R63–R71; 07, R131). -/

namespace Sys2Proof.Machine

/-! ### The end of a word (06, R84) -/

section Retire
variable {u : State} {e : Env}

theorem group_retire {g : Group} (hg : u.group? e.g.gid = some g) : (e.retire u).group? e.g.gid = some (g.goto e.iss.slotB (e.iss.pc + 4)) := by
  show State.group? (u.updGroup e.g.gid _) e.g.gid = _
  rw [group_updGroup _ _ _ fun _ => goto_gid .., hg, Option.map_some]

theorem group_retire_other {k : Nat} (hk : k ≠ e.g.gid) : (e.retire u).group? k = u.group? k :=
  group_updGroup_other u _ _ _ (fun _ => goto_gid ..) hk

@[simp] theorem group_submit (job : Job) (k : Nat) : (e.submit job u).group? k = u.group? k := rfl

@[simp] theorem requests_submit (job : Job) : (e.submit job u).requests = u.requests ++ [e.request u job] := rfl

@[simp] theorem requests_retire : (e.retire u).requests = u.requests := rfl

end Retire

/-! ### What a long-latency word leaves (03, R37) -/

section Launch
variable {u : State} {e : Env} (la : BitVec 4) (job : Job)

/-- The group of a word that goes on with a request: its window is open and its slot at the next word. -/
theorem group_launchLong {g : Group} (hg : u.group? e.g.gid = some g) : (e.launchLong la job u).group? e.g.gid =
    some ({ g with windows := g.windows ++ [e.window u la.toNat] }.goto e.iss.slotB (e.iss.pc + 4)) := by
  rw [Env.launchLong, Env.openWindow]
  refine group_retire ?_
  rw [group_submit, group_updGroup _ _ _ fun _ => by rfl, hg]
  rfl

theorem group_launchLong_other {k : Nat} (hk : k ≠ e.g.gid) : (e.launchLong la job u).group? k = u.group? k := by
  rw [Env.launchLong, Env.openWindow, group_retire_other hk, group_submit, group_updGroup_other _ _ _ _ (fun _ => by rfl) hk]

/-- A request takes of the state its number and its time alone. -/
theorem request_of_same {s t : State} (hfresh : t.fresh = s.fresh) (htime : t.time = s.time) : e.request t job = e.request s job := by
  rw [Env.request, Env.request, hfresh, htime]

theorem longWord_of {s : State} {i : Instr} (he : s.env = some e) (hexec : exec i s = .next (e.launchLong la job s)) : LongWord i s e la job :=
  ⟨_, hexec, rfl, fun _ hk => group_launchLong_other la job hk, group_launchLong la job (env_group he)⟩

end Launch

/-! ### The end of a sync interval (07, R131) -/

section Interval
variable {s : State} {e : Env} (he : s.env = some e) (hh : e.g.isHandler = false)
include hh

theorem endIntervals_of_not_handler (u : State) : u.endIntervals e.g = u.updGroup e.g.gid Group.nextInterval := by
  have ho : e.g.origins = none := by rwa [Group.isHandler, Option.isSome_eq_false_iff, Option.isNone_iff_eq_none] at hh
  rw [State.endIntervals, State.agents, ho]
  rfl

theorem group_endIntervals {u : State} (hu : u.group? e.g.gid = some e.g) : (u.endIntervals e.g).group? e.g.gid = some e.g.nextInterval := by
  rw [endIntervals_of_not_handler hh, group_updGroup _ _ _ fun _ => by rfl, hu, Option.map_some]

theorem group_endIntervals_other {u : State} {k : Nat} (hk : k ≠ e.g.gid) : (u.endIntervals e.g).group? k = u.group? k := by
  rw [endIntervals_of_not_handler hh, group_updGroup_other _ _ _ _ (fun _ => by rfl) hk]

/-- Ending the interval changes groups alone. -/
theorem endIntervals_frame (u : State) : u.endIntervals e.g = { u with groups := (u.endIntervals e.g).groups } := by
  rw [endIntervals_of_not_handler hh]
  rfl

theorem request_of_endIntervals (u : State) (job : Job) : e.request (u.endIntervals e.g) job = e.request u job :=
  request_of_same job (by rw [endIntervals_frame hh]) (by rw [endIntervals_frame hh])

theorem window_of_endIntervals (u : State) (la : Nat) : e.window (u.endIntervals e.g) la = e.window u la := by
  rw [Env.window, Env.window, endIntervals_frame hh]

include he

theorem settleWord_of {i : Instr} {la : BitVec 4} {job : Job} (hexec : exec i s = .next (e.launchLong la job (s.endIntervals e.g))) :
    SettleWord i s e la job := by
  refine ⟨_, hexec, ?_, fun k hk => ?_, ?_⟩
  · rw [launchLong_frame, request_of_endIntervals hh, endIntervals_frame hh]
  · rw [group_launchLong_other la job hk, group_endIntervals_other hh hk]
  · rw [group_launchLong la job (group_endIntervals hh (env_group he)), window_of_endIntervals hh]
    rfl

end Interval

/-! ### Handles (04, R63, R64) -/

/-- A handle without a bit outside bits 5:0 and 15:8 is the slot and the generation that it names. -/
theorem toNat_of_handle_bits {h : Word} (hbits : h &&& 0xFFFF00C0 = 0) : h.toNat = 256 * bits h.toNat 8 8 + bits h.toNat 0 6 := by
  have hand : h.toNat &&& 0xFFFF00C0 = 0 := by simpa using congrArg BitVec.toNat hbits
  have hhigh : h.toNat / 2 ^ 16 % 2 ^ 16 = 0 := by
    rw [← Nat.and_two_pow_sub_one_eq_mod, show 2 ^ 16 - 1 = 0xFFFF00C0 / 2 ^ 16 from rfl, ← Nat.and_div_two_pow, hand, Nat.zero_div]
  have hmid : (h.toNat &&& 0xFFFF00C0) / 2 ^ 6 % 2 ^ 2 = 0 := by rw [hand, Nat.zero_div, Nat.zero_mod]
  rw [Nat.and_div_two_pow, Nat.and_mod_two_pow, show 0xFFFF00C0 / 2 ^ 6 % 2 ^ 2 = 2 ^ 2 - 1 from rfl, Nat.and_two_pow_sub_one_eq_mod,
    Nat.mod_mod] at hmid
  have hlt := h.isLt
  simp only [bits]
  omega

theorem handle?_eq_some {c : Context} {h : Word} {b : Binding} (hb : c.handle? h = some b) :
    b ∈ c.bindings ∧ b.live = true ∧ b.capturing = true ∧ h.toNat = 256 * b.gen + b.slot := by
  unfold Context.handle? at hb
  split at hb
  · cases hb
  next hbits =>
    split at hb
    next x hfound =>
      split at hb
      next hx =>
        cases hb
        have hp := List.find?_some hfound
        simp only [Bool.and_eq_true, beq_iff_eq] at hx hp
        refine ⟨List.mem_of_find?_eq_some hfound, hp.2, hx.2, ?_⟩
        rw [hx.1, hp.1]
        exact toNat_of_handle_bits (by simpa using hbits)
      · cases hb
    · cases hb

/-! ### A window that is complete from the start (03, R38, R39) -/

@[simp] theorem openDone_zero (e : Env) (s : State) : e.openDone 0 s = s := rfl

section OpenDone
variable {u : State} {e : Env} (la : BitVec 4)

theorem group_openDone {g : Group} (hg : u.group? e.g.gid = some g) : (e.openDone la u).group? e.g.gid =
    some { g with windows := g.windows ++ if la = 0 then [] else [{ e.window u la.toNat with complete := true }] } := by
  rw [Env.openDone]
  split
  · rw [List.append_nil, hg]
  · show State.group? (u.updGroup e.g.gid _) e.g.gid = _
    rw [group_updGroup _ _ _ fun _ => by rfl, hg]
    rfl

theorem group_openDone_other {k : Nat} (hk : k ≠ e.g.gid) : (e.openDone la u).group? k = u.group? k := by
  rw [Env.openDone]
  split
  · rfl
  · exact group_updGroup_other _ _ _ _ (fun _ => by rfl) hk

/-- Such a window changes groups and the counter of free values. -/
theorem openDone_frame : e.openDone la u = { u with groups := (e.openDone la u).groups, fresh := (e.openDone la u).fresh } := by
  rw [Env.openDone]
  split <;> rfl

end OpenDone

/-! ### The requests of words with a handle (04, R63) -/

section Handle
variable {s : State} {e : Env} (he : s.env = some e) {g : BitVec 3} {a : BitVec 7} {la : BitVec 4} {settle : Bool}
  {f : Env → Binding → State → Except Halt State}
include he

theorem withHandle_inactive (hact : e.act g = 0) : withHandle g a 0 settle f s = .next (e.retire s) :=
  inWord_ok he (by simp only [uniform_of_inactive _ hact, openDone_zero])

variable {h : Word} (hagree : e.agree g (fun l => l.word (e.v a)) h)
include hagree

theorem withHandle_of_no_binding (hb : e.c.handle? h = none) : withHandle g a la settle f s = .next (e.takeFault .operand s) :=
  inWord_error he (by simp only [uniform_of_agree hagree, hb])

variable {b : Binding} (hb : e.c.handle? h = some b)
include hb

theorem withHandle_of_ok {t : State} (hfree : (settle && e.l.det) = false) (hf : f e b s = .ok t) : withHandle g a la settle f s = .next t :=
  inWord_ok he (by simp only [uniform_of_agree hagree, hb, hfree, Bool.not_false, if_true, hf])

theorem withHandle_of_error {x : Halt} (hfree : (settle && e.l.det) = false) (hf : f e b s = .error x) :
    withHandle g a la settle f s = .next (e.takeFault x s) :=
  inWord_error he (by simp only [uniform_of_agree hagree, hb, hfree, Bool.not_false, if_true, hf])

/-- In a deterministic launch a word that settles faults on a background binding. -/
theorem withHandle_of_background (hdet : e.l.det = true) (hback : b.desc.background = true) :
    withHandle g a la true f s = .next (e.takeFault .operand s) :=
  inWord_error he (by simp only [uniform_of_agree hagree, hb, hdet, hback, Bool.and_true, Bool.not_true, Bool.false_eq_true, if_false, if_true])

/-- In a deterministic launch a word that settles faults on a binding that has collapsed since the launch began. -/
theorem withHandle_of_collapsed (hdet : e.l.det = true) (hback : b.desc.background = false) {t : Nat} (hat : b.collapsedAt = some t)
    (hsince : e.l.began ≤ t) : withHandle g a la true f s = .next (e.takeFault (.word 0x09 (e.lowest g)) s) :=
  inWord_error he (by simp only [uniform_of_agree hagree, hb, hdet, hback, hat, Option.map_some, decide_eq_true hsince, Option.getD_some,
    Bool.and_true, Bool.not_true, Bool.false_eq_true, if_false, if_true])

end Handle

/-! ### The words (04, R66–R71) -/

/-- A selector is legal that names all lines, or a row or a column of C. -/
theorem selectorOk_iff (b : Binding) (sel : Word) : selectorOk b sel = true ↔
    bits sel.toNat 20 10 = 0 ∧ ((bits sel.toNat 30 2 = 0 ∧ bits sel.toNat 0 20 = 0) ∨
      (bits sel.toNat 30 2 = 1 ∧ bits sel.toNat 0 20 < b.desc.m) ∨ (bits sel.toNat 30 2 = 2 ∧ bits sel.toNat 0 20 < b.desc.n)) := by
  have hkind : bits sel.toNat 30 2 < 4 := Nat.mod_lt _ (by decide)
  rw [selectorOk, Bool.and_eq_true, beq_iff_eq]
  refine and_congr_right fun _ => ?_
  rcases (by omega : bits sel.toNat 30 2 = 0 ∨ bits sel.toNat 30 2 = 1 ∨ bits sel.toNat 30 2 = 2 ∨ bits sel.toNat 30 2 = 3) with hk | hk | hk | hk <;>
    simp [hk]

/-- Words that settle are not restricted outside deterministic launches (04, R60). -/
theorem settles_free {e : Env} (hdet : e.l.det = false) : (true && e.l.det) = false := by rw [hdet]; rfl

section Settling
variable {s : State} {e : Env} (he : s.env = some e) {g : BitVec 3} {d a : BitVec 7} {la : BitVec 4} {sc : BitVec 3} {h : Word} {b : Binding}
  (hagree : e.agree g (fun l => l.word (e.v a)) h) (hb : e.c.handle? h = some b)
include he hagree hb

theorem pstale_longWord : LongWord (.pstale g d a la) s e la (.pstatus false b.slot (e.v d) (e.act g)) :=
  longWord_of la _ he ((exec_pstale s).trans (withHandle_of_ok he hagree hb rfl rfl))

theorem pstat_longWord : LongWord (.pstat g d a la) s e la (.pstatus true b.slot (e.v d) (e.act g)) :=
  longWord_of la _ he ((exec_pstat s).trans (withHandle_of_ok he hagree hb rfl rfl))

variable (hdet : e.l.det = false) (hh : e.g.isHandler = false)
include hdet

theorem prefresh_faults {sel : Word} (hsel : e.agree g (fun l => l.word (e.v d)) sel) (hok : selectorOk b sel = false) :
    Faults (.prefresh g d a la sc) s e .operand :=
  (exec_prefresh s).trans (withHandle_of_error he hagree hb (settles_free hdet) (by
    simp only [uniform_of_agree hsel, hok, Bool.not_false, if_true]))

theorem psettleAsync_faults {ctr : DWord} (hctr : e.agree g (fun l => l.dword (e.v d)) ctr)
    (hleaf : (e.counterLeaf s ctr .write (sc == 4)).isSome = false) :
    Faults (.psettleAsync g d a la sc) s e (.protection (e.lowest g) ctr.toNat) :=
  (exec_psettleAsync s).trans (withHandle_of_error he hagree hb (settles_free hdet) (by
    simp only [uniform_of_agree hctr, ← Option.not_isSome, hleaf, Bool.not_false, if_true]))

include hh

theorem psettle_settleWord : SettleWord (.psettle g a la sc) s e la (.psettle b.slot b.lastNo (scopeCode sc.toNat) none []) :=
  settleWord_of he hh ((exec_psettle s).trans (withHandle_of_ok he hagree hb (settles_free hdet) rfl))

theorem prefresh_settleWord {sel : Word} (hsel : e.agree g (fun l => l.word (e.v d)) sel) (hok : selectorOk b sel = true) :
    SettleWord (.prefresh g d a la sc) s e la (.prefresh b.slot b.lastNo (scopeCode sc.toNat) sel) :=
  settleWord_of he hh ((exec_prefresh s).trans (withHandle_of_ok he hagree hb (settles_free hdet) (by
    simp only [uniform_of_agree hsel, hok, Bool.not_true, Bool.false_eq_true, if_false])))

/-- PUNBIND asks for the settle as PSETTLE does, and the capture ends at once. -/
theorem punbind_ends_capture : ∃ t, exec (.punbind g a la sc) s = .next t ∧
    t = { s with groups := t.groups, contexts := t.contexts, requests := s.requests ++ [e.request s (.punbind b.slot b.lastNo (scopeCode sc.toNat))],
                 fresh := s.fresh + 1, issue := none } ∧
    t.contexts = (s.updCtx e.g.ctx (fun c => c.setBinding { b with capturing := false })).contexts ∧
    (∀ k, k ≠ e.g.gid → t.group? k = s.group? k) ∧
    t.group? e.g.gid = some ({ e.g.nextInterval with windows := e.g.windows ++ [e.window s la.toNat] }.goto e.iss.slotB (e.iss.pc + 4)) := by
  have hgroup : (s.updCtx e.g.ctx fun c => c.setBinding { b with capturing := false }).group? e.g.gid = some e.g :=
    show s.group? e.g.gid = some e.g from env_group he
  refine ⟨_, (exec_punbind s).trans (withHandle_of_ok he hagree hb (settles_free hdet) rfl), ?_, ?_, fun k hk => ?_, ?_⟩
  · rw [launchLong_frame, request_of_endIntervals hh, endIntervals_frame hh]
    rfl
  · rw [launchLong_frame, endIntervals_frame hh]
  · rw [group_launchLong_other la _ hk, group_endIntervals_other hh hk]
    rfl
  · rw [group_launchLong la _ (group_endIntervals hh hgroup), window_of_endIntervals hh]
    rfl

/-- PSETTLE.async leaves a request that signals; its window is complete, where it has one. -/
theorem psettleAsync_submits {ctr : DWord} (hctr : e.agree g (fun l => l.dword (e.v d)) ctr)
    (hleaf : (e.counterLeaf s ctr .write (sc == 4)).isSome = true) :
    ∃ t r, exec (.psettleAsync g d a la sc) s = .next t ∧ t.mem = s.mem ∧
      t.requests = s.requests ++ [r] ∧ r.gid = e.g.gid ∧ (∃ cs, r.job = .psettle b.slot b.lastNo (scopeCode sc.toNat) (some ctr.toNat) cs) ∧
      (∀ k, k ≠ e.g.gid → t.group? k = s.group? k) ∧
      t.group? e.g.gid = some ({ e.g.nextInterval with windows := e.g.windows ++
        (if la = 0 then [] else [{ e.window s la.toNat with complete := true }]) }.goto e.iss.slotB (e.iss.pc + 4)) := by
  obtain ⟨told, hexec⟩ : ∃ told, exec (.psettleAsync g d a la sc) s = .next (e.retire (e.submit
      (.psettle b.slot b.lastNo (scopeCode sc.toNat) (some ctr.toNat) told) (e.openDone la (s.endIntervals e.g)))) :=
    ⟨_, (exec_psettleAsync s).trans (withHandle_of_ok he hagree hb (settles_free hdet) (by
      simp only [uniform_of_agree hctr, ← Option.not_isSome, hleaf, Bool.not_true, Bool.false_eq_true, if_false]
      rfl))⟩
  have hgroup := group_openDone la (group_endIntervals hh (env_group he))
  refine ⟨_, e.request (e.openDone la (s.endIntervals e.g)) _, hexec, ?_, ?_, rfl, ⟨told, rfl⟩, fun k hk => ?_, ?_⟩
  · rw [retire_mem, submit_mem, openDone_frame, endIntervals_frame hh]
  · rw [requests_retire, requests_submit]
    congr 1
    rw [openDone_frame, endIntervals_frame hh]
  · rw [group_retire_other hk, group_submit, group_openDone_other la hk, group_endIntervals_other hh hk]
  · rw [group_retire ((group_submit _ _).trans hgroup), window_of_endIntervals hh]
    rfl

end Settling

/-! ### PBIND (04, R65) -/

theorem stamp_of_not_det {e : Env} (hdet : e.l.det = false) (s : State) (write : Bool) (red : Option (AtomOp × Scope)) (sk : Option Nat)
    (ts : List Touch) : e.stamp s write red sk ts = .ok s := if_neg (by rw [hdet]; decide)

theorem stampBinding_of_not_det {e : Env} (hdet : e.l.det = false) (g : BitVec 3) (b : Binding) (s : State) : e.stampBinding g b s = .ok s :=
  if_pos (by rw [hdet]; decide)

section Pbind
variable {s : State} {e : Env} (he : s.env = some e) {g : BitVec 3} {d a : BitVec 7} {la : BitVec 4}
include he

theorem pbind_inactive (hact : e.act g = 0) : exec (.pbind g d a 0) s = .next (e.retire s) :=
  inWord_ok he (by simp only [uniform_of_inactive _ hact, openDone_zero])

variable {va : DWord} (hva : e.agree g (fun l => l.dword (e.v a)) va)
include hva

theorem pbind_faults_of_misaligned (hoff : va.toNat % 64 ≠ 0) : Faults (.pbind g d a la) s e .operand :=
  inWord_error he (by simp only [uniform_of_agree hva, bne_iff_ne.mpr hoff, if_true])

variable {u : State} {x : Leaf} {b : Binding} {resident : Bool} {c : Context} (hdet : e.l.det = false) (hoff : va.toNat % 64 = 0)
  (hpage : s.engineAccess (some (.thermos 0)) e.g.ctx va.toNat .read = .ok (u, x)) (hlocal : isRemote (x.pa va.toNat) = false)
  (hb : u.proposeBinding e (u.mem.read (x.pa va.toNat) 64) (e.lowest g) (e.c.freeBinding.getD 0) = .ok (b, resident)) (hc : u.ctx? e.g.ctx = some c)
include hdet hoff hpage hlocal hb hc

/-- A descriptor that asks for a binding: its code decides whether there is one. -/
theorem pbind_eq : exec (.pbind g d a la) s = .next (if c.bindCode b resident = 0 then
      e.launchLong la (.pbind (b.gen * 256 + e.c.freeBinding.getD 0) (e.v d) (e.act g) (some (e.c.freeBinding.getD 0)))
        (u.updCtx e.g.ctx fun c => { c with bindings := b :: c.bindings.filter fun x => x.slot != e.c.freeBinding.getD 0 })
    else e.launchLong la (.pbind (c.bindCode b resident * 2 ^ 24) (e.v d) (e.act g) none) u) := by
  refine inWord_ok he ?_
  simp only [uniform_of_agree hva, hoff, hpage, hlocal, stamp_of_not_det hdet, hb, hc, stampBinding_of_not_det hdet, Option.map_some,
    Option.getD_some, bne_self_eq_false, Bool.false_eq_true, if_false, bne_iff_ne, ite_not]
  split <;> rfl

end Pbind

/-! ### The code of PBIND (04, R65) -/

theorem runsMeet_append {p q r : List (Nat × Nat)} (h : runsMeet p q = true) : runsMeet p (q ++ r) = true := by
  simp only [runsMeet, List.any_eq_true, List.any_append, Bool.or_eq_true] at h ⊢
  obtain ⟨x, hx, hy⟩ := h
  exact ⟨x, hx, .inl hy⟩

section Code
variable {c : Context} {b : Binding} {resident : Bool}

theorem bindCode_of_full (hfull : 64 ≤ (c.bindings.filter fun x => x.live).length) : c.bindCode b resident = 1 := if_pos hfull

theorem bindCode_of_meets (hroom : (c.bindings.filter fun x => x.live).length < 64)
    (hmeets : ∃ x ∈ c.bindings.filter fun x => x.live, runsMeet b.cRuns x.cRuns = true) : c.bindCode b resident = 2 := by
  obtain ⟨x, hx, hxy⟩ := hmeets
  refine (if_neg (by omega)).trans (if_pos (List.any_eq_true.mpr ⟨x, hx, ?_⟩))
  rw [List.append_assoc, runsMeet_append hxy, Bool.true_or]

variable (hnone : c.bindings.filter (fun x => x.live) = [])
include hnone

theorem bindCode_of_first : c.bindCode b resident = if c.args.reserve.size < b.desc.reserve then 3 else if resident then 0 else 4 := by
  unfold Context.bindCode
  rw [hnone]
  cases resident <;> simp

end Code

/-- Settles O45: each word by what its operands name, the words with a handle through the four outcomes of `withHandle`. -/
theorem standingProductWords : Obligations.StandingProductWords := by
  unfold Obligations.StandingProductWords
  intro s e g d a la sc he
  dsimp only
  refine ⟨fun c h b hb => handle?_eq_some hb, fun hact hla => ?inactive, fun h hagree hnone => ?unbound, fun h b hagree hb => ?bound,
    fun va hva => ?bind,
    fun c b resident => ⟨bindCode_of_full, bindCode_of_meets, fun hnone hfits => ?fits, fun hnone hlack => ?lack⟩⟩
  case inactive =>
    subst hla
    simp only [List.cons_append, List.nil_append, List.forall_mem_cons, exec_pstale, exec_pstat, exec_psettle,
      exec_psettleAsync, exec_punbind, exec_prefresh, execPstale, execPstat, execPsettle, execPsettleAsync, execPunbind, execPrefresh]
    exact ⟨pbind_inactive he hact, withHandle_inactive he hact, withHandle_inactive he hact, withHandle_inactive he hact,
      withHandle_inactive he hact, withHandle_inactive he hact, withHandle_inactive he hact, List.forall_mem_nil _⟩
  case unbound =>
    simp only [List.cons_append, List.nil_append, List.forall_mem_cons, Faults, exec_pstale, exec_pstat, exec_psettle,
      exec_psettleAsync, exec_punbind, exec_prefresh, execPstale, execPstat, execPsettle, execPsettleAsync, execPunbind, execPrefresh]
    have hfault {settle f} := withHandle_of_no_binding (la := la) (settle := settle) (f := f) he hagree hnone
    exact ⟨hfault, hfault, hfault, hfault, hfault, hfault, List.forall_mem_nil _⟩
  case bound =>
    refine ⟨pstale_longWord he hagree hb, pstat_longWord he hagree hb, fun hdet hback => ?_, fun hdet hback ⟨t, hat, hsince⟩ => ?_,
      fun hdet hh => ⟨psettle_settleWord he hagree hb hdet hh, punbind_ends_capture he hagree hb hdet hh,
        fun sel hsel => ⟨fun hok => ?_, fun hok => ?_⟩, fun ctr hctr => ⟨psettleAsync_faults he hagree hb hdet hctr, psettleAsync_submits he hagree hb hdet hh hctr⟩⟩⟩
    · simp only [List.forall_mem_cons, Faults, exec_psettle, exec_psettleAsync, exec_punbind, exec_prefresh,
        execPsettle, execPsettleAsync, execPunbind, execPrefresh]
      have hfault {f} := withHandle_of_background (la := la) (f := f) he hagree hb hdet hback
      exact ⟨hfault, hfault, hfault, hfault, List.forall_mem_nil _⟩
    · simp only [List.forall_mem_cons, Faults, exec_psettle, exec_psettleAsync, exec_punbind, exec_prefresh,
        execPsettle, execPsettleAsync, execPunbind, execPrefresh]
      have hfault {f} := withHandle_of_collapsed (la := la) (f := f) he hagree hb hdet hback hat hsince
      exact ⟨hfault, hfault, hfault, hfault, List.forall_mem_nil _⟩
    · exact prefresh_settleWord he hagree hb hdet hh hsel ((selectorOk_iff b sel).mpr hok)
    · exact prefresh_faults he hagree hb hdet hsel (Bool.eq_false_iff.mpr (mt (selectorOk_iff b sel).mp hok))
  case bind =>
    refine ⟨pbind_faults_of_misaligned he hva, fun u x b resident hdet hoff hpage hlocal hb c hc => ⟨fun hcode => ?_, fun hcode => ?_⟩⟩
    · exact (pbind_eq he hva hdet hoff hpage hlocal hb hc).trans (by rw [if_neg hcode])
    · exact (pbind_eq he hva hdet hoff hpage hlocal hb hc).trans (by rw [if_pos hcode])
  case fits => rw [bindCode_of_first hnone, if_neg (by omega)]
  case lack => rw [bindCode_of_first hnone, if_pos hlack]

end Sys2Proof.Machine
end

section
/-! SUPPORT. How the Thermos writes C, and what its work on a binding leaves as it is (04, R50–R58). -/

namespace Sys2Proof.Machine

/-! ### Bytes written one by one -/

theorem foldl_set_eq_write (bs : List (BitVec 8)) (m : Mem) (a : Nat) :
    ((bs.zip (List.range bs.length)).map fun x => (a + x.2, x.1)).foldl (fun m w => m.set w.1 w.2) m = m.write a bs := by
  rw [List.range_eq_range', List.foldl_map]
  suffices h : ∀ k, (bs.zip (List.range' k bs.length)).foldl (fun m x => m.set (a + x.2) x.1) m = m.write (a + k) bs from h 0
  induction bs generalizing m with
  | nil => intro k; rfl
  | cons b bs ih => intro k; exact ih (m.set (a + k) b) (k + 1)

theorem nat_lt (m : Mem) (a n : Nat) : m.nat a n < 256 ^ n := by
  have hbytes : ∀ bs, leNat bs < 256 ^ bs.length := by
    intro bs
    induction bs with
    | nil => exact Nat.one_pos
    | cons b bs ih =>
      have hb := b.isLt
      rw [leNat, List.length_cons, Nat.pow_succ]
      omega
  have h := hbytes (m.read a n)
  rwa [read_length] at h

theorem nat_congr {m m' : Mem} {a n : Nat} (h : ∀ x, a ≤ x → x < a + n → m.get x = m'.get x) : m.nat a n = m'.nat a n :=
  congrArg leNat (read_congr m m' a n h)

/-! ### Bindings of a state -/

theorem binding?_slot {s : State} {ctx slot : Nat} {b : Binding} (h : s.binding? ctx slot = some b) : b.slot = slot ∧ b.live = true := by
  obtain ⟨c, -, hb⟩ := Option.bind_eq_some_iff.mp h
  simpa using List.find?_some hb

/-- What changes nothing of a context's number and bindings changes no look-up of a binding. -/
theorem binding?_updCtx_same (s : State) (n : Nat) (f : Context → Context) (hno : ∀ c, (f c).no = c.no) (hb : ∀ c, (f c).bindings = c.bindings)
    (k slot : Nat) : (s.updCtx n f).binding? k slot = s.binding? k slot := by
  have hlook : ∀ c : Context, (f c).binding? slot = c.binding? slot := fun c => by rw [Context.binding?, Context.binding?, hb]
  rw [State.binding?, State.binding?]
  by_cases hk : k = n
  · subst hk
    rw [ctx_updCtx s k f hno]
    cases s.ctx? k with
    | none => rfl
    | some c => exact hlook c
  · rw [ctx_updCtx_other s n k f hno hk]

/-- A binding put back in its slot: it is there while it lives, and where it has ended there is none. -/
theorem binding?_setBinding {s : State} {ctx slot : Nat} {b b' : Binding} (hb : s.binding? ctx slot = some b) (hslot : b'.slot = slot) :
    (s.updCtx ctx fun c => c.setBinding b').binding? ctx slot = if b'.live then some b' else none := by
  obtain ⟨c, hc, hfound⟩ := Option.bind_eq_some_iff.mp hb
  rw [State.binding?, ctx_updCtx s ctx (fun c => c.setBinding b') fun _ => rfl, hc]
  show (mapWhere (fun x => x.slot == b'.slot) (fun _ => b') c.bindings).find? (fun x => x.slot == slot && x.live) = _
  subst hslot
  rw [mapWhere, List.find?_map]
  cases hlive : b'.live with
  | true =>
    have htest : ((fun x : Binding => x.slot == b'.slot && x.live) ∘ fun x => if x.slot == b'.slot then b' else x) = fun x => x.slot == b'.slot := by
      funext x
      by_cases hx : x.slot = b'.slot <;> simp [hx, hlive]
    obtain ⟨x, hx⟩ := Option.isSome_iff_exists.mp (List.find?_isSome (p := fun x : Binding => x.slot == b'.slot) |>.mpr
      ⟨b, List.mem_of_find?_eq_some hfound, beq_iff_eq.mpr (binding?_slot hb).1⟩)
    have hput : (if x.slot == b'.slot then b' else x) = b' := if_pos (List.find?_some hx)
    rw [htest, hx, Option.map_some, hput, if_pos rfl]
  | false =>
    have htest : ((fun x : Binding => x.slot == b'.slot && x.live) ∘ fun x => if x.slot == b'.slot then b' else x) = fun _ => false := by
      funext x
      by_cases hx : x.slot = b'.slot <;> simp [hx, hlive]
    rw [htest, List.find?_eq_none.mpr (by simp)]
    rfl

/-! ### One element of C (04, R58) -/

/-- What the Thermos's work leaves of a machine: all but memory, poison, contexts and the counts of errors. -/
def State.sansC (s : State) : State := { s with mem := [], poison := [], contexts := [], dies := [] }

/-- A landing counts errors of its context, whose bindings it leaves. -/
theorem landBytes_contexts (s : State) (n : Nat) (bytes : List (Nat × BitVec 8)) (ps : List Nat) :
    ∃ k, (s.landBytes (some n) bytes ps).contexts = (s.updCtx n fun c => { c with deferred := c.deferred + k }).contexts := by
  unfold State.landBytes
  dsimp only
  obtain ⟨ds, h⟩ := countErrors _ _
  rw [h]
  exact ⟨_, rfl⟩

theorem landBytes_binding? (s : State) (n : Nat) (bytes : List (Nat × BitVec 8)) (ps : List Nat) (k slot : Nat) :
    (s.landBytes (some n) bytes ps).binding? k slot = s.binding? k slot := by
  obtain ⟨d, hd⟩ := landBytes_contexts s n bytes ps
  have hsame : (s.landBytes (some n) bytes ps).binding? k slot = (s.updCtx n fun c => { c with deferred := c.deferred + d }).binding? k slot := by
    rw [State.binding?, State.binding?, State.ctx?, State.ctx?, hd]
  refine hsame.trans (binding?_updCtx_same s n _ ?_ ?_ k slot) <;> exact fun _ => rfl

section PutC
variable (w : Work) (i j v : Nat)

/-- An element of C written: memory holds it, canonical or not. -/
theorem putC_mem_eq : (w.putC i j v).s.mem = w.s.mem ∨
    (w.putC i j v).s.mem = w.s.mem.write (w.b.cPa i j) (leBytes (typeSize w.b.desc.tc) v) := by
  rw [Work.putC]
  split
  · exact .inl rfl
  · refine .inr ?_
    have h := foldl_set_eq_write (leBytes (typeSize w.b.desc.tc) v) w.s.mem (w.b.cPa i j)
    rw [leBytes_length] at h
    rw [landBytes_mem, h]

theorem putC_mem_get {x : Nat} (hx : x < w.b.cPa i j ∨ w.b.cPa i j + typeSize w.b.desc.tc ≤ x) : (w.putC i j v).s.mem.get x = w.s.mem.get x := by
  obtain h | h := putC_mem_eq w i j v
  · rw [h]
  · rw [h, get_write, leBytes_length, if_neg (by omega)]

@[simp] theorem putC_b : (w.putC i j v).b = w.b := by rw [Work.putC]; split <;> rfl
@[simp] theorem putC_ctx : (w.putC i j v).ctx = w.ctx := by rw [Work.putC]; split <;> rfl
@[simp] theorem putC_a : (w.putC i j v).a = w.a := by rw [Work.putC]; split <;> rfl
@[simp] theorem putC_bb : (w.putC i j v).bb = w.bb := by rw [Work.putC]; split <;> rfl

theorem putC_sansC : (w.putC i j v).s.sansC = w.s.sansC := by
  rw [Work.putC]
  split
  · rfl
  · rw [landBytes_frame]; rfl

theorem putC_binding? (k slot : Nat) : (w.putC i j v).s.binding? k slot = w.s.binding? k slot := by
  rw [Work.putC]
  split
  · rfl
  · exact landBytes_binding? ..

/-- An element written is read back. -/
theorem putC_cAt : (w.putC i j v).cAt i j = v % 256 ^ typeSize w.b.desc.tc := by
  rw [Work.cAt, putC_b, Mem.nat]
  rw [Work.putC]
  split
  next heq =>
    have hlt := nat_lt w.s.mem (w.b.cPa i j) (typeSize w.b.desc.tc)
    rw [← beq_iff_eq.mp heq]
    exact (Nat.mod_eq_of_lt hlt).symm
  next =>
    have h := foldl_set_eq_write (leBytes (typeSize w.b.desc.tc) v) w.s.mem (w.b.cPa i j)
    have hread := read_write w.s.mem (w.b.cPa i j) (leBytes (typeSize w.b.desc.tc) v)
    rw [leBytes_length] at h hread
    rw [landBytes_mem, h, hread, leNat_leBytes]

end PutC

end Sys2Proof.Machine
end

section
/-! SUPPORT. What each step of the Thermos keeps of its work: the machine but for C, the binding's identity, and the order of its numbers
(04, R50–R57). -/

namespace Sys2Proof.Machine

/-! ### Lines and their elements -/

/-- A line of C that exists. -/
def Binding.hasLine (b : Binding) (l : LineRef) : Prop := if l.col then l.no < b.desc.n else l.no < b.desc.m

/-- The number at which a line was last refreshed (R55). -/
def Binding.refreshedAt (b : Binding) (l : LineRef) : Nat := (if l.col then b.colQ else b.rowQ).getD l.no 0

/-- An element of C that exists. -/
def Binding.hasCell (b : Binding) (c : Nat × Nat) : Prop := c.1 < b.desc.m ∧ c.2 < b.desc.n

/-- Every element of C, row by row. -/
def Binding.allCells (b : Binding) : List (Nat × Nat) := (List.range b.desc.m).flatMap fun i => (List.range b.desc.n).map fun j => (i, j)

theorem mem_allCells {b : Binding} {c : Nat × Nat} : c ∈ b.allCells ↔ b.hasCell c := by
  simp only [Binding.allCells, Binding.hasCell, List.mem_flatMap, List.mem_map, List.mem_range]
  constructor
  · rintro ⟨i, hi, j, hj, rfl⟩
    exact ⟨hi, hj⟩
  · exact fun h => ⟨c.1, h.1, c.2, h.2, rfl⟩

theorem hasCell_of_mem_cells {b : Binding} {l : LineRef} (hl : b.hasLine l) {c : Nat × Nat} (hc : c ∈ b.cells l) : b.hasCell c := by
  rw [Binding.hasLine] at hl
  rw [Binding.cells] at hc
  split at hc
  next hcol =>
    rw [if_pos hcol] at hl
    obtain ⟨i, hi, rfl⟩ := List.mem_map.mp hc
    exact ⟨List.mem_range.mp hi, hl⟩
  next hcol =>
    rw [if_neg hcol] at hl
    obtain ⟨j, hj, rfl⟩ := List.mem_map.mp hc
    exact ⟨hl, List.mem_range.mp hj⟩

theorem mem_row_cells {b : Binding} (i : Nat) {j : Nat} (hj : j < b.desc.n) : (i, j) ∈ b.cells ⟨false, i⟩ :=
  List.mem_map.mpr ⟨j, List.mem_range.mpr hj, rfl⟩

theorem hasLine_line {b : Binding} {d : Diff} : b.hasLine d.line ↔ if d.inB then d.col < b.desc.n else d.row < b.desc.m := by
  rw [Binding.hasLine, Diff.line]
  cases d.inB <;> rfl

/-! ### Folds -/

/-- What a step of a fold brings about for its own element, and later steps keep, holds after the fold. -/
theorem foldl_achieves {α β : Type} {f : β → α → β} {xs : List α} {I : β → Prop} {A : α → β → Prop} (hI : ∀ u, ∀ x ∈ xs, I u → I (f u x))
    (hdo : ∀ u, ∀ x ∈ xs, I u → A x (f u x)) (hkeep : ∀ u, ∀ x ∈ xs, ∀ y ∈ xs, I u → A x u → A x (f u y)) {w : β} (hw : I w) :
    ∀ x ∈ xs, A x (xs.foldl f w) := by
  suffices h : ∀ ys : List α, (∀ y ∈ ys, y ∈ xs) → ∀ u, I u → ∀ x ∈ xs, x ∈ ys ∨ A x u → A x (ys.foldl f u) from
    fun x hx => h xs (fun _ hy => hy) w hw x hx (.inl hx)
  intro ys
  induction ys with
  | nil => exact fun _ u _ x _ hx => hx.resolve_left List.not_mem_nil
  | cons y ys ih =>
    intro hsub u hu x hx hxy
    have hy := hsub y List.mem_cons_self
    refine ih (fun z hz => hsub z (List.mem_cons_of_mem y hz)) _ (hI u y hy hu) x hx ?_
    obtain hmem | hA := hxy
    · obtain rfl | hmem := List.mem_cons.mp hmem
      · exact .inr (hdo u x hy hu)
      · exact .inl hmem
    · exact .inr (hkeep u x hx y hy hu hA)

/-! ### What a step of the Thermos keeps -/

/-- A binding but for what the Thermos's work on C changes. -/
def Binding.sansWork (b : Binding) : Binding :=
  { b with aInit := [], bInit := [], diffs := [], applied := 0, points := [], rowQ := [], colQ := [], drift := [], rowCount := [], colCount := [],
           marked := [], exactLost := false, refreshed := false, nonfin := false, refr := 0, shadow := [] }

/-- Work that has stayed within C: the rest of the machine, every binding that it holds, and the identity of the one worked on are as before. -/
structure Work.Within (w u : Work) : Prop where
  ctx : u.ctx = w.ctx
  machine : u.s.sansC = w.s.sansC
  bindings : ∀ k slot, u.s.binding? k slot = w.s.binding? k slot
  outside : ∀ m, w.b.outsideC m → u.s.mem.get m = w.s.mem.get m
  same : u.b.sansWork = w.b.sansWork

/-- Work that applies differences through `q` and changes applied points to such as `P` allows: of a difference it notes at most that one through
`q` has begun, no line loses a refresh, and the operands are kept at their number. -/
structure Work.Goes (q : Nat) (P : Nat → Prop) (w u : Work) : Prop extends w.Within u where
  applied : u.b.applied = w.b.applied
  operands : u.b.aInit = w.b.aInit ∧ u.b.bInit = w.b.bInit
  old : ∀ y ∈ u.b.diffs, ∃ x ∈ w.b.diffs, y = { x with begun := y.begun }
  kept : ∀ x ∈ w.b.diffs, q < x.no → x ∈ u.b.diffs
  points : u.b.points.length = w.b.points.length
  reached : ∀ p ∈ u.b.points, p ∈ w.b.points ∨ P p
  lines : u.b.rowQ.length = w.b.rowQ.length ∧ u.b.colQ.length = w.b.colQ.length
  refreshed : ∀ l, w.b.refreshedAt l ≤ u.b.refreshedAt l

section Within
variable {w u v : Work}

theorem Work.Within.refl (w : Work) : w.Within w := ⟨rfl, rfl, fun _ _ => rfl, fun _ _ => rfl, rfl⟩

theorem Work.Within.desc (h : w.Within u) : u.b.desc = w.b.desc := (congrArg Binding.desc h.same :)
theorem Work.Within.cPages (h : w.Within u) : u.b.cPages = w.b.cPages := (congrArg Binding.cPages h.same :)
theorem Work.Within.slot (h : w.Within u) : u.b.slot = w.b.slot := (congrArg Binding.slot h.same :)
theorem Work.Within.live (h : w.Within u) : u.b.live = w.b.live := (congrArg Binding.live h.same :)
theorem Work.Within.lastNo (h : w.Within u) : u.b.lastNo = w.b.lastNo := (congrArg Binding.lastNo h.same :)

theorem Work.Within.cPa (h : w.Within u) (i j : Nat) : u.b.cPa i j = w.b.cPa i j := by rw [Binding.cPa, Binding.cPa, h.desc, h.cPages]

theorem Work.Within.hasCell (h : w.Within u) {c : Nat × Nat} : u.b.hasCell c ↔ w.b.hasCell c := by rw [Binding.hasCell, Binding.hasCell, h.desc]

theorem Work.Within.hasLine (h : w.Within u) {l : LineRef} : u.b.hasLine l ↔ w.b.hasLine l := by rw [Binding.hasLine, Binding.hasLine, h.desc]

theorem Work.Within.outsideC (h : w.Within u) {m : Nat} : u.b.outsideC m ↔ w.b.outsideC m := by
  simp only [Binding.outsideC, h.desc, h.cPa]

theorem Work.Within.cApart (h : w.Within u) : u.b.cApart ↔ w.b.cApart := by simp only [Binding.cApart, h.desc, h.cPa]

theorem Work.Within.cAt (h : w.Within u) (i j : Nat) : u.cAt i j = u.s.mem.nat (w.b.cPa i j) (typeSize w.b.desc.tc) := by
  rw [Work.cAt, h.cPa, h.desc]

theorem Work.Within.trans (h : w.Within u) (h' : u.Within v) : w.Within v where
  ctx := h'.ctx.trans h.ctx
  machine := h'.machine.trans h.machine
  bindings k slot := (h'.bindings k slot).trans (h.bindings k slot)
  outside m hm := (h'.outside m (h.outsideC.mpr hm)).trans (h.outside m hm)
  same := h'.same.trans h.same

end Within

section Goes
variable {q : Nat} {P : Nat → Prop} {w u v : Work}

theorem Work.Goes.refl (w : Work) : w.Goes q P w where
  toWithin := .refl w
  applied := rfl
  operands := ⟨rfl, rfl⟩
  old y hy := ⟨y, hy, rfl⟩
  kept _ hx _ := hx
  points := rfl
  reached _ hp := .inl hp
  lines := ⟨rfl, rfl⟩
  refreshed _ := Nat.le_refl _

theorem Work.Goes.trans (h : w.Goes q P u) (h' : u.Goes q P v) : w.Goes q P v where
  toWithin := h.toWithin.trans h'.toWithin
  applied := h'.applied.trans h.applied
  operands := ⟨h'.operands.1.trans h.operands.1, h'.operands.2.trans h.operands.2⟩
  old y hy := by
    obtain ⟨x, hx, hyx⟩ := h'.old y hy
    obtain ⟨z, hz, hxz⟩ := h.old x hx
    exact ⟨z, hz, by rw [hyx, hxz]⟩
  kept x hx hq := h'.kept x (h.kept x hx hq) hq
  points := h'.points.trans h.points
  reached p hp := (h'.reached p hp).elim (h.reached p) .inr
  lines := ⟨h'.lines.1.trans h.lines.1, h'.lines.2.trans h.lines.2⟩
  refreshed l := (h.refreshed l).trans (h'.refreshed l)

/-- The operands that the Thermos has at hand are its own. -/
theorem Work.Goes.withOperands (h : w.Goes q P u) (a bb : List Nat) : w.Goes q P { u with a := a, bb := bb } := { h with }

theorem goes_of_withOperands {a bb : List Nat} (h : ({ w with a := a, bb := bb } : Work).Goes q P u) : w.Goes q P u := { h with }

/-- What every step of a fold does, the fold does. -/
theorem goes_foldl {α : Type} {f : Work → α → Work} {xs : List α} (hf : ∀ u, ∀ x ∈ xs, w.Goes q P u → u.Goes q P (f u x)) :
    w.Goes q P (xs.foldl f w) := by
  suffices h : ∀ u, w.Goes q P u → w.Goes q P (xs.foldl f u) from h w (.refl w)
  induction xs with
  | nil => exact fun u hu => hu
  | cons x xs ih => exact fun u hu => ih (fun u y hy => hf u y (List.mem_cons_of_mem x hy)) _ (hu.trans (hf u x List.mem_cons_self hu))

end Goes

/-! ### The steps on an element (04, R50, R52, R55) -/

section Element
variable {q : Nat} {P : Nat → Prop} {w : Work} {i j : Nat}

/-- A change of what a binding keeps beside its numbers. -/
theorem goes_of_binding {b : Binding} (hsame : b.sansWork = w.b.sansWork) (happlied : b.applied = w.b.applied)
    (hinits : b.aInit = w.b.aInit ∧ b.bInit = w.b.bInit) (hdiffs : b.diffs = w.b.diffs) (hpoints : b.points = w.b.points) (hrowQ : b.rowQ = w.b.rowQ) (hcolQ : b.colQ = w.b.colQ) :
    w.Goes q P { w with b := b } where
  ctx := rfl
  machine := rfl
  bindings _ _ := rfl
  outside _ _ := rfl
  same := hsame
  applied := happlied
  operands := hinits
  old y hy := ⟨y, hdiffs ▸ hy, rfl⟩
  kept x hx _ := (hdiffs.symm ▸ hx : x ∈ b.diffs)
  points := by rw [hpoints]
  reached p hp := .inl (hpoints ▸ hp)
  lines := ⟨by rw [hrowQ], by rw [hcolQ]⟩
  refreshed l := by rw [Binding.refreshedAt, Binding.refreshedAt, hrowQ, hcolQ]

/-- A binding that is the same but for drift, shadow and statuses. -/
def Binding.sansShadow (b : Binding) : Binding := { b with drift := [], exactLost := false, refreshed := false, nonfin := false, shadow := [] }

theorem goes_of_shadow {b : Binding} (h : b.sansShadow = w.b.sansShadow) : w.Goes q P { w with b := b } :=
  goes_of_binding (congrArg Binding.sansWork h :) (congrArg Binding.applied h :) ⟨(congrArg Binding.aInit h :), (congrArg Binding.bInit h :)⟩
    (congrArg Binding.diffs h :) (congrArg Binding.points h :) (congrArg Binding.rowQ h :) (congrArg Binding.colQ h :)

theorem goes_putC (hc : w.b.hasCell (i, j)) (v : Nat) : w.Goes q P (w.putC i j v) where
  ctx := putC_ctx ..
  machine := putC_sansC ..
  bindings := putC_binding? w i j v
  outside _ hm := putC_mem_get w i j v (hm i j hc.1 hc.2)
  same := by rw [putC_b]
  applied := by rw [putC_b]
  operands := by rw [putC_b]; exact ⟨rfl, rfl⟩
  old y hy := ⟨y, by rwa [putC_b] at hy, rfl⟩
  kept x hx _ := by rwa [putC_b]
  points := by rw [putC_b]
  reached p hp := .inl (by rwa [putC_b] at hp)
  lines := by rw [putC_b]; exact ⟨rfl, rfl⟩
  refreshed l := by rw [putC_b]

/-- An element written while drift and statuses change. -/
theorem goes_putC_of_shadow {b : Binding} (h : b.sansShadow = w.b.sansShadow) (hc : w.b.hasCell (i, j)) (v : Nat) :
    w.Goes q P (({ w with b := b } : Work).putC i j v) := by
  have hdesc : b.desc = w.b.desc := (congrArg Binding.desc h :)
  exact (goes_of_shadow h).trans (goes_putC (by rwa [Binding.hasCell, hdesc]) v)

/-- Poison at a home changes nothing that the Thermos keeps. -/
theorem goes_poison (ps : List Nat) : w.Goes q P { w with s := { w.s with poison := ps } } := { Work.Goes.refl w with }

theorem goes_scratch (hc : w.b.hasCell (i, j)) : w.Goes q P (w.scratch i j) := by
  have hbad : ∀ (bad : Bool) (u : Work), w.Goes q P u →
      w.Goes q P (if bad then { u with s := { u.s with poison := insertNat u.s.poison (u.b.cPa i j / 32) } } else u) := by
    intro bad u hu
    cases bad
    · exact hu
    · exact hu.trans (goes_poison _)
  refine hbad _ _ ?_
  split
  · split
    · exact goes_of_shadow rfl
    · exact goes_of_shadow rfl
  · refine goes_putC_of_shadow ?_ hc _
    rfl

theorem goes_correct (hc : w.b.hasCell (i, j)) (x : FVal) : w.Goes q P (w.correct i j x) := by
  rw [Work.correct]
  split
  · split
    · exact goes_of_shadow rfl
    · exact .refl w
  · split
    · refine goes_putC_of_shadow ?_ hc _
      rfl
    · exact .refl w

end Element

/-! ### Applied points (04, R50) -/

theorem mem_setNth {α : Type} {l : List α} {n : Nat} {v x : α} (h : x ∈ setNth l n v) : x ∈ l ∨ x = v := by
  induction l generalizing n with
  | nil => exact .inl h
  | cons y r ih =>
    cases n with
    | zero => exact (List.mem_cons.mp h).elim .inr fun hr => .inl (List.mem_cons_of_mem y hr)
    | succ n => exact (List.mem_cons.mp h).elim (fun hy => .inl (hy ▸ List.mem_cons_self)) fun hr => (ih hr).imp_left (List.mem_cons_of_mem y)

theorem setNth_getD {α : Type} (l : List α) (n : Nat) (d : α) : setNth l n (l.getD n d) = l := by
  induction l generalizing n with
  | nil => rfl
  | cons y r ih =>
    cases n with
    | zero => rfl
    | succ n => exact congrArg (y :: ·) (by simpa using ih n)

/-- A number raised to another is that one or stays what it was. -/
theorem mem_setNth_max {l : List Nat} {n q p : Nat} (h : p ∈ setNth l n (max q (l.getD n 0))) : p ∈ l ∨ p = q := by
  obtain hmax | hmax := max_choice q (l.getD n 0)
  · rw [hmax] at h
    exact mem_setNth h
  · rw [hmax, setNth_getD] at h
    exact .inl h

theorem getD_le_setNth_max (l : List Nat) (n q k : Nat) : l.getD k 0 ≤ (setNth l n (max q (l.getD n 0))).getD k 0 := by
  rw [getD_setNth]
  split
  next h => rw [h.1]; exact le_max_right ..
  next => exact Nat.le_refl _

theorem le_setNth_max {l : List Nat} {n : Nat} (hn : n < l.length) (q : Nat) : q ≤ (setNth l n (max q (l.getD n 0))).getD n 0 := by
  rw [getD_setNth, if_pos ⟨rfl, hn⟩]
  exact le_max_left ..

/-- One element raised. -/
theorem raise_cons (b : Binding) (c : Nat × Nat) (cs : List (Nat × Nat)) (q : Nat) : b.raise (c :: cs) q = (b.raise [c] q).raise cs q := rfl

theorem goes_raise_one {w : Work} {q p : Nat} {P : Nat → Prop} (hp : P p) (c : Nat × Nat) : w.Goes q P { w with b := w.b.raise [c] p } :=
  { Work.Goes.refl (P := P) w with
    points := setNth_length ..
    reached := fun x hx => (mem_setNth_max hx).imp_right fun h : x = p => h.symm ▸ hp }

theorem goes_raise {w : Work} {q p : Nat} {P : Nat → Prop} (hp : P p) (cs : List (Nat × Nat)) : w.Goes q P { w with b := w.b.raise cs p } := by
  induction cs generalizing w with
  | nil => exact .refl w
  | cons c cs ih =>
    rw [raise_cons]
    exact (goes_raise_one hp c).trans (ih (w := { w with b := w.b.raise [c] p }))

end Sys2Proof.Machine
end

section
/-! SUPPORT. Lines refreshed, differences applied, and the rounding pass: what each keeps (04, R50–R57). -/

namespace Sys2Proof.Machine

/-! ### The operands at a number (04, R55) -/

/-- Taking a difference changes the operands at hand alone. -/
theorem take_eq (w : Work) (d : Diff) : w.take d = { w with a := (w.take d).a, bb := (w.take d).bb } := by
  rw [Work.take]
  split <;> rfl

theorem foldl_take_eq (ds : List Diff) (w : Work) :
    ds.foldl Work.take w = { w with a := (ds.foldl Work.take w).a, bb := (ds.foldl Work.take w).bb } := by
  induction ds generalizing w with
  | nil => rfl
  | cons d ds ih =>
    rw [List.foldl_cons, ih, take_eq w d]

theorem at_eq (w : Work) (q : Nat) : w.at_ q = { w with a := (w.at_ q).a, bb := (w.at_ q).bb } := by
  rw [Work.at_, foldl_take_eq]

theorem after_eq (w : Work) (prior : List Diff) (p : Nat) : w.after prior p = { w with a := (w.after prior p).a, bb := (w.after prior p).bb } := by
  rw [Work.after, foldl_take_eq, at_eq]

/-! ### A line refreshed (04, R55–R57) -/

/-- The elements of a line computed anew. -/
def Work.recompute (w : Work) (l : LineRef) (ops : Nat → List Nat × List Nat) : Work :=
  let b := if w.b.desc.exact && !l.col then
      { w.b with shadow := setNth w.b.shadow l.no ⟨exaEmpty, List.replicate w.b.desc.n 0, List.replicate w.b.desc.n none⟩ } else w.b
  (b.cells l).foldl (fun w c =>
    ({ w with a := (ops (w.b.point c.1 c.2)).1, bb := (ops (w.b.point c.1 c.2)).2 } : Work).scratch c.1 c.2) { w with b := b }

/-- The figures of a line that has been refreshed at `q`. -/
def Binding.lineRefreshed (b : Binding) (l : LineRef) (q : Nat) : Binding :=
  { b with
    rowQ := if l.col then b.rowQ else setNth b.rowQ l.no (max q (b.rowQ.getD l.no 0))
    colQ := if l.col then setNth b.colQ l.no (max q (b.colQ.getD l.no 0)) else b.colQ
    rowCount := if l.col then b.rowCount else setNth b.rowCount l.no 0
    colCount := if l.col then setNth b.colCount l.no 0 else b.colCount
    marked := b.marked.filter (fun m => !(m.1 == l && m.2 ≤ q))
    refr := b.refr + 1 }

theorem refreshLine_eq (w : Work) (l : LineRef) (q : Nat) (ops : Nat → List Nat × List Nat) :
    w.refreshLine l q ops = { w.recompute l ops with a := w.a, bb := w.bb, b := (w.recompute l ops).b.lineRefreshed l q } := rfl

theorem refreshedAt_le_lineRefreshed (b : Binding) (l k : LineRef) (n : Nat) : b.refreshedAt k ≤ (b.lineRefreshed l n).refreshedAt k := by
  rw [Binding.refreshedAt, Binding.refreshedAt, Binding.lineRefreshed]
  cases k.col <;> cases l.col
  · exact getD_le_setNth_max ..
  · exact Nat.le_refl _
  · exact Nat.le_refl _
  · exact getD_le_setNth_max ..

/-- A binding keeps a number for each line of C. -/
def Binding.numbersLines (b : Binding) : Prop := b.rowQ.length = b.desc.m ∧ b.colQ.length = b.desc.n

theorem le_refreshedAt_lineRefreshed {b : Binding} (hb : b.numbersLines) {l : LineRef} (hl : b.hasLine l) (n : Nat) :
    n ≤ (b.lineRefreshed l n).refreshedAt l := by
  rw [Binding.hasLine] at hl
  rw [Binding.refreshedAt, Binding.lineRefreshed]
  cases hcol : l.col
  · rw [hcol] at hl
    exact le_setNth_max (hb.1.symm ▸ hl) n
  · rw [hcol] at hl
    exact le_setNth_max (hb.2.symm ▸ hl) n

section Refresh
variable {q : Nat} {P : Nat → Prop} {w : Work} {l : LineRef}

theorem Work.Goes.numbersLines {u : Work} (h : w.Goes q P u) (hb : w.b.numbersLines) : u.b.numbersLines := by
  rw [Binding.numbersLines, h.desc, h.lines.1, h.lines.2]
  exact hb

theorem goes_lineRefreshed (l : LineRef) (n : Nat) : w.Goes q P { w with b := w.b.lineRefreshed l n } :=
  { Work.Goes.refl (P := P) w with
    lines := by
      constructor
      · show (if l.col then _ else _ : List Nat).length = _
        split
        · rfl
        · exact setNth_length ..
      · show (if l.col then _ else _ : List Nat).length = _
        split
        · exact setNth_length ..
        · rfl
    refreshed := fun k => refreshedAt_le_lineRefreshed w.b l k n }

theorem goes_recompute (hl : w.b.hasLine l) (ops : Nat → List Nat × List Nat) : w.Goes q P (w.recompute l ops) := by
  have hclear : ∀ (b : Binding), b.sansShadow = w.b.sansShadow → w.Goes q P ((b.cells l).foldl (fun w c =>
      ({ w with a := (ops (w.b.point c.1 c.2)).1, bb := (ops (w.b.point c.1 c.2)).2 } : Work).scratch c.1 c.2) { w with b := b }) := by
    intro b hb
    have hfirst : w.Goes q P { w with b := b } := goes_of_shadow hb
    refine hfirst.trans (goes_foldl fun u c hc hu => goes_of_withOperands (goes_scratch ?_))
    exact hu.hasCell.mpr (hasCell_of_mem_cells (hfirst.hasLine.mpr hl) hc)
  refine hclear _ ?_
  split <;> rfl

theorem goes_refreshLine (hl : w.b.hasLine l) (n : Nat) (ops : Nat → List Nat × List Nat) : w.Goes q P (w.refreshLine l n ops) := by
  rw [refreshLine_eq]
  exact ((goes_recompute hl ops).trans (goes_lineRefreshed l n)).withOperands w.a w.bb

theorem goes_refreshAt (hl : w.b.hasLine l) {n : Nat} (hn : P n) : w.Goes q P (w.refreshAt l n) :=
  (goes_refreshLine hl n _).trans (goes_raise hn _)

theorem refreshedAt_raise (b : Binding) (cs : List (Nat × Nat)) (n : Nat) (k : LineRef) : (b.raise cs n).refreshedAt k = b.refreshedAt k := rfl

theorem le_refreshedAt_refreshAt (hb : w.b.numbersLines) (hl : w.b.hasLine l) (n : Nat) : n ≤ (w.refreshAt l n).b.refreshedAt l := by
  have h (ops) : w.Goes n (fun _ => True) (w.recompute l ops) := goes_recompute hl ops
  rw [Work.refreshAt, refreshedAt_raise, refreshLine_eq]
  exact le_refreshedAt_lineRefreshed ((h _).numbersLines hb) ((h _).hasLine.mpr hl) n

theorem le_foldl_max {α : Type} (f : α → Nat) (xs : List α) (m : Nat) : m ≤ xs.foldl (fun m x => max m (f x)) m := by
  induction xs generalizing m with
  | nil => exact Nat.le_refl _
  | cons x xs ih => exact (le_max_left m (f x)).trans (ih _)

theorem le_reach (b : Binding) (l : LineRef) (n : Nat) : n ≤ b.reach l n := le_foldl_max (fun c : Nat × Nat => b.point c.1 c.2) (b.cells l) n

theorem refreshFrom_eq (w : Work) (l : LineRef) (n : Nat) : w.refreshFrom l n =
    { ({ w with a := (w.at_ (w.b.reach l n)).a, bb := (w.at_ (w.b.reach l n)).bb } : Work).refreshAt l (w.b.reach l n) with
      a := w.a, bb := w.bb } := by
  rw [Work.refreshFrom, ← at_eq]

theorem goes_refreshFrom (hl : w.b.hasLine l) {n : Nat} (hn : P (w.b.reach l n)) : w.Goes q P (w.refreshFrom l n) := by
  rw [refreshFrom_eq]
  exact (goes_of_withOperands (goes_refreshAt (by exact hl) hn)).withOperands w.a w.bb

theorem le_refreshedAt_refreshFrom (hb : w.b.numbersLines) (hl : w.b.hasLine l) (n : Nat) : n ≤ (w.refreshFrom l n).b.refreshedAt l := by
  rw [refreshFrom_eq]
  exact (le_reach w.b l n).trans (le_refreshedAt_refreshAt (by exact hb) (by exact hl) _)

end Refresh

end Sys2Proof.Machine
end

section
/-! SUPPORT. Differences applied in capture order and in canonical order, and the rounding pass: what each keeps (04, R50–R54, R60). -/

namespace Sys2Proof.Machine

section Apply
variable {q : Nat} {P : Nat → Prop} {w : Work} {d : Diff}

/-! ### One difference (04, R50, R53, R56) -/

theorem goes_take (d : Diff) : w.Goes q P (w.take d) := by
  rw [take_eq]
  exact (Work.Goes.refl w).withOperands _ _

/-- A difference that has begun is noted, and its line counts it. -/
theorem counted_eq (b : Binding) (d : Diff) : b.counted d =
    { b with diffs := mapWhere (fun x => x.no == d.no) (fun x => { x with begun := true }) b.diffs, rowCount := (b.counted d).rowCount,
             colCount := (b.counted d).colCount } := by
  rw [Binding.counted]
  split
  · rfl
  · split <;> rfl

theorem goes_counted (hd : d.no ≤ q) : w.Goes q P { w with b := w.b.counted d } := by
  rw [counted_eq]
  refine { Work.Goes.refl (q := q) (P := P) w with old := fun y hy => ?_, kept := fun x hx hq => ?_ }
  · obtain ⟨x, hx, rfl⟩ := List.mem_map.mp hy
    refine ⟨x, hx, ?_⟩
    split <;> rfl
  · refine List.mem_map.mpr ⟨x, hx, if_neg ?_⟩
    rw [beq_iff_eq]
    omega

theorem goes_settleLine {t : Work} (ht : w.Goes q P t) (hd : d.no ≤ q) (nonfin : Bool) {refresh : Work → Work}
    (hrefresh : ∀ u, w.Goes q P u → u.Goes q P (refresh u)) : w.Goes q P (t.settleLine d nonfin refresh) := by
  have hcounted : w.Goes q P { t with b := t.b.counted d } := ht.trans (goes_counted hd)
  rw [Work.settleLine]
  split
  · exact (ht.trans (hrefresh t ht)).trans (goes_of_shadow rfl)
  · split
    · exact ht
    · dsimp only
      split
      · exact (hcounted.trans (hrefresh _ hcounted)).trans (goes_of_shadow rfl)
      · exact hcounted

theorem goes_correctAll {cs : List (Nat × Nat)} (hcs : ∀ c ∈ cs, w.b.hasCell c) (d : Diff) : w.Goes q P (w.correctAll d cs) := by
  rw [Work.correctAll]
  split
  · refine goes_foldl fun u c hc hu => ?_
    split
    · exact goes_correct (hu.hasCell.mpr (hcs c hc)) _
    · exact .refl u
  · exact .refl w

/-- A difference of a line of C, applied to some elements. -/
theorem goes_apply (on : Nat × Nat → Bool) (hd : d.no ≤ q) (hP : P d.no) (hl : w.b.hasLine d.line) : w.Goes q P (w.apply on d) := by
  rw [Work.apply]
  dsimp only
  split
  · exact goes_take d
  · refine goes_settleLine ?_ hd _ fun u hu => goes_refreshAt (hu.hasLine.mpr hl) hP
    split
    · exact goes_take d
    · exact ((goes_correctAll (fun c hc => hasCell_of_mem_cells hl (List.mem_filter.mp hc).1) d).trans (goes_raise hP _)).withOperands _ _

theorem goes_after (prior : List Diff) (p : Nat) : w.Goes q P (w.after prior p) := by
  rw [after_eq]
  exact (Work.Goes.refl w).withOperands _ _

theorem goes_applyAfter (prior : List Diff) (hd : d.no ≤ q) (hl : w.b.hasLine d.line) : w.Goes q P (w.applyAfter prior d) := by
  rw [Work.applyAfter]
  dsimp only
  split
  · exact .refl w
  · refine goes_settleLine ?_ hd _ fun u hu => goes_refreshLine (hu.hasLine.mpr hl) 0 _
    split
    · exact .refl w
    · refine goes_foldl fun u p _ hu => (goes_after prior p).trans (goes_correctAll (fun c hc => ?_) d)
      have hcell : w.b.hasCell c := hasCell_of_mem_cells hl (List.mem_filter.mp (List.mem_filter.mp hc).1).1
      exact (goes_after (q := q) (P := P) prior p).hasCell.mpr (hu.hasCell.mpr hcell)

/-! ### Many differences (04, R50, R60) -/

theorem mem_insertDiff {x d : Diff} {ds : List Diff} : x ∈ insertDiff d ds ↔ x = d ∨ x ∈ ds := by
  induction ds with
  | nil => simp [insertDiff]
  | cons e ds ih =>
    rw [insertDiff]
    split
    · exact List.mem_cons
    · rw [List.mem_cons, ih, List.mem_cons]
      tauto

theorem mem_canonical {x : Diff} {ds : List Diff} : x ∈ canonical ds ↔ x ∈ ds := by
  suffices h : ∀ l, x ∈ ds.foldl (fun l d => insertDiff d l) l ↔ x ∈ ds ∨ x ∈ l from (h []).trans (by simp)
  induction ds with
  | nil => simp
  | cons d ds ih =>
    intro l
    rw [List.foldl_cons, ih, mem_insertDiff, List.mem_cons]
    tauto

/-- The differences of a binding are of lines that exist. -/
def Binding.diffsHaveLines (b : Binding) : Prop := ∀ d ∈ b.diffs, b.hasLine d.line

variable (hdiffs : w.b.diffsHaveLines) (hP : ∀ p, p ≤ q → P p)
include hdiffs

theorem goes_canonically : w.Goes q P (w.canonically q) := by
  have hall : ∀ d ∈ canonical (w.b.diffs.filter fun d => d.no ≤ q), d.no ≤ q ∧ w.b.hasLine d.line := by
    intro d hd
    obtain ⟨hmem, hno⟩ := List.mem_filter.mp (mem_canonical.mp hd)
    exact ⟨of_decide_eq_true hno, hdiffs d hmem⟩
  suffices h : ∀ (ds : List Diff), (∀ d ∈ ds, d.no ≤ q ∧ w.b.hasLine d.line) → ∀ x : Work × List Diff, w.Goes q P x.1 →
      w.Goes q P (ds.foldl (fun (x : Work × List Diff) d => (x.1.applyAfter x.2 d, x.2 ++ [d])) x).1 from h _ hall (w, []) (.refl w)
  intro ds
  induction ds with
  | nil => exact fun _ _ hx => hx
  | cons d ds ih =>
    intro hds x hx
    obtain ⟨hno, hline⟩ := hds d List.mem_cons_self
    exact ih (fun e he => hds e (List.mem_cons_of_mem d he)) _ (hx.trans (goes_applyAfter x.2 hno (hx.hasLine.mpr hline)))

include hP

/-- The differences through a number applied in capture order, each to some elements. -/
theorem goes_foldl_apply (on : Diff → Nat × Nat → Bool) (a bb : List Nat) :
    w.Goes q P ((w.b.diffs.filter fun d => d.no ≤ q).foldl (fun w d => w.apply (on d) d) { w with a := a, bb := bb }) := by
  refine goes_of_withOperands (a := a) (bb := bb) (goes_foldl fun u d hd hu => ?_)
  obtain ⟨hmem, hno⟩ := List.mem_filter.mp hd
  exact goes_apply (on d) (of_decide_eq_true hno) (hP _ (of_decide_eq_true hno)) (hu.hasLine.mpr (hdiffs d hmem))

end Apply

/-! ### The rounding pass (04, R54) -/

section Pass
variable {q : Nat} {P : Nat → Prop} {w : Work}

theorem goes_roundRow {i : Nat} (hi : i < w.b.desc.m) : w.Goes q P (w.roundRow i) := by
  refine goes_foldl fun u j hj hu => ?_
  have hcell : u.b.hasCell (i, j) := hu.hasCell.mpr ⟨hi, List.mem_range.mp hj⟩
  split
  · exact goes_putC hcell _
  · split
    · exact goes_putC hcell _
    · exact goes_putC hcell _

theorem goes_roundingPass (w : Work) : w.Goes q P w.roundingPass := by
  rw [Work.roundingPass]
  split
  · refine goes_foldl fun u i hi hu => goes_roundRow ?_
    rw [hu.desc]
    exact List.mem_range.mp hi
  · exact .refl w

theorem roundingPass_of_round (h : w.b.desc.exact = false) : w.roundingPass = w := if_neg (by rw [h]; decide)

end Pass

end Sys2Proof.Machine
end

section
/-! SUPPORT. A settle and a background step: how far they bring a binding (04, R50, R51, R57, R60). -/

namespace Sys2Proof.Machine

/-! ### Differences that every element reflects (04, R50) -/

/-- The number through which a binding's differences are reflected everywhere. -/
def Binding.reflected (b : Binding) : Nat :=
  (b.diffs.filter (fun d => d.lost && b.stale d)).foldl (fun m d => min m (d.no - 1)) (b.points.foldl min b.lastNo)

/-- The binding that holds its operands at the number that is reflected. -/
def Work.advanced (w : Work) : Binding :=
  let old := (w.b.diffs.filter (fun d => d.no ≤ w.b.reflected)).foldl Work.take { w with a := w.b.aInit, bb := w.b.bInit }
  { w.b with applied := max w.b.applied w.b.reflected, aInit := old.a, bInit := old.bb, diffs := w.b.diffs.filter fun d => w.b.reflected < d.no }

theorem advance_eq (w : Work) : w.advance = { w with b := w.advanced } := rfl

theorem le_foldl_min {α : Type} {f : α → Nat} {xs : List α} {m q : Nat} :
    q ≤ xs.foldl (fun m x => min m (f x)) m ↔ q ≤ m ∧ ∀ x ∈ xs, q ≤ f x := by
  induction xs generalizing m with
  | nil => simp
  | cons x xs ih => simp [ih, and_assoc]

/-- A binding is settled through a number: it has been captured, every element has reached it, and no lost difference through it is still to be
made up for (R57). -/
structure Binding.SettledThrough (b : Binding) (q : Nat) : Prop where
  captured : q ≤ b.lastNo
  points : ∀ p ∈ b.points, q ≤ p
  lost : ∀ d ∈ b.diffs, d.lost = true → b.refreshedAt d.line < d.no → q < d.no

theorem stale_of_lost {b : Binding} {d : Diff} (hd : d.lost = true) : b.stale d = true ↔ b.refreshedAt d.line < d.no := by
  rw [Binding.stale, if_pos hd, decide_eq_true_eq]
  rfl

theorem le_reflected {b : Binding} {q : Nat} (h : b.SettledThrough q) : q ≤ b.reflected := by
  refine le_foldl_min.mpr ⟨(le_foldl_min (f := id)).mpr ⟨h.captured, h.points⟩, fun d hd => ?_⟩
  obtain ⟨hmem, hcond⟩ := List.mem_filter.mp hd
  obtain ⟨hlost, hstale⟩ := Bool.and_eq_true_iff.mp hcond
  have := h.lost d hmem hlost ((stale_of_lost hlost).mp hstale)
  omega

theorem reflected_le_point {b : Binding} {p : Nat} (hp : p ∈ b.points) : b.reflected ≤ p :=
  ((le_foldl_min (f := id)).mp (le_foldl_min.mp (Nat.le_refl b.reflected)).1).2 p hp

section Advance
variable {w : Work} {q : Nat}

theorem within_advance (w : Work) : w.Within w.advance := { Work.Within.refl w with }

theorem applied_le_advance : w.b.applied ≤ w.advance.b.applied := le_max_left ..

theorem mem_advance_diffs {d : Diff} : d ∈ w.advance.b.diffs ↔ d ∈ w.b.diffs ∧ w.b.reflected < d.no := by
  rw [advance_eq]
  exact List.mem_filter.trans (and_congr_right fun _ => decide_eq_true_iff)

theorem settledThrough_advance (h : w.b.SettledThrough q) : w.advance.b.SettledThrough q :=
  ⟨h.captured, h.points, fun d hd => h.lost d (mem_advance_diffs.mp hd).1⟩

theorem le_advance_applied (h : w.b.SettledThrough q) : q ≤ w.advance.b.applied := (le_reflected h).trans (le_max_right ..)

theorem lt_of_mem_advance (h : w.b.SettledThrough q) {d : Diff} (hd : d ∈ w.advance.b.diffs) : q < d.no :=
  (le_reflected h).trans_lt (mem_advance_diffs.mp hd).2

end Advance

/-! ### A settle (04, R50, R57, R60) -/

/-- The lines that a settle must refresh, refreshed. -/
def Work.overtake (w : Work) (q : Nat) : Work :=
  let t := (w.b.overdue q).foldl (fun w l => w.refreshFrom l.1 l.2) w
  { t with b := if (w.b.overdue q).isEmpty then t.b else { t.b with refreshed := true } }

/-- The differences through a number applied. -/
def Work.applyThrough (w : Work) (q : Nat) (canon : Bool) : Work := if canon then w.canonically q else w.inOrder (fun _ => true) q

/-- Every element at a number or beyond it. -/
def Work.bring (w : Work) (q : Nat) : Work := { w with b := { w.b with points := w.b.points.map fun p => max p q } }

/-- The work of a settle before the operands are moved on. -/
def Work.settling (w : Work) (q : Nat) (canon : Bool) : Work := ((w.overtake q).applyThrough q canon).bring q

theorem settle_eq (w : Work) (q : Nat) (canon : Bool) : w.settle q canon = (w.settling q canon).advance := rfl

section Settle
variable {w : Work} {q : Nat} {P : Nat → Prop}

theorem orderly_numbersLines {b : Binding} (h : b.orderly) : b.numbersLines := by
  obtain ⟨-, hrows, hcols, -⟩ := h
  exact ⟨hrows, hcols⟩

theorem orderly_points {b : Binding} (h : b.orderly) : b.points.length = b.desc.m * b.desc.n := h.1

theorem orderly_diffsHaveLines {b : Binding} (h : b.orderly) : b.diffsHaveLines := by
  obtain ⟨-, -, -, hdiffs, -⟩ := h
  exact fun d hd => hasLine_line.mpr (hdiffs d hd)

theorem orderly_marked {b : Binding} (h : b.orderly) {x : LineRef × Nat} (hx : x ∈ b.marked) : b.hasLine x.1 := by
  obtain ⟨-, -, -, -, hmarked, -⟩ := h
  exact hmarked x hx

/-- A lost difference that is still to be made up for has its line marked with its number or a later one. -/
theorem orderly_lost {b : Binding} (h : b.orderly) {d : Diff} (hd : d ∈ b.diffs) (hlost : d.lost = true) (hstale : b.refreshedAt d.line < d.no) :
    ∃ x ∈ b.marked, x.1 = d.line ∧ d.no ≤ x.2 := by
  obtain ⟨-, -, -, -, -, hmark⟩ := h
  exact hmark d hd hlost ((stale_of_lost hlost).mpr hstale)

theorem line_of_begun (x : Diff) (begun : Bool) : ({ x with begun := begun } : Diff).line = x.line := rfl

theorem Work.Goes.diffsHaveLines {u : Work} (h : w.Goes q P u) (hw : w.b.diffsHaveLines) : u.b.diffsHaveLines := by
  intro y hy
  obtain ⟨x, hx, hyx⟩ := h.old y hy
  rw [hyx, line_of_begun]
  exact h.hasLine.mpr (hw x hx)

theorem mem_overdue {b : Binding} {q : Nat} {m : LineRef × Nat} : m ∈ b.overdue q ↔
    ∃ x ∈ b.marked, (∃ d ∈ b.diffs, d.lost = true ∧ d.no ≤ q ∧ d.line = x.1) ∧ m = (x.1, max q x.2) := by
  simp only [Binding.overdue, List.mem_map, List.mem_filter, List.any_eq_true, Bool.and_eq_true, decide_eq_true_eq, beq_iff_eq, and_assoc,
    eq_comm (a := m)]

theorem refreshes_goes_overtake (w : Work) (q : Nat) :
    ((w.b.overdue q).foldl (fun w l => w.refreshFrom l.1 l.2) w).Goes q P (w.overtake q) := by
  refine goes_of_shadow ?_
  split <;> rfl

theorem goes_applyThrough (hdiffs : w.b.diffsHaveLines) (hP : ∀ p, p ≤ q → P p) (canon : Bool) : w.Goes q P (w.applyThrough q canon) := by
  rw [Work.applyThrough]
  split
  · exact goes_canonically hdiffs
  · exact goes_foldl_apply hdiffs hP (fun _ _ => true) _ _

/-- A settle before the operands are moved on: what it keeps, and how far it comes. -/
theorem goes_bring (w : Work) (q : Nat) : w.Goes q (fun _ => True) (w.bring q) :=
  { Work.Goes.refl (q := q) (P := fun _ => True) w with
    points := List.length_map ..
    reached := fun _ _ => .inr trivial }

variable (hw : w.b.orderly)
include hw

theorem goes_overdue (hP : ∀ p, P p) : ∀ u, ∀ l ∈ w.b.overdue q, w.Goes q P u → u.Goes q P (u.refreshFrom l.1 l.2) := by
  intro u l hl hu
  obtain ⟨x, hx, -, rfl⟩ := mem_overdue.mp hl
  exact goes_refreshFrom (hu.hasLine.mpr (orderly_marked hw hx)) (hP _)

theorem goes_overtake (hP : ∀ p, P p) : w.Goes q P (w.overtake q) :=
  (goes_foldl (goes_overdue hw hP)).trans (refreshes_goes_overtake w q)

/-- After the refreshes that are due no lost difference through the number is still to be made up for. -/
theorem le_refreshedAt_overtake {d : Diff} (hd : d ∈ w.b.diffs) (hlost : d.lost = true) (hno : d.no ≤ q) :
    d.no ≤ (w.overtake q).b.refreshedAt d.line := by
  by_contra hstale
  have hgo : w.Goes q (fun _ => True) (w.overtake q) := goes_overtake hw fun _ => trivial
  have hbefore : w.b.refreshedAt d.line < d.no := (hgo.refreshed d.line).trans_lt (Nat.lt_of_not_le hstale)
  obtain ⟨x, hx, hline, hmark⟩ := orderly_lost hw hd hlost hbefore
  have hdue : (x.1, max q x.2) ∈ w.b.overdue q := mem_overdue.mpr ⟨x, hx, ⟨d, hd, hlost, hno, hline.symm⟩, rfl⟩
  have hgoes := goes_overdue (q := q) (P := fun _ => True) hw fun _ => trivial
  have hreach : max q x.2 ≤ ((w.b.overdue q).foldl (fun w l => w.refreshFrom l.1 l.2) w).b.refreshedAt x.1 := by
    refine foldl_achieves (I := w.Goes q fun _ => True) (A := fun l u => l.2 ≤ u.b.refreshedAt l.1)
      (fun u l hl hu => hu.trans (hgoes u l hl hu)) (fun u l hl hu => ?_)
      (fun u l _ k hk hu hle => hle.trans ((hgoes u k hk hu).refreshed l.1)) (.refl w) _ hdue
    obtain ⟨y, hy, -, rfl⟩ := mem_overdue.mp hl
    exact le_refreshedAt_refreshFrom (hu.numbersLines (orderly_numbersLines hw)) (hu.hasLine.mpr (orderly_marked hw hy)) _
  have hkept := (refreshes_goes_overtake (P := fun _ => True) w q).refreshed x.1
  rw [← hline] at hstale
  omega

theorem goes_settling (canon : Bool) : w.Goes q (fun _ => True) (w.settling q canon) := by
  have hfirst : w.Goes q (fun _ => True) (w.overtake q) := goes_overtake hw fun _ => trivial
  exact (hfirst.trans (goes_applyThrough (hfirst.diffsHaveLines (orderly_diffsHaveLines hw)) (fun _ _ => trivial) canon)).trans (goes_bring _ q)

theorem settledThrough_settling (hq : q ≤ w.b.lastNo) (canon : Bool) : (w.settling q canon).b.SettledThrough q := by
  have hfirst : w.Goes q (fun _ => True) (w.overtake q) := goes_overtake hw fun _ => trivial
  have hgo := goes_settling (q := q) hw canon
  have hrest : (w.overtake q).Goes q (fun _ => True) (w.settling q canon) :=
    (goes_applyThrough (hfirst.diffsHaveLines (orderly_diffsHaveLines hw)) (fun _ _ => trivial) canon).trans (goes_bring _ q)
  refine ⟨hgo.lastNo.symm ▸ hq, fun p hp => ?_, fun y hy hlost hstale => ?_⟩
  · obtain ⟨x, -, rfl⟩ := List.mem_map.mp hp
    exact le_max_right x q
  · obtain ⟨x, hx, hyx⟩ := hgo.old y hy
    have hno : y.no = x.no := by rw [hyx]
    have hline : y.line = x.line := by rw [hyx, line_of_begun]
    by_contra hle
    have hmade := le_refreshedAt_overtake (q := q) hw hx (by rw [← hlost, hyx]) (by omega)
    have hkept := hrest.refreshed x.line
    rw [hline] at hstale
    omega

/-! ### A settle, as a whole -/

theorem within_settle (canon : Bool) : w.Within (w.settle q canon) := by
  rw [settle_eq]
  exact (goes_settling hw canon).toWithin.trans (within_advance _)

theorem applied_settle (hq : q ≤ w.b.lastNo) (canon : Bool) : max w.b.applied q ≤ (w.settle q canon).b.applied := by
  have hgo := goes_settling (q := q) hw canon
  rw [settle_eq]
  exact max_le (hgo.applied.symm.le.trans applied_le_advance) (le_advance_applied (settledThrough_settling hw hq canon))

theorem lt_of_mem_settle (hq : q ≤ w.b.lastNo) {canon : Bool} {x : Diff} (hx : x ∈ (w.settle q canon).b.diffs) : q < x.no := by
  rw [settle_eq] at hx
  exact lt_of_mem_advance (settledThrough_settling hw hq canon) hx

/-- A difference beyond what has been applied stays. -/
theorem mem_settle (hq : q ≤ w.b.lastNo) {canon : Bool} {x : Diff} (hx : x ∈ w.b.diffs) (hno : (w.settle q canon).b.applied < x.no) :
    x ∈ (w.settle q canon).b.diffs := by
  have happlied := applied_settle hw hq canon
  rw [settle_eq] at happlied hno ⊢
  refine mem_advance_diffs.mpr ⟨(goes_settling hw canon).kept x hx (by omega), ?_⟩
  exact (le_max_right ..).trans_lt hno

end Settle

/-! ### A settle beyond every applied point (04, R71) -/

section Latest
variable {w : Work} {q : Nat} (hw : w.b.orderly) (hq : q ≤ w.b.lastNo) (hmarked : w.b.marked = []) (hpoints : ∀ p ∈ w.b.points, p ≤ q)
include hmarked

theorem overtake_of_no_marks : w.overtake q = w := by
  rw [Work.overtake, Binding.overdue, hmarked]
  rfl

include hpoints hw

/-- Where no element was beyond the number and no line was marked, every element stands at the number. -/
theorem point_settling (canon : Bool) : ∀ p ∈ (w.settling q canon).b.points, p = q := by
  intro p hp
  obtain ⟨x, hx, rfl⟩ := List.mem_map.mp hp
  rw [overtake_of_no_marks hmarked] at hx
  have hgo : w.Goes q (fun p => p ≤ q) (w.applyThrough q canon) := goes_applyThrough (orderly_diffsHaveLines hw) (fun _ h => h) canon
  have hle := (hgo.reached x hx).elim (hpoints x) id
  omega

include hq

/-- Then the operands stand at the number too, where C has an element. -/
theorem applied_settle_of_latest (happlied : w.b.applied ≤ q) (hcell : w.b.points ≠ []) (canon : Bool) : (w.settle q canon).b.applied = q := by
  have hgo := goes_settling (q := q) hw canon
  have hne : (w.settling q canon).b.points ≠ [] := fun h => hcell (List.length_eq_zero_iff.mp (by rw [← hgo.points, h]; rfl))
  obtain ⟨p, hp⟩ := List.exists_mem_of_ne_nil _ hne
  have hle := reflected_le_point hp
  rw [point_settling hw hmarked hpoints canon p hp] at hle
  have hge := le_reflected (settledThrough_settling hw hq canon)
  show max (w.settling q canon).b.applied (w.settling q canon).b.reflected = q
  rw [hgo.applied]
  omega

end Latest

/-! ### A background step (04, R51, R57) -/

theorem raise_getD_le (b : Binding) (cs : List (Nat × Nat)) (n k : Nat) : b.points.getD k 0 ≤ (b.raise cs n).points.getD k 0 := by
  induction cs generalizing b with
  | nil => exact Nat.le_refl _
  | cons c cs ih => exact (getD_le_setNth_max ..).trans (ih (b.raise [c] n))

section Raises
variable {f : Nat × Nat → Nat}

theorem raises_getD_le (cs : List (Nat × Nat)) (b : Binding) (k : Nat) :
    b.points.getD k 0 ≤ (cs.foldl (fun b c => b.raise [c] (f c)) b).points.getD k 0 := by
  induction cs generalizing b with
  | nil => exact Nat.le_refl _
  | cons c cs ih => exact (raise_getD_le b [c] (f c) k).trans (ih _)

/-- Elements that are raised one by one reach what each is raised to. -/
theorem le_raises_point {cs : List (Nat × Nat)} {b : Binding} {c : Nat × Nat} (hc : c ∈ cs) (hlen : c.1 * b.desc.n + c.2 < b.points.length) :
    f c ≤ (cs.foldl (fun b c => b.raise [c] (f c)) b).points.getD (c.1 * b.desc.n + c.2) 0 := by
  induction cs generalizing b with
  | nil => exact absurd hc List.not_mem_nil
  | cons e cs ih =>
    obtain rfl | hc := List.mem_cons.mp hc
    · exact (le_setNth_max hlen (f c)).trans (raises_getD_le cs (b.raise [c] (f c)) _)
    · exact ih (b := b.raise [e] (f e)) hc (by rwa [show (b.raise [e] (f e)).points.length = b.points.length from setNth_length ..])

theorem goes_raises {q : Nat} {w : Work} (cs : List (Nat × Nat)) :
    w.Goes q (fun _ => True) { w with b := cs.foldl (fun b c => b.raise [c] (f c)) w.b } := by
  induction cs generalizing w with
  | nil => exact .refl w
  | cons c cs ih => exact (goes_raise_one trivial c).trans (ih (w := { w with b := w.b.raise [c] (f c) }))

end Raises

/-- Each point of a binding is that of an element. -/
theorem exists_cell_of_point {b : Binding} (hlen : b.points.length = b.desc.m * b.desc.n) {p : Nat} (hp : p ∈ b.points) :
    ∃ c ∈ b.allCells, b.points.getD (c.1 * b.desc.n + c.2) 0 = p ∧ c.1 * b.desc.n + c.2 < b.points.length := by
  obtain ⟨k, hk, rfl⟩ := List.mem_iff_getElem.mp hp
  rw [hlen] at hk
  have hn : 0 < b.desc.n := Nat.pos_of_mul_pos_left (Nat.zero_lt_of_lt hk)
  refine ⟨(k / b.desc.n, k % b.desc.n), mem_allCells.mpr ⟨Nat.div_lt_of_lt_mul (Nat.mul_comm .. ▸ hk), Nat.mod_lt _ hn⟩, ?_⟩
  rw [Nat.div_add_mod', List.getD_eq_getElem _ _ (hlen ▸ hk)]
  exact ⟨rfl, hlen ▸ hk⟩

/-- Without a lost difference through a number every element can come to it. -/
theorem le_bound {b : Binding} {q : Nat} (hlost : ∀ d ∈ b.diffs, d.lost = true → q < d.no) (c : Nat × Nat) : q ≤ b.bound q c := by
  refine le_foldl_min.mpr ⟨Nat.le_refl q, fun d hd => ?_⟩
  obtain ⟨hmem, hcond⟩ := List.mem_filter.mp hd
  have := hlost d hmem (Bool.and_eq_true_iff.mp (Bool.and_eq_true_iff.mp hcond).1).1
  omega

/-- Elements brought as far towards a number as they can come, before the operands are moved on. -/
def Work.stepAhead (w : Work) (on : Nat × Nat → Bool) (q : Nat) : Work :=
  let t := (w.b.diffs.filter (fun d => d.no ≤ q)).foldl (fun u d => u.apply (fun c => on c && d.no ≤ w.b.bound q c) d)
    { w with a := w.b.aInit, bb := w.b.bInit }
  { t with b := (w.b.allCells.filter on).foldl (fun b c => b.raise [c] (w.b.bound q c)) t.b }

theorem ahead_eq (w : Work) (on : Nat × Nat → Bool) (q : Nat) : w.ahead on q = (w.stepAhead on q).advance := rfl

section Ahead
variable {w : Work} {q : Nat} {on : Nat × Nat → Bool} (hw : w.b.orderly)
include hw

theorem goes_stepAhead : w.Goes q (fun _ => True) (w.stepAhead on q) :=
  (goes_foldl_apply (orderly_diffsHaveLines hw) (fun _ _ => trivial) (fun d c => on c && d.no ≤ w.b.bound q c) _ _).trans (goes_raises _)

/-- Where no difference through a number was lost, a step that leaves no element behind settles the binding through it. -/
theorem settledThrough_stepAhead (hon : ∀ c, on c = true) (hq : q ≤ w.b.lastNo) (hlost : ∀ d ∈ w.b.diffs, d.lost = true → q < d.no) :
    (w.stepAhead on q).b.SettledThrough q := by
  have hgo : w.Goes q (fun _ => True) (w.stepAhead on q) := goes_stepAhead hw
  refine ⟨hgo.lastNo.symm ▸ hq, fun p hp => ?_, fun y hy hylost _ => ?_⟩
  · obtain ⟨c, hc, rfl, hlt⟩ := exists_cell_of_point (by rw [hgo.points, hgo.desc, orderly_points hw]) hp
    have hmem : c ∈ w.b.allCells.filter on := List.mem_filter.mpr ⟨by rwa [mem_allCells, hgo.hasCell, ← mem_allCells] at hc, hon c⟩
    have ht := goes_foldl_apply (q := q) (P := fun _ => True) (orderly_diffsHaveLines hw) (fun _ _ => trivial)
      (fun d c => on c && d.no ≤ w.b.bound q c) w.b.aInit w.b.bInit
    refine (le_bound hlost c).trans ?_
    rw [hgo.points, hgo.desc, ← ht.points, ← ht.desc] at hlt
    rw [hgo.desc, ← ht.desc]
    exact le_raises_point hmem hlt
  · obtain ⟨x, hx, hyx⟩ := hgo.old y hy
    have hno : y.no = x.no := by rw [hyx]
    rw [hno]
    exact hlost x hx (by rw [← hylost, hyx])

end Ahead

end Sys2Proof.Machine
end

section
/-! SUPPORT. What the elements of C hold when they have been corrected or computed from scratch in `.round` mode (04, R50, R55). -/

namespace Sys2Proof.Machine

/-! ### A correction (04, R50, R52) -/

/-- A correction in `.round` mode is one rounding of the exact sum. -/
theorem correct_cAt {w : Work} {i j n d : Nat} {x : FVal} {neg : Bool} (hexact : w.b.desc.exact = false)
    (hsum : exactAdd .rne ((typeFmt w.b.desc.tc).value (w.cAt i j)) x = .num neg n d) :
    (w.correct i j x).cAt i j = ((typeFmt w.b.desc.tc).round (.plain .rne) neg n d).1 % 256 ^ typeSize w.b.desc.tc := by
  rw [Work.correct, hexact, hsum]
  exact putC_cAt ..

/-! ### Elements computed from scratch (04, R55) -/

/-- What an element of C holds when it has been computed from scratch from some operands. -/
def Binding.product (b : Binding) (a bb : List Nat) (c : Nat × Nat) : Nat :=
  scratchRound (typeFmt b.desc.ta) (typeFmt b.desc.tb) (typeFmt b.desc.tc) (pairsOf b a bb c.1 c.2) % 256 ^ typeSize b.desc.tc

theorem Work.Within.product {w u : Work} (h : w.Within u) (a bb : List Nat) (c : Nat × Nat) : u.b.product a bb c = w.b.product a bb c := by
  simp only [Binding.product, pairsOf, h.desc]

/-- An element computed from scratch in `.round` mode, its poison apart: it is written and its drift is 0. -/
def Work.putScratch (w : Work) (i j : Nat) : Work :=
  ({ w with b := { w.b with drift := setNth w.b.drift (i * w.b.desc.n + j) 0 } } : Work).putC i j
    (scratchRound (typeFmt w.b.desc.ta) (typeFmt w.b.desc.tb) (typeFmt w.b.desc.tc) (pairsOf w.b w.a w.bb i j))

section Scratch
variable {w : Work} (hexact : w.b.desc.exact = false)
include hexact

theorem scratch_eq (i j : Nat) : ∃ ps, w.scratch i j = { w.putScratch i j with s := { (w.putScratch i j).s with poison := ps } } := by
  rw [Work.scratch, hexact]
  cases w.poisonedAt i j
  · exact ⟨_, rfl⟩
  · exact ⟨_, rfl⟩

theorem scratch_cAt (c : Nat × Nat) : (w.scratch c.1 c.2).cAt c.1 c.2 = w.b.product w.a w.bb c := by
  obtain ⟨ps, h⟩ := scratch_eq hexact c.1 c.2
  rw [h]
  exact putC_cAt ..

theorem scratch_operands (i j : Nat) : (w.scratch i j).a = w.a ∧ (w.scratch i j).bb = w.bb := by
  obtain ⟨ps, h⟩ := scratch_eq hexact i j
  rw [h]
  exact ⟨putC_a .., putC_bb ..⟩

/-- Elements that share no byte with the one computed are as they were. -/
theorem scratch_cAt_other {c e : Nat × Nat} (happart : w.b.cPa c.1 c.2 + typeSize w.b.desc.tc ≤ w.b.cPa e.1 e.2 ∨
    w.b.cPa e.1 e.2 + typeSize w.b.desc.tc ≤ w.b.cPa c.1 c.2) : (w.scratch e.1 e.2).cAt c.1 c.2 = w.cAt c.1 c.2 := by
  obtain ⟨ps, h⟩ := scratch_eq hexact e.1 e.2
  rw [h, Work.cAt, Work.putScratch, putC_b]
  refine nat_congr fun x hlo hhi => putC_mem_get _ _ _ _ ?_
  show x < w.b.cPa e.1 e.2 ∨ w.b.cPa e.1 e.2 + typeSize w.b.desc.tc ≤ x
  have hhi : x < w.b.cPa c.1 c.2 + typeSize w.b.desc.tc := hhi
  have hlo : w.b.cPa c.1 c.2 ≤ x := hlo
  omega

end Scratch

theorem point_le {b : Binding} {n : Nat} (h : ∀ p ∈ b.points, p ≤ n) (i j : Nat) : b.point i j ≤ n := by
  rw [Binding.point, List.getD_eq_getElem?_getD]
  cases hp : b.points[i * b.desc.n + j]? with
  | none => exact Nat.zero_le n
  | some p => exact h p (List.mem_of_getElem? hp)

theorem reach_eq {b : Binding} {n : Nat} (h : ∀ p ∈ b.points, p ≤ n) (l : LineRef) : b.reach l n = n := by
  refine Nat.le_antisymm ?_ (le_reach b l n)
  suffices hmax : ∀ (cs : List (Nat × Nat)) (m : Nat), m ≤ n → cs.foldl (fun m c => max m (b.point c.1 c.2)) m ≤ n from hmax _ n (Nat.le_refl n)
  intro cs
  induction cs with
  | nil => exact fun _ hm => hm
  | cons c cs ih => exact fun m hm => ih _ (max_le hm (point_le h c.1 c.2))

section Scratches
variable {q : Nat} {P : Nat → Prop} {w : Work} (hexact : w.b.desc.exact = false) (hapart : w.b.cApart)
include hexact hapart

/-- Elements computed one after another from the same operands hold what these make. -/
theorem scratches_cAt {I : Work → Prop} {f : Work → Nat × Nat → Work} {cs : List (Nat × Nat)} {a bb : List Nat} (hcs : ∀ c ∈ cs, w.b.hasCell c)
    (hgo : ∀ u, I u → w.Goes q P u) (hI : ∀ u, ∀ c ∈ cs, I u → I (f u c))
    (hf : ∀ u, ∀ c ∈ cs, I u → f u c = ({ u with a := a, bb := bb } : Work).scratch c.1 c.2) (hw : I w) :
    ∀ c ∈ cs, (cs.foldl f w).cAt c.1 c.2 = w.b.product a bb c := by
  have hvalue : ∀ u, ∀ c ∈ cs, I u → (f u c).cAt c.1 c.2 = w.b.product a bb c := fun u c hc hu => by
    rw [hf u c hc hu, scratch_cAt (by rw [← hexact, ← (hgo u hu).desc])]
    exact (hgo u hu).product a bb c
  refine foldl_achieves (A := fun c u => u.cAt c.1 c.2 = w.b.product a bb c) hI hvalue (fun u c hc e he hu hval => ?_) hw
  by_cases hce : c = e
  · exact hce ▸ hvalue u c hc hu
  · have hg := hgo u hu
    rw [hf u e he hu, ← hval]
    refine scratch_cAt_other (w := { u with a := a, bb := bb }) (by rw [← hexact, ← hg.desc]) ?_
    show u.b.cPa c.1 c.2 + typeSize u.b.desc.tc ≤ u.b.cPa e.1 e.2 ∨ u.b.cPa e.1 e.2 + typeSize u.b.desc.tc ≤ u.b.cPa c.1 c.2
    rw [hg.cPa, hg.cPa, hg.desc]
    exact hapart c.1 c.2 e.1 e.2 (hcs c hc).1 (hcs c hc).2 (hcs e he).1 (hcs e he).2 hce

/-- All of C computed from the operands at hand. -/
theorem allScratched_cAt {c : Nat × Nat} (hc : w.b.hasCell c) :
    (w.b.allCells.foldl (fun u c => u.scratch c.1 c.2) w).cAt c.1 c.2 = w.b.product w.a w.bb c := by
  refine scratches_cAt (q := 0) (P := fun _ => False) (I := fun u => w.Goes 0 (fun _ => False) u ∧ u.a = w.a ∧ u.bb = w.bb) hexact hapart
    (fun c hc => mem_allCells.mp hc) (fun u hu => hu.1) (fun u c hc hu => ?_) (fun u c hc hu => ?_) ⟨.refl w, rfl, rfl⟩ c (mem_allCells.mpr hc)
  · have hops := scratch_operands (w := u) (by rw [hu.1.desc, hexact]) c.1 c.2
    exact ⟨hu.1.trans (goes_scratch (hu.1.hasCell.mpr (mem_allCells.mp hc))), hops.1.trans hu.2.1, hops.2.trans hu.2.2⟩
  · rw [← hu.2.1, ← hu.2.2]

/-- A line computed anew from operands that are the same for every applied point of it. -/
theorem recompute_cAt {l : LineRef} (hl : w.b.hasLine l) {ops : Nat → List Nat × List Nat} {a bb : List Nat} {n : Nat}
    (hpoints : ∀ p ∈ w.b.points, p ≤ n) (hops : ∀ p, p ≤ n → ops p = (a, bb)) : ∀ c ∈ w.b.cells l, (w.recompute l ops).cAt c.1 c.2 = w.b.product a bb c := by
  have hround : w.recompute l ops = (w.b.cells l).foldl (fun w c =>
      ({ w with a := (ops (w.b.point c.1 c.2)).1, bb := (ops (w.b.point c.1 c.2)).2 } : Work).scratch c.1 c.2) w := by
    rw [Work.recompute, hexact]
    rfl
  rw [hround]
  refine scratches_cAt (q := 0) (P := fun _ => False) (I := w.Goes 0 fun _ => False) hexact hapart (fun c hc => hasCell_of_mem_cells hl hc)
    (fun u hu => hu) (fun u c hc hu => ?_) (fun u c hc hu => ?_) (.refl w)
  · exact hu.trans (goes_of_withOperands (goes_scratch (hu.hasCell.mpr (hasCell_of_mem_cells hl hc))))
  · rw [hops _ (point_le (fun p hp => (hu.reached p hp).elim (hpoints p) False.elim) c.1 c.2)]

omit hexact hapart in
theorem refreshAt_cAt (l : LineRef) (n i j : Nat) : (w.refreshAt l n).cAt i j =
    (w.recompute l fun p => if p ≤ n then (w.a, w.bb) else ((w.at_ p).a, (w.at_ p).bb)).cAt i j := by
  rw [Work.refreshAt, refreshLine_eq]
  generalize w.recompute l _ = r
  rfl

/-- A line refreshed from the operands at a number that no element of it is beyond and no difference is left through. -/
theorem refreshFrom_cAt {l : LineRef} (hl : w.b.hasLine l) {n : Nat} (hpoints : ∀ p ∈ w.b.points, p ≤ n) (hdiffs : ∀ d ∈ w.b.diffs, n < d.no) :
    ∀ c ∈ w.b.cells l, (w.refreshFrom l n).cAt c.1 c.2 = w.b.product w.b.aInit w.b.bInit c := by
  have hnone : w.b.diffs.filter (fun d => d.no ≤ n) = [] :=
    List.filter_eq_nil_iff.mpr fun d hd h => absurd (of_decide_eq_true h) (Nat.not_le_of_lt (hdiffs d hd))
  have hat : w.at_ n = { w with a := w.b.aInit, bb := w.b.bInit } := by rw [Work.at_, hnone]; rfl
  rw [refreshFrom_eq, reach_eq hpoints l, hat]
  intro c hc
  refine (refreshAt_cAt (w := { w with a := w.b.aInit, bb := w.b.bInit }) l n c.1 c.2).trans ?_
  exact recompute_cAt (w := { w with a := w.b.aInit, bb := w.b.bInit }) hexact hapart hl hpoints (fun p hp => if_pos hp) c hc

end Scratches

end Sys2Proof.Machine
end

section
/-! SUPPORT. What the Thermos does with its requests, and on its own (04, R50–R57, R64–R71). -/

namespace Sys2Proof.Machine

/-! ### An acquire without stash windows (07, R118) -/

/-- A machine but for its caches and workgroups. -/
def State.sansLevels (s : State) : State := { s with cores := [], clusters := [], dies := [], workgroups := [] }

section Acquire
variable {s : State} (hstash : ∀ w ∈ s.workgroups, w.stashes = [])

theorem foldE_of_fixed {α β ε : Type} {f : β → α → Except ε β} {b : β} {xs : List α} (h : ∀ x ∈ xs, f b x = .ok b) : foldE f b xs = .ok b := by
  induction xs with
  | nil => rfl
  | cons x xs ih =>
    rw [foldE, h x List.mem_cons_self]
    exact ih fun y hy => h y (List.mem_cons_of_mem x hy)

theorem mem_wgsOf {s : State} {g : Group} {w : Workgroup} (h : w ∈ s.wgsOf g) : w ∈ s.workgroups := by
  obtain ⟨a, -, ha⟩ := List.mem_filterMap.mp (List.mem_eraseDups.mp h)
  exact List.mem_of_find?_eq_some ha

theorem backStashes_of_no_stashes {w : Workgroup} (h : w.stashes = []) (s : State) (win : Option Nat) (reach : Reach) :
    s.backStashes w win reach = .ok (s, false) := by
  rw [State.backStashes, h]
  rfl

include hstash

theorem stashOut_of_no_stashes (g : Group) (m : BitVec 32) (reach : Reach) : s.stashOut g m reach = .ok s :=
  foldE_of_fixed fun w hw => by rw [backStashes_of_no_stashes (hstash w (mem_wgsOf hw))]; rfl

omit hstash in
theorem invalidate_sansLevels (s : State) (core : Nat) (sc : Scope) : (s.invalidate core sc).sansLevels = s.sansLevels := by cases sc <;> rfl

omit hstash in
theorem dropClean_sansLevels (s : State) (ws : List Workgroup) :
    (ws.foldl (fun s w => s.updWg w.wid Workgroup.dropClean) s).sansLevels = s.sansLevels :=
  foldl_same State.sansLevels (fun s (w : Workgroup) => s.updWg w.wid Workgroup.dropClean) (fun _ _ => rfl) ws s

/-- Without stash windows an acquire changes caches and workgroups alone. -/
theorem acquire_of_no_stashes (g : Group) (m : BitVec 32) (sc : Scope) : ∃ t, s.acquire g m sc = .ok t ∧ t.sansLevels = s.sansLevels := by
  cases sc
  case dev | sys =>
    rw [State.acquire, stashOut_of_no_stashes hstash]
    exact ⟨_, rfl, (invalidate_sansLevels ..).trans (dropClean_sansLevels ..)⟩
  case grp | wg | clu => exact ⟨_, rfl, invalidate_sansLevels ..⟩

end Acquire

/-! ### The end of a request that waits (04, R68) -/

theorem sends_of_same_outbox (e : Env) {s t : State} (h : t.outbox = s.outbox) : e.sends s t = t := by
  rw [Env.sends, h, List.drop_length]
  rfl

/-- Without stash windows the end of a settle takes its request away and leaves memory and contexts. -/
theorem endSettle_of_no_stashes {s : State} (hstash : ∀ w ∈ s.workgroups, w.stashes = []) (r : Request) (sc : Scope) :
    (s.endSettle r sc).mem = s.mem ∧ (s.endSettle r sc).contexts = s.contexts ∧
      (s.endSettle r sc).requests = s.requests.filter fun x => x.id != r.id := by
  rw [State.endSettle]
  split
  · exact ⟨rfl, rfl, rfl⟩
  next e _ =>
    split
    · exact ⟨rfl, rfl, rfl⟩
    · obtain ⟨t, ht, hsame⟩ := acquire_of_no_stashes (s := (s.closeWindow r.gid r.id).dropRequest r.id) hstash e.g e.actWord sc
      have hquiet : t.outbox = ((s.closeWindow r.gid r.id).dropRequest r.id).outbox := (congrArg State.outbox hsame :)
      rw [ht]
      dsimp only
      rw [sends_of_same_outbox e hquiet]
      exact ⟨(congrArg State.mem hsame :), (congrArg State.contexts hsame :), (congrArg State.requests hsame :)⟩

/-! ### Work on a binding, kept (04, R50) -/

/-- The Thermos at work on a binding from the operands that it holds. -/
def Binding.workIn (b : Binding) (s : State) (ctx : Nat) : Work := ⟨s, ctx, b, b.aInit, b.bInit⟩

/-- The machine that keeps what has been done. -/
def Work.result (w : Work) : State := w.s.updCtx w.ctx fun c => c.setBinding w.b

theorem binding?_congr {s t : State} (h : t.contexts = s.contexts) (ctx slot : Nat) : t.binding? ctx slot = s.binding? ctx slot := by
  rw [State.binding?, State.binding?, State.ctx?, State.ctx?, h]

section Result
variable {s : State} {ctx slot : Nat} {b : Binding} (hb : s.binding? ctx slot = some b)
include hb

theorem work_of_ready (hready : b.ready = true) {f : Work → Work} {u : Work} (hf : f (b.workIn s ctx) = u) (hctx : u.ctx = ctx) :
    s.work ctx slot f = some u.result := by
  subst hf
  rw [State.work, hb]
  dsimp only
  rw [hready, Work.result, hctx]
  rfl

variable {u : Work} (hu : (b.workIn s ctx).Within u)
include hu

/-- What is put in the slot in the end is found there while it lives. -/
theorem result_binding?_put {b' : Binding} (hslot : b'.slot = u.b.slot) :
    ({ u with b := b' } : Work).result.binding? ctx slot = if b'.live then some b' else none := by
  have hfound : u.s.binding? ctx slot = some b := (hu.bindings ctx slot).trans hb
  have hput := binding?_setBinding (b' := b') hfound (hslot.trans (hu.slot.trans (binding?_slot hb).1))
  rw [Work.result]
  dsimp only
  rw [hu.ctx]
  exact hput

theorem result_binding? : u.result.binding? ctx slot = some u.b :=
  (result_binding?_put hb hu rfl).trans (if_pos (hu.live.trans (binding?_slot hb).2))

end Result

/-- Work that is kept changes nothing of the machine beside it. -/
theorem result_sansC (w : Work) : w.result.sansC = w.s.sansC := rfl

theorem group?_congr {s t : State} (h : t.sansC = s.sansC) (k : Nat) : t.group? k = s.group? k := by
  rw [State.group?, State.group?, show t.groups = s.groups from (congrArg State.groups h :)]

/-! ### PBIND, PSTALE and PSTAT (04, R55, R64–R67) -/

/-- Bytes delivered without row exponents and flags. -/
theorem deliversTo_deliver {s : State} {r : Request} {g : Group} (hg : s.group? r.gid = some g) (ws : List LaneWrite) :
    DeliversTo s (s.deliver r ws) r g ws [] [] := by
  obtain ⟨hframe, hothers, hgroup⟩ := deliver_eq hg ws
  refine ⟨_, hframe, hothers, hgroup, ?_, fun n hn => ?_⟩
  · rw [Group.delivered, writes_withLanes]
    rfl
  · have hlane : (g.delivered r.id ws).lane n = (g.writes ws).lane n := rfl
    rw [hlane, lane_writes g ws hn, Lane.takes]
    cases g.isHelper n <;> rfl

/-- Bytes delivered where the Thermos has worked: its request is over, its lanes have them, and C and the bindings are as the work left them. -/
theorem deliver_after_work {s v : State} {r : Request} {g : Group} (hv : v.sansC = s.sansC) (hg : s.group? r.gid = some g) (ws : List LaneWrite) :
    (v.deliver r ws).mem = v.mem ∧ (∀ ctx k, (v.deliver r ws).binding? ctx k = v.binding? ctx k) ∧
      (∀ x ∈ (v.deliver r ws).requests, x ∈ s.requests ∧ x.id ≠ r.id) ∧
      ∃ grp, (v.deliver r ws).group? r.gid = some grp ∧ ∀ n, n < g.lanes.length → grp.lane n = (g.lane n).takes n (g.isHelper n) ws [] [] := by
  obtain ⟨grp, hframe, -, hgroup, -, hlanes⟩ := deliversTo_deliver ((group?_congr hv r.gid).trans hg) ws
  have hrequests : v.requests = s.requests := (congrArg State.requests hv :)
  refine ⟨rfl, fun _ _ => rfl, fun x hx => ?_, grp, hgroup, hlanes⟩
  rw [hframe] at hx
  obtain ⟨hmem, hid⟩ := List.mem_filter.mp hx
  exact ⟨hrequests ▸ hmem, by simpa using hid⟩

/-- All of C computed from scratch. -/
def Work.computeAll (w : Work) : Work := (w.b.allCells.foldl (fun u c => u.scratch c.1 c.2) w).roundingPass

/-- A binding is made: it is ready when C has been computed. -/
def Work.first (w : Work) : Work := { w.computeAll with b := { w.computeAll.b with ready := true } }

theorem rows_scratched_eq {w : Work} (is : List Nat) (his : ∀ i ∈ is, i < w.b.desc.m) {u : Work} (hu : w.Goes 0 (fun _ => False) u) :
    is.foldl (fun w i => (List.range w.b.desc.n).foldl (fun w j => w.scratch i j) w) u =
      (is.flatMap fun i => (List.range w.b.desc.n).map fun j => (i, j)).foldl (fun u c => u.scratch c.1 c.2) u := by
  induction is generalizing u with
  | nil => rfl
  | cons i is ih =>
    rw [List.foldl_cons, List.flatMap_cons, List.foldl_append, List.foldl_map, hu.desc]
    refine ih (fun k hk => his k (List.mem_cons_of_mem i hk)) (hu.trans (goes_foldl fun v j hj hv => goes_scratch ?_))
    exact hv.hasCell.mpr (hu.hasCell.mpr ⟨his i List.mem_cons_self, List.mem_range.mp hj⟩)

theorem goes_computeAll (w : Work) : w.Goes 0 (fun _ => False) w.computeAll :=
  (goes_foldl fun _ _ hc hu => goes_scratch (hu.hasCell.mpr (mem_allCells.mp hc))).trans (goes_roundingPass _)

theorem computeAll_cAt {w : Work} (hexact : w.b.desc.exact = false) (hapart : w.b.cApart) {c : Nat × Nat} (hc : w.b.hasCell c) :
    w.computeAll.cAt c.1 c.2 = w.b.product w.a w.bb c := by
  have hgo : w.Goes 0 (fun _ => False) (w.b.allCells.foldl (fun u c => u.scratch c.1 c.2) w) :=
    goes_foldl fun _ _ he hu => goes_scratch (hu.hasCell.mpr (mem_allCells.mp he))
  rw [Work.computeAll, roundingPass_of_round (by rw [hgo.desc, hexact])]
  exact allScratched_cAt hexact hapart hc

section Replies
variable {s : State} {id : Nat} {r : Request} (hr : s.live? id = some r)
include hr

theorem exec_pbindComplete_of_refused {word dest : Nat} {act : BitVec 32} (hj : r.job = .pbind word dest act none) :
    exec (.pbindComplete id) s = .next (s.deliver r ((lanesOf act).map fun i => ⟨i, dest, leBytes 4 word⟩)) := by
  rw [exec_pbindComplete, execPbindComplete, hr]
  dsimp only
  rw [hj]

theorem exec_pbindComplete_of_bound {word dest k : Nat} {act : BitVec 32} (hj : r.job = .pbind word dest act (some k)) {b : Binding}
    (hb : s.binding? r.ctx k = some b) :
    exec (.pbindComplete id) s = .next ((b.workIn s r.ctx).first.result.deliver r
      ((lanesOf act).map fun i => ⟨i, dest, leBytes 4 word⟩)) := by
  have hrows := rows_scratched_eq (List.range b.desc.m) (fun i hi => List.mem_range.mp hi) (.refl (b.workIn s r.ctx))
  have hctx := (goes_computeAll (b.workIn s r.ctx)).ctx
  rw [exec_pbindComplete, execPbindComplete, hr]
  dsimp only
  rw [hj]
  dsimp only
  rw [hb, Work.result, Work.first]
  dsimp only
  rw [hctx]
  simp only [Binding.workIn] at hrows
  rw [hrows]
  rfl

theorem exec_thermosStatusReply_of_bound {stat : Bool} {slot dest : Nat} {act : BitVec 32} (hj : r.job = .pstatus stat slot dest act) {b : Binding}
    (hb : s.binding? r.ctx slot = some b) :
    exec (.thermosStatusReply id) s = .next ((s.updCtx r.ctx fun x => x.setBinding
        (if stat then { b with refr := 0, refreshed := false, collapsed := false, peak := b.occupancy } else b)).deliver r
      ((lanesOf act).map fun i => ⟨i, dest, leBytes 8 (b.report stat)⟩)) := by
  rw [exec_thermosStatusReply, execThermosStatusReply, hr]
  dsimp only
  rw [hj]
  dsimp only
  rw [hb]

end Replies

end Sys2Proof.Machine
end

section
/-! SUPPORT. The clauses about what the Thermos does (04, R50–R57, R64–R71). -/

namespace Sys2Proof.Machine

/-! ### PBIND_COMPLETE (04, R55, R64) -/

section Bound
variable {s : State} {id : Nat} {r : Request} {g : Group} (hr : s.live? id = some r) (hg : s.group? r.gid = some g)
include hr hg

/-- A binding that is made is ready, and nothing outside C is written. -/
theorem pbindComplete_of_bound {word dest k : Nat} {act : BitVec 32} {b : Binding} (hj : r.job = .pbind word dest act (some k))
    (hb : s.binding? r.ctx k = some b) : ∃ t c, exec (.pbindComplete id) s = .next t ∧
      t.binding? r.ctx k = some c ∧ c.ready = true ∧ (∀ m, b.outsideC m → t.mem.get m = s.mem.get m) ∧
      (∀ x ∈ t.requests, x ∈ s.requests ∧ x.id ≠ id) ∧
      (∃ grp, t.group? r.gid = some grp ∧ ∀ n, n < g.lanes.length → grp.lane n =
        (g.lane n).takes n (g.isHelper n) ((lanesOf act).map (fun i => ⟨i, dest, leBytes 4 word⟩)) [] []) ∧
      (b.desc.exact = false → b.cApart → ∀ i j, i < b.desc.m → j < b.desc.n → t.mem.nat (b.cPa i j) (typeSize b.desc.tc) =
        scratchRound (typeFmt b.desc.ta) (typeFmt b.desc.tb) (typeFmt b.desc.tc) (pairsOf b b.aInit b.bInit i j) % 256 ^ typeSize b.desc.tc) := by
  have hgo := goes_computeAll (b.workIn s r.ctx)
  have hput : (b.workIn s r.ctx).first.result.binding? r.ctx k = some (b.workIn s r.ctx).first.b :=
    (result_binding?_put (b' := (b.workIn s r.ctx).first.b) hb hgo.toWithin rfl).trans (if_pos (hgo.live.trans (binding?_slot hb).2))
  obtain ⟨hmem, hbinding, hrequests, hgroup⟩ := deliver_after_work ((result_sansC (b.workIn s r.ctx).first).trans hgo.machine) hg
    ((lanesOf act).map fun i => ⟨i, dest, leBytes 4 word⟩)
  rw [live?_id hr] at hrequests
  refine ⟨_, (b.workIn s r.ctx).first.b, exec_pbindComplete_of_bound hr hj hb, (hbinding ..).trans hput, rfl, fun m hm => ?_, hrequests, hgroup,
    fun hexact hapart i j hi hj => ?_⟩
  · rw [hmem]
    exact hgo.outside m hm
  · rw [hmem]
    exact (hgo.cAt i j).symm.trans (computeAll_cAt (c := (i, j)) hexact hapart ⟨hi, hj⟩)

end Bound

/-! ### PSETTLE, PUNBIND and PREFRESH (04, R68–R71) -/

/-- A binding settled, and its C rounded. -/
def Work.settled (w : Work) (q : Nat) (canon : Bool) : Work := (w.settle q canon).roundingPass

/-- A binding settled and ended (R70). -/
def Work.unbound (w : Work) (q : Nat) (canon : Bool) : Work := { w.settled q canon with b := (w.settled q canon).b.ended }

/-- A binding settled and one row of C refreshed then (R71). -/
def Work.rowRefreshed (w : Work) (q i : Nat) (canon : Bool) : Work :=
  let t := w.settle q canon
  t.refreshFrom ⟨false, i⟩ (t.b.reach ⟨false, i⟩ (max q t.b.applied))

section Settled
variable {w : Work} {q : Nat} (hw : w.b.orderly) (hq : q ≤ w.b.lastNo) (canon : Bool)
include hw

theorem within_settled : w.Within (w.settled q canon) :=
  (within_settle hw canon).trans (goes_roundingPass (q := q) (P := fun _ => False) (w.settle q canon)).toWithin

include hq

theorem applied_settled : max w.b.applied q ≤ (w.settled q canon).b.applied :=
  (applied_settle hw hq canon).trans (goes_roundingPass (q := q) (P := fun _ => False) (w.settle q canon)).applied.symm.le

theorem lt_of_mem_settled {x : Diff} (hx : x ∈ (w.settled q canon).b.diffs) : q < x.no := by
  obtain ⟨y, hy, hxy⟩ := (goes_roundingPass (q := q) (P := fun _ => False) (w.settle q canon)).old x hx
  rw [show x.no = y.no by rw [hxy]]
  exact lt_of_mem_settle hw hq hy

theorem mem_settled {x : Diff} (hx : x ∈ w.b.diffs) (hno : (w.settled q canon).b.applied < x.no) : x ∈ (w.settled q canon).b.diffs := by
  have hpass := goes_roundingPass (q := q) (P := fun _ => False) (w.settle q canon)
  have happlied := applied_settled hw hq canon
  exact hpass.kept x (mem_settle hw hq hx (hpass.applied.symm.le.trans_lt hno)) ((le_max_right ..).trans_lt (happlied.trans_lt hno))

end Settled

section RowRefreshed
variable {w : Work} {q i : Nat} (hw : w.b.orderly) (hq : q ≤ w.b.lastNo) (hi : i < w.b.desc.m) (canon : Bool)
include hw hi

theorem goes_rowRefresh : (w.settle q canon).Goes q (fun _ => True) (w.rowRefreshed q i canon) :=
  goes_refreshFrom (l := ⟨false, i⟩) (by rwa [(within_settle hw canon).hasLine]) trivial

theorem within_rowRefreshed : w.Within (w.rowRefreshed q i canon) := (within_settle hw canon).trans (goes_rowRefresh hw hi canon).toWithin

theorem le_rowQ_rowRefreshed : q ≤ (w.rowRefreshed q i canon).b.rowQ.getD i 0 := by
  have hnumbers : (w.settle q canon).b.numbersLines := (goes_settling hw canon).numbersLines (orderly_numbersLines hw)
  refine ((le_max_left ..).trans (le_reach _ _ _)).trans (le_refreshedAt_refreshFrom (l := ⟨false, i⟩) hnumbers ?_ _)
  rwa [(within_settle hw canon).hasLine]

include hq

theorem applied_rowRefreshed : max w.b.applied q ≤ (w.rowRefreshed q i canon).b.applied :=
  (applied_settle hw hq canon).trans (goes_rowRefresh hw hi canon).applied.symm.le

/-- Where the settle is the latest that C has seen, the row holds what the operands make as they stand after it. -/
theorem rowRefreshed_cAt (hexact : w.b.desc.exact = false) (hapart : w.b.cApart) (happlied : w.b.applied ≤ q) (hmarked : w.b.marked = [])
    (hpoints : ∀ p ∈ w.b.points, p ≤ q) {j : Nat} (hj : j < w.b.desc.n) : (w.rowRefreshed q i canon).s.mem.nat (w.b.cPa i j) (typeSize w.b.desc.tc) =
      w.b.product (w.rowRefreshed q i canon).b.aInit (w.rowRefreshed q i canon).b.bInit (i, j) := by
  have hsettle := within_settle (q := q) hw canon
  have hgo := goes_rowRefresh (q := q) hw hi canon
  have hstand : ∀ p ∈ (w.settle q canon).b.points, p ≤ q := fun p hp => (point_settling hw hmarked hpoints canon p hp).le
  have hcells : w.b.points ≠ [] := by
    rw [← List.length_pos_iff, orderly_points hw]
    exact Nat.mul_pos (Nat.zero_lt_of_lt hi) (Nat.zero_lt_of_lt hj)
  have hnumber : (w.settle q canon).b.reach ⟨false, i⟩ (max q (w.settle q canon).b.applied) = q := by
    rw [applied_settle_of_latest hw hq hmarked hpoints happlied hcells canon, max_self, reach_eq hstand]
  rw [← (within_rowRefreshed hw hi canon).cAt, hgo.operands.1, hgo.operands.2, ← hsettle.product, Work.rowRefreshed, hnumber]
  exact refreshFrom_cAt (w := w.settle q canon) (by rw [hsettle.desc, hexact]) (hsettle.cApart.mpr hapart)
    ((hsettle.hasLine (l := ⟨false, i⟩)).mpr hi) hstand (fun d hd => lt_of_mem_settle hw hq hd) (i, j) (mem_row_cells i (by rwa [hsettle.desc]))

end RowRefreshed

/-! ### The requests that settle (04, R68–R71) -/

/-- The one line that a selector of a row names. -/
theorem selected_row (b : Binding) {sel : Word} {i : Nat} (hkind : bits sel.toNat 30 2 = 1) (hrow : bits sel.toNat 0 20 = i) :
    selected b sel = [⟨false, i⟩] := by
  simp only [selected, hkind, hrow]

/-- A request that settles is over: C and the bindings are as its work left them. -/
theorem endSettle_result {s : State} (hstash : ∀ w ∈ s.workgroups, w.stashes = []) {v : Work} (hv : v.s.sansC = s.sansC) (r : Request) (sc : Scope) :
    (v.result.endSettle r sc).mem = v.s.mem ∧ (∀ ctx slot, (v.result.endSettle r sc).binding? ctx slot = v.result.binding? ctx slot) ∧
      (v.result.endSettle r sc).requests = s.requests.filter fun x => x.id != r.id := by
  have hgroups : v.result.workgroups = s.workgroups := (congrArg State.workgroups hv :)
  have hrequests : v.result.requests = s.requests := (congrArg State.requests hv :)
  obtain ⟨hmem, hcontexts, hover⟩ := endSettle_of_no_stashes (hgroups.symm ▸ hstash) r sc
  exact ⟨hmem, binding?_congr hcontexts, hrequests ▸ hover⟩

section Settles
variable {s : State} {id slot q : Nat} {sc : Scope} {r : Request} {b : Binding} (hr : s.live? id = some r) (hb : s.binding? r.ctx slot = some b)
  (hready : b.ready = true) (horderly : b.orderly)

section Exec
include hr

theorem exec_psettleComplete_async {ctr : Nat} {cs : List Published} (hj : r.job = .psettle slot q sc (some ctr) cs) {u v : State}
    (hu : s.work r.ctx slot (fun w => (w.settle q (s.detOf r)).roundingPass) = some u) (hv : u.signalVa r.ctx (0, 0) ctr = .ok v) (y : RemoteReply) :
    exec (.psettleComplete ⟨id, y⟩) s = .next (u.withAck r y ((v.publish (v.counterPa r.ctx ctr) cs).dropRequest id)) := by
  rw [exec_psettleComplete, execPsettleComplete, hr]
  dsimp only
  rw [hj]
  dsimp only
  rw [hu]
  dsimp only
  rw [hv]

/-- PUNBIND waits for the earlier requests of its binding. -/
theorem exec_punbindComplete_waits (hj : r.job = .punbind slot q sc)
    (hearlier : ∃ x ∈ s.requests, x.ctx = r.ctx ∧ x.id < id ∧ ∃ k f c l, x.job = .psettle slot k f c l) : exec (.punbindComplete id) s = .next s := by
  obtain ⟨x, hx, hctx, hid, k, f, c, l, hjob⟩ := hearlier
  rw [exec_punbindComplete, execPunbindComplete, hr]
  dsimp only
  rw [hj]
  dsimp only
  refine if_pos (List.any_eq_true.mpr ⟨x, hx, ?_⟩)
  rw [hctx, hjob, decide_eq_true hid, beq_self_eq_true]
  exact beq_self_eq_true slot

include hb hready horderly

theorem exec_psettleComplete_eq (hj : r.job = .psettle slot q sc none []) (y : RemoteReply) :
    exec (.psettleComplete ⟨id, y⟩) s = .next (((b.workIn s r.ctx).settled q (s.detOf r)).result.endSettle r sc) := by
  rw [exec_psettleComplete, execPsettleComplete, hr]
  dsimp only
  rw [hj]
  dsimp only
  rw [work_of_ready hb hready rfl (within_settled (w := b.workIn s r.ctx) horderly _).ctx]
  rfl

theorem exec_punbindComplete_eq (hj : r.job = .punbind slot q sc) (hfirst : ∀ x ∈ s.requests, x.ctx = r.ctx → id ≤ x.id) :
    exec (.punbindComplete id) s = .next (((b.workIn s r.ctx).unbound q (s.detOf r)).result.endSettle r sc) := by
  rw [exec_punbindComplete, execPunbindComplete, hr]
  dsimp only
  rw [hj]
  dsimp only
  rw [if_neg ?first, work_of_ready (u := (b.workIn s r.ctx).unbound q (s.detOf r)) hb hready rfl (within_settled (w := b.workIn s r.ctx) horderly _).ctx]
  case first =>
    refine Bool.eq_false_iff.mp (List.any_eq_false.mpr fun x hx => ?_)
    by_cases hctx : x.ctx = r.ctx
    · simp [hctx, Nat.not_lt.mpr (hfirst x hx hctx)]
    · simp [hctx]

theorem exec_prefreshComplete_eq {i : Nat} {sel : Word} (hj : r.job = .prefresh slot q sc sel) (hkind : bits sel.toNat 30 2 = 1)
    (hrow : bits sel.toNat 0 20 = i) (hi : i < b.desc.m) :
    exec (.prefreshComplete id) s = .next (((b.workIn s r.ctx).rowRefreshed q i (s.detOf r)).roundingPass.result.endSettle r sc) := by
  have hctx := ((goes_roundingPass (q := 0) (P := fun _ => False) _).toWithin.ctx).trans
    (within_rowRefreshed (w := b.workIn s r.ctx) (q := q) horderly hi (s.detOf r)).ctx
  rw [exec_prefreshComplete, execPrefreshComplete, hr]
  dsimp only
  rw [hj]
  dsimp only
  rw [work_of_ready hb hready ?row hctx]
  case row =>
    simp only [selected_row _ hkind hrow, hkind, List.foldl_cons, List.foldl_nil]
    rfl

end Exec

variable (hq : q ≤ b.lastNo) (hstash : ∀ w ∈ s.workgroups, w.stashes = [])
include hr hb hready horderly hq hstash

/-- PSETTLE leaves no difference through its number, and no byte outside C differs. -/
theorem psettleComplete_settles (hj : r.job = .psettle slot q sc none []) (y : RemoteReply) :
    ∃ t c, exec (.psettleComplete ⟨id, y⟩) s = .next t ∧ t.binding? r.ctx slot = some c ∧ max b.applied q ≤ c.applied ∧
      (∀ x ∈ c.diffs, q < x.no) ∧ (∀ x ∈ b.diffs, c.applied < x.no → x ∈ c.diffs) ∧ (∀ m, b.outsideC m → t.mem.get m = s.mem.get m) ∧
      t.requests = s.requests.filter (fun x => x.id != id) := by
  have hwithin : (b.workIn s r.ctx).Within ((b.workIn s r.ctx).settled q (s.detOf r)) := within_settled horderly _
  obtain ⟨hmem, hbinding, hrequests⟩ := endSettle_result hstash hwithin.machine r sc
  rw [live?_id hr] at hrequests
  refine ⟨_, _, exec_psettleComplete_eq hr hb hready horderly hj y, (hbinding ..).trans (result_binding? hb hwithin),
    applied_settled (w := b.workIn s r.ctx) horderly hq _, fun x hx => lt_of_mem_settled (w := b.workIn s r.ctx) horderly hq _ hx,
    fun x hx hno => mem_settled (w := b.workIn s r.ctx) horderly hq _ hx hno, fun m hm => ?_, hrequests⟩
  rw [hmem]
  exact hwithin.outside m hm

omit hq in
/-- PUNBIND, first of the requests of its context, settles and ends its binding. -/
theorem punbindComplete_ends (hj : r.job = .punbind slot q sc) (hfirst : ∀ x ∈ s.requests, x.ctx = r.ctx → id ≤ x.id) :
    ∃ t, exec (.punbindComplete id) s = .next t ∧ t.binding? r.ctx slot = none ∧ (∀ m, b.outsideC m → t.mem.get m = s.mem.get m) ∧
      t.requests = s.requests.filter (fun x => x.id != id) := by
  have hwithin : (b.workIn s r.ctx).Within ((b.workIn s r.ctx).settled q (s.detOf r)) := within_settled horderly _
  obtain ⟨hmem, hbinding, hrequests⟩ := endSettle_result (v := (b.workIn s r.ctx).unbound q (s.detOf r)) hstash hwithin.machine r sc
  rw [live?_id hr] at hrequests
  refine ⟨_, exec_punbindComplete_eq hr hb hready horderly hj hfirst, (hbinding ..).trans ?_, fun m hm => ?_, hrequests⟩
  · exact result_binding?_put (b' := ((b.workIn s r.ctx).settled q (s.detOf r)).b.ended) hb hwithin rfl
  · rw [hmem]
    exact hwithin.outside m hm

/-- PREFRESH of a row settles, and computes the row from the operands as they stand then. -/
theorem prefreshComplete_refreshes {i : Nat} {sel : Word} (hj : r.job = .prefresh slot q sc sel) (hkind : bits sel.toNat 30 2 = 1)
    (hrow : bits sel.toNat 0 20 = i) (hi : i < b.desc.m) :
    ∃ t c, exec (.prefreshComplete id) s = .next t ∧ t.binding? r.ctx slot = some c ∧ max b.applied q ≤ c.applied ∧ q ≤ c.rowQ.getD i 0 ∧
      (∀ m, b.outsideC m → t.mem.get m = s.mem.get m) ∧ t.requests = s.requests.filter (fun x => x.id != id) ∧
      (b.desc.exact = false → b.cApart → b.applied ≤ q → b.marked = [] → (∀ p ∈ b.points, p ≤ q) →
        ∀ j, j < b.desc.n → t.mem.nat (b.cPa i j) (typeSize b.desc.tc) =
          scratchRound (typeFmt b.desc.ta) (typeFmt b.desc.tb) (typeFmt b.desc.tc) (pairsOf b c.aInit c.bInit i j) % 256 ^ typeSize b.desc.tc) := by
  have hpass := goes_roundingPass (q := q) (P := fun _ => False) ((b.workIn s r.ctx).rowRefreshed q i (s.detOf r))
  have hrow' : (b.workIn s r.ctx).Within ((b.workIn s r.ctx).rowRefreshed q i (s.detOf r)) := within_rowRefreshed horderly hi _
  have hwithin := hrow'.trans hpass.toWithin
  obtain ⟨hmem, hbinding, hrequests⟩ := endSettle_result hstash hwithin.machine r sc
  rw [live?_id hr] at hrequests
  refine ⟨_, _, exec_prefreshComplete_eq hr hb hready horderly hj hkind hrow hi, (hbinding ..).trans (result_binding? hb hwithin), ?_, ?_, fun m hm => ?_,
    hrequests, fun hexact hapart happlied hmarked hpoints j hj => ?_⟩
  · exact (applied_rowRefreshed (w := b.workIn s r.ctx) horderly hq hi _).trans hpass.applied.symm.le
  · exact (le_rowQ_rowRefreshed (w := b.workIn s r.ctx) horderly hi _).trans (hpass.refreshed ⟨false, i⟩)
  · rw [hmem]
    exact hwithin.outside m hm
  · rw [hmem, hpass.operands.1, hpass.operands.2, roundingPass_of_round (by rw [hrow'.desc]; exact hexact)]
    exact rowRefreshed_cAt (w := b.workIn s r.ctx) horderly hq hi _ hexact hapart happlied hmarked hpoints hj

end Settles

/-! ### THERMOS_BACKGROUND_APPLY (04, R51, R57) -/

/-- A background step that leaves no element behind and refreshes no line. -/
def Work.background (w : Work) (q : Nat) : Work :=
  (w.ahead (fun c => !([] : List (Bool × Nat)).contains (false, c.1) && !([] : List (Bool × Nat)).contains (true, c.2)) q).advance

section Background
variable {s : State} {ctx slot n : Nat} {c : Context} {b : Binding} (hc : s.ctx? ctx = some c) (hb : c.binding? slot = some b)
include hc hb

theorem binding?_of_ctx : s.binding? ctx slot = some b := by
  rw [State.binding?, hc]
  exact hb

/-- A binding without a background policy whose queue is not collapsing has no background step. -/
theorem exec_thermosBackgroundApply_idle (hpolicy : b.desc.background = false) (hqueue : b.collapsing = false) (p : Picks) :
    exec (.thermosBackgroundApply ctx slot n p) s = .next s := by
  rw [exec_thermosBackgroundApply, execThermosBackgroundApply, hc]
  dsimp only
  rw [hb]
  dsimp only
  rw [hpolicy, hqueue, Bool.or_false, Bool.not_false, Bool.or_true, if_pos rfl]

variable (hready : b.ready = true) (horderly : b.orderly) (hgoes : c.goesOn (.thermos b.die) = true) (hn : n ≤ b.lastNo)
  (hpolicy : b.desc.background = true ∨ b.collapsing = true)
include horderly

omit hc hb in
theorem within_background : (b.workIn s ctx).Within ((b.workIn s ctx).background n) := by
  rw [Work.background, ahead_eq]
  exact (goes_stepAhead (w := b.workIn s ctx) (q := n) horderly).toWithin.trans ((within_advance _).trans (within_advance _))

include hready hgoes hn hpolicy

theorem exec_thermosBackgroundApply_eq : exec (.thermosBackgroundApply ctx slot n ⟨[], []⟩) s = .next ((b.workIn s ctx).background n).result := by
  have hnone : b.marked.filter (fun m => ([] : List (Bool × Nat)).contains (m.1.col, m.1.no)) = [] := List.filter_eq_nil_iff.mpr fun _ _ => by simp
  have hgo : (!c.goesOn (.thermos b.die) || decide (b.lastNo < n) || !(b.desc.background || b.collapsing)) = false := by
    rw [hgoes, decide_eq_false (Nat.not_lt.mpr hn), (Bool.or_eq_true_iff.mpr hpolicy)]
    rfl
  rw [exec_thermosBackgroundApply, execThermosBackgroundApply, hc]
  dsimp only
  rw [hb]
  dsimp only
  rw [hgo, hnone, if_neg Bool.false_ne_true, work_of_ready (binding?_of_ctx hc hb) hready rfl (within_background horderly).ctx]
  rfl

/-- A background step applies what it is told, up to the first lost difference. -/
theorem thermosBackgroundApply_applies : ∃ t x, exec (.thermosBackgroundApply ctx slot n ⟨[], []⟩) s = .next t ∧
    t.binding? ctx slot = some x ∧ b.applied ≤ x.applied ∧
    ((∀ d ∈ b.diffs, d.lost = true → n < d.no) → n ≤ x.applied ∧ ∀ y ∈ x.diffs, n < y.no) ∧
    (∀ m, b.outsideC m → t.mem.get m = s.mem.get m) ∧ t.requests = s.requests ∧ t.groups = s.groups := by
  have hwithin : (b.workIn s ctx).Within ((b.workIn s ctx).background n) := within_background horderly
  have hmachine : ((b.workIn s ctx).background n).result.sansC = s.sansC := (result_sansC _).trans hwithin.machine
  refine ⟨_, _, exec_thermosBackgroundApply_eq hc hb hready horderly hgoes hn hpolicy, result_binding? (binding?_of_ctx hc hb) hwithin, ?_,
    fun hlost => ?_, hwithin.outside, (congrArg State.requests hmachine :), (congrArg State.groups hmachine :)⟩
  · exact (goes_stepAhead (w := b.workIn s ctx) horderly).applied.symm.le.trans (applied_le_advance.trans applied_le_advance)
  · have hsettled := settledThrough_advance (settledThrough_stepAhead (w := b.workIn s ctx) horderly (fun _ => rfl) hn hlost)
    exact ⟨le_advance_applied hsettled, fun y hy => lt_of_mem_advance hsettled hy⟩

end Background

/-- Settles O46: each request by the work that it makes of its binding, kept within C. -/
theorem standingProductRequests : Obligations.StandingProductRequests := by
  unfold Obligations.StandingProductRequests
  refine ⟨fun s id r g hr hg => ⟨fun word dest act hj => ?refused, fun word dest act k b hj hb => pbindComplete_of_bound hr hg hj hb,
      fun stat slot dest act b hj hb => ?status⟩,
    fun s id slot q sc r b hr hb hready horderly hq hstash => ⟨fun hj y => psettleComplete_settles hr hb hready horderly hq hstash hj y,
      fun ctr cs hj => ?async, fun hj => ⟨fun hearlier => exec_punbindComplete_waits hr hj hearlier,
        fun hfirst => punbindComplete_ends hr hb hready horderly hstash hj hfirst⟩,
      fun i sel hj hkind hrow hi => prefreshComplete_refreshes hr hb hready horderly hq hstash hj hkind hrow hi⟩,
    fun s ctx slot n c b hc hb hready horderly hgoes hn => ⟨fun hpolicy => thermosBackgroundApply_applies hc hb hready horderly hgoes hn hpolicy,
      fun hpolicy hqueue p => exec_thermosBackgroundApply_idle hc hb hpolicy hqueue p⟩,
    fun w i j n d x neg hexact hsum => correct_cAt hexact hsum⟩
  case refused => exact ⟨_, exec_pbindComplete_of_refused hr hj, deliversTo_deliver hg _⟩
  case status => exact ⟨_, exec_thermosStatusReply_of_bound hr hj hb, deliversTo_deliver (by exact hg) _⟩
  case async =>
    have hwork := work_of_ready (f := fun w => (w.settle q (s.detOf r)).roundingPass) hb hready rfl
      (within_settled (w := b.workIn s r.ctx) horderly _).ctx
    exact ⟨_, hwork, fun v y hv => exec_psettleComplete_async hr hj hwork hv y⟩

end Sys2Proof.Machine
end

section
/-! SUPPORT. Proofs about the paths of a group: arrival, merge and divergence (06, R83, R84; 08, R145). -/

namespace Sys2Proof.Machine

@[simp] theorem slot_setSlot_flip (g : Group) (b : Bool) (x : Slot) : (g.setSlot (!b) x).slot b = g.slot b := by cases b <;> rfl

/-! ### What a merge takes from the stack (06, R84) -/

section Pop
variable {g : Group} {b : Bool}

theorem popPath_of_held (h : (g.slot b).path.isSome = true) : g.popPath b = g := by
  rw [Group.popPath]
  split
  · exact if_neg (by rw [Option.isNone_iff_eq_none]; exact Option.isSome_iff_ne_none.mp h)
  · rfl

theorem popPath_of_free {x : Slot} {r : List Entry} (hstack : g.stack = .path x :: r) (h : (g.slot b).path = none) :
    g.popPath b = { g.setSlot b x with stack := r } := by
  rw [Group.popPath, hstack]
  exact if_pos (by rw [h]; rfl)

theorem popPath_of_no_path (h : ∀ x r, g.stack ≠ .path x :: r) : g.popPath b = g := by
  rw [Group.popPath]
  split
  · next x r hstack => exact absurd hstack (h x r)
  · rfl

theorem popFrame_of_frame {o : Frame} {r : List Entry} (hstack : g.stack = .frame o :: r) (hjr : g.jr = none) :
    g.popFrame = { g with jr := some o, stack := r } := by
  rw [Group.popFrame, hstack]
  exact if_pos (by rw [hjr]; rfl)

theorem popFrame_of_no_frame (h : ∀ o r, g.stack ≠ .frame o :: r) : g.popFrame = g := by
  rw [Group.popFrame]
  split
  · next o r hstack => exact absurd hstack (h o r)
  · rfl

@[simp] theorem popFrame_slot (g : Group) (c : Bool) : g.popFrame.slot c = g.slot c := by
  rw [Group.popFrame]
  split
  · split <;> rfl
  · rfl

@[simp] theorem popPath_slot_other (g : Group) (b : Bool) : (g.popPath (!b)).slot b = g.slot b := by
  rw [Group.popPath]
  split
  · split
    · exact slot_setSlot_flip ..
    · rfl
  · rfl

end Pop

/-! ### Arrival (06, R84) -/

/-- A group whose path of slot `b` has arrived in the frame `f`. -/
def Group.arrivedIn (g : Group) (b : Bool) (f : Frame) : Group := { g with jr := some f }.setSlot b Slot.free

/-- A group in whose slot `b` the lanes of the frame `f` go on from the join, with the outer join. -/
def Group.rejoined (g : Group) (b : Bool) (f : Frame) : Group :=
  { g with jr := none }.setSlot b (Slot.ofPath ⟨f.join, f.arrived, f.outer, f.line⟩)

section Arrival
variable {g : Group} {b : Bool} {f : Frame}

@[simp] theorem arrivedIn_slot : (g.arrivedIn b f).slot b = Slot.free := Group.setSlot_slot ..
@[simp] theorem arrivedIn_other : (g.arrivedIn b f).slot (!b) = g.slot (!b) := Group.setSlot_other ..
@[simp] theorem arrivedIn_jr : (g.arrivedIn b f).jr = some f := Group.setSlot_jr ..
@[simp] theorem arrivedIn_stack : (g.arrivedIn b f).stack = g.stack := Group.setSlot_stack ..
@[simp] theorem arrivedIn_lanes : (g.arrivedIn b f).lanes = g.lanes := Group.setSlot_lanes ..

@[simp] theorem rejoined_slot : (g.rejoined b f).slot b = Slot.ofPath ⟨f.join, f.arrived, f.outer, f.line⟩ := Group.setSlot_slot ..
@[simp] theorem rejoined_other : (g.rejoined b f).slot (!b) = g.slot (!b) := Group.setSlot_other ..
@[simp] theorem rejoined_jr : (g.rejoined b f).jr = none := Group.setSlot_jr ..
@[simp] theorem rejoined_stack : (g.rejoined b f).stack = g.stack := Group.setSlot_stack ..

theorem arriveTest_of_arrival {p : Path} (hpath : (g.slot b).path = some p) (harrives : p.mask = 0 ∨ p.join = some p.pc) (hjr : g.jr = some f) :
    g.arriveTest b = Group.merge (g.stack.length + 2) b (g.arrivedIn b { f with arrived := f.arrived ||| p.mask }) := by
  rw [Group.arriveTest, hpath]
  dsimp only
  rw [if_pos (by rwa [Bool.or_eq_true, beq_iff_eq, beq_iff_eq]), hjr]
  rfl

theorem merge_of_sibling (n : Nat) {q : Path} (h : (g.slot (!b)).path = some q) : Group.merge (n + 1) b g = g := by
  rw [Group.merge]
  exact if_pos (by rw [h, Option.isSome_some, Bool.or_true])

/-- With no sibling left the frame's path is formed, and what lies on the stack is popped into what is free. -/
theorem merge_of_last (n : Nat) (hfree : (g.slot (!b)).path = none) (hsome : f.arrived ≠ 0) (houter : f.outer ≠ some f.join) :
    Group.merge (n + 1) b (g.arrivedIn b f) = ((g.rejoined b f).popPath (!b)).popFrame := by
  have hnone : ¬(((g.arrivedIn b f).slot b).path.isSome || ((g.arrivedIn b f).slot (!b)).path.isSome) = true := by
    rw [arrivedIn_slot, arrivedIn_other, hfree]
    exact Bool.false_ne_true
  have hformed : ({ g.arrivedIn b f with jr := none } : Group).setSlot b (Slot.ofPath ⟨f.join, f.arrived, f.outer, f.line⟩) = g.rejoined b f := by
    cases b <;> rfl
  have hheld : (g.rejoined b f).popPath b = g.rejoined b f := popPath_of_held (by rw [rejoined_slot]; rfl)
  rw [Group.merge, if_neg hnone, arrivedIn_jr]
  dsimp only
  rw [if_pos (bne_iff_ne.mpr hsome), if_pos (bne_iff_ne.mpr hsome), if_neg (mt beq_iff_eq.mp houter)]
  exact congrArg (fun x : Group => (x.popPath (!b)).popFrame) ((congrArg (Group.popPath · b) hformed).trans hheld)

/-- A path formed at the join keeps its slot while what lies on the stack is popped. -/
theorem pops_slot (m : Group) (b : Bool) : (m.popPath (!b)).popFrame.slot b = m.slot b := by rw [popFrame_slot, popPath_slot_other]

end Arrival

/-- Settles O32: an arrival is a merge of the frame that counts the arrived lanes, which waits for a sibling, or forms the frame's path and takes what
lies on the stack. -/
theorem pathsMergeAtTheJoin : Obligations.PathsMergeAtTheJoin := by
  unfold Obligations.PathsMergeAtTheJoin
  intro g b p f hpath harrives hjr houter hsome
  have hlanes := (arriveTest_gid g b).2
  have harrive := arriveTest_of_arrival hpath harrives hjr
  refine ⟨fun q hq => ?_, fun hfree => ?_⟩
  · rw [merge_of_sibling _ (arrivedIn_other.symm ▸ hq)] at harrive
    rw [harrive, arrivedIn_slot]
    exact ⟨arrivedIn_jr, rfl, arrivedIn_other, arrivedIn_stack, arrivedIn_lanes⟩
  · replace harrive := harrive.trans (merge_of_last _ hfree hsome houter)
    refine ⟨by rw [harrive, pops_slot, rejoined_slot], hlanes, fun hempty => ?_, fun o r hframe => ?_, fun x honly => ?_, fun x o r hboth => ?_⟩
    · rw [popPath_of_no_path (by simp [hempty]), popFrame_of_no_frame (by simp [hempty])] at harrive
      rw [harrive, rejoined_other, rejoined_jr, rejoined_stack]
      exact ⟨hfree, rfl, hempty⟩
    · rw [popPath_of_no_path (by simp [hframe]), popFrame_of_frame (by rw [rejoined_stack, hframe]) rejoined_jr] at harrive
      rw [harrive]
      exact ⟨(congrArg Slot.path rejoined_other).trans hfree, rfl, rfl⟩
    · rw [popPath_of_free (by rw [rejoined_stack, honly]) (by rw [rejoined_other, hfree]), popFrame_of_no_frame (by simp)] at harrive
      rw [harrive]
      exact ⟨Group.setSlot_slot .., (Group.setSlot_jr ..).trans rejoined_jr, rfl⟩
    · rw [popPath_of_free (by rw [rejoined_stack, hboth]) (by rw [rejoined_other, hfree])] at harrive
      rw [harrive.trans (popFrame_of_frame rfl ((Group.setSlot_jr ..).trans rejoined_jr))]
      exact ⟨Group.setSlot_slot .., rfl, rfl⟩

/-! ### A word that replaces its group -/

section Replace
variable {s : State} {g : Group}

theorem group_setGroup (k : Nat) : (s.setGroup g).group? k = (s.group? k).map fun x => if x.gid == g.gid then g else x :=
  find_mapWhere _ _ _ (fun x hx => by rw [beq_iff_eq.mp hx]) _

theorem group_setGroup_same {g' : Group} (h : s.group? g.gid = some g') : (s.setGroup g).group? g.gid = some g := by
  rw [group_setGroup, h, Option.map_some, if_pos (beq_iff_eq.mpr (group_gid h))]

theorem group_setGroup_other {k : Nat} (hk : k ≠ g.gid) : (s.setGroup g).group? k = s.group? k := by
  rw [group_setGroup]
  cases h : s.group? k with
  | none => rfl
  | some x => rw [Option.map_some, if_neg (by rwa [group_gid h, beq_iff_eq])]

/-- The issuing word's group is replaced, and nothing else of the machine differs. -/
theorem become_replaces {e : Env} (he : s.env = some e) (hgid : g.gid = e.g.gid) :
    OnlyGroup s (e.become g s) e.g.gid ∧ (e.become g s).group? e.g.gid = some g := by
  have hold : s.group? g.gid = some e.g := hgid ▸ env_group he
  rw [← hgid]
  exact ⟨⟨rfl, fun k hk => group_setGroup_other hk⟩, group_setGroup_same hold⟩

end Replace

/-! ### Divergence (06, R83; 08, R145) -/

/-- What a new frame pushes, top first: the path of the other slot, parked, and the frame that is open. -/
def Group.pushes (g : Group) (b : Bool) : List Entry :=
  (if (g.slot (!b)).path.isSome then [.path (g.slot (!b)).parked] else []) ++ (g.jr.map Entry.frame).toList

/-- A group with a new frame open and its other slot free. -/
def Group.opened (g : Group) (b : Bool) (j : DWord) (outer : Option DWord) (line : List (Nat × Bool)) : Group :=
  { g.setSlot (!b) Slot.free with stack := g.pushes b ++ g.stack, jr := some ⟨j, 0, outer, line⟩, frames := g.frames + 1 }

/-- R83: a frame opens with its pushes on the stack, if the stack takes them. -/
theorem openFrame_eq (g : Group) (b : Bool) (j : DWord) (outer : Option DWord) (line : List (Nat × Bool)) :
    g.openFrame b j outer line =
      if 64 < g.stack.length + (g.pushes b).length then .error (.word 0x04 0) else .ok (g.opened b j outer line) := by
  rw [Nat.add_comm, ← List.length_append, Group.opened, Group.pushes, Group.openFrame]
  cases g.jr <;> cases (g.slot (!b)).path.isSome <;> rfl

theorem parked_of_asking {x : Slot} (h : (∃ n, x.wait = some (.batch n)) ∨ x.wait = some .mmaj) :
    x.parked = { x with wait := none, again := true } := by
  rw [Slot.parked]
  obtain ⟨n, h⟩ | h := h <;> rw [h]

theorem parked_of_not_asking {x : Slot} (hbatch : ∀ n, x.wait ≠ some (.batch n)) (hmmaj : x.wait ≠ some .mmaj) : x.parked = x := by
  rw [Slot.parked]
  split
  · next n h => exact absurd h (hbatch n)
  · next h => exact absurd h hmmaj
  · rfl

/-- Parking keeps a path, its hints and what it is to do again. -/
theorem parked_keeps (x : Slot) : x.parked.path = x.path ∧ x.parked.hints = x.hints ∧ x.parked.redo = x.redo := by
  rw [Slot.parked]
  split <;> exact ⟨rfl, rfl, rfl⟩

/-- The lanes that do not take the branch go on in the slot that issued, and the others in the other slot, in a frame of their own. -/
def Env.diverged (e : Env) (g : BitVec 3) (o j : BitVec 11) : Group :=
  ((e.g.opened e.iss.slotB (e.target j) e.path.join e.path.line).setSlot e.iss.slotB
    (Slot.ofPath ⟨e.iss.pc + 4, e.path.mask &&& ~~~ e.act g, some (e.target j), (e.g.frames, false) :: e.path.line⟩)).setSlot (!e.iss.slotB)
    (Slot.ofPath ⟨e.target o, e.act g, some (e.target j), (e.g.frames, true) :: e.path.line⟩)

section Diverged
variable (e : Env) (g : BitVec 3) (o j : BitVec 11)

theorem diverged_slot : (e.diverged g o j).slot e.iss.slotB =
    Slot.ofPath ⟨e.iss.pc + 4, e.path.mask &&& ~~~ e.act g, some (e.target j), (e.g.frames, false) :: e.path.line⟩ := by
  rw [Env.diverged, slot_setSlot_flip, Group.setSlot_slot]

theorem diverged_other : (e.diverged g o j).slot (!e.iss.slotB) =
    Slot.ofPath ⟨e.target o, e.act g, some (e.target j), (e.g.frames, true) :: e.path.line⟩ := Group.setSlot_slot ..

theorem diverged_stack : (e.diverged g o j).stack = e.g.pushes e.iss.slotB ++ e.g.stack := by simp [Env.diverged, Group.opened]
theorem diverged_jr : (e.diverged g o j).jr = some ⟨e.target j, 0, e.path.join, e.path.line⟩ := by simp [Env.diverged, Group.opened]
theorem diverged_lanes : (e.diverged g o j).lanes = e.g.lanes := by simp [Env.diverged, Group.opened]
theorem diverged_exited : (e.diverged g o j).exited = e.g.exited := by simp [Env.diverged, Group.opened]
theorem diverged_gid : (e.diverged g o j).gid = e.g.gid := by simp [Env.diverged, Group.opened]

end Diverged

section Brd
variable {s : State} {e : Env} (he : s.env = some e) {g : BitVec 3} (o j : BitVec 11)
include he

theorem brd_untaken (htaken : e.act g = 0) : exec (.brd g o j) s = .next (e.retire s) :=
  (exec_brd s).trans (inWord_ok he (if_pos htaken))

theorem brd_whole (htaken : e.act g ≠ 0) (hrest : e.path.mask &&& ~~~ e.act g = 0) : exec (.brd g o j) s = .next (e.retireTo (e.target o) s) :=
  (exec_brd s).trans (inWord_ok he ((if_neg htaken).trans (if_pos hrest)))

variable (htaken : e.act g ≠ 0) (hrest : e.path.mask &&& ~~~ e.act g ≠ 0)
include htaken hrest

theorem brd_overflow (hfull : 64 < e.g.stack.length + (e.g.pushes e.iss.slotB).length) : Faults (.brd g o j) s e (.word 0x04 0) := by
  refine (exec_brd s).trans (inWord_error he ((if_neg htaken).trans ((if_neg hrest).trans ?_)))
  dsimp only
  rw [openFrame_eq, if_pos hfull]

theorem brd_diverges (hroom : e.g.stack.length + (e.g.pushes e.iss.slotB).length ≤ 64) :
    exec (.brd g o j) s = .next (e.become (((e.diverged g o j).arriveTest e.iss.slotB).arriveTest (!e.iss.slotB)) s) := by
  refine (exec_brd s).trans (inWord_ok he ((if_neg htaken).trans ((if_neg hrest).trans ?_)))
  dsimp only
  rw [openFrame_eq, if_neg (Nat.not_lt.mpr hroom)]
  rfl

end Brd

/-- Settles O28: by the guard, and where the lanes part by the room on the stack. -/
theorem brdDiverges : Obligations.BrdDiverges := by
  unfold Obligations.BrdDiverges
  refine ⟨fun x => ?_, fun s e g o j he => ⟨brd_untaken he o j, brd_whole he o j, fun htaken hrest =>
    ⟨brd_overflow he o j htaken hrest, fun hroom => ?_⟩⟩⟩
  · obtain ⟨hpath, hhints, hredo⟩ := parked_keeps x
    exact ⟨hpath, hhints, hredo, parked_of_not_asking, fun h => by rw [parked_of_asking h]; exact ⟨rfl, rfl⟩⟩
  · have hgid : (((e.diverged g o j).arriveTest e.iss.slotB).arriveTest (!e.iss.slotB)).gid = e.g.gid := by
      rw [(arriveTest_gid ..).1, (arriveTest_gid ..).1, diverged_gid]
    obtain ⟨honly, hgroup⟩ := become_replaces he hgid
    refine ⟨e.diverged g o j, _, diverged_stack .., diverged_jr .., diverged_lanes .., diverged_exited .., diverged_gid .., ?_, ?_, ?_, ?_,
      brd_diverges he o j htaken hrest hroom, honly, hgroup⟩
    · rw [diverged_slot]
      rintro p ⟨⟩
      exact ⟨rfl, rfl, rfl⟩
    · rw [diverged_other]
      rintro p ⟨⟩
      exact ⟨rfl, rfl, rfl⟩
    · rw [diverged_slot]
      rfl
    · rw [diverged_other]
      rfl

end Sys2Proof.Machine
end

section
/-! SUPPORT. Proofs about the end of lanes, groups and workgroups (06, R81; 08, R151). -/

namespace Sys2Proof.Machine

/-! ### A group whose lanes end (08, R151) -/

theorem onlyPaths_goto (g : Group) (b : Bool) (pc : DWord) : OnlyPaths g (g.goto b pc) := (onlyPaths_setSlot g b _).trans (onlyPaths_arriveTest _ b)

theorem goto_of_no_arrival {g : Group} {b : Bool} {pc : DWord} {q : Path} (hpath : (g.slot b).path = some q) (hmask : q.mask ≠ 0)
    (hjoin : q.join ≠ some pc) : ((g.goto b pc).slot b).path = some { q with pc := pc } := by
  have hmoved : (g.slot b).path.map (fun p => { p with pc := pc }) = some { q with pc := pc } := by rw [hpath]; rfl
  rw [Group.goto, arriveTest_of_no_arrival (q := { q with pc := pc }) _ hmask hjoin]
  · exact (congrArg Slot.path (Group.setSlot_slot ..)).trans hmoved
  · exact (congrArg Slot.path (Group.setSlot_slot ..)).trans hmoved

/-- The group is over when each of its lanes has exited, or is a helper lane. -/
theorem isOver_iff {g : Group} : g.isOver = true ↔
    ∀ n, g.lanesOn.getLsbD n = true → g.exited.getLsbD n = false → g.helpers.getLsbD n = true := by
  rw [Group.isOver, beq_iff_eq, Group.live]
  refine ⟨fun h n hon hexit => ?_, fun h => BitVec.eq_of_getLsbD_eq fun n hn => ?_⟩
  · have hbit : _ = (0#32).getLsbD n := congrArg (BitVec.getLsbD · n) h
    simpa only [BitVec.getLsbD_and, BitVec.getLsbD_not, BitVec.getLsbD_zero, hon, hexit, BitVec.lt_of_getLsbD hon, decide_true, Bool.not_false,
      Bool.true_and, Bool.not_eq_eq_eq_not] using hbit
  · show _ = (0#32).getLsbD n
    rw [BitVec.getLsbD_and, BitVec.getLsbD_and, BitVec.getLsbD_not, BitVec.getLsbD_not, BitVec.getLsbD_zero]
    have hbits := h n
    revert hbits
    rw [decide_eq_true hn]
    generalize g.lanesOn.getLsbD n = on, g.exited.getLsbD n = exited, g.helpers.getLsbD n = helper
    revert on exited helper
    decide

/-- The group of a word that has ended the lanes `m` of its path and goes on. -/
def Env.without (e : Env) (m : BitVec 32) : Group := (e.g.exitLanes e.iss.slotB m).goto e.iss.slotB (e.iss.pc + 4)

section Without
variable (e : Env) (m : BitVec 32)

/-- It differs in its paths and frames, and in the lanes that have exited. -/
theorem without_eq : e.without m = { e.g with
    a := (e.without m).a, b := (e.without m).b, jr := (e.without m).jr, stack := (e.without m).stack, exited := e.g.exited ||| m } := by
  have hslot := onlyPaths_setSlot e.g e.iss.slotB
    { e.g.slot e.iss.slotB with path := (e.g.slot e.iss.slotB).path.map (fun p => { p with mask := p.mask &&& ~~~ m }) }
  have hgoto := onlyPaths_goto (e.g.exitLanes e.iss.slotB m) e.iss.slotB (e.iss.pc + 4)
  rw [OnlyPaths] at hslot hgoto
  rw [Env.without, hgoto, Group.exitLanes, Group.updSlot, hslot]

@[simp] theorem without_gid : (e.without m).gid = e.g.gid := by rw [without_eq]
@[simp] theorem without_lanes : (e.without m).lanes = e.g.lanes := by rw [without_eq]
@[simp] theorem without_exited : (e.without m).exited = e.g.exited ||| m := by rw [without_eq]
@[simp] theorem without_lanesOn : (e.without m).lanesOn = e.g.lanesOn := by rw [without_eq]
@[simp] theorem without_helpers : (e.without m).helpers = e.g.helpers := by rw [without_eq]
@[simp] theorem without_origins : (e.without m).origins = e.g.origins := by rw [without_eq]
theorem wgOf_without (s : State) : s.wgOf (e.without m) = s.wgOf e.g := by rw [without_eq]; rfl

variable {e m}

theorem without_path {q : Path} (hpath : (e.g.slot e.iss.slotB).path = some q) (hmask : q.mask &&& ~~~ m ≠ 0) (hjoin : q.join ≠ some (e.iss.pc + 4)) :
    ((e.without m).slot e.iss.slotB).path = some { q with pc := e.iss.pc + 4, mask := q.mask &&& ~~~ m } :=
  goto_of_no_arrival (q := { q with mask := q.mask &&& ~~~ m })
    ((congrArg Slot.path (Group.setSlot_slot ..)).trans (congrArg (Option.map fun p : Path => { p with mask := p.mask &&& ~~~ m }) hpath)) hmask hjoin

end Without

/-! ### EXIT and KILL (08, R151) -/

section EndLanes
variable {s : State} {e : Env} (ho : e.g.origins = none)
include ho

/-- In a group that is no handler group no lane of another group is served. -/
theorem exit_eq (m : BitVec 32) : e.exit m s = e.endLanes m s := by
  rw [Env.exit, Group.originsOf, ho]
  rfl

/-- While a lane goes on that is no helper lane, the group is all that changes. -/
theorem exit_of_going_on {m : BitVec 32} (hover : (e.without m).isOver = false) : e.exit m s = .ok (e.become (e.without m) s) := by
  rw [exit_eq ho, Env.endLanes]
  exact if_neg (by rw [← Env.without, hover]; exact Bool.false_ne_true)

theorem exit_of_over {m : BitVec 32} (hover : (e.without m).isOver = true) {t : State}
    (hend : (e.become (e.without m) s).endGroup (e.without m) = .ok t) : e.exit m s = .ok t.afterEnds := by
  rw [exit_eq ho, Env.endLanes]
  refine (if_pos hover).trans ?_
  rw [← Env.without, hend]

end EndLanes

/-- The lanes that a KILL names: the active ones in which its predicate is not as N says. -/
def Env.killed (e : Env) (g : BitVec 3) (p : BitVec 4) (x : BitVec 1) : BitVec 32 :=
  maskOf ((lanesOf (e.act g)).filter (fun i => (e.g.lane i).pred p.toNat != (x == 1)))

theorem getLsbD_killed (e : Env) (g : BitVec 3) (p : BitVec 4) (x : BitVec 1) (n : Nat) :
    (e.killed g p x).getLsbD n = true ↔ (e.act g).getLsbD n = true ∧ (e.g.lane n).pred p.toNat ≠ decide (x = 1) := by
  rw [Env.killed, getLsbD_maskOf, List.mem_filter, mem_lanesOf, bne_iff_ne, beq_eq_decide]
  exact ⟨fun h => h.1, fun h => ⟨h, BitVec.lt_of_getLsbD h.1⟩⟩

theorem exec_exit_eq {s : State} {e : Env} (he : s.env = some e) {g : BitVec 3} {t : State} (h : e.exit (e.act g) s = .ok t) :
    exec (.exit g) s = .next t :=
  (exec_exit s).trans (inWord_ok he h)

theorem exec_kill_eq {s : State} {e : Env} (he : s.env = some e) {g : BitVec 3} {p : BitVec 4} {x : BitVec 1} {t : State}
    (h : e.exit (e.killed g p x) s = .ok t) : exec (.kill g p x) s = .next t :=
  (exec_kill s).trans (inWord_ok he h)

/-! ### The end of a group and of its workgroup, without stash windows (06, R81) -/

/-- A machine but for its contexts. -/
def State.sansContexts (s : State) : State := { s with contexts := [] }

/-- Joint matrix instances that lack a part of an ending group change halt lines alone. -/
theorem endJoints_sansContexts (s : State) (g : Group) (wid : Nat) : (s.endJoints g wid).sansContexts = s.sansContexts := by
  refine foldl_same State.sansContexts _ (fun t j => ?_) _ s
  split
  · rw [engineFault_frame]
    rfl
  · rfl

theorem track_self (s : State) (ctx launch : Nat) : s.track s ctx launch = s := by
  rw [State.track, State.unheard, List.drop_length]
  rfl

theorem endWindows_of_no_stashes {w : Workgroup} (h : w.stashes = []) : w.endWindows = w := by
  rw [Workgroup.endWindows, h]
  rfl

/-- The machine that a group of the workgroup `w` has left: its requests are closed, and it is gone. -/
def State.leftBy (s : State) (g : Group) (w : Workgroup) : State :=
  let t := ({ s with requests := s.requests.map (closeRequest g) } : State).endJoints g w.wid
  { t with groups := t.groups.filter (fun x => x.gid != g.gid) }

/-- Whether a group other than a handler group stands at the place of `g`. -/
def State.hasMate (s : State) (g : Group) : Bool :=
  s.groups.any (fun x => x.ctx == g.ctx && x.launch == g.launch && x.clu == g.clu && x.wgc == g.wgc && !x.isHandler)

/-- A workgroup whose last group has ended. -/
def Workgroup.over (w : Workgroup) : Workgroup := { w.endWindows with ended := true }

section EndGroup
variable (s : State) (g : Group) (w : Workgroup)

theorem leftBy_keeps : (s.leftBy g w).mem = s.mem ∧ (s.leftBy g w).bars = s.bars ∧ (s.leftBy g w).workgroups = s.workgroups ∧
    (s.leftBy g w).groups = s.groups.filter fun x => x.gid != g.gid := by
  have h := endJoints_sansContexts { s with requests := s.requests.map (closeRequest g) } g w.wid
  exact ⟨(congrArg State.mem h :), (congrArg State.bars h :), (congrArg State.workgroups h :),
    (congrArg (fun t : State => t.groups.filter fun x => x.gid != g.gid) h :)⟩

variable {s g w}

theorem endGroup_of_no_stashes (hh : g.isHandler = false) (hw : s.wgOf g = some w) (hstash : w.stashes = []) :
    s.endGroup g = .ok (if (s.leftBy g w).hasMate g then s.leftBy g w else (s.leftBy g w).updWg w.wid Workgroup.over) := by
  rw [State.endGroup, if_neg (by rw [hh]; exact Bool.false_ne_true), hw]
  dsimp only
  rw [backStashes_of_no_stashes hstash]
  dsimp only
  rw [track_self, ← apply_ite Except.ok]
  rfl

end EndGroup

/-! ### What follows the end of a group (06, R81; 10, R175) -/

section AfterEnds
variable {s : State}

theorem settleBars_of_no_bars (n : Nat) (h : s.bars = []) : s.settleBars n = s := by
  cases n with
  | zero => rfl
  | succ n => rw [State.settleBars, h]; rfl

theorem flushEnded_of_no_stashes (h : ∀ w ∈ s.workgroups, w.stashes = []) : s.flushEnded = s := by
  have hnone : s.workgroups.filter (fun w => w.ended && !w.stashes.isEmpty) = [] :=
    List.filter_eq_nil_iff.mpr fun w hw => by rw [h w hw, List.isEmpty_nil, Bool.not_true, Bool.and_false]; exact Bool.false_ne_true
  rw [State.flushEnded, hnone]
  rfl

/-- The workgroup of a number has ended. -/
def State.wgEnded (s : State) (n : Nat) : Prop := ∃ v, s.wg? n = some v ∧ v.ended = true

theorem wgEnded_map {t : State} {n : Nat} (f : Workgroup → Workgroup) (ht : t.workgroups = s.workgroups.map f)
    (hf : ∀ w, (f w).wid = w.wid ∧ (f w).ended = w.ended) (h : s.wgEnded n) : t.wgEnded n := by
  obtain ⟨v, hv, hended⟩ := h
  have hwid : (fun w : Workgroup => w.wid == n) ∘ f = fun w => w.wid == n := funext fun w => by rw [Function.comp_apply, (hf w).1]
  refine ⟨f v, ?_, (hf v).2.trans hended⟩
  rw [State.wg?, ht, List.find?_map, hwid, ← State.wg?, hv, Option.map_some]

theorem wgEnded_updWg {n : Nat} {f : Workgroup → Workgroup} (hf : ∀ w, (f w).wid = w.wid ∧ (f w).ended = true) (h : ∃ w ∈ s.workgroups, w.wid = n) :
    (s.updWg n f).wgEnded n := by
  obtain ⟨w, hmem, hwid⟩ := h
  obtain ⟨v, hv⟩ := Option.isSome_iff_exists.mp (List.find?_isSome (p := fun w : Workgroup => w.wid == n) |>.mpr ⟨w, hmem, beq_iff_eq.mpr hwid⟩)
  refine ⟨f v, ?_, (hf v).2⟩
  rw [State.wg?, State.updWg_workgroups, find_mapWhere _ _ _ fun x _ => by rw [(hf x).1], hv, Option.map_some, if_pos (List.find?_some hv)]

section NoStashes
variable (h : ∀ w ∈ s.workgroups, w.stashes = [])
include h

/-- Without stash windows the ends that follow leave memory and the groups as they are. -/
theorem settleEnds_of_no_stashes : s.settleEnds.mem = s.mem ∧ s.settleEnds.groups = s.groups := by
  have hflush := flushEnded_of_no_stashes h
  exact ⟨(congrArg State.mem hflush :), (congrArg State.groups hflush :)⟩

theorem wgEnded_settleEnds {n : Nat} (hended : s.wgEnded n) : s.settleEnds.wgEnded n := by
  have hfreed : s.freeWorkgroups.wgEnded n := by
    refine wgEnded_map _ (s := s.flushEnded) rfl (fun w => ?_) (by rwa [flushEnded_of_no_stashes h])
    split <;> exact ⟨rfl, rfl⟩
  refine wgEnded_map _ (s := s.freeWorkgroups) rfl (fun w => ?_) hfreed
  split
  · split <;> exact ⟨rfl, rfl⟩
  · exact ⟨rfl, rfl⟩

/-- Without barriers that wait either, nothing else follows. -/
theorem afterEnds_keeps (hbars : s.bars = []) : s.afterEnds.mem = s.mem ∧ s.afterEnds.groups = s.groups ∧ ∀ n, s.wgEnded n → s.afterEnds.wgEnded n := by
  obtain ⟨hmem, hgroups⟩ := settleEnds_of_no_stashes h
  rw [State.afterEnds, settleBars_of_no_bars _ hbars]
  exact ⟨hmem, hgroups, fun n => wgEnded_settleEnds h⟩

end NoStashes

end AfterEnds

/-! ### The last lane of a group -/

/-- Replacing a group and then taking it away is taking it away. -/
theorem filter_become (e : Env) (g : Group) (s : State) :
    (e.become g s).groups.filter (fun x => x.gid != g.gid) = s.groups.filter fun x => x.gid != g.gid := by
  show (mapWhere _ _ s.groups).filter _ = _
  induction s.groups with
  | nil => rfl
  | cons x r ih =>
    rw [mapWhere] at ih ⊢
    by_cases hx : x.gid = g.gid <;> simpa [hx] using ih

theorem find_without (gs : List Group) (n k : Nat) : (gs.filter fun x => x.gid != n).find? (fun x => x.gid == k) =
    if k = n then none else gs.find? fun x => x.gid == k := by
  rw [List.find?_filter]
  split
  · next h => exact List.find?_eq_none.mpr fun x _ => by simp [h]
  · next h =>
    refine congrArg (fun p => gs.find? p) (funext fun x => ?_)
    by_cases hx : x.gid = k
    · simp [hx, h]
    · simp [hx]

theorem over_stashes {w : Workgroup} (h : w.stashes = []) : w.over.stashes = [] := (congrArg Workgroup.stashes (endWindows_of_no_stashes h)).trans h

theorem stashes_updWg_over {s : State} {n : Nat} (h : ∀ v ∈ s.workgroups, v.stashes = []) :
    ∀ v ∈ (s.updWg n Workgroup.over).workgroups, v.stashes = [] := by
  intro v hv
  obtain ⟨x, hx, rfl⟩ := List.mem_map.mp hv
  split
  · exact over_stashes (h x hx)
  · exact h x hx

theorem endStash_wid (w : Workgroup) (win : Nat) : (w.endStash win).wid = w.wid := by
  rw [Workgroup.endStash]
  split <;> rfl

theorem endWindows_wid (w : Workgroup) : w.endWindows.wid = w.wid := by
  have hfold (xs : List Stash) (w : Workgroup) : (xs.foldl (fun w x => w.endStash x.win) w).wid = w.wid := by
    induction xs generalizing w with
    | nil => rfl
    | cons x xs ih => exact (ih _).trans (endStash_wid ..)
  exact hfold w.stashes w

theorem over_ended (w : Workgroup) : w.over.wid = w.wid ∧ w.over.ended = true := ⟨endWindows_wid w, rfl⟩

/-- The group `x` is `g`, a handler group, or a group of another place. -/
def Group.apart (g x : Group) : Bool :=
  x.gid == g.gid || x.isHandler || x.ctx != g.ctx || x.launch != g.launch || x.clu != g.clu || x.wgc != g.wgc

/-- A group has no mate where every other group is of another place, or a handler group. -/
theorem hasMate_eq_false {s : State} {e : Env} {m : BitVec 32} {gs : List Group} (hs : s.groups = gs.filter fun x => x.gid != e.g.gid)
    (h : gs.all e.g.apart = true) : s.hasMate (e.without m) = false := by
  rw [State.hasMate, hs, without_eq, List.any_filter, List.any_eq_false]
  intro x hx
  have hplace := List.all_eq_true.mp h x hx
  rw [Group.apart] at hplace
  grind

section LastLane
variable {s : State} {e : Env} (ho : e.g.origins = none) {w : Workgroup} (hw : s.wgOf e.g = some w)
  (hstash : ∀ v ∈ s.workgroups, v.stashes = []) (hbars : s.bars = []) {m : BitVec 32} (hover : (e.without m).isOver = true)
include ho hw hstash hbars hover

/-- With its last lane a group is gone; with the last group of its place the workgroup has ended. -/
theorem exit_of_last_lane : ∃ t, e.exit m s = .ok t ∧ t.mem = s.mem ∧ t.groups = s.groups.filter (fun x => x.gid != e.g.gid) ∧
    (s.groups.all e.g.apart = true →
      t.wgEnded w.wid) := by
  have hmember : w ∈ s.workgroups := List.mem_of_find?_eq_some hw
  have hhandler : (e.without m).isHandler = false := by rw [Group.isHandler, without_origins, ho]; rfl
  have hend := endGroup_of_no_stashes (s := e.become (e.without m) s) hhandler ((wgOf_without ..).trans hw) (hstash w hmember)
  obtain ⟨hmem, hbarsLeft, hwgs, hgroups⟩ := leftBy_keeps (e.become (e.without m) s) (e.without m) w
  rw [filter_become, without_gid] at hgroups
  generalize (e.become (e.without m) s).leftBy (e.without m) w = u at hend hmem hbarsLeft hwgs hgroups
  have hexit := exit_of_over ho hover hend
  have hstashLeft : ∀ v ∈ u.workgroups, v.stashes = [] := hwgs ▸ hstash
  cases hmate : u.hasMate (e.without m) with
  | true =>
    rw [hmate, if_pos rfl] at hexit
    obtain ⟨hmemEnd, hgroupsEnd, -⟩ := afterEnds_keeps hstashLeft (hbarsLeft.trans hbars)
    exact ⟨_, hexit, hmemEnd.trans hmem, hgroupsEnd.trans hgroups, fun h => absurd (hasMate_eq_false hgroups h) (by rw [hmate]; exact nofun)⟩
  | false =>
    rw [hmate, if_neg Bool.false_ne_true] at hexit
    obtain ⟨hmemEnd, hgroupsEnd, hendedEnd⟩ := afterEnds_keeps (stashes_updWg_over (n := w.wid) hstashLeft) (hbarsLeft.trans hbars)
    have hended : (u.updWg w.wid Workgroup.over).wgEnded w.wid := wgEnded_updWg over_ended ⟨w, hwgs ▸ hmember, rfl⟩
    exact ⟨_, hexit, hmemEnd.trans hmem, hgroupsEnd.trans hgroups, fun _ => hendedEnd _ hended⟩

end LastLane

/-- Settles O31: by what is left of the group when its lanes have ended. -/
theorem exitEndsLanesAndGroups : Obligations.ExitEndsLanesAndGroups := by
  unfold Obligations.ExitEndsLanesAndGroups
  refine ⟨fun s e g p x i m he ho hi hon => ?_, fun s e g w he ho hbars hw hstash hlast => ?_⟩
  · have hover : (e.without m).isOver = false := by
      obtain ⟨n, hon, hexit, hhelper, hm⟩ := hon
      refine Bool.eq_false_iff.mpr fun h => ?_
      have hhelp := isOver_iff.mp h n
      rw [without_lanesOn, without_exited, without_helpers, BitVec.getLsbD_or, hexit, hm, hhelper] at hhelp
      exact Bool.false_ne_true (hhelp hon rfl)
    have hexit := exit_of_going_on ho (s := s) hover
    have hexec : exec i s = .next (e.become (e.without m) s) := by
      obtain ⟨rfl, rfl⟩ | ⟨rfl, hm⟩ := hi
      · exact exec_exit_eq he hexit
      · obtain rfl : m = e.killed g p x := BitVec.eq_of_getLsbD_eq fun n _ => Bool.eq_iff_iff.mpr ((hm n).trans (getLsbD_killed ..).symm)
        exact exec_kill_eq he hexit
    obtain ⟨honly, hgroup⟩ := become_replaces he (without_gid e m)
    exact ⟨_, _, hexec, honly, hgroup, without_exited e m, without_lanes e m, rfl, fun q hq hmask hjoin => without_path hq hmask hjoin⟩
  · have hover : (e.without (e.act g)).isOver = true := by
      refine isOver_iff.mpr fun n hon hexit => ?_
      rw [without_lanesOn] at hon
      rw [without_exited, BitVec.getLsbD_or, Bool.or_eq_false_iff] at hexit
      rw [without_helpers]
      by_contra hhelper
      exact absurd (hlast n hon hexit.1 (Bool.eq_false_iff.mpr hhelper)) (Bool.eq_false_iff.mp hexit.2)
    obtain ⟨t, hexit, hmem, hgroups, hended⟩ := exit_of_last_lane ho hw hstash hbars hover
    refine ⟨t, exec_exit_eq he hexit, ?_, fun k hk => ?_, hmem, hended⟩
    · rw [State.group?, hgroups, find_without, if_pos rfl]
    · rw [State.group?, hgroups, find_without, if_neg hk, ← State.group?]

end Sys2Proof.Machine
end

section
/-! SUPPORT. Proofs about a step: the attempt to issue a word, and the turn that gives it its meaning (06, R86–R88; 03, R30, R34, R38). -/

namespace Sys2Proof.Machine

/-! ### A turn (06, R88) -/

section Turn
variable {s u : State} {i : Instr}

theorem step_of_run (h : s.turn = .run i u) : step s = s.ends (exec i u) := by rw [step, h]

theorem step_of_done (h : s.turn = .done u) : step s = s.ends (.next u) := by rw [step, h]

theorem turn_of_agenda {m : Move} {r : List Move} (h : s.agenda = m :: r) :
    s.turn = (({ s with agenda := r } : State).advance m.clocks m.ns).attempt m.act := by rw [State.turn, h]

theorem attempt_event (hi : i.isWord = false) : u.attempt (.event i) = .run i u :=
  if_neg (by rw [hi]; exact Bool.false_ne_true)

theorem attempt_message {node : BitVec 11} {bytes : List (BitVec 8)} {src : RemoteReply} (h : messageCommand node bytes src = some i) :
    u.attempt (.message node bytes src) = .run i u := by rw [State.attempt, h]

theorem attempt_no_message {node : BitVec 11} {bytes : List (BitVec 8)} {src : RemoteReply} (h : messageCommand node bytes src = none) :
    u.attempt (.message node bytes src) = .done (u.noCommand (headOf node bytes)) := by rw [State.attempt, h]

section Issue
variable {g : Group} {b : Bool} (hg : u.group? g.gid = some g) (hpicked : u.picked g.core g.sub = some (g, b)) {t : State}
include hg hpicked

theorem attempt_issue_run (h : u.prepare g b = .run i t) : u.attempt (.issue g.gid b) = .run i t := by
  rw [State.attempt, hg]
  dsimp only
  rw [hpicked]
  simp [h]

theorem attempt_issue_done (h : u.prepare g b = .done t) : u.attempt (.issue g.gid b) = .done t := by
  rw [State.attempt, hg]
  dsimp only
  rw [hpicked]
  simp [h]

end Issue

theorem ends_of_not_copied (s : State) {t : State} (h : t.copied = []) : s.ends (.next t) = .next t := by rw [State.ends, mirror_none h]

/-- A sub-core issues only from a slot whose attempt comes to something. -/
theorem ready_of_picked {core sub : Nat} {g : Group} {b : Bool} (h : u.picked core sub = some (g, b)) : (u.prepare g b).ready = true := by
  obtain ⟨x, -, hx⟩ := List.exists_of_findSome?_eq_some h
  obtain ⟨c, hc, hpair⟩ := Option.map_eq_some_iff.mp hx
  obtain ⟨rfl, rfl⟩ := Prod.mk.inj hpair
  rw [State.readySlot] at hc
  split at hc
  · next hready => cases hc; exact hready
  · split at hc
    · next hready => cases hc; exact hready
    · cases hc

end Turn

/-! ### The attempt to issue a word (06, R86; 03, R30, R34) -/

theorem env_issuer {s : State} {e : Env} (h : s.env = some e) : s.group? e.iss.gid = some e.g := by
  rw [State.env, env_issue h] at h
  dsimp only at h
  split at h
  · cases h
  · next g hg =>
    split at h
    · cases h
    · obtain ⟨l, -, hl⟩ := Option.map_eq_some_iff.mp h
      rw [← hl]
      exact hg

/-- A word issues for the group and slot it is taken from. -/
theorem issueOf_fields (g : Group) (b : Bool) (pc : DWord) (w : Word) :
    (Issue.of g b pc w).gid = g.gid ∧ (Issue.of g b pc w).slotB = b ∧ (Issue.of g b pc w).word = w := by
  dsimp only [Issue.of]
  split
  · split <;> exact ⟨rfl, rfl, rfl⟩
  · exact ⟨rfl, rfl, rfl⟩

section Fault
variable {s : State} {g : Group} {iss : Issue} {h : Halt}

/-- A word that faults at its issue has issued, and takes the fault. -/
theorem issueFault_of_ready (hready : (s.issueFault g iss h).ready = true) :
    ∃ f, (s.issues g iss).env = some f ∧ s.issueFault g iss h = .done (f.takeFault h (s.issues g iss)) := by
  rw [State.issueFault, State.faultNow] at hready ⊢
  cases hf : (s.issues g iss).env with
  | none => rw [hf] at hready; cases hready
  | some f => exact ⟨f, rfl, rfl⟩

end Fault

/-- A slot from which something comes is open. -/
theorem slotOpen_of_ready {s : State} {g : Group} {b : Bool} (hready : (s.prepare g b).ready = true) : s.slotOpen g b = true := by
  by_contra hclosed
  rw [State.prepare, if_pos (by rw [Bool.eq_false_iff.mpr hclosed]; rfl)] at hready
  cases hready

/-- The rest of the attempt once the word `w` at the slot's PC is fetched: a hint issues, a word that is none or whose hints are not legal faults, and any
other has its readiness and its operands checked. -/
def State.fetched (s : State) (g : Group) (pc : DWord) (iss : Issue) (e : Env) (w : Word) : Prepared :=
  if 0x7C ≤ opOf w then
    if g.refetch && g.marked &&& budgetChunks (e.g.regs e.k) &&& ~~~ g.fast != 0 then .no else
    match decodeWf w with
    | .ok i => .run i (s.issues g iss)
    | .error _ => .done (e.hold (e.hints.spoil pc) (s.issues g iss))
  else match decodeWf w with
    | .error _ => s.issueFault g iss .illegal
    | .ok i =>
      if !hintsLegal e.hints w then s.issueFault g iss .illegal else
      let (reads, writes) := spans e.k e.hints (s.matrixCtl e i) i
      if s.heldBack e i reads writes then .no else s.issueWord e i reads writes

/-- Where an attempt comes to something and the group is within its bound, it gets as far as the word at the slot's PC. -/
theorem prepare_eq_fetched {s : State} {g : Group} {b : Bool} {p : Path} {c : Context} {l : Launch} {w : Word} {e : Env}
    (hready : (s.prepare g b).ready = true) (hpath : (g.slot b).path = some p) (hctx : s.ctx? g.ctx = some c) (hlaunch : c.launch? g.launch = some l)
    (hbound : g.isHandler = false → (g.slot b).again = false → g.count < l.bound) (hcode : s.codeWord g.ctx g.core p.pc.toNat = some w)
    (he : ({ s with issue := some (Issue.of g b p.pc w) } : State).env = some e) :
    s.prepare g b = s.fetched g p.pc (Issue.of g b p.pc w) e w := by
  have hopen := slotOpen_of_ready hready
  have hwithin : (!g.isHandler && !(g.slot b).again && decide (l.bound ≤ g.count)) = false := by
    simp only [Bool.and_eq_false_imp, Bool.and_eq_true, Bool.not_eq_true', decide_eq_false_iff_not, Nat.not_le]
    exact fun h => hbound h.1 h.2
  simp only [State.prepare, hopen, hpath, hctx, hlaunch, hwithin, hcode, he, Bool.not_true, Bool.false_eq_true, if_false, Option.map_some,
    Option.getD_some]
  rfl

section Fetched
variable {s : State} {g : Group} {pc : DWord} {iss : Issue} {e : Env} {w : Word} {i : Instr} (hready : (s.fetched g pc iss e w).ready = true)
include hready

theorem fetched_of_hint (hop : 0x7C ≤ opOf w) (hi : decodeWf w = .ok i) : s.fetched g pc iss e w = .run i (s.issues g iss) := by
  rw [State.fetched, if_pos hop] at hready ⊢
  split at hready
  · cases hready
  · next h => rw [if_neg h, hi]

theorem fetched_of_legal (hop : opOf w < 0x7C) (hi : decodeWf w = .ok i) (hlegal : hintsLegal e.hints w = true) {reads writes : List RegSpan}
    (hspans : spans e.k e.hints (s.matrixCtl e i) i = (reads, writes)) : s.fetched g pc iss e w = s.issueWord e i reads writes := by
  rw [State.fetched, if_neg (Nat.not_le.mpr hop), hi] at hready ⊢
  dsimp only at hready ⊢
  rw [if_neg (by rw [hlegal]; exact Bool.false_ne_true), hspans] at hready ⊢
  dsimp only at hready ⊢
  split at hready
  · cases hready
  · next h => rw [if_neg h]

omit hready in
theorem fetched_of_undecoded (hop : opOf w < 0x7C) (hi : ∀ i, decodeWf w ≠ .ok i) : s.fetched g pc iss e w = s.issueFault g iss .illegal := by
  rw [State.fetched, if_neg (Nat.not_le.mpr hop)]
  split
  · rfl
  · next i h => exact absurd h (hi i)

omit hready in
theorem fetched_of_illegal (hop : opOf w < 0x7C) (hi : decodeWf w = .ok i) (hlegal : hintsLegal e.hints w = false) :
    s.fetched g pc iss e w = s.issueFault g iss .illegal := by
  rw [State.fetched, if_neg (Nat.not_le.mpr hop), hi]
  exact if_pos (by rw [hlegal]; rfl)

end Fetched

/-! ### The checks of a word at its issue (02, R21; 03, R38; 10, R193; 17, R327) -/

/-- In a group without tags no register of its own is dropped. -/
theorem replays_of_no_tags {s : State} {e : Env} {i : Instr} (htags : e.g.tags = []) (horigins : s.originReplays e i = []) (reads writes : List RegSpan) :
    s.replays e reads writes i = [] := by
  rw [State.replays.eq_def, horigins, List.append_nil, List.map_eq_nil_iff]
  split <;> simp [htags, Group.toReplay]

section IssueWord
variable {s : State} {e : Env} {i : Instr} {reads writes : List RegSpan}

/-- A word that has issued already goes on. -/
theorem issueWord_of_again (h : (e.g.slot e.iss.slotB).again = true) :
    s.issueWord e i reads writes = .run i (s.issues e.g { e.iss with reads := reads, writes := writes }) := if_pos h

/-- A word that breaks no open window, keeps within its budget, meets no poison and no tag issues with its meaning. -/
theorem issueWord_of_unhindered (hwindow : e.g.breaches e.iss.slotB reads writes i = false ∨ waitsPending i = true)
    (hregs : ∀ q ∈ reads ++ writes, q.off + q.size ≤ e.g.regs e.k) (hpoison : s.consumesPoison e (e.act (guardOf e.iss.word)) reads i = 0)
    (htags : e.g.tags = []) (horigins : s.originReplays e i = []) :
    s.issueWord e i reads writes = .run i (s.issues e.g { e.iss with reads := reads, writes := writes }) := by
  by_cases hagain : (e.g.slot e.iss.slotB).again = true
  · exact issueWord_of_again hagain
  have hkept : (e.g.breaches e.iss.slotB reads writes i && !waitsPending i) = false := by
    obtain h | h := hwindow <;> simp [h]
  have hwithin : (reads ++ writes).any (fun p => p.size != 0 && decide (e.g.regs e.k < p.off + p.size)) = false :=
    List.any_eq_false.mpr fun q hq => by simp [Nat.not_lt.mpr (hregs q hq)]
  have hreleased : (if e.act (guardOf e.iss.word) = 0 then e.g else e.g.release e.k writes).tags = e.g.tags := by
    split
    · rfl
    · simp [Group.release, htags]
  simp only [State.issueWord, hagain, hkept, hwithin, hpoison, hreleased, replays_of_no_tags htags horigins, ite_self, if_false, Bool.and_false,
    Bool.false_eq_true, List.isEmpty_nil, Bool.not_true, bne_self_eq_false, beq_self_eq_true, if_true]

end IssueWord

/-! ### A step at an issue -/

section StepIssue
variable {s u : State} {m : Move} {r : List Move} {g : Group} {b : Bool} (hagenda : s.agenda = m :: r) (hm : m.act = .issue g.gid b)
  (hu : ({ s with agenda := r } : State).advance m.clocks m.ns = u) (hg : u.group? g.gid = some g) (hpicked : u.picked g.core g.sub = some (g, b))
include hagenda hm hu hg hpicked

theorem step_of_prepared_run {i : Instr} {t : State} (h : u.prepare g b = .run i t) : step s = s.ends (exec i t) := by
  subst hu
  exact step_of_run ((turn_of_agenda hagenda).trans (hm ▸ attempt_issue_run hg hpicked h))

theorem step_of_issueFault {iss : Issue} {x : Halt} (h : u.prepare g b = u.issueFault g iss x) :
    ∃ f, (u.issues g iss).env = some f ∧ step s = s.ends (.next (f.takeFault x (u.issues g iss))) := by
  obtain ⟨f, hf, hdone⟩ := issueFault_of_ready (h ▸ ready_of_picked hpicked)
  subst hu
  exact ⟨f, hf, step_of_done ((turn_of_agenda hagenda).trans (hm ▸ attempt_issue_done hg hpicked (h.trans hdone)))⟩

end StepIssue

/-- Settles O58: by the move on top of the agenda; at an issue by what the attempt to issue comes to, which its sub-core's choice says is something. -/
theorem stepRunsDecodedWord : Obligations.StepRunsDecodedWord := by
  unfold Obligations.StepRunsDecodedWord
  refine ⟨fun s m r hagenda => ⟨fun i hm hi => ?_, fun node bytes src hm => ⟨fun i hi => ?_, fun hi => ?_⟩⟩, fun s t h => ends_of_not_copied s h,
    fun _ _ => rfl, fun s m r g b p c l w e hagenda hm => ?_⟩
  · exact step_of_run ((turn_of_agenda hagenda).trans (hm ▸ attempt_event hi))
  · exact step_of_run ((turn_of_agenda hagenda).trans (hm ▸ attempt_message hi))
  · exact step_of_done ((turn_of_agenda hagenda).trans (hm ▸ attempt_no_message hi))
  · dsimp only
    generalize hu : ({ s with agenda := r } : State).advance m.clocks m.ns = u
    intro hg hpicked hpath hctx hlaunch hbound hcode he
    have hready := ready_of_picked hpicked
    have hfetched := prepare_eq_fetched hready hpath hctx hlaunch hbound hcode he
    rw [hfetched] at hready
    have hrun {i : Instr} {t : State} (h : u.fetched g p.pc (Issue.of g b p.pc w) e w = .run i t) : step s = s.ends (exec i t) :=
      step_of_prepared_run hagenda hm hu hg hpicked (hfetched.trans h)
    have hfault (h : u.fetched g p.pc (Issue.of g b p.pc w) e w = u.issueFault g (Issue.of g b p.pc w) .illegal) :=
      step_of_issueFault hagenda hm hu hg hpicked (hfetched.trans h)
    obtain ⟨hgid, hslot, hword⟩ := issueOf_fields g b p.pc w
    have hiss : e.iss = Issue.of g b p.pc w := (Option.some.inj (env_issue he)).symm
    have hgroup : e.g = g := by
      have hfound := env_issuer he
      rw [hiss, hgid] at hfound
      exact Option.some.inj (hfound.symm.trans hg)
    refine ⟨fun x hop hx => hfault (fetched_of_undecoded hop (by rw [hx]; exact nofun)), fun i hi => ⟨fun hop => hrun (fetched_of_hint hready hop hi),
      fun hop hlegal => hfault (fetched_of_illegal hop hi hlegal), fun reads writes hop hlegal hspans hchecks => ?_⟩⟩
    have hissue : u.issueWord e i reads writes = .run i (u.issues e.g { e.iss with reads := reads, writes := writes }) := by
      obtain hagain | ⟨hwindow, hregs, hpoison, htags, horigins⟩ := hchecks
      · exact issueWord_of_again (by rwa [hgroup, hiss, hslot])
      · exact issueWord_of_unhindered (by rwa [hgroup, hiss, hslot]) hregs (by rwa [hiss, hword]) (by rwa [hgroup]) horigins
    rw [hgroup, hiss] at hissue
    exact hrun ((fetched_of_legal hready hop hi hlegal hspans).trans hissue)

end Sys2Proof.Machine
end

section
/-! SUPPORT. Proofs about the integer and logic words (08, R133–R137, Table 8-1; 03, R33). -/

namespace Sys2Proof.Machine

/-! ### The shapes of integer words (08, R133–R135) -/

section Shapes
variable {s : State} {e : Env} (he : s.env = some e) {i : Instr} {g : BitVec 3} {d a b : BitVec 7} {v : Nat → Lane → Word}
include he

section Operands
variable {x : BitVec 1} {f : Word → Word → Word} {fAcc : Word → Word → Word → Word}

theorem binary_wordResult {o : Lane → Word × Word} (ho : e.operands a b x = .ok o) (hexec : exec i s = binary g d a b x f s)
    (hv : ∀ n l, f (o l).1 (o l).2 = v n l) : WordResult i g d s e v :=
  (laneWord_of he (hexec.trans (inWord_ok he (by rw [ho])))).congr fun n => by rw [hv n]

theorem binaryAcc_wordResult {o : Lane → Word × Word} (ho : e.operands a b x = .ok o) (hexec : exec i s = binaryAcc g d a b x fAcc s)
    (hv : ∀ n l, fAcc (o l).1 (o l).2 (l.word (e.v d)) = v n l) : WordResult i g d s e v :=
  (laneWord_of he (hexec.trans (inWord_ok he (by rw [ho])))).congr fun n => by rw [hv n]

theorem binary_faults {h : Halt} (ho : e.operands a b x = .error h) (hexec : exec i s = binary g d a b x f s) : Faults i s e h :=
  hexec.trans (inWord_error he (by rw [ho]))

theorem binaryAcc_faults {h : Halt} (ho : e.operands a b x = .error h) (hexec : exec i s = binaryAcc g d a b x fAcc s) : Faults i s e h :=
  hexec.trans (inWord_error he (by rw [ho]))

end Operands

theorem binaryI_wordResult {imm : BitVec 8} {f : Word → Word → Word} (hexec : exec i s = binaryI g d a imm f s)
    (hv : ∀ n l, f (e.operandsI a imm l).1 (e.operandsI a imm l).2 = v n l) : WordResult i g d s e v :=
  (laneWord_of he (hexec.trans (inWord_ok he rfl))).congr fun n => by rw [hv n]

theorem variant_wordResult {f : Word → Word → Word} (hexec : exec i s = variant g d a b f s)
    (hv : ∀ n l, f (l.word (e.v a)) (l.word (e.v b)) = v n l) : WordResult i g d s e v :=
  (laneWord_of he (hexec.trans (inWord_ok he rfl))).congr fun n => by rw [hv n]

theorem unary_wordResult {f : Word → Word} (hexec : exec i s = unary g d a f s) (hv : ∀ n l, f (l.word (e.v a)) = v n l) : WordResult i g d s e v :=
  (laneWord_of he (hexec.trans (inWord_ok he rfl))).congr fun n => by rw [hv n]

end Shapes

/-- Settles O3: each word by the operation that its shape carries out on its operands. -/
theorem integerRegisterWords : Obligations.IntegerRegisterWords := by
  unfold Obligations.IntegerRegisterWords
  intro s e g d a b x he
  refine ⟨fun o ho => ?results, fun h ho => ?faults⟩
  case results =>
    exact ⟨binary_wordResult he ho (exec_iaddR s) fun _ _ => rfl, binary_wordResult he ho (exec_isub s) fun _ _ => rfl,
      binary_wordResult he ho (exec_imulR s) fun _ _ => rfl, binaryAcc_wordResult he ho (exec_imad s) fun _ _ => rfl,
      binary_wordResult he ho (exec_shlR s) fun _ _ => rfl, binary_wordResult he ho (exec_rot s) fun _ _ => rfl,
      binary_wordResult he ho (exec_andR s) fun _ _ => rfl, binary_wordResult he ho (exec_orR s) fun _ _ => rfl,
      binary_wordResult he ho (exec_xorR s) fun _ _ => rfl, binaryAcc_wordResult he ho (exec_bfi s) fun _ _ => rfl⟩
  case faults =>
    simp only [List.forall_mem_cons]
    exact ⟨binary_faults he ho (exec_iaddR s), binary_faults he ho (exec_isub s), binary_faults he ho (exec_imulR s),
      binaryAcc_faults he ho (exec_imad s), binary_faults he ho (exec_shlR s), binary_faults he ho (exec_rot s), binary_faults he ho (exec_andR s),
      binary_faults he ho (exec_orR s), binary_faults he ho (exec_xorR s), binaryAcc_faults he ho (exec_bfi s), List.forall_mem_nil _⟩

/-! ### Results as numbers (08, R135, Table 8-1) -/

theorem widen_zero (w : Word) : widen 0 w = BitVec.ofInt 64 w.toNat :=
  (if_neg (by decide)).trans ((BitVec.ofNat_toNat 64 w).symm.trans (BitVec.ofInt_natCast 64 w.toNat).symm)

theorem widen_one (w : Word) : widen 1 w = BitVec.ofInt 64 w.toInt := if_pos rfl
theorem lessWord_zero (p q : Word) : lessWord 0 p q = decide (p.toNat < q.toNat) := if_neg (by decide)
theorem lessWord_one (p q : Word) : lessWord 1 p q = decide (p.toInt < q.toInt) := if_pos rfl
theorem shiftRight_zero (p : Word) (n : Nat) : shiftRight 0 p n = p >>> n := if_neg (by decide)
theorem shiftRight_one (p : Word) (n : Nat) : shiftRight 1 p n = p.sshiftRight n := if_pos rfl

/-- A quotient by a power of two, rounded down, keeps the bits above it. -/
theorem ofInt_ediv_two_pow (n k : Nat) (z : Int) : BitVec.ofInt n (z / 2 ^ k) = (BitVec.ofInt (k + n) z).extractLsb' k n := by
  have hk : (2 ^ k : Int) ≠ 0 := by positivity
  have hquot : z / 2 ^ k % 2 ^ n = z % (2 ^ k * 2 ^ n) / 2 ^ k % 2 ^ n := by
    conv_lhs => rw [← Int.emod_add_mul_ediv z (2 ^ k * 2 ^ n), mul_assoc, Int.add_mul_ediv_left _ _ hk, Int.add_mul_emod_self_left]
  apply BitVec.eq_of_toNat_eq
  rw [BitVec.toNat_ofInt, BitVec.extractLsb'_toNat, BitVec.toNat_ofInt, Nat.shiftRight_eq_div_pow, ← Int.natCast_inj]
  push_cast
  rw [Int.toNat_of_nonneg (Int.emod_nonneg _ (by positivity)), Int.toNat_of_nonneg (Int.emod_nonneg _ (by positivity)), pow_add, hquot]

theorem truncate_highWord (z : Int) : ((BitVec.ofInt 64 z) >>> 32).truncate 32 = BitVec.ofInt 32 (z / 2 ^ 32) := by
  rw [ofInt_ediv_two_pow]
  exact BitVec.setWidth_ushiftRight_eq_extractLsb

theorem highWord_unsigned (p q : Word) : ((widen 0 p * widen 0 q) >>> 32).truncate 32 = BitVec.ofNat 32 (p.toNat * q.toNat / 2 ^ 32) := by
  rw [widen_zero, widen_zero, ← BitVec.ofInt_mul, truncate_highWord, ← BitVec.ofInt_natCast]
  norm_cast

theorem highWord_signed (p q : Word) : ((widen 1 p * widen 1 q) >>> 32).truncate 32 = BitVec.ofInt 32 (p.toInt * q.toInt / 2 ^ 32) := by
  rw [widen_one, widen_one, ← BitVec.ofInt_mul, truncate_highWord]

theorem least_unsigned (p q : Word) : (if lessWord 0 q p then q else p) = BitVec.ofNat 32 (min p.toNat q.toNat) := by
  simp only [lessWord_zero, decide_eq_true_eq, min_comm p.toNat, min_def_lt, apply_ite (BitVec.ofNat 32), BitVec.ofNat_toNat, BitVec.setWidth_eq]

theorem least_signed (p q : Word) : (if lessWord 1 q p then q else p) = BitVec.ofInt 32 (min p.toInt q.toInt) := by
  simp only [lessWord_one, decide_eq_true_eq, min_comm p.toInt, min_def_lt, apply_ite (BitVec.ofInt 32), BitVec.ofInt_toInt]

theorem greatest_unsigned (p q : Word) : (if lessWord 0 p q then q else p) = BitVec.ofNat 32 (max p.toNat q.toNat) := by
  simp only [lessWord_zero, decide_eq_true_eq, max_def_lt, apply_ite (BitVec.ofNat 32), BitVec.ofNat_toNat, BitVec.setWidth_eq]

theorem greatest_signed (p q : Word) : (if lessWord 1 p q then q else p) = BitVec.ofInt 32 (max p.toInt q.toInt) := by
  simp only [lessWord_one, decide_eq_true_eq, max_def_lt, apply_ite (BitVec.ofInt 32), BitVec.ofInt_toInt]

theorem zero_sub_eq_ofInt (p : Word) : 0 - p = BitVec.ofInt 32 (-p.toInt) := by
  rw [BitVec.ofInt_neg, BitVec.ofInt_toInt, zero_sub]

theorem negated_if_negative (p : Word) : (if p.toInt < 0 then 0 - p else p) = BitVec.ofNat 32 p.toInt.natAbs := by
  rw [← BitVec.ofInt_natCast]
  split
  · next h => rw [Int.ofNat_natAbs_of_nonpos h.le, zero_sub_eq_ofInt]
  · next h => rw [Int.natAbs_of_nonneg (not_lt.mp h), BitVec.ofInt_toInt]

/-- Settles O4: each word by its shape, and its result as the number that R135 and Table 8-1 give. -/
theorem integerImmediateAndVariantWords : Obligations.IntegerImmediateAndVariantWords := by
  unfold Obligations.IntegerImmediateAndVariantWords
  intro s e g d a b i n he
  refine ⟨?iadd, ?imul, ?and, ?or, ?xor, ?movi, ?shl, ?shrN, ?shrS, ?imulhN, ?imulhS, ?iminN, ?iminS, ?imaxN, ?imaxS, ?shrRN, ?shrRS, fun v => ?bfx,
    ?iabs, ?ineg, ?not, ?popc, ?clz, ?brev, ?mov⟩
  case iadd => exact binaryI_wordResult he (exec_iaddI s) fun _ _ => rfl
  case imul => exact binaryI_wordResult he (exec_imulI s) fun _ _ => rfl
  case and => exact binaryI_wordResult he (exec_andI s) fun _ _ => rfl
  case or => exact binaryI_wordResult he (exec_orI s) fun _ _ => rfl
  case xor => exact binaryI_wordResult he (exec_xorI s) fun _ _ => rfl
  case movi =>
    refine (laneWord_of he ((exec_movi s).trans (inWord_ok he rfl))).congr fun _ => ?_
    cases e.hints.himm <;> rfl
  case shl => exact unary_wordResult he (exec_shlI s) fun _ _ => rfl
  case shrN => exact unary_wordResult he (exec_shrNI s) fun _ l => shiftRight_zero (l.word (e.v a)) n.toNat
  case shrS => exact unary_wordResult he (exec_shrSI s) fun _ l => shiftRight_one (l.word (e.v a)) n.toNat
  case imulhN => exact variant_wordResult he (exec_imulh s) fun _ l => highWord_unsigned (l.word (e.v a)) (l.word (e.v b))
  case imulhS => exact variant_wordResult he (exec_imulh s) fun _ l => highWord_signed (l.word (e.v a)) (l.word (e.v b))
  case iminN => exact variant_wordResult he (exec_imin s) fun _ l => least_unsigned (l.word (e.v a)) (l.word (e.v b))
  case iminS => exact variant_wordResult he (exec_imin s) fun _ l => least_signed (l.word (e.v a)) (l.word (e.v b))
  case imaxN => exact variant_wordResult he (exec_imax s) fun _ l => greatest_unsigned (l.word (e.v a)) (l.word (e.v b))
  case imaxS => exact variant_wordResult he (exec_imax s) fun _ l => greatest_signed (l.word (e.v a)) (l.word (e.v b))
  case shrRN => exact variant_wordResult he (exec_shrR s) fun _ l => shiftRight_zero (l.word (e.v a)) ((l.word (e.v b)).toNat % 32)
  case shrRS => exact variant_wordResult he (exec_shrR s) fun _ l => shiftRight_one (l.word (e.v a)) ((l.word (e.v b)).toNat % 32)
  case bfx => exact variant_wordResult he (exec_bfx s) fun _ _ => rfl
  case iabs => exact unary_wordResult he (exec_iabs s) fun _ l => negated_if_negative (l.word (e.v a))
  case ineg => exact unary_wordResult he (exec_ineg s) fun _ l => zero_sub_eq_ofInt (l.word (e.v a))
  case not => exact unary_wordResult he (exec_notW s) fun _ _ => rfl
  case popc => exact unary_wordResult he (exec_popc s) fun _ _ => rfl
  case clz => exact unary_wordResult he (exec_clz s) fun _ _ => rfl
  case brev => exact unary_wordResult he (exec_brev s) fun _ _ => rfl
  case mov => exact unary_wordResult he (exec_mov s) fun _ _ => rfl

/-! ### Pairs and LUT3 (08, R135, R137; 03, R33) -/

theorem ofInt_two_pow (w k : Nat) : BitVec.ofInt w (2 ^ k) = BitVec.twoPow w k := by
  apply BitVec.eq_of_toNat_eq
  rw [BitVec.toNat_twoPow, ← Nat.cast_ofNat, ← Nat.cast_pow, BitVec.ofInt_natCast, BitVec.toNat_ofNat]

theorem mulAdd_unsigned (p q : Word) (r : DWord) : widen 0 p * widen 0 q + r = BitVec.ofNat 64 (p.toNat * q.toNat + r.toNat) := by
  rw [widen_zero, widen_zero, ← BitVec.ofInt_mul, BitVec.ofNat_add, BitVec.ofNat_toNat, BitVec.setWidth_eq, ← BitVec.ofInt_natCast, Nat.cast_mul]

theorem mulAdd_signed (p q : Word) (r : DWord) : widen 1 p * widen 1 q + r = BitVec.ofInt 64 (p.toInt * q.toInt + r.toInt) := by
  rw [widen_one, widen_one, ← BitVec.ofInt_mul, BitVec.ofInt_add, BitVec.ofInt_toInt]

theorem add_scaled (r : DWord) (p : Word) (k : Nat) : r + (p.signExtend 64 <<< k) = BitVec.ofInt 64 (r.toInt + p.toInt * 2 ^ k) := by
  rw [BitVec.shiftLeft_eq_mul_twoPow, BitVec.signExtend, BitVec.ofInt_add, BitVec.ofInt_toInt, BitVec.ofInt_mul, ofInt_two_pow]

section Table
variable {e : Env}

theorem table_of_small {hi : BitVec 24} (hh : e.hints.himm = some (false, hi)) (hlt : hi.toNat < 256) : e.table = .ok (hi.truncate 8) := by
  rw [Env.table, hh]
  exact if_pos hlt

theorem table_of_no_small (h : ∀ hi, e.hints.himm = some (false, hi) → 256 ≤ hi.toNat) : e.table = .error .illegal := by
  rw [Env.table]
  split
  · next hi hh => exact if_neg (h hi hh).not_gt
  · rfl

end Table

section Pairs
variable {s : State} {e : Env} (he : s.env = some e) {i : Instr} {g : BitVec 3} {d a b : BitVec 7}
include he

theorem lea_pairResult {k : Nat} (hexec : exec i s = lea g d a b k s) :
    PairResult i g d s e fun _ l => BitVec.ofInt 64 ((l.dword (e.v a)).toInt + (l.word (e.v b)).toInt * 2 ^ k) :=
  (laneWord_of he (hexec.trans (inWord_ok he rfl))).congr fun _ => by rw [add_scaled]

theorem imadw_pairResult {sg : BitVec 1} {v : Nat → Lane → DWord}
    (hv : ∀ n l, widen sg (l.word (e.v a)) * widen sg (l.word (e.v b)) + l.dword (e.v d) = v n l) : PairResult (.imadw g d a b sg) g d s e v :=
  (laneWord_of he ((exec_imadw s).trans (inWord_ok he rfl))).congr fun n => by rw [hv n]

variable {x : BitVec 1}

theorem iadd64_registers (hh : e.hints.himm = none) (hx : x = 0) (hb : b.toNat % 2 = 0) :
    PairResult (.iadd64 g d a b x) g d s e fun _ l => l.dword (e.v a) + l.dword (e.v b) := by
  refine laneWord_of he (inWord_ok he ?_)
  simp only [hh, hx, evenField, hb]
  rfl

theorem iadd64_faults (hh : e.hints.himm = none) (hx : x = 1 ∨ b.toNat % 2 = 1) : Faults (.iadd64 g d a b x) s e .illegal := by
  refine inWord_error he ?_
  simp only [hh]
  refine if_neg fun hok => ?_
  simp only [evenField, Bool.and_eq_true, decide_eq_true_eq, beq_iff_eq] at hok
  obtain ⟨hzero, heven⟩ := hok
  exact hx.elim (fun h => absurd (hzero.symm.trans h) (by decide)) (fun h => by omega)

theorem iadd64_immediate {p : Bool} {hi : BitVec 24} (hh : e.hints.himm = some (p, hi)) :
    PairResult (.iadd64 g d a b x) g d s e fun _ l => l.dword (e.v a) + (hi ++ (b ++ x) : Word).signExtend 64 := by
  refine laneWord_of he (inWord_ok he ?_)
  simp only [hh]
  rfl

theorem lut3_wordResult {tt : BitVec 8} (htable : e.table = .ok tt) :
    WordResult (.lut3 g d a b) g d s e fun _ l => lut3Word tt (l.word (e.v a)) (l.word (e.v b)) (l.word (e.v d)) :=
  laneWord_of he (inWord_ok he (by rw [htable]))

theorem lut3_faults {h : Halt} (htable : e.table = .error h) : Faults (.lut3 g d a b) s e h :=
  inWord_error he (by rw [htable])

end Pairs

/-- Settles O5: IADD64 by the form of its second operand, IMADW and LEA as sums of numbers, LUT3 by the table of its HIMM. -/
theorem integerPairWordsAndLut : Obligations.IntegerPairWordsAndLut := by
  unfold Obligations.IntegerPairWordsAndLut
  intro s e g d a b x k he
  refine ⟨iadd64_registers he, iadd64_faults he, fun p hi => iadd64_immediate he, imadw_pairResult he fun _ l => ?unsigned,
    imadw_pairResult he fun _ l => ?signed, lea_pairResult he (exec_leaX1X2 s), lea_pairResult he (exec_leaX4X8 s), ?table, fun h => ?noTable⟩
  case unsigned => exact mulAdd_unsigned ..
  case signed => exact mulAdd_signed ..
  case table =>
    rintro p hi hh rfl hlt
    exact lut3_wordResult he (table_of_small hh hlt)
  case noTable => exact lut3_faults he (table_of_no_small h)

end Sys2Proof.Machine
end

section
/-! SUPPORT. Proofs about the bits of BFX, BFI, LUT3, POPC, CLZ and BREV (08, R135–R137). -/

namespace Sys2Proof.Machine

/-! ### Words made bit by bit -/

/-- A bit of a word made by setting one bit after another, each under a condition. -/
theorem getLsbD_foldl_or_if {α : Type} {w : Nat} (p : α → Bool) (f : α → BitVec w) (xs : List α) (start : BitVec w) (i : Nat) :
    (xs.foldl (fun m x => if p x then m ||| f x else m) start).getLsbD i = true ↔
      start.getLsbD i = true ∨ ∃ x ∈ xs, p x = true ∧ (f x).getLsbD i = true := by
  have hzero : (fun m x => if p x then m ||| f x else m) = fun m x => m ||| if p x then f x else 0#w := by
    funext m x
    cases p x <;> simp
  rw [hzero, getLsbD_foldl_or]
  refine or_congr_right (exists_congr fun x => and_congr_right fun _ => ?_)
  cases p x <;> simp

theorem revWord_bit (a : Word) {i : Nat} (hi : i < 32) : (revWord a).getLsbD i = a.getLsbD (31 - i) := by
  rw [Bool.eq_iff_iff, revWord, getLsbD_foldl_or_if]
  simp only [BitVec.ofNat_eq_ofNat, BitVec.getLsbD_zero, Bool.false_eq_true, false_or, List.mem_range, getLsbD_one_shiftLeft, decide_eq_true_eq]
  constructor
  · rintro ⟨j, hj, ha, rfl, -⟩
    rwa [Nat.sub_sub_self (by omega)]
  · exact fun ha => ⟨31 - i, by omega, ha, by omega, hi⟩

theorem lut3Word_bit (tt : BitVec 8) (a b d : Word) {i : Nat} (hi : i < 32) :
    (lut3Word tt a b d).getLsbD i = tt.getLsbD ((a.getLsbD i).toNat + 2 * (b.getLsbD i).toNat + 4 * (d.getLsbD i).toNat) := by
  have hindex (x y z : Bool) : ((if x then 1 else 0) + (if y then 2 else 0) + if z then 4 else 0) = x.toNat + 2 * y.toNat + 4 * z.toNat := by
    cases x <;> cases y <;> cases z <;> rfl
  simp only [lut3Word, hindex]
  rw [Bool.eq_iff_iff, getLsbD_foldl_or_if]
  simp only [BitVec.ofNat_eq_ofNat, BitVec.getLsbD_zero, Bool.false_eq_true, false_or, List.mem_range, getLsbD_one_shiftLeft, decide_eq_true_eq]
  exact ⟨fun ⟨j, _, htt, hj, _⟩ => hj ▸ htt, fun htt => ⟨i, hi, htt, rfl, hi⟩⟩

/-! ### POPC and CLZ (08, R135) -/

theorem foldl_count {α : Type} (p : α → Bool) (xs : List α) (k : Nat) : xs.foldl (fun n x => if p x then n + 1 else n) k = k + xs.countP p := by
  induction xs generalizing k with
  | nil => rfl
  | cons x xs ih =>
    rw [List.foldl_cons, ih, List.countP_cons]
    split <;> omega

theorem popWord_toNat (a : Word) : (popWord a).toNat = (List.range 32).countP (fun j => a.getLsbD j) := by
  have hle : (List.range 32).countP (fun j => a.getLsbD j) ≤ 32 := List.countP_le_length.trans_eq List.length_range
  rw [popWord, foldl_count, Nat.zero_add, BitVec.toNat_ofNat, Nat.mod_eq_of_lt (hle.trans_lt (by decide))]

theorem log2_lt_of_ne_zero {a : Word} (h : a ≠ 0) : a.toNat.log2 < 32 :=
  (Nat.log2_lt fun hz => h (BitVec.eq_of_toNat_eq hz)).mpr a.isLt

theorem clzWord_toNat (a : Word) : (clzWord a).toNat = if a = 0 then 32 else 31 - a.toNat.log2 := by
  rw [clzWord, BitVec.toNat_ofNat, Nat.mod_eq_of_lt]
  split <;> omega

theorem clzWord_le (a : Word) : (clzWord a).toNat ≤ 32 := by
  rw [clzWord_toNat]
  split <;> omega

/-- No bit above the highest set one is set. -/
theorem bit_above_clz {a : Word} {i : Nat} (hi : 32 - (clzWord a).toNat ≤ i) : a.getLsbD i = false := by
  rw [clzWord_toNat] at hi
  split at hi
  · next h => rw [h]; exact BitVec.getLsbD_zero
  · next h =>
    have hlog := log2_lt_of_ne_zero h
    exact Nat.testBit_lt_two_pow (Nat.lt_log2_self.trans_le (Nat.pow_le_pow_right two_pos (by omega)))

theorem bit_below_clz {a : Word} {i : Nat} (hi : i + (clzWord a).toNat = 31) : a.getLsbD i = true := by
  rw [clzWord_toNat] at hi
  split at hi
  · omega
  · next h =>
    have hlog := log2_lt_of_ne_zero h
    have htop : i = a.toNat.log2 := by omega
    rw [htop]
    exact Nat.testBit_log2 fun hz => h (BitVec.eq_of_toNat_eq hz)

/-! ### BFI (08, R136) -/

/-- Bit `k` set to a value. -/
theorem getLsbD_setBit (r : Word) (v : Bool) (k : Nat) {i : Nat} (hi : i < 32) :
    (if v then r ||| (1#32 <<< k) else r &&& ~~~ (1#32 <<< k)).getLsbD i = if i = k then v else r.getLsbD i := by
  have hbit : (1#32 <<< k).getLsbD i = decide (i = k) := by rw [getLsbD_one_shiftLeft]; simp only [hi, and_true]
  obtain rfl | hk := eq_or_ne i k <;> cases v
  · rw [if_neg Bool.false_ne_true, BitVec.getLsbD_and, BitVec.getLsbD_not, hbit]; simp
  · rw [if_pos rfl, BitVec.getLsbD_or, hbit]; simp
  · rw [if_neg Bool.false_ne_true, BitVec.getLsbD_and, BitVec.getLsbD_not, hbit]; simp [hk, hi]
  · rw [if_pos rfl, BitVec.getLsbD_or, hbit]; simp [hk]

/-- The bits that the first `n` steps of BFI have put into the destination. -/
theorem getLsbD_bfi_steps (a d : Word) (pos len n : Nat) {i : Nat} (hi : i < 32) :
    ((List.range n).foldl (fun r i =>
      if i < len && pos + i ≤ 31 then (if a.getLsbD i then r ||| (1#32 <<< (pos + i)) else r &&& ~~~ (1#32 <<< (pos + i))) else r) d).getLsbD i =
      if pos ≤ i ∧ i < pos + min n len then a.getLsbD (i - pos) else d.getLsbD i := by
  induction n with
  | zero => rw [List.range_zero, List.foldl_nil, if_neg (by omega)]
  | succ n ih =>
    rw [List.range_succ, List.foldl_append, List.foldl_cons, List.foldl_nil]
    by_cases hput : n < len ∧ pos + n ≤ 31
    · rw [if_pos (by simpa using hput), getLsbD_setBit _ _ _ hi, ih]
      by_cases hn : i = pos + n
      · rw [if_pos hn, if_pos (by omega), hn, Nat.add_sub_cancel_left]
      · rw [if_neg hn]
        exact if_congr (by omega) rfl rfl
    · rw [if_neg (by simpa using hput), ih]
      exact if_congr (by omega) rfl rfl

/-- The position of a field, in the low byte of the operand (R136). -/
theorem bits_pos (b : Word) : bits b.toNat 0 8 = b.toNat % 256 := by
  rw [bits, pow_zero, Nat.div_one]
  rfl

theorem bfiWord_bit (a b d : Word) {i : Nat} (hi : i < 32) :
    (bfiWord a b d).getLsbD i =
      if b.toNat % 256 ≤ i ∧ i < b.toNat % 256 + min (b.toNat / 256 % 256) 32 then a.getLsbD (i - b.toNat % 256) else d.getLsbD i := by
  rw [bfiWord, getLsbD_bfi_steps _ _ _ _ _ hi, bits_pos, min_comm 32, min_assoc, min_self]
  rfl

/-! ### BFX (08, R136) -/

/-- Bit `j` of a word extended without limit, with its sign or with zeros. -/
def extendedBit (sg : BitVec 1) (a : Word) (j : Nat) : Bool := if j < 32 then a.getLsbD j else sg == 1 && a.getLsbD 31

/-- The word extended without limit, as a number. -/
def extended (sg : BitVec 1) (a : Word) : Int := if sg = 1 then a.toInt else (a.toNat : Int)

theorem getLsbD_extended (sg : BitVec 1) (a : Word) (w : Nat) {j : Nat} (hj : j < w) :
    (BitVec.ofInt w (extended sg a)).getLsbD j = extendedBit sg a j := by
  rw [extended, extendedBit]
  split
  · next h =>
    rw [show BitVec.ofInt w a.toInt = a.signExtend w from rfl, BitVec.getLsbD_signExtend, decide_eq_true hj, Bool.true_and, h,
      BitVec.msb_eq_getLsbD_last]
    rfl
  · next h =>
    rw [BitVec.ofInt_natCast, BitVec.getLsbD_ofNat, decide_eq_true hj, Bool.true_and, BitVec.testBit_toNat, beq_eq_false_iff_ne.mpr h, Bool.false_and]
    split
    · rfl
    · next hge => exact BitVec.getLsbD_of_ge _ _ (not_lt.mp hge)

/-- The field that BFX takes, as a number of `len` bits. -/
def bfxField (sg : BitVec 1) (a : Word) (pos len : Nat) : BitVec len := BitVec.ofInt len (extended sg a / 2 ^ pos)

theorem getLsbD_bfxField (sg : BitVec 1) (a : Word) (pos len j : Nat) :
    (bfxField sg a pos len).getLsbD j = (decide (j < len) && extendedBit sg a (pos + j)) := by
  rw [bfxField, ofInt_ediv_two_pow, BitVec.getLsbD_extractLsb']
  by_cases hj : j < len
  · rw [getLsbD_extended sg a _ (by omega)]
  · rw [decide_eq_false hj, Bool.false_and, Bool.false_and]

theorem ofSigned_eq_toNat (n : Nat) (v : Int) : ofSigned n v = (BitVec.ofInt n v).toNat := (BitVec.toNat_ofInt v).symm

theorem toSigned_toNat {n : Nat} (x : BitVec n) : toSigned n x.toNat = x.toInt := by
  rw [toSigned, Nat.mod_eq_of_lt x.isLt, BitVec.toInt_eq_toNat_cond]

/-- BFX widens its field to 32 bits. -/
theorem bfxWord_eq (sg : BitVec 1) (a b : Word) :
    bfxWord sg a b = if sg = 1 then (bfxField sg a (b.toNat % 256) (min (b.toNat / 256 % 256) 32)).signExtend 32
      else (bfxField sg a (b.toNat % 256) (min (b.toNat / 256 % 256) 32)).setWidth 32 := by
  have hfield (pos len : Nat) : ofSigned len (extended sg a / ((2 ^ pos : Nat) : Int)) = (bfxField sg a pos len).toNat := by
    rw [bfxField, ofSigned_eq_toNat, Nat.cast_pow, Nat.cast_ofNat]
  rw [bfxWord, bits_pos, ← extended, hfield, toSigned_toNat, BitVec.ofNat_toNat]
  rfl

theorem bfxWord_bit (sg : BitVec 1) (a b : Word) {i : Nat} (hi : i < 32) :
    let pos := b.toNat % 256
    let len := min (b.toNat / 256 % 256) 32
    (bfxWord sg a b).getLsbD i =
      if i < len then extendedBit sg a (pos + i) else sg == 1 && decide (0 < len) && extendedBit sg a (pos + len - 1) := by
  intro pos len
  rw [bfxWord_eq]
  change (if sg = 1 then (bfxField sg a pos len).signExtend 32 else (bfxField sg a pos len).setWidth 32).getLsbD i = _
  split
  · next h =>
    rw [BitVec.getLsbD_signExtend, decide_eq_true hi, Bool.true_and, BitVec.msb_eq_getLsbD_last, getLsbD_bfxField, getLsbD_bfxField]
    split
    · next hlt => rw [decide_eq_true hlt, Bool.true_and]
    · next hge =>
      rw [h]
      obtain hlen | hlen := Nat.eq_zero_or_pos len
      · simp [hlen]
      · rw [decide_eq_true (show len - 1 < len by omega), decide_eq_true hlen, Nat.add_sub_assoc hlen]
        rfl
  · next h =>
    rw [BitVec.getLsbD_setWidth, decide_eq_true hi, Bool.true_and, getLsbD_bfxField, beq_eq_false_iff_ne.mpr h, Bool.false_and, Bool.false_and]
    split
    · next hlt => rw [decide_eq_true hlt, Bool.true_and]
    · next hge => rw [decide_eq_false hge, Bool.false_and]

/-- Settles O6: BFX as its field widened, BFI by its steps, LUT3 and BREV by the bits that they set, POPC as a count, CLZ by the highest set bit. -/
theorem bitFieldResults : Obligations.BitFieldResults := by
  unfold Obligations.BitFieldResults
  intro a b d tt sg i hi
  exact ⟨⟨bfxWord_bit sg a b hi, bfiWord_bit a b d hi⟩, lut3Word_bit tt a b d hi, revWord_bit a hi, popWord_toNat a, clzWord_le a, bit_above_clz,
    bit_below_clz⟩

end Sys2Proof.Machine
end

section
/-! SUPPORT. Proofs about which words are the words of an OP, by the bits of the word (03, R29–R31, R40). -/

namespace Sys2Proof

theorem fieldOf_eq_extractLsb' (w : Word) (lo len : Nat) : fieldOf w lo len = w.extractLsb' lo len := by
  rw [fieldOf, BitVec.extractLsb', Nat.shiftRight_eq_div_pow]

/-- The decoder's question about the bits of a word. -/
theorem bitsAre_iff_extractLsb' {w : Word} {lo len v : Nat} (hv : v < 2 ^ len) :
    bitsAre w.toNat lo len v = true ↔ w.extractLsb' lo len = BitVec.ofNat len v := by
  rw [bitsAre, beq_iff_eq, ← BitVec.toNat_inj, BitVec.extractLsb'_toNat, BitVec.toNat_ofNat, Nat.shiftRight_eq_div_pow, Nat.mod_eq_of_lt hv]

theorem predField_iff {n : Nat} {p : BitVec n} : predField p = true ↔ p.toNat < 12 := by rw [predField, decide_eq_true_eq]

/-- The OP of a word is its top seven bits. -/
theorem op_eq_extractLsb' (w : Word) : w.toNat / 2 ^ 25 = (w.extractLsb' 25 7).toNat := by
  have hlt : w.toNat / 2 ^ 25 < 2 ^ 7 := Nat.div_lt_of_lt_mul w.isLt
  rw [BitVec.extractLsb'_toNat, Nat.shiftRight_eq_div_pow, Nat.mod_eq_of_lt hlt]

/-- A word of an OP falls under the row of the opcode map at that OP. -/
theorem decodeRow_of_op {w : Word} {op : BitVec 7} (h : w.extractLsb' 25 7 = op) : decodeRow w = decodeAt op.toNat w := by
  rw [decodeRow, op_eq_extractLsb', h]

section
variable {w : Word}

theorem decodeRow_plut (h : w.extractLsb' 25 7 = 0x25) : decodeRow w = decodeOp25 w := decodeRow_of_op h
theorem decodeRow_sel (h : w.extractLsb' 25 7 = 0x27) : decodeRow w = decodeOp27 w := decodeRow_of_op h
theorem decodeRow_bra (h : w.extractLsb' 25 7 = 0x28) : decodeRow w = decodeOp28 w := decodeRow_of_op h
theorem decodeRow_nop (h : w.extractLsb' 25 7 = 0x2C) : decodeRow w = decodeOp2C w := decodeRow_of_op h
theorem decodeRow_pmask (h : w.extractLsb' 25 7 = 0x33) : decodeRow w = decodeOp33 w := decodeRow_of_op h
theorem decodeRow_xred (h : w.extractLsb' 25 7 = 0x34) : decodeRow w = decodeOp34 w := decodeRow_of_op h

end

/-- A row with one word: what decodes to it, where `ok` are the row's fixed bits. -/
theorem decodeWf_eq_ok_of_one {w : Word} {i j : Instr} {b : Bool} {P : Prop} (hrow : decodeRow w = if b then some j else none) (hb : b = true ↔ P) :
    decodeWf w = .ok i ↔ P ∧ j.wf = true ∧ i = j := by
  rw [decodeWf_eq_ok, hrow, ← hb]
  cases b with
  | false => exact ⟨fun h => absurd h.1 nofun, fun h => absurd h.1 nofun⟩
  | true =>
    simp only [if_true, Option.some.injEq, true_and]
    exact ⟨fun ⟨hj, hwf⟩ => ⟨hj ▸ hwf, hj.symm⟩, fun ⟨hwf, hi⟩ => ⟨hi.symm, hi ▸ hwf⟩⟩

section
variable {w : Word} {i : Instr}

theorem decodeWf_plut (hop : w.extractLsb' 25 7 = 0x25) :
    decodeWf w = .ok i ↔ (w.extractLsb' 18 4).toNat < 12 ∧ (w.extractLsb' 14 4).toNat < 12 ∧ (w.extractLsb' 10 4).toNat < 12 ∧
      (w.extractLsb' 6 4).toNat < 12 ∧ w.extractLsb' 0 6 = 0 ∧
      i = .plut (w.extractLsb' 22 3) (w.extractLsb' 18 4) (w.extractLsb' 14 4) (w.extractLsb' 10 4) (w.extractLsb' 6 4) := by
  rw [decodeWf_eq_ok_of_one ((decodeRow_plut hop).trans rfl) (bitsAre_iff_extractLsb' (by decide))]
  simp only [Instr.wf, Bool.and_eq_true, predField_iff, fieldOf_eq_extractLsb']
  rw [and_left_comm, and_assoc, and_assoc, and_assoc]
  exact Iff.rfl

theorem decodeWf_sel (hop : w.extractLsb' 25 7 = 0x27) :
    decodeWf w = .ok i ↔ (w.extractLsb' 4 4).toNat < 12 ∧ w.extractLsb' 1 3 = 0 ∧
      i = .sel (w.extractLsb' 22 3) (w.extractLsb' 15 7) (w.extractLsb' 8 7) (w.extractLsb' 4 4) (w.extractLsb' 0 1) := by
  rw [decodeWf_eq_ok_of_one ((decodeRow_sel hop).trans rfl) (bitsAre_iff_extractLsb' (by decide))]
  simp only [Instr.wf, predField_iff, fieldOf_eq_extractLsb']
  exact and_left_comm

theorem decodeWf_pmask (hop : w.extractLsb' 25 7 = 0x33) :
    decodeWf w = .ok i ↔ w.extractLsb' 8 7 = 0 ∧ (w.extractLsb' 4 4).toNat < 12 ∧ w.extractLsb' 1 3 = 0 ∧
      i = .pmask (w.extractLsb' 22 3) (w.extractLsb' 15 7) (w.extractLsb' 4 4) (w.extractLsb' 0 1) := by
  rw [decodeWf_eq_ok_of_one ((decodeRow_pmask hop).trans rfl)
    (Bool.and_eq_true_iff.trans (and_congr (bitsAre_iff_extractLsb' (by decide)) (bitsAre_iff_extractLsb' (by decide))))]
  simp only [Instr.wf, predField_iff, fieldOf_eq_extractLsb', and_assoc]
  exact and_congr_right' and_left_comm

theorem decodeWf_xred (hop : w.extractLsb' 25 7 = 0x34) :
    decodeWf w = .ok i ↔ (w.extractLsb' 1 7).toNat < 8 ∧ w.extractLsb' 0 1 = 0 ∧
      i = .xred (w.extractLsb' 22 3) (w.extractLsb' 15 7) (w.extractLsb' 8 7) (w.extractLsb' 1 7) := by
  rw [decodeWf_eq_ok_of_one ((decodeRow_xred hop).trans rfl) (bitsAre_iff_extractLsb' (by decide))]
  simp only [Instr.wf, decide_eq_true_eq, fieldOf_eq_extractLsb', ← Nat.lt_succ_iff]
  exact and_left_comm

theorem decodeWf_bra (hop : w.extractLsb' 25 7 = 0x28) : decodeWf w = .ok (.bra (w.extractLsb' 22 3) (w.extractLsb' 0 22)) := by
  rw [← fieldOf_eq_extractLsb', ← fieldOf_eq_extractLsb']
  exact decodeWf_eq_ok.mpr ⟨decodeRow_bra hop, rfl⟩

theorem decodeWf_nop (hop : w.extractLsb' 25 7 = 0x2C) (hrest : w.extractLsb' 0 22 = 0) : decodeWf w = .ok (.nop (w.extractLsb' 22 3)) := by
  rw [← fieldOf_eq_extractLsb']
  exact decodeWf_eq_ok.mpr ⟨(decodeRow_nop hop).trans (if_pos ((bitsAre_iff_extractLsb' (by decide)).mpr hrest)), rfl⟩

/-- The words at OP 0x2C are NOP, RET and EXIT, each with one value of the bits below G. -/
theorem low_of_decodeWf_nop (hop : w.extractLsb' 25 7 = 0x2C) (hi : decodeWf w = .ok i) :
    w.extractLsb' 0 22 = 0 ∨ w.extractLsb' 0 22 = 2 ∨ w.extractLsb' 0 22 = 4 := by
  have hrow := (decodeRow_nop hop).symm.trans (decodeWf_eq_ok.mp hi).1
  rw [decodeOp2C] at hrow
  split at hrow
  · next h => exact .inl ((bitsAre_iff_extractLsb' (by decide)).mp h)
  · split at hrow
    · next h => exact .inr (.inl ((bitsAre_iff_extractLsb' (by decide)).mp h))
    · split at hrow
      · next h => exact .inr (.inr ((bitsAre_iff_extractLsb' (by decide)).mp h))
      · cases hrow

/-- The bits of a field within the low 22. -/
theorem extractLsb'_of_low {lo len : Nat} (h : lo + len ≤ 22) : w.extractLsb' lo len = (w.extractLsb' 0 22).extractLsb' lo len := by
  refine BitVec.eq_of_getLsbD_eq fun j hj => ?_
  simp only [BitVec.getLsbD_extractLsb', Nat.zero_add]
  rw [decide_eq_true (show lo + j < 22 by omega), Bool.true_and]

theorem decodeWf_illegal_control (hop : w.extractLsb' 25 7 = 0x2C)
    (hbits : 3 ≤ (w.extractLsb' 1 7).toNat ∨ w.extractLsb' 15 7 ≠ 0 ∨ w.extractLsb' 8 7 ≠ 0 ∨ w.extractLsb' 0 1 ≠ 0) : decodeWf w ≠ .ok i := by
  intro hi
  rw [extractLsb'_of_low (w := w) (lo := 1), extractLsb'_of_low (w := w) (lo := 15), extractLsb'_of_low (w := w) (lo := 8),
    extractLsb'_of_low (w := w) (lo := 0) (len := 1)] at hbits
  · revert hbits
    obtain h | h | h := low_of_decodeWf_nop hop hi <;> rw [h] <;> decide
  all_goals decide

end

end Sys2Proof
end

section
/-! SUPPORT. Proofs about compares, predicate moves and selects (08, R138–R142; 03, R33, Table 3-14). -/

namespace Sys2Proof.Machine

/-! ### ICMP (08, R138, Table 3-14) -/

/-- A word as the number that a compare takes it for, signed or not. -/
def compared (signed : Bool) (x : Word) : Int := if signed then x.toInt else x.toNat

theorem lessWord_iff (signed : Bool) (x y : Word) : lessWord (if signed then 1 else 0) x y = true ↔ compared signed x < compared signed y := by
  cases signed with
  | true => exact (Bool.eq_iff_iff.mp (lessWord_one x y)).trans decide_eq_true_iff
  | false => exact (Bool.eq_iff_iff.mp (lessWord_zero x y)).trans (decide_eq_true_iff.trans Nat.cast_lt.symm)

theorem compared_inj {signed : Bool} {x y : Word} : compared signed x = compared signed y ↔ x = y := by
  cases signed with
  | true => exact BitVec.toInt_inj
  | false => exact Nat.cast_inj.trans BitVec.toNat_inj

theorem icmpHolds_iff (c : BitVec 4) (x y : Word) (hc : c.toNat % 8 ≤ 5) :
    let p := compared (c.getLsbD 3) x
    let q := compared (c.getLsbD 3) y
    (icmpHolds c x y = true ↔
      (c.toNat % 8 = 0 ∧ p = q) ∨ (c.toNat % 8 = 1 ∧ p ≠ q) ∨ (c.toNat % 8 = 2 ∧ p < q) ∨ (c.toNat % 8 = 3 ∧ p ≤ q) ∨
      (c.toNat % 8 = 4 ∧ p > q) ∨ (c.toNat % 8 = 5 ∧ p ≥ q)) := by
  intro p q
  have heq : x = y ↔ p = q := compared_inj.symm
  have hlt : lessWord (if c.getLsbD 3 then 1 else 0) x y = true ↔ p < q := lessWord_iff ..
  have hgt : lessWord (if c.getLsbD 3 then 1 else 0) y x = true ↔ q < p := lessWord_iff ..
  rw [icmpHolds]
  generalize lessWord (if c.getLsbD 3 then 1 else 0) = lt at hlt hgt ⊢
  generalize c.toNat % 8 = k at hc ⊢
  interval_cases k <;> simp [heq, hlt, hgt, ← Bool.not_eq_true]

/-! ### Words that write predicates or take them (08, R138, R140–R142) -/

theorem PredResult.congr {i : Instr} {g : BitVec 3} {p : BitVec 4} {s : State} {e : Env} {v v' : Nat → Lane → Bool} (h : PredResult i g p s e v)
    (hv : ∀ n, v n (e.g.lane n) = v' n (e.g.lane n)) : PredResult i g p s e v' :=
  LaneWord.congr h fun n => congrArg _ (hv n)

section Words
variable {s : State} {e : Env} (he : s.env = some e) {g : BitVec 3} {p : BitVec 4} {d a : BitVec 7}
include he

theorem icmpI_predResult {c : BitVec 4} {i : BitVec 7} {imm : Word} (himm : icmpImm e.hints i = imm) :
    PredResult (.icmpI g p c a i) g p s e fun _ l => icmpHolds c (l.word (e.v a)) imm :=
  (laneWord_of he ((exec_icmpI s).trans (inWord_ok he rfl))).congr fun _ => by rw [himm]

theorem plut_predResult {a b c : BitVec 4} {tt : BitVec 8} (htable : e.table = .ok tt) :
    PredResult (.plut g p a b c) g p s e fun _ l =>
      tt.getLsbD ((l.pred a.toNat).toNat * 4 + (l.pred b.toNat).toNat * 2 + (l.pred c.toNat).toNat) :=
  laneWord_of he ((exec_plut s).trans (inWord_ok he (by rw [htable])))

theorem plut_faults {a b c : BitVec 4} {h : Halt} (htable : e.table = .error h) : Faults (.plut g p a b c) s e h :=
  inWord_error he (by rw [htable])

theorem sel_laneWord {x : BitVec 1} :
    LaneWord (.sel g d a p x) g s e fun _ l => if l.pred p.toNat ≠ decide (x = 1) then l.putWord (e.v d) (l.word (e.v a)) else l :=
  (laneWord_of he ((exec_sel s).trans (inWord_ok he rfl))).congr fun _ => if_congr bne_iff_ne rfl rfl

end Words

theorem icmpImm_of_no_himm {h : Hints} (hh : h.himm = none) (i : BitVec 7) : icmpImm h i = i.signExtend 32 := by
  rw [icmpImm, hh]

theorem icmpImm_of_himm {h : Hints} {top : Bool} {hi : BitVec 24} (hh : h.himm = some (top, hi)) (i : BitVec 7) :
    icmpImm h i = hi ++ BitVec.ofBool top ++ i := by
  rw [icmpImm, hh]

/-- Settles O7: a compare by the numbers that it takes its words for; each word by what it writes in a lane. -/
theorem predicateWords : Obligations.PredicateWords := by
  unfold Obligations.PredicateWords
  refine ⟨icmpHolds_iff, fun s e g p c d a b i he => ⟨?icmpR, fun hh => ?icmpI, fun top hi hh => ?icmpHimm, ?p2v, ?v2p, ?ptest⟩⟩
  case icmpR => exact laneWord_of he ((exec_icmpR s).trans (inWord_ok he rfl))
  case icmpI => exact icmpI_predResult he (icmpImm_of_no_himm hh i)
  case icmpHimm => exact icmpI_predResult he (icmpImm_of_himm hh i)
  case p2v => exact laneWord_of he ((exec_p2v s).trans (inWord_ok he rfl))
  case v2p => exact laneWord_of he ((exec_v2p s).trans (inWord_ok he rfl))
  case ptest => exact laneWord_of he ((exec_ptestNr s).trans (inWord_ok he rfl))

/-- Three truth values select one of eight bits, all within the low eight of a payload. -/
theorem getLsbD_truncate_table (hi : BitVec 24) (x y z : Bool) :
    (hi.truncate 8).getLsbD (x.toNat * 4 + y.toNat * 2 + z.toNat) = hi.getLsbD (4 * x.toNat + 2 * y.toNat + z.toNat) := by
  have hlt : x.toNat * 4 + y.toNat * 2 + z.toNat < 8 := by cases x <;> cases y <;> cases z <;> decide
  rw [BitVec.truncate, BitVec.getLsbD_setWidth, decide_eq_true hlt, Bool.true_and, Nat.mul_comm 4, Nat.mul_comm 2]

/-- Settles O9: PLUT by the table of its HIMM, its word by the bits of its row. -/
theorem plutCombinesThreePredicates : Obligations.PlutCombinesThreePredicates := by
  unfold Obligations.PlutCombinesThreePredicates
  refine ⟨fun s e g p a b c he => ⟨fun hi hh hlt => ?table, fun h => plut_faults he (table_of_no_small h)⟩, fun w i hop => decodeWf_plut hop, by decide⟩
  exact (plut_predResult he (table_of_small hh hlt)).congr fun n => getLsbD_truncate_table ..

/-- Settles O10: SEL lane by lane, its word by the bits of its row. -/
theorem selSelectsOrKeeps : Obligations.SelSelectsOrKeeps := by
  unfold Obligations.SelSelectsOrKeeps
  exact ⟨fun s e g d a p x he => sel_laneWord he, fun w i hop => decodeWf_sel hop⟩

end Sys2Proof.Machine
end

section
/-! SUPPORT. Proofs about the cross-lane words (08, R153–R159, Table 8-5; 17, R311). -/

namespace Sys2Proof.Machine

/-! ### Lanes that are on, and the first lane of a kind -/

theorem getLsbD_live (g : Group) (n : Nat) : g.live.getLsbD n = (g.lanesOn.getLsbD n && !g.exited.getLsbD n) := by
  rw [Group.live, BitVec.getLsbD_and, BitVec.getLsbD_not]
  by_cases hn : n < 32
  · rw [decide_eq_true hn, Bool.true_and]
  · rw [BitVec.getLsbD_of_ge g.lanesOn n (not_lt.mp hn), Bool.false_and, Bool.false_and]

theorem source_eq (e : Env) (off n : Nat) :
    e.source off n = if e.g.lanesOn.getLsbD n && !e.g.exited.getLsbD n then (e.g.lane n).word off else 0 := by
  rw [Env.source, getLsbD_live]

/-- The first lane of a mask that passes a test. -/
theorem head_filter_lanesOf {m : BitVec 32} {p : Nat → Bool} {n : Nat} :
    ((lanesOf m).filter p).head? = some n ↔ m.getLsbD n = true ∧ p n = true ∧ ∀ k < n, m.getLsbD k = true → p k = false := by
  have hall : allLanes = List.range 32 := by decide
  rw [List.head?_filter, lanesOf, List.find?_filter, hall, List.find?_range_eq_some]
  simp only [List.mem_range, Bool.decide_and, Bool.decide_eq_true, Bool.and_eq_true, Bool.not_eq_true', Bool.and_eq_false_imp, and_assoc]
  exact and_congr_right fun hn => and_congr_right fun _ => and_iff_right (BitVec.lt_of_getLsbD hn)

theorem act_of_not_redo {e : Env} (g : BitVec 3) (h : e.iss.redo = false) : e.act g = guardMask g e.hints e.g e.path.mask := by
  simp [Env.act, h]

/-! ### The shape of cross-lane words (08, R153, R154; 17, R311) -/

theorem detHandler_iff {e : Env} : e.detHandler = true ↔ e.l.det = true ∧ e.g.isHandler = true := Bool.and_eq_true_iff

theorem detHandler_eq_false {e : Env} (h : ¬(e.l.det = true ∧ e.g.isHandler = true)) : e.detHandler = false :=
  Bool.eq_false_iff.mpr (mt detHandler_iff.mp h)

/-- A value taken from a lane outside the path is a conflict in a deterministic launch with a frame open (R154). -/
theorem crossConflict_iff {e : Env} {srcs : List Nat} : e.crossConflict srcs = true ↔
    e.l.det = true ∧ e.g.jr.isSome = true ∧ ∃ j ∈ srcs, e.g.live.getLsbD j = true ∧ e.path.mask.getLsbD j = false := by
  simp only [Env.crossConflict, Bool.and_eq_true, List.any_eq_true, Bool.not_eq_true', and_assoc]

section CrossLane
variable {s : State} {e : Env} (he : s.env = some e) {i : Instr} {g : BitVec 3} {srcs : Env → List Nat} {put : Env → Nat → Lane → Lane}
  (hexec : exec i s = crossLane g srcs put s)
include he hexec

theorem crossLane_faults_of_handler (hh : e.detHandler = true) : Faults i s e .illegal :=
  hexec.trans (inWord_error he (if_pos hh))

theorem crossLane_faults_of_conflict (hh : e.detHandler = false) (hc : e.crossConflict (srcs e) = true) : Faults i s e (.word 0x08 0) :=
  hexec.trans (inWord_error he ((if_neg (by rw [hh]; exact Bool.false_ne_true)).trans (if_pos hc)))

theorem crossLane_laneWord (hh : e.detHandler = false) (hc : e.crossConflict (srcs e) = false) : LaneWord i g s e (put e) :=
  laneWord_of he (hexec.trans (inWord_ok he ((if_neg (by rw [hh]; exact Bool.false_ne_true)).trans (if_neg (by rw [hc]; exact Bool.false_ne_true)))))

end CrossLane

/-! ### LPERM (08, R155) -/

/-- The lane that LPERM names, before it is found to lie in the group. -/
def lpermLane (c : BitVec 4) (n : Nat) (sel : Int) : Int :=
  let raw : Int := match c.toNat % 4 with
    | 0 => sel
    | 1 => n - sel
    | 2 => n + sel
    | _ => (Nat.xor n sel.toNat : Nat)
  if c.getLsbD 3 then raw % 32 else raw

theorem lpermIndex_eq (c : BitVec 4) (n sel : Nat) :
    lpermIndex c n sel = if 0 ≤ lpermLane c n sel ∧ lpermLane c n sel ≤ 31 then some (lpermLane c n sel).toNat else none := by
  refine if_congr ?_ rfl rfl
  rw [Bool.and_eq_true, decide_eq_true_eq, decide_eq_true_eq]
  rfl

theorem lpermIndex_eq_some {c : BitVec 4} {n sel m : Nat} : lpermIndex c n sel = some m ↔ lpermLane c n sel = m ∧ m ≤ 31 := by
  rw [lpermIndex_eq]
  split
  · rw [Option.some_inj]; omega
  · exact ⟨nofun, fun h => by omega⟩

theorem lpermSel_cast (e : Env) (c : BitVec 4) (b : BitVec 7) (n : Nat) :
    (e.lpermSel c b n : Int) = if c.getLsbD 2 then (b.toNat : Int) else ((e.g.lane n).word (e.v b)).toNat :=
  apply_ite Nat.cast ..

/-! ### The values that cross-lane words write (08, R155–R159) -/

/-- What LPERM does to a lane (R155). -/
def Env.lpermPut (e : Env) (p c : BitVec 4) (a b : BitVec 7) (n : Nat) (l : Lane) : Lane :=
  let j := lpermIndex c n (e.lpermSel c b n)
  let k := l.putWord (e.v a) (match j with | some m => e.source (e.v a) m | none => 0)
  if p = 15 then k else k.putPred p.toNat j.isSome

/-- The same by the lane that it names, in the group or not. -/
theorem lpermPut_eq (e : Env) (p c : BitVec 4) (a b : BitVec 7) (n : Nat) (l : Lane) :
    e.lpermPut p c a b n l =
      let j := lpermLane c n (e.lpermSel c b n)
      let k := l.putWord (e.v a) (if 0 ≤ j ∧ j ≤ 31 then e.source (e.v a) j.toNat else 0)
      if p = 15 then k else k.putPred p.toNat (decide (0 ≤ j ∧ j ≤ 31)) := by
  rw [Env.lpermPut, lpermIndex_eq]
  by_cases hin : 0 ≤ lpermLane c n (e.lpermSel c b n) ∧ lpermLane c n (e.lpermSel c b n) ≤ 31
  · simp only [if_pos hin, decide_eq_true hin]
    rfl
  · simp only [if_neg hin, decide_eq_false hin]
    rfl

/-- No source is kept from a word that moves values (R154, R311). -/
theorem no_conflict {e : Env}
    (h : e.l.det = false ∨ (e.g.isHandler = false ∧ (e.g.jr = none ∨ ∀ n, e.g.live.getLsbD n = true → e.path.mask.getLsbD n = true)))
    (srcs : List Nat) : e.detHandler = false ∧ e.crossConflict srcs = false := by
  refine ⟨detHandler_eq_false fun ⟨hdet, hh⟩ => ?_, Bool.eq_false_iff.mpr (mt crossConflict_iff.mp fun ⟨hdet, hjr, n, _, hlive, hmask⟩ => ?_)⟩
  · obtain h | ⟨h, -⟩ := h
    · rw [h] at hdet; cases hdet
    · rw [h] at hh; cases hh
  · obtain h | ⟨-, h | h⟩ := h
    · rw [h] at hdet; cases hdet
    · rw [h] at hjr; cases hjr
    · rw [h n hlive] at hmask; cases hmask

theorem no_sources (e : Env) : e.crossConflict [] = false := by rw [Env.crossConflict, List.any_nil, Bool.and_false]

section Votes
variable (e : Env) (g : BitVec 3) (q : BitVec 4)

/-- The predicates that a vote counts. -/
def Env.votes : List Bool := (lanesOf (e.act g)).map fun i => (e.g.lane i).pred q.toNat

theorem votes_all : (e.votes g q).all id = true ↔ ∀ n, (e.act g).getLsbD n = true → (e.g.lane n).pred q.toNat = true := by
  simp [Env.votes, mem_lanesOf]

theorem votes_any : (e.votes g q).any id = true ↔ ∃ n, (e.act g).getLsbD n = true ∧ (e.g.lane n).pred q.toNat = true := by
  simp [Env.votes, mem_lanesOf]

theorem votes_same : ((e.votes g q).all id || (e.votes g q).all not) = true ↔
    ∀ n m, (e.act g).getLsbD n = true → (e.act g).getLsbD m = true → (e.g.lane n).pred q.toNat = (e.g.lane m).pred q.toNat := by
  have hnone : (e.votes g q).all not = true ↔ ∀ n, (e.act g).getLsbD n = true → (e.g.lane n).pred q.toNat = false := by
    simp [Env.votes, mem_lanesOf]
  rw [Bool.or_eq_true, votes_all, hnone]
  refine ⟨fun h n m hn hm => ?_, fun h => or_iff_not_imp_left.mpr fun hall n hn => ?_⟩
  · obtain h | h := h <;> rw [h n hn, h m hm]
  · push Not at hall
    obtain ⟨m, hm, hpred⟩ := hall
    rw [h n m hn hm]
    exact Bool.eq_false_iff.mpr hpred

/-- PICK chooses the lowest active lane that is no helper lane, and the lowest of all where each is one. -/
theorem picked_iff (n : Nat) : (e.picked g == some n) = true ↔ (e.act g).getLsbD n = true ∧
    ((e.g.isHelper n = false ∧ ∀ m, m < n → (e.act g).getLsbD m = true → e.g.isHelper m = true) ∨
     ((∀ m, (e.act g).getLsbD m = true → e.g.isHelper m = true) ∧ ∀ m, m < n → (e.act g).getLsbD m = false)) := by
  rw [beq_iff_eq, Env.picked]
  split
  · next i is h =>
    have hfirst := head_filter_lanesOf (m := e.act g) (p := fun i => !e.g.isHelper i) (n := n)
    rw [h, List.head?_cons] at hfirst
    have hi : (e.act g).getLsbD i = true ∧ e.g.isHelper i = false := by
      have hmem : i ∈ (lanesOf (e.act g)).filter fun i => !e.g.isHelper i := h ▸ List.mem_cons_self
      rwa [List.mem_filter, mem_lanesOf, Bool.not_eq_true'] at hmem
    simp only [Bool.not_eq_true', Bool.not_eq_false'] at hfirst
    rw [hfirst]
    refine and_congr_right fun _ => ⟨.inl, fun hor => hor.resolve_right fun ⟨hall, _⟩ => ?_⟩
    rw [hall i hi.1] at hi
    exact absurd hi.2 (by decide)
  · next h =>
    have hall : ∀ m, (e.act g).getLsbD m = true → e.g.isHelper m = true := by
      simpa [List.filter_eq_nil_iff, mem_lanesOf] using h
    have hfirst := head_filter_lanesOf (m := e.act g) (p := fun _ => true) (n := n)
    rw [List.filter_true] at hfirst
    simp only [true_and, Bool.true_eq_false, imp_false, Bool.not_eq_true] at hfirst
    rw [hfirst]
    refine and_congr_right fun hn => ⟨fun hlow => .inr ⟨hall, hlow⟩, fun hor => (hor.resolve_left fun ⟨hh, _⟩ => ?_).2⟩
    rw [hall n hn] at hh
    cases hh

end Votes

section Exec
variable {s : State} {e : Env} (he : s.env = some e) (g : BitVec 3)
include he

theorem lperm_laneWord {p c : BitVec 4} {a b : BitVec 7} (hh : e.detHandler = false)
    (hc : e.crossConflict ((lanesOf (e.act g)).filterMap fun n => lpermIndex c n (e.lpermSel c b n)) = false) :
    LaneWord (.lperm g p c a b) g s e (e.lpermPut p c a b) :=
  crossLane_laneWord he (exec_lperm s) hh hc

theorem quadMove_wordResult {i : Instr} {d a : BitVec 7} {src : Nat → Nat} (hexec : exec i s = quadMove g d a src s) (hh : e.detHandler = false)
    (hc : e.crossConflict ((lanesOf (e.act g)).map src) = false) : WordResult i g d s e fun n _ => e.source (e.v a) (src n) :=
  crossLane_laneWord he hexec hh hc

theorem poll_predResult {i : Instr} {p q : BitVec 4} {f : List Bool → Bool} (hexec : exec i s = poll g p q f s) (hh : e.detHandler = false) :
    PredResult i g p s e fun _ _ => f (e.votes g q) :=
  crossLane_laneWord he hexec hh (no_sources e)

theorem smov_gflags_faults_of_handler (d : BitVec 7) (hh : e.detHandler = true) : Faults (.smov g d 0x19) s e .illegal := by
  refine inWord_error he ((if_neg ?_).trans (if_pos ?_))
  · rw [Bool.and_eq_true]; exact fun h => absurd h.2 (by decide)
  · rw [hh]; rfl

end Exec

/-- Settles O12: the words that move values by the lanes that they name, the votes and PICK by the active lanes; and what a handler group may not issue. -/
theorem crossLaneWords : Obligations.CrossLaneWords := by
  unfold Obligations.CrossLaneWords
  intro s e g d a b p c q z he
  refine ⟨fun hfree => ?moves, fun hh => ?votes, fun hdet hhandler => ?handler, source_eq e⟩
  case moves =>
    have hok := no_conflict hfree
    refine ⟨(lperm_laneWord he g (hok []).1 (hok _).2).congr fun n => ?_, quadMove_wordResult he g (exec_qxchH s) (hok []).1 (hok _).2,
      quadMove_wordResult he g (exec_qxchV s) (hok []).1 (hok _).2, quadMove_wordResult he g (exec_qxchD s) (hok []).1 (hok _).2,
      quadMove_wordResult he g (exec_qbcast s) (hok []).1 (hok _).2⟩
    refine (lpermPut_eq e p c a b n (e.g.lane n)).trans ?_
    rw [lpermSel_cast]
    rfl
  case votes =>
    have hno := detHandler_eq_false hh
    exact ⟨⟨_, votes_all e g q, poll_predResult he g (exec_pollAnd s) hno⟩, ⟨_, votes_any e g q, poll_predResult he g (exec_pollOr s) hno⟩,
      ⟨_, votes_same e g q, poll_predResult he g (exec_pollSame s) hno⟩, ⟨_, picked_iff e g, crossLane_laneWord he (exec_pick s) hno (no_sources e)⟩⟩
  case handler =>
    have hh := detHandler_iff.mpr ⟨hdet, hhandler⟩
    simp only [List.forall_mem_cons]
    exact ⟨crossLane_faults_of_handler he (exec_lperm s) hh, crossLane_faults_of_handler he (exec_qxchH s) hh,
      crossLane_faults_of_handler he (exec_qxchV s) hh, crossLane_faults_of_handler he (exec_qxchD s) hh,
      crossLane_faults_of_handler he (exec_qbcast s) hh, crossLane_faults_of_handler he (exec_pollAnd s) hh,
      crossLane_faults_of_handler he (exec_pollOr s) hh, crossLane_faults_of_handler he (exec_pollSame s) hh,
      crossLane_faults_of_handler he (exec_pick s) hh, crossLane_faults_of_handler he (exec_xred s) hh,
      smov_gflags_faults_of_handler he g d hh, List.forall_mem_nil _⟩

/-- Settles O11: the mask that PMASK writes is that of the lanes which a KILL with its predicate would name. -/
theorem pmaskWritesTheMask : Obligations.PmaskWritesTheMask := by
  unfold Obligations.PmaskWritesTheMask
  refine ⟨fun s e g d p x he => ⟨fun hh => ⟨e.killed g p x, fun n => ?bit, ?word⟩, fun hdet hh => ?fault⟩, fun e g n hredo hact => ?inPath,
    fun w i hop => decodeWf_pmask hop⟩
  case bit =>
    rw [Bool.eq_iff_iff, getLsbD_killed, Bool.and_eq_true, bne_iff_ne]
  case word => exact crossLane_laneWord he (exec_pmask s) (detHandler_eq_false hh) (no_sources e)
  case fault => exact crossLane_faults_of_handler he (exec_pmask s) (detHandler_iff.mpr ⟨hdet, hh⟩)
  case inPath =>
    rw [act_of_not_redo g hredo, getLsbD_guardMask] at hact
    exact hact.1

/-! ### Conflicts in a deterministic launch (08, R154) -/

/-- R154: a lane that the word is active in takes a value from a lane `idx` that is on but not on the path, with a frame open. -/
def Env.takesOutside (e : Env) (g : BitVec 3) (idx : Nat → Option Nat) : Prop :=
  e.g.jr.isSome = true ∧ ∃ n j, (e.act g).getLsbD n = true ∧ idx n = some j ∧ e.path.mask.getLsbD j = false ∧
    e.g.lanesOn.getLsbD j = true ∧ e.g.exited.getLsbD j = false

theorem crossConflict_iff_takesOutside {e : Env} {g : BitVec 3} {srcs : List Nat} {idx : Nat → Option Nat} (hdet : e.l.det = true)
    (hsrcs : ∀ j, j ∈ srcs ↔ ∃ n, (e.act g).getLsbD n = true ∧ idx n = some j) : e.crossConflict srcs = true ↔ e.takesOutside g idx := by
  simp only [crossConflict_iff, hdet, true_and, Env.takesOutside, hsrcs, getLsbD_live, Bool.and_eq_true, Bool.not_eq_true']
  refine and_congr_right fun _ => ⟨fun ⟨j, ⟨n, hn, hj⟩, ⟨hon, hexit⟩, hmask⟩ => ⟨n, j, hn, hj, hmask, hon, hexit⟩,
    fun ⟨n, j, hn, hj, hmask, hon, hexit⟩ => ⟨j, ⟨n, hn, hj⟩, ⟨hon, hexit⟩, hmask⟩⟩

section Det
variable {s : State} {e : Env} (he : s.env = some e) (hdet : e.l.det = true) (hh : e.g.isHandler = false) {i : Instr} {g : BitVec 3}
include he hdet hh

/-- A cross-lane word of a deterministic launch takes the trap where it takes a value from outside its path, and completes otherwise. -/
theorem crossLane_of_det {srcs : Env → List Nat} {put : Env → Nat → Lane → Lane} {idx : Nat → Option Nat} (hexec : exec i s = crossLane g srcs put s)
    (hsrcs : ∀ j, j ∈ srcs e ↔ ∃ n, (e.act g).getLsbD n = true ∧ idx n = some j) :
    (e.takesOutside g idx → Faults i s e (.word 0x08 0)) ∧ (¬e.takesOutside g idx → LaneWord i g s e (put e)) := by
  have hno : e.detHandler = false := detHandler_eq_false fun h => by rw [hh] at h; exact absurd h.2 Bool.false_ne_true
  rw [← crossConflict_iff_takesOutside hdet hsrcs, Bool.not_eq_true]
  exact ⟨crossLane_faults_of_conflict he hexec hno, crossLane_laneWord he hexec hno⟩

theorem quadMove_of_det {d a : BitVec 7} {src : Nat → Nat} (hexec : exec i s = quadMove g d a src s) :
    (e.takesOutside g (fun n => some (src n)) → Faults i s e (.word 0x08 0)) ∧
      (¬e.takesOutside g (fun n => some (src n)) → LaneWord i g s e fun n l => l.putWord (e.v d) (e.source (e.v a) (src n))) :=
  crossLane_of_det he hdet hh hexec fun j => by simp only [List.mem_map, mem_lanesOf, Option.some_inj]

theorem lperm_of_det {p c : BitVec 4} {a b : BitVec 7} :
    (e.takesOutside g (fun n => lpermIndex c n (e.lpermSel c b n)) → Faults (.lperm g p c a b) s e (.word 0x08 0)) ∧
      (¬e.takesOutside g (fun n => lpermIndex c n (e.lpermSel c b n)) → LaneWord (.lperm g p c a b) g s e (e.lpermPut p c a b)) :=
  crossLane_of_det he hdet hh (exec_lperm s) fun j => by simp only [List.mem_filterMap, mem_lanesOf]

theorem smov_gflags_faults_of_frame (d : BitVec 7) (hjr : e.g.jr.isSome = true) : Faults (.smov g d 0x19) s e (.word 0x08 0) := by
  refine inWord_error he ((if_neg ?_).trans ((if_neg ?_).trans (if_pos ?_)))
  · rw [Bool.and_eq_true]; exact fun h => absurd h.2 (by decide)
  · rw [Env.detHandler, hh, Bool.and_false]; exact Bool.false_ne_true
  · rw [hdet, hjr]; rfl

end Det

theorem smov_gflags_laneWord {s : State} {e : Env} (he : s.env = some e) (hh : e.g.isHandler = false) (g : BitVec 3) (d : BitVec 7) (hjr : e.g.jr = none) :
    ∃ f, LaneWord (.smov g d 0x19) g s e f :=
  have ho : e.g.origins = none := Option.not_isSome_iff_eq_none.mp (Bool.eq_false_iff.mp hh)
  ⟨_, smov_laneWord ho he (smovReads_gflags (.inr hjr))⟩


/-- Settles O14: each word by the lanes that it takes values from. -/
theorem deterministicCrossLaneConflict : Obligations.DeterministicCrossLaneConflict := by
  unfold Obligations.DeterministicCrossLaneConflict
  intro s e g d a b p c z he hdet hh
  refine ⟨?words, fun n => rfl, fun n m => lpermIndex_eq_some, smov_gflags_faults_of_frame he hdet hh d, smov_gflags_laneWord he hh g d⟩
  simp only [List.forall_mem_cons]
  exact ⟨lperm_of_det he hdet hh, quadMove_of_det he hdet hh (exec_qxchH s), quadMove_of_det he hdet hh (exec_qxchV s),
    quadMove_of_det he hdet hh (exec_qxchD s), quadMove_of_det he hdet hh (exec_qbcast s), List.forall_mem_nil _⟩

end Sys2Proof.Machine
end

section
/-! SUPPORT. Proofs about XRED (08, R159): each reduction is one value of the active lanes' words, whatever their order. -/

namespace Sys2Proof.Machine

/-! ### Reductions of a list that is not empty -/

theorem foldl_add_toNat (w : Word) (ws : List Word) : (ws.foldl (· + ·) w).toNat = ((w :: ws).map (fun x => x.toNat)).sum % 2 ^ 32 := by
  induction ws generalizing w with
  | nil => simpa using (Nat.mod_eq_of_lt w.isLt).symm
  | cons x xs ih =>
    rw [List.foldl_cons, ih]
    simp only [List.map_cons, List.sum_cons, BitVec.toNat_add]
    rw [Nat.mod_add_mod, Nat.add_assoc]

theorem getLsbD_foldl_and (w : Word) (ws : List Word) (i : Nat) : (ws.foldl (· &&& ·) w).getLsbD i = (w :: ws).all fun x => x.getLsbD i := by
  induction ws generalizing w with
  | nil => simp
  | cons x xs ih => rw [List.foldl_cons, ih]; simp [Bool.and_assoc]

theorem getLsbD_foldl_or_words (w : Word) (ws : List Word) (i : Nat) : (ws.foldl (· ||| ·) w).getLsbD i = (w :: ws).any fun x => x.getLsbD i := by
  rw [Bool.eq_iff_iff, getLsbD_foldl_or fun x : Word => x]
  simp

theorem getLsbD_foldl_xor (w : Word) (ws : List Word) (i : Nat) :
    (ws.foldl (· ^^^ ·) w).getLsbD i = decide (((w :: ws).countP fun x => x.getLsbD i) % 2 = 1) := by
  induction ws generalizing w with
  | nil => cases h : w.getLsbD i <;> simp [h]
  | cons x xs ih =>
    rw [List.foldl_cons, ih]
    simp only [List.countP_cons, BitVec.getLsbD_xor, decide_eq_decide]
    cases w.getLsbD i <;> cases x.getLsbD i <;> simp only [Bool.xor_false, Bool.xor_true, Bool.not_false, Bool.not_true, if_true, if_false, Bool.false_eq_true]
    omega

/-- An operation that takes one of its two operands, and never one with the greater key, reduces a list to an element with the least key. -/
theorem foldl_least {α : Type} (key : α → Int) {op : α → α → α} (hop : ∀ x y, op x y = if key y < key x then y else x) (w : α) (ws : List α) :
    ws.foldl op w ∈ w :: ws ∧ ∀ x ∈ w :: ws, key (ws.foldl op w) ≤ key x := by
  induction ws generalizing w with
  | nil => simp
  | cons x xs ih =>
    obtain ⟨hmem, hle⟩ := ih (op w x)
    have hw : key (op w x) ≤ key w := by rw [hop]; split <;> omega
    have hx : key (op w x) ≤ key x := by rw [hop]; split <;> omega
    have hstart := hle _ List.mem_cons_self
    rw [List.foldl_cons]
    refine ⟨?_, ?_⟩
    · obtain h | h := List.mem_cons.mp hmem
      · rw [h, hop]
        split <;> simp
      · exact List.mem_cons_of_mem _ (List.mem_cons_of_mem _ h)
    · simp only [List.forall_mem_cons]
      exact ⟨hstart.trans hw, hstart.trans hx, fun y hy => hle y (List.mem_cons_of_mem _ hy)⟩

/-! ### XRED (08, R159) -/

/-- What a lane-wise word of an active group leaves of its words: the reduction starts at the first active lane. -/
theorem xred_eq_foldl {e : Env} {g : BitVec 3} (a m : BitVec 7) (hact : e.act g ≠ 0) :
    ∃ w ws, (lanesOf (e.act g)).map (fun n => (e.g.lane n).word (e.v a)) = w :: ws ∧ e.xred g a m = ws.foldl (xredOp m) w := by
  obtain ⟨n, hn⟩ := exists_getLsbD_of_ne_zero hact
  obtain ⟨i, is, his, -⟩ := lanesOf_eq_cons hn
  refine ⟨_, _, by rw [his, List.map_cons], ?_⟩
  rw [Env.xred, his]
  rfl

/-- R159: what a value must be to be the reduction `m` of some words. -/
def Reduces (m : BitVec 7) (ws : List Word) (v : Word) : Prop :=
  (m = 0 → v.toNat = (ws.map (fun w => w.toNat)).sum % 2 ^ 32) ∧
  (m = 1 → ∀ i, i < 32 → v.getLsbD i = ws.all (fun w => w.getLsbD i)) ∧
  (m = 2 → ∀ i, i < 32 → v.getLsbD i = ws.any (fun w => w.getLsbD i)) ∧
  (m = 3 → ∀ i, i < 32 → v.getLsbD i = decide ((ws.countP (fun w => w.getLsbD i)) % 2 = 1)) ∧
  (m = 4 → v ∈ ws ∧ ∀ w ∈ ws, v.toNat ≤ w.toNat) ∧ (m = 5 → v ∈ ws ∧ ∀ w ∈ ws, v.toInt ≤ w.toInt) ∧
  (m = 6 → v ∈ ws ∧ ∀ w ∈ ws, w.toNat ≤ v.toNat) ∧ (m = 7 → v ∈ ws ∧ ∀ w ∈ ws, w.toInt ≤ v.toInt)

theorem reduces_foldl (m : BitVec 7) (w : Word) (ws : List Word) : Reduces m (w :: ws) (ws.foldl (xredOp m) w) := by
  refine ⟨?sum, ?and, ?or, ?xor, ?leastN, ?leastS, ?greatestN, ?greatestS⟩ <;> rintro rfl
  case sum => exact foldl_add_toNat w ws
  case and => exact fun i _ => getLsbD_foldl_and w ws i
  case or => exact fun i _ => getLsbD_foldl_or_words w ws i
  case xor => exact fun i _ => getLsbD_foldl_xor w ws i
  case leastN =>
    have h := foldl_least (compared false) (op := xredOp 4) (fun x y => if_congr (lessWord_iff false y x) rfl rfl) w ws
    exact ⟨h.1, fun x hx => Int.ofNat_le.mp (h.2 x hx)⟩
  case leastS => exact foldl_least (compared true) (op := xredOp 5) (fun x y => if_congr (lessWord_iff true y x) rfl rfl) w ws
  case greatestN =>
    have h := foldl_least (fun x => -compared false x) (op := xredOp 6)
      (fun x y => if_congr ((lessWord_iff false x y).trans neg_lt_neg_iff.symm) rfl rfl) w ws
    exact ⟨h.1, fun x hx => Int.ofNat_le.mp (neg_le_neg_iff.mp (h.2 x hx))⟩
  case greatestS =>
    have h := foldl_least (fun x => -compared true x) (op := xredOp 7)
      (fun x y => if_congr ((lessWord_iff true x y).trans neg_lt_neg_iff.symm) rfl rfl) w ws
    exact ⟨h.1, fun x hx => neg_le_neg_iff.mp (h.2 x hx)⟩

/-- Settles O13: the value by the reduction of the active lanes' words, the word by the bits of its row. -/
theorem xredReducesTheActiveLanes : Obligations.XredReducesTheActiveLanes := by
  unfold Obligations.XredReducesTheActiveLanes
  refine ⟨fun s e g d a m he hh _ => ⟨e.xred g a m, crossLane_laneWord he (exec_xred s) (detHandler_eq_false hh) (no_sources e), fun hact => ?_⟩,
    fun w i hop => decodeWf_xred hop⟩
  obtain ⟨w, ws, hwords, hxred⟩ := xred_eq_foldl a m hact
  rw [hwords, hxred]
  exact reduces_foldl m w ws

end Sys2Proof.Machine
end

section
/-! SUPPORT. Proofs about words that fault without effect: where a fault leaves the path, and the privileged words (08, R143, R161; 17, R317). -/

namespace Sys2Proof.Machine

/-! ### Where a fault leaves the issuing group (17, R317–R320) -/

/-- A fault of the issuing word leaves the path at the word, or at the first hint of its run, and the group otherwise in place. -/
theorem takeFault_stands {s : State} {e : Env} (he : s.env = some e) (h : Halt) : ∃ grp, (e.takeFault h s).group? e.g.gid = some grp ∧
    (grp.slot e.iss.slotB).path = (e.g.slot e.iss.slotB).path.map (fun p => { p with pc := e.hints.start.getD e.iss.pc }) ∧
    grp.lanes = e.g.lanes ∧ grp.jr = e.g.jr ∧ grp.stack = e.g.stack := by
  have hissue : s.issue.isSome = true := by rw [env_issue he]; rfl
  refine ⟨_, (group_updGroup s e.g.gid _ fun g => ?gid).trans (congrArg _ (env_group he)), ?_⟩
  case gid =>
    simp only [hissue, if_true]
    exact updSlot_gid ..
  simp only [hissue, if_true]
  exact ⟨congrArg Slot.path (Group.setSlot_slot ..), Group.setSlot_lanes .., Group.setSlot_jr .., Group.setSlot_stack ..⟩

/-- A fault changes no lane. -/
theorem takeFault_lanes {s : State} {e : Env} (he : s.env = some e) (h : Halt) (n : Nat) :
    ((e.takeFault h s).group? n).map (fun k => k.lanes) = (s.group? n).map (fun k => k.lanes) := by
  obtain rfl | hn := eq_or_ne n e.g.gid
  · obtain ⟨grp, hgrp, -, hlanes, -⟩ := takeFault_stands he h
    rw [hgrp, env_group he, Option.map_some, Option.map_some, hlanes]
  · rw [takeFault_other e h s n hn]

/-! ### Privileged code (08, R161) -/

theorem holds_iff {im : Image} {va : Nat} : im.holds va = true ↔ ∃ x ∈ im.code, x.1 ≤ va ∧ va < x.1 + x.2 := by
  simp only [Image.holds, List.any_eq_true, Bool.and_eq_true, decide_eq_true_eq]

theorem privileged_iff {e : Env} : e.privileged = true ↔ ∃ im, e.c.imageOf e.iss.pc.toNat = some im ∧ im.privileged = true := by
  rw [Env.privileged, beq_iff_eq, Option.map_eq_some_iff]

theorem privilege_error {e : Env} (h : e.privileged = false) : e.privilege = .error (.word 0x06 0) :=
  if_neg (by rw [h]; exact Bool.false_ne_true)

/-- The image found for an address is one whose code holds it. -/
theorem imageOf_some {c : Context} {va : Nat} {im : Image} (h : c.imageOf va = some im) : im ∈ c.images ∧ im.holds va = true :=
  ⟨List.mem_of_find?_eq_some h, List.find?_some (p := fun im : Image => im.holds va) h⟩

theorem exists_image_of_privileged {e : Env} (h : e.privileged = true) :
    ∃ im ∈ e.c.images, im.privileged = true ∧ im.holds e.iss.pc.toNat = true := by
  obtain ⟨im, him, hp⟩ := privileged_iff.mp h
  obtain ⟨hmem, hholds⟩ := imageOf_some him
  exact ⟨im, hmem, hp, hholds⟩

theorem privileged_of_images {e : Env} {im : Image} (hmem : im ∈ e.c.images) (hhere : im.holds e.iss.pc.toNat = true)
    (hall : ∀ x ∈ e.c.images, x.holds e.iss.pc.toNat = true → x.privileged = true) : e.privileged = true := by
  have hsome : (e.c.imageOf e.iss.pc.toNat).isSome = true := List.find?_isSome.mpr ⟨im, hmem, hhere⟩
  obtain ⟨found, hfound⟩ := Option.isSome_iff_exists.mp hsome
  obtain ⟨hin, hholds⟩ := imageOf_some hfound
  exact privileged_iff.mpr ⟨found, hfound, hall found hin hholds⟩

/-- R161: outside privileged code the privileged words are protection faults. -/
theorem unprivileged_faults {s : State} {e : Env} (he : s.env = some e) (hp : e.privileged = false) {g : BitVec 3} {d a : BitVec 7} {l : BitVec 4} {i : Instr}
    (hi : i ∈ [Instr.ssetFflags g a, .ssetFrnd g a, .tlbinv g a, .tlbinvCtx g] ∨ (i = .ssetFtrap g a ∧ e.g.isHandler = false) ∨
      (i = .stopr g d a l ∧ e.l.det = false)) : Faults i s e (.word 0x06 0) := by
  have hpriv := privilege_error hp
  obtain hi | ⟨rfl, hh⟩ | ⟨rfl, hdet⟩ := hi
  · simp only [List.mem_cons, List.not_mem_nil, or_false] at hi
    obtain rfl | rfl | rfl | rfl := hi <;> exact inWord_error he (by rw [hpriv])
  · exact inWord_error he (by rw [hpriv, hh]; rfl)
  · exact inWord_error he (by rw [hpriv, hdet]; rfl)

/-- Settles O17: the fault of each word, which changes no memory and no lane. -/
theorem privilegedWords : Obligations.PrivilegedWords := by
  unfold Obligations.PrivilegedWords
  intro s e g d a l he
  simp only [← holds_iff]
  refine ⟨⟨exists_image_of_privileged, fun ⟨im, hmem, hhere⟩ => privileged_of_images hmem hhere⟩, fun hp i hi => ?_⟩
  have hfault := unprivileged_faults he hp hi
  exact ⟨hfault, _, hfault, takeFault_mem .., takeFault_lanes he _⟩

end Sys2Proof.Machine
end

section
/-! SUPPORT. Proofs about transfers of a whole path: BRA, CALL, CALLI, RET, and NOP (08, R143, R144, R147–R150, R152; 06, R83). -/

namespace Sys2Proof.Machine

/-! ### Uniform transfers (08, R143) -/

section Taken
variable {e : Env} {g : BitVec 3}

theorem taken_of_inactive (h : e.act g = 0) : e.taken g = .ok false := if_pos h

theorem taken_of_whole (hact : e.act g ≠ 0) (hwhole : e.act g = e.path.mask) : e.taken g = .ok true := (if_neg hact).trans (if_pos hwhole)

theorem taken_of_part (hact : e.act g ≠ 0) (hpart : e.act g ≠ e.path.mask) : e.taken g = .error .operand := (if_neg hact).trans (if_neg hpart)

end Taken

section Transfers
variable {s : State} {e : Env} (he : s.env = some e) {g : BitVec 3} {o : BitVec 22} {a : BitVec 7} {i : Instr}
  (hi : i ∈ [Instr.bra g o, .call g o, .calli g a, .ret g])
include he hi

theorem transfer_untaken (h : e.taken g = .ok false) : exec i s = .next (e.retire s) := by
  simp only [List.mem_cons, List.not_mem_nil, or_false] at hi
  obtain rfl | rfl | rfl | rfl := hi
  · exact inWord_ok he (by rw [h]; rfl)
  all_goals exact inWord_ok he (by rw [h])

theorem transfer_faults {x : Halt} (h : e.taken g = .error x) : Faults i s e x := by
  simp only [List.mem_cons, List.not_mem_nil, or_false] at hi
  obtain rfl | rfl | rfl | rfl := hi <;> exact inWord_error he (by rw [h])

end Transfers

/-- Settles O25: by whether the guard holds in no lane or in some only. -/
theorem uniformTransfers : Obligations.UniformTransfers := by
  unfold Obligations.UniformTransfers
  intro s e g o a he i hi
  refine ⟨fun hact => transfer_untaken he hi (taken_of_inactive hact), fun hact hpart => ?_⟩
  have hfault := transfer_faults he hi (taken_of_part hact hpart)
  obtain ⟨grp, hgrp, hpath, hlanes, hjr, hstack⟩ := takeFault_stands he .operand
  exact ⟨hfault, _, grp, hfault, hgrp, hpath, hlanes, hjr, hstack⟩

/-! ### A slot that goes on elsewhere: BRA, RET, NOP (08, R144, R149, R152) -/

/-- The end of a word whose slot goes on at another word: nothing else of the machine differs. -/
theorem retireTo_replaces {s : State} {e : Env} (he : s.env = some e) (pc : DWord) :
    OnlyGroup s (e.retireTo pc s) e.g.gid ∧ (e.retireTo pc s).group? e.g.gid = some (e.g.goto e.iss.slotB pc) := by
  refine ⟨⟨rfl, fun k hk => group_updGroup_other _ _ _ _ (fun _ => goto_gid ..) hk⟩, ?_⟩
  show State.group? (s.updGroup e.g.gid _) e.g.gid = _
  rw [group_updGroup _ _ _ fun _ => goto_gid .., env_group he, Option.map_some]

/-- A path that does not arrive takes only its own slot along. -/
theorem goto_eq_of_no_arrival {g : Group} {b : Bool} {pc : DWord} {q : Path} (hpath : (g.slot b).path = some q) (hmask : q.mask ≠ 0)
    (hjoin : q.join ≠ some pc) : g.goto b pc = g.setSlot b ⟨some { q with pc := pc }, Hints.empty, (g.slot b).wait, none, false⟩ := by
  have hslot : g.updSlot b (fun x => { x with path := x.path.map (fun p => { p with pc := pc }), hints := Hints.empty, redo := none, again := false }) =
      g.setSlot b ⟨some { q with pc := pc }, Hints.empty, (g.slot b).wait, none, false⟩ := by
    rw [Group.updSlot, hpath]
    rfl
  rw [Group.goto, hslot]
  exact arriveTest_of_no_arrival (congrArg Slot.path (Group.setSlot_slot ..)) hmask hjoin

/-- Settles O26: BRA by its target, its word by the bits of its row. -/
theorem braMovesThePath : Obligations.BraMovesThePath := by
  unfold Obligations.BraMovesThePath
  refine ⟨fun s e g o p he hact hwhole hpath hmask => ?_, fun w hop => decodeWf_bra hop⟩
  obtain ⟨honly, hgroup⟩ := retireTo_replaces he (e.target o)
  refine ⟨_, inWord_ok he (by rw [taken_of_whole hact hwhole]; rfl), honly, hgroup, fun hjoin => ⟨_, hgroup, ?_⟩⟩
  rw [goto_eq_of_no_arrival (pc := e.target o) hpath hmask hjoin]
  exact ⟨congrArg Slot.path (Group.setSlot_slot ..), Group.setSlot_jr .., Group.setSlot_stack .., Group.setSlot_lanes .., Group.setSlot_other ..⟩

/-- Settles O27: RET by whether its path has a join. -/
theorem retGoesToTheJoin : Obligations.RetGoesToTheJoin := by
  unfold Obligations.RetGoesToTheJoin
  intro s e g he hact hwhole
  have htaken := taken_of_whole hact hwhole
  refine ⟨fun hjoin => inWord_error he (by rw [htaken, hjoin]), fun j hjoin => ?_⟩
  exact ⟨_, inWord_ok he (by rw [htaken, hjoin]), retireTo_replaces he j⟩

theorem nop_retires {s : State} {e : Env} (he : s.env = some e) (g : BitVec 3) : exec (.nop g) s = .next (e.retire s) :=
  (exec_nop s).trans (inWord_ok he rfl)

/-- Settles O30: NOP by the end of a word that changes nothing, its word by the bits of its row. -/
theorem nopDoesNothing : Obligations.NopDoesNothing := by
  unfold Obligations.NopDoesNothing
  refine ⟨fun s e g he => ?_, decodeWf_of_encode rfl rfl, fun w hop hbits i => decodeWf_illegal_control hop hbits,
    fun w hop hrest => decodeWf_nop hop hrest⟩
  obtain ⟨honly, hgroup⟩ := retireTo_replaces he (e.iss.pc + 4)
  refine ⟨⟨_, nop_retires he g, honly, hgroup, goto_lanes_eq ..⟩, _, _, nop_retires he g, honly, hgroup, rfl, fun n _ => ?_⟩
  rw [ite_self, Group.lane, goto_lanes_eq]
  rfl

end Sys2Proof.Machine
end

section
/-! SUPPORT. Proofs about CALL and CALLI (08, R147, R148, R150; 06, R83). -/

namespace Sys2Proof.Machine

/-! ### The checks of a call target (08, R147) -/

theorem bits_eq_extractLsb' (w : Word) (lo len : Nat) : bits w.toNat lo len = (w.extractLsb' lo len).toNat := by
  rw [bits, BitVec.extractLsb'_toNat, Nat.shiftRight_eq_div_pow]

theorem opOf_eq_extractLsb' (w : Word) : opOf w = (w.extractLsb' 25 7).toNat := op_eq_extractLsb' w

/-- A word that is a function header with zero reserved bits. -/
def isHeader (w : Word) : Prop := w.extractLsb' 25 7 = 0x78 ∧ w.extractLsb' 4 21 = 0

theorem not_isHeader_iff {w : Word} : (opOf w != 0x78 || bits w.toNat 4 21 != 0) = true ↔ ¬isHeader w := by
  rw [isHeader, opOf_eq_extractLsb', bits_eq_extractLsb', Bool.or_eq_true, bne_iff_ne, bne_iff_ne, not_and_or,
    ← BitVec.toNat_inj.not, ← BitVec.toNat_inj.not]
  rfl

section Check
variable {e : Env} {s : State} {target : DWord}

theorem checkCall_of_misaligned (h : target.toNat % 4 ≠ 0) : e.checkCall s target = .error (.protection 0 target.toNat) :=
  if_pos (by rw [Bool.or_eq_true, bne_iff_ne]; exact .inr h)

/-- The target lies in no code of the kernel's image. -/
theorem checkCall_of_outside (h : ∀ im, e.c.imageOf e.k.handle = some im → im.holds target.toNat = false) :
    e.checkCall s target = .error (.protection 0 target.toNat) := by
  refine if_pos ?_
  rw [Bool.or_eq_true, Bool.not_eq_true', beq_eq_false_iff_ne]
  refine .inl fun hin => ?_
  obtain ⟨im, him, hholds⟩ := Option.map_eq_some_iff.mp hin
  rw [h im him] at hholds
  cases hholds

theorem checkCall_of_no_word (h : s.codeWord e.g.ctx e.g.core target.toNat = none) : e.checkCall s target = .error (.protection 0 target.toNat) := by
  rw [Env.checkCall, h]
  exact ite_self _

variable {im : Image} {w : Word} (him : e.c.imageOf e.k.handle = some im) (hholds : im.holds target.toNat = true) (halign : target.toNat % 4 = 0)
  (hw : s.codeWord e.g.ctx e.g.core target.toNat = some w)
include him hholds halign hw

/-- A word of the kernel's image: what remains to be asked of it. -/
theorem checkCall_of_word : e.checkCall s target =
    if opOf w != 0x78 || bits w.toNat 4 21 != 0 then .error .illegal
    else if e.k.regs < 64 * (bits w.toNat 0 4 + 1) then .error (.word 0x05 0) else .ok () := by
  have hpass : ¬(!((e.c.imageOf e.k.handle).map (fun im => im.holds target.toNat) == some true) || target.toNat % 4 != 0) = true := by
    rw [him, Option.map_some, hholds, halign]
    decide
  rw [Env.checkCall, hw]
  exact if_neg hpass

theorem checkCall_of_no_header (h : ¬isHeader w) : e.checkCall s target = .error .illegal := by
  rw [checkCall_of_word him hholds halign hw, if_pos (not_isHeader_iff.mpr h)]

theorem checkCall_of_header (h : isHeader w) : e.checkCall s target =
    if e.k.regs < 64 * ((w.extractLsb' 0 4).toNat + 1) then .error (.word 0x05 0) else .ok () := by
  rw [checkCall_of_word him hholds halign hw, if_neg fun hno => not_isHeader_iff.mp hno h, bits_eq_extractLsb']

end Check

/-! ### The frame of a call (08, R148; 06, R83) -/

section Frame
variable {e : Env}

theorem callFrame_of_joined (h : e.path.join = some (e.iss.pc + 4)) : e.callFrame = .ok e.g := if_pos (beq_iff_eq.mpr h)

theorem callFrame_of_new (h : e.path.join ≠ some (e.iss.pc + 4)) : e.callFrame =
    if 64 < e.g.stack.length + (e.g.pushes e.iss.slotB).length then .error (.word 0x04 0)
    else .ok (e.g.opened e.iss.slotB (e.iss.pc + 4) e.path.join e.path.line) :=
  (if_neg (mt beq_iff_eq.mp h)).trans (openFrame_eq ..)

theorem callFrame_gid {frame : Group} (h : e.callFrame = .ok frame) : frame.gid = e.g.gid := by
  by_cases hjoin : e.path.join = some (e.iss.pc + 4)
  · rw [callFrame_of_joined hjoin] at h
    cases h
    rfl
  · rw [callFrame_of_new hjoin] at h
    split at h
    · cases h
    · cases h
      exact Group.setSlot_gid ..

end Frame

/-! ### CALL (08, R148) -/

section Call
variable {s : State} {e : Env} (he : s.env = some e) {g : BitVec 3} (htaken : e.taken g = .ok true)
include he htaken

theorem call_faults_of_check {o : BitVec 22} {h : Halt} (hcheck : e.checkCall s (e.target o) = .error h) : Faults (.call g o) s e h :=
  inWord_error he (by rw [htaken, hcheck])

theorem call_faults_of_frame {o : BitVec 22} {h : Halt} (hcheck : e.checkCall s (e.target o) = .ok ()) (hframe : e.callFrame = .error h) :
    Faults (.call g o) s e h :=
  inWord_error he (by rw [htaken, hcheck, hframe])

theorem call_enters {o : BitVec 22} {frame : Group} (hcheck : e.checkCall s (e.target o) = .ok ()) (hframe : e.callFrame = .ok frame) :
    exec (.call g o) s = .next (e.become ((frame.setSlot e.iss.slotB
      (Slot.ofPath ⟨e.target o + 4, e.path.mask, some (e.iss.pc + 4), e.path.line⟩)).arriveTest e.iss.slotB) s) :=
  inWord_ok he (by rw [htaken, hcheck, hframe])

end Call

/-! ### CALLI (08, R150) -/

/-- The target that CALLI serves: the lowest of the lanes of its path. -/
def Env.lowestTarget (e : Env) (a : BitVec 7) : DWord :=
  ((lanesOf e.path.mask).map fun n => (e.g.lane n).dword (e.v a)).foldl (fun m t => if t.toNat < m.toNat then t else m) (BitVec.allOnes 64)

/-- The lanes of the path that name a target. -/
def Env.lanesAt (e : Env) (a : BitVec 7) (tau : DWord) : BitVec 32 :=
  maskOf ((lanesOf e.path.mask).filter fun n => (e.g.lane n).dword (e.v a) == tau)

section Calli
variable {e : Env} {a : BitVec 7} {tau : DWord} {here : BitVec 32}
  (hhere : ∀ n, here.getLsbD n = true ↔ e.path.mask.getLsbD n = true ∧ (e.g.lane n).dword (e.v a) = tau)
include hhere

theorem lanesAt_eq : e.lanesAt a tau = here := by
  refine BitVec.eq_of_getLsbD_eq fun n hn => ?_
  rw [Bool.eq_iff_iff, Env.lanesAt, getLsbD_maskOf, List.mem_filter, mem_lanesOf, beq_iff_eq, hhere, and_iff_left hn]

theorem lowestTarget_eq (hsome : here ≠ 0) (hlow : ∀ n, e.path.mask.getLsbD n = true → tau.toNat ≤ ((e.g.lane n).dword (e.v a)).toNat) :
    e.lowestTarget a = tau := by
  obtain ⟨n, hn⟩ := exists_getLsbD_of_ne_zero hsome
  obtain ⟨hmask, htau⟩ := (hhere n).mp hn
  have hmem : tau ∈ (lanesOf e.path.mask).map fun n => (e.g.lane n).dword (e.v a) := List.mem_map.mpr ⟨n, (mem_lanesOf ..).mpr hmask, htau⟩
  obtain ⟨hin, hle⟩ := foldl_least (fun t : DWord => (t.toNat : Int)) (op := fun m t => if t.toNat < m.toNat then t else m)
    (fun x y => if_congr Nat.cast_lt.symm rfl rfl) (BitVec.allOnes 64) ((lanesOf e.path.mask).map fun n => (e.g.lane n).dword (e.v a))
  change e.lowestTarget a ∈ _ at hin
  have hupper : (e.lowestTarget a).toNat ≤ tau.toNat := Int.ofNat_le.mp (hle tau (List.mem_cons_of_mem _ hmem))
  refine BitVec.eq_of_toNat_eq (le_antisymm hupper ?_)
  obtain h | h := List.mem_cons.mp hin
  · rw [h, BitVec.toNat_allOnes]
    exact Nat.le_sub_one_of_lt tau.isLt
  · obtain ⟨k, hk, hlane⟩ := List.mem_map.mp h
    rw [← hlane]
    exact hlow k ((mem_lanesOf ..).mp hk)

end Calli

/-- The group of a CALLI in its frame: the served lanes past the entry word of their target, the others at the word again, from the other slot. -/
def Env.calling (e : Env) (frame : Group) (tau : DWord) (here : BitVec 32) : Group :=
  let served := frame.setSlot e.iss.slotB (Slot.ofPath ⟨tau + 4, here, some (e.iss.pc + 4), e.path.line⟩)
  if e.path.mask &&& ~~~ here = 0 then served
  else served.setSlot (!e.iss.slotB) (Slot.ofPath ⟨e.iss.pc, e.path.mask &&& ~~~ here, some (e.iss.pc + 4), e.path.line⟩)

theorem calling_gid (e : Env) (frame : Group) (tau : DWord) (here : BitVec 32) : (e.calling frame tau here).gid = frame.gid := by
  rw [Env.calling]
  split <;> simp

section CalliExec
variable {s : State} {e : Env} (he : s.env = some e) {g : BitVec 3} (htaken : e.taken g = .ok true) {a : BitVec 7}
include he htaken

theorem calli_faults_of_frame {h : Halt} (hframe : e.callFrame = .error h) : Faults (.calli g a) s e h :=
  inWord_error he (by rw [htaken, hframe])

theorem calli_faults_of_check {frame : Group} {h : Halt} (hframe : e.callFrame = .ok frame) (hcheck : e.checkCall s (e.lowestTarget a) = .error h) :
    Faults (.calli g a) s e h := by
  rw [Env.lowestTarget] at hcheck
  exact inWord_error he (by simp only [htaken, hframe, hcheck])

theorem calli_enters {frame : Group} (hframe : e.callFrame = .ok frame) (hcheck : e.checkCall s (e.lowestTarget a) = .ok ()) :
    exec (.calli g a) s = .next (e.become ((e.calling frame (e.lowestTarget a) (e.lanesAt a (e.lowestTarget a))).arriveTest e.iss.slotB) s) := by
  rw [Env.lowestTarget] at hcheck
  exact inWord_ok he (by simp only [htaken, hframe, hcheck]; rfl)

end CalliExec

/-- Settles O29: the checks of R147 in their order, the frame by the room on the stack, CALL by its target, CALLI by the lowest target of its lanes. -/
theorem callsEnterTheirTarget : Obligations.CallsEnterTheirTarget := by
  unfold Obligations.CallsEnterTheirTarget
  refine ⟨fun s e target => ⟨checkCall_of_misaligned, checkCall_of_outside, checkCall_of_no_word, fun im w him hholds halign hw => ?checks⟩,
    fun e => ⟨callFrame_of_joined, fun hjoin hfull => ?overflow, fun hjoin hroom => ?opens⟩, fun s e g o a he hact hwhole => ?calls⟩
  case checks =>
    refine ⟨fun hno => checkCall_of_no_header him hholds halign hw (not_and_or.mpr hno), fun hop hzero => ?_⟩
    have hcheck := checkCall_of_header him hholds halign hw ⟨hop, hzero⟩
    exact ⟨fun hlarge => hcheck.trans (if_pos hlarge), fun hfits => hcheck.trans (if_neg hfits.not_gt)⟩
  case overflow => exact (callFrame_of_new hjoin).trans (if_pos hfull)
  case opens => exact (callFrame_of_new hjoin).trans (if_neg hroom.not_gt)
  case calls =>
    have htaken := taken_of_whole hact hwhole
    refine ⟨fun h => call_faults_of_check he htaken, fun h hframe => ⟨calli_faults_of_frame he htaken hframe, fun hcheck =>
      call_faults_of_frame he htaken hcheck hframe⟩, fun frame hframe => ⟨fun hcheck => ?_, fun tau here hsome hhere hlow => ?_⟩⟩
    · have hgid : ((frame.setSlot e.iss.slotB (Slot.ofPath ⟨e.target o + 4, e.path.mask, some (e.iss.pc + 4), e.path.line⟩)).arriveTest
          e.iss.slotB).gid = e.g.gid := (arriveTest_gid ..).1.trans ((Group.setSlot_gid ..).trans (callFrame_gid hframe))
      exact ⟨_, call_enters he htaken hcheck hframe, become_replaces he hgid⟩
    · have htau : e.lowestTarget a = tau := lowestTarget_eq hhere hsome hlow
      refine ⟨fun h hcheck => calli_faults_of_check he htaken hframe (htau.symm ▸ hcheck), fun hcheck => ?_⟩
      have hnext := calli_enters he htaken hframe (htau.symm ▸ hcheck)
      rw [htau, lanesAt_eq hhere] at hnext
      have hgid : ((e.calling frame tau here).arriveTest e.iss.slotB).gid = e.g.gid :=
        (arriveTest_gid ..).1.trans ((calling_gid ..).trans (callFrame_gid hframe))
      obtain ⟨honly, hgroup⟩ := become_replaces he hgid
      exact ⟨_, _, hnext, honly, hgroup, fun hrest => by rw [Env.calling, if_pos hrest], fun hrest => by rw [Env.calling, if_neg hrest]⟩

end Sys2Proof.Machine
end

section
/-! SUPPORT. Memory in its canonical form (10, R175): what an answer, an outcome and a fold must keep, and the operations that leave memory alone. -/

namespace Sys2Proof.Machine

/-! ### Answers, outcomes and folds -/

/-- Memory is in its canonical form. -/
abbrev State.Canon (s : State) : Prop := s.mem.wf = true

/-- What holds of the error or of the value that a computation answers with. -/
def Answers {ε α : Type} (E : ε → Prop) (P : α → Prop) : Except ε α → Prop
  | .error e => E e
  | .ok a => P a

/-- A computation whose errors carry no state answers with memory in its canonical form. -/
abbrev OkCanon {ε : Type} (x : Except ε State) : Prop := Answers (fun _ => True) State.Canon x

/-- The next state of an outcome, where there is one, has memory in its canonical form. -/
def NextCanon : Host.Outcome State Fault Refusal → Prop
  | .next t => t.Canon
  | _ => True

section Answers

variable {ε α β : Type} {E : ε → Prop} {P : α → Prop}

@[simp] theorem answers_ok {a : α} : Answers E P (.ok a : Except ε α) ↔ P a := Iff.rfl

theorem Answers.ok {x : Except ε α} {a : α} (h : Answers E P x) (hx : x = .ok a) : P a := by rwa [hx] at h
theorem Answers.error {x : Except ε α} {e : ε} (h : Answers E P x) (hx : x = .error e) : E e := by rwa [hx] at h

theorem answers_ite {p : Prop} [Decidable p] {x y : Except ε α} (hx : Answers E P x) (hy : Answers E P y) : Answers E P (if p then x else y) := by
  split <;> assumption

theorem foldE_answers {P : β → Prop} {f : β → α → Except ε β} (hf : ∀ b x, P b → Answers E P (f b x)) (xs : List α) {b : β} (hb : P b) :
    Answers E P (foldE f b xs) := by
  induction xs generalizing b with
  | nil => exact hb
  | cons x xs ih =>
    have hx := hf b x hb
    rw [foldE]
    split
    · next c hc => exact ih (hx.ok hc)
    · next e he => exact hx.error he

end Answers

@[simp] theorem nextCanon_next {t : State} : NextCanon (.next t) ↔ t.Canon := Iff.rfl

theorem NextCanon.next {o : Host.Outcome State Fault Refusal} {t : State} (h : NextCanon o) (ho : o = .next t) : t.Canon := by rwa [ho] at h

theorem nextCanon_ite {p : Prop} [Decidable p] {o o' : Host.Outcome State Fault Refusal} (h : NextCanon o) (h' : NextCanon o') :
    NextCanon (if p then o else o') := by split <;> assumption

/-- A word keeps memory canonical if its effect does. -/
theorem inWord_canon {s : State} {body : Env → Except Halt State} (h : s.Canon) (hb : ∀ e, OkCanon (body e)) : NextCanon (inWord s body) := by
  unfold inWord
  split
  · trivial
  · next e _ =>
    split
    · next hu => exact (hb e).ok hu
    · rwa [nextCanon_next, State.Canon, takeFault_mem]

/-- A fold keeps memory canonical if its steps do. -/
theorem foldl_canon {α : Type} {f : State → α → State} (hf : ∀ s x, s.Canon → (f s x).Canon) (xs : List α) {s : State} (h : s.Canon) :
    (xs.foldl f s).Canon := foldl_keeps (P := State.Canon) f hf xs s h

/-! ### Operations that leave memory alone -/

section Unchanged

variable (s : State) (e : Env)

@[simp] theorem resumeSlot_mem (gid : Nat) (b : Bool) (pc : DWord) : (s.resumeSlot gid b pc).mem = s.mem := rfl
@[simp] theorem openWindow_mem (la : Nat) (job : Job) : (e.openWindow la job s).mem = s.mem := rfl
@[simp] theorem deliver_mem (r : Request) (ws : List LaneWrite) : (s.deliver r ws).mem = s.mem := rfl
@[simp] theorem missed_mem (t : State) : (s.missed t).mem = s.mem := rfl
@[simp] theorem closeBatch_mem (gid n : Nat) : (s.closeBatch gid n).mem = s.mem := rfl

@[simp] theorem resumeWhere_mem (gid : Nat) (p : Slot → Bool) (pc : DWord) : (s.resumeWhere gid p pc).mem = s.mem := by
  unfold State.resumeWhere
  split
  · rfl
  · split
    · rfl
    · split <;> rfl

@[simp] theorem wake_mem (r : Request) : (s.wake r).mem = s.mem := resumeWhere_mem ..

@[simp] theorem pool_mem (ts : List LaneTrap) : (e.pool ts s).mem = s.mem := by
  unfold Env.pool
  split
  · rfl
  · split <;> rfl

theorem trapAt_canon (id : Nat) (ts : List LaneTrap) (done : State → State) (h : s.Canon) (hd : (done s).Canon) : (e.trapAt id ts done s).Canon := by
  unfold Env.trapAt
  split
  · exact hd
  · rw [State.Canon, pool_mem]; exact h

@[simp] theorem noteLeaf_mem (core : Nat) (l : Leaf) : (s.noteLeaf core l).mem = s.mem := by
  unfold State.noteLeaf
  simp only []
  split
  · rfl
  · split
    · rfl
    · split <;> rfl

@[simp] theorem noteLane_mem (lane : Nat) (l : Leaf) : (s.noteLane e lane l).mem = s.mem := by
  unfold State.noteLane
  rw [State.updGroup_mem, noteLeaf_mem]

@[simp] theorem noteTargets_mem (ts : List Target) : (e.noteTargets ts s).mem = s.mem := by
  unfold Env.noteTargets
  refine foldl_same State.mem _ (fun s t => ?_) _ _
  split
  · split
    · exact noteLane_mem ..
    · rfl
  · rfl

@[simp] theorem track_mem (t : State) (ctx launch : Nat) : (s.track t ctx launch).mem = t.mem := by
  unfold State.track
  exact foldl_same State.mem _ (fun _ _ => by rfl) _ _

@[simp] theorem awaitRelease_mem (la : Option Nat) (sc : Scope) (after : After) : (e.awaitRelease la sc after s).mem = s.mem := by
  unfold Env.awaitRelease
  cases la <;> rfl

@[simp] theorem pruneStamps_mem (l : Launch) (ctx : Nat) : (s.pruneStamps l ctx).mem = s.mem := by
  unfold State.pruneStamps
  split <;> rfl

@[simp] theorem pruneFor_mem (g : Group) (l : Launch) (ts : List Touch) : (s.pruneFor g l ts).mem = s.mem := by
  unfold State.pruneFor
  rw [foldl_same State.mem _ (fun _ _ => pruneStamps_mem ..), pruneStamps_mem]

@[simp] theorem endIntervals_mem (g : Group) : (s.endIntervals g).mem = s.mem := foldl_same State.mem _ (fun _ _ => by rfl) _ _

@[simp] theorem publish_mem (pa : Nat) (ps : List Published) : (s.publish pa ps).mem = s.mem := foldl_same State.mem _ (fun _ _ => by rfl) _ _

@[simp] theorem publishArrive_mem (va : Nat) : (s.publishArrive e va).mem = s.mem := by
  unfold State.publishArrive
  rw [publish_mem, endIntervals_mem]

@[simp] theorem openDone_mem (la : BitVec 4) : (e.openDone la s).mem = s.mem := by
  unfold Env.openDone
  split <;> rfl

@[simp] theorem mayDrop_mem (core no i : Nat) : (s.mayDrop core no i).mem = s.mem := by
  unfold State.mayDrop
  simp only []
  split <;> split <;> rfl

@[simp] theorem fillRemote_mem (die : Nat) (ls : List (Nat × List (BitVec 8))) : (s.fillRemote die ls).mem = s.mem :=
  foldl_same State.mem _ (fun _ _ => putRemote_mem ..) _ _

@[simp] theorem dropAway_mem (r : Request) : (s.dropAway r).mem = s.mem := by
  unfold State.dropAway
  split
  · rfl
  · exact foldl_same State.mem _ (fun _ _ => by rfl) _ _

@[simp] theorem reperformFails_mem (r : Request) (h : Halt) : (s.reperformFails e r h).mem = s.mem := by
  unfold State.reperformFails
  split
  · exact takeFault_mem ..
  · rfl

end Unchanged

/-- A stamped access leaves memory alone. -/
theorem stampAll_answers (s : State) (g : Group) (l : Launch) (line : List (Nat × Bool)) (write : Bool) (red : Option (AtomOp × Scope))
    (sk : Option Nat) (ts : List Touch) : Answers (fun _ => True) (fun t => t.mem = s.mem) (s.stampAll g l line write red sk ts) := by
  unfold State.stampAll
  simp only []
  split
  · trivial
  · refine foldE_answers (fun u t hu => ?_) _ (pruneFor_mem ..)
    split
    · exact hu
    · split
      · exact hu
      · split
        · trivial
        · exact hu

theorem stamp_mem {e : Env} {s t : State} {write : Bool} {red : Option (AtomOp × Scope)} {sk : Option Nat} {ts : List Touch}
    (h : e.stamp s write red sk ts = .ok t) : t.mem = s.mem := by
  unfold Env.stamp at h
  split at h
  · exact (stampAll_answers ..).ok h
  · cases h; rfl

theorem stamp_canon {e : Env} {s t : State} {write : Bool} {red : Option (AtomOp × Scope)} {sk : Option Nat} {ts : List Touch}
    (h : e.stamp s write red sk ts = .ok t) (hs : s.Canon) : t.Canon := by rwa [State.Canon, stamp_mem h]

/-! ### Stash windows, releases and acquires (10, R178; 07, R117, R118) -/

theorem backEntry_canon (s : State) (g : Workgroup) (win no : Nat) (reach : Reach) (h : s.Canon) :
    Answers (fun _ => True) (fun a => a.1.Canon) (s.backEntry g win no reach) := by
  unfold State.backEntry
  split
  · exact h
  · split
    · exact h
    · simp only []
      split
      · trivial
      · split
        · trivial
        · split
          · exact h
          · rw [answers_ok, State.Canon, State.updWg_mem]
            split
            · exact landAny_wf _ _ _ _ _ h
            · exact putCluster_wf _ _ _ h

theorem backStashes_canon (s : State) (g : Workgroup) (win : Option Nat) (reach : Reach) (h : s.Canon) :
    Answers (fun _ => True) (fun a => a.1.Canon) (s.backStashes g win reach) := by
  unfold State.backStashes
  refine foldE_answers (fun acc k hacc => ?_) _ h
  split
  · trivial
  · next hk => exact ((backEntry_canon _ _ _ _ _ hacc).ok hk :)

theorem stashOut_canon (s : State) (g : Group) (m : BitVec 32) (reach : Reach) (h : s.Canon) : OkCanon (s.stashOut g m reach) := by
  unfold State.stashOut
  refine foldE_answers (fun t w ht => ?_) _ h
  split
  · trivial
  · next hw =>
    rw [answers_ok]
    split <;> exact (backStashes_canon _ _ _ _ ht).ok hw

theorem pushAll_canon (s : State) (g : Group) (sc : Scope) (h : s.Canon) : (s.pushAll g sc).Canon :=
  foldl_canon (fun _ _ ht => push_wf _ _ _ _ _ ht) _ h

theorem release_canon (s : State) (g : Group) (m : BitVec 32) (sc : Scope) (h : s.Canon) : OkCanon (s.release g m sc) := by
  unfold State.release
  split
  · exact h
  · exact h
  all_goals
    split
    · trivial
    · next hs => exact pushAll_canon _ _ _ ((stashOut_canon _ _ _ _ h).ok hs)

theorem acquire_canon (s : State) (g : Group) (m : BitVec 32) (sc : Scope) (h : s.Canon) : OkCanon (s.acquire g m sc) := by
  have wide : OkCanon (match s.stashOut g m .home with
      | .error a => .error a
      | .ok s => .ok (((s.wgsOf g).foldl (fun s w => s.updWg w.wid Workgroup.dropClean) s).invalidate g.core sc)) := by
    split
    · trivial
    · next hs =>
      rw [OkCanon, answers_ok, State.Canon, invalidate_mem]
      exact foldl_canon (fun _ _ ht => by exact ht) _ ((stashOut_canon _ _ _ _ h).ok hs)
  have narrow : (s.invalidate g.core sc).Canon := by rwa [State.Canon, invalidate_mem]
  cases sc with
  | grp => exact narrow
  | wg => exact narrow
  | clu => exact narrow
  | dev => exact wide
  | sys => exact wide

theorem acquireE_canon (s : State) (g : Group) (m : BitVec 32) (sc : Scope) (h : s.Canon) : OkCanon (s.acquireE g m sc) := by
  unfold State.acquireE
  split
  · next ht => exact (acquire_canon _ _ _ _ h).ok ht
  · trivial

end Sys2Proof.Machine
end

section
/-! SUPPORT. Loads, stores, atomics and constant and tile reads keep memory in its canonical form (10, R175; 11, R197–R202). -/

namespace Sys2Proof.Machine

/-! ### Reads on the D path -/

theorem readingStep_canon (g : Group) (policy : BitVec 2) (dest width : Nat) (r : Reading) (a : Access) (h : r.s.Canon) :
    (r.step g policy dest width a).s.Canon := by
  have hs : (((linesOf a.pa a.bytes.length).foldl (fun s no => s.mayDrop g.core no a.lane) r.s).allocate g.core a.pa a.bytes.length policy a.hot).Canon :=
    allocate_wf _ _ _ _ _ _ (foldl_canon (fun t _ ht => by rwa [State.Canon, mayDrop_mem]) _ h)
  unfold Reading.step
  simp only []
  split <;> split <;> exact hs

theorem performLoad_canon (s : State) (g : Group) (policy : BitVec 2) (zeros : List LaneWrite) (reads : List Access) (dest width : Nat) (h : s.Canon) :
    Answers (fun _ => True) (fun r => r.s.Canon) (s.performLoad g policy zeros reads dest width) := by
  unfold State.performLoad
  simp only []
  split
  · trivial
  · exact List.foldlRecOn (motive := fun r : Reading => r.s.Canon) _ _ h fun r hr a _ => readingStep_canon _ _ _ _ _ _ hr

theorem sendLoad_canon (e : Env) (la : BitVec 4) (act : BitVec 32) (r : Reading) (acq : Option Scope) (h : r.s.Canon) :
    OkCanon (e.sendLoad la act r acq) := by
  unfold Env.sendLoad
  split
  · exact h
  · split
    · split
      · trivial
      · next ht =>
        rw [OkCanon, answers_ok, State.Canon, launchLong_mem, sends_mem]
        exact (acquireE_canon _ _ _ _ h).ok ht
    · exact h

theorem loadGlobal_canon (width : Nat) (g : BitVec 3) (t a : BitVec 7) (la : BitVec 4) (sc o : BitVec 2) (s : State) (h : s.Canon) :
    NextCanon (loadGlobal width g t a la sc o s) := by
  refine inWord_canon h fun e => ?_
  split
  · trivial
  · simp only []
    split
    · trivial
    · split
      · exact h
      · split
        · trivial
        · next hstamp =>
          have hs := stamp_canon hstamp (by rwa [State.Canon, noteTargets_mem])
          split
          · rw [OkCanon, answers_ok, State.Canon, awaitRelease_mem]
            exact hs
          · split
            · trivial
            · next hload => exact sendLoad_canon _ _ _ _ _ ((performLoad_canon _ _ _ _ _ _ _ (by exact hs)).ok hload)

/-! ### Stores (11, R199) -/

theorem performStores_canon (s : State) (g : Group) (policy : BitVec 2) (as : List Access) (h : s.Canon) : (s.performStores g policy as).Canon :=
  foldl_canon (fun _ _ ht => storeD_wf _ _ _ _ _ _ _ _ _ ht) _ h

theorem pushLines_canon (s : State) (g : Group) (sc : Scope) (as : List Access) (h : s.Canon) : (s.pushLines g sc as).Canon :=
  foldl_canon (fun _ _ ht => expose_wf _ _ _ _ _ _ ht) _ h

theorem storeGlobal_canon (width : Nat) (g : BitVec 3) (t a : BitVec 7) (sc o : BitVec 2) (s : State) (h : s.Canon) :
    NextCanon (storeGlobal width g t a sc o s) := by
  refine inWord_canon h fun e => ?_
  split
  · trivial
  · simp only []
    split
    · trivial
    · split
      · exact h
      · split
        · trivial
        · next hstamp =>
          have hs := stamp_canon hstamp (by rwa [State.Canon, noteTargets_mem])
          split
          · rw [OkCanon, answers_ok, State.Canon, awaitRelease_mem]
            exact hs
          · rw [OkCanon, answers_ok, State.Canon, retire_mem, sends_mem]
            exact performStores_canon _ _ _ _ hs

/-! ### The Local Store (11, R198, R203) -/

theorem fillEntry_mem {s t : State} {e : Env} {lane off : Nat} {w : Workgroup} {x : Stash} (h : s.fillEntry e lane w x off = .ready t) :
    t.mem = s.mem := by
  unfold State.fillEntry at h
  simp only [] at h
  split at h
  · cases h; rfl
  · split at h
    · contradiction
    · split at h
      · contradiction
      · split at h
        · contradiction
        · cases h
          rw [State.updWg_mem, noteLane_mem]
          split
          · rfl
          · exact readHome_mem ..

theorem lsWalkStep_mem (e : Env) (deny : List Nat) (off width : Nat) (k : LsWalk) (i : Nat) : (k.step e deny off width i).s.mem = k.s.mem := by
  unfold LsWalk.step
  simp only []
  split
  · rfl
  · split
    · rfl
    · split
      · next hfill => exact fillEntry_mem hfill
      · rfl
      · rfl
      · split
        · rfl
        · split <;> rfl

@[simp] theorem lsWalk_mem (e : Env) (s : State) (deny lanes : List Nat) (off width : Nat) : (e.lsWalk s deny lanes off width).s.mem = s.mem :=
  List.foldlRecOn (motive := fun k : LsWalk => k.s.mem = s.mem) _ _ rfl fun k hk i _ => (lsWalkStep_mem e deny off width k i).trans hk

theorem loadLocal_canon (deny : List Nat) (g : BitVec 3) (t a : BitVec 7) (l : BitVec 4) (w : BitVec 2) (s : State) (h : s.Canon) :
    NextCanon (loadLocal deny g t a l w s) := by
  refine inWord_canon h fun e => ?_
  split
  · trivial
  · simp only []
    split
    · trivial
    · split
      · exact h
      · split
        · trivial
        · split
          · trivial
          · next hstamp =>
            rw [OkCanon, answers_ok, State.Canon, launchLong_mem, State.updGroup_mem]
            exact stamp_canon hstamp (by rwa [State.Canon, lsWalk_mem])

theorem execStL_canon (g : BitVec 3) (t a : BitVec 7) (w : BitVec 2) (s : State) (h : s.Canon) : NextCanon (execStL g t a w s) := by
  refine inWord_canon h fun e => ?_
  split
  · trivial
  · simp only []
    split
    · trivial
    · split
      · exact h
      · split
        · trivial
        · next hstamp =>
          have hs := stamp_canon hstamp (by rwa [State.Canon, lsWalk_mem])
          rw [OkCanon, answers_ok, State.Canon, retire_mem, State.updGroup_mem, State.tick_mem]
          exact foldl_canon (fun _ _ ht => by exact ht) _ hs

theorem lsadd_canon (f32 : Bool) (g : BitVec 3) (d a : BitVec 7) (s : State) (h : s.Canon) : NextCanon (lsadd f32 g d a s) := by
  refine inWord_canon h fun e => ?_
  split
  · trivial
  · simp only []
    split
    · trivial
    · split
      · trivial
      · next hstamp => exact foldl_canon (fun _ _ ht => by exact ht) _ (stamp_canon hstamp h)

/-! ### Constants and tiles (10, R170; 11, R200) -/

theorem cacheReadByte_mem (k : Cached) (e : Env) (lane : Nat) (r : CacheRead) (va : Nat) : (CacheRead.byte k e lane r va).s.mem = r.s.mem := by
  unfold CacheRead.byte
  split
  · rfl
  · split
    · rfl
    · simp only []
      split
      · exact noteLane_mem ..
      · split
        · exact noteLane_mem ..
        · split
          · rfl
          · simp only [State.setCore_mem]
            split
            · exact noteLane_mem ..
            · rw [readHome_mem, noteLane_mem]

@[simp] theorem cacheRead_mem (s : State) (k : Cached) (e : Env) (lane va n : Nat) : (s.cacheRead k e lane va n).s.mem = s.mem :=
  List.foldlRecOn (motive := fun r : CacheRead => r.s.mem = s.mem) _ _ rfl fun r hr _ _ => (cacheReadByte_mem k e lane r _).trans hr

@[simp] theorem constRead_mem (s : State) (e : Env) (lane off n : Nat) : (s.constRead e lane off n).s.mem = s.mem := by
  refine List.foldlRecOn (motive := fun r : CacheRead => r.s.mem = s.mem) _ _ rfl fun r hr i _ => ?_
  simp only []
  split
  · split
    · exact (cacheReadByte_mem ..).trans hr
    · exact hr
  · split
    · exact hr
    · exact (cacheReadByte_mem ..).trans hr

theorem cacheWalkStep_mem {read : State → Nat → Option CacheRead} (hread : ∀ s i r, read s i = some r → r.s.mem = s.mem) (e : Env) (deny : List Nat)
    (dest width : Nat) (k : CacheWalk) (i : Nat) : (k.step e deny dest width read i).s.mem = k.s.mem := by
  unfold CacheWalk.step
  simp only []
  split
  · rfl
  · next r hr =>
    have hs := hread _ _ _ hr
    split
    · rfl
    · split
      · exact hs
      · split
        · split
          · rfl
          · split <;> rfl
        · split <;> exact hs

theorem cacheLoad_canon {read : State → Nat → Option CacheRead} (hread : ∀ s i r, read s i = some r → r.s.mem = s.mem) (e : Env) (deny : List Nat)
    (g : BitVec 3) (la : BitVec 4) (dest off width : Nat) (touched : State → Nat → List Touch) (s : State) (h : s.Canon) :
    OkCanon (e.cacheLoad deny g la dest off width read touched s) := by
  have hwalk : ((lanesOf (e.act g)).foldl (CacheWalk.step e deny dest width read) ⟨s, [], [], [], [], [], []⟩).s.mem = s.mem :=
    List.foldlRecOn (motive := fun k : CacheWalk => k.s.mem = s.mem) _ _ rfl fun k hk i _ => (cacheWalkStep_mem hread e deny dest width k i).trans hk
  unfold Env.cacheLoad
  simp only []
  split
  · trivial
  · split
    · exact h
    · split
      · trivial
      · split
        · trivial
        · next hstamp =>
          rw [OkCanon, answers_ok, State.Canon, launchLong_mem, State.updGroup_mem]
          exact stamp_canon hstamp (by rwa [State.Canon, hwalk])

theorem loadConstant_canon (deny : List Nat) (g : BitVec 3) (t a : BitVec 7) (l : BitVec 4) (w : BitVec 2) (s : State) (h : s.Canon) :
    NextCanon (loadConstant deny g t a l w s) := by
  refine inWord_canon h fun e => cacheLoad_canon (fun u i r hr => ?_) _ _ _ _ _ _ _ _ _ h
  simp only [] at hr
  split at hr
  · contradiction
  · cases hr; exact constRead_mem ..

theorem loadTile_canon (deny : List Nat) (g : BitVec 3) (t a : BitVec 7) (l : BitVec 4) (w : BitVec 2) (s : State) (h : s.Canon) :
    NextCanon (loadTile deny g t a l w s) := by
  refine inWord_canon h fun e => cacheLoad_canon (fun u i r hr => ?_) _ _ _ _ _ _ _ _ _ h
  split at hr
  · contradiction
  · cases hr; exact cacheRead_mem ..

theorem trimBuffer_canon (s : State) (core new : Nat) (h : s.Canon) : (s.trimBuffer core new).Canon := by
  unfold State.trimBuffer
  simp only []
  split
  · exact h
  · split
    · exact h
    · exact landAny_wf _ _ _ _ _ h

theorem storeT_canon (s : State) (core gid pa : Nat) (bs : List (BitVec 8)) (trk : Bool) (h : s.Canon) : (s.storeT core gid pa bs trk).Canon :=
  trimBuffer_canon _ _ _ h

theorem execStT_canon (g : BitVec 3) (t a : BitVec 7) (w : BitVec 2) (s : State) (h : s.Canon) : NextCanon (execStT g t a w s) := by
  refine inWord_canon h fun e => ?_
  simp only []
  split
  · trivial
  · split
    · trivial
    · next hstamp =>
      have hs := stamp_canon hstamp (by rwa [State.Canon, noteTargets_mem])
      rw [OkCanon, answers_ok, State.Canon, retire_mem, State.updGroup_mem, State.tick_mem]
      exact foldl_canon (fun _ _ ht => storeT_canon _ _ _ _ _ _ ht) _ hs

/-! ### The return of a load's bytes (11, R197) -/

theorem endRemoteLoad_canon (s : State) (e : Env) (r : Request) (ws : List LaneWrite) (acq : Option Scope) (h : s.Canon) :
    OkCanon (s.endRemoteLoad e r ws acq) := by
  unfold State.endRemoteLoad
  simp only []
  split
  · exact h
  · split
    · trivial
    · next ht =>
      rw [OkCanon, answers_ok, State.Canon, wake_mem, sends_mem]
      exact (acquireE_canon _ _ _ _ (by exact h)).ok ht

theorem finishRemoteLoad_canon (s : State) (e : Env) (r : Request) (ws : List LaneWrite) (ps : List RemotePart) (acq : Option Scope)
    (ls : List (Nat × List (BitVec 8))) (h : s.Canon) : OkCanon (s.finishRemoteLoad e r ws ps acq ls) :=
  endRemoteLoad_canon _ _ _ _ _ (foldl_canon (fun _ _ ht => allocate_wf _ _ _ _ _ _ ht) _ (by rwa [State.Canon, fillRemote_mem]))

theorem withDenied_canon (s : State) (e : Env) (r : Request) (lines : List Nat) (h : s.Canon) : NextCanon (s.withDenied e r lines) := by
  unfold State.withDenied
  simp only []
  split
  · exact loadConstant_canon _ _ _ _ _ _ _ h
  · exact loadTile_canon _ _ _ _ _ _ _ h
  · exact loadLocal_canon _ _ _ _ _ _ _ h
  · exact h

theorem fetchFails_canon (s : State) (e : Env) (r : Request) (refused : Bool) (lines : List Nat) (h : s.Canon) :
    NextCanon (s.fetchFails e r refused lines) := by
  unfold State.fetchFails
  simp only []
  split
  · rw [nextCanon_next, State.Canon, takeFault_mem]; exact h
  · split
    · exact h
    · split
      · split
        · exact withDenied_canon _ _ _ _ h
        · exact h
      · rw [nextCanon_next, State.Canon, engineFault_mem]; exact h

theorem privateLoad_canon {deny : List Nat} {i : Instr} {f : State → Host.Outcome State Fault Refusal} (hf : privateLoad deny i = some f) {s : State}
    (h : s.Canon) : NextCanon (f s) := by
  unfold privateLoad at hf
  split at hf
  · cases hf; exact loadLocal_canon _ _ _ _ _ _ _ h
  · cases hf; exact loadConstant_canon _ _ _ _ _ _ _ h
  · cases hf; exact loadTile_canon _ _ _ _ _ _ _ h
  · contradiction

theorem readAgain_canon (s : State) (e : Env) (r : Request) (ws : List LaneWrite) {f : State → Host.Outcome State Fault Refusal}
    (hf : ∀ u, u.Canon → NextCanon (f u)) (h : s.Canon) : (s.readAgain e r ws f).Canon := by
  unfold State.readAgain
  simp only []
  split
  · next hnext =>
    have ht := (hf _ (by exact h)).next hnext
    split
    · split
      · rw [State.Canon, reperformFails_mem]; exact h
      · split
        · exact ht
        · exact h
        · exact h
      · exact h
    · exact h
  · exact h

theorem reloaded_canon (s : State) (e : Env) (r : Request) (ws : List LaneWrite) (lines deny : List Nat) (h : s.Canon) :
    (s.reloaded e r ws lines deny).Canon := by
  unfold State.reloaded
  split
  · exact h
  · next hload =>
    obtain ⟨i, -, hi⟩ := Option.bind_eq_some_iff.mp hload
    have ht := readAgain_canon s e r ws (fun _ hu => privateLoad_canon hi hu) h
    simp only []
    split
    · exact ht
    · split
      · exact ht
      · rw [State.Canon, engineFault_mem]; exact h

theorem execLoadDataReturn_canon (id : Nat) (remote : RemoteReply) (s : State) (h : s.Canon) : NextCanon (execLoadDataReturn id remote s) := by
  have fault : ∀ (r : Request) (c a : Nat), (s.engineFault r c a).Canon := fun r c a => by rwa [State.Canon, engineFault_mem]
  have filled : ∀ die ls, (s.fillRemote die ls).Canon := fun die ls => by rwa [State.Canon, fillRemote_mem]
  have missing : ∀ (e : Env) (x : Halt) (gid n m : Nat), (e.takeFault x ((s.closeWindow gid n).dropRequest m)).Canon :=
    fun e x gid n m => by rw [State.Canon, takeFault_mem]; exact h
  unfold execLoadDataReturn
  split
  · exact h
  · split
    · exact h
    · split
      · split
        · exact fault ..
        · split
          · next ht => exact (endRemoteLoad_canon _ _ _ _ _ h).ok ht
          · exact missing ..
      · split
        · next ht => exact (finishRemoteLoad_canon _ _ _ _ _ _ _ h).ok ht
        · exact missing ..
      · exact h
    · split
      · exact fetchFails_canon _ _ _ _ _ h
      · exact fault ..
      · exact fetchFails_canon _ _ _ _ _ h
      · exact filled ..
      · exact h
    · split
      · exact reloaded_canon _ _ _ _ _ _ h
      · exact fault ..
      · exact reloaded_canon _ _ _ _ _ _ (filled ..)
      · exact h
    · exact h

/-! ### ATOM and RED (11, R201, R202) -/

theorem exposeAway_canon (s : State) (ctx core pa : Nat) (h : s.Canon) : (s.exposeAway ctx core pa).Canon := expose_wf _ _ _ _ _ _ h

theorem atomRunStep_canon (g : Group) (sc : Scope) (policy : BitVec 2) (r : AtomRun) (a : AtomAct) (h : r.s.Canon) :
    (r.step g sc policy a).s.Canon := by
  unfold AtomRun.step
  split
  · exact exposeAway_canon _ _ _ _ h
  · exact atomStep_wf _ _ _ _ _ _ _ h

theorem performAtoms_canon (s : State) (g : Group) (sc : Scope) (policy : BitVec 2) (as : List AtomAct) (h : s.Canon) :
    (s.performAtoms g sc policy as).s.Canon :=
  List.foldlRecOn (motive := fun r : AtomRun => r.s.Canon) _ _ h fun _ hr _ _ => atomRunStep_canon _ _ _ _ _ hr

theorem performAtom_canon (e : Env) (dest : Nat) (zeros : List Nat) (acts : List AtomAct) (sc : Scope) (acq : Bool) (act : BitVec 32) (s : State)
    (h : s.Canon) : Answers (fun _ => True) (fun a => a.1.Canon) (e.performAtom dest zeros acts sc acq act s) := by
  have hr := performAtoms_canon s e.g sc e.policy acts h
  unfold Env.performAtom
  simp only []
  split
  · trivial
  · split
    · exact hr
    · split
      · trivial
      · next ht => exact (acquireE_canon _ _ _ _ hr).ok ht

theorem atomic_canon (op : AtomOp) (g : BitVec 3) (t a : BitVec 6) (la : BitVec 4) (scf o : BitVec 2) (s : State) (h : s.Canon) :
    NextCanon (atomic op g t a la scf o s) := by
  refine inWord_canon h fun e => ?_
  split
  · trivial
  · simp only []
    split
    · trivial
    · split
      · exact h
      · have hs : ∀ ts f, ((e.noteTargets ts s).updGroup e.g.gid f).Canon := fun ts f => by
          rwa [State.Canon, State.updGroup_mem, noteTargets_mem]
        split
        · rw [OkCanon, answers_ok, State.Canon, awaitRelease_mem]; exact hs ..
        · split
          · rw [OkCanon, answers_ok, State.Canon, awaitRelease_mem]; exact hs ..
          · split
            · trivial
            · next hatom => exact ((performAtom_canon _ _ _ _ _ _ _ _ (hs ..)).ok hatom :)

theorem performRed_canon (e : Env) (acts : List AtomAct) (sc : Scope) (s : State) (h : s.Canon) : (e.performRed acts sc s).Canon := by
  unfold Env.performRed
  simp only []
  split <;> exact performAtoms_canon _ _ _ _ _ h

theorem reduce_canon (op : AtomOp) (g : BitVec 3) (t a : BitVec 6) (scf o : BitVec 2) (s : State) (h : s.Canon) : NextCanon (reduce op g t a scf o s) := by
  refine inWord_canon h fun e => ?_
  split
  · trivial
  · simp only []
    split
    · trivial
    · split
      · exact h
      · split
        · trivial
        · next hstamp =>
          have hs := stamp_canon hstamp (by rwa [State.Canon, noteTargets_mem])
          split
          · rw [OkCanon, answers_ok, State.Canon, awaitRelease_mem]; exact hs
          · split
            · rw [OkCanon, answers_ok, State.Canon, awaitRelease_mem]; exact hs
            · exact performRed_canon _ _ _ _ hs

theorem execAtomResultReturn_canon (id : Nat) (remote : RemoteReply) (s : State) (h : s.Canon) : NextCanon (execAtomResultReturn id remote s) := by
  have fault : ∀ (r : Request) (c a : Nat), (s.engineFault r c a).Canon := fun r c a => by rwa [State.Canon, engineFault_mem]
  have away : ∀ r, (s.dropAway r).Canon := fun r => by rwa [State.Canon, dropAway_mem]
  have given : ∀ r q ws, ((s.dropAway r).deliver q ws).Canon := fun r q ws => by rwa [State.Canon, deliver_mem, dropAway_mem]
  have dropped : ∀ r n, ((s.dropAway r).dropRequest n).Canon := fun r n => by rwa [State.Canon, State.dropRequest_mem, dropAway_mem]
  have woken : ∀ (e : Env) (r : Request) (t u : State), u.Canon → ((e.sends t u).wake r).Canon := fun e r t u hu => by
    rwa [State.Canon, wake_mem, sends_mem]
  unfold execAtomResultReturn
  split
  · exact h
  · split
    · split
      · exact h
      · split
        · exact h
        · exact fault ..
        · split
          · exact h
          · simp only []
            split
            · split
              · next hu => exact woken _ _ _ _ ((acquireE_canon _ _ _ _ (given ..)).ok hu)
              · exact fault ..
            · exact given ..
    · split
      · exact h
      · exact fault ..
      · simp only []
        split
        · split
          · next hu => exact woken _ _ _ _ ((acquireE_canon _ _ _ _ (dropped ..)).ok hu)
          · exact fault ..
        · rw [nextCanon_next, State.Canon, wake_mem]; exact dropped ..
    · split
      · exact h
      · exact fault ..
      · exact dropped ..
    · exact h

end Sys2Proof.Machine
end

section
/-! SUPPORT. Words on registers, predicates, accumulators and paths leave memory alone, and so does what they deliver (08; 13; 15). -/

namespace Sys2Proof.Machine

/-! ### Integer, logic and cross-lane words (08, R133–R162) -/

section Words

variable {s : State} (h : s.Canon)
include h

theorem binary_canon (g : BitVec 3) (d a b : BitVec 7) (x : BitVec 1) (f : Word → Word → Word) : NextCanon (binary g d a b x f s) := by
  refine inWord_canon h fun e => ?_
  split
  · trivial
  · exact h

theorem binaryAcc_canon (g : BitVec 3) (d a b : BitVec 7) (x : BitVec 1) (f : Word → Word → Word → Word) : NextCanon (binaryAcc g d a b x f s) := by
  refine inWord_canon h fun e => ?_
  split
  · trivial
  · exact h

theorem binaryI_canon (g : BitVec 3) (d a : BitVec 7) (i : BitVec 8) (f : Word → Word → Word) : NextCanon (binaryI g d a i f s) :=
  inWord_canon h fun _ => h

theorem variant_canon (g : BitVec 3) (d a b : BitVec 7) (f : Word → Word → Word) : NextCanon (variant g d a b f s) := inWord_canon h fun _ => h

theorem unary_canon (g : BitVec 3) (d a : BitVec 7) (f : Word → Word) : NextCanon (unary g d a f s) := inWord_canon h fun _ => h

theorem execIadd64_canon (g : BitVec 3) (d a b : BitVec 7) (x : BitVec 1) : NextCanon (execIadd64 g d a b x s) := by
  refine inWord_canon h fun e => ?_
  simp only []
  split
  · split
    · exact h
    · trivial
  · exact h

theorem execImadw_canon (g : BitVec 3) (d a b : BitVec 7) (sg : BitVec 1) : NextCanon (execImadw g d a b sg s) := inWord_canon h fun _ => h

theorem lea_canon (g : BitVec 3) (d a b : BitVec 7) (k : Nat) : NextCanon (lea g d a b k s) := inWord_canon h fun _ => h

theorem execMovi_canon (g : BitVec 3) (d : BitVec 7) (i : BitVec 8) : NextCanon (execMovi g d i s) := inWord_canon h fun _ => h

theorem execLut3_canon (g : BitVec 3) (d a b : BitVec 7) : NextCanon (execLut3 g d a b s) := by
  refine inWord_canon h fun e => ?_
  split
  · trivial
  · exact h

theorem crossLane_canon (g : BitVec 3) (srcs : Env → List Nat) (put : Env → Nat → Lane → Lane) : NextCanon (crossLane g srcs put s) := by
  refine inWord_canon h fun e => ?_
  split
  · trivial
  · split
    · trivial
    · exact h

theorem execSmov_canon (g : BitVec 3) (d m : BitVec 7) : NextCanon (execSmov g d m s) := by
  refine inWord_canon h fun e => ?_
  split
  · trivial
  · split
    · trivial
    · split
      · trivial
      · exact h

theorem execSsetFflags_canon (g : BitVec 3) (a : BitVec 7) : NextCanon (execSsetFflags g a s) := by
  refine inWord_canon h fun e => ?_
  split
  · trivial
  · exact h

theorem ssetGroup_canon (g : BitVec 3) (a : BitVec 7) (check : Env → Word → Bool) (put : Word → Group → Group) :
    NextCanon (ssetGroup g a check put s) := by
  refine inWord_canon h fun e => ?_
  split
  · trivial
  · split
    · trivial
    · exact h
    · split
      · exact h
      · trivial

theorem execSsetFtrap_canon (g : BitVec 3) (a : BitVec 7) : NextCanon (execSsetFtrap g a s) := by
  refine inWord_canon h fun e => ?_
  split
  · trivial
  · split
    · trivial
    · split
      · trivial
      · exact h
      · exact h

/-! ### Control flow within a group (08, R143–R152) -/

theorem execBra_canon (g : BitVec 3) (i : BitVec 22) : NextCanon (execBra g i s) := by
  refine inWord_canon h fun e => ?_
  split
  · trivial
  · rw [OkCanon, answers_ok]
    split <;> exact h

theorem execBrd_canon (g : BitVec 3) (t j : BitVec 11) : NextCanon (execBrd g t j s) := by
  refine inWord_canon h fun e => ?_
  simp only []
  split
  · exact h
  · split
    · exact h
    · split
      · trivial
      · exact h

theorem execCall_canon (g : BitVec 3) (i : BitVec 22) : NextCanon (execCall g i s) := by
  refine inWord_canon h fun e => ?_
  split
  · trivial
  · exact h
  · split
    · trivial
    · trivial
    · exact h

theorem execCalli_canon (g : BitVec 3) (a : BitVec 7) : NextCanon (execCalli g a s) := by
  refine inWord_canon h fun e => ?_
  split
  · trivial
  · exact h
  · simp only []
    split
    · trivial
    · trivial
    · exact h

theorem execRet_canon (g : BitVec 3) : NextCanon (execRet g s) := by
  refine inWord_canon h fun e => ?_
  split
  · trivial
  · exact h
  · split
    · trivial
    · exact h

theorem execNop_canon (g : BitVec 3) : NextCanon (execNop g s) := inWord_canon h fun _ => h

end Words

/-! ### Floating-point words (13; 15, R270–R281) -/

@[simp] theorem finishFp_mem (e : Env) (g : BitVec 3) (k : Option Delivered) (rs : List FpLane) (s : State) : (e.finishFp g k rs s).mem = s.mem := by
  unfold Env.finishFp
  rw [trapOr_mem _ _ _ _ _ _ (retire_mem ..), State.updGroup_mem]

@[simp] theorem sendRows_mem (e : Env) (g : BitVec 3) (eff : BitVec 32) (la : BitVec 4) (k : Option Delivered) (rs : List RowOut)
    (job : List LaneWrite → List (Nat × Nat × BitVec 16) → List (Nat × BitVec 7) → Job) (s : State) : (e.sendRows g eff la k rs job s).mem = s.mem := by
  unfold Env.sendRows
  rw [trapOr_mem _ _ _ _ _ _ (retire_mem ..), openWindow_mem]

@[simp] theorem deliverFlags_mem (s : State) (r : Request) (ws : List LaneWrite) (fs : List (Nat × BitVec 7)) : (s.deliverFlags r ws fs).mem = s.mem := rfl

@[simp] theorem deliverRows_mem (s : State) (r : Request) (ws : List LaneWrite) (es : List (Nat × Nat × BitVec 16)) (fs : List (Nat × BitVec 7)) :
    (s.deliverRows r ws es fs).mem = s.mem := by
  unfold State.deliverRows
  rw [State.updGroup_mem, deliverFlags_mem]

theorem deliverRows_canon {s : State} (h : s.Canon) (r : Request) (ws : List LaneWrite) (es : List (Nat × Nat × BitVec 16)) (fs : List (Nat × BitVec 7)) :
    (s.deliverRows r ws es fs).Canon := by rwa [State.Canon, deliverRows_mem]

theorem finishFp_canon {s : State} (h : s.Canon) (e : Env) (g : BitVec 3) (k : Option Delivered) (rs : List FpLane) : (e.finishFp g k rs s).Canon := by
  rwa [State.Canon, finishFp_mem]

theorem sendRows_canon {s : State} (h : s.Canon) (e : Env) (g : BitVec 3) (eff : BitVec 32) (la : BitVec 4) (k : Option Delivered) (rs : List RowOut)
    (job : List LaneWrite → List (Nat × Nat × BitVec 16) → List (Nat × BitVec 7) → Job) : (e.sendRows g eff la k rs job s).Canon := by
  rwa [State.Canon, sendRows_mem]

section FpWords

variable {s : State} (h : s.Canon)
include h

theorem fpWord_canon (f : Fmt) (g : BitVec 3) (d : BitVec 7) (op : Env → Lane → FRes) : NextCanon (fpWord f g d op s) :=
  inWord_canon h fun _ => finishFp_canon h ..

theorem fp32Or16_canon (g : BitVec 3) (d a b : BitVec 7) (x : BitVec 1) (op : Fmt → Env → Nat → Nat → Nat → FRes) : NextCanon (fp32Or16 g d a b x op s) :=
  fpWord_canon h ..

theorem fp64Word_canon (g : BitVec 3) (d a b : BitVec 7) (op : Fmt → Env → Nat → Nat → Nat → FRes) : NextCanon (fp64Word g d a b op s) :=
  fpWord_canon h ..

theorem execFscale_canon (g : BitVec 3) (d a b : BitVec 7) (x : BitVec 1) : NextCanon (execFscale g d a b x s) := by
  unfold execFscale
  split <;> exact fpWord_canon h ..

theorem fcmpWord_canon (f : Fmt) (g : BitVec 3) (p c : BitVec 4) (a b : BitVec 7) : NextCanon (fcmpWord f g p c a b s) :=
  inWord_canon h fun _ => finishFp_canon h ..

theorem execFjoin_canon (g : BitVec 3) (d a : BitVec 7) : NextCanon (execFjoin g d a s) := by
  refine inWord_canon h fun e => ?_
  split
  · trivial
  · exact finishFp_canon h ..

theorem execFsplitRow_canon (g : BitVec 3) (d a : BitVec 7) (n : BitVec 4) : NextCanon (execFsplitRow g d a n s) := by
  refine inWord_canon h fun e => ?_
  simp only []
  split
  · split
    · trivial
    · exact finishFp_canon h ..
  · exact finishFp_canon h ..

theorem execFsplitCol_canon (g : BitVec 3) (d a : BitVec 7) (n : BitVec 4) : NextCanon (execFsplitCol g d a n s) :=
  inWord_canon h fun _ => finishFp_canon h ..

theorem longWord_canon (f : Fmt) (g : BitVec 3) (d : BitVec 7) (la : BitVec 4) (op : Env → Lane → FRes) : NextCanon (longWord f g d la op s) := by
  refine inWord_canon h fun e => ?_
  rwa [OkCanon, answers_ok, State.Canon, trapOr_mem _ _ _ _ _ _ (retire_mem ..), openWindow_mem]

theorem execFpLongOpComplete_canon (id : Nat) : NextCanon (execFpLongOpComplete id s) := by
  unfold execFpLongOpComplete
  split
  · exact h
  · split <;> exact h

theorem execFcvt_canon (g : BitVec 3) (d a : BitVec 7) (p t : BitVec 3) (n x : BitVec 1) : NextCanon (execFcvt g d a p t n x s) := by
  refine inWord_canon h fun e => ?_
  simp only []
  split
  · exact finishFp_canon h ..
  · split
    · split
      · split
        · trivial
        · exact finishFp_canon h ..
      · exact finishFp_canon h ..
    · split
      · exact finishFp_canon h ..
      · exact finishFp_canon h ..

/-! ### Matrix words on registers (15, R282–R286, R293–R295) -/

theorem execMma_canon (g : BitVec 3) (t : BitVec 4) (c : BitVec 3) (a : BitVec 7) (l f : BitVec 4) : NextCanon (execMma g t c a l f s) := by
  refine inWord_canon h fun e => ?_
  split
  · trivial
  · exact h
  · trivial
  · exact h
  · simp only []
    split
    · trivial
    · exact sendRows_canon h ..

theorem execMmaComplete_canon (id : Nat) : NextCanon (execMmaComplete id s) := by
  unfold execMmaComplete
  split
  · exact h
  · split
    · rw [nextCanon_next]
      split
      · exact h
      · exact deliverRows_canon h ..
    · exact h

theorem execMacc_canon (g : BitVec 3) (d p q : BitVec 3) (l f : BitVec 4) : NextCanon (execMacc g d p q l f s) :=
  inWord_canon h fun _ => sendRows_canon h ..

theorem execMzero_canon (g d : BitVec 3) (l : BitVec 4) : NextCanon (execMzero g d l s) := inWord_canon h fun _ => sendRows_canon h ..

theorem execMquant_canon (g : BitVec 3) (d : BitVec 4) (a : BitVec 3) (l f : BitVec 4) : NextCanon (execMquant g d a l f s) := by
  refine inWord_canon h fun e => ?_
  simp only []
  split
  · split
    · trivial
    · split
      · split
        · trivial
        · exact sendRows_canon h ..
      · exact sendRows_canon h ..
  · exact sendRows_canon h ..

theorem execMaccMzeroMquantComplete_canon (id : Nat) : NextCanon (execMaccMzeroMquantComplete id s) := by
  unfold execMaccMzeroMquantComplete
  split
  · exact h
  · split
    · exact deliverRows_canon h ..
    · exact h

end FpWords

end Sys2Proof.Machine
end

section
/-! SUPPORT. What engines reach, and the end of groups and barriers, keep memory in its canonical form (06, R81; 10, R175–R191; 11, R204–R217). -/

namespace Sys2Proof.Machine

/-- What a property keeps of a pair that a fold goes on with, the fold keeps. -/
theorem foldl_canon_fst {α β : Type} {f : State × β → α → State × β} (hf : ∀ k x, k.1.Canon → (f k x).1.Canon) (xs : List α) {k : State × β}
    (h : k.1.Canon) : (xs.foldl f k).1.Canon :=
  List.foldlRecOn (motive := fun k : State × β => k.1.Canon) xs f h fun k hk x _ => hf k x hk

/-! ### What an engine reaches (10, R171, R181) -/

/-- An access leaves memory canonical, whether it may go on or not. -/
theorem engineAccess_canon (s : State) (u : Option StopUnit) (ctx va : Nat) (n : Need) (h : s.Canon) :
    Answers State.Canon (fun a => a.1.Canon) (s.engineAccess u ctx va n) := by
  cases hx : s.engineAccess u ctx va n with
  | error t => exact engineAccess_error_wf hx h
  | ok a => exact engineAccess_wf (t := a.1) (l := a.2) hx h

theorem engineRange_canon (s : State) (u : StopUnit) (die ctx va n : Nat) (need : Need) (h : s.Canon) :
    Answers (fun a => a.1.Canon) (fun a => a.1.Canon) (s.engineRange u die ctx va n need) := by
  unfold State.engineRange
  refine foldE_answers (fun k p hk => ?_) _ h
  split
  · next ht => exact (engineAccess_canon _ _ _ _ _ hk).error ht
  · next ht =>
    have hs := (engineAccess_canon _ _ _ _ _ hk).ok ht
    split
    · exact hs
    · rw [answers_ok]
      split
      · rw [State.Canon, readLines_mem]; exact hs
      · exact hs

theorem engineLand_canon (s : State) (ctx : Nat) (pas : List (Nat × Bool)) (bs : List (BitVec 8 × Bool)) (h : s.Canon) :
    (s.engineLand ctx pas bs).Canon := land_wf _ _ _ _ h

theorem signalVa_canon (s : State) (ctx : Nat) (source : Nat × Nat) (va : Nat) (h : s.Canon) :
    Answers State.Canon State.Canon (s.signalVa ctx source va) := by
  unfold State.signalVa
  split
  · next ht => exact (engineAccess_canon _ _ _ _ _ h).error ht
  · next ht => exact signal_wf _ _ _ _ _ ((engineAccess_canon _ _ _ _ _ h).ok ht)

/-! ### The end of groups and workgroups, and barriers (06, R81; 11, R213, R214) -/

@[simp] theorem endJoints_mem (s : State) (g : Group) (wid : Nat) : (s.endJoints g wid).mem = s.mem := by
  unfold State.endJoints
  refine foldl_same State.mem _ (fun t j => ?_) _ _
  split
  · exact engineFault_mem ..
  · rfl

theorem endGroup_canon (s : State) (g : Group) (h : s.Canon) : OkCanon (s.endGroup g) := by
  unfold State.endGroup
  split
  · exact h
  · cases s.wgOf g with
    | none => exact h
    | some w =>
      have hs : ∀ rs, (({ s with requests := rs } : State).endJoints g w.wid).Canon := fun rs => by rw [State.Canon, endJoints_mem]; exact h
      simp only []
      split
      · exact hs _
      · split
        · trivial
        · next ht =>
          rw [OkCanon, answers_ok, State.Canon, State.updWg_mem, track_mem]
          exact ((backStashes_canon _ _ _ _ (by exact hs _)).ok ht :)

theorem flushEnded_canon (s : State) (h : s.Canon) : s.flushEnded.Canon := by
  unfold State.flushEnded
  refine foldl_canon (fun u w hu => ?_) _ h
  split
  · next ht =>
    have hs := (backStashes_canon _ _ _ _ hu).ok ht
    split
    · rw [State.Canon, track_mem]; exact hs
    · rw [State.Canon, State.updWg_mem, track_mem]; exact hs
  · exact hu

theorem settleEnds_canon (s : State) (h : s.Canon) : s.settleEnds.Canon := flushEnded_canon s h

@[simp] theorem faultAt_mem (s : State) (gid : Nat) (b : Bool) (addr : Nat) : (s.faultAt gid b addr).mem = s.mem := by
  unfold State.faultAt
  split
  · rfl
  · split
    · rfl
    · exact takeFault_mem ..

theorem depart_canon (s : State) (b : Bar) (exits : Bool) (gid : Nat) (h : s.Canon) : (s.depart b exits gid).Canon := by
  have fault : ∀ gid slotB a, (s.faultAt gid slotB a).Canon := fun gid slotB a => by rwa [State.Canon, faultAt_mem]
  unfold State.depart
  simp only []
  split
  · exact h
  · split
    · exact h
    · split
      · split
        · next ht => exact (endGroup_canon _ _ h).ok ht
        · exact fault ..
      · split
        · exact h
        · split
          · next ht => exact ((acquire_canon _ _ _ _ h).ok ht :)
          · exact fault ..

@[simp] theorem barClocks_mem (s : State) (b : Bar) (gs : List Group) : (s.barClocks b gs).mem = s.mem := foldl_same State.mem _ (fun _ _ => by rfl) _ _

theorem settleBars_canon (n : Nat) (s : State) (h : s.Canon) : (State.settleBars n s).Canon := by
  induction n generalizing s with
  | zero => exact h
  | succ n ih =>
    unfold State.settleBars
    split
    · exact h
    · refine ih _ (foldl_canon (fun _ _ ht => depart_canon _ _ _ _ ht) _ ?_)
      rw [State.Canon, State.updLate_mem, barClocks_mem]
      exact h

theorem afterEnds_canon (s : State) (h : s.Canon) : s.afterEnds.Canon := settleEnds_canon _ (settleBars_canon _ _ h)

theorem endLanes_canon (e : Env) (m : BitVec 32) (s : State) (h : s.Canon) : OkCanon (e.endLanes m s) := by
  unfold Env.endLanes
  simp only []
  split
  · split
    · next ht => exact afterEnds_canon _ ((endGroup_canon _ _ (by exact h)).ok ht)
    · trivial
  · exact h

theorem exit_canon (e : Env) (m : BitVec 32) (s : State) (h : s.Canon) : OkCanon (e.exit m s) :=
  endLanes_canon _ _ _ (foldl_canon (fun _ _ ht => by exact ht) _ h)

theorem execExit_canon (g : BitVec 3) (s : State) (h : s.Canon) : NextCanon (execExit g s) := inWord_canon h fun _ => exit_canon _ _ _ h

theorem execKill_canon (g : BitVec 3) (p : BitVec 4) (n : BitVec 1) (s : State) (h : s.Canon) : NextCanon (execKill g p n s) :=
  inWord_canon h fun _ => exit_canon _ _ _ h

/-! ### Page requests and locks (10, R180, R192) -/

theorem execPreq_canon (g : BitVec 3) (d a : BitVec 7) (s : State) (h : s.Canon) : NextCanon (execPreq g d a s) := by
  refine inWord_canon h fun e => ?_
  split
  · trivial
  · exact h
  · split
    · trivial
    · simp only []
      split
      · trivial
      · exact h

theorem execPageRequestService_canon (a : Answered) (s : State) (h : s.Canon) : NextCanon (execPageRequestService a s) := by
  unfold execPageRequestService
  split
  · exact h
  · next r _ =>
    split
    · next pages ctr _ =>
      have hs : ((pages.foldl (fun s va => (s.servePage r.ctx va).1) s).setJob a.id (.preq [] ctr)).Canon :=
        foldl_canon (fun _ _ ht => servePage_wf _ _ _ ht) _ h
      simp only [nextCanon_next]
      split
      · next ht => exact withAck_wf _ _ _ _ hs (settleEnds_canon _ ((signalVa_canon _ _ _ _ hs).ok ht :))
      · next ht => rw [State.Canon, engineFault_mem]; exact (signalVa_canon _ _ _ _ hs).error ht
    · exact h

theorem execLock_canon (g : BitVec 3) (d a : BitVec 7) (l : BitVec 4) (s : State) (h : s.Canon) : NextCanon (execLock g d a l s) := by
  refine inWord_canon h fun e => ?_
  simp only []
  split
  · trivial
  · exact h

@[simp] theorem lockOne_mem (s : State) (ctx : Nat) (line : Option Nat) : (s.lockOne ctx line).1.mem = s.mem := by
  unfold State.lockOne
  split
  · rfl
  · split
    · rfl
    · split
      · rfl
      · simp only []
        split
        · rfl
        · exact putHome_mem ..

theorem execLockStatusReturn_canon (id : Nat) (s : State) (h : s.Canon) : NextCanon (execLockStatusReturn id s) := by
  unfold execLockStatusReturn
  split
  · exact h
  · split
    · refine foldl_canon_fst (fun k x hk => ?_) _ h
      rw [State.Canon, lockOne_mem]; exact hk
    · exact h

theorem execUnlock_canon (g : BitVec 3) (a : BitVec 7) (s : State) (h : s.Canon) : NextCanon (execUnlock g a s) := by
  refine inWord_canon h fun e => ?_
  simp only []
  split
  · trivial
  · exact h

/-! ### Copies (11, R204–R206; 10, R187) -/

theorem execCp_canon (g : BitVec 3) (d a : BitVec 7) (s : State) (h : s.Canon) : NextCanon (execCp g d a s) := by
  refine inWord_canon h fun e => ?_
  simp only []
  split
  · trivial
  · split
    · trivial
    · split
      · trivial
      · split
        · trivial
        · next hread =>
          split
          · trivial
          · next hwrite => exact foldl_canon (fun _ _ ht => by exact ht) _ (stamp_canon hwrite (stamp_canon hread h))

theorem copyRange_canon (s : State) (die ctx : Nat) (c : Copy) (base : Nat) (need : Need) (lo n : Nat) (h : s.Canon) :
    Answers (fun a => a.1.Canon) (fun a => a.1.Canon) (s.copyRange die ctx c base need lo n) := by
  unfold State.copyRange
  refine foldE_answers (fun k r hk => ?_) _ h
  simp only []
  split
  · next ht => exact ((engineRange_canon _ _ _ _ _ _ _ hk).error ht :)
  · next ht => exact ((engineRange_canon _ _ _ _ _ _ _ hk).ok ht :)

theorem runPart_canon (s : State) (ctx gid wid : Nat) (c : Copy) (overlap : Bool) (lo n : Nat) (h : s.Canon) :
    Answers (fun a => a.1.Canon) State.Canon (s.runPart ctx gid wid c overlap lo n) := by
  have range := fun (t : State) die base need (ht : t.Canon) => copyRange_canon t die ctx c base need lo n ht
  unfold State.runPart
  simp only []
  split
  · split
    · exact h
    · next ht _ => exact (range _ _ _ _ h).error ht
    · next ht => exact ((range _ _ _ _ h).ok ht :)
  · split
    · exact h
    · next ht _ => exact (range _ _ _ _ h).error ht
    · next ht => exact engineLand_canon _ _ _ _ ((range _ _ _ _ h).ok ht)
  · split
    · next ht => exact (range _ _ _ _ h).error ht
    · next ht =>
      have hs := (range _ _ _ _ h).ok ht
      split
      · next hu => exact (range _ _ _ _ hs).error hu
      · next hu => exact engineLand_canon _ _ _ _ ((range _ _ _ _ hs).ok hu)

theorem copyPart_canon (s : State) (r : Request) (c : Copy) (batch : Option Nat) (wid done n : Nat) (h : s.Canon) :
    (s.copyPart r c batch wid done n).Canon := by
  unfold State.copyPart
  split
  · exact h
  · split
    · exact h
    · next ht => exact ((runPart_canon _ _ _ _ _ _ _ _ h).ok ht :)

@[simp] theorem settleBatches_mem (s : State) : s.settleBatches.mem = s.mem := by
  unfold State.settleBatches
  refine foldl_same State.mem _ (fun t g => foldl_same State.mem _ (fun t b => ?_) _ _) _ _
  split
  · split <;> rfl
  · rfl

theorem execCopyComplete_canon (id : Nat) (overlap : Bool) (s : State) (h : s.Canon) : NextCanon (execCopyComplete id overlap s) := by
  unfold execCopyComplete
  split
  · exact h
  · split
    · rw [nextCanon_next]
      split
      · next ht => rw [State.Canon, engineFault_mem]; exact (runPart_canon _ _ _ _ _ _ _ _ h).error ht
      · next ht =>
        refine settleEnds_canon _ ?_
        rw [State.Canon, settleBatches_mem]
        exact ((runPart_canon _ _ _ _ _ _ _ _ h).ok ht :)
    · exact h

theorem execCpclose_canon (g : BitVec 3) (d : BitVec 7) (l : BitVec 4) (s : State) (h : s.Canon) : NextCanon (execCpclose g d l s) := by
  refine inWord_canon h fun e => ?_
  simp only []
  split
  · trivial
  · rwa [OkCanon, answers_ok, State.Canon, launchLong_mem, State.updGroup_mem, closeBatch_mem]

theorem execCpwait_canon (g : BitVec 3) (d : BitVec 7) (s : State) (h : s.Canon) : NextCanon (execCpwait g d s) := by
  refine inWord_canon h fun e => ?_
  split
  · trivial
  · exact h
  · split
    · trivial
    · split <;> exact h

/-! ### Stash windows (11, R209, R210) -/

theorem flush_canon (e : Env) (act : BitVec 32) (w : Workgroup) (win : Nat) (s : State) (h : s.Canon) : OkCanon (e.flush act w win s) := by
  unfold Env.flush
  split
  · trivial
  · next ht =>
    have hs := (backStashes_canon _ _ _ _ h).ok ht
    rw [OkCanon, answers_ok]
    split
    · rw [State.Canon, State.updGroup_mem, sends_mem]; exact hs
    · rw [State.Canon, sends_mem]; exact hs

theorem execStmap_canon (g : BitVec 3) (a : BitVec 7) (s : State) (h : s.Canon) : NextCanon (execStmap g a s) := by
  refine inWord_canon h fun e => ?_
  split
  · trivial
  · split
    · trivial
    · exact h
    · exact h
    · simp only []
      split
      · trivial
      · split
        · trivial
        · split
          · trivial
          · next ht => exact ((flush_canon _ _ _ _ _ h).ok ht :)

theorem withWindow_canon (g : BitVec 3) (a : BitVec 7) (after : Workgroup → Nat → Workgroup) (s : State) (h : s.Canon) :
    NextCanon (withWindow g a after s) := by
  refine inWord_canon h fun e => ?_
  split
  · trivial
  · split
    · trivial
    · exact h
    · exact h
    · split
      · trivial
      · split
        · trivial
        · next ht =>
          split at ht
          · exact ((flush_canon _ _ _ _ _ h).ok ht :)
          · cases ht; exact h

/-! ### Launches (06, R95–R99) -/

theorem execLaunch_canon (g : BitVec 3) (d a : BitVec 7) (l : BitVec 4) (s : State) (h : s.Canon) : NextCanon (execLaunch g d a l s) := by
  refine inWord_canon h fun e => ?_
  split
  · trivial
  · split
    · trivial
    · exact h
    · rw [OkCanon, answers_ok, State.Canon, awaitRelease_mem]; exact h

theorem readDesc_canon (s : State) (e : Env) (va : Nat) (remote : RemoteReply) (h : s.Canon) :
    Answers (fun a => a.1.Canon) (fun a => a.1.Canon) (s.readDesc e va remote) := by
  have reach : Answers State.Canon (fun a => a.1.Canon) (if va % 64 == 0 then s.engineAccess none e.g.ctx va .read else .error s) := by
    split
    · exact engineAccess_canon _ _ _ _ _ h
    · exact h
  unfold State.readDesc
  split
  · next ht => exact reach.error ht
  · next ht =>
    have hs := reach.ok ht
    extract_lets pa d
    clear_value d
    split
    · exact hs
    · split
      · exact hs
      · split <;> exact hs

theorem execLaunchAdmissionReply_canon (id : Nat) (s : State) (h : s.Canon) : NextCanon (execLaunchAdmissionReply id s) := by
  unfold execLaunchAdmissionReply
  split
  · exact h
  · split
    · split
      · exact h
      · simp only [nextCanon_next, State.Canon, deliver_mem]
        split <;> exact h
    · exact h

theorem settleDeps_canon (s : State) (h : s.Canon) : s.settleDeps.Canon := by
  unfold State.settleDeps
  refine foldl_canon (fun t x ht => ?_) _ h
  simp only []
  split
  · exact ht
  · split
    · split
      · exact ht
      · split
        · next hu => exact (engineAccess_canon _ _ _ _ _ ht).ok hu
        · next hu => exact ((engineAccess_canon _ _ _ _ _ ht).error hu :)
    · exact ht
  · exact ht

@[simp] theorem readDep_mem (s : State) (ctx launch : Nat) (remote : RemoteReply) : (s.readDep ctx launch remote).mem = s.mem := by
  unfold State.readDep
  split
  · rfl
  · split
    · rfl
    · split
      · rfl
      · split
        · rfl
        · split
          · split <;> rfl
          · rfl
          · rfl

@[simp] theorem freshCore_mem (s : State) (core : Nat) : (s.freshCore core).mem = s.mem := invalidate_mem ..

theorem placeWorkgroup_mem {s t : State} {c : Context} {l : Launch} {k : Kernel} {clu wgc : Nat} {p : CorePlace}
    (h : s.placeWorkgroup c l k clu wgc p = some t) : t.mem = s.mem := by
  unfold State.placeWorkgroup at h
  split at h
  · contradiction
  · split at h
    · contradiction
    · cases h; exact freshCore_mem ..

theorem placeAll_mem {c : Context} {l : Launch} {k : Kernel} {clu : Nat} {ps : List (Nat × CorePlace)} {s t : State}
    (h : s.placeAll c l k clu ps = some t) : t.mem = s.mem := by
  induction ps generalizing s with
  | nil => cases h; rfl
  | cons p ps ih =>
    rw [State.placeAll] at h
    split at h
    · contradiction
    · next hp => exact (ih h).trans (placeWorkgroup_mem hp)

theorem execClusterPlacement_canon (ctx launch : Nat) (place : List CorePlace) (s : State) (h : s.Canon) :
    NextCanon (execClusterPlacement ctx launch place s) := by
  unfold execClusterPlacement
  split
  · exact h
  · split
    · exact h
    · simp only []
      split
      · exact h
      · split
        · split
          · exact h
          · split
            · exact h
            · next ht => rw [nextCanon_next, State.Canon, State.updLaunch_mem, placeAll_mem ht]; exact h
        · exact h

theorem pushCores_canon (s : State) (ctx : Nat) (cores : List Nat) (h : s.Canon) : (s.pushCores ctx cores).Canon := by
  have inner := foldl_canon (fun t i ht => foldl_canon (fun u l hu => backL1_wf u i l.no hu) ((t.core i).l1.filter (fun l => l.dirty != 0)) ht) cores h
  exact foldl_canon (fun _ _ ht => foldl_canon (fun _ _ hu => backCluster_wf _ _ _ _ hu) _ ht) _ inner

theorem execLaunchCompletionSignal_canon (ctx launch : Nat) (remote : RemoteReply) (s : State) (h : s.Canon) :
    NextCanon (execLaunchCompletionSignal ctx launch remote s) := by
  have signalled : ∀ (c : Context) (n va : Nat), Answers State.Canon State.Canon
      (if n == 0 then .ok (s.pushContext c) else (s.pushContext c).signalVa ctx (ctx, launch + 1) va) := fun c n va => by
    have hp : (s.pushContext c).Canon := pushCores_canon _ _ _ h
    split
    · exact hp
    · exact signalVa_canon _ _ _ _ hp
  unfold execLaunchCompletionSignal
  split
  · exact h
  · split
    · exact h
    · simp only []
      split
      · exact h
      · split
        · next ht => exact ((signalled ..).error ht :)
        · next ht =>
          split
          · exact ((signalled ..).ok ht :)
          · exact h
          · exact h

/-! ### Fences, barriers and counters (11, R211–R217) -/

theorem execFence_canon (g : BitVec 3) (o : BitVec 2) (sc : BitVec 3) (s : State) (h : s.Canon) : NextCanon (execFence g o sc s) := by
  refine inWord_canon h fun e => ?_
  split
  · trivial
  · split
    · split
      · exact h
      · split
        · trivial
        · next ht =>
          rw [OkCanon, answers_ok, State.Canon, retire_mem, sends_mem]
          exact (acquireE_canon _ _ _ _ h).ok ht
    · rw [OkCanon, answers_ok, State.Canon, awaitRelease_mem]; exact h

theorem execPfence_canon (g : BitVec 3) (m : BitVec 4) (sc : BitVec 3) (n : BitVec 4) (s : State) (h : s.Canon) : NextCanon (execPfence g m sc n s) :=
  inWord_canon h fun _ => h

theorem pushTiles_canon (s : State) (g : Group) (h : s.Canon) : (s.pushTiles g).Canon := by
  unfold State.pushTiles
  refine foldl_canon (fun t a ht => foldl_canon (fun u no hu => ?_) _ ht) _ h
  simp only []
  split
  · exact hu
  · exact landAny_wf _ _ _ _ _ hu

theorem execPfenceComplete_canon (a : Answered) (s : State) (h : s.Canon) : NextCanon (execPfenceComplete a s) := by
  unfold execPfenceComplete
  split
  · exact h
  · next r _ =>
    have acked : ∀ t : State, t.Canon → (s.withAck r a.remote (t.wake r)).Canon := fun t ht =>
      withAck_wf _ _ _ _ h (by rw [wake_mem]; exact ht)
    split
    · extract_lets busy t pushed c old constants c' tiles
      split
      · exact h
      · have hpushed : pushed.Canon := by
          dsimp only [pushed]
          split
          · exact pushTiles_canon _ _ h
          · exact h
        have hconstants : constants.Canon := by
          dsimp only [constants]
          split <;> exact hpushed
        have htiles : tiles.Canon := by
          dsimp only [tiles]
          split <;> exact hconstants
        split
        · exact acked _ htiles
        · split
          · rw [nextCanon_next, State.Canon, takeFault_mem]; exact htiles
          · next hu =>
            have hreleased := (release_canon _ _ _ _ htiles).ok hu
            split
            · rw [nextCanon_next, State.Canon, takeFault_mem]; exact hreleased
            · next hv => exact acked _ ((acquireE_canon _ _ _ _ hreleased).ok hv)
    · exact h

theorem execBar_canon (g : BitVec 3) (k : BitVec 1) (s : State) (h : s.Canon) : NextCanon (execBar g k s) := by
  refine inWord_canon h fun e => ?_
  simp only []
  split
  · trivial
  · split
    · trivial
    · rw [OkCanon, answers_ok, State.Canon, awaitRelease_mem]; exact h

theorem arriveBar_canon (s : State) (e : Env) (cluster : Bool) (k : Nat) (role : Bool) (h : s.Canon) : OkCanon (s.arriveBar e cluster k role) := by
  unfold State.arriveBar
  simp only []
  split
  · split
    · trivial
    · exact afterEnds_canon _ h
  · exact afterEnds_canon _ h

theorem execArrive_canon (g : BitVec 3) (a : BitVec 7) (s : State) (h : s.Canon) : NextCanon (execArrive g a s) := by
  refine inWord_canon h fun e => ?_
  split
  · trivial
  · exact h
  · simp only []
    split
    · trivial
    · rw [OkCanon, answers_ok, State.Canon, awaitRelease_mem]; exact h

theorem execWaitc_canon (g : BitVec 3) (d a : BitVec 7) (s : State) (h : s.Canon) : NextCanon (execWaitc g d a s) := by
  refine inWord_canon h fun e => ?_
  split
  · trivial
  · exact h
  · simp only []
    split
    · trivial
    · exact h

theorem execWaitcSatisfied_canon (gid : Nat) (b : Bool) (remote : RemoteReply) (s : State) (h : s.Canon) :
    NextCanon (execWaitcSatisfied gid b remote s) := by
  unfold execWaitcSatisfied
  split
  · exact h
  · split
    · simp only []
      split
      · rw [nextCanon_next]
        split
        · exact h
        · split
          · rw [State.Canon, State.updGroup_mem, engineFault_mem]; exact h
          · exact h
      · split
        · rw [nextCanon_next]
          split <;> exact h
        · have acquired : ∀ (g : Group) m sc, OkCanon (if g.resident then s.acquireE g m sc else .ok s) := fun g m sc => by
            split
            · exact acquireE_canon _ _ _ _ h
            · exact h
          split
          · rw [nextCanon_next, State.Canon, takeFault_mem]; exact h
          · next hu =>
            rw [nextCanon_next, State.Canon, resumeSlot_mem]
            refine foldl_canon (fun _ _ ht => by exact ht) _ ?_
            split
            · rw [State.Canon, State.updLaunch_mem, sends_mem]; exact (acquired _ _ _).ok hu
            · rw [State.Canon, sends_mem]; exact (acquired _ _ _).ok hu
    · exact h

end Sys2Proof.Machine
end

section
/-! SUPPORT. Releases, matrix words that reach memory, and joint instances keep memory in its canonical form (07, R117; 11, R211–R214; 15, R287–R297). -/

namespace Sys2Proof.Machine

/-! ### What follows a release (07, R117) -/

theorem afterRelease_canon (s : State) (e : Env) (r : Request) (sc : Scope) (after : After) (remote : RemoteReply) (h : s.Canon) :
    OkCanon (s.afterRelease e r sc after remote) := by
  have woken : ∀ t : State, t.Canon → (t.wake r).Canon := fun t ht => by rwa [State.Canon, wake_mem]
  have acquires : ∀ (t : State) m, t.Canon → OkCanon (match t.acquireE e.g m sc with
      | .error h => .error h
      | .ok s => .ok ((s.dropRequest r.id).wake r)) := fun t m ht => by
    split
    · trivial
    · next hu => exact woken _ ((acquireE_canon _ _ _ _ ht).ok hu :)
  have described : ∀ va dest act, State.Canon (match s.readDesc e va remote with
      | .error (s, h) => e.takeFault h ((s.closeWindow r.gid r.id).dropRequest r.id)
      | .ok (s, d) => (s.setJob r.id (.launch d dest act)).wake r) := fun va dest act => by
    split
    · next hu => rw [State.Canon, takeFault_mem]; exact ((readDesc_canon _ _ _ _ h).error hu :)
    · next hu => exact woken _ ((readDesc_canon _ _ _ _ h).ok hu :)
  unfold State.afterRelease
  extract_lets m
  cases after with
  | fence acq =>
    dsimp only
    split
    · exact woken _ h
    · exact acquires _ _ h
  | store acq policy ws =>
    have hs := pushLines_canon _ e.g sc ws (performStores_canon s e.g policy ws h)
    dsimp only
    split
    · exact woken _ hs
    · exact acquires _ _ hs
  | atom dest acts zeros =>
    have hk := performAtoms_canon s e.g sc e.policy acts h
    cases dest with
    | some dest =>
      dsimp only
      split
      · trivial
      · next hu =>
        have hs := (performAtom_canon _ _ _ _ _ _ _ _ h).ok hu
        split
        · exact woken _ hs
        · exact hs
    | none =>
      dsimp only
      split
      · exact hk
      · exact acquires _ _ hk
  | atomAway dest acts zeros =>
    have hk := performAtoms_canon s e.g .sys e.policy acts h
    cases dest with
    | some dest =>
      dsimp only
      split
      · trivial
      · next hu => exact woken _ ((performAtom_canon _ _ _ _ _ _ _ _ h).ok hu)
    | none =>
      dsimp only
      rw [OkCanon, answers_ok]
      split
      · exact woken _ hk
      · exact woken _ hk
  | load policy zeros reads dest width =>
    dsimp only
    split
    · trivial
    · next hu =>
      split
      · trivial
      · next hk =>
        have hload := (performLoad_canon _ _ _ _ _ _ _ ((acquireE_canon _ _ _ _ h).ok hu)).ok hk
        split
        · exact hload
        · split
          · trivial
          · next hv => exact woken _ ((acquireE_canon _ _ _ _ hload).ok hv :)
  | arrive va =>
    dsimp only
    rw [OkCanon, answers_ok]
    split
    · next hu => rw [State.Canon, takeFault_mem]; exact ((signalVa_canon _ _ _ _ h).error hu :)
    · next hu =>
      refine woken _ ?_
      rw [State.Canon, State.dropRequest_mem, publishArrive_mem]
      exact (signalVa_canon _ _ _ _ h).ok hu
  | bar cluster k role => exact arriveBar_canon _ _ _ _ _ h
  | launch va dest act =>
    dsimp only
    rw [OkCanon, answers_ok]
    split
    · exact described va dest act
    · split
      · exact described va dest act
      · split
        · rw [State.Canon, State.setSend_mem, engineFault_mem]; exact h
        · exact h

theorem execReleaseComplete_canon (id : Nat) (remote : RemoteReply) (s : State) (h : s.Canon) : NextCanon (execReleaseComplete id remote s) := by
  unfold execReleaseComplete
  split
  · exact h
  · split
    · split
      · exact h
      · split
        · rw [nextCanon_next, State.Canon, takeFault_mem]; exact h
        · next ht =>
          have hs := (release_canon _ _ _ _ h).ok ht
          refine withAck_wf _ _ _ _ h ?_
          split
          · rw [takeFault_mem]; exact hs
          · next hu => exact (afterRelease_canon _ _ _ _ _ _ hs).ok hu
    · exact h

/-! ### Matrix words that reach memory (15, R287, R296, R297) -/

theorem readTile_canon (e : Env) (va n : Nat) (s : State) (h : s.Canon) : Answers (fun a => a.1.Canon) (fun a => a.1.Canon) (e.readTile va n s) := by
  unfold Env.readTile
  split
  · exact h
  · split
    · next ht => exact (engineAccess_canon _ _ _ _ _ h).error ht
    · next ht =>
      have hs := (engineAccess_canon _ _ _ _ _ h).ok ht
      split
      · exact hs
      · split
        · exact hs
        · next hstamp => exact stamp_canon hstamp hs

theorem execMld_canon (g : BitVec 3) (d : BitVec 3) (a : BitVec 7) (l f : BitVec 4) (s : State) (h : s.Canon) : NextCanon (execMld g d a l f s) := by
  refine inWord_canon h fun e => ?_
  split
  · trivial
  · exact h
  · trivial
  · exact h
  · split
    · next ht => rw [OkCanon, answers_ok, State.Canon, takeFault_mem]; exact (readTile_canon _ _ _ _ h).error ht
    · next ht =>
      split
      · trivial
      · simp only []
        split
        · trivial
        · next hstamp =>
          have hs := stamp_canon hstamp ((readTile_canon _ _ _ _ h).ok ht)
          rw [OkCanon, answers_ok]
          split
          · rw [State.Canon, launchLong_mem]; exact hs
          · rw [State.Canon, await_mem, openWindow_mem]; exact hs

theorem mldRows_canon (s : State) (die ctx base pitch span lo n : Nat) (got : List (List (BitVec 8 × Bool))) (h : s.Canon) :
    Answers (fun a => a.1.Canon) (fun a => a.1.Canon) (s.mldRows die ctx base pitch span lo n got) := by
  unfold State.mldRows
  refine foldE_answers (fun k r hk => ?_) _ h
  split
  · next ht => exact ((engineRange_canon _ _ _ _ _ _ _ hk).error ht :)
  · next ht => exact ((engineRange_canon _ _ _ _ _ _ _ hk).ok ht :)

theorem mldPart_canon (s : State) (r : Request) (n : Nat) (h : s.Canon) : (s.mldPart r n).Canon := by
  unfold State.mldPart
  split
  · split
    · exact h
    · next ht => exact ((mldRows_canon _ _ _ _ _ _ _ _ _ h).ok ht :)
  · exact h

theorem execMldComplete_canon (id : Nat) (s : State) (h : s.Canon) : NextCanon (execMldComplete id s) := by
  unfold execMldComplete
  split
  · exact h
  · split
    · simp only []
      split
      · next ht => rw [nextCanon_next, State.Canon, engineFault_mem]; exact (mldRows_canon _ _ _ _ _ _ _ _ _ h).error ht
      · next ht =>
        have hs := (mldRows_canon _ _ _ _ _ _ _ _ _ h).ok ht
        refine trapAt_canon _ _ _ _ _ ?_ ?_
        · rw [State.Canon, State.updGroup_mem, deliverRows_mem]; exact hs
        · rw [State.Canon, wake_mem, State.updGroup_mem, deliverRows_mem]; exact hs
    · exact h

theorem sendDrain_canon (e : Env) (g : BitVec 3) (desc elems : Nat) (d : Drained) (k : Option Delivered) (s : State) (h : s.Canon) :
    OkCanon (e.sendDrain g desc elems d k s) := by
  unfold Env.sendDrain
  simp only []
  split
  · trivial
  · next hstamp =>
    rw [OkCanon, answers_ok, State.Canon, trapOr_mem _ _ _ _ _ _ (retire_mem ..), submit_mem, State.updGroup_mem]
    exact stamp_canon hstamp h

theorem execMdrain_canon (g : BitVec 3) (d : BitVec 3) (a : BitVec 7) (f : BitVec 3) (q : BitVec 1) (s : State) (h : s.Canon) :
    NextCanon (execMdrain g d a f q s) := by
  refine inWord_canon h fun e => ?_
  split
  · trivial
  · exact h
  · trivial
  · exact h
  · split
    · next ht => rw [OkCanon, answers_ok, State.Canon, takeFault_mem]; exact (readTile_canon _ _ _ _ h).error ht
    · next ht =>
      have hs := (readTile_canon _ _ _ _ h).ok ht
      simp only []
      split
      · trivial
      · split
        · exact sendDrain_canon _ _ _ _ _ _ _ hs
        · split
          · split
            · trivial
            · exact sendDrain_canon _ _ _ _ _ _ _ hs
          · exact sendDrain_canon _ _ _ _ _ _ _ hs

theorem landRows_canon (s : State) (r : Request) (ws : List RowBytes) (h : s.Canon) : Answers (fun _ => True) State.Canon (s.landRows r ws) := by
  unfold State.landRows
  refine foldE_answers (fun t w ht => ?_) _ h
  split
  · trivial
  · next hu => exact engineLand_canon _ _ _ _ ((engineRange_canon _ _ _ _ _ _ _ ht).ok hu)

theorem drainPart_canon (s : State) (r : Request) (n : Nat) (h : s.Canon) : (s.drainPart r n).Canon := by
  unfold State.drainPart
  split
  · split
    · exact h
    · next ht => exact ((landRows_canon _ _ _ h).ok ht :)
  · exact h

theorem execMdrainWriteComplete_canon (id : Nat) (s : State) (h : s.Canon) : NextCanon (execMdrainWriteComplete id s) := by
  unfold execMdrainWriteComplete
  split
  · exact h
  · split
    · rw [nextCanon_next]
      split
      · rw [State.Canon, engineFault_mem, missed_mem]; exact h
      · next ht => exact ((landRows_canon _ _ _ h).ok ht :)
    · exact h

/-! ### Joint instances (15, R288–R292) -/

@[simp] theorem joinJoint_mem (s : State) (wid k : Nat) (mask : BitVec 8) (m : JointMember) (v : LsView) (desc : List (BitVec 8)) :
    (s.joinJoint wid k mask m v desc).mem = s.mem := by
  unfold State.joinJoint
  simp only []
  split <;> rfl

@[simp] theorem openJoint_mem (e : Env) (span : RegSpan) (job : Job) (s : State) : (e.openJoint span job s).mem = s.mem := rfl

theorem execMmaj_canon (g : BitVec 3) (b : BitVec 3) (a : BitVec 7) (f : BitVec 4) (s : State) (h : s.Canon) : NextCanon (execMmaj g b a f s) := by
  refine inWord_canon h fun e => ?_
  split
  · trivial
  · split
    · trivial
    · exact h
    · trivial
    · exact h
    · exact h
    · simp only []
      split
      · trivial
      · split
        · trivial
        · split
          · trivial
          · split
            · trivial
            · split
              · trivial
              · next hstamp =>
                rw [OkCanon, answers_ok, State.Canon, retire_mem, openJoint_mem]
                exact stamp_canon hstamp (by rwa [State.Canon, joinJoint_mem])

theorem execMmajInstanceStart_canon (id : Nat) (s : State) (h : s.Canon) : NextCanon (execMmajInstanceStart id s) := by
  unfold execMmajInstanceStart
  split
  · exact h
  · rw [nextCanon_next]
    split <;> exact h

@[simp] theorem jointMember_mem (s : State) (k : Kernel) (d : JointDesc) (ls : LsView) (mask : BitVec 8) (m : JointMember) :
    (s.jointMember k d ls mask m).1.mem = s.mem := by
  unfold State.jointMember
  split <;> rfl

@[simp] theorem leaveJoints_mem (s : State) (gid : Nat) (trapped : Bool) : (s.leaveJoints gid trapped).mem = s.mem := rfl

@[simp] theorem endMwait_mem (e : Env) (s : State) : (e.endMwait s).mem = s.mem := by
  unfold Env.endMwait
  simp only []
  split
  · rfl
  · rw [State.updGroup_mem, trapOr_mem _ _ _ _ _ _ rfl, leaveJoints_mem, State.updGroup_mem]

theorem execMwait_canon (g : BitVec 3) (s : State) (h : s.Canon) : NextCanon (execMwait g s) := by
  refine inWord_canon h fun e => ?_
  split
  · trivial
  · split
    · exact h
    · rwa [OkCanon, answers_ok, State.Canon, endMwait_mem]

@[simp] theorem settleJoints_mem (s : State) (gids : List Nat) : (s.settleJoints gids).mem = s.mem := by
  unfold State.settleJoints
  refine foldl_same State.mem _ (fun t gid => foldl_same State.mem _ (fun t b => ?_) _ _) _ _
  split
  · rfl
  · split
    · split
      · exact endMwait_mem ..
      · rfl
    · rfl

@[simp] theorem jointFault_mem (s : State) (j : Joint) (r : Request) (e : Env) : (s.jointFault j r e).mem = s.mem := by
  unfold State.jointFault
  split <;> rfl

theorem execMmajComplete_canon (id : Nat) (s : State) (h : s.Canon) : NextCanon (execMmajComplete id s) := by
  unfold execMmajComplete
  split
  · exact h
  · split
    · split
      · split
        · exact h
        · simp only []
          split
          · rwa [nextCanon_next, State.Canon, jointFault_mem]
          · rw [nextCanon_next, State.Canon, settleJoints_mem]
            refine foldl_canon_fst (fun k m hk => ?_) _ h
            rw [State.Canon, jointMember_mem]; exact hk
      · exact h
    · exact h

end Sys2Proof.Machine
end

section
/-! SUPPORT. The Thermos and the sketch engines keep memory in its canonical form (04, R50–R71; 14, R256–R269). -/

namespace Sys2Proof.Machine

/-! ### The work on a binding (04, R50–R57) -/

/-- Memory is in its canonical form in the state that the Thermos works on. -/
abbrev Work.Canon (w : Work) : Prop := w.s.Canon

section Thermos

variable {w : Work} (h : w.Canon)

theorem foldl_work_canon {α : Type} {f : Work → α → Work} (hf : ∀ w x, w.Canon → (f w x).Canon) (xs : List α) {w : Work} (h : w.Canon) :
    (xs.foldl f w).Canon := List.foldlRecOn (motive := Work.Canon) xs f h fun u hu x _ => hf u x hu

@[simp] theorem take_s (w : Work) (d : Diff) : (w.take d).s = w.s := by
  unfold Work.take
  split <;> rfl

theorem taken_canon (ds : List Diff) {w : Work} (h : w.Canon) : (ds.foldl Work.take w).Canon :=
  foldl_work_canon (fun u d hu => by rwa [Work.Canon, take_s]) ds h

include h

theorem at_canon (q : Nat) : (w.at_ q).Canon := taken_canon _ (by exact h)

theorem putC_canon (i j v : Nat) : (w.putC i j v).Canon := by
  unfold Work.putC
  simp only []
  split
  · exact h
  · rw [Work.Canon, State.Canon, landBytes_mem]
    exact wf_foldl_set _ _ _ _ h

theorem roundRow_canon (i : Nat) : (w.roundRow i).Canon := by
  unfold Work.roundRow
  refine foldl_work_canon (fun u j hu => ?_) _ h
  split
  · exact putC_canon hu ..
  · split <;> exact putC_canon hu ..

theorem roundingPass_canon : w.roundingPass.Canon := by
  unfold Work.roundingPass
  split
  · exact foldl_work_canon (fun _ i hu => roundRow_canon hu i) _ h
  · exact h

theorem scratch_canon (i j : Nat) : (w.scratch i j).Canon := by
  have marked : ∀ (bad : Bool) (k : Nat) (u : Work), u.Canon → (if bad then { u with s := { u.s with poison := insertNat u.s.poison k } } else u).Canon :=
    fun bad k u hu => by split <;> exact hu
  unfold Work.scratch
  refine marked _ _ _ ?_
  split
  · split <;> exact h
  · exact putC_canon (by exact h) ..

theorem refreshLine_canon (l : LineRef) (q : Nat) (ops : Nat → List Nat × List Nat) : (w.refreshLine l q ops).Canon :=
  foldl_work_canon (fun u c hu => scratch_canon (w := { u with a := (ops (u.b.point c.1 c.2)).1, bb := (ops (u.b.point c.1 c.2)).2 }) hu c.1 c.2) _ h

theorem refreshAt_canon (l : LineRef) (q : Nat) : (w.refreshAt l q).Canon := by
  dsimp only [Work.refreshAt, Work.Canon]
  exact refreshLine_canon h l q _

theorem refreshFrom_canon (l : LineRef) (q : Nat) : (w.refreshFrom l q).Canon := by
  unfold Work.refreshFrom
  exact refreshAt_canon (at_canon h _) ..

theorem correct_canon (i j : Nat) (x : FVal) : (w.correct i j x).Canon := by
  unfold Work.correct
  simp only []
  split
  · split <;> exact h
  · split
    · exact putC_canon (by exact h) ..
    · exact h

theorem correctAll_canon (d : Diff) (cs : List (Nat × Nat)) : (w.correctAll d cs).Canon := by
  unfold Work.correctAll
  simp only []
  split
  · refine foldl_work_canon (fun u c hu => ?_) _ h
    split
    · exact correct_canon hu ..
    · exact hu
  · exact h

theorem settleLine_canon (d : Diff) (nonfin : Bool) {refresh : Work → Work} (hr : ∀ u : Work, u.Canon → (refresh u).Canon) :
    (w.settleLine d nonfin refresh).Canon := by
  unfold Work.settleLine
  simp only []
  split
  · exact hr _ h
  · split
    · exact h
    · split
      · exact hr _ h
      · exact h

theorem apply_canon (on : Nat × Nat → Bool) (d : Diff) : (w.apply on d).Canon := by
  have ht : (w.take d).Canon := by rwa [Work.Canon, take_s]
  unfold Work.apply
  simp only []
  split
  · exact ht
  · refine settleLine_canon ?_ _ _ fun u hu => refreshAt_canon hu ..
    split
    · exact ht
    · exact correctAll_canon h ..

theorem advance_canon : w.advance.Canon := h

theorem inOrder_canon (on : Nat × Nat → Bool) (q : Nat) : (w.inOrder on q).Canon :=
  foldl_work_canon (fun _ _ hu => apply_canon hu ..) _ (by exact h)

theorem after_canon (prior : List Diff) (p : Nat) : (w.after prior p).Canon := taken_canon _ (at_canon h p)

theorem applyAfter_canon (prior : List Diff) (d : Diff) : (w.applyAfter prior d).Canon := by
  unfold Work.applyAfter
  simp only []
  split
  · exact h
  · refine settleLine_canon ?_ _ _ fun u hu => refreshLine_canon hu ..
    split
    · exact h
    · exact foldl_work_canon (fun u p hu => correctAll_canon (after_canon hu ..) ..) _ h

theorem canonically_canon (q : Nat) : (w.canonically q).Canon :=
  List.foldlRecOn (motive := fun x : Work × List Diff => x.1.Canon) _ _ h fun _ hx _ _ => applyAfter_canon hx ..

theorem settle_canon (q : Nat) (canon : Bool) : (w.settle q canon).Canon := by
  unfold Work.settle
  extract_lets due refreshed old b marked applied
  have hmarked : marked.Canon := foldl_work_canon (fun u l hu => refreshFrom_canon hu l.1 l.2) due h
  have happlied : applied.Canon := by
    dsimp only [applied]
    split
    · exact canonically_canon hmarked q
    · exact inOrder_canon hmarked ..
  dsimp only [Work.Canon]
  exact advance_canon happlied

theorem ahead_canon (on : Nat × Nat → Bool) (q : Nat) : (w.ahead on q).Canon :=
  foldl_work_canon (fun _ _ hu => apply_canon hu ..) _ (by exact h)

end Thermos

theorem work_canon {s t : State} {ctx slot : Nat} {f : Work → Work} (hf : ∀ w, w.Canon → (f w).Canon) (h : s.Canon) (ht : s.work ctx slot f = some t) :
    t.Canon := by
  unfold State.work at ht
  split at ht
  · contradiction
  · split at ht
    · contradiction
    · cases ht
      exact hf ⟨s, ctx, _, _, _⟩ h

/-! ### The words at the Thermos and its requests (04, R63–R71) -/

theorem stampBinding_canon {e : Env} {g : BitVec 3} {b : Binding} {s t : State} (ht : e.stampBinding g b s = .ok t) (h : s.Canon) : t.Canon := by
  unfold Env.stampBinding at ht
  split at ht
  · cases ht; exact h
  · split at ht
    · contradiction
    · next hu => exact stamp_canon ht (stamp_canon hu h)

theorem withHandle_canon (g : BitVec 3) (a : BitVec 7) (la : BitVec 4) (settle : Bool) {f : Env → Binding → State → Except Halt State}
    (hf : ∀ e b u, u.Canon → OkCanon (f e b u)) {s : State} (h : s.Canon) : NextCanon (withHandle g a la settle f s) := by
  refine inWord_canon h fun e => ?_
  split
  · trivial
  · rw [OkCanon, answers_ok, State.Canon, retire_mem, openDone_mem]; exact h
  · split
    · trivial
    · split
      · exact hf _ _ _ h
      · split
        · trivial
        · split
          · trivial
          · split
            · trivial
            · next hu => exact hf _ _ _ (stampBinding_canon hu h)

section ThermosWords

variable {s : State} (h : s.Canon)
include h

theorem execThermosBackgroundApply_canon (ctx slot upTo : Nat) (p : Picks) : NextCanon (execThermosBackgroundApply ctx slot upTo p s) := by
  unfold execThermosBackgroundApply
  split
  · exact h
  · split
    · exact h
    · simp only []
      split
      · exact h
      · rw [nextCanon_next]
        cases hw : s.work _ _ _ with
        | none => exact h
        | some t =>
          refine work_canon (fun w hw => ?_) h hw
          exact foldl_work_canon (fun u m hu => refreshFrom_canon hu ..) _ (ahead_canon hw ..)

theorem execPbind_canon (g : BitVec 3) (d a : BitVec 7) (l : BitVec 4) : NextCanon (execPbind g d a l s) := by
  refine inWord_canon h fun e => ?_
  split
  · trivial
  · rw [OkCanon, answers_ok, State.Canon, retire_mem, openDone_mem]; exact h
  · simp only []
    split
    · trivial
    · split
      · next ht => rw [OkCanon, answers_ok, State.Canon, takeFault_mem]; exact (engineAccess_canon _ _ _ _ _ h).error ht
      · next ht =>
        have hs := (engineAccess_canon _ _ _ _ _ h).ok ht
        split
        · trivial
        · split
          · trivial
          · next hstamp =>
            have hs := stamp_canon hstamp hs
            split
            · trivial
            · split
              · rw [OkCanon, answers_ok, State.Canon, launchLong_mem]; exact hs
              · split
                · trivial
                · next hbinding =>
                  rw [OkCanon, answers_ok, State.Canon, launchLong_mem, State.updCtx_mem]
                  exact stampBinding_canon hbinding hs

theorem execPbindComplete_canon (id : Nat) : NextCanon (execPbindComplete id s) := by
  unfold execPbindComplete
  split
  · exact h
  · split
    · simp only [nextCanon_next, State.Canon, deliver_mem]
      split
      · exact h
      · split
        · exact h
        · exact roundingPass_canon (foldl_work_canon (fun u i hu => foldl_work_canon (fun v j hv => scratch_canon hv ..) _ hu) _ h)
    · exact h

theorem execPstale_canon (g : BitVec 3) (d a : BitVec 7) (l : BitVec 4) : NextCanon (execPstale g d a l s) := by
  refine withHandle_canon _ _ _ _ (fun _ _ _ hu => ?_) h
  rwa [OkCanon, answers_ok, State.Canon, launchLong_mem]

theorem execPstat_canon (g : BitVec 3) (d a : BitVec 7) (l : BitVec 4) : NextCanon (execPstat g d a l s) := by
  refine withHandle_canon _ _ _ _ (fun _ _ _ hu => ?_) h
  rwa [OkCanon, answers_ok, State.Canon, launchLong_mem]

theorem execThermosStatusReply_canon (id : Nat) : NextCanon (execThermosStatusReply id s) := by
  unfold execThermosStatusReply
  split
  · exact h
  · split
    · split <;> exact h
    · exact h

theorem execPsettle_canon (g : BitVec 3) (a : BitVec 7) (l : BitVec 4) (sc : BitVec 3) : NextCanon (execPsettle g a l sc s) := by
  refine withHandle_canon _ _ _ _ (fun _ _ _ hu => ?_) h
  rwa [OkCanon, answers_ok, State.Canon, launchLong_mem, endIntervals_mem]

theorem execPsettleAsync_canon (g : BitVec 3) (d a : BitVec 7) (l : BitVec 4) (sc : BitVec 3) : NextCanon (execPsettleAsync g d a l sc s) := by
  refine withHandle_canon _ _ _ _ (fun _ _ _ hu => ?_) h
  split
  · trivial
  · rwa [OkCanon, answers_ok, State.Canon, retire_mem, openDone_mem]
  · split
    · trivial
    · rwa [OkCanon, answers_ok, State.Canon, retire_mem, submit_mem, openDone_mem, endIntervals_mem]

theorem execPunbind_canon (g : BitVec 3) (a : BitVec 7) (l : BitVec 4) (sc : BitVec 3) : NextCanon (execPunbind g a l sc s) := by
  refine withHandle_canon _ _ _ _ (fun _ _ _ hu => ?_) h
  rwa [OkCanon, answers_ok, State.Canon, launchLong_mem, endIntervals_mem, State.updCtx_mem]

theorem execPrefresh_canon (g : BitVec 3) (d a : BitVec 7) (l : BitVec 4) (sc : BitVec 3) : NextCanon (execPrefresh g d a l sc s) := by
  refine withHandle_canon _ _ _ _ (fun _ _ _ hu => ?_) h
  split
  · trivial
  · rwa [OkCanon, answers_ok, State.Canon, retire_mem, openDone_mem]
  · split
    · trivial
    · rwa [OkCanon, answers_ok, State.Canon, launchLong_mem, endIntervals_mem]

theorem endSettle_canon (r : Request) (sc : Scope) : (s.endSettle r sc).Canon := by
  unfold State.endSettle
  simp only []
  split
  · exact h
  · split
    · exact h
    · split
      · next ht => rw [State.Canon, sends_mem]; exact (acquire_canon _ _ _ _ (by exact h)).ok ht
      · rw [State.Canon, engineFault_mem]; exact h

theorem execPsettleComplete_canon (a : Answered) : NextCanon (execPsettleComplete a s) := by
  unfold execPsettleComplete
  split
  · exact h
  · split
    · split
      · exact h
      · next ht =>
        have hs := work_canon (fun w hw => roundingPass_canon (settle_canon hw ..)) h ht
        split
        · exact endSettle_canon hs ..
        · split
          · next hu => rw [nextCanon_next, State.Canon, engineFault_mem]; exact (signalVa_canon _ _ _ _ hs).error hu
          · next hu =>
            refine withAck_wf _ _ _ _ hs ?_
            rw [State.dropRequest_mem, publish_mem]
            exact (signalVa_canon _ _ _ _ hs).ok hu
    · exact h

theorem execPunbindComplete_canon (id : Nat) : NextCanon (execPunbindComplete id s) := by
  unfold execPunbindComplete
  split
  · exact h
  · split
    · simp only []
      split
      · exact h
      · split
        · exact h
        · next ht =>
          refine endSettle_canon (work_canon (fun w hw => ?_) h ht) ..
          exact (roundingPass_canon (settle_canon hw ..) :)
    · exact h

theorem execPrefreshComplete_canon (id : Nat) : NextCanon (execPrefreshComplete id s) := by
  unfold execPrefreshComplete
  split
  · exact h
  · split
    · split
      · exact h
      · next ht =>
        refine endSettle_canon (work_canon (fun w hw => roundingPass_canon ?_) h ht) ..
        exact foldl_work_canon (fun u l hu => refreshFrom_canon hu ..) _ (settle_canon hw ..)
    · exact h

end ThermosWords

/-! ### Sketches (14, R256–R269) -/

theorem readSketch_canon (s : State) (e : Env) (lane va : Nat) (h : s.Canon) :
    Answers (fun a => a.1.Canon) (fun a => a.1.Canon) (s.readSketch e lane va) := by
  unfold State.readSketch
  split
  · exact h
  · split
    · exact h
    · split
      · exact h
      · split
        · exact h
        · split
          · next ht => exact (engineAccess_canon _ _ _ _ _ h).error ht
          · next ht =>
            have hs := (engineAccess_canon _ _ _ _ _ h).ok ht
            extract_lets d k away
            clear_value away k d
            split
            · exact hs
            · split
              · exact hs
              · next hstamp => exact (stamp_canon hstamp hs :)

theorem skCell_canon (s : State) (ctx : Nat) (k : Sketch) (i : Nat) (n : Need) (h : s.Canon) :
    Answers (fun _ => True) (fun a => a.1.Canon) (s.skCell ctx k i n) := by
  unfold State.skCell
  simp only []
  split
  · trivial
  · next ht =>
    split
    · trivial
    · rw [answers_ok, State.Canon, readLines_mem]
      exact (engineAccess_canon _ _ _ _ _ h).ok ht

theorem skLand_canon (s : State) (ctx pa : Nat) (trk : Bool) (bs : List (BitVec 8)) (h : s.Canon) : (s.skLand ctx pa trk bs).Canon := land_wf _ _ _ _ h

theorem setSat_canon (s : State) (ctx : Nat) (k : Sketch) (v : Bool) (h : s.Canon) : (s.setSat ctx k v).Canon := by
  unfold State.setSat
  extract_lets old new
  clear_value new
  split
  · exact h
  · exact skLand_canon _ _ _ _ _ h

theorem skStep_canon (s : State) (ctx : Nat) (k : Sketch) (i : Nat) (f : Int → Int) (h : s.Canon) :
    Answers (fun _ => True) State.Canon (s.skStep ctx k i f) := by
  unfold State.skStep
  split
  · trivial
  · next ht =>
    have hs := fun trk pa bs => skLand_canon _ ctx pa trk bs ((skCell_canon _ _ _ _ _ h).ok ht)
    simp only [answers_ok]
    split
    · exact setSat_canon _ _ _ _ (hs ..)
    · exact hs ..

theorem skZero_canon (s : State) (ctx : Nat) (k : Sketch) (others : Nat → Bool) (i : Nat) (h : s.Canon) :
    Answers (fun _ => True) State.Canon (s.skZero ctx k others i) := by
  unfold State.skZero
  split
  · trivial
  · next ht =>
    have hs := fun trk pa bs => skLand_canon _ ctx pa trk bs ((skCell_canon _ _ _ _ _ h).ok ht)
    simp only []
    split
    · exact hs ..
    · rw [answers_ok]
      split
      · exact hs ..
      · dsimp only [State.Canon]
        exact hs ..

theorem skAddLane_canon (s : State) (ctx : Nat) (k : Sketch) (key : DWord) (v : Word) (h : s.Canon) :
    Answers (fun _ => True) State.Canon (s.skAddLane ctx k key v) := by
  have saturated : ∀ sat : Bool, (if sat then s.setSat ctx k true else s).Canon := fun sat => by
    split
    · exact setSat_canon _ _ _ _ h
    · exact h
  unfold State.skAddLane
  simp only []
  split
  · exact saturated _
  · exact foldE_answers (fun _ _ ht => skStep_canon _ _ _ _ _ ht) _ (saturated _)

theorem skLook_canon (s : State) (ctx : Nat) (k : Sketch) (key : DWord) (h : s.Canon) :
    Answers (fun _ => True) (fun a => a.1.Canon) (s.skLook ctx k key) := by
  unfold State.skLook
  refine foldE_answers (fun acc c hacc => ?_) _ h
  split
  · trivial
  · next ht => exact ((skCell_canon _ _ _ _ _ hacc).ok ht :)

theorem skScan_canon (s : State) (ctx : Nat) (k : Sketch) (us : List Nat) (h : s.Canon) :
    Answers (fun _ => True) (fun a => a.1.Canon) (s.skScan ctx k us) := by
  unfold State.skScan
  refine foldE_answers (fun acc c hacc => ?_) _ h
  split
  · trivial
  · next ht => exact ((skCell_canon _ _ _ _ _ hacc).ok ht :)

theorem skUnits_canon (s : State) (ctx : Nat) (k : Sketch) (op : SketchOp) (done : List (Nat × Nat)) (us : List Nat) (h : s.Canon) :
    Answers (fun _ => True) State.Canon (s.skUnits ctx k op done us) := by
  unfold State.skUnits
  split
  · exact foldE_answers (fun _ _ ht => skZero_canon _ _ _ _ _ ht) _ h
  · exact foldE_answers (fun _ _ ht => skStep_canon _ _ _ _ _ ht) _ h
  · exact foldE_answers (fun _ _ ht => skAddLane_canon _ _ _ _ _ ht) _ h
  · exact h

theorem skAnswer_canon (s : State) (g : Group) (ctx : Nat) (k : Sketch) (dest : Nat) (keys : List (Nat × DWord)) (h : s.Canon) :
    Answers (fun _ => True) (fun a => a.1.Canon) (s.skAnswer g ctx k dest keys) := by
  unfold State.skAnswer
  refine foldE_answers (fun acc x hacc => ?_) _ h
  split
  · trivial
  · next ht => exact ((skLook_canon _ _ _ _ hacc).ok ht :)

/-- What the reading of a word's sketch leaves: a state where it goes on, or one in which it faults. -/
theorem sketch_canon (e : Env) (g : BitVec 3) (a : BitVec 7) (s : State) (h : s.Canon) :
    Answers (fun a => a.1.Canon) (fun a => ∀ k ∈ a, k.1.Canon) (e.sketch g a s) := by
  unfold Env.sketch
  split
  · exact h
  · simp
  · split
    · next ht => exact (readSketch_canon _ _ _ _ h).error ht
    · next ht =>
      rw [answers_ok]
      rintro k ⟨⟩
      exact (readSketch_canon _ _ _ _ h).ok ht

section SketchWords

variable {s : State} (h : s.Canon)
include h

theorem sketch_faults {e : Env} {g : BitVec 3} {a : BitVec 7} {t : State} {x : Halt} (ht : e.sketch g a s = .error (t, x)) (y : Halt) :
    (e.takeFault y t).Canon := by
  rw [State.Canon, takeFault_mem]
  exact (sketch_canon _ _ _ _ h).error ht

theorem sketch_found {e : Env} {g : BitVec 3} {a : BitVec 7} {t : State} {k : Sketch} (ht : e.sketch g a s = .ok (some (t, k))) : t.Canon :=
  (sketch_canon _ _ _ _ h).ok ht _ rfl

theorem execSkadd_canon (g : BitVec 3) (d a : BitVec 7) : NextCanon (execSkadd g d a s) := by
  refine inWord_canon h fun e => ?_
  split
  · next ht => exact sketch_faults h ht _
  · exact h
  · next ht =>
    simp only []
    split
    · exact (sketch_found h ht :)
    · split
      · trivial
      · next hstamp => exact (stamp_canon hstamp (sketch_found h ht) :)

theorem execSkqry_canon (g : BitVec 3) (d a : BitVec 7) (l : BitVec 4) : NextCanon (execSkqry g d a l s) := by
  refine inWord_canon h fun e => ?_
  split
  · next ht => exact sketch_faults h ht _
  · rw [OkCanon, answers_ok, State.Canon, retire_mem, openDone_mem]; exact h
  · next ht =>
    simp only []
    split
    · trivial
    · next hstamp => exact (stamp_canon hstamp (sketch_found h ht) :)

theorem execSkinit_canon (g : BitVec 3) (a : BitVec 7) : NextCanon (execSkinit g a s) := by
  refine inWord_canon h fun e => ?_
  split
  · exact h
  · split
    · next ht => exact sketch_faults h ht _
    · exact h
    · next ht =>
      split
      · trivial
      · next hstamp => exact (stamp_canon hstamp (sketch_found h ht) :)

theorem execSkscale_canon (g : BitVec 3) (d a : BitVec 7) : NextCanon (execSkscale g d a s) := by
  refine inWord_canon h fun e => ?_
  split
  · exact h
  · split
    · trivial
    · exact h
    · split
      · next ht => exact sketch_faults h ht _
      · exact h
      · next ht =>
        split
        · trivial
        · next hstamp => exact (stamp_canon hstamp (sketch_found h ht) :)

theorem execSkstat_canon (g : BitVec 3) (d a : BitVec 7) (l : BitVec 4) : NextCanon (execSkstat g d a l s) := by
  refine inWord_canon h fun e => ?_
  split
  · next ht => exact sketch_faults h ht _
  · rw [OkCanon, answers_ok, State.Canon, retire_mem, openDone_mem]; exact h
  · next ht =>
    split
    · trivial
    · next hstamp => exact (stamp_canon hstamp (sketch_found h ht) :)

theorem readDestination_canon (e : Env) (lane va : Nat) :
    Answers (fun a => a.1.Canon) (fun d => ∀ t k, d = .known t k → t.Canon) (s.readDestination e lane va) := by
  unfold State.readDestination
  split
  · exact h
  · split
    · exact h
    · split
      · exact h
      · next leaf _ =>
        simp only []
        split
        · exact h
        · split
          · split
            · next ht => exact (readSketch_canon _ _ _ _ h).error ht
            · next ht =>
              rw [answers_ok]
              rintro t k ⟨⟩
              exact (readSketch_canon _ _ _ _ h).ok ht
          · split
            · simp
            · next x _ =>
              generalize x.bytes.read (leaf.pa va % 128) 64 = d
              refine answers_ite ?_ ?_
              · exact h
              · exact fun t k hk => (Destination.known.inj hk).1 ▸ h

theorem merge_canon (e : Env) (g : BitVec 3) (src dst : Sketch) (counter : Option Nat) : OkCanon (e.merge g src dst counter s) := by
  unfold Env.merge
  simp only []
  split
  · trivial
  · split
    · trivial
    · split
      · trivial
      · next hread =>
        split
        · trivial
        · next hwrite => exact (stamp_canon hwrite (stamp_canon hread h) :)

theorem execSkmerge_canon (g : BitVec 3) (d a : BitVec 7) (sig : BitVec 1) : NextCanon (execSkmerge g d a sig s) := by
  refine inWord_canon h fun e => ?_
  split
  · exact h
  · split
    · trivial
    · trivial
    · exact h
    · split
      · next ht => exact sketch_faults h ht _
      · exact h
      · next ht =>
        have hs := sketch_found h ht
        split
        · next hu =>
          rw [OkCanon, answers_ok, State.Canon, takeFault_mem]
          exact (readDestination_canon hs ..).error hu
        · exact hs
        · next hu => exact merge_canon ((readDestination_canon hs ..).ok hu _ _ rfl) ..

/-- A request that an engine cannot go on with leaves memory alone. -/
theorem missed_fault_canon (t : State) (r : Request) (c a : Nat) : ((s.missed t).engineFault r c a).Canon := by
  rwa [State.Canon, engineFault_mem, missed_mem]

theorem execSketchRequestPerformed_canon (id : Nat) (n : Units) : NextCanon (execSketchRequestPerformed id n s) := by
  unfold execSketchRequestPerformed
  split
  · exact h
  · split
    · exact h
    · split
      · split
        · exact h
        · split
          · exact missed_fault_canon h ..
          · next ht =>
            have hs := (skAnswer_canon _ _ _ _ _ _ h).ok ht
            split
            · rw [nextCanon_next, State.Canon, flightFault_mem]; exact hs
            · exact hs
      · split
        · exact missed_fault_canon h ..
        · next ht => exact ((skScan_canon _ _ _ _ h).ok ht :)
      · simp only []
        split
        · exact missed_fault_canon h ..
        · next ht =>
          have hs := (skUnits_canon _ _ _ _ _ _ h).ok ht
          split
          · exact hs
          · rw [nextCanon_next, State.Canon, State.dropRequest_mem]
            split
            · exact setSat_canon _ _ _ _ hs
            · exact hs
      · exact h

end SketchWords

/-! ### Merges of sketches (14, R266–R268) -/

theorem mergeCell_canon (s : State) (ctx : Nat) (dst : Sketch) (i : Nat) (c : Int × Bool) (h : s.Canon) :
    Answers (fun _ => True) State.Canon (s.mergeCell ctx dst i c) := by
  unfold State.mergeCell
  split
  · trivial
  · next ht =>
    have hs := (skStep_canon _ _ _ _ _ h).ok ht
    split
    · exact hs
    · split
      · trivial
      · next hu => exact ((skCell_canon _ _ _ _ _ hs).ok hu :)

theorem mergeUnits_canon (s : State) (ctx : Nat) (src dst : Sketch) (us : List Nat) (h : s.Canon) :
    Answers (fun _ => True) State.Canon (s.mergeUnits ctx src dst us) := by
  unfold State.mergeUnits
  refine foldE_answers (fun t i ht => ?_) _ h
  split
  · trivial
  · next hu => exact mergeCell_canon _ _ _ _ _ ((skCell_canon _ _ _ _ _ ht).ok hu)

theorem mergingUnits_canon (s : State) (ctx : Nat) (dst : Sketch) (q : RemoteMerge) (us : List Nat) (h : s.Canon) :
    Answers (fun _ => True) State.Canon (s.mergingUnits ctx dst q us) :=
  foldE_answers (fun _ _ ht => mergeCell_canon _ _ _ _ _ ht) _ h

theorem endMerge_canon (s : State) (r : Request) (src dst : Sketch) (counter : Option Nat) (h : s.Canon) : (s.endMerge r src dst counter).Canon := by
  have saturated : (if s.satOf src then s.setSat r.ctx dst true else s).Canon := by
    split
    · exact setSat_canon _ _ _ _ h
    · exact h
  unfold State.endMerge
  extract_lets t
  have ht : t.Canon := saturated
  clear_value t
  split
  · exact ht
  · split
    · next hu => rw [State.Canon, engineFault_mem]; exact (signalVa_canon _ _ _ _ ht).error hu
    · next hu => exact ((signalVa_canon _ _ _ _ ht).ok hu :)

@[simp] theorem answer_mem (s : State) (node : BitVec 11) (done : Bool) (data : List (BitVec 8)) : (s.answer node done data).mem = s.mem := rfl

theorem execRemoteMergeArrival_canon (q : RemoteMerge) (s : State) (h : s.Canon) : NextCanon (execRemoteMergeArrival q s) := by
  unfold execRemoteMergeArrival
  split
  · exact h
  · simp only []
    split
    · exact h
    · split
      · exact h
      · exact nextCanon_ite h h

theorem endMerging_canon (s : State) (r : Request) (dst : Sketch) (q : RemoteMerge) (h : s.Canon) : (s.endMerging r dst q).Canon := by
  unfold State.endMerging
  extract_lets t u
  have ht : t.Canon := by
    dsimp only [t]
    split
    · exact setSat_canon _ _ _ _ h
    · exact h
  rw [State.Canon, State.dropRequest_mem, answer_mem]
  dsimp only [u]
  split
  · exact ht
  · exact signal_wf _ _ _ _ _ ht

theorem performMerging_canon (s : State) (r : Request) (dst : Sketch) (q : RemoteMerge) (done : List (Nat × Nat)) (n : Units) (h : s.Canon) :
    (s.performMerging r dst q done n).Canon := by
  unfold State.performMerging
  simp only []
  split
  · exact h
  · next ht =>
    have hs := (mergingUnits_canon _ _ _ _ _ h).ok ht
    split
    · exact hs
    · exact endMerging_canon _ _ _ _ hs

theorem sendMerge_canon (s : State) (r : Request) (src dst : Sketch) (counter : Option Nat) (done : List (Nat × Nat)) (got : List (Nat × Int × Bool))
    (n : Units) (h : s.Canon) : (s.sendMerge r src dst counter done got n).Canon := by
  unfold State.sendMerge
  simp only []
  split
  · exact missed_fault_canon h ..
  · next ht => split <;> exact ((skScan_canon _ _ _ _ h).ok ht :)

theorem performMerge_canon (s : State) (r : Request) (src dst : Sketch) (counter : Option Nat) (done : List (Nat × Nat)) (n : Units) (h : s.Canon) :
    (s.performMerge r src dst counter done n).Canon := by
  unfold State.performMerge
  simp only []
  split
  · exact missed_fault_canon h ..
  · next ht =>
    have hs := (mergeUnits_canon _ _ _ _ _ h).ok ht
    split
    · exact hs
    · exact endMerge_canon _ _ _ _ _ hs

theorem execSkmergeComplete_canon (id : Nat) (n : Units) (remote : RemoteReply) (s : State) (h : s.Canon) :
    NextCanon (execSkmergeComplete id n remote s) := by
  unfold execSkmergeComplete
  split
  · exact h
  · split
    · exact performMerging_canon _ _ _ _ _ _ h
    · split
      · exact h
      · split
        · exact performMerge_canon _ _ _ _ _ _ _ h
        · split
          · exact sendMerge_canon _ _ _ _ _ _ _ _ h
          · split
            · exact h
            · rw [nextCanon_next, State.Canon, engineFault_mem]; exact h
            · exact h
    · exact h

end Sys2Proof.Machine
end

section
/-! SUPPORT. Hints, recipes, traps, saved state, moves and commands keep memory in its canonical form (06, R86–R106; 17; 18, R337–R342). -/

namespace Sys2Proof.Machine

/-! ### Hints and the bodies of recipes (06, R86; 17, R325–R328) -/

section Hints

variable {s : State} (h : s.Canon)
include h

theorem holdHint_canon (i : Instr) : NextCanon (holdHint i s) := by
  refine inWord_canon h fun e => ?_
  rw [OkCanon, answers_ok]
  split <;> exact h

theorem execHivl_canon (m : BitVec 16) : NextCanon (execHivl m s) := by
  refine inWord_canon h fun e => ?_
  rw [OkCanon, answers_ok]
  split <;> exact h

/-! Words whose function the unifier does not find below `exec` and `runBody`, each as a case of its form. -/

theorem execShlR_canon (g : BitVec 3) (d a b : BitVec 7) (x : BitVec 1) : NextCanon (execShlR g d a b x s) := binary_canon h ..

theorem execRot_canon (g : BitVec 3) (d a b : BitVec 7) (x : BitVec 1) : NextCanon (execRot g d a b x s) := binary_canon h ..

theorem execImad_canon (g : BitVec 3) (d a b : BitVec 7) (x : BitVec 1) : NextCanon (execImad g d a b x s) := binaryAcc_canon h ..

theorem execBfi_canon (g : BitVec 3) (d a b : BitVec 7) (x : BitVec 1) : NextCanon (execBfi g d a b x s) := binaryAcc_canon h ..

theorem execImulh_canon (g : BitVec 3) (d a b : BitVec 7) (x : BitVec 1) : NextCanon (execImulh g d a b x s) := variant_canon h ..

theorem execImin_canon (g : BitVec 3) (d a b : BitVec 7) (x : BitVec 1) : NextCanon (execImin g d a b x s) := variant_canon h ..

theorem execImax_canon (g : BitVec 3) (d a b : BitVec 7) (x : BitVec 1) : NextCanon (execImax g d a b x s) := variant_canon h ..

theorem execShrR_canon (g : BitVec 3) (d a b : BitVec 7) (x : BitVec 1) : NextCanon (execShrR g d a b x s) := variant_canon h ..

theorem execBfx_canon (g : BitVec 3) (d a b : BitVec 7) (x : BitVec 1) : NextCanon (execBfx g d a b x s) := variant_canon h ..

theorem execIabs_canon (g : BitVec 3) (d a : BitVec 7) : NextCanon (execIabs g d a s) := unary_canon h ..

theorem execMov_canon (g : BitVec 3) (d a : BitVec 7) : NextCanon (execMov g d a s) := unary_canon h ..

theorem execShlI_canon (g : BitVec 3) (d a : BitVec 7) (n : BitVec 5) : NextCanon (execShlI g d a n s) := unary_canon h ..

theorem execShrNI_canon (g : BitVec 3) (d a : BitVec 7) (n : BitVec 5) : NextCanon (execShrNI g d a n s) := unary_canon h ..

theorem execShrSI_canon (g : BitVec 3) (d a : BitVec 7) (n : BitVec 5) : NextCanon (execShrSI g d a n s) := unary_canon h ..

/-- The words that a recipe may hold leave memory alone, but that LDC fills a line. -/
theorem runBody_canon (i : Instr) : NextCanon (runBody i s) := by
  cases i with
  | iaddR | isub | imulR | andR | orR | xorR => exact binary_canon h ..
  | shlR => exact execShlR_canon h ..
  | rot => exact execRot_canon h ..
  | iaddI | imulI | andI | orI | xorI => exact binaryI_canon h ..
  | imad => exact execImad_canon h ..
  | bfi => exact execBfi_canon h ..
  | imulh => exact execImulh_canon h ..
  | imin => exact execImin_canon h ..
  | imax => exact execImax_canon h ..
  | shrR => exact execShrR_canon h ..
  | bfx => exact execBfx_canon h ..
  | mov => exact execMov_canon h ..
  | ineg | notW | popc | clz | brev => exact unary_canon h ..
  | iabs => exact execIabs_canon h ..
  | shlI => exact execShlI_canon h ..
  | shrNI => exact execShrNI_canon h ..
  | shrSI => exact execShrSI_canon h ..
  | iadd64 => exact execIadd64_canon h ..
  | imadw => exact execImadw_canon h ..
  | lut3 => exact execLut3_canon h ..
  | leaX1X2 | leaX4X8 => exact lea_canon h ..
  | movi => exact execMovi_canon h ..
  | smov => exact execSmov_canon h ..
  | ldc => exact loadConstant_canon _ _ _ _ _ _ _ h
  | _ => exact h

end Hints

theorem replayWord_canon (s : State) (k : Kernel) (gid : Nat) (w : BodyWord) (h : s.Canon) : OkCanon (s.replayWord k gid w) := by
  unfold State.replayWord
  split
  · split
    · trivial
    · split
      · trivial
      · simp only []
        split
        · next hrun =>
          have ht := (runBody_canon (by exact h) _).next hrun
          split
          · exact h
          · split
            · trivial
            · split
              · trivial
              · exact ht
              · exact h
            · exact ht
        · exact h
  · trivial

theorem replay_canon (n : Nat) (s : State) (k : Kernel) (gid : Nat) (t : Tag) (h : s.Canon) : OkCanon (State.replay n s k gid t) := by
  induction n generalizing s t with
  | zero => exact h
  | succ n ih =>
    unfold State.replay
    split
    · split
      · trivial
      · next hs =>
        have hinner := (foldE_answers (fun _ _ hu => ih _ _ hu) _ h).ok hs
        split
        · trivial
        · next hu => exact ((foldE_answers (fun _ _ hv => replayWord_canon _ _ _ _ hv) _ hinner).ok hu :)
    · exact h

section Recipes

variable {s : State} (h : s.Canon)
include h

theorem execRtag_canon (g : BitVec 3) (d : BitVec 7) (n : BitVec 5) (p : BitVec 1) : NextCanon (execRtag g d n p s) := by
  refine inWord_canon h fun e => ?_
  split
  · trivial
  · split
    · exact h
    · split
      · trivial
      · simp only []
        split
        · trivial
        · exact h

theorem execRuntag_canon (g : BitVec 3) (d : BitVec 7) (p : BitVec 1) : NextCanon (execRuntag g d p s) := by
  refine inWord_canon h fun e => ?_
  split
  · trivial
  · split <;> exact h

theorem execFastFileChunkFill_canon (gid chunk : Nat) (evict : List (Nat × Nat)) : NextCanon (execFastFileChunkFill gid chunk evict s) := by
  unfold execFastFileChunkFill
  split
  · exact h
  · split
    · exact h
    · split
      · exact h
      · rw [nextCanon_next, State.Canon, State.updGroup_mem]
        split <;> exact h

/-! ### Lane traps and handler groups (17, R307–R316) -/

theorem softTrap_canon (cause : Nat) (g : BitVec 3) (n : BitVec 7) : NextCanon (softTrap cause g n s) := by
  refine inWord_canon h fun e => ?_
  split
  · trivial
  · rwa [OkCanon, answers_ok, State.Canon, trapOr_mem _ _ _ _ _ _ (retire_mem ..)]

theorem execHrd_canon (g : BitVec 3) (d a : BitVec 7) (l : BitVec 4) (w : BitVec 1) : NextCanon (execHrd g d a l w s) := by
  refine inWord_canon h fun e => ?_
  split
  · trivial
  · simp only []
    split
    · trivial
    · exact answers_ite trivial h

theorem execHwr_canon (g : BitVec 3) (d a : BitVec 7) (w : BitVec 1) : NextCanon (execHwr g d a w s) := by
  refine inWord_canon h fun e => ?_
  split
  · trivial
  · simp only []
    split
    · trivial
    · exact foldl_canon (fun _ _ ht => by exact ht) _ h

theorem completeLane_canon (o : Origin) (v : List (BitVec 8)) : OkCanon (s.completeLane o v) := by
  unfold State.completeLane
  split
  · exact h
  · split
    · split
      · trivial
      · simp only []
        split <;> exact h
    · exact h

theorem completeAll_canon (e : Env) (vs : List (Nat × List (BitVec 8))) : OkCanon (e.completeAll vs s) := by
  refine foldE_answers (fun t x ht => ?_) _ h
  split
  · exact ht
  · split
    · trivial
    · next hu => exact ((completeLane_canon ht ..).ok hu :)

theorem execEretC_canon (g : BitVec 3) (a : BitVec 7) : NextCanon (execEretC g a s) := by
  refine inWord_canon h fun e => ?_
  split
  · trivial
  · simp only []
    split
    · trivial
    · next ht => exact endLanes_canon _ _ _ ((completeAll_canon h ..).ok ht)

theorem again_canon (o : Origin) : OkCanon (s.again o) := by
  unfold State.again
  split
  · exact h
  · split
    · trivial
    · exact h

theorem execEretX_canon (g : BitVec 3) : NextCanon (execEretX g s) := by
  refine inWord_canon h fun e => ?_
  split
  · trivial
  · simp only []
    split
    · trivial
    · next ht =>
      refine endLanes_canon _ _ _ ((foldE_answers (E := fun _ => True) (P := State.Canon) (fun t i hi => ?_) _ h).ok ht)
      split
      · exact hi
      · split
        · trivial
        · next hu => exact ((again_canon hi ..).ok hu :)

theorem execHandlerGroupFormation_canon (core : Nat) : NextCanon (execHandlerGroupFormation core s) := by
  unfold execHandlerGroupFormation
  simp only []
  split
  · split
    · split
      · exact h
      · split <;> exact h
    · exact h
  · exact h

theorem served_canon (g : Group) (b : Bool) (t : TrapWord) : (s.served g b t).Canon := by
  unfold State.served
  extract_lets u v
  have hv : v.Canon := by
    dsimp only [v]
    split <;> exact h
  clear_value v
  split
  · exact hv
  · split
    · exact hv
    · split
      · next hw => exact afterEnds_canon _ ((endGroup_canon _ _ hv).ok hw)
      · rwa [State.Canon, faultAt_mem]

theorem execOriginSlotResume_canon (gid : Nat) (b : Bool) : NextCanon (execOriginSlotResume gid b s) := by
  unfold execOriginSlotResume
  split
  · exact h
  · split
    · split
      · exact h
      · exact served_canon h ..
    · exact h

/-! ### Words on the walk caches, the energy budget and the stop records (10, R183; 06, R96; 17, R319) -/

theorem execTlbinv_canon (g : BitVec 3) (a : BitVec 7) : NextCanon (execTlbinv g a s) := by
  refine inWord_canon h fun e => ?_
  split
  · trivial
  · trivial
  · exact h

theorem execTlbinvCtx_canon (g : BitVec 3) : NextCanon (execTlbinvCtx g s) := by
  refine inWord_canon h fun e => ?_
  split
  · trivial
  · exact h

theorem execTlbinvSweepComplete_canon (id : Nat) : NextCanon (execTlbinvSweepComplete id s) := by
  unfold execTlbinvSweepComplete
  split
  · exact h
  · split
    · rw [nextCanon_next, State.Canon, wake_mem]; exact h
    · exact h

theorem execEbudRd_canon (g : BitVec 3) (d : BitVec 7) (l : BitVec 4) : NextCanon (execEbudRd g d l s) := by
  refine inWord_canon h fun e => ?_
  split
  · trivial
  · rwa [OkCanon, answers_ok, State.Canon, launchLong_mem]

theorem execEbudSet_canon (g : BitVec 3) (a : BitVec 7) : NextCanon (execEbudSet g a s) := by
  refine inWord_canon h fun e => ?_
  split
  · trivial
  · exact h
  · exact h

theorem execStopr_canon (g : BitVec 3) (d a : BitVec 7) (l : BitVec 4) : NextCanon (execStopr g d a l s) := by
  refine inWord_canon h fun e => ?_
  split
  · trivial
  · split
    · trivial
    · exact h

/-! ### Groups saved and loaded, stops and resumes (06, R98–R106; 17, R317–R323) -/

theorem saveGroup_canon (g : Group) : (s.saveGroup g).Canon := by
  unfold State.saveGroup
  split
  · exact h
  · exact saveBytes_wf _ _ _ _ h

theorem reloadGroup_canon (gid : Nat) : (s.reloadGroup gid).Canon := by
  unfold State.reloadGroup
  split
  · exact h
  · split <;> exact h

theorem haltContext_canon (c : Context) (i : StopInfo) : (s.haltContext c i).Canon := ownWrite_wf _ _ _ h

theorem stopUnit_canon {ctx : Nat} {u : StopUnit} {t : State} (ht : s.stopUnit ctx u = some t) : t.Canon := by
  unfold State.stopUnit at ht
  split at ht
  · contradiction
  · split at ht
    · extract_lets here saved i' stopped at ht
      have hs : stopped.Canon := foldl_canon (fun v g hv => saveGroup_canon hv g.unwind) here h
      clear_value stopped
      split at ht
      · contradiction
      · split at ht
        · cases ht
          split
          · exact haltContext_canon hs ..
          · exact hs
        · cases ht; exact hs
    · contradiction

theorem reperform_canon (r : Request) : (s.reperform r).Canon := by
  have once : ∀ e ws, State.Canon (match bodyInstr r.word with
      | some (.hrd g d a l w) => s.readAgain e r ws (execHrd g d a l w)
      | i => (match i.bind (privateLoad []) with
        | some f => s.readAgain e r ws f
        | none => s)) := fun e ws => by
    split
    · exact readAgain_canon _ _ _ _ (fun _ hu => execHrd_canon hu ..) h
    · split
      · next hf =>
        obtain ⟨i, -, hi⟩ := Option.bind_eq_some_iff.mp hf
        exact readAgain_canon _ _ _ _ (fun _ hu => privateLoad_canon hi hu) h
      · exact h
  unfold State.reperform
  extract_lets again
  split
  · exact once ..
  · split
    · exact once ..
    · simp only []
      split
      · next hk => exact ((performLoad_canon _ _ _ _ _ _ _ h).ok hk :)
      · rwa [State.Canon, reperformFails_mem]
  · exact h

theorem completeUnhandled_canon (gid : Nat) : (s.completeUnhandled gid).Canon := by
  unfold State.completeUnhandled
  split
  · exact h
  · split
    · exact h
    · split
      · exact h
      · refine foldl_canon (fun t x ht => ?_) _ h
        simp only []
        split
        · next hu => exact ((completeLane_canon ht ..).ok hu :)
        · exact ht

theorem resumeContext_canon (ctx : Nat) : (s.resumeContext ctx).Canon := by
  have reloaded : ((s.groupsOf ctx).foldl (fun s g => s.reloadGroup g.gid) s).Canon := foldl_canon (fun _ _ ht => reloadGroup_canon ht ..) _ h
  unfold State.resumeContext
  refine foldl_canon (fun _ _ ht => completeUnhandled_canon ht ..) _ ?_
  refine foldl_canon (fun _ _ ht => reperform_canon ht _) _ ?_
  exact reloaded

/-! ### Workgroups and clusters that move (06, R99–R106) -/

theorem leave_canon (g : Group) : (s.leave g).Canon := by
  have pushed : (s.track ((s.pushCores g.ctx [g.core]).pushTiles g) g.ctx g.launch).Canon := by
    rw [State.Canon, track_mem]
    exact pushTiles_canon _ _ (pushCores_canon _ _ _ h)
  unfold State.leave
  simp only [State.Canon, State.updGroup_mem]
  split
  · exact pushed
  · exact saveGroup_canon pushed g

theorem leaveWorkgroup_canon (w : Workgroup) : (s.leaveWorkgroup w).Canon := saveBytes_wf s w.ctx (lsOwner w.wid) (w.ls.read 0 w.lsSize) h

theorem restoreGroup_canon (g : Group) (core slot : Nat) : (s.restoreGroup g core slot).Canon := reloadGroup_canon h g.gid

theorem restoreHandler_canon (g : Group) (core slot : Nat) : (s.restoreHandler g core slot).Canon := reloadGroup_canon h g.gid

theorem freshen_canon (core : Nat) : (s.freshen core).Canon := by
  unfold State.freshen
  rwa [State.Canon, State.setCore_mem, invalidate_mem]

theorem movePool_canon (gid core : Nat) : (s.movePool gid core).Canon := by
  unfold State.movePool
  simp only []
  split <;> exact h

theorem takeUp_canon (gid core : Nat) : (s.takeUp gid core).Canon :=
  completeUnhandled_canon (foldl_canon (fun _ _ ht => reperform_canon ht _) _ (movePool_canon h gid core)) gid

theorem returnWorkgroup_canon {l : Launch} {k : Kernel} {w : Workgroup} {p : CorePlace} {t : State} (ht : s.returnWorkgroup l k w p = some t) :
    t.Canon := by
  unfold State.returnWorkgroup at ht
  simp only [] at ht
  split at ht
  · contradiction
  · split at ht
    · contradiction
    · cases ht
      refine foldl_canon (fun _ _ hu => takeUp_canon hu ..) _ ?_
      refine foldl_canon (fun _ _ hu => restoreHandler_canon hu ..) _ ?_
      refine foldl_canon (fun _ _ hu => restoreGroup_canon hu ..) _ ?_
      exact freshen_canon (by exact h) p.core

theorem execWaitingWorkgroupSave_canon (wg : Nat) : NextCanon (execWaitingWorkgroupSave wg s) := by
  unfold execWaitingWorkgroupSave
  split
  · exact h
  · split
    · split
      · exact leaveWorkgroup_canon (foldl_canon (fun _ g ht => leave_canon ht g) _ h) _
      · exact h
    · exact h

theorem execWaitingWorkgroupRestore_canon (wg : Nat) (place : CorePlace) : NextCanon (execWaitingWorkgroupRestore wg place s) := by
  unfold execWaitingWorkgroupRestore
  split
  · exact h
  · split
    · split
      · exact h
      · split
        · exact h
        · rw [nextCanon_next]
          split
          · exact h
          · next ht => exact (returnWorkgroup_canon h ht :)
    · exact h

theorem beginVacate_canon (ctx : Nat) (head : CmdHead) (k : Nat) : (s.beginVacate ctx head k).Canon := by
  unfold State.beginVacate
  simp only []
  split <;> exact h

theorem leaveCluster_canon (ctx launch clu : Nat) : (s.leaveCluster ctx launch clu).Canon := by
  unfold State.leaveCluster
  simp only []
  split
  · exact h
  · exact foldl_canon (fun _ w ht => leaveWorkgroup_canon ht w) _ h

theorem execGroupVacateStop_canon (gid : Nat) : NextCanon (execGroupVacateStop gid s) := by
  unfold execGroupVacateStop
  split
  · exact h
  · split
    · simp only []
      split
      · rw [nextCanon_next]
        split <;> exact h
      · split
        · exact h
        · exact leaveCluster_canon (leave_canon h _) ..
    · exact h

omit h in
theorem returnAll_canon {l : Launch} {k : Kernel} {ps : List (Workgroup × CorePlace)} {s t : State} (h : s.Canon) (ht : s.returnAll l k ps = some t) :
    t.Canon := by
  induction ps generalizing s with
  | nil => cases ht; exact h
  | cons p ps ih =>
    rw [State.returnAll] at ht
    split at ht
    · contradiction
    · next hu => exact ih (returnWorkgroup_canon h hu) ht

theorem execClusterRestore_canon (ctx launch cluster : Nat) (place : List CorePlace) : NextCanon (execClusterRestore ctx launch cluster place s) := by
  unfold execClusterRestore
  split
  · exact h
  · split
    · exact h
    · simp only []
      split
      · exact h
      · split
        · next ht =>
          have returned := returnAll_canon h ht
          exact returned
        · exact h

theorem endVacate_canon (c : Context) (head : CmdHead) : (s.endVacate c head).Canon := by
  have pushed : (s.track (s.pushCores c.no c.vacated) c.no 0).Canon := by
    rw [State.Canon, track_mem]
    exact pushCores_canon _ _ _ h
  exact pushed

/-! ### Commands of the host (18, R337–R342) -/

theorem answered_canon (head : CmdHead) (a : Answer) : (s.answered head a).Canon := by
  unfold State.answered
  split <;> exact h

theorem fromHost_canon (head : CmdHead) {f : State → State} (hf : ∀ u, u.Canon → (f u).Canon) : (s.fromHost head f).Canon := by
  unfold State.fromHost
  simp only []
  split
  · exact hf _ h
  · exact h

theorem ctxCommand_canon (head : CmdHead) (i : Instr) {f : State → Context → State × Answer} (hf : ∀ u c, u.Canon → (f u c).1.Canon) :
    (s.ctxCommand head i f).Canon := by
  refine fromHost_canon h head fun u hu => ?_
  split
  · exact hu
  · split
    · exact hu
    · exact answered_canon (hf _ _ hu) ..

theorem execCreateContext_canon (head : CmdHead) (args : ContextArgs) : NextCanon (execCreateContext head args s) := by
  refine fromHost_canon h head fun u hu => ?_
  split
  · exact hu
  · simp only []
    split <;> exact hu

theorem pushContext_canon (c : Context) : (s.pushContext c).Canon := pushCores_canon _ _ _ h

theorem destroy_canon (c : Context) : (s.destroy c).Canon := by
  unfold State.destroy
  extract_lets t wids u merges
  have ht : t.Canon := by
    dsimp only [t]
    split
    · exact pushContext_canon h c
    · exact h
  exact ht

theorem execDestroyContext_canon (head : CmdHead) : NextCanon (execDestroyContext head s) := by
  refine ctxCommand_canon h head _ fun u c hu => ?_
  refine foldl_canon (fun v i hv => ?_) _ (destroy_canon hu c)
  split <;> exact hv

theorem execStart_canon (head : CmdHead) (desc : List (BitVec 8)) : NextCanon (execStart head desc s) := by
  refine ctxCommand_canon h head _ fun u c hu => ?_
  split
  · exact hu
  · simp only []
    split
    · exact hu
    · split
      · exact hu
      · dsimp only
        split <;> exact hu

theorem execHalt_canon (head : CmdHead) : NextCanon (execHalt head s) := by
  refine ctxCommand_canon h head _ fun u c hu => ?_
  split <;> exact hu

theorem execResume_canon (head : CmdHead) : NextCanon (execResume head s) := by
  refine ctxCommand_canon h head _ fun u c hu => ?_
  split
  · exact hu
  · exact resumeContext_canon hu _

theorem execVacate_canon (head : CmdHead) (k : BitVec 32) : NextCanon (execVacate head k s) := by
  refine ctxCommand_canon h head _ fun u c hu => ?_
  split
  · exact hu
  · split
    · exact hu
    · split
      · exact hu
      · exact beginVacate_canon hu ..

theorem execReadStopRecord_canon (head : CmdHead) (index : BitVec 32) : NextCanon (execReadStopRecord head index s) := by
  refine ctxCommand_canon h head _ fun u c hu => ?_
  split <;> exact hu

theorem execAttest_canon (head : CmdHead) (nonce : BitVec 384) : NextCanon (execAttest head nonce s) :=
  ctxCommand_canon h head _ fun _ _ hu => hu

theorem execSetEnergyBudget_canon (head : CmdHead) (budget : BitVec 64) : NextCanon (execSetEnergyBudget head budget s) :=
  ctxCommand_canon h head _ fun _ _ hu => hu

theorem execQueryContext_canon (head : CmdHead) : NextCanon (execQueryContext head s) := ctxCommand_canon h head _ fun _ _ hu => hu

theorem query_canon (head : CmdHead) (data : State → List (BitVec 8)) : (s.query head data).Canon := fromHost_canon h head fun _ hu => hu

end Recipes

end Sys2Proof.Machine
end

section
/-! SUPPORT. Map commands, migration, images, resets and the events at home keep memory in its canonical form (10, R173–R190; 18, R333–R346). -/

namespace Sys2Proof.Machine

/-! ### Pages mapped and moved (04, R45; 10, R181, R183, R190; 18, R345, R346) -/

section Pages

variable {s : State} (h : s.Canon)
include h

theorem writeLeaf_canon (ctx va a e : Nat) : (s.writeLeaf ctx va a e).Canon := by
  rw [State.Canon, State.writeLeaf, sweepTlb_mem]
  exact landWord_wf s a e h

theorem mapPage_canon (head : CmdHead) (c : Context) (va b frame : Nat) (flags : BitVec 8) : (s.mapPage head c va b frame flags).1.Canon := by
  have mapped : ∀ a e, ((s.writeLeaf c.no va a e).settleEnds).Canon := fun a e => settleEnds_canon _ (writeLeaf_canon h ..)
  unfold State.mapPage
  split
  · exact h
  · exact h
  · exact mapped ..
  · simp only []
    split
    · exact mapped ..
    · split <;> exact h

theorem exportRegion_canon (c : Context) (va : BitVec 64) (size : BitVec 8) (frame : BitVec 64) : (s.exportRegion c va size frame).1.Canon := by
  unfold State.exportRegion
  split
  · exact h
  · simp only []
    split <;> exact h

theorem withdraw_canon (va : BitVec 64) : (s.withdraw va).1.Canon := by
  unfold State.withdraw
  simp only []
  split
  · exact h
  · split <;> exact h

theorem unmapPage_canon (c : Context) (va : Nat) : (s.unmapPage c va).1.Canon := by
  unfold State.unmapPage
  generalize (if va < 2 ^ 56 then leafSlot s.mem va walkLevels c.args.root else none) = slot
  split
  · exact h
  · split
    · exact h
    · exact writeLeaf_canon h ..

theorem execMap_canon (head : CmdHead) (va : BitVec 64) (size flags : BitVec 8) (frame : BitVec 64) : NextCanon (execMap head va size flags frame s) := by
  refine ctxCommand_canon h head _ fun u c hu => ?_
  split
  · exact exportRegion_canon hu ..
  · split
    · exact hu
    · simp only []
      split
      · exact hu
      · exact mapPage_canon hu ..

theorem execExportFrame_canon (head : CmdHead) (va : BitVec 64) (size flags : BitVec 8) (frame : BitVec 64) :
    NextCanon (execExportFrame head va size flags frame s) :=
  ctxCommand_canon h head _ fun _ _ hu => exportRegion_canon hu ..

theorem execUnmap_canon (head : CmdHead) (va : BitVec 64) : NextCanon (execUnmap head va s) := by
  refine ctxCommand_canon h head _ fun u c hu => ?_
  split
  · exact withdraw_canon hu ..
  · exact unmapPage_canon hu ..

theorem execWithdrawExport_canon (head : CmdHead) (va : BitVec 64) : NextCanon (execWithdrawExport head va s) :=
  ctxCommand_canon h head _ fun _ _ hu => withdraw_canon hu ..

theorem reflag_canon (ctx va : Nat) (leaf : Leaf) : (s.reflag ctx va leaf).Canon := by
  unfold State.reflag
  split
  · exact h
  · exact writeLeaf_canon h ..

theorem endMigration_canon (r : Request) (va : Nat) (leaf : Leaf) (frame : Nat) (head : CmdHead) (data : List (BitVec 8)) :
    (s.endMigration r va leaf frame head data).Canon := by
  have copied : (s.endCopied leaf.frame (2 ^ leaf.bits)).Canon := h
  unfold State.endMigration
  extract_lets t u on
  have hu : u.Canon := reflag_canon (migratePage_wf _ _ _ _ _ copied) ..
  split
  · exact copied
  · exact settleEnds_canon _ hu

theorem endForward_canon (r : Request) (old : Nat) : (s.endForward r old).Canon := by
  unfold State.endForward
  rw [State.Canon, State.dropRequest_mem]
  split <;> exact h

theorem loadBytes_canon (n ctx va : Nat) (bs : List (BitVec 8)) : (State.loadBytes n s ctx va bs).Canon := by
  induction n generalizing s va bs with
  | zero => exact h
  | succ n ih =>
    unfold State.loadBytes
    split
    · exact h
    · simp only []
      split
      · exact h
      · exact ih (landAny_wf _ _ _ _ _ h) ..

theorem execLoadImage_canon (head : CmdHead) (flags : BitVec 32) (image : ImageSource) : NextCanon (execLoadImage head flags image s) := by
  refine ctxCommand_canon h head _ fun u c hu => ?_
  split
  · exact hu
  · simp only []
    split
    · exact hu
    · exact foldl_canon (fun _ _ ht => loadBytes_canon ht ..) _ hu

theorem noCommand_canon (head : CmdHead) : (s.noCommand head).Canon := fromHost_canon h head fun _ hu => hu

/-- A command that waited for its context has the effect that it has when it arrives. -/
theorem perform_canon (i : Instr) : (s.perform i).Canon := by
  unfold State.perform
  split
  · exact execDestroyContext_canon h ..
  · exact execMap_canon h ..
  · exact execExportFrame_canon h ..
  · exact execUnmap_canon h ..
  · exact execWithdrawExport_canon h ..
  · exact execLoadImage_canon h ..
  · exact execStart_canon h ..
  · exact execHalt_canon h ..
  · exact execResume_canon h ..
  · exact execVacate_canon h ..
  · exact execReadStopRecord_canon h ..
  · exact execAttest_canon h ..
  · exact execSetEnergyBudget_canon h ..
  · exact execQueryContext_canon h ..
  · exact h

theorem drain_canon (n ctx : Nat) : (State.drain n s ctx).Canon := by
  induction n generalizing s with
  | zero => exact h
  | succ n ih =>
    unfold State.drain
    split
    · exact h
    · split
      · exact h
      · split
        · exact h
        · exact ih (perform_canon (by exact h) _)

theorem goOn_canon (ctx : Nat) : (s.goOn ctx).Canon := by
  unfold State.goOn
  split
  · exact h
  · exact drain_canon h ..

theorem migrationFails_canon (r : Request) (leaf : Leaf) (head : CmdHead) (addr : Nat) : (s.migrationFails r leaf head addr).Canon := by
  have raised : (s.engineFault r 0x06 addr).Canon := by rwa [State.Canon, engineFault_mem]
  exact goOn_canon (by exact raised) _

theorem execPageMigrationComplete_canon (id : Nat) (remote : RemoteReply) : NextCanon (execPageMigrationComplete id remote s) := by
  unfold execPageMigrationComplete
  split
  · exact h
  · next r _ =>
    split
    · next va leaf frame tag node _ =>
      extract_lets head settle
      have settled : ∀ x t, t.Canon → (settle x t).Canon := fun x t ht => by
        dsimp only [settle]
        split
        · exact ht
        · exact h
        · exact migrationFails_canon h ..
      have ended : ∀ bs, (s.endMigration r va leaf frame head bs).Canon := fun _ => endMigration_canon h ..
      split
      · exact settled _ _ (goOn_canon (ended _) _)
      · split
        · refine goOn_canon ?_ _
          rw [State.Canon, track_mem]
          exact ended _
        · exact h
      · exact settled _ _ h
    · exact endForward_canon h ..
    · exact h

/-! ### The end of a stop and of a vacate (06, R100; 17, R319) -/

theorem execUnitStop_canon (ctx : Nat) (u : StopUnit) : NextCanon (execUnitStop ctx u s) := by
  unfold execUnitStop
  split
  · exact h
  · next ht =>
    have stopped := stopUnit_canon h ht
    rw [nextCanon_next]
    split
    · exact stopped
    · split
      · exact goOn_canon (by exact stopped) _
      · exact stopped

theorem execVacateReply_canon (ctx : Nat) : NextCanon (execVacateReply ctx s) := by
  unfold execVacateReply
  split
  · exact h
  · split
    · exact h
    · split
      · exact goOn_canon (endVacate_canon h ..) _
      · exact h

/-! ### Resets, heat, clocks and energy (04, R50; 18, R336, R343, R344) -/

/-- What a reset loses of memory is a range of its bytes. -/
theorem execReset_canon (failed : BitVec 36) : NextCanon (execReset failed s) := wf_filter _ _ h

theorem execTripReset_canon (failed : BitVec 36) : NextCanon (execTripReset failed s) := by
  unfold execTripReset
  split
  · split
    · exact execReset_canon h failed
    · exact h
  · exact h

theorem execThermalThrottle_canon (die temp clock : Nat) : NextCanon (execThermalThrottle die temp clock s) := by
  unfold execThermalThrottle
  simp only []
  split <;> exact h

theorem execThermalTrip_canon (die temp : Nat) : NextCanon (execThermalTrip die temp s) := by
  unfold execThermalTrip
  split
  · exact h
  · exact foldl_canon (fun _ _ ht => by exact ht) s.contexts h

theorem execClockLowering_canon (ctx clock : Nat) : NextCanon (execClockLowering ctx clock s) := by
  unfold execClockLowering
  split
  · exact h
  · split
    · exact h
    · exact foldl_canon (fun _ _ ht => by exact ht) _ (by exact h)

theorem execEnergyCountUpdate_canon (ctx charge : Nat) (used : List (Nat × Nat)) : NextCanon (execEnergyCountUpdate ctx charge used s) := h

/-! ### Links and other devices (18, R333–R335) -/

theorem execLinkRetry_canon (id port : Nat) : NextCanon (execLinkRetry id port s) := by
  unfold execLinkRetry
  split
  · exact h
  · split
    · exact h
    · split <;> exact h

theorem unanswered_canon (r : Request) : NextCanon (s.unanswered r) := by
  unfold State.unanswered
  extract_lets faulted without
  have hf : NextCanon (.next faulted) := by rwa [nextCanon_next, State.Canon, State.setSend_mem, engineFault_mem]
  have hw : NextCanon without := by
    have returned := execLoadDataReturn_canon r.id .refused s h
    dsimp only [without]
    split
    · next ht => exact (returned.next ht :)
    · exact returned
  clear_value faulted without
  split
  · exact hw
  · exact hw
  · split
    · exact hf
    · exact hw
  · exact execPageMigrationComplete_canon h ..
  · exact hf

theorem execRequestTimeout_canon (id : Nat) : NextCanon (execRequestTimeout id s) := by
  unfold execRequestTimeout
  split
  · exact h
  · split
    · split
      · exact unanswered_canon h _
      · exact h
    · exact h

theorem readFor_canon (node off n : Nat) : (s.readFor node off n).Canon :=
  foldl_canon (fun t no ht => by rwa [State.Canon, readHome_mem]) _ h

theorem serveAccess_canon (ctx : Option Nat) (q : RemoteReq) : (s.serveAccess ctx q).Canon := by
  unfold State.serveAccess
  extract_lets pa put
  have hput : ∀ t bs, t.Canon → (put t bs).Canon := fun _ _ ht => land_wf _ _ _ _ ht
  clear_value put
  split
  · exact h
  · split
    · rw [State.Canon, answer_mem, State.tick_mem]
      exact readFor_canon h ..
    · rw [State.Canon, answer_mem]
      exact hput _ _ h
    · rw [State.Canon, answer_mem]
      exact hput _ _ (by rw [State.Canon, State.tick_mem]; exact readFor_canon h ..)
    · rw [State.Canon, answer_mem]
      exact signal_wf _ _ _ _ _ h
    · exact h

theorem execRemoteRequestArrival_canon (q : RemoteReq) : NextCanon (execRemoteRequestArrival q s) := by
  unfold execRemoteRequestArrival
  split
  · exact h
  · split
    · exact serveAccess_canon h ..
    · exact h

theorem execHostFWrite_canon (q : RemoteReq) : NextCanon (execHostFWrite q s) := by
  unfold execHostFWrite
  split
  · exact execRemoteRequestArrival_canon h q
  · split
    · exact h
    · exact serveAccess_canon h ..

/-! ### Lines written back, counts of reads and errors (10, R170, R173, R184, R188; 18, R332) -/

theorem writeBack_canon (c : CacheSel) (line : Nat) (drop : Bool) : (s.writeBack c line drop).Canon := by
  unfold State.writeBack
  extract_lets m
  clear_value m
  cases c with
  | l1 n =>
    have back : (s.backL1In n line m).Canon := backL1In_wf _ _ _ _ h
    simp only []
    split <;> exact back
  | cluster n =>
    have back : (s.backClusterIn ((findLine (s.clusterCache n) line).bind s.lineOwner) n line m).Canon := backClusterIn_wf _ _ _ _ _ h
    simp only []
    split <;> exact back
  | tileBuffer n =>
    simp only []
    split
    · exact h
    · next l _ =>
      have back : (s.landAny (dieOf n) (s.lineOwner l) (l.dirtyIn m) (l.poisonedIn m)).Canon := landAny_wf _ _ _ _ _ h
      split <;> exact back

theorem execCacheWriteBack_canon (c : CacheSel) (line : Nat) (drop : Bool) (remote : RemoteReply) : NextCanon (execCacheWriteBack c line drop remote s) := by
  have back := writeBack_canon h c line drop
  unfold execCacheWriteBack
  simp only []
  split
  · exact back
  · exact h
  · split
    · exact h
    · exact back

theorem execRemoteReadLineDrop_canon (die line : Nat) : NextCanon (execRemoteReadLineDrop die line s) := h

theorem execHotnessDecay_canon : NextCanon (execHotnessDecay s) := by
  unfold execHotnessDecay
  split <;> exact h

theorem execHotnessNotification_canon (ctx block req : Nat) : NextCanon (execHotnessNotification ctx block req s) := by
  unfold execHotnessNotification
  split
  · exact h
  · split
    · exact h
    · exact signal_wf _ _ _ _ _ (land_wf _ _ _ _ h)

theorem execUncorrectableError_canon (at_ : ErrorAt) : NextCanon (execUncorrectableError at_ s) := by
  unfold execUncorrectableError
  rw [nextCanon_next]
  cases at_ with
  | home w =>
    simp only []
    split <;> exact h
  | l1 | cluster | tileBuffer | tiles | constants | remote => exact h

theorem corrected_canon (die : Nat) : (s.corrected die).Canon := h

end Pages

end Sys2Proof.Machine
end

section
/-! SUPPORT. Every step keeps memory in its canonical form: each word, event and command by its form, then what a turn offers (10, R175, R191). -/

namespace Sys2Proof.Machine

section Forms

variable {s : State} (h : s.Canon)
include h

/-! ### Words that write registers and predicates alone (08, R138–R160; 13, R233–R240) -/

theorem execIcmpR_canon (g : BitVec 3) (p c : BitVec 4) (a b : BitVec 7) : NextCanon (execIcmpR g p c a b s) := inWord_canon h fun _ => h

theorem execIcmpI_canon (g : BitVec 3) (p c : BitVec 4) (a i : BitVec 7) : NextCanon (execIcmpI g p c a i s) := inWord_canon h fun _ => h

theorem execPlut_canon (g : BitVec 3) (p a b c : BitVec 4) : NextCanon (execPlut g p a b c s) := by
  refine inWord_canon h fun e => ?_
  split
  · trivial
  · exact h

theorem execP2v_canon (g : BitVec 3) (d : BitVec 7) : NextCanon (execP2v g d s) := inWord_canon h fun _ => h

theorem execV2p_canon (g : BitVec 3) (a : BitVec 7) : NextCanon (execV2p g a s) := inWord_canon h fun _ => h

theorem execPtestNr_canon (g : BitVec 3) (p : BitVec 4) : NextCanon (execPtestNr g p s) := inWord_canon h fun _ => h

theorem execSel_canon (g : BitVec 3) (d a : BitVec 7) (p : BitVec 4) (n : BitVec 1) : NextCanon (execSel g d a p n s) := inWord_canon h fun _ => h

theorem execLperm_canon (g : BitVec 3) (p c : BitVec 4) (a b : BitVec 7) : NextCanon (execLperm g p c a b s) := crossLane_canon h ..

theorem quadMove_canon (g : BitVec 3) (d a : BitVec 7) (src : Nat → Nat) : NextCanon (quadMove g d a src s) := crossLane_canon h ..

theorem execQxchH_canon (g : BitVec 3) (d a : BitVec 7) : NextCanon (execQxchH g d a s) := quadMove_canon h ..

theorem execQxchV_canon (g : BitVec 3) (d a : BitVec 7) : NextCanon (execQxchV g d a s) := quadMove_canon h ..

theorem execQxchD_canon (g : BitVec 3) (d a : BitVec 7) : NextCanon (execQxchD g d a s) := quadMove_canon h ..

theorem execQbcast_canon (g : BitVec 3) (d a : BitVec 7) (q : BitVec 2) : NextCanon (execQbcast g d a q s) := quadMove_canon h ..

theorem poll_canon (g : BitVec 3) (p q : BitVec 4) (f : List Bool → Bool) : NextCanon (poll g p q f s) := crossLane_canon h ..

theorem execPollAnd_canon (g : BitVec 3) (p q : BitVec 4) : NextCanon (execPollAnd g p q s) := poll_canon h ..

theorem execPollOr_canon (g : BitVec 3) (p q : BitVec 4) : NextCanon (execPollOr g p q s) := poll_canon h ..

theorem execPollSame_canon (g : BitVec 3) (p q : BitVec 4) : NextCanon (execPollSame g p q s) := poll_canon h ..

theorem execPick_canon (g : BitVec 3) (p : BitVec 4) : NextCanon (execPick g p s) := crossLane_canon h ..

theorem execPmask_canon (g : BitVec 3) (d : BitVec 7) (p : BitVec 4) (n : BitVec 1) : NextCanon (execPmask g d p n s) := crossLane_canon h ..

theorem execXred_canon (g : BitVec 3) (d a m : BitVec 7) : NextCanon (execXred g d a m s) := crossLane_canon h ..

theorem execSsetFrnd_canon (g : BitVec 3) (a : BitVec 7) : NextCanon (execSsetFrnd g a s) := ssetGroup_canon h ..

theorem execStunmap_canon (g : BitVec 3) (a : BitVec 7) : NextCanon (execStunmap g a s) := withWindow_canon (h := h) ..

theorem execStflush_canon (g : BitVec 3) (a : BitVec 7) : NextCanon (execStflush g a s) := withWindow_canon (h := h) ..

theorem minMax32_canon (max num : Bool) (g : BitVec 3) (d a b : BitVec 7) : NextCanon (minMax32 max num g d a b s) := fpWord_canon h ..

theorem execVrsqe_canon (g : BitVec 3) (d a b : BitVec 7) : NextCanon (execVrsqe g d a b s) := fpWord_canon h ..

theorem execFrndF32_canon (g : BitVec 3) (d a : BitVec 7) : NextCanon (execFrndF32 g d a s) := fpWord_canon h ..

theorem execFrndF64_canon (g : BitVec 3) (d a : BitVec 7) : NextCanon (execFrndF64 g d a s) := fpWord_canon h ..

theorem fclassWord_canon (f : Fmt) (g : BitVec 3) (d a : BitVec 7) : NextCanon (fclassWord f g d a s) := fpWord_canon h ..

theorem longUnary_canon (f : Fmt) (g : BitVec 3) (d a : BitVec 7) (la : BitVec 4) (op : Rounding → Nat → FRes) : NextCanon (longUnary f g d a la op s) :=
  longWord_canon h ..

theorem longDiv_canon (f : Fmt) (g : BitVec 3) (d a : BitVec 7) (la : BitVec 4) : NextCanon (longDiv f g d a la s) := longWord_canon h ..

/-! ### The issue of a word and a failed replay (07, R108–R112; 17, R326, R327) -/

/-- What an attempt to issue hands on: a state of its own or a word with the state that issued it. -/
def PreparedCanon : Prepared → Prop
  | .done t => t.Canon
  | .run _ t => t.Canon
  | _ => True

theorem issues_canon (g : Group) (i : Issue) : (s.issues g i).Canon := h

theorem faultNow_canon (i : Halt) : PreparedCanon (s.faultNow i) := by
  unfold State.faultNow
  split
  · next e _ =>
    have faulted : (e.takeFault i s).Canon := by rwa [State.Canon, takeFault_mem]
    exact faulted
  · trivial

theorem failReplay_canon (e : Env) (t : Tag) (cause : Nat) : (s.failReplay e t cause).Canon := by
  have faulted : PreparedCanon (s.issueFault e.g e.iss (replayFault t cause (lowLane (e.act (guardOf e.iss.word))))) := faultNow_canon (issues_canon h ..) _
  unfold State.failReplay
  split
  · next ht => rwa [ht] at faulted
  · exact h

theorem issueWord_canon (e : Env) (i : Instr) (reads writes : List RegSpan) : PreparedCanon (s.issueWord e i reads writes) := by
  have fault : ∀ iss i, PreparedCanon (s.issueFault e.g iss i) := fun _ _ => faultNow_canon (issues_canon h ..) _
  unfold State.issueWord
  extract_lets iss act ts released
  split
  · exact h
  · split
    · exact fault ..
    · split
      · exact fault ..
      · split
        · trivial
        · split
          · exact fault ..
          · split <;> exact h

theorem prepare_canon (g : Group) (b : Bool) : PreparedCanon (s.prepare g b) := by
  have fault : ∀ iss i, PreparedCanon (s.issueFault g iss i) := fun _ _ => faultNow_canon (issues_canon h ..) _
  have noIssue : ∀ iss i, PreparedCanon (s.noIssueFault iss i) := fun _ _ => faultNow_canon (by exact h) _
  unfold State.prepare
  split
  · trivial
  · extract_lets pc bare
    clear_value pc bare
    split
    · trivial
    · split
      · trivial
      · split
        · exact noIssue ..
        · split
          · exact noIssue ..
          · extract_lets iss
            clear_value iss
            split
            · trivial
            · next e _ =>
              split
              · split
                · trivial
                · split <;> exact h
              · split
                · exact fault ..
                · split
                  · exact fault ..
                  · simp only []
                    split
                    · trivial
                    · exact issueWord_canon h ..

theorem execRecipeReplay_canon (gid tag : Nat) (remote : RemoteReply) : NextCanon (execRecipeReplay gid tag remote s) := by
  unfold execRecipeReplay
  split
  · split
    · exact h
    · split
      · next ht => exact (replay_canon _ _ _ _ _ h).ok ht
      · exact failReplay_canon h ..
      · rw [nextCanon_next]
        split
        · exact failReplay_canon (by exact h) ..
        · rwa [State.Canon, State.askReplay, State.updGroup_mem, fillRemote_mem]
        · split
          · rwa [State.Canon, State.askReplay, State.updGroup_mem, engineFault_mem]
          · exact h
  · exact h

/-! ### Every word, event and command -/

theorem exec_canon (i : Instr) : NextCanon (exec i s) := by
  cases i with
  | iaddR | isub | imulR | andR | orR | xorR => exact binary_canon (h := h) ..
  | iaddI | imulI | andI | orI | xorI => exact binaryI_canon (h := h) ..
  | iadd64 => exact execIadd64_canon (h := h) ..
  | imulh => exact execImulh_canon (h := h) ..
  | imad => exact execImad_canon (h := h) ..
  | imadw => exact execImadw_canon (h := h) ..
  | imin => exact execImin_canon (h := h) ..
  | imax => exact execImax_canon (h := h) ..
  | iabs => exact execIabs_canon (h := h) ..
  | ineg | notW | popc | clz | brev => exact unary_canon (h := h) ..
  | mov => exact execMov_canon (h := h) ..
  | shlR => exact execShlR_canon (h := h) ..
  | shlI => exact execShlI_canon (h := h) ..
  | shrR => exact execShrR_canon (h := h) ..
  | shrNI => exact execShrNI_canon (h := h) ..
  | shrSI => exact execShrSI_canon (h := h) ..
  | rot => exact execRot_canon (h := h) ..
  | lut3 => exact execLut3_canon (h := h) ..
  | bfx => exact execBfx_canon (h := h) ..
  | bfi => exact execBfi_canon (h := h) ..
  | leaX1X2 | leaX4X8 => exact lea_canon (h := h) ..
  | movi => exact execMovi_canon (h := h) ..
  | icmpR => exact execIcmpR_canon (h := h) ..
  | icmpI => exact execIcmpI_canon (h := h) ..
  | fcmpF32 | fcmpF64 | fcmpF16 => exact fcmpWord_canon (h := h) ..
  | plut => exact execPlut_canon (h := h) ..
  | p2v => exact execP2v_canon (h := h) ..
  | v2p => exact execV2p_canon (h := h) ..
  | ptestNr => exact execPtestNr_canon (h := h) ..
  | sel => exact execSel_canon (h := h) ..
  | bra => exact execBra_canon (h := h) ..
  | brd => exact execBrd_canon (h := h) ..
  | call => exact execCall_canon (h := h) ..
  | calli => exact execCalli_canon (h := h) ..
  | nop g => exact execNop_canon h g
  | ret => exact execRet_canon (h := h) ..
  | exit => exact execExit_canon (h := h) ..
  | kill => exact execKill_canon (h := h) ..
  | lperm => exact execLperm_canon (h := h) ..
  | qxchH => exact execQxchH_canon (h := h) ..
  | qxchV => exact execQxchV_canon (h := h) ..
  | qxchD => exact execQxchD_canon (h := h) ..
  | qbcast => exact execQbcast_canon (h := h) ..
  | pollAnd => exact execPollAnd_canon (h := h) ..
  | pollOr => exact execPollOr_canon (h := h) ..
  | pollSame => exact execPollSame_canon (h := h) ..
  | pick => exact execPick_canon (h := h) ..
  | pmask => exact execPmask_canon (h := h) ..
  | xred => exact execXred_canon (h := h) ..
  | smov => exact execSmov_canon (h := h) ..
  | ssetFflags => exact execSsetFflags_canon (h := h) ..
  | ssetFrnd => exact execSsetFrnd_canon (h := h) ..
  | ssetFtrap => exact execSsetFtrap_canon (h := h) ..
  | ldGB8 | ldGB16 | ldGB32 | ldGB64 | ldGB128 => exact loadGlobal_canon (h := h) ..
  | stGB8 | stGB16 | stGB32 | stGB64 | stGB128 => exact storeGlobal_canon (h := h) ..
  | ldL => exact loadLocal_canon (h := h) ..
  | stL => exact execStL_canon (h := h) ..
  | ldc => exact loadConstant_canon (h := h) ..
  | ldt => exact loadTile_canon (h := h) ..
  | stT => exact execStT_canon (h := h) ..
  | atomAdd | atomAnd | atomOr | atomXor | atomMinN | atomMinS | atomMaxN | atomMaxS | atomExch | atomCas | atomInc
    | atomFaddF32 => exact atomic_canon (h := h) ..
  | redAdd | redAnd | redOr | redXor | redMinN | redMinS | redMaxN | redMaxS | redInc | redFaddF32 => exact reduce_canon (h := h) ..
  | fence => exact execFence_canon (h := h) ..
  | pfence g m sc n => exact execPfence_canon g m sc n s h
  | bar g => exact execBar_canon (g := g) (h := h) ..
  | arrive => exact execArrive_canon (h := h) ..
  | waitc => exact execWaitc_canon (h := h) ..
  | launch => exact execLaunch_canon (h := h) ..
  | cp => exact execCp_canon (h := h) ..
  | cpclose => exact execCpclose_canon (h := h) ..
  | cpwait => exact execCpwait_canon (h := h) ..
  | preq => exact execPreq_canon (h := h) ..
  | lock => exact execLock_canon (h := h) ..
  | unlock => exact execUnlock_canon (h := h) ..
  | stmap => exact execStmap_canon (h := h) ..
  | stunmap => exact execStunmap_canon (h := h) ..
  | stflush => exact execStflush_canon (h := h) ..
  | lsaddF32 | lsaddI32 => exact lsadd_canon (h := h) ..
  | fadd | fsub | fmul | ffma => exact fp32Or16_canon (h := h) ..
  | faddF64 | fsubF64 | fmulF64 | ffmaF64 | fminF64 | fmaxF64 | fminnumF64 | fmaxnumF64 => exact fp64Word_canon (h := h) ..
  | fminF32 | fmaxF32 | fminnumF32 | fmaxnumF32 => exact minMax32_canon (h := h) ..
  | fscale => exact execFscale_canon (h := h) ..
  | vrsqe => exact execVrsqe_canon (h := h) ..
  | fdivF32 | fdivF64 => exact longDiv_canon (h := h) ..
  | fsqrtF32 | fsqrtF64 | frcpF32 | frcpF64 | fexp2F32 | flog2F32 | fsinF32 | fcosF32 => exact longUnary_canon (h := h) ..
  | frndF32 => exact execFrndF32_canon (h := h) ..
  | frndF64 => exact execFrndF64_canon (h := h) ..
  | fclassF32 | fclassF64 => exact fclassWord_canon (h := h) ..
  | fjoin => exact execFjoin_canon (h := h) ..
  | fsplitRow => exact execFsplitRow_canon (h := h) ..
  | fsplitCol => exact execFsplitCol_canon (h := h) ..
  | fcvt => exact execFcvt_canon (h := h) ..
  | mma => exact execMma_canon (h := h) ..
  | mmaj => exact execMmaj_canon (h := h) ..
  | mwait g => exact execMwait_canon (g := g) (h := h)
  | macc => exact execMacc_canon (h := h) ..
  | mzero => exact execMzero_canon (h := h) ..
  | mld => exact execMld_canon (h := h) ..
  | mdrain => exact execMdrain_canon (h := h) ..
  | mquant => exact execMquant_canon (h := h) ..
  | pbind => exact execPbind_canon (h := h) ..
  | pstale => exact execPstale_canon (h := h) ..
  | pstat => exact execPstat_canon (h := h) ..
  | psettle => exact execPsettle_canon (h := h) ..
  | psettleAsync => exact execPsettleAsync_canon (h := h) ..
  | punbind => exact execPunbind_canon (h := h) ..
  | prefresh => exact execPrefresh_canon (h := h) ..
  | skadd => exact execSkadd_canon (h := h) ..
  | skqry => exact execSkqry_canon (h := h) ..
  | skinit => exact execSkinit_canon (h := h) ..
  | skscale => exact execSkscale_canon (h := h) ..
  | skstat => exact execSkstat_canon (h := h) ..
  | skmerge => exact execSkmerge_canon (h := h) ..
  | rtag => exact execRtag_canon (h := h) ..
  | runtag => exact execRuntag_canon (h := h) ..
  | trap | bkpt => exact softTrap_canon (h := h) ..
  | hrd => exact execHrd_canon (h := h) ..
  | hwr => exact execHwr_canon (h := h) ..
  | eretC => exact execEretC_canon (h := h) ..
  | eretX => exact execEretX_canon (h := h) ..
  | tlbinv => exact execTlbinv_canon (h := h) ..
  | tlbinvCtx g => exact execTlbinvCtx_canon h g
  | ebudRd => exact execEbudRd_canon (h := h) ..
  | ebudSet => exact execEbudSet_canon (h := h) ..
  | stopr => exact execStopr_canon (h := h) ..
  | himm p i => exact holdHint_canon h (.himm p i)
  | hoff o => exact holdHint_canon h (.hoff o)
  | hgrd v n p => exact holdHint_canon h (.hgrd v n p)
  | hsem x c => exact holdHint_canon h (.hsem x c)
  | hrnd m => exact holdHint_canon h (.hrnd m)
  | hsat x r t => exact holdHint_canon h (.hsat x r t)
  | hdet => exact holdHint_canon h (.hdet)
  | hivl => exact execHivl_canon (h := h) ..
  | createContext => exact execCreateContext_canon (h := h) ..
  | destroyContext => exact execDestroyContext_canon (h := h) ..
  | map => exact execMap_canon (h := h) ..
  | exportFrame => exact execExportFrame_canon (h := h) ..
  | unmap => exact execUnmap_canon (h := h) ..
  | withdrawExport => exact execWithdrawExport_canon (h := h) ..
  | loadImage => exact execLoadImage_canon (h := h) ..
  | start => exact execStart_canon (h := h) ..
  | halt => exact execHalt_canon (h := h) ..
  | resume => exact execResume_canon (h := h) ..
  | vacate => exact execVacate_canon (h := h) ..
  | readStopRecord => exact execReadStopRecord_canon (h := h) ..
  | attest => exact execAttest_canon (h := h) ..
  | setEnergyBudget => exact execSetEnergyBudget_canon (h := h) ..
  | queryIdentity | queryPublicKey | queryErrorCounts | queryThermal => exact query_canon (h := h) ..
  | queryContext => exact execQueryContext_canon (h := h) ..
  | reset => exact execReset_canon (h := h) ..
  | thermalThrottle => exact execThermalThrottle_canon (h := h) ..
  | thermalTrip => exact execThermalTrip_canon (h := h) ..
  | tripReset => exact execTripReset_canon (h := h) ..
  | clockLowering => exact execClockLowering_canon (h := h) ..
  | energyCountUpdate => exact execEnergyCountUpdate_canon (h := h) ..
  | linkRetry => exact execLinkRetry_canon (h := h) ..
  | requestTimeout => exact execRequestTimeout_canon (h := h) ..
  | remoteRequestArrival => exact execRemoteRequestArrival_canon (h := h) ..
  | remoteMergeArrival => exact execRemoteMergeArrival_canon (h := h) ..
  | hostFWrite => exact execHostFWrite_canon (h := h) ..
  | cacheWriteBack => exact execCacheWriteBack_canon (h := h) ..
  | thermosBackgroundApply => exact execThermosBackgroundApply_canon (h := h) ..
  | loadDataReturn => exact execLoadDataReturn_canon (h := h) ..
  | pageMigrationComplete => exact execPageMigrationComplete_canon (h := h) ..
  | skmergeComplete => exact execSkmergeComplete_canon (h := h) ..
  | hotnessNotification => exact execHotnessNotification_canon (h := h) ..
  | releaseComplete => exact execReleaseComplete_canon (h := h) ..
  | waitcSatisfied => exact execWaitcSatisfied_canon (h := h) ..
  | clusterPlacement => exact execClusterPlacement_canon (h := h) ..
  | waitingWorkgroupRestore => exact execWaitingWorkgroupRestore_canon (h := h) ..
  | clusterRestore => exact execClusterRestore_canon (h := h) ..
  | recipeReplay => exact execRecipeReplay_canon (h := h) ..
  | atomResultReturn => exact execAtomResultReturn_canon (h := h) ..
  | pbindComplete => exact execPbindComplete_canon (h := h) ..
  | psettleComplete => exact execPsettleComplete_canon (h := h) ..
  | punbindComplete => exact execPunbindComplete_canon (h := h) ..
  | prefreshComplete => exact execPrefreshComplete_canon (h := h) ..
  | thermosStatusReply => exact execThermosStatusReply_canon (h := h) ..
  | fpLongOpComplete => exact execFpLongOpComplete_canon (h := h) ..
  | mmaComplete => exact execMmaComplete_canon (h := h) ..
  | mldComplete => exact execMldComplete_canon (h := h) ..
  | mdrainWriteComplete => exact execMdrainWriteComplete_canon (h := h) ..
  | mmajInstanceStart => exact execMmajInstanceStart_canon (h := h) ..
  | mmajComplete => exact execMmajComplete_canon (h := h) ..
  | copyComplete => exact execCopyComplete_canon (h := h) ..
  | pageRequestService => exact execPageRequestService_canon (h := h) ..
  | sketchRequestPerformed => exact execSketchRequestPerformed_canon (h := h) ..
  | hotnessDecay => exact execHotnessDecay_canon (h := h) ..
  | pfenceComplete => exact execPfenceComplete_canon (h := h) ..
  | tlbinvSweepComplete => exact execTlbinvSweepComplete_canon (h := h) ..
  | launchAdmissionReply => exact execLaunchAdmissionReply_canon (h := h) ..
  | launchCompletionSignal => exact execLaunchCompletionSignal_canon (h := h) ..
  | waitingWorkgroupSave => exact execWaitingWorkgroupSave_canon (h := h) ..
  | groupVacateStop => exact execGroupVacateStop_canon (h := h) ..
  | vacateReply => exact execVacateReply_canon (h := h) ..
  | fastFileChunkFill => exact execFastFileChunkFill_canon (h := h) ..
  | handlerGroupFormation => exact execHandlerGroupFormation_canon (h := h) ..
  | originSlotResume => exact execOriginSlotResume_canon (h := h) ..
  | unitStop => exact execUnitStop_canon (h := h) ..
  | lockStatusReturn => exact execLockStatusReturn_canon (h := h) ..
  | maccMzeroMquantComplete => exact execMaccMzeroMquantComplete_canon (h := h) ..
  | remoteReadLineDrop => exact execRemoteReadLineDrop_canon (h := h) ..
  | uncorrectableError => exact execUncorrectableError_canon (h := h) ..

/-! ### What a turn offers (10, R191) -/

/-- What a turn comes to: a state, a word or event that runs in a state, or the outcome of an event. -/
def TurnCanon : Turn → Prop
  | .done t => t.Canon
  | .run _ t => t.Canon
  | .out o => NextCanon o

theorem advanceClock_canon (clocks ns : Nat) : (s.advance clocks ns).Canon := settleDeps_canon _ h

theorem part_canon (id n : Nat) : (s.part id n).Canon := by
  unfold State.part
  split
  · exact h
  · split
    · exact copyPart_canon (h := h) ..
    · exact mldPart_canon (h := h) ..
    · exact drainPart_canon (h := h) ..
    · simp only []
      split
      · exact h
      · exact copyLine_wf _ _ _ h
    · exact h

theorem attempt_canon (a : Act) : TurnCanon (s.attempt a) := by
  cases a with
  | idle => exact h
  | corrected d => exact corrected_canon h d
  | part id n => exact part_canon h id n
  | readDep ctx launch remote => exact (congrArg Mem.wf (readDep_mem ..)).trans h
  | message node bytes source =>
    dsimp only [State.attempt]
    split
    · exact h
    · exact noCommand_canon h _
  | event i =>
    dsimp only [State.attempt]
    split <;> exact h
  | issue gid b =>
    dsimp only [State.attempt]
    split
    · exact h
    · split
      · exact h
      · split
        · exact h
        · next p q _ _ =>
          have prepared := prepare_canon h p b
          split
          · next ht => rwa [ht] at prepared
          · next ht => rwa [ht] at prepared
          · exact h

end Forms

/-! ### The events that are due (10, R191) -/

/-- An event that keeps memory in its canonical form. -/
def EventCanon (f : Event) : Prop := ∀ u : State, u.Canon → NextCanon (f u)

theorem eventOf_canon (s : State) (r : Request) : EventCanon (s.eventOf r) := by
  unfold State.eventOf
  split
  · exact fun _ h => execLoadDataReturn_canon (h := h) ..
  · exact fun _ h => execLoadDataReturn_canon (h := h) ..
  · exact fun _ h => execLoadDataReturn_canon (h := h) ..
  · exact fun _ h => execFpLongOpComplete_canon (h := h) ..
  · exact fun _ h => execMmaComplete_canon (h := h) ..
  · exact fun _ h => execMaccMzeroMquantComplete_canon (h := h) ..
  · exact fun _ h => execMldComplete_canon (h := h) ..
  · exact fun _ h => execMdrainWriteComplete_canon (h := h) ..
  · exact fun _ h => execAtomResultReturn_canon (h := h) ..
  · exact fun _ h => execAtomResultReturn_canon (h := h) ..
  · exact fun _ h => execAtomResultReturn_canon (h := h) ..
  · exact fun _ h => execLockStatusReturn_canon (h := h) ..
  · exact fun _ h => execReleaseComplete_canon (h := h) ..
  · exact fun _ h => execPfenceComplete_canon (h := h) ..
  · exact fun _ h => execTlbinvSweepComplete_canon (h := h) ..
  · exact fun _ h => execCopyComplete_canon (h := h) ..
  · exact fun _ h => execPageRequestService_canon (h := h) ..
  · exact fun _ h => execPageMigrationComplete_canon (h := h) ..
  · exact fun _ h => execPageMigrationComplete_canon (h := h) ..
  · exact fun _ h => execSketchRequestPerformed_canon (h := h) ..
  · exact fun _ h => execSkmergeComplete_canon (h := h) ..
  · exact fun _ h => execSkmergeComplete_canon (h := h) ..
  · exact fun _ h => execLaunchAdmissionReply_canon (h := h) ..
  · exact fun _ h => execPbindComplete_canon (h := h) ..
  · exact fun _ h => execThermosStatusReply_canon (h := h) ..
  · exact fun _ h => execPsettleComplete_canon (h := h) ..
  · exact fun _ h => execPunbindComplete_canon (h := h) ..
  · exact fun _ h => execPrefreshComplete_canon (h := h) ..
  · split
    · exact fun _ h => execMmajComplete_canon (h := h) ..
    · exact fun _ h => execMmajInstanceStart_canon (h := h) ..

theorem duePlacements_canon {s : State} {f : Event} (hf : f ∈ s.duePlacements) : EventCanon f := by
  obtain ⟨c, -, hc⟩ := List.mem_flatMap.mp hf
  split at hc
  · cases hc
  · obtain ⟨l, -, hl⟩ := List.mem_filterMap.mp hc
    obtain ⟨ps, -, rfl⟩ := Option.map_eq_some_iff.mp hl
    exact fun _ h => execClusterPlacement_canon (h := h) ..

theorem dueSaves_canon {s : State} {f : Event} (hf : f ∈ s.dueSaves) : EventCanon f := by
  obtain ⟨w, -, hw⟩ := List.mem_filterMap.mp hf
  split at hw
  · split at hw
    · cases hw
      exact fun _ h => execWaitingWorkgroupSave_canon h ..
    · cases hw
  · cases hw

theorem dueRestores_canon {s : State} {f : Event} (hf : f ∈ s.dueRestores) : EventCanon f := by
  obtain ⟨w, -, hw⟩ := List.mem_flatMap.mp hf
  split at hw
  · cases hw
  · split at hw
    · cases hw
    · split at hw
      · obtain ⟨ps, -, rfl⟩ := List.mem_map.mp hw
        exact fun _ h => execClusterRestore_canon h ..
      · split at hw
        · cases hw
        · obtain ⟨core, -, rfl⟩ := List.mem_map.mp hw
          exact fun _ h => execWaitingWorkgroupRestore_canon h ..

theorem dueOfGroup_canon {s : State} {g : Group} {f : Event} (hf : f ∈ s.dueOfGroup g) : EventCanon f := by
  unfold State.dueOfGroup at hf
  rw [List.mem_append, List.mem_append] at hf
  obtain (hslot | hfill) | hstop := hf
  · obtain ⟨b, -, hb⟩ := List.mem_flatMap.mp hslot
    rw [List.mem_append] at hb
    obtain hwait | hreplay := hb
    · split at hwait
      · cases List.mem_singleton.mp hwait
        exact fun _ h => execWaitcSatisfied_canon (h := h) ..
      · cases List.mem_singleton.mp hwait
        exact fun _ h => execOriginSlotResume_canon h ..
      · cases hwait
    · split at hreplay
      · obtain ⟨t, -, rfl⟩ := List.mem_map.mp hreplay
        exact fun _ h => execRecipeReplay_canon h ..
      · cases hreplay
  · split at hfill
    · cases hfill
    · obtain ⟨c, -, rfl⟩ := List.mem_map.mp hfill
      exact fun _ h => execFastFileChunkFill_canon h ..
  · split at hstop
    · cases List.mem_singleton.mp hstop
      exact fun _ h => execGroupVacateStop_canon h ..
    · cases hstop

theorem dueOfContext_canon {s : State} {c : Context} {f : Event} (hf : f ∈ s.dueOfContext c) : EventCanon f := by
  unfold State.dueOfContext at hf
  rw [List.mem_append, List.mem_append, List.mem_append, List.mem_append] at hf
  obtain (((hlaunch | hunit) | hvacate) | hnotice) | hbinding := hf
  · obtain ⟨l, -, rfl⟩ := List.mem_map.mp hlaunch
    exact fun _ h => execLaunchCompletionSignal_canon (h := h) ..
  · split at hunit
    · obtain ⟨v, -, rfl⟩ := List.mem_map.mp hunit
      exact fun _ h => execUnitStop_canon h ..
    · cases hunit
  · split at hvacate
    · cases List.mem_singleton.mp hvacate
      exact fun _ h => execVacateReply_canon h ..
    · cases hvacate
  · obtain ⟨k, -, rfl⟩ := List.mem_map.mp hnotice
    exact fun _ h => execHotnessNotification_canon h ..
  · obtain ⟨b, -, rfl⟩ := List.mem_map.mp hbinding
    exact fun _ h => execThermosBackgroundApply_canon h ..

theorem due_canon {s : State} {f : Event} (hf : .event f ∈ s.due) : EventCanon f := by
  unfold State.due at hf
  simp only [] at hf
  rw [List.mem_append] at hf
  obtain hissue | hevent := hf
  · obtain ⟨x, -, hx⟩ := List.mem_filterMap.mp hissue
    obtain ⟨p, -, hp⟩ := Option.map_eq_some_iff.mp hx
    cases hp
  · obtain ⟨f', hmem, heq⟩ := List.mem_map.mp hevent
    cases heq
    rw [List.mem_append, List.mem_append, List.mem_append, List.mem_append, List.mem_append, List.mem_append, List.mem_append] at hmem
    obtain ((((((hrequest | hgroup) | hcontext) | hplacement) | hsave) | hrestore) | hcore) | htick := hmem
    · obtain ⟨r, -, rfl⟩ := List.mem_map.mp hrequest
      exact eventOf_canon s r
    · obtain ⟨g, -, hg⟩ := List.mem_flatMap.mp hgroup
      exact dueOfGroup_canon hg
    · obtain ⟨c, -, hc⟩ := List.mem_flatMap.mp hcontext
      exact dueOfContext_canon hc
    · exact duePlacements_canon hplacement
    · exact dueSaves_canon hsave
    · exact dueRestores_canon hrestore
    · obtain ⟨x, -, rfl⟩ := List.mem_map.mp hcore
      exact fun _ h => execHandlerGroupFormation_canon h _
    · rw [List.mem_append] at htick
      obtain hdecay | htrip := htick
      · split at hdecay
        · cases List.mem_singleton.mp hdecay
          exact fun _ h => execHotnessDecay_canon h
        · cases hdecay
      · split at htrip
        · split at htrip
          · cases List.mem_singleton.mp htrip
            exact fun _ h => execTripReset_canon h _
          · cases htrip
        · cases htrip

/-! ### A turn and a step -/

theorem dueTurn_canon {s : State} (h : s.Canon) : TurnCanon s.dueTurn := by
  have later := advanceClock_canon h 9 4
  unfold State.dueTurn
  simp only []
  split
  · exact attempt_canon later _
  · next hf => exact due_canon (List.mem_of_getElem? hf) _ later
  · exact later

theorem turn_canon {s : State} (h : s.Canon) : TurnCanon s.turn := by
  unfold State.turn
  split
  · exact attempt_canon (advanceClock_canon (by exact h) ..) _
  · exact dueTurn_canon h

theorem ends_canon (s : State) {o : Host.Outcome State Fault Refusal} (h : NextCanon o) : NextCanon (s.ends o) := by
  unfold State.ends
  split
  · exact mirror_wf _ _ h
  · exact h

theorem step_canon {s : State} (h : s.Canon) : NextCanon (step s) := by
  have taken := turn_canon h
  refine ends_canon s ?_
  split
  · next ht => rwa [ht] at taken
  · next ht =>
    rw [ht] at taken
    exact exec_canon taken _
  · next ht => rwa [ht] at taken

/-- Settles O60: every part of a step writes memory by setting, clearing or filtering bytes of a canonical one, or leaves it as it was. -/
theorem stepKeepsMemoryCanonical : Obligations.StepKeepsMemoryCanonical := by
  unfold Obligations.StepKeepsMemoryCanonical
  intro s t h hstep
  exact (step_canon h).next hstep

end Sys2Proof.Machine
end

section
/-! SUPPORT. What a word leaves that makes a request and goes on, or waits for it (06, R84, Table 6-4), and what its surroundings are in the state. -/

namespace Sys2Proof.Machine

section Words
variable {s : State} {e : Env} {i : Instr} {job : Job}

theorem submitWord_of (he : s.env = some e) (hexec : exec i s = .next (e.retire (e.submit job s))) : SubmitWord i s e job :=
  ⟨_, hexec, rfl, fun _ hk => (group_retire_other hk).trans (group_submit ..), group_retire ((group_submit ..).trans (env_group he))⟩

theorem group_await {u : State} {g : Group} (w : Wait) (hg : u.group? e.g.gid = some g) :
    (e.await w u).group? e.g.gid = some (g.updSlot e.iss.slotB fun x => { x with wait := some w, redo := none }) := by
  show State.group? (u.updGroup e.g.gid _) e.g.gid = _
  rw [group_updGroup _ _ _ fun _ => updSlot_gid .., hg, Option.map_some]

theorem group_await_other {u : State} {k : Nat} (w : Wait) (hk : k ≠ e.g.gid) : (e.await w u).group? k = u.group? k :=
  group_updGroup_other u _ _ _ (fun _ => updSlot_gid ..) hk

theorem holdWord_of (he : s.env = some e) (hexec : exec i s = .next (e.await (.request s.fresh) (e.submit job s))) : HoldWord i s e job :=
  ⟨_, hexec, rfl, fun _ hk => (group_await_other _ hk).trans (group_submit ..), group_await _ ((group_submit ..).trans (env_group he))⟩

/-- The context and the launch of the word that is being issued stand in the state. -/
theorem env_ctx (he : s.env = some e) : s.ctx? e.g.ctx = some e.c ∧ e.c.launch? e.g.launch = some e.l := by
  unfold State.env at he
  split at he
  · cases he
  · split at he
    · cases he
    · split at he
      · cases he
      next hc =>
        obtain ⟨l, hl, rfl⟩ := Option.map_eq_some_iff.mp he
        exact ⟨hc, hl⟩

theorem launch_no {c : Context} {n : Nat} {l : Launch} (h : c.launch? n = some l) : l.no = n := by simpa using List.find?_some h

theorem launch_updLaunch {c : Context} {n : Nat} {l : Launch} {f : Launch → Launch} (hf : ∀ l, (f l).no = l.no) (h : c.launch? n = some l) :
    (c.updLaunch n f).launch? n = some (f l) := by
  have hno : l.no = n := launch_no h
  rw [Context.launch?] at h
  rw [Context.launch?, Context.updLaunch, find_mapWhere _ _ _ (fun l _ => by rw [hf]), h, Option.map_some, if_pos (beq_iff_eq.mpr hno)]

/-- No lane that is at fault: no fault. -/
theorem laneFault_of_found {α : Type} {cause : Nat} {lanes : List Nat} {addr : Nat → Nat} {found : Nat → Option α}
    (h : ∀ i ∈ lanes, (found i).isSome = true) : laneFault cause (lanes.filter fun i => (found i).isNone) addr = none := by
  rw [List.filter_eq_nil_iff.mpr fun i hi => by simpa [Option.isSome_iff_ne_none] using h i hi]
  rfl

end Words

end Sys2Proof.Machine
end

section
/-! SUPPORT. Proofs about page requests, locks, sweeps of translations and budgets (10, R183, R185, R186; 11, R207, R208; 17, R322, R329, R330). -/

namespace Sys2Proof.Machine

/-! ### PREQ, LOCK and UNLOCK -/

/-- The lanes of a word for which PREQ, LOCK and UNLOCK act: active and no helper lanes (06, R80). -/
def Env.ownLanes (e : Env) (g : BitVec 3) : List Nat := (lanesOf (e.act g)).filter fun i => !e.g.isHelper i

/-- The leaf that the check of the access at a lane's address pair finds. -/
def Env.pageAt (e : Env) (s : State) (a : BitVec 7) (i : Nat) : Option Leaf := s.checkAccess e i ((e.g.lane i).dword (e.v a)) 1 .read

section Lanes
variable {s : State} {e : Env} {g : BitVec 3} {a : BitVec 7} {leaf : Nat → Leaf}
variable (hleaf : ∀ i ∈ e.ownLanes g, e.pageAt s a i = some (leaf i))
include hleaf

theorem laneFault_pageAt (addr : Nat → Nat) : laneFault 0x06 ((e.ownLanes g).filter fun i => (e.pageAt s a i).isNone) addr = none :=
  laneFault_of_found fun i hi => by rw [hleaf i hi]; rfl

theorem pagesAt_eq : (e.ownLanes g).filterMap (fun i => (e.pageAt s a i).map fun l => l.page) = (e.ownLanes g).map fun i => (leaf i).page := by
  rw [← List.filterMap_eq_map']
  exact List.filterMap_congr fun i hi => by rw [hleaf i hi]; rfl

variable (he : s.env = some e)
include he

theorem preq_submitWord {d : BitVec 7} {ctr : DWord} (hctr : e.agree g (fun l => l.dword (e.v d)) ctr)
    (hsome : (e.counterLeaf s ctr .write true).isSome = true) :
    SubmitWord (.preq g d a) s e (.preq (((e.ownLanes g).map fun i => (leaf i).page).eraseDups) ctr.toNat) := by
  refine submitWord_of he (inWord_ok he ?_)
  have hnone : ¬ (e.counterLeaf s ctr .write true).isNone = true := by simpa [Option.isSome_iff_ne_none] using hsome
  have hfault := laneFault_pageAt hleaf fun i => ((e.g.lane i).dword (e.v a)).toNat
  have hpages := pagesAt_eq hleaf
  simp only [Env.ownLanes, Env.pageAt] at hfault hpages
  simp only [uniform_of_agree hctr, if_neg hnone, hfault, hpages, Env.ownLanes]

theorem lock_longWord (d : BitVec 7) (la : BitVec 4) : LongWord (.lock g d a la) s e la (.lock (e.v d)
    ((e.ownLanes g).map fun i => (i, lockLine (leaf i) ((e.g.lane i).dword (e.v a)).toNat)) (e.act g &&& e.g.helpers)) := by
  refine longWord_of _ _ he (inWord_ok he ?_)
  have hfault := laneFault_pageAt hleaf fun i => ((e.g.lane i).dword (e.v a)).toNat
  simp only [Env.ownLanes, Env.pageAt, List.filter_filter] at hfault
  have hwanted : (e.ownLanes g).map (fun i => (i, (e.pageAt s a i).bind fun x => lockLine x ((e.g.lane i).dword (e.v a)).toNat)) =
      (e.ownLanes g).map fun i => (i, lockLine (leaf i) ((e.g.lane i).dword (e.v a)).toNat) :=
    List.map_congr_left fun i hi => by rw [hleaf i hi]; rfl
  simp only [Env.ownLanes, Env.pageAt] at hwanted
  simp only [Bool.and_comm (!e.g.isHelper _), hfault, hwanted, Env.ownLanes]

theorem unlock_holds : ∃ t, exec (.unlock g a) s = .next t ∧ t = { s with groups := t.groups, locked := t.locked, issue := none } ∧
    t.group? e.g.gid = some (e.g.goto e.iss.slotB (e.iss.pc + 4)) ∧
    ∀ k, k ∈ t.locked ↔ k ∈ s.locked ∧ ¬ (k.1 = e.g.ctx ∧ ∃ i ∈ e.ownLanes g, lockLine (leaf i) ((e.g.lane i).dword (e.v a)).toNat = some k.2) := by
  have hfault := laneFault_pageAt hleaf fun i => ((e.g.lane i).dword (e.v a)).toNat
  simp only [Env.ownLanes, Env.pageAt] at hfault
  have hlines : (e.ownLanes g).filterMap (fun i => (e.pageAt s a i).bind fun x => lockLine x ((e.g.lane i).dword (e.v a)).toNat) =
      (e.ownLanes g).filterMap fun i => lockLine (leaf i) ((e.g.lane i).dword (e.v a)).toNat :=
    List.filterMap_congr fun i hi => by rw [hleaf i hi]; rfl
  simp only [Env.ownLanes, Env.pageAt] at hlines
  refine ⟨e.retire { s with locked := s.locked.filter fun k => !(k.1 == e.g.ctx &&
    ((e.ownLanes g).filterMap fun i => lockLine (leaf i) ((e.g.lane i).dword (e.v a)).toNat).contains k.2) },
    inWord_ok he ?word, rfl, group_retire (env_group he), fun k => ?locked⟩
  case word => simp only [hfault, hlines, Env.ownLanes]
  case locked =>
    show k ∈ s.locked.filter _ ↔ _
    simp [Env.ownLanes, imp_iff_not_or]

end Lanes

/-! ### The words at the translations and the budget -/

/-- A launch after EBUD.set of a figure (17, R330). -/
def Launch.reserve (v : Nat) (l : Launch) : Launch := { l with reserved := max l.used (min l.reserved v) }

section Words
variable {s : State} {e : Env} {g : BitVec 3} {a : BitVec 7} (he : s.env = some e)
include he

theorem tlbinvCtx_holdWord (hp : e.privileged = true) : HoldWord (.tlbinvCtx g) s e (.tlbinv none) :=
  holdWord_of he (inWord_ok he (by simp only [privilege_ok hp]))

theorem tlbinv_holdWord (hp : e.privileged = true) {va : Nat} (hva : e.agree g (fun l => l.nat (e.v a) 8) va) :
    HoldWord (.tlbinv g a) s e (.tlbinv (some va)) :=
  holdWord_of he (inWord_ok he (by simp only [privilege_ok hp, uniform_of_agree hva, Option.getD_some]))

/-- A group that has no origins shows its own launch. -/
theorem ebudRd_longWord {d : BitVec 7} {la : BitVec 4} (hdet : e.l.det = false) (ho : e.g.origins = none) :
    LongWord (.ebudRd g d la) s e la (.load ((lanesOf (e.act g)).map fun i =>
      ⟨i, e.v d, leBytes 4 (min e.l.used (2 ^ 32 - 1)) ++ leBytes 4 (energyFigure s 0 e.c.remaining)⟩) [] [] none) :=
  have hshown : ∀ i, s.shown e i = (e.g, e.l, i) := fun i => by rw [State.shown, ho]; rfl
  longWord_of _ _ he (inWord_ok he (by simp only [hdet, hshown, Bool.false_eq_true, if_false]))

theorem stopr_longWord {d : BitVec 7} {la : BitVec 4} (hdet : e.l.det = false) (hp : e.privileged = true) :
    LongWord (.stopr g d a la) s e la (.load ((lanesOf (e.act g)).map fun i =>
      ⟨i, e.v d, leBytes 4 (e.c.stopWord ((e.g.lane i).word (e.v a)).toNat)⟩) [] [] none) :=
  longWord_of _ _ he (inWord_ok he (by simp only [hdet, privilege_ok hp, Bool.false_eq_true, if_false]))

theorem ebudSet_holds {v : Nat} (hv : e.agree g (fun l => l.nat (e.v a) 8) v) :
    ∃ t c, exec (.ebudSet g a) s = .next t ∧ t = { s with groups := t.groups, contexts := t.contexts, issue := none } ∧
      t.group? e.g.gid = some (e.g.goto e.iss.slotB (e.iss.pc + 4)) ∧ t.ctx? e.c.no = some c ∧
      c.launch? e.l.no = some { e.l with reserved := max e.l.used (min e.l.reserved v) } := by
  obtain ⟨hctx, hlaunch⟩ := env_ctx he
  have hc : e.c.no = e.g.ctx := ctx_no hctx
  have hl : e.l.no = e.g.launch := launch_no hlaunch
  have hgroup := env_group he
  refine ⟨e.retire (s.updLaunch e.c.no e.l.no (Launch.reserve v)), e.c.updLaunch e.l.no (Launch.reserve v),
    inWord_ok he (by simp only [uniform_of_agree hv]; rfl), rfl, group_retire hgroup, ?_, launch_updLaunch (fun _ => rfl) (hl ▸ hlaunch)⟩
  show State.ctx? (s.updCtx e.c.no fun c => c.updLaunch e.l.no (Launch.reserve v)) e.c.no = _
  rw [ctx_updCtx _ _ _ fun _ => by rfl, hc, hctx, Option.map_some]

end Words

/-! ### The answer of a lock, in the order of the checks (R186) -/

section LockOne
variable {s : State} {ctx n : Nat}

/-- The quota of a context or the set of a line leaves no place for one more pin (R186). -/
def State.lockFull (s : State) (ctx n : Nat) : Prop :=
  ((s.ctx? ctx).map (fun c => c.args.lockQuota)).getD 0 ≤ (s.locked.filter fun k => k.1 == ctx).length ∨
    8 ≤ ((s.locked.map fun k => k.2).eraseDups.filter fun k => lineSet k == lineSet n).length

theorem lockOne_poisoned (hp : homePoison s.poison n ≠ 0) : (s.lockOne ctx (some n)).2 = 3 := by
  simp only [State.lockOne, bne_iff_ne.mpr hp, if_true]

variable (hp : homePoison s.poison n = 0)
include hp

theorem lockOne_held (hmem : (ctx, n) ∈ s.locked) : s.lockOne ctx (some n) = (s, 0) := by
  simp [State.lockOne, hp, hmem]

variable (hmem : (ctx, n) ∉ s.locked)
include hmem

theorem lockOne_full (hfull : s.lockFull ctx n) : s.lockOne ctx (some n) = (s, 1) := by
  simp only [State.lockFull] at hfull
  simp [State.lockOne, hp, hmem, hfull]

theorem lockOne_pins (hfull : ¬ s.lockFull ctx n) : s.lockOne ctx (some n) = (({ s with locked := (ctx, n) :: s.locked } : State).putHome n, 0) := by
  simp only [State.lockFull] at hfull
  simp [State.lockOne, hp, hmem, hfull]

end LockOne

/-! ### The ends of requests -/

section Ends
variable {s : State} {id : Nat} {r : Request} (hr : s.live? id = some r)
include hr

theorem pageRequestService_resident {pages : List Nat} {ctr : Nat} {v : State} (hj : r.job = .preq pages ctr)
    (hpages : ∀ va ∈ pages, ∃ l, s.walkHome r.ctx va = some l ∧ l.res = true)
    (hsig : (s.setJob id (.preq [] ctr)).signalVa r.ctx (r.ctx, r.launch + 1) ctr = .ok v) (x : RemoteReply) :
    exec (.pageRequestService ⟨id, x⟩) s = .next ((s.setJob id (.preq [] ctr)).withAck r x (v.dropRequest id).settleEnds) := by
  have hserve : ∀ va ∈ pages, (s.servePage r.ctx va).1 = s := fun va hva => by
    obtain ⟨l, hwalk, hres⟩ := hpages va hva
    rw [State.servePage, hwalk]
    cases s.ctx? r.ctx with
    | none => rfl
    | some c => simp only [hres, if_true]
  have hfold : pages.foldl (fun s va => (s.servePage r.ctx va).1) s = s := by
    clear hj hpages
    induction pages with
    | nil => rfl
    | cons va pages ih =>
      rw [List.foldl_cons, hserve va List.mem_cons_self]
      exact ih fun w hw => hserve w (List.mem_cons_of_mem _ hw)
  simp only [exec_pageRequestService, execPageRequestService, hr, hj, hfold, hsig]

theorem lockStatusReturn_one {dest lane : Nat} {line : Option Nat} (hj : r.job = .lock dest [(lane, line)] 0) :
    exec (.lockStatusReturn id) s = .next ((s.lockOne r.ctx line).1.deliver r [⟨lane, dest, leBytes 4 (s.lockOne r.ctx line).2⟩]) := by
  simp only [exec_lockStatusReturn, execLockStatusReturn, hr, hj]
  rfl

theorem tlbinvSweepComplete_of {page : Option Nat} (hj : r.job = .tlbinv page) :
    exec (.tlbinvSweepComplete id) s = .next (((s.sweepTlb r.ctx page).dropRequest id).wake r) := by
  simp only [exec_tlbinvSweepComplete, execTlbinvSweepComplete, hr, hj]

end Ends

/-! ### The sweep (R183) -/

/-- Whether a sweep takes a translation. -/
def Leaf.swept (l : Leaf) (ctx : Nat) (page : Option Nat) : Bool := l.ctx == ctx && match page with | none => true | some va => l.covers ctx va

section Sweep
variable {s : State} {ctx : Nat} {page : Option Nat} {l : Leaf} (hl : l.swept ctx page = true)
include hl

theorem not_mem_filter_swept (ls : List Leaf) : l ∉ ls.filter fun l => !l.swept ctx page := by simp [hl]

theorem sweepTlb_cores : ∀ c ∈ (s.sweepTlb ctx page).cores, l ∉ c.2.tlb := by
  intro c hc
  obtain ⟨c, -, rfl⟩ := List.mem_map.mp hc
  exact not_mem_filter_swept hl c.2.tlb

theorem sweepTlb_engines : ∀ x ∈ (s.sweepTlb ctx page).engineTlb, l ∉ x.2 := by
  intro x hx
  obtain ⟨x, -, rfl⟩ := List.mem_map.mp hx
  exact not_mem_filter_swept hl x.2

theorem sweepTlb_lanes : ∀ g ∈ (s.sweepTlb ctx page).groups, ∀ k ∈ g.lanes, k.lastPage ≠ some l := by
  intro g hg k hk
  obtain ⟨g, -, rfl⟩ := List.mem_map.mp hg
  obtain ⟨k, -, rfl⟩ := List.mem_map.mp hk
  change (match k.lastPage with | some p => if p.swept ctx page = true then { k with lastPage := none } else k | none => k).lastPage ≠ some l
  cases hlast : k.lastPage with
  | none => exact fun h => nomatch hlast.symm.trans h
  | some p =>
    by_cases hp : p.swept ctx page = true
    · simp only [hp, if_true]; exact nofun
    · simp only [hp, Bool.false_eq_true, if_false, hlast, ne_eq, Option.some.injEq]
      exact fun h => hp (h ▸ hl)

end Sweep

theorem sweepTlb_walks (s : State) (ctx : Nat) (page : Option Nat) : ∀ d ∈ (s.sweepTlb ctx page).dies, ∀ w ∈ d.walk, w.ctx ≠ ctx := by
  intro d hd w hw
  obtain ⟨d, -, rfl⟩ := List.mem_map.mp hd
  simpa using (List.mem_filter.mp hw).2

/-- Settles O42: each word by the request or the state that it leaves, LOCK's answers in the order of its checks, the ends of the requests, and what a sweep
takes from each holder. -/
theorem residencyLocksAndBudgets : Obligations.ResidencyLocksAndBudgets := by
  unfold Obligations.ResidencyLocksAndBudgets
  refine ⟨fun s e g d a la he => ⟨fun leaf hleaf => ?lanes, fun hp => ?sweeps, ebudRd_longWord he, stopr_longWord he, fun v hact hv => ?reserve⟩,
    fun s ctx n => ?answers, fun s id r hr => ?ends, fun s ctx page l hctx hpage => ?swept⟩
  case lanes =>
    exact ⟨fun ctr hact hctr => preq_submitWord hleaf he ⟨hact, hctr⟩, lock_longWord hleaf he d la, unlock_holds hleaf he⟩
  case sweeps => exact ⟨tlbinvCtx_holdWord he hp, fun va hact hva => tlbinv_holdWord he hp ⟨hact, hva⟩⟩
  case reserve => exact ebudSet_holds he ⟨hact, hv⟩
  case answers =>
    refine ⟨rfl, lockOne_poisoned, lockOne_held, fun hp hmem => ⟨lockOne_full hp hmem, fun hfull => ?_⟩⟩
    rw [lockOne_pins hp hmem hfull]
    exact ⟨rfl, rfl⟩
  case ends =>
    exact ⟨fun pages ctr v hj hpages hsig x => pageRequestService_resident hr hj hpages hsig x, fun dest lane line => lockStatusReturn_one hr,
      fun page => tlbinvSweepComplete_of hr⟩
  case swept =>
    have hl : l.swept ctx page = true := by
      cases page with
      | none => simp [Leaf.swept, hctx]
      | some va => simp [Leaf.swept, hctx, hpage va rfl]
    exact ⟨sweepTlb_cores hl, sweepTlb_engines hl, sweepTlb_lanes hl, sweepTlb_walks s ctx page⟩

end Sys2Proof.Machine
end

section
/-! SUPPORT. Proofs about copies, their batches and the stash windows (10, R177, R178, R187; 11, R204–R206, R209, R210). -/

namespace Sys2Proof.Machine

/-! ### The lanes that act, and their requests -/

theorem mem_ownLanes {e : Env} {g : BitVec 3} {n : Nat} : n ∈ e.ownLanes g ↔ (e.storing g).getLsbD n = true := by
  have hlt : (e.act g).getLsbD n = true → n < 32 := fun h => BitVec.lt_of_getLsbD h
  simp only [Env.ownLanes, List.mem_filter, mem_lanesOf, Env.storing, BitVec.getLsbD_and, BitVec.getLsbD_not, Group.isHelper]
  grind

theorem lanesOf_storing (e : Env) (g : BitVec 3) : lanesOf (e.storing g) = e.ownLanes g := by
  rw [lanesOf, Env.ownLanes, lanesOf, List.filter_filter]
  refine List.filter_congr fun n hn => ?_
  have hown := mem_ownLanes (e := e) (g := g) (n := n)
  rw [Env.ownLanes, lanesOf, List.filter_filter, List.mem_filter, and_iff_right hn] at hown
  exact Bool.eq_iff_iff.mpr hown.symm

/-- Requests made one after another join those outstanding, each with its job, and nothing else differs. -/
theorem submits_eq {α : Type} (e : Env) (job : α → Job) (xs : List α) (s : State) : ∃ new : List Request,
    xs.foldl (fun s x => e.submit (job x) s) s = { s with requests := s.requests ++ new, fresh := s.fresh + new.length } ∧
    new.length = xs.length ∧ ∀ x ∈ xs, ∃ r ∈ new, r.gid = e.g.gid ∧ r.job = job x := by
  induction xs generalizing s with
  | nil => exact ⟨[], by simp, rfl, nofun⟩
  | cons x xs ih =>
    obtain ⟨new, hfold, hlen, hjobs⟩ := ih (e.submit (job x) s)
    refine ⟨e.request s (job x) :: new, ?_, by simp [hlen], ?_⟩
    · rw [List.foldl_cons, hfold]
      simp [Env.submit, State.tick, Nat.add_right_comm, Nat.add_assoc]
    · intro y hy
      obtain rfl | hy := List.mem_cons.mp hy
      · exact ⟨_, List.mem_cons_self, rfl, rfl⟩
      · obtain ⟨r, hr, hrest⟩ := hjobs y hy
        exact ⟨r, List.mem_cons_of_mem _ hr, hrest⟩

/-- The checks of a copy block answer the copy that the block describes (R205). -/
theorem checkCopy_ok {e : Env} {s : State} {i a d : Nat} {c : Copy} (h : e.checkCopy s i a d = .ok c) : c = copyOf (e.g.lane i) a d := by
  unfold Env.checkCopy at h
  dsimp only at h
  repeat' split at h
  all_goals cases h
  all_goals rfl

section Copies
variable {s : State} {e : Env} {g : BitVec 3} {d a : BitVec 7} (he : s.env = some e)
include he

/-- A CP whose checks find every copy makes their requests. -/
theorem cp_eq {c : Nat → Copy} (hdet : e.l.det = false) (hh : e.g.isHandler = false)
    (hc : ∀ n, (e.storing g).getLsbD n = true → e.checkCopy s n (e.v a) (e.v d) = .ok (c n)) :
    exec (.cp g d a) s = .next (e.retire (((e.ownLanes g).map fun i => (i, c i)).foldl
      (fun s' x => e.submit (.copy x.2 none (((s.wgOf e.g).map fun w => w.wid).getD 0) 0) s') s)) := by
  have hfound : (e.ownLanes g).map (fun i => (i, e.checkCopy s i (e.v a) (e.v d))) = (e.ownLanes g).map fun i => (i, .ok (c i)) :=
    List.map_congr_left fun i hi => by rw [hc i (mem_ownLanes.mp hi)]
  simp only [Env.ownLanes] at hfound ⊢
  refine inWord_ok he ?_
  simp only [hfound, hdet, hh, Bool.false_and, Bool.false_eq_true, if_false, stamp_of_not_det hdet]
  simp

theorem cp_holds {c : Nat → Copy} (hdet : e.l.det = false) (hh : e.g.isHandler = false)
    (hc : ∀ n, (e.storing g).getLsbD n = true → e.checkCopy s n (e.v a) (e.v d) = .ok (c n)) :
    ∃ t new, exec (.cp g d a) s = .next t ∧ t = { s with groups := t.groups, requests := s.requests ++ new, fresh := s.fresh + new.length, issue := none } ∧
      new.length = popcount (e.storing g) ∧ (∀ n, (e.storing g).getLsbD n = true →
        ∃ r ∈ new, r.gid = e.g.gid ∧ ∃ wid, r.job = .copy (copyOf (e.g.lane n) (e.v a) (e.v d)) none wid 0) ∧
      (∀ k, k ≠ e.g.gid → t.group? k = s.group? k) ∧ t.group? e.g.gid = some (e.g.goto e.iss.slotB (e.iss.pc + 4)) := by
  obtain ⟨new, hfold, hlen, hjobs⟩ := submits_eq e (fun x : Nat × Copy => .copy x.2 none (((s.wgOf e.g).map fun w => w.wid).getD 0) 0)
    ((e.ownLanes g).map fun i => (i, c i)) s
  have hgroup := env_group he
  have hexec := cp_eq he hdet hh hc
  rw [hfold] at hexec
  refine ⟨_, new, hexec, rfl, ?count, fun n hn => ?jobs, fun k hk => group_retire_other hk, group_retire hgroup⟩
  case count => rw [hlen, popcount, lanesOf_storing, List.length_map]
  case jobs =>
    obtain ⟨r, hr, hgid, hjob⟩ := hjobs (n, c n) (List.mem_map_of_mem (mem_ownLanes.mpr hn))
    exact ⟨r, hr, hgid, _, by rw [hjob, checkCopy_ok (hc n hn)]⟩

/-- What CPCLOSE does before its request is made: the open copies join the next batch, which the group counts (R206). -/
def State.withBatch (s : State) (gid n : Nat) : State := (s.closeBatch gid n).updGroup gid fun x => { x with batch := n }

theorem cpclose_eq {la : BitVec 4} (hbatch : e.g.batch + 1 < 2 ^ 32) : exec (.cpclose g d la) s = .next (e.launchLong la
    (.load ((lanesOf (e.act g)).map fun i => ⟨i, e.v d, leBytes 4 (e.g.batch + 1)⟩) [] [] none) (s.withBatch e.g.gid (e.g.batch + 1))) :=
  inWord_ok he (by simp only [if_neg (Nat.not_le.mpr hbatch)]; rfl)

theorem cpclose_holds {la : BitVec 4} (hbatch : e.g.batch + 1 < 2 ^ 32) :
    ∃ t grp, exec (.cpclose g d la) s = .next t ∧ t.mem = s.mem ∧ t.requests = (s.closeBatch e.g.gid (e.g.batch + 1)).requests ++
      [e.request s (.load ((lanesOf (e.act g)).map fun i => ⟨i, e.v d, leBytes 4 (e.g.batch + 1)⟩) [] [] none)] ∧
      t.group? e.g.gid = some grp ∧ grp.batch = e.g.batch + 1 ∧ grp.lanes = e.g.lanes := by
  have hgroup : (s.withBatch e.g.gid (e.g.batch + 1)).group? e.g.gid = some { e.g with batch := e.g.batch + 1 } := by
    rw [State.withBatch, group_updGroup _ _ _ fun _ => by rfl]
    exact congrArg (Option.map _) (env_group he)
  exact ⟨_, _, cpclose_eq he hbatch, launchLong_mem .., congrArg State.requests (launchLong_frame ..), group_launchLong la _ hgroup, congrArg Group.batch (onlyPaths_goto ..), goto_lanes_eq ..⟩

/-! ### CPWAIT (R206) -/

variable {n : Word} (hn : e.agree g (fun l => l.word (e.v d)) n)
include hn

theorem cpwait_faults (hopen : e.g.batch < n.toNat) : Faults (.cpwait g d) s e .operand :=
  inWord_error he (by simp only [uniform_of_agree hn, if_pos hopen])

variable (hclosed : n.toNat ≤ e.g.batch)
include hclosed

theorem cpwait_goes_on (hbusy : s.batchBusy e.g.gid n.toNat = false) : exec (.cpwait g d) s = .next (e.retire s) :=
  inWord_ok he (by simp only [uniform_of_agree hn, if_neg (Nat.not_lt.mpr hclosed), hbusy, Bool.false_eq_true, if_false])

theorem cpwait_waits (hbusy : s.batchBusy e.g.gid n.toNat = true) : ∃ t, exec (.cpwait g d) s = .next t ∧ OnlyGroup s t e.g.gid ∧
    t.group? e.g.gid = some (e.g.updSlot e.iss.slotB fun x => { x with wait := some (.batch n.toNat), redo := none }) :=
  ⟨_, inWord_ok he (by simp only [uniform_of_agree hn, if_neg (Nat.not_lt.mpr hclosed), hbusy, if_true]),
    ⟨rfl, fun _ hk => group_await_other _ hk⟩, group_await _ (env_group he)⟩

end Copies

/-! ### Stash windows (R177, R178, R209, R210) -/

theorem wg_updWg {s : State} {n : Nat} {w : Workgroup} {f : Workgroup → Workgroup} (hf : ∀ w, (f w).wid = w.wid) (h : s.wg? n = some w) :
    (s.updWg n f).wg? n = some (f w) := by
  have hwid : w.wid = n := by simpa using List.find?_some h
  rw [State.wg?] at h
  rw [State.wg?, State.updWg, find_mapWhere _ _ _ (fun w _ => by rw [hf]), h, Option.map_some, if_pos (beq_iff_eq.mpr hwid)]

theorem updWg_id (s : State) (n : Nat) : s.updWg n (fun w => w) = s := by
  rw [State.updWg, mapWhere]
  simp

theorem win_ne_of_endStash (w : Workgroup) (n : Nat) : ∀ x ∈ (w.endStash n).stashes, x.win ≠ n := by
  rw [Workgroup.endStash]
  split
  next hnone => simpa using List.find?_eq_none.mp hnone
  next => intro x hx; simpa using (List.mem_filter.mp hx).2

/-- A workgroup after STMAP of a window (R209). -/
def Workgroup.remap (x : Stash) (w : Workgroup) : Workgroup := { w.endStash x.win with stashes := (w.endStash x.win).stashes ++ [x] }

theorem remap_wid (x : Stash) (w : Workgroup) : (w.remap x).wid = w.wid := by
  rw [Workgroup.remap, Workgroup.endStash]
  split <;> rfl

theorem remap_of_no_stashes {w : Workgroup} (hs : w.stashes = []) (x : Stash) : w.remap x = { w with stashes := [x] } := by
  have hend : w.endStash x.win = w := by rw [Workgroup.endStash, hs]; rfl
  rw [Workgroup.remap, hend, hs]
  rfl

theorem flush_of_no_stashes {w : Workgroup} (hs : w.stashes = []) (e : Env) (act : BitVec 32) (win : Nat) (s : State) : e.flush act w win s = .ok s := by
  rw [Env.flush, backStashes_of_no_stashes hs]
  exact congrArg Except.ok (sends_of_same_outbox e rfl)

section Stash
variable {s : State} {e : Env} {g : BitVec 3} {a : BitVec 7} {w : Workgroup} (he : s.env = some e) (hh : e.g.isHandler = false)
  (hw : s.wgOf e.g = some w)
include he hh hw

/-- STMAP of a descriptor that has the form of R209, in a workgroup without windows. -/
theorem stmap_holds {v : Nat} (hwg : s.wg? w.wid = some w) (hv : e.agree g (fun l => l.nat (e.v a) 16) v) (hs : w.stashes = [])
    (hgbase : bits v 0 64 % 128 = 0) (hglow : bits v 0 64 < 2 ^ 56) (hlhigh : bits v 84 12 = 0) (hlbase : bits v 64 32 % 128 = 0)
    (hlen : bits v 96 19 % 128 = 0) (hpos : bits v 96 19 ≠ 0) (hmost : bits v 96 19 ≤ 262144) (hzero : bits v 115 5 = 0) (hzero' : bits v 123 5 = 0)
    (hfits : bits v 64 32 + bits v 96 19 ≤ w.lsSize) :
    ∃ t, exec (.stmap g a) s = .next t ∧ t = { s with groups := t.groups, workgroups := t.workgroups, issue := none } ∧
      t.group? e.g.gid = some (e.g.goto e.iss.slotB (e.iss.pc + 4)) ∧
      t.wg? w.wid = some { w with stashes := [⟨bits v 120 3, bits v 0 64, bits v 64 32, bits v 96 19, []⟩] } := by
  have hbits : bits (bits v 64 32) 20 12 = 0 := by
    rw [← hlhigh]
    simp only [bits]
    omega
  have hgroup := env_group he
  refine ⟨e.retire (s.updWg w.wid (Workgroup.remap ⟨bits v 120 3, bits v 0 64, bits v 64 32, bits v 96 19, []⟩)), inWord_ok he ?word, rfl,
    group_retire hgroup, ?wg⟩
  case word =>
    simp only [hh, hw, uniform_of_agree hv, flush_of_no_stashes hs, hs, hgbase, hlbase, hlen, hzero, hzero', hbits, Nat.not_lt.mpr hmost,
      Nat.not_lt.mpr hfits, Nat.not_le.mpr hglow]
    simp [hpos]
    rfl
  case wg => exact (wg_updWg (remap_wid _) hwg).trans (by rw [remap_of_no_stashes hs])

variable {v : Word} (hv : e.agree g (fun l => l.word (e.v a)) v)
include hv

/-- STFLUSH and STUNMAP of a number that names no live window. -/
theorem withWindow_faults (after : Workgroup → Nat → Workgroup) (hnone : 8 ≤ v.toNat ∨ ∀ x ∈ w.stashes, x.win ≠ v.toNat) :
    withWindow g a after s = .next (e.takeFault .operand s) := by
  refine inWord_error he ?_
  have hbad : (decide (8 ≤ v.toNat) || !w.stashes.any fun x => x.win == v.toNat) = true := by simpa using hnone
  simp only [hh, uniform_of_agree hv, hw, hbad, Bool.false_eq_true, if_false, if_true]

/-- STFLUSH and STUNMAP of a live window whose write-back answers `u`. -/
theorem withWindow_ok {u : State} (after : Workgroup → Nat → Workgroup) (hlt : v.toNat < 8) (hwin : ∃ x ∈ w.stashes, x.win = v.toNat)
    (hu : (if e.writes g then e.flush (e.act g) w v.toNat s else .ok s) = .ok u) :
    withWindow g a after s = .next (e.retire (u.updWg w.wid fun x => after x v.toNat)) := by
  refine inWord_ok he ?_
  have hgood : (decide (8 ≤ v.toNat) || !w.stashes.any fun x => x.win == v.toNat) = false := by simpa [hlt] using hwin
  simp only [hh, uniform_of_agree hv, hw, hgood, hu, Bool.false_eq_true, if_false]

end Stash

/-! ### The copy engine (R187, R205) -/

section Engine
variable {s u v : State} {c : Copy}

theorem copyComplete_ok {id wid n : Nat} {o : Bool} {r : Request} {b : Option Nat} (hr : s.live? id = some r) (hj : r.job = .copy c b wid n)
    (hrun : s.runPart r.ctx r.gid wid c o n (c.total - n) = .ok u) : exec (.copyComplete id o) s = .next (u.dropRequest id).settleBatches.settleEnds := by
  simp only [exec_copyComplete, execCopyComplete, hr, hj, hrun]

theorem copyComplete_error {id wid n a : Nat} {o : Bool} {r : Request} {b : Option Nat} (hr : s.live? id = some r) (hj : r.job = .copy c b wid n)
    (hrun : s.runPart r.ctx r.gid wid c o n (c.total - n) = .error (u, a)) : exec (.copyComplete id o) s = .next (u.engineFault r 0x06 a) := by
  simp only [exec_copyComplete, execCopyComplete, hr, hj, hrun]

/-- What stands at an address after bytes were set one after another, where no address is set twice. -/
theorem get_foldl_set (ws : List (Nat × BitVec 8)) (m : Mem) (a : Nat) :
    (a ∉ ws.map Prod.fst → (ws.foldl (fun m w => m.set w.1 w.2) m).get a = m.get a) ∧
      ((ws.map Prod.fst).Nodup → ∀ b, (a, b) ∈ ws → (ws.foldl (fun m w => m.set w.1 w.2) m).get a = b) := by
  induction ws generalizing m with
  | nil => exact ⟨fun _ => rfl, fun _ _ h => nomatch h⟩
  | cons w ws ih =>
    obtain ⟨hother, hsame⟩ := ih (m.set w.1 w.2)
    refine ⟨fun ha => ?_, fun hnodup b hb => ?_⟩
    · obtain ⟨hne, hrest⟩ := not_or.mp (mt List.mem_cons.mpr ha)
      exact (hother hrest).trans (get_set_other m w.1 a w.2 hne)
    · obtain ⟨hfirst, hrest⟩ := List.nodup_cons.mp hnodup
      obtain rfl | hb := List.mem_cons.mp hb
      · exact (hother hfirst).trans (get_set m a b)
      · exact hsame hrest b hb

/-- The bytes that a copy of what `u` holds at `src` sets. -/
theorem mem_engineLand (v : State) (ctx : Nat) (src dst : List (Nat × Bool)) : (v.engineLand ctx dst (v.homeRead src)).mem =
    ((dst.zip (v.homeRead src)).map fun x => (x.1.1, x.2.1)).foldl (fun m w => m.set w.1 w.2) v.mem := by
  rw [State.engineLand, land_mem, List.map_map]
  rfl

theorem runPart_global {ctx gid wid : Nat} {src dst : List (Nat × Bool)} (hkind : c.kind = 2)
    (hsrc : s.copyRange (dieOf (((s.wg? wid).map fun w => w.core).getD 0)) ctx c c.src.toNat .read 0 c.total = .ok (u, src))
    (hdst : u.copyRange (dieOf (((s.wg? wid).map fun w => w.core).getD 0)) ctx c c.dst.toNat .write 0 c.total = .ok (v, dst))
    (hnodup : (dst.map fun p => p.1).Nodup) (hlen : src.length = dst.length) :
    ∃ t, s.runPart ctx gid wid c false 0 c.total = .ok t ∧
      (∀ i, i < dst.length → t.mem.get (dst.getD i (0, false)).1 = v.mem.get (src.getD i (0, false)).1) ∧
      (∀ a, (∀ p ∈ dst, p.1 ≠ a) → t.mem.get a = v.mem.get a) := by
  have hfst : ((dst.zip (v.homeRead src)).map fun x => (x.1.1, x.2.1)).map Prod.fst = dst.map fun p => p.1 := by
    rw [List.map_map, ← List.map_fst_zip (l₁ := dst) (l₂ := v.homeRead src) (by simp [State.homeRead, hlen]), List.map_map, List.map_fst_zip (by simp [State.homeRead, hlen])]
    rfl
  refine ⟨(v.engineLand ctx dst (v.homeRead src)).tick, ?run, fun i hi => ?copied, fun a ha => ?kept⟩
  case run => simp only [State.runPart, hkind, hsrc, hdst, Bool.false_eq_true, if_false]
  case copied =>
    rw [State.tick, mem_engineLand]
    refine (get_foldl_set _ _ _).2 (hfst ▸ hnodup) _ (List.mem_map.mpr ⟨((dst.zip (v.homeRead src))[i]'(by simp [State.homeRead, hlen, hi])), List.getElem_mem _, ?_⟩)
    simp [State.homeRead, hi, hlen]
  case kept =>
    rw [State.tick, mem_engineLand]
    refine (get_foldl_set _ _ _).1 ?_
    rw [hfst]
    exact fun hmem => (List.mem_map.mp hmem).elim fun p hp => ha p hp.1 hp.2

end Engine

/-- Settles O41: the words by the checks that they pass and what they leave, and a global copy by the bytes that the engine sets one after another. -/
theorem copiesAndStashWindows : Obligations.CopiesAndStashWindows := by
  unfold Obligations.CopiesAndStashWindows
  refine ⟨fun s e g d a la he hdet => ⟨fun c hh hc => cp_holds he hdet hh hc, cpclose_holds he, fun n hact hn => ?wait, ?map, ?windows⟩, win_ne_of_endStash,
    fun s u id wid n o r c b hr hj => ⟨copyComplete_ok hr hj, fun a => copyComplete_error hr hj⟩,
    fun s u v ctx gid wid c src dst hkind => runPart_global hkind⟩
  case wait => exact ⟨cpwait_faults he ⟨hact, hn⟩, cpwait_goes_on he ⟨hact, hn⟩, cpwait_waits he ⟨hact, hn⟩⟩
  case map =>
    intro w v hh hw hwg hact hv
    exact stmap_holds he hh hw hwg ⟨hact, hv⟩
  case windows =>
    intro w v u hh hw hact hv
    have hagree : e.agree g (fun l => l.word (e.v a)) v := ⟨hact, hv⟩
    refine ⟨fun hnone => ⟨?_, ?_⟩, fun hlt hwin hu => ⟨?_, ?_⟩⟩
    · rw [Faults, exec_stflush, execStflush, withWindow_faults he hh hw hagree _ hnone]
    · rw [Faults, exec_stunmap, execStunmap, withWindow_faults he hh hw hagree _ hnone]
    · rw [exec_stflush, execStflush, withWindow_ok he hh hw hagree _ hlt hwin hu, updWg_id]
    · rw [exec_stunmap, execStunmap, withWindow_ok he hh hw hagree _ hlt hwin hu]

end Sys2Proof.Machine
end

section
/-! SUPPORT. Keyed lists, and the cores and cluster caches that a state keeps in them. -/

namespace Sys2Proof.Machine

section Keys
variable {α : Type} (d : α) (l : List (Nat × α)) (a : Nat) (v : α)

@[simp] theorem lookupD_setKey : lookupD d (setKey l a v) a = v := by
  induction l with
  | nil => simp [setKey, lookupD]
  | cons x l ih =>
    rw [setKey]
    split
    · simp [lookupD]
    · split
      · next h => simp [lookupD, h]
      · next hlt hne => simp [lookupD, hlt, hne, ih]

theorem lookupD_setKey_other {b : Nat} (h : b ≠ a) : lookupD d (setKey l a v) b = lookupD d l b := by
  induction l with
  | nil => simp [setKey, lookupD, h]
  | cons x l ih =>
    rw [setKey]
    split
    · by_cases hb : b < a
      · have hx : b < x.1 := by omega
        simp [lookupD, hb, hx]
      · simp [lookupD, hb, h]
    · split
      · next hx => subst hx; simp [lookupD, h]
      · simp [lookupD, ih]

end Keys

section Caches
variable (s : State) (n : Nat)

@[simp] theorem core_setCore (c : Core) : (s.setCore n c).core n = c := lookupD_setKey ..

theorem core_setCore_other {k : Nat} (c : Core) (h : k ≠ n) : (s.setCore n c).core k = s.core k := lookupD_setKey_other _ _ _ _ h

@[simp] theorem clusterCache_setClusterCache (c : List Line) : (s.setClusterCache n c).clusterCache n = c := lookupD_setKey ..

theorem clusterCache_setClusterCache_other {k : Nat} (c : List Line) (h : k ≠ n) : (s.setClusterCache n c).clusterCache k = s.clusterCache k :=
  lookupD_setKey_other _ _ _ _ h

@[simp] theorem clusterCache_setCore (k : Nat) (c : Core) : (s.setCore n c).clusterCache k = s.clusterCache k := rfl

@[simp] theorem core_setClusterCache (k : Nat) (c : List Line) : (s.setClusterCache n c).core k = s.core k := rfl

end Caches

end Sys2Proof.Machine
end

section
/-! SUPPORT. Proofs about fences, barriers and counters (11, R211–R217; 07, R117, R118, R122; 18, R333). -/

namespace Sys2Proof.Machine

/-! ### An acquire without stash windows is the invalidation of the caches (R118) -/

theorem updWg_of_fixed {s : State} {n : Nat} {f : Workgroup → Workgroup} (h : ∀ w ∈ s.workgroups, f w = w) : s.updWg n f = s := by
  have hmap : mapWhere (fun w => w.wid == n) f s.workgroups = s.workgroups := by
    rw [mapWhere, List.map_congr_left fun w hw => by rw [h w hw, ite_self], List.map_id']
  rw [State.updWg, hmap]

theorem acquire_eq_invalidate {s : State} (hstash : ∀ w ∈ s.workgroups, w.stashes = []) (g : Group) (m : BitVec 32) (sc : Scope) :
    s.acquire g m sc = .ok (s.invalidate g.core sc) := by
  have hclean : ∀ w ∈ s.workgroups, w.dropClean = w := fun w hw => by
    show { w with stashes := w.stashes.map Stash.dropClean } = w
    rw [hstash w hw, List.map_nil, ← hstash w hw]
  have hfold : ∀ ws : List Workgroup, ws.foldl (fun s w => s.updWg w.wid Workgroup.dropClean) s = s := fun ws => by
    induction ws with
    | nil => rfl
    | cons w ws ih => rwa [List.foldl_cons, updWg_of_fixed hclean]
  cases sc with
  | grp | wg | clu => rfl
  | dev | sys => rw [State.acquire, stashOut_of_no_stashes hstash]; simp only [hfold]

theorem acquireE_eq_invalidate {s : State} (hstash : ∀ w ∈ s.workgroups, w.stashes = []) (g : Group) (m : BitVec 32) (sc : Scope) :
    s.acquireE g m sc = .ok (s.invalidate g.core sc) := by
  rw [State.acquireE, acquire_eq_invalidate hstash]

/-! ### The words -/

section Words
variable {s : State} {e : Env} {g : BitVec 3} {sc : BitVec 3} (he : s.env = some e)
include he

theorem fence_holdWord {o : BitVec 2} (hdet : e.l.det = false) (ho : o ≠ 0) :
    HoldWord (.fence g o sc) s e (.release (scopeCode sc.toNat) (.fence (o != 1))) :=
  holdWord_of he (inWord_ok he (by simp only [hdet, if_neg ho, Bool.false_eq_true, if_false]; rfl))

theorem fence_acquires (hdet : e.l.det = false) (hstash : ∀ w ∈ s.workgroups, w.stashes = []) (hbusy : s.remoteBusy e.g.gid s.fresh = false) :
    exec (.fence g 0 sc) s = .next (e.retire (s.invalidate e.g.core (scopeCode sc.toNat))) := by
  have hsends : e.sends s (s.invalidate e.g.core (scopeCode sc.toNat)) = s.invalidate e.g.core (scopeCode sc.toNat) :=
    sends_of_same_outbox e (by rw [invalidate_frame])
  exact inWord_ok he (by simp only [hdet, hbusy, acquireE_eq_invalidate hstash, hsends, Bool.false_eq_true, if_false, if_true])

theorem pfence_holdWord {m n : BitVec 4} : HoldWord (.pfence g m sc n) s e (.pfence (n ++ m) (scopeCode sc.toNat)) := 
  holdWord_of he (exec_pfence s ▸ inWord_ok he rfl)

section Bar
variable {k : BitVec 1} (hh : e.g.isHandler = false)
include hh

theorem bar_holdWord (hall : ∀ i, e.g.live.getLsbD i = true → e.path.mask.getLsbD i = true) : HoldWord (.bar g k) s e
    (.release (if k = 1 then .clu else .wg) (.bar (k == 1) (if k = 1 then e.g.barsC else e.g.barsW) e.hints.hdet)) := by
  have hnone : (e.g.live &&& ~~~ e.path.mask != 0) = false := bne_eq_false_iff_eq.mpr <| BitVec.eq_of_getLsbD_eq fun i hi => by
    have := hall i
    rw [BitVec.getLsbD_and, BitVec.getLsbD_not]
    grind
  refine holdWord_of he (inWord_ok he ?_)
  simp only [hh, hnone, beq_iff_eq, Bool.false_eq_true, if_false]
  rfl

theorem bar_faults (hsome : ∃ i, e.g.live.getLsbD i = true ∧ e.path.mask.getLsbD i = false) : Faults (.bar g k) s e .operand := by
  obtain ⟨i, hlive, hmask⟩ := hsome
  have hbit : (e.g.live &&& ~~~ e.path.mask).getLsbD i = true := by
    rw [BitVec.getLsbD_and, BitVec.getLsbD_not, hlive, hmask]
    simp [BitVec.lt_of_getLsbD hlive]
  have hne : (e.g.live &&& ~~~ e.path.mask != 0) = true := bne_iff_ne.mpr fun h => by simp [h] at hbit
  exact inWord_error he (by simp only [hh, hne, Bool.false_eq_true, if_false, if_true])

end Bar

section Counter
variable {a : BitVec 7} {va : DWord} (hva : e.agree g (fun l => l.dword (e.v a)) va)
include hva

theorem arrive_holdWord (hleaf : (e.counterLeaf s va .write (e.counterScope == .sys)).isSome = true) :
    HoldWord (.arrive g a) s e (.release e.counterScope (.arrive va.toNat)) := by
  have hnone : ¬ (e.counterLeaf s va .write (e.counterScope == .sys)).isNone = true := by simpa [Option.isSome_iff_ne_none] using hleaf
  exact holdWord_of he (inWord_ok he (by simp only [uniform_of_agree hva, if_neg hnone]; rfl))

theorem arrive_faults (hleaf : (e.counterLeaf s va .write (e.counterScope == .sys)).isSome = false) :
    Faults (.arrive g a) s e (.protection 0 va.toNat) := by
  have hnone : (e.counterLeaf s va .write (e.counterScope == .sys)).isNone = true := by simpa using hleaf
  exact inWord_error he (by simp only [uniform_of_agree hva, if_pos hnone])

theorem waitc_waits {d : BitVec 7} {t : Word} (ht : ∀ i, (e.act g).getLsbD i = true → (e.g.lane i).word (e.v d) = t)
    (hleaf : (e.counterLeaf s va .read (e.counterScope == .sys)).isSome = true) :
    ∃ t', exec (.waitc g d a) s = .next t' ∧ OnlyGroup s t' e.g.gid ∧ t'.group? e.g.gid = some (e.g.updSlot e.iss.slotB fun x =>
      { x with wait := some (.counter va.toNat t.toNat (e.counterScope == .sys) s.time s.time), redo := none }) := by
  have hnone : ¬ (e.counterLeaf s va .read (e.counterScope == .sys)).isNone = true := by simpa [Option.isSome_iff_ne_none] using hleaf
  have hboth : e.agree g (fun l => (l.word (e.v d), l.dword (e.v a))) (t, va) := ⟨hva.1, fun i hi => Prod.ext (ht i hi) (hva.2 i hi)⟩
  exact ⟨_, inWord_ok he (by simp only [uniform_of_agree hboth, if_neg hnone]), ⟨rfl, fun _ hk => group_await_other _ hk⟩, group_await _ (env_group he)⟩

end Counter

end Words

/-! ### The end of a release (R117) -/

section Release
variable {s u v : State} {id : Nat} {r : Request} {e : Env} {sc : Scope} {after : After} {x : RemoteReply}

theorem releaseComplete_of (hr : s.live? id = some r) (henv : s.reqEnv r = some e) (hj : r.job = .release sc after)
    (hbusy : s.remoteBusy r.gid id = false) (hu : s.release e.g e.actWord sc = .ok u) (hv : u.afterRelease e r sc after x = .ok v) :
    exec (.releaseComplete id x) s = .next (s.withAck r x v) := by
  simp only [exec_releaseComplete, execReleaseComplete, hr, hj, henv, hbusy, hu, hv, Bool.false_eq_true, if_false]

theorem afterRelease_arrive {va : Nat} {w : State} (hsig : u.signalVa e.g.ctx (e.g.ctx, e.g.launch + 1) va = .ok w) :
    u.afterRelease e r sc (.arrive va) x = .ok (((w.publishArrive e va).dropRequest r.id).wake r) := by
  simp only [State.afterRelease, hsig]

end Release

/-! ### What an event sends to other devices (18, R333) -/

theorem oneOf_mem {s : State} {as : List Nat} {a : Nat} (h : oneOf s as = some a) : a ∈ as := by
  match as with
  | [] => cases h
  | [_] => exact List.mem_singleton.mpr (Option.some.inj h).symm
  | _ :: _ :: _ => exact List.mem_of_getElem? h

section Ack
variable {s t : State} {r : Request} {x : RemoteReply}

theorem sentTo_of_nothing_sent (h : sentAll (t.outbox.drop s.outbox.length) = []) : s.sentTo t = none := by
  rw [State.sentTo, State.unheard, h]
  rfl

theorem sentTo_mem {a : Nat} (h : s.sentTo t = some a) : a ∈ sentAll (t.outbox.drop s.outbox.length) := (List.mem_filter.mp (oneOf_mem h)).1

theorem withAck_of_nothing_sent (h : s.sentTo t = none) : s.withAck r x t = t := by
  rw [State.withAck, State.acked, h]

theorem withAck_of_same_outbox (h : t.outbox = s.outbox) : s.withAck r x t = t :=
  withAck_of_nothing_sent (sentTo_of_nothing_sent (by rw [h, List.drop_length]; rfl))

variable {a : Nat} (h : s.sentTo t = some a)
include h

theorem withAck_data (bs : List (BitVec 8)) : s.withAck r (.data bs) t = t := by rw [State.withAck, State.acked, h]; rfl

theorem withAck_refused : s.withAck r .refused t = (s.engineFault r 0x06 a).setSend r.id r.port (some s.time) := by
  rw [State.withAck, State.acked, h]; rfl

/-- Within 10 ms of the first attempt the event waits. -/
theorem withAck_waits (hsince : r.since = none ∨ ∃ w, r.since = some w ∧ s.time < w + 10000000) :
    s.withAck r .none t = s.setSend r.id r.port (some (r.since.getD s.time)) := by
  rw [State.withAck, State.acked, h]
  obtain hnone | ⟨w, hw, hlt⟩ := hsince
  · simp only [State.fares, hnone]; rfl
  · simp only [State.fares, hw, Option.map_some, decide_eq_false (Nat.not_le.mpr hlt)]; rfl

theorem withAck_late {w : Nat} (hw : r.since = some w) (hlate : w + 10000000 ≤ s.time) : s.withAck r .none t = s.withAck r .refused t := by
  simp only [State.withAck, State.acked, h, State.fares, hw, Option.map_some, decide_eq_true hlate, Option.getD_some, if_true]

end Ack

/-! ### A signal at its home (R215) -/

section Signal
variable {s : State} {pa : Nat} (hpa : isRemote pa = false) (ctx : Option Nat) (src : Nat × Nat) (trk : Bool)
include hpa

theorem signal_mem : (s.signal ctx src pa trk).mem = s.mem.write pa (leBytes 8 ((s.mem.nat pa 8 + 1) % 2 ^ 64)) := by
  rw [State.signal, if_neg (by rw [hpa]; exact Bool.false_ne_true), land_mem, countWaits_mem, List.map_map]
  have h := foldl_set_eq_write (leBytes 8 ((s.mem.nat pa 8 + 1) % 2 ^ 64)) s.mem pa
  rw [leBytes_length] at h
  exact h

theorem signal_counts : (s.signal ctx src pa trk).mem.nat pa 8 = (s.mem.nat pa 8 + 1) % 2 ^ 64 := by
  have h := read_write s.mem pa (leBytes 8 ((s.mem.nat pa 8 + 1) % 2 ^ 64))
  rw [leBytes_length] at h
  rw [Mem.nat, signal_mem hpa, h, leNat_leBytes]
  exact Nat.mod_eq_of_lt (Nat.mod_lt _ (by decide))

theorem signal_keeps {b : Nat} (hb : b < pa ∨ pa + 8 ≤ b) : (s.signal ctx src pa trk).mem.get b = s.mem.get b := by
  rw [signal_mem hpa, get_write, leBytes_length, if_neg (by omega)]

end Signal

/-! ### The first arrival at a barrier (R213) -/

/-- Ends that follow change no open barrier. -/
theorem settleEnds_bars {s : State} (h : ∀ w ∈ s.workgroups, w.stashes = []) : s.settleEnds.bars = s.bars :=
  (congrArg State.bars (flushEnded_of_no_stashes h) :)

/-- A barrier that lacks a participant opens for none. -/
theorem settleBars_of_absent {s : State} {b : Bar} (hbars : s.bars = [b]) (habsent : ∃ p ∈ s.barMembers b, ∀ a ∈ b.arrived, a.1 ≠ p.gid) (n : Nat) :
    s.settleBars n = s := by
  obtain ⟨p, hp, hnot⟩ := habsent
  have hall : ((s.barMembers b).all fun g => b.arrived.any fun a => a.1 == g.gid) = false :=
    List.all_eq_false.mpr ⟨p, hp, fun h => (List.any_eq_true.mp h).elim fun a ha => hnot a ha.1 (beq_iff_eq.mp ha.2)⟩
  cases n with
  | zero => rfl
  | succ n => rw [State.settleBars, hbars]; simp only [List.find?_singleton, hall, Bool.false_eq_true, if_false]

/-- A group that has arrived at barrier number `k` of its workgroup and waits there. -/
def Group.arrivedAt (g : Group) (b : Bool) (k : Nat) : Group :=
  { g.updSlot b (fun x => { x with wait := some (.bar false k) }) with barsW := (g.updSlot b (fun x => { x with wait := some (.bar false k) })).barsW + 1 }

theorem arrivedAt_gid (g : Group) (b : Bool) (k : Nat) : (g.arrivedAt b k).gid = g.gid := by cases b <;> rfl

theorem arriveBar_first {s : State} {e : Env} {k : Nat} {role : Bool} (he : s.env = some e) (hbars : s.bars = [])
    (hstash : ∀ w ∈ s.workgroups, w.stashes = [])
    (hmate : ∃ p ∈ s.groups, p.gid ≠ e.g.gid ∧ p.ctx = e.g.ctx ∧ p.launch = e.g.launch ∧ p.clu = e.g.clu ∧ p.wgc = e.g.wgc ∧ p.isHandler = false) :
    ∃ t grp b, s.arriveBar e false k role = .ok t ∧ t.bars = [b] ∧ b.arrived = [(e.g.gid, s.clock)] ∧ t.group? e.g.gid = some grp ∧
      (grp.slot e.iss.slotB).wait = some (.bar false k) ∧ grp.barsW = e.g.barsW + 1 ∧ t.mem = s.mem := by
  let b : Bar := ⟨e.g.ctx, e.g.launch, e.g.clu, e.g.wgc, false, k, role, [(e.g.gid, s.clock)]⟩
  let u : State := ({ s with bars := [b] } : State).updGroup e.g.gid fun g => g.arrivedAt e.iss.slotB k
  have harrive : s.arriveBar e false k role = .ok u.afterEnds := by
    rw [State.arriveBar, hbars]; rfl
  have habsent : ∃ p ∈ u.barMembers b, ∀ a ∈ b.arrived, a.1 ≠ p.gid := by
    obtain ⟨p, hp, hne, hctx, hlaunch, hclu, hwgc, hh⟩ := hmate
    refine ⟨p, List.mem_filter.mpr ⟨List.mem_map.mpr ⟨p, hp, if_neg (by simpa using hne)⟩, by simp [b, hctx, hlaunch, hclu, hwgc, hh]⟩, fun a ha => ?_⟩
    rw [List.mem_singleton.mp ha]
    exact hne.symm
  have hends : u.afterEnds = u.settleEnds := congrArg State.settleEnds (settleBars_of_absent rfl habsent _)
  obtain ⟨hmem, hgroups⟩ := settleEnds_of_no_stashes (s := u) hstash
  have hgroup : u.group? e.g.gid = some (e.g.arrivedAt e.iss.slotB k) :=
    (group_updGroup _ _ _ fun _ => arrivedAt_gid ..).trans (congrArg (Option.map _) (env_group he))
  refine ⟨u.settleEnds, e.g.arrivedAt e.iss.slotB k, b, harrive.trans (congrArg _ hends), settleEnds_bars hstash, rfl, ?_, ?_, ?_, hmem⟩
  · rw [State.group?, hgroups, ← State.group?, hgroup]
  · cases e.iss.slotB <;> rfl
  · cases e.iss.slotB <;> rfl

/-- The slot that a request held goes on: a change of a group. -/
theorem wake_frame (s : State) (r : Request) : s.wake r = { s with groups := (s.wake r).groups } := by
  rw [State.wake, State.resumeWhere]
  split
  · rfl
  · split
    · rfl
    · split <;> rfl

/-! ### The end of a PFENCE of the constant class alone (R122) -/

section Pfence
variable {s : State} {id : Nat} {r : Request} {e : Env} {mask : BitVec 8} {sc : Scope} (x : RemoteReply) (hr : s.live? id = some r)
  (henv : s.reqEnv r = some e) (hj : r.job = .pfence mask sc)

/-- An earlier request of the group through a masked class is outstanding. -/
def State.classBusy (s : State) (r : Request) (id : Nat) (mask : BitVec 8) : Bool :=
  s.requests.any fun q => q.gid == r.gid && q.id < id && q.maskBits.any fun b => mask.getLsbD b

theorem classBusy_iff : s.classBusy r id mask = true ↔ ∃ q ∈ s.requests, q.gid = r.gid ∧ q.id < id ∧ ∃ b ∈ q.maskBits, mask.getLsbD b = true := by
  simp [State.classBusy, and_assoc]

theorem updLate_fencedBy (hmask : mask.getLsbD 2 = false) (gid : Nat) : s.updLate (fun t => t.fencedBy gid mask sc) = s := by
  have hfixed : (fun t : LateWrite => t.fencedBy gid mask sc) = id := funext fun t => by
    rw [LateWrite.fencedBy, hmask, Bool.and_false]; rfl
  rw [State.updLate, hfixed]
  simp

/-- The machine when a PFENCE of neither stores nor tiles has ended: the core's constant lines are gone where class C is masked. -/
def State.pfenced (s : State) (id core : Nat) (mask : BitVec 8) : State :=
  if mask.getLsbD 1 then (s.dropRequest id).setCore core { (s.dropRequest id).core core with constants := [] } else s.dropRequest id

include hr henv hj

theorem pfenceComplete_busy (hbusy : s.classBusy r id mask = true) : exec (.pfenceComplete ⟨id, x⟩) s = .next s := by
  rw [State.classBusy] at hbusy
  simp only [exec_pfenceComplete, execPfenceComplete, hr, hj, henv, hbusy, if_true]

theorem pfenceComplete_ends (h0 : mask.getLsbD 0 = false) (h2 : mask.getLsbD 2 = false) (hbusy : s.classBusy r id mask = false) :
    exec (.pfenceComplete ⟨id, x⟩) s = .next ((s.pfenced id e.g.core mask).wake r) := by
  have hack : s.withAck r x ((s.pfenced id e.g.core mask).wake r) = (s.pfenced id e.g.core mask).wake r :=
    withAck_of_same_outbox (by rw [wake_frame, State.pfenced]; split <;> rfl)
  rw [State.classBusy] at hbusy
  rw [← hack, State.pfenced]
  simp only [exec_pfenceComplete, execPfenceComplete, hr, hj, henv, hbusy, h0, h2, updLate_fencedBy h2, Bool.false_eq_true, if_false, Bool.not_false, if_true]

end Pfence

/-! ### The end of a WAITC (R217) -/

section Waitc
variable {s : State} {gid : Nat} {b : Bool} (x : RemoteReply) {g : Group} {e : Env} {va t since asked v : Nat} {sys : Bool} (hg : s.group? gid = some g)
  (hwait : (g.slot b).wait = some (.counter va t sys since asked)) (henv : s.slotEnv g b = some e) (hval : s.counterValue g.ctx va x = some v)
include hg hwait henv hval

theorem waitcSatisfied_short (hlt : v < t) (hpa : isRemote (s.counterPa g.ctx va) = false) : exec (.waitcSatisfied gid b x) s = .next s := by
  simp only [exec_waitcSatisfied, execWaitcSatisfied, hg, hwait, henv, hval, if_pos hlt, hpa, Bool.false_eq_true, if_false]

theorem waitcSatisfied_short_remote (hlt : v < t) (hpa : isRemote (s.counterPa g.ctx va) = true) : exec (.waitcSatisfied gid b x) s =
    .next (s.updGroup gid fun g => g.updSlot b fun k => { k with wait := some (.counter va t sys since s.time) }) := by
  simp only [exec_waitcSatisfied, execWaitcSatisfied, hg, hwait, henv, hval, if_pos hlt, hpa, if_true]

/-- What the group of a slot learns at a counter: its path is ordered after what was published there (07, R131). -/
def State.learnsAt (s : State) (g : Group) (e : Env) (pa : Nat) (x : Group) : Group := (x.learn e.path.line (s.acquired pa g)).nextInterval

theorem waitcSatisfied_reached_eq (hle : t ≤ v) (ho : g.origins = none) (hres : g.resident = true) (hstash : ∀ w ∈ s.workgroups, w.stashes = []) :
    ∃ u : State, u.mem = s.mem ∧ u.requests = s.requests ∧ u.groups = s.groups ∧ exec (.waitcSatisfied gid b x) s =
      .next ((u.updGroup gid (u.learnsAt g e (s.counterPa g.ctx va))).resumeSlot gid b e.iss.pc) := by
  have hsends (sc : Scope) : e.sends s (s.invalidate g.core sc) = s.invalidate g.core sc := sends_of_same_outbox e (by rw [invalidate_frame])
  have hkeeps (sc : Scope) : (s.invalidate g.core sc).mem = s.mem ∧ (s.invalidate g.core sc).requests = s.requests ∧
      (s.invalidate g.core sc).groups = s.groups := by
    rw [invalidate_frame]; exact ⟨rfl, rfl, rfl⟩
  have hagents (u : State) : u.agents g = [g] := by rw [State.agents, ho]
  have hlines (u : State) (line : List (Nat × Bool)) : u.linesFor g g line = [line] := by rw [State.linesFor, ho]
  simp only [exec_waitcSatisfied, execWaitcSatisfied, hg, hwait, henv, hval, if_neg (Nat.not_lt.mpr hle), hres, if_true, acquireE_eq_invalidate hstash,
    hsends, hagents, hlines, List.foldl_cons, List.foldl_nil, group_gid hg]
  obtain ⟨hmem, hreqs, hgroups⟩ := hkeeps (if sys then .sys else .dev)
  refine ⟨_, ?_, ?_, ?_, rfl⟩
  all_goals split
  exacts [hmem, hmem, hreqs, hreqs, hgroups, hgroups]

theorem waitcSatisfied_reached (hle : t ≤ v) (ho : g.origins = none) (hres : g.resident = true) (hstash : ∀ w ∈ s.workgroups, w.stashes = []) :
    ∃ t' iv cl, exec (.waitcSatisfied gid b x) s = .next t' ∧ t'.mem = s.mem ∧ t'.requests = s.requests ∧
      (∀ k, k ≠ gid → t'.group? k = s.group? k) ∧ t'.group? gid = some
        (((({ g with interval := iv, clocks := cl } : Group)).updSlot b fun x => { x with wait := none }).goto b (e.iss.pc + 4)) := by
  obtain ⟨u, hmem, hreqs, hgroups, hexec⟩ := waitcSatisfied_reached_eq x hg hwait henv hval hle ho hres hstash
  have hresume : ∀ g : Group, ((g.updSlot b fun x => { x with wait := none }).goto b (e.iss.pc + 4)).gid = g.gid := fun g => by
    rw [goto_gid, updSlot_gid]
  refine ⟨_, g.interval + 1, (u.learnsAt g e (s.counterPa g.ctx va) g).clocks, hexec, hmem, hreqs, fun k hk => ?_, ?_⟩
  · rw [State.resumeSlot, group_updGroup_other _ _ _ _ hresume hk, group_updGroup_other _ _ _ _ (fun _ => by rfl) hk, State.group?, hgroups]
    rfl
  · rw [State.resumeSlot, group_updGroup _ _ _ hresume, group_updGroup _ _ _ fun _ => by rfl, State.group?, hgroups, ← State.group?, hg]
    rfl

end Waitc

/-- Settles O40: each word by the request that it makes or the fault that it takes, and each end of a wait by what it leaves. -/
theorem fencesBarriersAndCounters : Obligations.FencesBarriersAndCounters := by
  unfold Obligations.FencesBarriersAndCounters
  refine ⟨fun s e g o sc m n k d a he => ⟨?illegal, fence_holdWord he, fence_acquires he, pfence_holdWord he,
      fun hh => ⟨bar_holdWord he hh, bar_faults he hh⟩, fun va hact hva => ?counter⟩,
    fun s id r e sc after x u v hr henv hj hbusy hu hv => ?release, fun s t r x => ?ack,
    fun s ctx src pa trk hpa => ⟨signal_counts hpa ctx src trk, fun b => signal_keeps hpa ctx src trk⟩,
    fun s e k role he hbars hh hstash => arriveBar_first he hbars hstash, fun s id r e mask sc x hr henv hj h0 h2 => ?pfence,
    fun s gid b x g e va t since asked v sys hg hwait henv hval => ?waitc⟩
  case illegal => exact fun hdet => inWord_error he (by simp only [hdet, if_true])
  case counter =>
    have hagree : e.agree g (fun l => l.dword (e.v a)) va := ⟨hact, hva⟩
    exact ⟨arrive_holdWord he hagree, arrive_faults he hagree, fun t ht => waitc_waits he hagree ht⟩
  case release =>
    refine ⟨releaseComplete_of hr henv hj hbusy hu hv, fun hafter => ?_, fun va w hafter hsig => ?_⟩
    · rw [hafter] at hv
      rw [← live?_id hr]
      exact (Except.ok.inj hv).symm
    · rw [hafter, afterRelease_arrive hsig] at hv
      rw [← live?_id hr]
      exact (Except.ok.inj hv).symm
  case ack =>
    exact ⟨sentTo_of_nothing_sent, fun a => sentTo_mem, withAck_of_nothing_sent, fun a ha =>
      ⟨withAck_data ha, withAck_refused ha, withAck_waits ha, fun w => withAck_late ha⟩⟩
  case pfence =>
    rw [← classBusy_iff]
    refine ⟨pfenceComplete_busy x hr henv hj, fun hbusy => ⟨s.pfenced id e.g.core mask,
      pfenceComplete_ends x hr henv hj h0 h2 (Bool.eq_false_iff.mpr hbusy), ?_, ?_, ?_, fun h1 => ?_, fun h1 => ?_⟩⟩
    · rw [State.pfenced]; split <;> rfl
    · rw [State.pfenced]; split <;> rfl
    · rw [State.pfenced]; split <;> rfl
    · rw [State.pfenced, if_pos h1, core_setCore]
    · rw [State.pfenced, if_neg (by rw [h1]; exact Bool.false_ne_true)]
  case waitc =>
    exact ⟨waitcSatisfied_short x hg hwait henv hval, waitcSatisfied_short_remote x hg hwait henv hval, waitcSatisfied_reached x hg hwait henv hval⟩

end Sys2Proof.Machine
end

section
/-! SUPPORT. The checks of the accesses of a word, what they leave in the holders of translations, and the lanes that find no page (11, R195; 10, R181,
R182, R184, Table 10-6; 02, R28). -/

namespace Sys2Proof.Machine

/-! ### Regions (10, Table 10-2) -/

theorem isRemote_iff (pa : Nat) : isRemote pa = true ↔ systemBase ≤ pa ∧ pa < 2 ^ 52 := by
  have hsize : hbmSize = 0xC000000000 := rfl
  have hend : deepEnd = 0x0140000000000 := rfl
  have hbase : systemBase = 0x8000000000000 := rfl
  simp only [isRemote, regionOf]
  split
  · simp; omega
  · split
    · next h => simp at h ⊢; omega
    · split
      · next h => simpa using h
      · next h => simpa using h

theorem isRemote_eq_false (pa : Nat) : isRemote pa = false ↔ pa < systemBase ∨ 2 ^ 52 ≤ pa := by
  rw [← Bool.not_eq_true, isRemote_iff]
  omega

/-- What lies in memory of this device: HBM or deep memory. -/
def isHere (pa : Nat) : Prop := regionOf pa = .hbm ∨ regionOf pa = .deep

theorem lt_deepEnd_of_isHere {pa : Nat} (h : isHere pa) : pa < deepEnd := by
  have hsize : hbmSize = 0xC000000000 := rfl
  have hend : deepEnd = 0x0140000000000 := rfl
  simp only [isHere, regionOf] at h
  grind

theorem isHere_of_found {pa : Nat} (hres : regionOf pa ≠ .reserved) (hrem : isRemote pa = false) : isHere pa := by
  cases h : regionOf pa with
  | hbm => exact .inl h
  | deep => exact .inr h
  | system => exact absurd hrem (by simp [isRemote, h])
  | reserved => exact absurd h hres

/-- The lines that a short access from an address of this device meets are no other device's. -/
theorem not_remote_of_lt {pa : Nat} (h : pa < systemBase) : isRemote pa = false := (isRemote_eq_false pa).mpr (.inl h)

theorem line_not_remote {pa n no : Nat} (h : isHere pa) (hn : n ≤ 16) (hno : 128 * no < pa + n) : isRemote (no * 128) = false := by
  have hlt := lt_deepEnd_of_isHere h
  have hend : deepEnd = 0x0140000000000 := rfl
  have hbase : systemBase = 0x8000000000000 := rfl
  exact not_remote_of_lt (by omega)

/-! ### Holders of translations (R182) -/

theorem die_setDie (s : State) (n k : Nat) (d : Die) : (s.setDie n d).die k = if k = n ∧ n < s.dies.length then d else s.die k := getD_setNth ..

/-- Lanes that are some lanes but for the pages that they accessed last. -/
def Group.samePages (g : Group) (ls : List Lane) : Prop :=
  ls.length = g.lanes.length ∧ ∀ n, n < g.lanes.length → ∃ p, (g.withLanes ls).lane n = (g.lane n).withPage p

theorem samePages_refl (g : Group) : g.samePages g.lanes := ⟨rfl, fun n _ => ⟨(g.lane n).lastPage, rfl⟩⟩

theorem samePages_trans {g : Group} {ls ls' : List Lane} (h : g.samePages ls) (h' : (g.withLanes ls).samePages ls') : g.samePages ls' := by
  refine ⟨h'.1.trans h.1, fun n hn => ?_⟩
  obtain ⟨p, hp⟩ := h.2 n hn
  obtain ⟨q, hq⟩ := h'.2 n (hn.trans_eq h.1.symm)
  exact ⟨q, hq.trans (by rw [hp]; rfl)⟩

theorem lane_withPage (g : Group) (i : Nat) (p : Option Leaf) {n : Nat} (hn : n < g.lanes.length) :
    ∃ q, (g.updLane i fun x => x.withPage p).lane n = (g.lane n).withPage q := by
  rw [lane_updLane _ _ _ _ hn]
  split
  · next h => exact ⟨p, by rw [h]⟩
  · exact ⟨(g.lane n).lastPage, rfl⟩

theorem samePages_updLane (g : Group) (i : Nat) (p : Option Leaf) : g.samePages (g.updLane i fun x => x.withPage p).lanes :=
  ⟨updLane_length .., fun _ hn => lane_withPage g i p hn⟩

/-- A machine that differs from another in the translations that the lanes of a group, the cores and the dies hold, and in nothing else. -/
structure NotesPages (s t : State) (gid : Nat) : Prop where
  frame : t = { s with groups := t.groups, cores := t.cores, dies := t.dies }
  others : ∀ k, k ≠ gid → t.group? k = s.group? k
  group : ∀ g, s.group? gid = some g → ∃ ls, t.group? gid = some (g.withLanes ls) ∧ g.samePages ls
  core : ∀ k, ∃ tlb, t.core k = { s.core k with tlb := tlb }
  remote : ∀ k, (t.die k).remote = (s.die k).remote

theorem NotesPages.refl (s : State) (gid : Nat) : NotesPages s s gid :=
  ⟨rfl, fun _ _ => rfl, fun g hg => ⟨g.lanes, hg, samePages_refl g⟩, fun k => ⟨(s.core k).tlb, rfl⟩, fun _ => rfl⟩

theorem NotesPages.trans {s t u : State} {gid : Nat} (h : NotesPages s t gid) (h' : NotesPages t u gid) : NotesPages s u gid where
  frame := by
    have hu := h'.frame
    rw [h.frame] at hu
    exact hu
  others := fun k hk => (h'.others k hk).trans (h.others k hk)
  group := fun g hg => by
    obtain ⟨ls, ht, hls⟩ := h.group g hg
    obtain ⟨ls', hu, hls'⟩ := h'.group _ ht
    exact ⟨ls', hu, samePages_trans hls hls'⟩
  core := fun k => by
    obtain ⟨tlb, ht⟩ := h.core k
    obtain ⟨tlb', hu⟩ := h'.core k
    exact ⟨tlb', hu.trans (by rw [ht])⟩
  remote := fun k => (h'.remote k).trans (h.remote k)

theorem notesPages_noteLeaf (s : State) (core : Nat) (l : Leaf) (gid : Nat) : NotesPages s (s.noteLeaf core l) gid := by
  have hcore : NotesPages s (s.setCore core { s.core core with tlb := holdLeaf 2048 l (s.core core).tlb }) gid := by
    refine ⟨rfl, fun _ _ => rfl, fun g hg => ⟨g.lanes, hg, samePages_refl g⟩, fun k => ?_, fun _ => rfl⟩
    by_cases hk : k = core
    · subst hk; exact ⟨_, core_setCore ..⟩
    · exact ⟨(s.core k).tlb, core_setCore_other _ _ _ hk⟩
  unfold State.noteLeaf
  dsimp only
  split
  · exact .refl s gid
  · split
    · exact hcore
    · split
      · exact hcore
      next ws _ =>
        refine hcore.trans ⟨rfl, fun _ _ => rfl, fun g hg => ⟨g.lanes, hg, samePages_refl g⟩, fun k => ⟨(State.core _ k).tlb, rfl⟩, fun k => ?_⟩
        rw [die_setDie]
        split
        · next h => rw [h.1]
        · rfl

theorem notesPages_updLane (s : State) (gid i : Nat) (p : Option Leaf) :
    NotesPages s (s.updGroup gid fun g => g.updLane i fun x => x.withPage p) gid where
  frame := rfl
  others := fun k hk => group_updGroup_other s _ _ _ (fun _ => rfl) hk
  group := fun g hg => ⟨_, by rw [group_updGroup _ _ _ fun _ => by rfl, hg]; rfl, samePages_updLane g i p⟩
  core := fun k => ⟨(s.core k).tlb, rfl⟩
  remote := fun _ => rfl

theorem notesPages_noteLane (s : State) (e : Env) (lane : Nat) (l : Leaf) : NotesPages s (s.noteLane e lane l) e.g.gid :=
  (notesPages_noteLeaf s e.g.core l e.g.gid).trans (notesPages_updLane _ e.g.gid lane (some l))

theorem notesPages_noteTargets (e : Env) (ts : List Target) (s : State) : NotesPages s (e.noteTargets ts s) e.g.gid := by
  induction ts generalizing s with
  | nil => exact .refl s _
  | cons t ts ih =>
    refine NotesPages.trans ?_ (ih _)
    dsimp only
    split
    · split
      · exact notesPages_noteLane ..
      · exact .refl s _
    · exact .refl s _

/-! ### NR (02, R28) -/

/-- The lanes of a group that take NR. -/
theorem setNr_eq (g : Group) (m : BitVec 32) : g.setNr m = g.withLanes (g.setNr m).lanes :=
  fold_updLane_group (fun _ l => { l with nr := true }) (lanesOf (m &&& ~~~ g.helpers)) g

theorem setNr_gid (g : Group) (m : BitVec 32) : (g.setNr m).gid = g.gid := by rw [setNr_eq]; rfl

theorem lane_setNr (g : Group) (m : BitVec 32) {n : Nat} (hn : n < g.lanes.length) : (g.setNr m).lane n =
    if m.getLsbD n = true ∧ g.isHelper n = false then { g.lane n with nr := true } else g.lane n := by
  have hmem : n ∈ lanesOf (m &&& ~~~ g.helpers) ↔ m.getLsbD n = true ∧ g.isHelper n = false := by
    have hlt : m.getLsbD n = true → n < 32 := BitVec.lt_of_getLsbD
    rw [mem_lanesOf, BitVec.getLsbD_and, BitVec.getLsbD_not, Group.isHelper]
    grind
  rw [Group.setNr, (fold_updLane (fun _ l => { l with nr := true }) _ (lanesOf_nodup _) g n hn).1, if_congr hmem rfl rfl]

theorem setNr_zero (g : Group) : g.setNr 0 = g := by
  have hnone : (0 : BitVec 32) &&& ~~~ g.helpers = 0 := BitVec.zero_and
  rw [Group.setNr, hnone]
  rfl

theorem updGroup_id (s : State) (gid : Nat) : s.updGroup gid (fun g => g) = s := by
  rw [State.updGroup, mapWhere]
  simp

theorem updGroup_setNr_nil (s : State) (gid : Nat) : (s.updGroup gid fun g => g.setNr (maskOf [])) = s := by
  have hid : (fun g : Group => g.setNr (maskOf [])) = fun g => g := funext setNr_zero
  rw [hid, updGroup_id]

theorem maskOf_lanesOf (m : BitVec 32) : maskOf (lanesOf m) = m :=
  BitVec.eq_of_getLsbD_eq fun n hn => Bool.eq_iff_iff.mpr (by rw [getLsbD_maskOf, mem_lanesOf]; exact ⟨fun h => h.1, fun h => ⟨h, hn⟩⟩)

/-! ### The targets of a word (R195) -/

section Targets
variable (e : Env) (s : State) (off width : Nat) (n : Need)

/-- The access of one lane with the leaf that its checks find. -/
def Env.targetAt (i : Nat) : Target := ⟨i, (e.ea off (e.g.lane i)).toNat, s.checkAccess e i (e.ea off (e.g.lane i)) width n⟩

/-- The access of a lane that finds a resident page. -/
def Env.accessAt (bytes : Nat → List (BitVec 8)) (i : Nat) : Access :=
  let l := ((e.targetAt s off width n i).leaf).getD ⟨0, 0, 0, 0, false, false, false, false, false⟩
  ⟨i, (e.targetAt s off width n i).va, l.pa (e.targetAt s off width n i).va, bytes i, l.trk, l.hot⟩

variable {e s off width n}

theorem targets_of_leaves {lanes : List Nat} (h : ∀ i ∈ lanes, (e.targetAt s off width n i).leaf.isSome = true) :
    e.targets s lanes off width n = .ok (lanes.map (e.targetAt s off width n)) := by
  have hbad : (lanes.map (e.targetAt s off width n)).filter (fun t => t.leaf.isNone && !e.g.isHelper t.lane) = [] := by
    refine List.filter_eq_nil_iff.mpr fun t ht => ?_
    obtain ⟨i, hi, rfl⟩ := List.mem_map.mp ht
    simp [Option.isNone_eq_false_iff.mpr (h i hi)]
  have htargets : lanes.map (fun i => (⟨i, (e.ea off (e.g.lane i)).toNat, s.checkAccess e i (e.ea off (e.g.lane i)) width n⟩ : Target)) =
      lanes.map (e.targetAt s off width n) := rfl
  simp only [Env.targets, htargets, hbad, List.map_nil, laneFault]

/-! #### Lanes that find their pages -/

section Finds
variable {m : BitVec 32} {pa : Nat → Nat} (h : e.finds s m off width n pa)
include h

theorem targets_of_finds : e.targets s (lanesOf m) off width n = .ok ((lanesOf m).map (e.targetAt s off width n)) :=
  targets_of_leaves fun i hi => by
    obtain ⟨l, hl, -⟩ := h i ((mem_lanesOf m i).mp hi)
    rw [Env.targetAt, hl]; rfl

theorem accesses_of_finds (bytes : Nat → List (BitVec 8)) :
    accesses ((lanesOf m).map (e.targetAt s off width n)) bytes = (lanesOf m).map (e.accessAt s off width n bytes) := by
  rw [accesses, List.filterMap_map, ← List.filterMap_eq_map']
  refine List.filterMap_congr fun i hi => ?_
  obtain ⟨l, hl, hres, -⟩ := h i ((mem_lanesOf m i).mp hi)
  simp only [Function.comp_apply, Env.accessAt, Env.targetAt, hl, hres, if_true, Option.getD_some]

theorem absentLanes_of_finds : absentLanes ((lanesOf m).map (e.targetAt s off width n)) = [] := by
  rw [absentLanes, List.filter_eq_nil_iff.mpr fun t ht => ?_, List.map_nil]
  obtain ⟨i, hi, rfl⟩ := List.mem_map.mp ht
  obtain ⟨l, hl, hres, -⟩ := h i ((mem_lanesOf m i).mp hi)
  simp [Env.targetAt, hl, hres]

theorem accessAt_pa {i : Nat} (hi : m.getLsbD i = true) (bytes : Nat → List (BitVec 8)) : (e.accessAt s off width n bytes i).pa = pa i := by
  obtain ⟨l, hl, -, hpa, -⟩ := h i hi
  simp only [Env.accessAt, Env.targetAt, hl, Option.getD_some, hpa]

theorem isHere_of_finds {i : Nat} (hi : m.getLsbD i = true) : isHere (pa i) := by
  obtain ⟨l, hl, -, hpa, hrem⟩ := h i hi
  refine isHere_of_found (fun hreserved => ?_) hrem
  have hnone : s.checkAccess e i (e.ea off (e.g.lane i)) width n ≠ some l := by
    rw [hpa] at hreserved
    unfold State.checkAccess
    dsimp only
    split
    · exact nofun
    · split
      · exact nofun
      · split
        · exact nofun
        next k _ =>
          split
          · exact nofun
          next hk =>
            intro hkl
            obtain rfl := Option.some.inj hkl
            exact hk (beq_iff_eq.mpr hreserved)
  exact hnone hl

/-- Nothing holds back accesses to this device. -/
theorem behind_of_finds (g : Group) (bytes : Nat → List (BitVec 8)) : s.behind g ((lanesOf m).map (e.accessAt s off width n bytes)) = false := by
  rw [State.behind, List.any_eq_false]
  intro a ha
  obtain ⟨i, hi, rfl⟩ := List.mem_map.mp ha
  have hi := (mem_lanesOf m i).mp hi
  obtain ⟨l, -, -, -, hrem⟩ := h i hi
  rw [accessAt_pa h hi, hrem, Bool.false_and]
  exact Bool.false_ne_true

end Finds

/-! #### Lanes that find no page -/

section Absent
variable {m : BitVec 32} (h : e.absent s m off width n)
include h

theorem targets_of_absent : e.targets s (lanesOf m) off width n = .ok ((lanesOf m).map (e.targetAt s off width n)) :=
  targets_of_leaves fun i hi => by
    obtain ⟨l, hl, -⟩ := h i ((mem_lanesOf m i).mp hi)
    rw [Env.targetAt, hl]; rfl

theorem accesses_of_absent (bytes : Nat → List (BitVec 8)) : accesses ((lanesOf m).map (e.targetAt s off width n)) bytes = [] := by
  rw [accesses, List.filterMap_eq_nil_iff]
  intro t ht
  obtain ⟨i, hi, rfl⟩ := List.mem_map.mp ht
  obtain ⟨l, hl, hres⟩ := h i ((mem_lanesOf m i).mp hi)
  simp [Env.targetAt, hl, hres]

theorem absentLanes_of_absent : absentLanes ((lanesOf m).map (e.targetAt s off width n)) = lanesOf m := by
  have hall : ((lanesOf m).map (e.targetAt s off width n)).filter (fun t => match t.leaf with | some l => !l.res | none => false) =
      (lanesOf m).map (e.targetAt s off width n) := by
    refine List.filter_eq_self.mpr fun t ht => ?_
    obtain ⟨i, hi, rfl⟩ := List.mem_map.mp ht
    obtain ⟨l, hl, hres⟩ := h i ((mem_lanesOf m i).mp hi)
    simp [Env.targetAt, hl, hres]
  have hlane : (fun t : Target => t.lane) ∘ e.targetAt s off width n = fun i => i := rfl
  rw [absentLanes]
  refine (congrArg (List.map fun t : Target => t.lane) hall).trans ?_
  rw [List.map_map, hlane, List.map_id']

theorem noteTargets_of_absent (u : State) : e.noteTargets ((lanesOf m).map (e.targetAt s off width n)) u = u := by
  rw [Env.noteTargets, List.foldl_map]
  have hstep : ∀ i ∈ lanesOf m, (match (e.targetAt s off width n i).leaf with
      | some l => if l.res then u.noteLane e (e.targetAt s off width n i).lane l else u
      | none => u) = u := fun i hi => by
    obtain ⟨l, hl, hres⟩ := h i ((mem_lanesOf m i).mp hi)
    simp only [Env.targetAt, hl, hres, Bool.false_eq_true, if_false]
  revert hstep
  generalize lanesOf m = is
  intro hstep
  induction is with
  | nil => rfl
  | cons i is ih =>
    rw [List.foldl_cons]
    refine (congrArg (fun u => List.foldl _ u is) (hstep i List.mem_cons_self)).trans ?_
    exact ih fun j hj => hstep j (List.mem_cons_of_mem _ hj)

end Absent

end Targets

end Sys2Proof.Machine
end

section
/-! SUPPORT. Caches that hold copies of home lines and nothing else: what fills them, what drops from them, and what the D path then reads (10, R169, R170,
R173, R174). -/

namespace Sys2Proof.Machine

/-! ### Home lines -/

theorem get_homeBytes_from {mem : Mem} {lo : Nat} (hwf : Mem.wfFrom lo mem = true) (no : Nat) {i : Nat} (hi : i < 128) :
    (homeBytes mem no).get i = mem.get (no * 128 + i) := by
  induction mem generalizing lo with
  | nil => rfl
  | cons c mem ih =>
    obtain ⟨k, b⟩ := c
    simp only [Mem.wfFrom, Bool.and_eq_true, decide_eq_true_eq] at hwf
    have hrest := ih hwf.2
    have hlow := get_wfFrom_low mem (k + 1) (no * 128 + i) hwf.2
    by_cases hk : k / 128 = no
    · have hcons : homeBytes ((k, b) :: mem) no = (k - no * 128, b) :: homeBytes mem no := by
        rw [homeBytes, List.filter_cons_of_pos (by simpa using hk), List.map_cons, homeBytes]
      have hlt : i < k - no * 128 ↔ no * 128 + i < k := by omega
      have heq : i = k - no * 128 ↔ no * 128 + i = k := by omega
      simp only [hcons, Mem.get, hrest, hlt, heq]
    · have hcons : homeBytes ((k, b) :: mem) no = homeBytes mem no := by
        rw [homeBytes, List.filter_cons_of_neg (by simpa using hk), homeBytes]
      have hne : no * 128 + i ≠ k := by omega
      simp only [hcons, hrest, Mem.get, hne, if_false]
      split
      · exact hlow (by omega)
      · rfl

theorem get_homeBytes {mem : Mem} (hwf : mem.wf = true) (no : Nat) {i : Nat} (hi : i < 128) : (homeBytes mem no).get i = mem.get (no * 128 + i) :=
  get_homeBytes_from hwf no hi

theorem homePoison_nil (no : Nat) : homePoison [] no = 0 := rfl

/-! ### Lists of lines -/

theorem findLine_mem {ls : List Line} {no : Nat} {l : Line} (h : findLine ls no = some l) : l ∈ ls ∧ l.no = no :=
  ⟨List.mem_of_find?_eq_some h, by simpa using List.find?_some h⟩

theorem mem_dropLine {ls : List Line} {no : Nat} {l : Line} (h : l ∈ dropLine ls no) : l ∈ ls := List.mem_of_mem_filter h

theorem mem_putLine {ls : List Line} {k l : Line} (h : l ∈ putLine ls k) : l = k ∨ l ∈ ls := by
  rw [putLine] at h
  split at h
  · exact .inr (mem_dropLine h)
  · exact (List.mem_cons.mp h).imp_right mem_dropLine

/-! ### Copies of home lines -/

/-- A line that is a clean copy of its home, which is no other device's. -/
def Line.copies (l : Line) (mem : Mem) : Prop := isRemote (l.no * 128) = false ∧ ∃ f, l = { Line.clean l.no (homeBytes mem l.no) 0 with first := f }

section Copies
variable {mem : Mem} {l : Line}

theorem copies_clean {no : Nat} (hno : isRemote (no * 128) = false) (first : Bool) : ({ Line.clean no (homeBytes mem no) 0 with first := first } : Line).copies mem :=
  ⟨hno, first, rfl⟩

variable (h : l.copies mem)
include h

theorem Line.copies.valid : l.valid = BitVec.allOnes 128 := by obtain ⟨-, f, hl⟩ := h; rw [hl]; rfl

theorem Line.copies.dirty : l.dirty = 0 := by obtain ⟨-, f, hl⟩ := h; rw [hl]; rfl

theorem Line.copies.bytes : l.bytes = homeBytes mem l.no := by obtain ⟨-, f, hl⟩ := h; exact congrArg Line.bytes hl

theorem Line.copies.poisoned : l.poisoned = 0 := by
  obtain ⟨-, f, hl⟩ := h
  rw [hl]
  exact (by decide : (0#4 : BitVec 4) ||| wordsMet 0 = 0)

/-- A read of a byte that the line holds. -/
theorem Line.copies.get (hwf : mem.wf = true) (pa : Nat) (hno : l.no = lineNo pa) : l.bytes.get (pa % 128) = mem.get pa := by
  rw [h.bytes, get_homeBytes hwf _ (Nat.mod_lt _ (by decide)), hno]
  exact congrArg mem.get (Nat.div_add_mod' pa 128)

end Copies

/-! ### Machines whose D path holds copies alone -/

/-- A machine but for what its levels hold and count. -/
def State.sansD (s : State) : State := { s with cores := [], clusters := [], dies := [], l2 := [], hot := [], notices := [] }

theorem eq_of_sansD {s t : State} (h : t.sansD = s.sansD) :
    t = { s with cores := t.cores, clusters := t.clusters, dies := t.dies, l2 := t.l2, hot := t.hot, notices := t.notices } :=
  congrArg (fun u : State => { u with cores := t.cores, clusters := t.clusters, dies := t.dies, l2 := t.l2, hot := t.hot, notices := t.notices }) h

/-- The machine `t` is `s` but for what its levels hold, and the L1 of a core and its cluster cache hold copies of home lines of `s` alone. -/
structure HoldsCopies (s t : State) (core : Nat) : Prop where
  frame : t.sansD = s.sansD
  inner : ∀ l ∈ (t.core core).l1, l.copies s.mem
  outer : ∀ l ∈ t.clusterCache (clusterOf core), l.copies s.mem

theorem trimSet_frame (s : State) (set : Nat × Nat × Nat) (new : Nat) :
    s.trimSet set new = { s with l2 := (s.trimSet set new).l2, dies := (s.trimSet set new).dies } := by
  unfold State.trimSet
  dsimp only
  split
  · rfl
  · split
    · rfl
    · split <;> rfl

theorem readHome_frame (s : State) (no : Nat) (hot : Bool) (req : Nat) : s.readHome no hot req =
    { s with l2 := (s.readHome no hot req).l2, dies := (s.readHome no hot req).dies, hot := (s.readHome no hot req).hot,
             notices := (s.readHome no hot req).notices } := by
  have hput : s.putHome no = { s with l2 := (s.putHome no).l2, dies := (s.putHome no).dies } := by
    unfold State.putHome
    split
    · rfl
    · rw [trimSet_frame]
  unfold State.readHome
  split
  · rfl
  · dsimp only
    split
    · rw [State.countHot, hput]
    · rw [hput]

theorem victim_mem {s : State} {at_ : Nat} {ls : List Line} {v : Line} (h : victim s at_ ls = some v) : v ∈ ls := by
  have hmem := List.mem_of_getElem? h
  split at hmem
  · exact hmem
  · exact List.mem_of_mem_filter hmem

/-- A line that such a cache holds is whole. -/
theorem whole_of_copies {mem : Mem} {ls : List Line} (hls : ∀ l ∈ ls, l.copies mem) {no : Nat}
    (hpart : ¬ ((findLine ls no).map (fun l => l.valid == BitVec.allOnes 128)).getD false = true) : findLine ls no = none := by
  cases hfind : findLine ls no with
  | none => rfl
  | some l =>
    rw [hfind] at hpart
    exact absurd (beq_iff_eq.mpr (hls l (findLine_mem hfind).1).valid) hpart

section Ops
variable {s t : State} {core : Nat} (h : HoldsCopies s t core)
include h

theorem HoldsCopies.mem : t.mem = s.mem := (congrArg State.mem h.frame :)

theorem HoldsCopies.poison : t.poison = s.poison := (congrArg State.poison h.frame :)

theorem HoldsCopies.setCluster {ls : List Line} (hls : ∀ l ∈ ls, l.copies s.mem) : HoldsCopies s (t.setClusterCache (clusterOf core) ls) core where
  frame := h.frame
  inner := h.inner
  outer := by rw [clusterCache_setClusterCache]; exact hls

theorem HoldsCopies.setL1 {ls : List Line} (hls : ∀ l ∈ ls, l.copies s.mem) : HoldsCopies s (t.setCore core { t.core core with l1 := ls }) core where
  frame := h.frame
  inner := by rw [core_setCore]; exact hls
  outer := h.outer

theorem HoldsCopies.readHome (no : Nat) (hot : Bool) (req : Nat) : HoldsCopies s (t.readHome no hot req) core where
  frame := (congrArg State.sansD (readHome_frame ..)).trans h.frame
  inner := by rw [readHome_frame]; exact h.inner
  outer := by rw [readHome_frame]; exact h.outer

/-- Nothing of such caches goes outward. -/
theorem HoldsCopies.backCluster (ctx : Option Nat) (no : Nat) : t.backCluster ctx (clusterOf core) no = t := by
  unfold State.backCluster State.backClusterIn
  split
  · rfl
  next l hl =>
    rw [if_pos]
    rw [(h.outer l (findLine_mem hl).1).dirty]
    rfl

theorem HoldsCopies.backL1 (no : Nat) : t.backL1 core no = t := by
  unfold State.backL1 State.backL1In
  dsimp only
  split
  · rfl
  next l hl =>
    rw [if_pos]
    rw [(h.inner l (findLine_mem hl).1).dirty]
    rfl

theorem HoldsCopies.putCluster {l : Line} (hl : l.copies s.mem) : HoldsCopies s (t.putCluster (clusterOf core) l) core := by
  have hput : HoldsCopies s (t.setClusterCache (clusterOf core) (putLine (t.clusterCache (clusterOf core)) l)) core :=
    h.setCluster fun k hk => (mem_putLine hk).elim (fun hk => hk ▸ hl) (h.outer k)
  unfold State.putCluster
  dsimp only
  split
  · exact hput
  · split
    · exact hput
    · split
      · exact hput
      · rw [hput.backCluster]
        exact hput.setCluster fun k hk => hput.outer k (mem_dropLine hk)

theorem HoldsCopies.putL1 {l : Line} (hl : l.copies s.mem) : HoldsCopies s (t.putL1 core l) core := by
  have hput : HoldsCopies s (t.setCore core { t.core core with l1 := putLine (t.core core).l1 l }) core :=
    h.setL1 fun k hk => (mem_putLine hk).elim (fun hk => hk ▸ hl) (h.inner k)
  unfold State.putL1
  dsimp only
  split
  · exact hput
  · split
    · exact hput
    · rw [hput.backL1]
      exact hput.setL1 fun k hk => hput.inner k (mem_dropLine hk)

variable (hpoison : s.poison = []) {no : Nat} (hno : isRemote (no * 128) = false)
include hpoison hno

theorem HoldsCopies.fillCluster (die : Nat) (hot first : Bool) : HoldsCopies s (t.fillCluster (clusterOf core) die no hot first) core := by
  unfold State.fillCluster
  dsimp only
  split
  · exact h
  next hpart =>
    have houter : t.outerLine die no = some (homeBytes s.mem no, 0) := by
      rw [State.outerLine, if_neg (by rw [hno]; exact Bool.false_ne_true), h.mem, h.poison, hpoison, homePoison_nil]
    rw [houter, whole_of_copies h.outer hpart]
    exact (h.readHome no hot die).putCluster (copies_clean hno first)

theorem HoldsCopies.fillL1 (hot first : Bool) : HoldsCopies s (t.fillL1 core no hot first) core := by
  unfold State.fillL1
  dsimp only
  split
  · exact h
  next hpart =>
    have hfill := h.fillCluster hpoison hno (dieOf core) hot first
    split
    · exact hfill
    next l hl =>
      obtain ⟨hmem, rfl⟩ := findLine_mem hl
      have hcopy := hfill.outer l hmem
      rw [if_pos (beq_iff_eq.mpr hcopy.valid), whole_of_copies h.inner hpart, hcopy.bytes, hcopy.poisoned]
      exact hfill.putL1 (copies_clean hno first)

end Ops

/-! ### Reads on the D path -/

section Reads
variable {s t : State} {core : Nat} (h : HoldsCopies s t core)
include h

theorem HoldsCopies.fold {α : Type} {f : State → α → State} (xs : List α) (hf : ∀ t, HoldsCopies s t core → ∀ x ∈ xs, HoldsCopies s (f t x) core) :
    HoldsCopies s (xs.foldl f t) core := by
  induction xs generalizing t with
  | nil => exact h
  | cons x xs ih => exact ih (hf t h x List.mem_cons_self) fun t ht y hy => hf t ht y (List.mem_cons_of_mem _ hy)

theorem HoldsCopies.mayDrop (no i : Nat) : HoldsCopies s (t.mayDrop core no i) core := by
  have hinner : ∀ u, HoldsCopies s u core → ∀ p : Bool,
      HoldsCopies s (if p = true then u.setCore core { u.core core with l1 := dropLine (u.core core).l1 no } else u) core := fun u hu p => by
    split
    · exact hu.setL1 fun l hl => hu.inner l (mem_dropLine hl)
    · exact hu
  have houter : ∀ p : Bool, HoldsCopies s (if p = true then t.setClusterCache (clusterOf core) (dropLine (t.clusterCache (clusterOf core)) no) else t) core :=
    fun p => by
      split
      · exact h.setCluster fun l hl => h.outer l (mem_dropLine hl)
      · exact h
  exact hinner _ (houter _) _

variable (hpoison : s.poison = [])
include hpoison

theorem HoldsCopies.seeD (hwf : s.mem.wf = true) {pa : Nat} (hpa : isRemote pa = false) : t.seeD core pa = some (s.mem.get pa, false) := by
  have hread {ls : List Line} (hls : ∀ l ∈ ls, l.copies s.mem) {l : Line} (hl : findLine ls (lineNo pa) = some l) :
      (if l.valid.getLsbD (pa % 128) = true then some (l.bytes.get (pa % 128), l.poisoned.getLsbD (pa % 128 / 32)) else none) =
        some (s.mem.get pa, false) := by
    obtain ⟨hmem, hno⟩ := findLine_mem hl
    have hcopy := hls l hmem
    rw [hcopy.valid, if_pos (by rw [BitVec.getLsbD_allOnes]; exact decide_eq_true (Nat.mod_lt _ (by decide))), hcopy.get hwf pa hno, hcopy.poisoned]
    simp
  unfold State.seeD
  dsimp only
  cases hinner : findLine (t.core core).l1 (lineNo pa) with
  | some l => simp only [hread h.inner hinner]
  | none =>
    cases houter : findLine (t.clusterCache (clusterOf core)) (lineNo pa) with
    | some l => simp only [hread h.outer houter]
    | none => simp only [hpa, Bool.false_eq_true, if_false, h.mem, h.poison, hpoison]; rfl

theorem HoldsCopies.seeBytes (hwf : s.mem.wf = true) {pa n : Nat} (hpa : ∀ j, j < n → isRemote (pa + j) = false) :
    t.seeBytes core pa n = some (s.mem.read pa n, false) := by
  induction n generalizing pa with
  | zero => rfl
  | succ n ih =>
    have hrest := ih (pa := pa + 1) fun j hj => by rw [Nat.add_assoc, Nat.add_comm 1]; exact hpa (j + 1) (by omega)
    have hfirst := h.seeD hpoison hwf (pa := pa) (hpa 0 (Nat.zero_lt_succ n))
    rw [State.seeBytes, hfirst, hrest]
    rfl

theorem HoldsCopies.allocate {pa n : Nat} (hlines : ∀ no ∈ linesOf pa n, isRemote (no * 128) = false) (policy : BitVec 2) (hot : Bool) :
    HoldsCopies s (t.allocate core pa n policy hot) core := by
  refine h.fold _ fun t ht no hno => ?_
  split
  · split
    · exact ht
    · exact ht.readHome ..
  · exact ht.fillL1 hpoison (hlines no hno) ..

end Reads

/-! ### A load on the D path (R197) -/

/-- The lines that a short access of this device meets are this device's, and so are its bytes. -/
theorem linesOf_not_remote {pa n : Nat} (hpa : isHere pa) (hn : 0 < n ∧ n ≤ 16) : ∀ no ∈ linesOf pa n, isRemote (no * 128) = false := by
  intro no hno
  obtain ⟨i, hi, rfl⟩ := List.mem_map.mp hno
  rw [List.mem_range] at hi
  exact line_not_remote hpa hn.2 (by omega)

theorem byte_not_remote {pa n j : Nat} (hpa : isHere pa) (hn : n ≤ 16) (hj : j < n) : isRemote (pa + j) = false := by
  have hlt := lt_deepEnd_of_isHere hpa
  have hend : deepEnd = 0x0140000000000 := rfl
  have hbase : systemBase = 0x8000000000000 := rfl
  exact not_remote_of_lt (by omega)

section Load
variable {s : State} {g : Group} (hwf : s.mem.wf = true) (hpoison : s.poison = [])
include hwf hpoison

/-- One lane's read: its bytes of memory, and copies fill the caches. -/
theorem readingStep_eq {r : Reading} (hr : HoldsCopies s r.s g.core) (hnone : r.poisoned = [] ∧ r.parts = []) {a : Access} (ha : isHere a.pa) {width : Nat}
    (hlen : a.bytes.length = width) (hwidth : 0 < width ∧ width ≤ 16) (policy : BitVec 2) (dest : Nat) :
    ∃ t src, Reading.step g policy dest width r a = ⟨t, r.writes ++ [⟨a.lane, dest, loaded width (s.mem.read a.pa width)⟩], [], src, []⟩ ∧
      HoldsCopies s t g.core := by
  have hlines := linesOf_not_remote ha hwidth
  have ht : HoldsCopies s (((linesOf a.pa width).foldl (fun s no => s.mayDrop g.core no a.lane) r.s).allocate g.core a.pa width policy a.hot) g.core :=
    (hr.fold _ fun t ht no _ => ht.mayDrop no a.lane).allocate hpoison hlines policy a.hot
  have hsee := ht.seeBytes hpoison hwf fun j hj => byte_not_remote ha hwidth.2 hj
  refine ⟨_, r.src ++ [⟨a.lane, dest, a.pa, width, width, []⟩], ?_, ht⟩
  simp only [Reading.step, hlen, hsee, Bool.false_and, Bool.false_eq_true, if_false, hnone.1, hnone.2]

theorem readingFold_eq {as : List Access} (has : ∀ a ∈ as, isHere a.pa) {width : Nat} (hlen : ∀ a ∈ as, a.bytes.length = width)
    (hwidth : 0 < width ∧ width ≤ 16) (policy : BitVec 2) (dest : Nat) {r : Reading} (hr : HoldsCopies s r.s g.core)
    (hnone : r.poisoned = [] ∧ r.parts = []) :
    ∃ t src, as.foldl (Reading.step g policy dest width) r =
        ⟨t, r.writes ++ as.map (fun a => ⟨a.lane, dest, loaded width (s.mem.read a.pa width)⟩), [], src, []⟩ ∧ HoldsCopies s t g.core := by
  induction as generalizing r with
  | nil => exact ⟨r.s, r.src, by rw [List.map_nil, List.append_nil, ← hnone.1, ← hnone.2]; rfl, hr⟩
  | cons a as ih =>
    obtain ⟨t, src, hstep, ht⟩ := readingStep_eq hwf hpoison hr hnone (has a List.mem_cons_self) (hlen a List.mem_cons_self) hwidth policy dest
    obtain ⟨t', src', hfold, ht'⟩ := ih (fun b hb => has b (List.mem_cons_of_mem _ hb)) (fun b hb => hlen b (List.mem_cons_of_mem _ hb))
      (r := ⟨t, r.writes ++ [⟨a.lane, dest, loaded width (s.mem.read a.pa width)⟩], [], src, []⟩) ht ⟨rfl, rfl⟩
    exact ⟨t', src', by rw [List.foldl_cons, hstep, hfold, List.map_cons, List.append_assoc]; rfl, ht'⟩

/-- A load where the caches of the core hold nothing reads memory. -/
theorem performLoad_of_no_lines (hl1 : (s.core g.core).l1 = []) (hcc : s.clusterCache (clusterOf g.core) = []) {as : List Access}
    (has : ∀ a ∈ as, isHere a.pa) {width : Nat} (hlen : ∀ a ∈ as, a.bytes.length = width) (hwidth : 0 < width ∧ width ≤ 16) (policy : BitVec 2) (dest : Nat)
    (zeros : List LaneWrite) : ∃ t src, s.performLoad g policy zeros as dest width =
      .ok ⟨t, zeros ++ as.map (fun a => ⟨a.lane, dest, loaded width (s.mem.read a.pa width)⟩), [], src, []⟩ ∧ HoldsCopies s t g.core := by
  have hstart : HoldsCopies s s g.core := ⟨rfl, by rw [hl1]; exact nofun, by rw [hcc]; exact nofun⟩
  obtain ⟨t, src, hfold, ht⟩ := readingFold_eq hwf hpoison has hlen hwidth policy dest (r := ⟨s, zeros, [], [], []⟩) hstart ⟨rfl, rfl⟩
  have hheld : as.any (fun a => (linesOf a.pa a.bytes.length).any fun no =>
      (findLine (s.core g.core).l1 no).isSome || (findLine (s.clusterCache (clusterOf g.core)) no).isSome) = false := by
    rw [hl1, hcc]
    simp [findLine]
  refine ⟨t, src, ?_, ht⟩
  simp only [State.performLoad, hheld, Bool.false_eq_true, if_false, hfold, laneFault]

end Load

end Sys2Proof.Machine
end

section
/-! SUPPORT. Proofs about global loads (11, R195, R197; 10, R170, R174, R184; 07, R117). -/

namespace Sys2Proof.Machine

/-! ### How a load or a store ends -/

section Ends
variable {s v : State} {e : Env} {la : BitVec 4} {job : Job} {ls : List Lane}

theorem window_of_same (hfresh : v.fresh = s.fresh) : e.window v la.toNat = e.window s la.toNat := by rw [Env.window, Env.window, hfresh]

/-- The group of a long-latency word whose lanes have changed. -/
theorem group_launchLong_lanes (hfresh : v.fresh = s.fresh) (hgroup : v.group? e.g.gid = some (e.g.withLanes ls)) :
    (e.launchLong la job v).group? e.g.gid = some (((e.windowed s la).goto e.iss.slotB (e.iss.pc + 4)).withLanes ls) := by
  rw [group_launchLong la job hgroup, window_of_same hfresh, ← goto_lanes]
  rfl

/-- A long-latency word whose lanes took NR goes on. -/
theorem marksNr_launchLong (he : s.env = some e) (m : BitVec 32) : e.marksNr s (e.launchLong la job (s.updGroup e.g.gid fun g => g.setNr m)) m
    (e.windowed s la) { s with requests := s.requests ++ [e.request s job] } := by
  have hgroup : (s.updGroup e.g.gid fun g => g.setNr m).group? e.g.gid = some (e.g.withLanes (e.g.setNr m).lanes) := by
    rw [group_updGroup _ _ _ fun g => setNr_gid g m, env_group he, ← setNr_eq]
    rfl
  refine ⟨rfl, fun k hk => ?_, _, group_launchLong_lanes rfl hgroup, rfl, fun n hn => lane_setNr e.g m hn⟩
  rw [group_launchLong_other la job hk, group_updGroup_other _ _ _ _ (fun g => setNr_gid g m) hk]

/-- A word that has noted its pages and read goes on with its request. -/
theorem launchLong_ends {u : State} (hu : NotesPages s u e.g.gid) (hv : v.sansD = u.sansD) (hgroup : s.group? e.g.gid = some e.g) :
    e.launchLong la job v = { s with
        groups := (e.launchLong la job v).groups, requests := s.requests ++ [e.request s job], fresh := s.fresh + 1, issue := none,
        cores := (e.launchLong la job v).cores, clusters := (e.launchLong la job v).clusters, dies := (e.launchLong la job v).dies,
        l2 := (e.launchLong la job v).l2, hot := (e.launchLong la job v).hot, notices := (e.launchLong la job v).notices } ∧
      (∀ k, k ≠ e.g.gid → (e.launchLong la job v).group? k = s.group? k) ∧
      ∃ grp, (e.launchLong la job v).group? e.g.gid = some grp ∧ grp = ((e.windowed s la).goto e.iss.slotB (e.iss.pc + 4)).withLanes grp.lanes ∧
        ∀ n, n < e.g.lanes.length → ∃ p, grp.lane n = (e.g.lane n).withPage p := by
  have hframe := hu.frame
  have hgroups (k : Nat) : v.group? k = u.group? k := (congrArg (fun t : State => t.group? k) hv :)
  have hfresh : v.fresh = s.fresh := (congrArg State.fresh hv :).trans (congrArg State.fresh hframe :)
  have htime : v.time = s.time := (congrArg State.time hv :).trans (congrArg State.time hframe :)
  obtain ⟨ls, hls, hpages⟩ := hu.group e.g hgroup
  refine ⟨?_, fun k hk => ?_, _, group_launchLong_lanes hfresh ((hgroups _).trans hls), rfl, hpages.2⟩
  · rw [launchLong_frame, request_of_same _ hfresh htime]
    rw [eq_of_sansD hv, hframe]
  · rw [group_launchLong_other la job hk, hgroups, hu.others k hk]

end Ends

/-! ### A word that waits for its release (07, R117) -/

section Release
variable {s u : State} {e : Env} {sc : Scope} {after : After} {ls : List Lane}

/-- The group of a word whose slot waits for a release. -/
theorem wait_of_await {g : Group} {w : Wait} (hg : u.group? e.g.gid = some g) : ∃ grp, (e.await w u).group? e.g.gid = some grp ∧
    (grp.slot e.iss.slotB).wait = some w ∧ grp.lanes = g.lanes := by
  refine ⟨_, group_await w hg, ?_, ?_⟩
  · cases e.iss.slotB <;> rfl
  · cases e.iss.slotB <;> rfl

/-- Whether or not it opens a window, the word leaves its request and its slot waits for it. -/
theorem awaitRelease_ends (la : Option Nat) (hu : NotesPages s u e.g.gid) (hgroup : s.group? e.g.gid = some e.g) :
    (e.awaitRelease la sc after u).requests = s.requests ++ [e.request s (.release sc after)] ∧ (e.awaitRelease la sc after u).mem = s.mem ∧
      ∃ grp, (e.awaitRelease la sc after u).group? e.g.gid = some grp ∧ (grp.slot e.iss.slotB).wait = some (.request s.fresh) ∧
        ∀ n, n < e.g.lanes.length → ∃ p, grp.lane n = (e.g.lane n).withPage p := by
  have hframe := hu.frame
  have hfresh : u.fresh = s.fresh := (congrArg State.fresh hframe :)
  have hreq : e.request u (.release sc after) = e.request s (.release sc after) := request_of_same _ hfresh (congrArg State.time hframe :)
  have hreqs : u.requests = s.requests := (congrArg State.requests hframe :)
  have hmem : u.mem = s.mem := (congrArg State.mem hframe :)
  obtain ⟨ls, hls, hpages⟩ := hu.group e.g hgroup
  rw [← hreq, ← hreqs, ← hmem, ← hfresh]
  cases la with
  | none =>
    obtain ⟨grp, hgrp, hwait, hlanes⟩ := wait_of_await (w := .request u.fresh) ((group_submit (.release sc after) _).trans hls)
    exact ⟨rfl, rfl, grp, hgrp, hwait, fun n hn => by rw [Group.lane, hlanes]; exact hpages.2 n hn⟩
  | some la =>
    have hopen : (e.openWindow la (.release sc after) u).group? e.g.gid =
        some { e.g.withLanes ls with windows := e.g.windows ++ [e.window u la] } := by
      rw [Env.openWindow, group_submit, group_updGroup _ _ _ fun _ => by rfl, hls]
      rfl
    obtain ⟨grp, hgrp, hwait, hlanes⟩ := wait_of_await (w := .request u.fresh) hopen
    exact ⟨rfl, rfl, grp, hgrp, hwait, fun n hn => by rw [Group.lane, hlanes]; exact hpages.2 n hn⟩

end Release

/-! ### LD.g -/

/-- The forms of LD.g with their widths. -/
def globalLoadForms (g : BitVec 3) (t a : BitVec 7) (la : BitVec 4) (sc o : BitVec 2) : List (Instr × Nat) :=
  [(.ldGB8 g t a la sc o, 1), (.ldGB16 g t a la sc o, 2), (.ldGB32 g t a la sc o, 4), (.ldGB64 g t a la sc o, 8), (.ldGB128 g t a la sc o, 16)]

section Load
variable {s : State} {e : Env} {g : BitVec 3} {t a : BitVec 7} {la : BitVec 4} {sc o : BitVec 2} {width : Nat}

theorem exec_globalLoad {x : Instr × Nat} (hx : x ∈ globalLoadForms g t a la sc o) (s : State) :
    exec x.1 s = loadGlobal x.2 g t a la sc o s ∧ 0 < x.2 ∧ x.2 ≤ 16 := by
  simp only [globalLoadForms, List.mem_cons, List.not_mem_nil, or_false] at hx
  obtain rfl | rfl | rfl | rfl | rfl := hx
  all_goals exact ⟨rfl, Nat.zero_lt_succ _, by simp⟩

variable (he : s.env = some e)
include he

theorem loadGlobal_illegal (hdet : e.l.det = true) (ho : o ≠ 0) : loadGlobal width g t a la sc o s = .next (e.takeFault .illegal s) :=
  inWord_error he (by simp only [hdet, bne_iff_ne.mpr ho, Bool.and_self, if_true])

variable (hdet : e.l.det = false)
include hdet

theorem loadGlobal_absent (ho : o = 0) (habsent : e.absent s (e.act g) (e.v a) width .read) :
    loadGlobal width g t a la sc o s = .next (e.launchLong la (.load ((lanesOf (e.act g)).map fun n => ⟨n, e.v t, loaded width (List.replicate width 0)⟩)
      [] [] none) (s.updGroup e.g.gid fun x => x.setNr (e.act g))) := by
  refine inWord_ok he ?_
  subst ho
  have hzeros : (((lanesOf (e.act g)).map (e.targetAt s (e.v a) width .read)).filter fun _ => true) =
      (lanesOf (e.act g)).map (e.targetAt s (e.v a) width .read) := List.filter_eq_self.mpr fun _ _ => rfl
  simp only [hdet, Bool.false_and, Bool.false_eq_true, if_false, targets_of_absent habsent, accesses_of_absent habsent, absentLanes_of_absent habsent,
    noteTargets_of_absent habsent, stamp_of_not_det hdet, maskOf_lanesOf, State.behind, List.any_nil, Bool.not_false, hzeros, List.map_map]
  rfl

omit he hdet in
/-- The machine when a word has noted the pages of its lanes. -/
def Env.noted (e : Env) (s : State) (m : BitVec 32) (off width : Nat) (n : Need) : State := e.noteTargets ((lanesOf m).map (e.targetAt s off width n)) s

/-- The accesses of a load whose lanes find their pages. -/
def Env.loads (e : Env) (s : State) (g : BitVec 3) (a : BitVec 7) (width : Nat) : List Access :=
  (lanesOf (e.act g)).map (e.accessAt s (e.v a) width .read fun _ => List.replicate width 0)

omit he hdet in
/-- No lane of such a load gets zeros. -/
theorem zeros_of_finds : ((lanesOf (e.act g)).map (e.targetAt s (e.v a) width .read)).filter
    (fun x => !((e.loads s g a width).any fun r => r.lane == x.lane)) = [] := by
  refine List.filter_eq_nil_iff.mpr fun x hx => ?_
  obtain ⟨i, hi, rfl⟩ := List.mem_map.mp hx
  have hany : ((e.loads s g a width).any fun r => r.lane == (e.targetAt s (e.v a) width .read i).lane) = true :=
    List.any_eq_true.mpr ⟨_, List.mem_map_of_mem hi, beq_iff_eq.mpr rfl⟩
  rw [hany]
  exact Bool.false_ne_true

variable {pa : Nat → Nat} (hfinds : e.finds s (e.act g) (e.v a) width .read pa)
include hfinds

/-- A strong load whose lanes find their pages waits for its release. -/
theorem loadGlobal_strong (ho : o = 2) (hact : e.act g ≠ 0) : loadGlobal width g t a la sc o s =
    .next (e.awaitRelease (some la.toNat) (e.scope sc) (.load e.policy [] (e.loads s g a width) (e.v t) width) (e.noted s (e.act g) (e.v a) width .read)) := by
  refine inWord_ok he ?_
  have hzeros := zeros_of_finds (s := s) (e := e) (g := g) (a := a) (width := width)
  have hloads := accesses_of_finds hfinds fun _ => List.replicate width 0
  have hbehind := behind_of_finds hfinds e.g fun _ => List.replicate width 0
  simp only [Env.loads] at hzeros
  subst ho
  simp only [hdet, Bool.false_and, Bool.false_eq_true, if_false, targets_of_finds hfinds, hloads, hbehind, absentLanes_of_finds hfinds, hzeros,
    stamp_of_not_det hdet, updGroup_setNr_nil, List.map_nil, bne_iff_ne.mpr hact, Bool.and_true, decide_true, if_true]
  rfl

/-- Another load whose lanes find their pages reads, and goes on. -/
theorem loadGlobal_reads (ho : o = 0 ∨ o = 1) {r : Reading} {v : State}
    (hr : (e.noted s (e.act g) (e.v a) width .read).performLoad e.g e.policy [] (e.loads s g a width) (e.v t) width = .ok r)
    (hv : e.sendLoad la (e.act g) r (if o = 1 && e.act g != 0 then some (e.scope sc) else none) = .ok v) :
    loadGlobal width g t a la sc o s = .next v := by
  refine inWord_ok he ?_
  have hzeros := zeros_of_finds (s := s) (e := e) (g := g) (a := a) (width := width)
  have hloads := accesses_of_finds hfinds fun _ => List.replicate width 0
  have hbehind := behind_of_finds hfinds e.g fun _ => List.replicate width 0
  have hweak : decide (o = 2) = false := by obtain rfl | rfl := ho <;> rfl
  simp only [Env.loads, Env.noted] at hzeros hr
  simp only [hdet, Bool.false_and, Bool.false_eq_true, if_false, targets_of_finds hfinds, hloads, hbehind, absentLanes_of_finds hfinds, hzeros,
    stamp_of_not_det hdet, updGroup_setNr_nil, List.map_nil, hweak, hr, hv]

/-- A load without a release, where the caches hold nothing: its request carries each lane's bytes of memory. -/
theorem loadGlobal_ends (hwf : s.mem.wf = true) (hcaches : e.noCaches s) (hstash : ∀ w ∈ s.workgroups, w.stashes = [])
    (hwidth : 0 < width ∧ width ≤ 16) (ho : o = 0 ∨ o = 1) : ∃ u v src, NotesPages s u e.g.gid ∧ v.sansD = u.sansD ∧
      loadGlobal width g t a la sc o s = .next (e.launchLong la (.load ((lanesOf (e.act g)).map fun n =>
        ⟨n, e.v t, loaded width (s.mem.read (pa n) width)⟩) [] src none) v) := by
  obtain ⟨hl1, hcc, hpoison⟩ := hcaches
  have hu : NotesPages s (e.noted s (e.act g) (e.v a) width .read) e.g.gid := notesPages_noteTargets ..
  have hexec := fun r v => loadGlobal_reads (t := t) (la := la) (sc := sc) he hdet hfinds ho (r := r) (v := v)
  generalize e.noted s (e.act g) (e.v a) width .read = u at hu hexec
  have hmem : u.mem = s.mem := (congrArg State.mem hu.frame :)
  have hl1' : (u.core e.g.core).l1 = [] := by obtain ⟨tlb, htlb⟩ := hu.core e.g.core; rw [htlb, ← hl1]
  have hcc' : u.clusterCache (clusterOf e.g.core) = [] := by rw [← hcc, hu.frame]; rfl
  have hhere : ∀ r ∈ e.loads s g a width, isHere r.pa := fun r hr => by
    obtain ⟨i, hi, rfl⟩ := List.mem_map.mp hr
    have hi := (mem_lanesOf _ i).mp hi
    rw [accessAt_pa hfinds hi]
    exact isHere_of_finds hfinds hi
  obtain ⟨v, src, hread, hv⟩ := performLoad_of_no_lines (s := u) (g := e.g) (hmem ▸ hwf) ((congrArg State.poison hu.frame :).trans hpoison) hl1' hcc' hhere
    (fun r hr => by obtain ⟨i, -, rfl⟩ := List.mem_map.mp hr; exact List.length_replicate) hwidth e.policy (e.v t) []
  have hwrites : ([] : List LaneWrite) ++ (e.loads s g a width).map (fun r => ⟨r.lane, e.v t, loaded width (u.mem.read r.pa width)⟩) =
      (lanesOf (e.act g)).map fun n => ⟨n, e.v t, loaded width (s.mem.read (pa n) width)⟩ := by
    rw [List.nil_append, Env.loads, List.map_map, hmem]
    refine List.map_congr_left fun i hi => ?_
    show (⟨i, e.v t, loaded width (s.mem.read (e.accessAt s (e.v a) width .read _ i).pa width)⟩ : LaneWrite) = _
    rw [accessAt_pa hfinds ((mem_lanesOf _ i).mp hi)]
  rw [hwrites] at hread
  by_cases hacq : (decide (o = 1) && e.act g != 0) = true
  · have hwgs : v.workgroups = s.workgroups := (congrArg State.workgroups hv.frame :).trans (congrArg State.workgroups hu.frame :)
    have hsends : e.sends v (v.invalidate e.g.core (e.scope sc)) = v.invalidate e.g.core (e.scope sc) :=
      sends_of_same_outbox e (by rw [invalidate_frame])
    refine ⟨u, v.invalidate e.g.core (e.scope sc), src, hu, Eq.trans ?_ hv.frame, hexec _ _ hread ?_⟩
    · rw [invalidate_frame]; rfl
    · rw [if_pos hacq, Env.sendLoad]
      simp only [List.isEmpty_nil, if_true, acquireE_eq_invalidate (hwgs ▸ hstash), hsends]
  · exact ⟨u, v, src, hu, hv.frame, hexec _ _ hread (by rw [if_neg hacq]; rfl)⟩

end Load

/-- Settles O33: by what the word reads where the caches of its core hold nothing, since every line that it fills is a copy of its home. -/
theorem globalLoads : Obligations.GlobalLoads := by
  unfold Obligations.GlobalLoads
  intro s e g t a la sc o pa he x hx
  obtain ⟨hexec, hwidth⟩ := exec_globalLoad hx s
  have hgroup := env_group he
  rw [hexec]
  refine ⟨fun hdet ho => ?illegal, fun hdet ho habsent => ?absent, fun hdet hwf hcaches hstash hfinds => ⟨fun ho => ?reads, fun ho hact => ?strong⟩⟩
  case illegal => exact hexec.trans (loadGlobal_illegal he hdet ho)
  case absent => exact ⟨_, loadGlobal_absent he hdet ho habsent, marksNr_launchLong he _⟩
  case reads =>
    obtain ⟨u, v, src, hu, hv, hload⟩ := loadGlobal_ends (t := t) (la := la) (sc := sc) he hdet hfinds hwf hcaches hstash hwidth ho
    obtain ⟨hframe, hothers, grp, hgrp, hwent, hlanes⟩ := launchLong_ends (la := la) (job := .load ((lanesOf (e.act g)).map fun n =>
      ⟨n, e.v t, loaded x.2 (s.mem.read (pa n) x.2)⟩) [] src none) hu hv hgroup
    exact ⟨_, src, grp, hload, hframe, hothers, hgrp, hwent, hlanes⟩
  case strong =>
    obtain ⟨hreqs, hmem, grp, hgrp, hwait, hlanes⟩ := awaitRelease_ends (sc := e.scope sc) (after := .load e.policy [] (e.loads s g a x.2) (e.v t) x.2)
      (some la.toNat) (notesPages_noteTargets e ((lanesOf (e.act g)).map (e.targetAt s (e.v a) x.2 .read)) s) hgroup
    refine ⟨_, e.loads s g a x.2, grp, loadGlobal_strong he hdet hfinds ho hact, hreqs, fun n hn => ?_, hmem, hgrp, hwait, hlanes⟩
    exact ⟨_, List.mem_map_of_mem ((mem_lanesOf _ n).mpr hn), rfl, accessAt_pa hfinds hn _, List.length_replicate⟩

end Sys2Proof.Machine
end

section
/-! SUPPORT. Proofs about loads from the Local Store, the constant segment and the tile path (11, R198–R200; 10, R175). -/

namespace Sys2Proof.Machine

/-- The widths of these words are 2, 4, 8 and 16 bytes. -/
theorem widthBytes_cases (w : BitVec 2) : widthBytes w = 2 ∨ widthBytes w = 4 ∨ widthBytes w = 8 ∨ widthBytes w = 16 := by
  revert w; decide

theorem widthBytes_pos (w : BitVec 2) : 0 < widthBytes w := by have := widthBytes_cases w; omega

/-! ### LD.l outside the stash windows -/

section Local
variable {s : State} {e : Env} {off width : Nat} {tw : Nat → Workgroup} {o : Nat → Nat}

/-- The place in the Local Store that a lane's address word names. -/
def Env.lsAt (e : Env) (s : State) (off width i : Nat) : Option (Workgroup × Nat) :=
  e.lsTarget s ((e.ea off (e.g.lane i) >>> 32).truncate 32) ((e.ea off (e.g.lane i)).truncate 32) width

/-- A walk through lanes whose places lie outside the stash windows fills nothing and finds nothing wrong. -/
theorem lsWalk_eq {lanes : List Nat} (h : ∀ i ∈ lanes, e.lsAt s off width i = some (tw i, o i) ∧ (tw i).stashAt (o i) = none) (deny : List Nat) :
    e.lsWalk s deny lanes off width = ⟨s, [], [], [], [], lanes.map fun i => (i, (tw i).wid, o i)⟩ := by
  have hfold (at_ : List (Nat × Nat × Nat)) : lanes.foldl (LsWalk.step e deny off width) ⟨s, [], [], [], [], at_⟩ =
      ⟨s, [], [], [], [], at_ ++ lanes.map fun i => (i, (tw i).wid, o i)⟩ := by
    induction lanes generalizing at_ with
    | nil => rw [List.map_nil, List.append_nil]; rfl
    | cons i is ih =>
      obtain ⟨htarget, hstash⟩ := h i List.mem_cons_self
      have hstep : LsWalk.step e deny off width ⟨s, [], [], [], [], at_⟩ i = ⟨s, [], [], [], [], at_ ++ [(i, (tw i).wid, o i)]⟩ := by
        rw [Env.lsAt] at htarget
        simp only [LsWalk.step, htarget, hstash]
      rw [List.foldl_cons, hstep, ih (fun j hj => h j (List.mem_cons_of_mem _ hj)), List.map_cons, List.append_assoc]
      rfl
  exact hfold []

/-- What stands under a key in a list made of its keys. -/
theorem find_map_key {β : Type} {is : List Nat} (f : Nat → β) {i : Nat} (hi : i ∈ is) : (is.map fun j => (j, f j)).find? (fun x => x.1 == i) = some (i, f i) := by
  induction is with
  | nil => cases hi
  | cons j is ih =>
    rw [List.map_cons, List.find?_cons]
    by_cases hj : j = i
    · subst hj; simp
    · simp only [beq_eq_false_iff_ne.mpr hj]
      exact ih ((List.mem_cons.mp hi).resolve_left (Ne.symm hj))

variable {g : BitVec 3} {t a : BitVec 7} {la : BitVec 4} {w : BitVec 2} (he : s.env = some e) (hdet : e.l.det = false) (hh : e.g.isHandler = false)
include he hdet hh

theorem ldL_eq (h : ∀ n, (e.act g).getLsbD n = true → e.lsAt s (e.v a) (widthBytes w) n = some (tw n, o n) ∧
      s.wg? (tw n).wid = some (tw n) ∧ (tw n).stashAt (o n) = none ∧ (tw n).lsPoison = []) :
    exec (.ldL g t a la w) s = .next (e.launchLong la (.load ((lanesOf (e.act g)).map fun n =>
      ⟨n, e.v t, loaded (widthBytes w) ((tw n).ls.read (o n) (widthBytes w))⟩) [] [] none) s) := by
  have hwalk := lsWalk_eq (e := e) (s := s) (off := e.v a) (width := widthBytes w) (lanes := lanesOf (e.act g)) (tw := tw) (o := o)
    (fun i hi => have hi := h i ((mem_lanesOf _ i).mp hi); ⟨hi.1, hi.2.2.1⟩) []
  have hgot : (lanesOf (e.act g)).map (fun i => (i, ((s.wg? (tw i).wid).map fun v => v.lsRead (o i) (widthBytes w)).getD ([], false))) =
      (lanesOf (e.act g)).map fun i => (i, (tw i).ls.read (o i) (widthBytes w), false) := by
    refine List.map_congr_left fun i hi => ?_
    obtain ⟨-, hwg, hstash, hpoison⟩ := h i ((mem_lanesOf _ i).mp hi)
    rw [hwg, Option.map_some, Option.getD_some, Workgroup.lsRead, hstash, Workgroup.lsPoisoned, hpoison]
    rfl
  have hclean : ((lanesOf (e.act g)).map fun i => (i, (tw i).ls.read (o i) (widthBytes w), false)).filter (fun x => x.2.2 && !e.g.isHelper x.1) = [] := by
    refine List.filter_eq_nil_iff.mpr fun x hx => ?_
    obtain ⟨i, -, rfl⟩ := List.mem_map.mp hx
    exact Bool.false_ne_true
  refine inWord_ok he ?_
  simp only [hh, hwalk, LsWalk.fault, LsWalk.first, List.filter_nil, laneFault, List.isEmpty_nil, Bool.not_true, Bool.false_eq_true, if_false, if_true,
    List.map_map, Function.comp_def, hgot, hclean, stamp_of_not_det hdet, updGroup_setNr_nil, List.map_nil]
  refine congrArg (fun ws => Except.ok (e.launchLong la (.load ws [] [] none) s)) (List.map_congr_left fun i hi => ?_)
  rw [find_map_key (fun i => ((tw i).ls.read (o i) (widthBytes w), false)) hi]
  rfl

end Local

/-! ### Reads through a cache of copies that one core alone uses (10, R169, R182) -/

/-- A machine that differs from another in the pages that a group's lanes and the core hold, in L2 and its counts, and in one of the core's own two caches, which
holds copies of home lines alone; the core's first translation is `l`. -/
structure ReadsCached (k : Cached) (l : Leaf) (e : Env) (s t : State) : Prop where
  frame : t = { s with groups := t.groups, cores := t.cores, dies := t.dies, l2 := t.l2, hot := t.hot, notices := t.notices }
  others : ∀ n, n ≠ e.g.gid → t.group? n = s.group? n
  group : ∀ g, s.group? e.g.gid = some g → ∃ ls, t.group? e.g.gid = some (g.withLanes ls) ∧ g.samePages ls
  tlb : (t.core e.g.core).tlb.head? = some l
  lines : ∀ x ∈ k.lines (t.core e.g.core), x.copies s.mem
  buffer : k = .tiles → (t.core e.g.core).tileBuf = []

theorem mem_putCapped {s : State} {n : Nat} {ls : List Line} {k l : Line} (h : l ∈ putCapped s n ls k) : l = k ∨ l ∈ ls := by
  unfold putCapped at h
  dsimp only at h
  split at h
  · exact mem_putLine h
  · split at h
    · exact mem_putLine h
    · exact mem_putLine (mem_dropLine h)

section Cached
variable {k : Cached} {l : Leaf} {e : Env} {s t : State} (h : ReadsCached k l e s t)
include h

theorem ReadsCached.mem : t.mem = s.mem := (congrArg State.mem h.frame :)

theorem ReadsCached.poison : t.poison = s.poison := (congrArg State.poison h.frame :)

/-- An access at a page that the core used last finds it. -/
theorem ReadsCached.checkAccess (hres : l.res = true) (hlanes : ∀ i, (e.g.lane i).lastPage = none ∨ (e.g.lane i).lastPage = some l) {va : Nat}
    (hva : l.serves e.g.ctx va) (i : Nat) : t.checkAccess e i (BitVec.ofNat 64 va) 1 .read = some l := by
  obtain ⟨hlt, hcovers, hregion⟩ := hva
  have hnat : (BitVec.ofNat 64 va).toNat = va := by
    rw [BitVec.toNat_ofNat]
    exact Nat.mod_eq_of_lt (hlt.trans (by decide))
  have hheld : ((e.g.lane i).lastPage.toList ++ (t.core e.g.core).tlb).find? (fun x => x.covers e.g.ctx va) = some l := by
    have htlb := h.tlb
    cases hcore : (t.core e.g.core).tlb with
    | nil => rw [hcore] at htlb; cases htlb
    | cons x xs =>
      rw [hcore] at htlb
      obtain rfl := Option.some.inj htlb
      obtain hlast | hlast := hlanes i
      · rw [hlast]; exact List.find?_cons_of_pos hcovers
      · rw [hlast]; exact List.find?_cons_of_pos hcovers
  have hreserved : ¬ (regionOf (l.pa va) == Region.reserved) = true := by
    obtain hr | hr := hregion
    · rw [hr]; decide
    · rw [hr]; decide
  have hleaf : t.findLeaf e.g.ctx (dieOf e.g.core) ((e.g.lane i).lastPage.toList ++ (t.core e.g.core).tlb) va .read = some l := by
    rw [State.findLeaf]
    simp only [hheld, Leaf.permits, hres, Bool.and_self, if_true]
  rw [State.checkAccess]
  simp only [hnat, if_neg (Nat.not_le.mpr hlt), Nat.mod_one, bne_self_eq_false, Bool.false_eq_true, if_false, hleaf, if_neg hreserved]

/-- Noting that page changes the lane alone. -/
theorem ReadsCached.noteLane (i : Nat) : ReadsCached k l e s (t.noteLane e i l) := by
  have hnote : t.noteLane e i l = t.updGroup e.g.gid fun g => g.updLane i fun x => x.withPage (some l) := by
    have htlb : ((t.core e.g.core).tlb.head? == some l) = true := beq_iff_eq.mpr h.tlb
    rw [State.noteLane, State.noteLeaf]
    simp only [htlb, if_true]
    rfl
  have hpages := notesPages_updLane t e.g.gid i (some l)
  rw [hnote]
  refine ⟨?_, fun n hn => (hpages.others n hn).trans (h.others n hn), fun g hg => ?_, h.tlb, h.lines, h.buffer⟩
  · have hframe := h.frame
    exact congrArg (fun u : State => { u with groups := (t.updGroup e.g.gid fun g => g.updLane i fun x => x.withPage (some l)).groups }) hframe
  · obtain ⟨ls, hls, hsame⟩ := h.group g hg
    obtain ⟨ls', hls', hsame'⟩ := hpages.group _ hls
    exact ⟨ls', hls', samePages_trans hsame hsame'⟩

theorem ReadsCached.readHome (no : Nat) (hot : Bool) (req : Nat) : ReadsCached k l e s (t.readHome no hot req) := by
  have hread := readHome_frame t no hot req
  have hcores : (t.readHome no hot req).cores = t.cores := (congrArg State.cores hread :)
  have hcore : (t.readHome no hot req).core e.g.core = t.core e.g.core := congrArg (fun c => lookupD Core.empty c e.g.core) hcores
  have hgroups (n : Nat) : (t.readHome no hot req).group? n = t.group? n := (congrArg (fun u : State => u.group? n) hread :)
  refine ⟨?_, fun n hn => (hgroups n).trans (h.others n hn), fun g hg => by rw [hgroups]; exact h.group g hg, by rw [hcore]; exact h.tlb,
    by rw [hcore]; exact h.lines, by rw [hcore]; exact h.buffer⟩
  rw [hread]
  exact congrArg (fun u : State => { u with
    l2 := (t.readHome no hot req).l2
    dies := (t.readHome no hot req).dies
    hot := (t.readHome no hot req).hot
    notices := (t.readHome no hot req).notices }) h.frame

theorem ReadsCached.put {x : Line} (hx : x.copies s.mem) (u : State) : ReadsCached k l e s (t.setCore e.g.core (k.put u (t.core e.g.core) x)) where
  frame := congrArg (fun v : State => { v with cores := (t.setCore e.g.core (k.put u (t.core e.g.core) x)).cores }) h.frame
  others := h.others
  group := h.group
  tlb := by rw [core_setCore]; cases k <;> exact h.tlb
  lines := by
    rw [core_setCore]
    intro y hy
    refine (?_ : y = x ∨ y ∈ k.lines (t.core e.g.core)).elim (fun hy => hy ▸ hx) (h.lines y)
    cases k with
    | constants => exact mem_putCapped hy
    | tiles => exact mem_putCapped hy
  buffer := by rw [core_setCore]; cases k <;> exact h.buffer

end Cached

section Byte
variable {k : Cached} {l : Leaf} {e : Env} {s : State} (hwf : s.mem.wf = true) (hpoison : s.poison = []) (hres : l.res = true)
  (hlanes : ∀ i, (e.g.lane i).lastPage = none ∨ (e.g.lane i).lastPage = some l)
include hwf hpoison hres hlanes

/-- One byte read through the cache is that of memory. -/
theorem cacheByte_eq {r : CacheRead} (hr : ReadsCached k l e s r.s) (i : Nat) {va : Nat} (hva : l.serves e.g.ctx va) :
    ∃ t, CacheRead.byte k e i r va = { r with s := t, bytes := r.bytes ++ [s.mem.get (l.pa va)] } ∧ ReadsCached k l e s t := by
  have hhere : isHere (l.pa va) := hva.2.2
  have hremote : isRemote (l.pa va) = false := not_remote_of_lt ((lt_deepEnd_of_isHere hhere).trans (by decide))
  have hline : isRemote (lineNo (l.pa va) * 128) = false :=
    line_not_remote (n := 1) hhere (by decide) (by have := Nat.div_add_mod (l.pa va) 128; rw [lineNo]; omega)
  have hnote := hr.noteLane i
  have hbuffer : (if k == .tiles then ((r.s.noteLane e i l).core e.g.core).buffered (l.pa va) else none) = none := by
    cases k with
    | constants => rfl
    | tiles => rw [Core.buffered, hnote.buffer rfl]; rfl
  unfold CacheRead.byte
  simp only [hr.checkAccess hres hlanes hva i, hres, Bool.not_true, Bool.false_eq_true, if_false, hbuffer]
  cases hfind : findLine (k.lines ((r.s.noteLane e i l).core e.g.core)) (lineNo (l.pa va)) with
  | some x =>
    obtain ⟨hmem, hno⟩ := findLine_mem hfind
    have hcopy := hnote.lines x hmem
    refine ⟨_, ?_, hnote⟩
    have hclean : x.poisoned = 0#4 := hcopy.poisoned
    simp only [hcopy.get hwf _ hno, hclean, BitVec.getLsbD_zero, Bool.or_false]
  | none =>
    have houter : (r.s.noteLane e i l).outerLine (dieOf e.g.core) (lineNo (l.pa va)) = some (homeBytes s.mem (lineNo (l.pa va)), 0#4) := by
      rw [State.outerLine, if_neg (by rw [hline]; exact Bool.false_ne_true), hnote.mem, hnote.poison, hpoison, homePoison_nil]
      rfl
    have hget : (homeBytes s.mem (lineNo (l.pa va))).get (l.pa va % 128) = s.mem.get (l.pa va) :=
      (copies_clean hline false).get hwf (l.pa va) rfl
    refine ⟨_, ?_, (hnote.readHome (lineNo (l.pa va)) l.hot (dieOf e.g.core)).put (copies_clean hline false)
      ((r.s.noteLane e i l).readHome (lineNo (l.pa va)) l.hot (dieOf e.g.core))⟩
    simp only [houter, hremote, hget, BitVec.getLsbD_zero, Bool.or_false, Bool.false_eq_true, if_false]
    rfl

end Byte

/-- Reads of bytes one after another, each of which appends its byte. -/
theorem cacheFold_eq {P : State → Prop} {f : CacheRead → Nat → CacheRead} {b : Nat → BitVec 8} {is : List Nat}
    (hf : ∀ r i, P r.s → i ∈ is → ∃ t, f r i = { r with s := t, bytes := r.bytes ++ [b i] } ∧ P t) {r : CacheRead} (hr : P r.s) :
    ∃ t, is.foldl f r = { r with s := t, bytes := r.bytes ++ is.map b } ∧ P t := by
  induction is generalizing r with
  | nil => exact ⟨r.s, by simp, hr⟩
  | cons i is ih =>
    obtain ⟨t, hstep, ht⟩ := hf r i hr List.mem_cons_self
    obtain ⟨u, hfold, hu⟩ := ih (fun r j hr hj => hf r j hr (List.mem_cons_of_mem _ hj)) (r := { r with s := t, bytes := r.bytes ++ [b i] }) ht
    exact ⟨u, by rw [List.foldl_cons, hstep, hfold, List.map_cons, List.append_assoc]; rfl, hu⟩

/-- Lanes read one after another, each of which finds its bytes. -/
theorem cacheWalk_eq {P : State → Prop} {e : Env} {dest width : Nat} {read : State → Nat → Option CacheRead} {b : Nat → List (BitVec 8)} {is : List Nat}
    (hread : ∀ t i, P t → i ∈ is → ∃ u, read t i = some ⟨u, b i, false, false, false, []⟩ ∧ P u) {s : State} (hs : P s) (deny : List Nat) (ws : List LaneWrite) :
    ∃ t, is.foldl (CacheWalk.step e deny dest width read) ⟨s, ws, [], [], [], [], []⟩ =
      ⟨t, ws ++ is.map (fun i => ⟨i, dest, loaded width (b i)⟩), [], [], [], [], []⟩ ∧ P t := by
  induction is generalizing s ws with
  | nil => exact ⟨s, by simp, hs⟩
  | cons i is ih =>
    obtain ⟨t, hstep, ht⟩ := hread s i hs List.mem_cons_self
    obtain ⟨u, hfold, hu⟩ := ih (fun t j ht hj => hread t j ht (List.mem_cons_of_mem _ hj)) ht (ws ++ [⟨i, dest, loaded width (b i)⟩])
    refine ⟨u, ?_, hu⟩
    rw [List.foldl_cons, CacheWalk.step, hstep]
    exact hfold.trans (by rw [List.map_cons, List.append_assoc]; rfl)

section Load
variable {k : Cached} {l : Leaf} {e : Env} {s : State} {g : BitVec 3} {la : BitVec 4} {dest off width : Nat} {read : State → Nat → Option CacheRead}
  {touched : State → Nat → List Touch} {b : Nat → List (BitVec 8)} (hdet : e.l.det = false)
include hdet

/-- A load through such a cache whose lanes all find their bytes. -/
theorem cacheLoad_eq (hs : ReadsCached k l e s s)
    (hread : ∀ t i, ReadsCached k l e s t → i ∈ lanesOf (e.act g) → ∃ u, read t i = some ⟨u, b i, false, false, false, []⟩ ∧ ReadsCached k l e s u) :
    ∃ t, ReadsCached k l e s t ∧ e.cacheLoad [] g la dest off width read touched s =
      .ok (e.launchLong la (.load ((lanesOf (e.act g)).map fun n => ⟨n, dest, loaded width (b n)⟩) [] [] none) t) := by
  obtain ⟨t, hwalk, ht⟩ := cacheWalk_eq (e := e) (dest := dest) (width := width) hread hs [] []
  refine ⟨t, ht, ?_⟩
  simp only [Env.cacheLoad, hwalk, laneFault, CacheWalk.first, List.isEmpty_nil, if_true, Bool.not_true, Bool.false_eq_true, if_false,
    stamp_of_not_det hdet, updGroup_setNr_nil, List.nil_append]

omit hdet in
/-- The word goes on with its request, and what it has read through has changed besides. -/
theorem ReadsCached.launchLong_ends {t : State} (ht : ReadsCached k l e s t) (hgroup : s.group? e.g.gid = some e.g) (job : Job) :
    ∃ grp, e.launchLong la job t = { s with
        groups := (e.launchLong la job t).groups, requests := s.requests ++ [e.request s job], fresh := s.fresh + 1, issue := none,
        cores := (e.launchLong la job t).cores, dies := (e.launchLong la job t).dies, l2 := (e.launchLong la job t).l2,
        hot := (e.launchLong la job t).hot, notices := (e.launchLong la job t).notices } ∧
      (∀ n, n ≠ e.g.gid → (e.launchLong la job t).group? n = s.group? n) ∧ (e.launchLong la job t).group? e.g.gid = some grp ∧
      grp = ((e.windowed s la).goto e.iss.slotB (e.iss.pc + 4)).withLanes grp.lanes ∧
      ∀ n, n < e.g.lanes.length → ∃ p, grp.lane n = (e.g.lane n).withPage p := by
  have hframe := ht.frame
  have hfresh : t.fresh = s.fresh := (congrArg State.fresh hframe :)
  obtain ⟨ls, hls, hpages⟩ := ht.group e.g hgroup
  refine ⟨_, ?_, fun n hn => ?_, group_launchLong_lanes hfresh hls, rfl, hpages.2⟩
  · rw [launchLong_frame, request_of_same _ hfresh (congrArg State.time hframe :), hframe]
  · rw [group_launchLong_other la job hn, ht.others n hn]

end Load

/-! ### LDC and LDT -/

section Words
variable {s : State} {e : Env} {g : BitVec 3} {t a : BitVec 7} {la : BitVec 4} {w : BitVec 2} {l : Leaf}

/-- The constant space at an offset (R199): the kernel's segment, zeros past its end, the argument block. -/
def Env.constByte (e : Env) (s : State) (l : Leaf) (o j : Nat) : BitVec 8 :=
  if o < 0x10000 then (if o + j < e.k.clen ∧ e.k.constBase ≠ 0 then s.mem.get (l.pa (e.k.constBase + o + j)) else 0)
  else if e.l.argPtr = 0 then 0 else s.mem.get (l.pa (e.l.argPtr + (o - 0x10000) + j))

section Found
variable (hwf : s.mem.wf = true) (hpoison : s.poison = []) (hheld : e.holdsPage s l)
include hwf hpoison hheld

/-- One byte of the constant space. -/
theorem constByte_eq {r : CacheRead} (hr : ReadsCached .constants l e s r.s) (i : Nat) {o j : Nat} (halign : o % widthBytes w = 0) (hj : j < widthBytes w)
    (hserves : (o < 0x10000 → o + j < e.k.clen → e.k.constBase ≠ 0 → l.serves e.g.ctx (e.k.constBase + o + j)) ∧
      (0x10000 ≤ o → e.l.argPtr ≠ 0 → e.l.argPtr < 2 ^ 56 ∧ l.serves e.g.ctx (e.l.argPtr + (o - 0x10000) + j))) :
    ∃ t, (if o + j < 0x10000 then
        (if o + j < e.k.clen && e.k.constBase != 0 then CacheRead.byte .constants e i r (e.k.constBase + (o + j)) else { r with bytes := r.bytes ++ [0] })
      else if e.l.argPtr == 0 then { r with bytes := r.bytes ++ [0] }
      else CacheRead.byte .constants e i r ((e.l.argPtr + (o + j - 0x10000)) % 2 ^ 64)) = { r with s := t, bytes := r.bytes ++ [e.constByte s l o j] } ∧
      ReadsCached .constants l e s t := by
  obtain ⟨-, hres, hlanes⟩ := hheld
  obtain ⟨hseg, harg⟩ := hserves
  have hlow : o + j < 0x10000 ↔ o < 0x10000 := by
    obtain hw | hw | hw | hw := widthBytes_cases w
    all_goals rw [hw] at halign hj; omega
  rw [Env.constByte]
  by_cases ho : o < 0x10000
  · rw [if_pos (hlow.mpr ho), if_pos ho]
    by_cases hin : o + j < e.k.clen ∧ e.k.constBase ≠ 0
    · rw [if_pos (by simpa using hin), if_pos hin, ← Nat.add_assoc]
      exact cacheByte_eq hwf hpoison hres hlanes hr i (hseg ho hin.1 hin.2)
    · rw [if_neg (by simpa using hin), if_neg hin]
      exact ⟨r.s, rfl, hr⟩
  · rw [if_neg (mt hlow.mp ho), if_neg ho]
    by_cases hptr : e.l.argPtr = 0
    · rw [if_pos (beq_iff_eq.mpr hptr), if_pos hptr]
      exact ⟨r.s, rfl, hr⟩
    · obtain ⟨-, hserve⟩ := harg (Nat.not_lt.mp ho) hptr
      have hva : (e.l.argPtr + (o + j - 0x10000)) % 2 ^ 64 = e.l.argPtr + (o - 0x10000) + j := by
        have := hserve.1
        omega
      rw [if_neg (by simpa using hptr), if_neg hptr, hva]
      exact cacheByte_eq hwf hpoison hres hlanes hr i hserve

theorem ldc_eq (hdet : e.l.det = false) (hconstants : (s.core e.g.core).constants = [])
    (hlane : ∀ n, (e.act g).getLsbD n = true → (e.ea (e.v a) (e.g.lane n)).toNat < 0x11000 ∧ (e.ea (e.v a) (e.g.lane n)).toNat % widthBytes w = 0 ∧
      ∀ j, j < widthBytes w →
        ((e.ea (e.v a) (e.g.lane n)).toNat < 0x10000 → (e.ea (e.v a) (e.g.lane n)).toNat + j < e.k.clen → e.k.constBase ≠ 0 →
          l.serves e.g.ctx (e.k.constBase + (e.ea (e.v a) (e.g.lane n)).toNat + j)) ∧
        (0x10000 ≤ (e.ea (e.v a) (e.g.lane n)).toNat → e.l.argPtr ≠ 0 →
          e.l.argPtr < 2 ^ 56 ∧ l.serves e.g.ctx (e.l.argPtr + ((e.ea (e.v a) (e.g.lane n)).toNat - 0x10000) + j))) (he : s.env = some e) :
    ∃ u, ReadsCached .constants l e s u ∧ exec (.ldc g t a la w) s = .next (e.launchLong la (.load ((lanesOf (e.act g)).map fun n =>
      ⟨n, e.v t, loaded (widthBytes w) ((List.range (widthBytes w)).map (e.constByte s l (e.ea (e.v a) (e.g.lane n)).toNat))⟩) [] [] none) u) := by
  have hstart : ReadsCached .constants l e s s :=
    ⟨rfl, fun _ _ => rfl, fun g hg => ⟨g.lanes, hg, samePages_refl g⟩, hheld.1, by rw [Cached.lines, hconstants]; exact nofun, nofun⟩
  refine (cacheLoad_eq (g := g) (la := la) (dest := e.v t) (off := e.v a) (width := widthBytes w) hdet hstart
    (b := fun n => (List.range (widthBytes w)).map (e.constByte s l (e.ea (e.v a) (e.g.lane n)).toNat)) fun v i hv hi => ?read).imp
      fun u hu => ⟨hu.1, inWord_ok he hu.2⟩
  case read =>
    obtain ⟨hlt, halign, hserves⟩ := hlane i ((mem_lanesOf _ i).mp hi)
    obtain ⟨v', hfold, hv'⟩ := cacheFold_eq (P := ReadsCached .constants l e s) (is := List.range (widthBytes w))
      (b := e.constByte s l (e.ea (e.v a) (e.g.lane i)).toNat) (r := ⟨v, [], false, false, false, []⟩) (fun r j hr hj =>
      constByte_eq (w := w) (j := j) hwf hpoison hheld hr i halign (List.mem_range.mp hj) (hserves j (List.mem_range.mp hj))) hv
    have hvalid : (decide (2 ^ 32 ≤ (e.ea (e.v a) (e.g.lane i)).toNat) || (e.ea (e.v a) (e.g.lane i)).toNat % widthBytes w != 0 ||
        decide (0x11000 ≤ (e.ea (e.v a) (e.g.lane i)).toNat)) = false := by
      rw [halign, decide_eq_false (by omega), decide_eq_false (by omega)]
      rfl
    exact ⟨v', (if_neg (by rw [hvalid]; exact Bool.false_ne_true)).trans (congrArg some hfold), hv'⟩

theorem ldt_eq (hdet : e.l.det = false) (htiles : (s.core e.g.core).tiles = []) (hbuffer : (s.core e.g.core).tileBuf = [])
    (hlane : ∀ n, (e.act g).getLsbD n = true → (e.ea (e.v a) (e.g.lane n)).toNat % widthBytes w = 0 ∧
      ∀ j, j < widthBytes w → l.serves e.g.ctx ((e.ea (e.v a) (e.g.lane n)).toNat + j)) (he : s.env = some e) :
    ∃ u, ReadsCached .tiles l e s u ∧ exec (.ldt g t a la w) s = .next (e.launchLong la (.load ((lanesOf (e.act g)).map fun n =>
      ⟨n, e.v t, loaded (widthBytes w) ((List.range (widthBytes w)).map fun j => s.mem.get (l.pa ((e.ea (e.v a) (e.g.lane n)).toNat + j)))⟩) [] [] none) u) := by
  obtain ⟨htlb, hres, hlanes⟩ := hheld
  have hstart : ReadsCached .tiles l e s s :=
    ⟨rfl, fun _ _ => rfl, fun g hg => ⟨g.lanes, hg, samePages_refl g⟩, htlb, by rw [Cached.lines, htiles]; exact nofun, fun _ => hbuffer⟩
  refine (cacheLoad_eq (g := g) (la := la) (dest := e.v t) (off := e.v a) (width := widthBytes w) hdet hstart
    (b := fun n => (List.range (widthBytes w)).map fun j => s.mem.get (l.pa ((e.ea (e.v a) (e.g.lane n)).toNat + j))) fun v i hv hi => ?read).imp
      fun u hu => ⟨hu.1, inWord_ok he hu.2⟩
  case read =>
    obtain ⟨halign, hserves⟩ := hlane i ((mem_lanesOf _ i).mp hi)
    obtain ⟨v', hfold, hv'⟩ := cacheFold_eq (P := ReadsCached .tiles l e s) (is := List.range (widthBytes w))
      (b := fun j => s.mem.get (l.pa ((e.ea (e.v a) (e.g.lane i)).toNat + j))) (r := ⟨v, [], false, false, false, []⟩) (fun r j hr hj =>
      cacheByte_eq (va := (e.ea (e.v a) (e.g.lane i)).toNat + j) hwf hpoison hres hlanes hr i (hserves j (List.mem_range.mp hj))) hv
    have hlt := (hserves 0 (widthBytes_pos w)).1
    have hvalid : (decide (2 ^ 56 ≤ (e.ea (e.v a) (e.g.lane i)).toNat) || (e.ea (e.v a) (e.g.lane i)).toNat % widthBytes w != 0) = false := by
      rw [halign, decide_eq_false (by omega)]
      rfl
    exact ⟨v', (if_neg (by rw [hvalid]; exact Bool.false_ne_true)).trans (congrArg some hfold), hv'⟩

end Found

/-! #### LDT where no lane finds its page -/

/-- A byte at a page that is not resident. -/
theorem cacheByte_absent {k : Cached} {r : CacheRead} {i va : Nat} {x : Leaf} (hx : r.s.checkAccess e i (BitVec.ofNat 64 va) 1 .read = some x)
    (hres : x.res = false) : CacheRead.byte k e i r va = { r with absent := true, bytes := r.bytes ++ [0] } := by
  simp only [CacheRead.byte, hx, hres, Bool.not_false, if_true]

/-- Bytes none of which is at a resident page. -/
theorem cacheRead_absent {k : Cached} {i va n : Nat} (hn : 0 < n)
    (h : ∀ j, j < n → ∃ x, s.checkAccess e i (BitVec.ofNat 64 (va + j)) 1 .read = some x ∧ x.res = false) :
    ∃ bs, s.cacheRead k e i va n = ⟨s, bs, false, true, false, []⟩ := by
  have hfold : ∀ (m : Nat), m ≤ n → ∀ bs : List (BitVec 8), ∃ bs', ((List.range m).foldl (fun r j => CacheRead.byte k e i r (va + j)) ⟨s, [], false, false, false, []⟩) =
      ⟨s, bs', false, decide (0 < m), false, []⟩ := by
    intro m hm bs
    induction m with
    | zero => exact ⟨[], rfl⟩
    | succ m ih =>
      obtain ⟨bs', hprev⟩ := ih (Nat.le_of_succ_le hm)
      obtain ⟨x, hx, hres⟩ := h m hm
      exact ⟨bs' ++ [0], by rw [List.range_succ, List.foldl_append, hprev, List.foldl_cons, List.foldl_nil, cacheByte_absent hx hres]; simp⟩
  obtain ⟨bs, hbs⟩ := hfold n (Nat.le_refl n) []
  exact ⟨bs, by rw [State.cacheRead, hbs, decide_eq_true hn]⟩

/-- Lanes none of which finds its page. -/
theorem cacheWalk_absent {dest width : Nat} {read : State → Nat → Option CacheRead} {is : List Nat}
    (hread : ∀ i ∈ is, ∃ bs, read s i = some ⟨s, bs, false, true, false, []⟩) (deny : List Nat) (ws : List LaneWrite) (out : List Nat) :
    is.foldl (CacheWalk.step e deny dest width read) ⟨s, ws, [], [], out, [], []⟩ =
      ⟨s, ws ++ is.map (fun i => ⟨i, dest, loaded width (List.replicate width 0)⟩), [], [], out ++ is, [], []⟩ := by
  induction is generalizing ws out with
  | nil => simp
  | cons i is ih =>
    obtain ⟨bs, hstep⟩ := hread i List.mem_cons_self
    rw [List.foldl_cons, CacheWalk.step, hstep]
    refine (ih (fun j hj => hread j (List.mem_cons_of_mem _ hj)) (ws ++ [⟨i, dest, loaded width (List.replicate width 0)⟩]) (out ++ [i])).trans ?_
    rw [List.map_cons, List.append_assoc, List.append_assoc]
    rfl

theorem ldt_absent (he : s.env = some e) (hdet : e.l.det = false)
    (hlane : ∀ n, (e.act g).getLsbD n = true → (e.ea (e.v a) (e.g.lane n)).toNat < 2 ^ 56 ∧ (e.ea (e.v a) (e.g.lane n)).toNat % widthBytes w = 0 ∧
      ∀ j, j < widthBytes w → ∃ x, s.checkAccess e n (BitVec.ofNat 64 ((e.ea (e.v a) (e.g.lane n)).toNat + j)) 1 .read = some x ∧ x.res = false) :
    exec (.ldt g t a la w) s = .next (e.launchLong la (.load ((lanesOf (e.act g)).map fun n =>
      ⟨n, e.v t, loaded (widthBytes w) (List.replicate (widthBytes w) 0)⟩) [] [] none) (s.updGroup e.g.gid fun x => x.setNr (e.act g))) := by
  have hwalk := cacheWalk_absent (s := s) (e := e) (dest := e.v t) (width := widthBytes w) (is := lanesOf (e.act g))
    (read := fun s i => if 2 ^ 56 ≤ (e.ea (e.v a) (e.g.lane i)).toNat || (e.ea (e.v a) (e.g.lane i)).toNat % widthBytes w != 0 then none
      else some (s.cacheRead .tiles e i (e.ea (e.v a) (e.g.lane i)).toNat (widthBytes w))) (fun i hi => ?read) [] [] []
  case read =>
    obtain ⟨hlt, halign, hpages⟩ := hlane i ((mem_lanesOf _ i).mp hi)
    obtain ⟨bs, hbs⟩ := cacheRead_absent (k := .tiles) (widthBytes_pos w) hpages
    refine ⟨bs, (if_neg ?_).trans (congrArg some hbs)⟩
    rw [halign, decide_eq_false (by omega)]
    exact Bool.false_ne_true
  refine inWord_ok he ?_
  simp only [Env.cacheLoad, hwalk, laneFault, CacheWalk.first, List.isEmpty_nil, if_true, Bool.not_true, Bool.false_eq_true, if_false,
    stamp_of_not_det hdet, List.nil_append, maskOf_lanesOf]

end Words

/-- Settles O34: LD.l by its walk outside the windows, LDC and LDT by what a cache of copies gives for each byte. -/
theorem localAndCachedLoads : Obligations.LocalAndCachedLoads := by
  unfold Obligations.LocalAndCachedLoads
  intro s e g t a la w l he hdet
  have hgroup := env_group he
  refine ⟨fun tw off hh htargets => ?ldl, fun hwf hpoison hheld hconstants hlane => ?ldc, fun hwf hpoison hheld htiles hbuffer hlane => ?ldt, fun hlane => ?absent⟩
  case ldl =>
    obtain ⟨hframe, hothers, grp, hgrp, hwent, hlanes⟩ := launchLong_ends (la := la) (job := .load ((lanesOf (e.act g)).map fun n =>
      ⟨n, e.v t, loaded (widthBytes w) ((tw n).ls.read (off n) (widthBytes w))⟩) [] [] none) (.refl s e.g.gid) rfl hgroup
    exact ⟨_, grp, ldL_eq he hdet hh htargets, rfl, hothers, hgrp, hwent, hlanes⟩
  case ldc =>
    obtain ⟨u, hu, hexec⟩ := ldc_eq (t := t) (la := la) hwf hpoison hheld hdet hconstants hlane he
    obtain ⟨grp, hframe, hothers, hgrp, hwent, hlanes⟩ := hu.launchLong_ends (la := la) hgroup _
    exact ⟨_, grp, hexec, hframe, hothers, hgrp, hwent, hlanes⟩
  case ldt =>
    obtain ⟨u, hu, hexec⟩ := ldt_eq (t := t) (la := la) hwf hpoison hheld hdet htiles hbuffer hlane he
    obtain ⟨grp, hframe, hothers, hgrp, hwent, hlanes⟩ := hu.launchLong_ends (la := la) hgroup _
    exact ⟨_, grp, hexec, hframe, hothers, hgrp, hwent, hlanes⟩
  case absent => exact ⟨_, ldt_absent he hdet hlane, marksNr_launchLong he _⟩

end Sys2Proof.Machine
end

section
/-! SUPPORT. The refutation of O37: its memory need not be canonical, and a list of cells that is not has a byte which `Mem.get` does not find and a
line's fill does. -/

namespace Sys2Proof.Machine

/-- The bytes from 0x2000 up that core 0 reads after a word. -/
def wordSeen : Host.Outcome State Fault Refusal → List (Option (BitVec 8))
  | .next t => (List.range 4).map (fun j => t.byteD 0 (0x2000 + j))
  | _ => []

/-- The bare group with lane 0 alone on its path, and the address 0x2000 in that lane's v2:v3. -/
def addingGroup : Group :=
  { bareGroup with a := Slot.ofPath ⟨0x1000, 1, none, []⟩ }.updLane 0 (fun l => l.putWord 8 0x2000)

/-- The word that this group issues in slot A at 0x1000, without hints, and its surroundings. -/
def addingEnv : Env := ⟨⟨2, false, 0x1000, 0, Hints.empty, false, 0, 0, none, [], [], none⟩, addingGroup, bareContext, bareLaunch, bareKernel⟩

/-- The bare machine as this word is issued; the cell of 0x2000 stands behind one of a higher address, so that memory is not canonical. -/
def addingState : State :=
  { State.reset.bare with groups := [addingGroup], issue := some addingEnv.iss, mem := [(0x10000, 1), (0x2000, 1)] }

theorem addingEnv_storing {n : Nat} (h : (addingEnv.storing 0).getLsbD n = true) : n = 0 := by
  have hone : addingEnv.storing 0 = BitVec.twoPow 32 0 := by decide
  rw [hone, BitVec.getLsbD_twoPow] at h
  exact (of_decide_eq_true (Bool.and_eq_true_iff.mp h).2).symm

theorem addingEnv_finds : addingEnv.finds addingState (addingEnv.storing 0) (addingEnv.k.vwv + 8 * (1 : BitVec 6).toNat) 4 .write (fun _ => 0x2000) := by
  intro n hn
  obtain rfl := addingEnv_storing hn
  exact ⟨bareLeaf, by decide, rfl, by decide, by decide⟩

/-- `Mem.get` reads 0 at 0x2000, but the line that the atomic step fills has the cell's 1. -/
theorem adding_sees_one : wordSeen (exec (.redAdd 0 0 1 0 0) addingState) = [some 1, some 0, some 0, some 0] := by decide

/-- Refutes O37: without canonical memory the line that a RED at group scope fills need not hold what `Mem.get` reads. Where the cell of 0x2000 stands
behind that of 0x10000, the statement has the old value 0 there, and `redAdd` of 0 leaves 1. -/
theorem not_atomicWords : ¬ Obligations.AtomicWords := by
  unfold Obligations.AtomicWords
  rintro ⟨-, h⟩
  obtain ⟨-, hred⟩ := h addingState addingEnv 0 0 1 0 0 0 (fun _ => 0x2000) rfl
  obtain ⟨-, -, hperforms⟩ := hred (.redAdd 0 0 1 0 0, .add) List.mem_cons_self
  obtain ⟨t, grp, hexec, ⟨-, -, hnew, -⟩, -⟩ := (hperforms rfl ⟨by decide, by decide, rfl⟩ addingEnv_finds
    ⟨fun _ _ => by decide, fun n k hn hk hne => absurd ((addingEnv_storing hn).trans (addingEnv_storing hk).symm) hne⟩).1 rfl
  have hzero : wordSeen (.next t) = [some 0, some 0, some 0, some 0] := (hnew 0 (by decide)).trans (by decide)
  have hone : wordSeen (.next t) = [some 1, some 0, some 0, some 0] := hexec ▸ adding_sees_one
  exact absurd (hone.symm.trans hzero) (by decide)

end Sys2Proof.Machine
end

section
/-! SUPPORT. Stores on the D path: what the core then reads at each byte, and what memory holds under policy 2 (10, R169, R170, R174). -/

namespace Sys2Proof.Machine

/-! ### Bytes of a line -/

theorem getLsbD_byteMask (off n i : Nat) : (byteMask off n).getLsbD i = decide (i < 128 ∧ off ≤ i ∧ i < off + n) := by
  rw [byteMask, BitVec.getLsbD_ofNat, Nat.testBit_mul_two_pow, Nat.testBit_two_pow_sub_one]
  grind

/-- The byte that a cache's copy of a line holds at an offset. -/
def byteOf (l : Option Line) (i : Nat) : Option (BitVec 8) := l.bind fun l => if l.valid.getLsbD i then some (l.bytes.get i) else none

theorem byteOf_fresh (no i : Nat) : byteOf (some (Line.fresh no)) i = none := by
  simp [byteOf, Line.fresh]

theorem byteOf_write (l : Line) {off : Nat} {bs : List (BitVec 8)} (dirty untracked : Bool) (gid : Nat) (hfit : off + bs.length ≤ 128) (i : Nat) :
    byteOf (some (l.write off bs dirty untracked gid)) i =
      if off ≤ i ∧ i < off + bs.length then some (bs.getD (i - off) 0) else byteOf (some l) i := by
  simp only [byteOf, Option.bind_some, Line.write, BitVec.getLsbD_or, getLsbD_byteMask, get_write]
  by_cases hin : off ≤ i ∧ i < off + bs.length
  · rw [if_pos hin, if_pos hin, decide_eq_true ⟨by omega, hin⟩, Bool.or_true, if_pos rfl]
  · rw [if_neg hin, if_neg hin, decide_eq_false (fun h => hin h.2), Bool.or_false]

theorem findLine_putLine (ls : List Line) {l : Line} (hvalid : l.valid ≠ 0) (no : Nat) :
    findLine (putLine ls l) no = if no = l.no then some l else findLine ls no := by
  rw [putLine, if_neg (by simpa using hvalid), findLine, List.find?_cons]
  by_cases hno : no = l.no
  · rw [if_pos hno, beq_iff_eq.mpr hno.symm]
  · rw [if_neg hno, beq_false_of_ne (Ne.symm hno), dropLine, List.find?_filter]
    refine List.find?_congr fun k _ => ?_
    by_cases hk : k.no = no
    · simp [hk, hno]
    · simp [hk]

/-- Bytes written into a line are valid in it. -/
theorem valid_write (l : Line) {off : Nat} {bs : List (BitVec 8)} (dirty untracked : Bool) (gid : Nat) (hfit : off + bs.length ≤ 128) (hpos : 0 < bs.length) :
    (l.write off bs dirty untracked gid).valid ≠ 0 := by
  intro hzero
  have hbit : (l.write off bs dirty untracked gid).valid.getLsbD off = true := by
    rw [Line.write, BitVec.getLsbD_or, getLsbD_byteMask, decide_eq_true (by omega), Bool.or_true]
  rw [hzero] at hbit
  exact absurd hbit (by simp)

/-! ### A store as the bytes that are read after it -/

/-- Reading after bytes were stored from an address up. -/
def readStored (pa : Nat) (bs : List (BitVec 8)) (read : Nat → Option (BitVec 8)) (b : Nat) : Option (BitVec 8) :=
  if pa ≤ b ∧ b < pa + bs.length then some (bs.getD (b - pa) 0) else read b

section Line
variable {pa : Nat} {bs : List (BitVec 8)} (hfit : pa % 128 + bs.length ≤ 128)
include hfit

/-- An access within one line, in that line. -/
theorem inside_line_iff (b : Nat) : pa ≤ b ∧ b < pa + bs.length ↔ lineNo b = lineNo pa ∧ pa % 128 ≤ b % 128 ∧ b % 128 < pa % 128 + bs.length := by
  rw [lineNo, lineNo]
  omega

/-- What a cache holds after a copy of a line has come in that has the bytes stored, and the others as before. -/
theorem byteOf_stored (ls : List Line) {k : Line} (hno : k.no = lineNo pa) (hvalid : k.valid ≠ 0)
    (hk : ∀ i, byteOf (some k) i =
      if pa % 128 ≤ i ∧ i < pa % 128 + bs.length then some (bs.getD (i - pa % 128) 0) else byteOf (findLine ls (lineNo pa)) i) (b : Nat) :
    byteOf (findLine (putLine ls k) (lineNo b)) (b % 128) = readStored pa bs (fun b => byteOf (findLine ls (lineNo b)) (b % 128)) b := by
  rw [findLine_putLine _ hvalid, hno, readStored, if_congr (inside_line_iff hfit b) rfl rfl]
  by_cases hline : lineNo b = lineNo pa
  · have hoff : b % 128 - pa % 128 = b - pa ∨ ¬ (pa % 128 ≤ b % 128) := by
      rw [lineNo, lineNo] at hline
      omega
    rw [if_pos hline, hk, hline]
    grind
  · rw [if_neg hline, if_neg (fun h => hline h.1)]

end Line

/-! ### The D path of a core -/

section Path
variable (s : State) (core : Nat)

/-- What the D path of a core reads: L1's byte, the cluster cache's, that of a remote-read line, or memory's. -/
theorem byteD_eq (b : Nat) : s.byteD core b =
    (byteOf (findLine (s.core core).l1 (lineNo b)) (b % 128)).or ((byteOf (findLine (s.clusterCache (clusterOf core)) (lineNo b)) (b % 128)).or
      (if isRemote b then byteOf (findLine (s.die (dieOf core)).remote (lineNo b)) (b % 128) else some (s.mem.get b))) := by
  have hseen {x : Option (BitVec 8 × Bool)} (o : Option Line) (h : (match o with
      | some l => if l.valid.getLsbD (b % 128) then some (l.bytes.get (b % 128), l.poisoned.getLsbD (b % 128 / 32)) else none
      | none => none) = x) : byteOf o (b % 128) = x.map (fun x => x.1) := by
    rw [← h]
    cases o with
    | none => rfl
    | some l => simp only [byteOf, Option.bind_some]; split <;> rfl
  rw [State.byteD, State.seeD]
  dsimp only
  split
  next h => rw [hseen (findLine (s.core core).l1 (lineNo b)) h]; rfl
  next h =>
    rw [hseen (findLine (s.core core).l1 (lineNo b)) h]
    split
    next h => rw [hseen (findLine (s.clusterCache (clusterOf core)) (lineNo b)) h]; rfl
    next h =>
      rw [hseen (findLine (s.clusterCache (clusterOf core)) (lineNo b)) h]
      split
      · exact (hseen _ rfl).symm
      · rfl

end Path

/-! ### One store -/

theorem readStored_or {pa : Nat} {bs : List (BitVec 8)} {f : Nat → Option (BitVec 8)} {x : Option (BitVec 8)} {b : Nat} :
    (readStored pa bs f b).or x = readStored pa bs (fun b => (f b).or x) b := by
  rw [readStored, readStored]
  split <;> rfl

/-- A cache that held a copy of the line has taken the bytes stored; one that held none is as before. -/
def Takes (pa : Nat) (bs : List (BitVec 8)) (ls ls' : List Line) : Prop :=
  ∀ b, (pa ≤ b ∧ b < pa + bs.length → ∀ v ∈ byteOf (findLine ls' (lineNo b)) (b % 128), v = bs.getD (b - pa) 0) ∧
    (¬ (pa ≤ b ∧ b < pa + bs.length) → byteOf (findLine ls' (lineNo b)) (b % 128) = byteOf (findLine ls (lineNo b)) (b % 128))

/-- The line with the bytes of a store in it, and its place in the order of eviction. -/
def Line.stored (l : Line) (pa : Nat) (bs : List (BitVec 8)) (dirty untracked first : Bool) (gid : Nat) : Line :=
  { l.write (pa % 128) bs dirty untracked gid with first := first }

section Store
variable {s : State} {pa : Nat} {bs : List (BitVec 8)} (hfit : pa % 128 + bs.length ≤ 128)
include hfit

theorem takes_of_absent {ls : List Line} (h : findLine ls (lineNo pa) = none) : Takes pa bs ls ls :=
  fun b => ⟨fun hin v hv => (by rw [((inside_line_iff hfit b).mp hin).1, h] at hv; exact nomatch hv), fun _ => rfl⟩

variable (hpos : 0 < bs.length)
include hpos

theorem byteOf_written (ls : List Line) {l : Line} (hno : l.no = lineNo pa) (hl : ∀ i, byteOf (some l) i = byteOf (findLine ls (lineNo pa)) i)
    (dirty untracked first : Bool) (gid : Nat) (b : Nat) :
    byteOf (findLine (putLine ls (l.stored pa bs dirty untracked first gid)) (lineNo b)) (b % 128) =
      readStored pa bs (fun b => byteOf (findLine ls (lineNo b)) (b % 128)) b :=
  byteOf_stored (k := l.stored pa bs dirty untracked first gid) hfit ls hno (valid_write l dirty untracked gid hfit hpos)
    (fun i => (byteOf_write l dirty untracked gid hfit i).trans (by rw [hl])) b

theorem takes_of_held {ls : List Line} {l : Line} (h : findLine ls (lineNo pa) = some l) (dirty untracked : Bool) (gid : Nat) :
    Takes pa bs ls (putLine ls (l.write (pa % 128) bs dirty untracked gid)) := by
  intro b
  have hb : byteOf (findLine (putLine ls (l.write (pa % 128) bs dirty untracked gid)) (lineNo b)) (b % 128) = _ :=
    byteOf_written hfit hpos ls (findLine_mem h).2 (fun _ => by rw [h]) dirty untracked l.first gid b
  rw [hb]
  exact ⟨fun hin v hv => (by rw [readStored, if_pos hin] at hv; exact (Option.some.inj hv).symm), fun hout => by rw [readStored, if_neg hout]⟩

/-- Under another policy than 2 a store leaves its bytes in L1, where it has room. -/
theorem storeD_l1 {policy : BitVec 2} (hpolicy : policy ≠ 2) {core : Nat} (hroom : (s.core core).l1.length < 2048) (ctx gid : Nat) (trk : Bool) :
    ∃ c, s.storeD ctx core gid pa bs policy trk false = s.setCore core c ∧ c.l1.length ≤ (s.core core).l1.length + 1 ∧
      ∀ b, (s.setCore core c).byteD core b = readStored pa bs (s.byteD core) b := by
  have hlen (l : Line) : (putLine (s.core core).l1 l).length ≤ (s.core core).l1.length + 1 := by
    have hdrop : (dropLine (s.core core).l1 l.no).length ≤ (s.core core).l1.length := List.length_filter_le ..
    rw [putLine]
    split
    · omega
    · rw [List.length_cons]; omega
  have hl (i : Nat) : byteOf (some ((findLine (s.core core).l1 (lineNo pa)).getD (Line.fresh (lineNo pa)))) i =
      byteOf (findLine (s.core core).l1 (lineNo pa)) i := by
    cases findLine (s.core core).l1 (lineNo pa) with
    | none => exact byteOf_fresh _ i
    | some l => rfl
  have hno : ((findLine (s.core core).l1 (lineNo pa)).getD (Line.fresh (lineNo pa))).no = lineNo pa := by
    cases h : findLine (s.core core).l1 (lineNo pa) with
    | none => rfl
    | some l => exact (findLine_mem h).2
  refine ⟨{ s.core core with l1 := putLine (s.core core).l1 (((findLine (s.core core).l1 (lineNo pa)).getD (Line.fresh (lineNo pa))).stored pa bs true (!trk)
    (policy == 1) gid) }, ?_, hlen _, fun b => ?_⟩
  · rw [State.storeD, if_neg hpolicy]
    exact putL1_room _ _ _ (by rw [core_setCore]; exact (hlen _).trans hroom)
  · rw [byteD_eq, core_setCore, clusterCache_setCore]
    dsimp only
    rw [byteOf_written hfit hpos _ hno hl, readStored_or]
    exact congrFun (congrArg (readStored pa bs) (funext fun b => (byteD_eq s core b).symm)) b

end Store

/-! ### A store that goes to its home at once -/

/-- A landing of bytes of this device's memory. -/
theorem landAny_here (s : State) (die : Nat) (ctx : Option Nat) {pa : Nat} (hpa : isRemote pa = false) {bs : List (BitVec 8)} (hpos : 0 < bs.length)
    (untracked : Bool) (ps : List Nat) : s.landAny die ctx ((bs.zip (List.range bs.length)).map fun b => (pa + b.2, b.1, untracked)) ps =
      s.land ctx ((bs.zip (List.range bs.length)).map fun b => (pa + b.2, b.1, untracked)) ps := by
  obtain ⟨b, bs, rfl⟩ := List.exists_cons_of_length_pos hpos
  rw [List.length_cons, List.range_succ_eq_map, List.zip_cons_cons, List.map_cons, State.landAny]
  exact if_neg (by rw [Nat.add_zero, hpa]; exact Bool.false_ne_true)

theorem land_stored_mem (s : State) (ctx : Option Nat) (pa : Nat) (bs : List (BitVec 8)) (untracked : Bool) (ps : List Nat) :
    (s.land ctx ((bs.zip (List.range bs.length)).map fun b => (pa + b.2, b.1, untracked)) ps).mem = s.mem.write pa bs := by
  rw [land_mem, List.map_map]
  exact foldl_set_eq_write bs s.mem pa

/-- A landing leaves the remote-read lines. -/
theorem land_remote (s : State) (ctx : Option Nat) (ws : List (Nat × BitVec 8 × Bool)) (ps : List Nat) (k : Nat) :
    ((s.land ctx ws ps).die k).remote = (s.die k).remote := by
  have hstep (s : State) (w : Nat × Nat) : (((s.setDie (homeDie (w.1 * 32)) { s.die (homeDie (w.1 * 32)) with deferred := (s.die (homeDie (w.1 * 32))).deferred + 1 }).die k).remote) =
      (s.die k).remote := by
    rw [die_setDie]
    split
    · next h => rw [h.1]
    · rfl
  cases ctx with
  | none => exact foldl_same (fun s : State => (s.die k).remote) _ hstep _ s
  | some n => exact foldl_same (fun s : State => (s.die k).remote) _ hstep _ _

/-- What the machine is once bytes have gone to their homes, with copies in the caches of a core taking them. -/
structure WritesHome (s t : State) (core pa : Nat) (bs : List (BitVec 8)) : Prop where
  frame : t = { s with mem := t.mem, poison := t.poison, contexts := t.contexts, dies := t.dies, cores := t.cores, clusters := t.clusters }
  byteD : ∀ b, t.byteD core b = readStored pa bs (s.byteD core) b
  mem : ∀ b, some (t.mem.get b) = readStored pa bs (fun b => some (s.mem.get b)) b

section Home
variable {s u : State} {core pa : Nat} {bs : List (BitVec 8)} (hhere : isHere pa) (hfit : bs.length ≤ 16)

include hhere hfit in
theorem writesHome_land (hu : u = { s with cores := u.cores, clusters := u.clusters }) (hl1 : Takes pa bs (s.core core).l1 (u.core core).l1)
    (hcc : Takes pa bs (s.clusterCache (clusterOf core)) (u.clusterCache (clusterOf core))) (ctx : Option Nat) (untracked : Bool) (ps : List Nat) :
    WritesHome s (u.land ctx ((bs.zip (List.range bs.length)).map fun b => (pa + b.2, b.1, untracked)) ps) core pa bs := by
  have hmem := land_stored_mem u ctx pa bs untracked ps
  have hremote := land_remote u ctx ((bs.zip (List.range bs.length)).map fun b => (pa + b.2, b.1, untracked)) ps (dieOf core)
  have hframe := land_frame u ctx ((bs.zip (List.range bs.length)).map fun b => (pa + b.2, b.1, untracked)) ps
  generalize u.land ctx ((bs.zip (List.range bs.length)).map fun b => (pa + b.2, b.1, untracked)) ps = t at hmem hremote hframe
  have hdies : (u.die (dieOf core)).remote = (s.die (dieOf core)).remote := by rw [hu]; rfl
  have hhome : u.mem = s.mem := (congrArg State.mem hu :)
  have hread (b : Nat) : t.mem.get b = if pa ≤ b ∧ b < pa + bs.length then bs.getD (b - pa) 0 else s.mem.get b := by
    rw [hmem, hhome, get_write]
  have hcores : t.cores = u.cores := (congrArg State.cores hframe :)
  have hclusters : t.clusters = u.clusters := (congrArg State.clusters hframe :)
  have hcore : t.core core = u.core core := by rw [hframe]; rfl
  have hcluster : t.clusterCache (clusterOf core) = u.clusterCache (clusterOf core) := by rw [hframe]; rfl
  refine ⟨(by rw [hu, ← hcores, ← hclusters] at hframe; exact hframe), fun b => ?_, fun b => ?_⟩
  · rw [byteD_eq, hcore, hcluster, hremote, hdies, hread, readStored, byteD_eq]
    obtain ⟨hl1in, hl1out⟩ := hl1 b
    obtain ⟨hccin, hccout⟩ := hcc b
    by_cases hin : pa ≤ b ∧ b < pa + bs.length
    · have hlt := lt_deepEnd_of_isHere hhere
      have hbase : deepEnd + 16 ≤ systemBase := by decide
      have hrem : isRemote b = false := not_remote_of_lt (by omega)
      rw [if_pos hin, if_pos hin, hrem, if_neg Bool.false_ne_true]
      cases h1 : byteOf (findLine (u.core core).l1 (lineNo b)) (b % 128) with
      | some v => rw [hl1in hin v h1]; rfl
      | none =>
        cases h2 : byteOf (findLine (u.clusterCache (clusterOf core)) (lineNo b)) (b % 128) with
        | some v => rw [hccin hin v h2]; rfl
        | none => rfl
    · rw [if_neg hin, if_neg hin, hl1out hin, hccout hin]
  · rw [hread, readStored]
    split <;> rfl

variable (hline : pa % 128 + bs.length ≤ 128) (hpos : 0 < bs.length)
include hhere hfit hline hpos

/-- Under policy 2 a store reaches memory at once. -/
theorem storeD_home (ctx gid : Nat) (trk : Bool) : WritesHome s (s.storeD ctx core gid pa bs 2 trk false) core pa bs := by
  have hpa : isRemote pa = false := not_remote_of_lt ((lt_deepEnd_of_isHere hhere).trans (by decide))
  have hland := fun (u : State) => landAny_here u (dieOf core) (some ctx) hpa hpos (!trk)
  unfold State.storeD
  simp only [if_true, Bool.false_and, Bool.false_eq_true, if_false, hland]
  cases hl : findLine (s.core core).l1 (lineNo pa) with
  | some l =>
    dsimp only
    rw [clusterCache_setCore]
    cases hk : findLine (s.clusterCache (clusterOf core)) (lineNo pa) with
    | some k =>
      refine writesHome_land hhere hfit ?_ ?_ ?_ _ _ _
      exacts [rfl, by rw [core_setClusterCache, core_setCore]; exact takes_of_held hline hpos hl false false gid,
        by rw [clusterCache_setClusterCache]; exact takes_of_held hline hpos hk false false gid]
    | none =>
      refine writesHome_land hhere hfit ?_ ?_ ?_ _ _ _
      exacts [rfl, by rw [core_setCore]; exact takes_of_held hline hpos hl false false gid, takes_of_absent hline hk]
  | none =>
    dsimp only
    cases hk : findLine (s.clusterCache (clusterOf core)) (lineNo pa) with
    | some k =>
      refine writesHome_land hhere hfit ?_ ?_ ?_ _ _ _
      exacts [rfl, takes_of_absent hline hl, by rw [clusterCache_setClusterCache]; exact takes_of_held hline hpos hk false false gid]
    | none =>
      refine writesHome_land hhere hfit ?_ ?_ ?_ _ _ _
      exacts [rfl, takes_of_absent hline hl, takes_of_absent hline hk]

end Home

/-! ### The stores of a word -/

/-- Reading after several stores. -/
def readAll (as : List Access) (read : Nat → Option (BitVec 8)) : Nat → Option (BitVec 8) := as.foldl (fun read a => readStored a.pa a.bytes read) read

/-- Whether an access has a byte of an address. -/
def Access.has (a : Access) (b : Nat) : Prop := a.pa ≤ b ∧ b < a.pa + a.bytes.length

theorem readAll_other {as : List Access} {read : Nat → Option (BitVec 8)} {b : Nat} (h : ∀ a ∈ as, ¬ a.has b) : readAll as read b = read b := by
  induction as generalizing read with
  | nil => rfl
  | cons a as ih =>
    have hthis : readStored a.pa a.bytes read b = read b := if_neg (h a List.mem_cons_self)
    exact (ih fun k hk => h k (List.mem_cons_of_mem _ hk)).trans hthis

theorem readAll_same {as : List Access} {read : Nat → Option (BitVec 8)} {b : Nat} {v : BitVec 8} (h : ∀ a ∈ as, a.has b → a.bytes.getD (b - a.pa) 0 = v)
    (hv : (∃ a ∈ as, a.has b) ∨ read b = some v) : readAll as read b = some v := by
  induction as generalizing read with
  | nil => exact hv.resolve_left fun ⟨a, ha, _⟩ => nomatch ha
  | cons a as ih =>
    refine ih (read := readStored a.pa a.bytes read) (fun k hk => h k (List.mem_cons_of_mem _ hk)) ?_
    by_cases ha : a.has b
    · exact .inr ((if_pos ha).trans (by rw [h a List.mem_cons_self ha]))
    · refine hv.imp (fun ⟨k, hk, hkb⟩ => ⟨k, (List.mem_cons.mp hk).resolve_left fun hka => ha (hka ▸ hkb), hkb⟩) fun hv => ?_
      exact (if_neg ha).trans hv

/-- Accesses within one line of this device's memory. -/
def Access.inLine (a : Access) : Prop := isHere a.pa ∧ a.pa % 128 + a.bytes.length ≤ 128 ∧ a.bytes.length ≤ 16 ∧ 0 < a.bytes.length

section Stores
variable {g : Group} {policy : BitVec 2}

/-- One access of `performStores`. -/
def Group.storeStep (g : Group) (policy : BitVec 2) (s : State) (a : Access) : State :=
  s.storeD g.ctx g.core (s.agentOf g a.lane).gid a.pa a.bytes policy a.trk false

theorem foldl_storeD_l1 (hpolicy : policy ≠ 2) {as : List Access} (has : ∀ a ∈ as, a.inLine) {s : State} (hroom : (s.core g.core).l1.length + as.length ≤ 2048) :
    as.foldl (g.storeStep policy) s = { s with cores := (as.foldl (g.storeStep policy) s).cores } ∧
      (as.foldl (g.storeStep policy) s).byteD g.core = readAll as (s.byteD g.core) := by
  induction as generalizing s with
  | nil => exact ⟨rfl, rfl⟩
  | cons a as ih =>
    obtain ⟨-, hline, -, hpos⟩ := has a List.mem_cons_self
    rw [List.length_cons] at hroom
    obtain ⟨c, hstore, hlen, hread⟩ := storeD_l1 hline hpos hpolicy (show (s.core g.core).l1.length < 2048 by omega) g.ctx (s.agentOf g a.lane).gid a.trk
    obtain ⟨hframe, hbytes⟩ := ih (fun k hk => has k (List.mem_cons_of_mem _ hk)) (s := s.setCore g.core c) (by rw [core_setCore]; omega)
    have hstep : g.storeStep policy s a = s.setCore g.core c := hstore
    rw [List.foldl_cons, hstep]
    exact ⟨hframe, hbytes.trans (by rw [funext hread]; rfl)⟩

theorem foldl_storeD_home {as : List Access} (has : ∀ a ∈ as, a.inLine) {s t : State} (ht : as.foldl (g.storeStep 2) s = t) :
    t = { s with mem := t.mem, poison := t.poison, contexts := t.contexts, dies := t.dies, cores := t.cores, clusters := t.clusters } ∧
      t.byteD g.core = readAll as (s.byteD g.core) ∧ (fun b => some (t.mem.get b)) = readAll as (fun b => some (s.mem.get b)) := by
  induction as generalizing s with
  | nil => subst ht; exact ⟨rfl, rfl, rfl⟩
  | cons a as ih =>
    obtain ⟨hhere, hline, hfit, hpos⟩ := has a List.mem_cons_self
    obtain ⟨hstep, hbyte, hmem⟩ := storeD_home (s := s) (core := g.core) hhere hfit hline hpos g.ctx (s.agentOf g a.lane).gid a.trk
    obtain ⟨hframe, hbytes, hmems⟩ := ih (fun k hk => has k (List.mem_cons_of_mem _ hk)) ht
    refine ⟨?_, hbytes.trans (by rw [Group.storeStep, funext hbyte]; rfl), hmems.trans (by rw [Group.storeStep, funext hmem]; rfl)⟩
    rw [Group.storeStep, hstep] at hframe
    exact hframe

end Stores

end Sys2Proof.Machine
end

section
/-! SUPPORT. Proofs about global stores (11, R195, R197; 10, R170, R174, R184; 07, R117). -/

namespace Sys2Proof.Machine

/-- The forms of ST.g with their widths. -/
def globalStoreForms (g : BitVec 3) (t a : BitVec 7) (sc o : BitVec 2) : List (Instr × Nat) :=
  [(.stGB8 g t a sc o, 1), (.stGB16 g t a sc o, 2), (.stGB32 g t a sc o, 4), (.stGB64 g t a sc o, 8), (.stGB128 g t a sc o, 16)]

theorem getD_read (m : Mem) (a : Nat) {n j : Nat} (hj : j < n) : (m.read a n).getD j 0 = m.get (a + j) := by
  induction n generalizing a j with
  | zero => exact absurd hj (Nat.not_lt_zero j)
  | succ n ih =>
    cases j with
    | zero => rfl
    | succ j => exact (ih (a + 1) (Nat.lt_of_succ_lt_succ hj)).trans (congrArg m.get (by omega))

section Store
variable {s : State} {e : Env} {g : BitVec 3} {t a : BitVec 7} {sc o : BitVec 2} {width : Nat}

theorem exec_globalStore {x : Instr × Nat} (hx : x ∈ globalStoreForms g t a sc o) (s : State) :
    exec x.1 s = storeGlobal x.2 g t a sc o s ∧ (x.2 = 1 ∨ x.2 = 2 ∨ x.2 = 4 ∨ x.2 = 8 ∨ x.2 = 16) := by
  simp only [globalStoreForms, List.mem_cons, List.not_mem_nil, or_false] at hx
  obtain rfl | rfl | rfl | rfl | rfl := hx
  all_goals exact ⟨rfl, by simp⟩

/-- The accesses of a store whose lanes find their pages. -/
def Env.stores (e : Env) (s : State) (g : BitVec 3) (t a : BitVec 7) (width : Nat) : List Access :=
  (lanesOf (e.storing g)).map (e.accessAt s (e.v a) width .write fun i => (e.g.lane i).bytes (e.v t) width)

section Exec
variable (he : s.env = some e)
include he

theorem storeGlobal_illegal (hdet : e.l.det = true) (ho : o ≠ 0) : storeGlobal width g t a sc o s = .next (e.takeFault .illegal s) :=
  inWord_error he (by simp only [hdet, bne_iff_ne.mpr ho, Bool.and_self, if_true])

variable (hdet : e.l.det = false)
include hdet

theorem storeGlobal_absent (ho : o = 0) (habsent : e.absent s (e.storing g) (e.v a) width .write) :
    storeGlobal width g t a sc o s = .next (e.retire (s.updGroup e.g.gid fun x => x.setNr (e.storing g)).tick) := by
  refine inWord_ok he ?_
  have howned : (lanesOf (e.act g)).filter (fun i => !e.g.isHelper i) = lanesOf (e.storing g) := (lanesOf_storing e g).symm
  have hnone (u : State) : u.performStores e.g e.policy [] = u.tick := rfl
  have hsends (u : State) : e.sends u u.tick = u.tick := sends_of_same_outbox e rfl
  subst ho
  simp only [hdet, Bool.false_and, Bool.false_eq_true, if_false, howned, targets_of_absent habsent, accesses_of_absent habsent,
    absentLanes_of_absent habsent, noteTargets_of_absent habsent, stamp_of_not_det hdet, maskOf_lanesOf, State.behind, List.any_nil, bne_self_eq_false,
    hnone, hsends]

variable {pa : Nat → Nat} (hfinds : e.finds s (e.storing g) (e.v a) width .write pa)
include hfinds

/-- A store whose lanes find their pages goes on, or waits for its release. -/
theorem storeGlobal_finds : storeGlobal width g t a sc o s = .next
    (if o != 0 && e.act g != 0 then e.awaitRelease none (e.scope sc) (.store (o == 2) e.policy (e.stores s g t a width)) (e.noted s (e.storing g) (e.v a) width .write)
    else e.retire (e.sends (e.noted s (e.storing g) (e.v a) width .write)
      ((e.noted s (e.storing g) (e.v a) width .write).performStores e.g e.policy (e.stores s g t a width)))) := by
  refine inWord_ok he ?_
  have howned : (lanesOf (e.act g)).filter (fun i => !e.g.isHelper i) = lanesOf (e.storing g) := (lanesOf_storing e g).symm
  simp only [hdet, Bool.false_and, Bool.false_eq_true, if_false, howned, targets_of_finds hfinds, accesses_of_finds hfinds,
    behind_of_finds hfinds e.g, absentLanes_of_finds hfinds, stamp_of_not_det hdet, updGroup_setNr_nil]
  by_cases hrel : (o != 0 && e.act g != 0) = true
  · rw [if_pos hrel, if_pos hrel]; rfl
  · rw [if_neg hrel, if_neg hrel]; rfl

end Exec

/-! #### The accesses of a store -/

/-- A change of what is read at each address gives each lane's bytes at its place, and every other byte as before. -/
def Env.StoresBytes (e : Env) (g : BitVec 3) (t : BitVec 7) (pa : Nat → Nat) (width : Nat)
    (change : (Nat → Option (BitVec 8)) → Nat → Option (BitVec 8)) : Prop :=
  ∀ before, (∀ n j, (e.storing g).getLsbD n = true → j < width → change before (pa n + j) = some (((e.g.lane n).bytes (e.v t + j) 1).headD 0)) ∧
    (∀ b, (∀ n, (e.storing g).getLsbD n = true → b < pa n ∨ pa n + width ≤ b) → change before b = before b)

theorem Env.StoresBytes.of_eq {pa : Nat → Nat} {change : (Nat → Option (BitVec 8)) → Nat → Option (BitVec 8)} (h : e.StoresBytes g t pa width change)
    {after before : Nat → Option (BitVec 8)} (hafter : after = change before) :
    (∀ n j, (e.storing g).getLsbD n = true → j < width → after (pa n + j) = some (((e.g.lane n).bytes (e.v t + j) 1).headD 0)) ∧
    (∀ b, (∀ n, (e.storing g).getLsbD n = true → b < pa n ∨ pa n + width ≤ b) → after b = before b) :=
  hafter ▸ h before

section Accesses
variable {pa : Nat → Nat} (hfinds : e.finds s (e.storing g) (e.v a) width .write pa)
  (hwidth : width = 1 ∨ width = 2 ∨ width = 4 ∨ width = 8 ∨ width = 16)
  (halign : ∀ n, (e.storing g).getLsbD n = true → pa n % width = 0)
include hfinds

theorem mem_stores {x : Access} : x ∈ e.stores s g t a width → ∃ n, (e.storing g).getLsbD n = true ∧ x.lane = n ∧ x.pa = pa n ∧
    x.bytes = (e.g.lane n).bytes (e.v t) width := by
  intro hx
  obtain ⟨n, hn, rfl⟩ := List.mem_map.mp hx
  have hn := (mem_lanesOf _ n).mp hn
  exact ⟨n, hn, rfl, accessAt_pa hfinds hn _, rfl⟩

theorem exists_mem_stores {n : Nat} (hn : (e.storing g).getLsbD n = true) : ∃ x ∈ e.stores s g t a width, x.lane = n ∧ x.pa = pa n ∧
    x.bytes = (e.g.lane n).bytes (e.v t) width :=
  ⟨_, List.mem_map_of_mem ((mem_lanesOf _ n).mpr hn), rfl, accessAt_pa hfinds hn _, rfl⟩

omit hfinds in
theorem stores_length : (e.stores s g t a width).length ≤ 32 := by
  rw [Env.stores, List.length_map, lanesOf]
  exact (List.length_filter_le ..).trans (by decide)

include hwidth halign in
theorem stores_inLine : ∀ x ∈ e.stores s g t a width, x.inLine := by
  intro x hx
  obtain ⟨n, hn, -, hpa, hbytes⟩ := mem_stores hfinds hx
  have hlen : x.bytes.length = width := by rw [hbytes]; exact read_length ..
  have ha := halign n hn
  refine ⟨hpa ▸ isHere_of_finds hfinds hn, ?_, ?_, ?_⟩
  all_goals rw [hlen]
  rw [hpa]
  all_goals obtain rfl | rfl | rfl | rfl | rfl := hwidth
  all_goals omega

variable (hapart : ∀ n m, (e.storing g).getLsbD n = true → (e.storing g).getLsbD m = true → n ≠ m → pa n ≠ pa m)
include hwidth halign hapart

omit hfinds in
/-- Aligned places that differ share no byte. -/
theorem places_apart {n m j : Nat} (hn : (e.storing g).getLsbD n = true) (hm : (e.storing g).getLsbD m = true) (hne : n ≠ m) (hj : j < width) :
    ¬ (pa m ≤ pa n + j ∧ pa n + j < pa m + width) := by
  have hn' := halign n hn
  have hm' := halign m hm
  have hpa := hapart n m hn hm hne
  obtain rfl | rfl | rfl | rfl | rfl := hwidth
  all_goals omega

/-- The lanes write in order, since no two of them share a byte. -/
theorem laneOrder_stores (u : State) : laneOrder u (e.stores s g t a width) = e.stores s g t a width := by
  refine if_neg fun hmeet => ?_
  obtain ⟨x, hx, hmeet⟩ := List.any_eq_true.mp hmeet
  obtain ⟨y, hy, hmeet⟩ := List.any_eq_true.mp hmeet
  obtain ⟨n, hn, hlane, hpa, hbytes⟩ := mem_stores hfinds hx
  obtain ⟨m, hm, hlane', hpa', hbytes'⟩ := mem_stores hfinds hy
  have hlen : x.bytes.length = width := by rw [hbytes]; exact read_length ..
  have hlen' : y.bytes.length = width := by rw [hbytes']; exact read_length ..
  simp only [Access.meets, hlen, hlen', hpa, hpa', hlane, hlane', Bool.and_eq_true, bne_iff_ne, decide_eq_true_eq] at hmeet
  have hxy := fun j => places_apart hwidth halign hapart (j := j) hn hm hmeet.1
  have hyx := fun j => places_apart hwidth halign hapart (j := j) hm hn (Ne.symm hmeet.1)
  have h0 := hxy 0
  have h0' := hyx 0
  omega

/-- What is read after the stores: each lane's bytes, and every other byte as before. -/
theorem readAll_stores : e.StoresBytes g t pa width (readAll (e.stores s g t a width)) := by
  have hlen {x : Access} {n : Nat} (h : x.bytes = (e.g.lane n).bytes (e.v t) width) : x.bytes.length = width := by rw [h]; exact read_length ..
  refine fun before => ⟨fun n j hn hj => readAll_same (fun x hx hhas => ?_) (.inl ?_), fun b hb => readAll_other fun x hx hhas => ?_⟩
  · obtain ⟨m, hm, -, hpa, hbytes⟩ := mem_stores hfinds hx
    rw [Access.has, hlen hbytes, hpa] at hhas
    have hmn : n = m := Decidable.not_not.mp fun hne => places_apart hwidth halign hapart hn hm hne hj hhas
    rw [hbytes, hpa, ← hmn, Nat.add_sub_cancel_left]
    exact getD_read _ _ hj
  · obtain ⟨x, hx, -, hpa, hbytes⟩ := exists_mem_stores (t := t) hfinds hn
    exact ⟨x, hx, by rw [Access.has, hlen hbytes, hpa]; omega⟩
  · obtain ⟨m, hm, -, hpa, hbytes⟩ := mem_stores hfinds hx
    rw [Access.has, hlen hbytes, hpa] at hhas
    have := hb m hm
    omega

end Accesses

/-! #### How a store ends -/

theorem NotesPages.byteD {s u : State} {gid : Nat} (h : NotesPages s u gid) (core : Nat) : u.byteD core = s.byteD core := by
  obtain ⟨tlb, hcore⟩ := h.core core
  have hcc : u.clusterCache (clusterOf core) = s.clusterCache (clusterOf core) := by rw [h.frame]; rfl
  have hmem : u.mem = s.mem := (congrArg State.mem h.frame :)
  funext b
  rw [byteD_eq, byteD_eq, hcore, hcc, h.remote, hmem]

/-- A word that has noted its pages and stored goes on. -/
theorem retire_of_stored {u v : State} (hu : NotesPages s u e.g.gid) (hgroup : s.group? e.g.gid = some e.g)
    (hv : v = { u with mem := v.mem, poison := v.poison, contexts := v.contexts, dies := v.dies, cores := v.cores, clusters := v.clusters }) :
    e.sends u v.tick = v.tick ∧ (e.retire v.tick).requests = s.requests ∧ (e.retire v.tick).workgroups = s.workgroups ∧
      (∀ k, k ≠ e.g.gid → (e.retire v.tick).group? k = s.group? k) ∧ ∃ grp, (e.retire v.tick).group? e.g.gid = some grp ∧
        grp = (e.g.goto e.iss.slotB (e.iss.pc + 4)).withLanes grp.lanes ∧ ∀ n, n < e.g.lanes.length → ∃ p, grp.lane n = (e.g.lane n).withPage p := by
  have hgroups (k : Nat) : v.tick.group? k = u.group? k := (congrArg (fun t : State => t.group? k) hv :)
  obtain ⟨ls, hls, hpages⟩ := hu.group e.g hgroup
  refine ⟨sends_of_same_outbox e (congrArg State.outbox hv :), (congrArg State.requests hv :).trans (congrArg State.requests hu.frame :),
    (congrArg State.workgroups hv :).trans (congrArg State.workgroups hu.frame :), fun k hk => ?_, (e.g.goto e.iss.slotB (e.iss.pc + 4)).withLanes ls, ?_, rfl, hpages.2⟩
  · rw [group_retire_other hk, hgroups, hu.others k hk]
  · rw [group_retire ((hgroups _).trans hls), goto_lanes]

/-- Where only L1 took bytes, memory and the cluster caches are as before. -/
theorem retire_of_noted {u v : State} (hu : NotesPages s u e.g.gid) (hv : ∃ cs, v = { u with cores := cs }) : e.retire v.tick =
    { s with groups := (e.retire v.tick).groups, cores := (e.retire v.tick).cores, dies := (e.retire v.tick).dies, fresh := (e.retire v.tick).fresh, issue := none } := by
  obtain ⟨cs, rfl⟩ := hv
  obtain ⟨gs, cs', ds, rfl⟩ : ∃ gs cs ds, u = { s with groups := gs, cores := cs, dies := ds } := ⟨_, _, _, hu.frame⟩
  rfl

/-- A word without a request whose lanes took NR goes on. -/
theorem marksNr_retire (he : s.env = some e) (m : BitVec 32) : e.marksNr s (e.retire (s.updGroup e.g.gid fun g => g.setNr m).tick) m e.g s := by
  have hgroup : (s.updGroup e.g.gid fun g => g.setNr m).tick.group? e.g.gid = some (e.g.withLanes (e.g.setNr m).lanes) := by
    have hupd := group_updGroup s e.g.gid (fun g => g.setNr m) fun g => setNr_gid g m
    rw [env_group he] at hupd
    exact hupd.trans (congrArg some (setNr_eq e.g m))
  refine ⟨rfl, fun k hk => ?_, (e.g.goto e.iss.slotB (e.iss.pc + 4)).withLanes (e.g.setNr m).lanes, ?_, rfl, fun n hn => lane_setNr e.g m hn⟩
  · rw [group_retire_other hk]
    exact group_updGroup_other _ _ _ _ (fun g => setNr_gid g m) hk
  · rw [group_retire hgroup, goto_lanes]

/-- A store performed, where the lanes' places share no byte. -/
theorem performStores_of_ordered {u : State} {g : Group} {policy : BitVec 2} {as : List Access} (h : laneOrder u as = as) :
    u.performStores g policy as = (as.foldl (g.storeStep policy) u).tick := by
  rw [State.performStores, h]
  rfl

end Store

/-- Settles O35: the lanes' places share no byte, so each store adds its own bytes to what the D path reads, in L1 or, under policy 2, at their home. -/
theorem globalStores : Obligations.GlobalStores := by
  unfold Obligations.GlobalStores
  intro s e g t a sc o pa he x hx
  obtain ⟨hexec, hwidth⟩ := exec_globalStore hx s
  have hgroup := env_group he
  rw [hexec]
  refine ⟨fun hdet ho => ?illegal, fun hdet ho habsent => ?absent, fun hdet hfinds halign hapart => ⟨fun ho hroom => ?stores, fun ho hact => ?releases⟩⟩
  case illegal => exact hexec.trans (storeGlobal_illegal he hdet ho)
  case absent => exact ⟨_, storeGlobal_absent he hdet ho habsent, marksNr_retire he _⟩
  case stores =>
    subst ho
    have hu : NotesPages s (e.noted s (e.storing g) (e.v a) x.2 .write) e.g.gid := notesPages_noteTargets ..
    have hord := laneOrder_stores (t := t) hfinds hwidth halign hapart
    have hread := readAll_stores (t := t) hfinds hwidth halign hapart
    have hline := stores_inLine (t := t) hfinds hwidth halign
    have hnone : ((0 : BitVec 2) != 0 && e.act g != 0) = false := rfl
    have hgoes := storeGlobal_finds (t := t) (sc := sc) (o := 0) he hdet hfinds
    rw [hnone, if_neg Bool.false_ne_true, performStores_of_ordered (hord _)] at hgoes
    generalize e.noted s (e.storing g) (e.v a) x.2 .write = u at hu hgoes
    have hbefore := hu.byteD e.g.core
    by_cases hpolicy : e.policy = 2
    case pos =>
      rw [hpolicy] at hgoes
      obtain ⟨hv, hbytes, hmem⟩ := foldl_storeD_home (g := e.g) hline (s := u) rfl
      generalize (e.stores s g t a x.2).foldl (e.g.storeStep 2) u = v at hv hbytes hmem hgoes
      obtain ⟨hsends, hreqs, hwgs, hothers, grp, hgrp, hwent, hlanes⟩ := retire_of_stored hu hgroup hv
      have hhome : u.mem = s.mem := (congrArg State.mem hu.frame :)
      rw [hsends] at hgoes
      exact ⟨_, grp, hgoes, hread.of_eq (hbytes.trans (by rw [hbefore])), fun hne => absurd hpolicy hne,
        fun _ => hread.of_eq (hmem.trans (by rw [hhome])), hreqs, hwgs, hothers, hgrp, hwent, hlanes⟩
    case neg =>
      have hl1 : (u.core e.g.core).l1 = (s.core e.g.core).l1 := by obtain ⟨tlb, hcore⟩ := hu.core e.g.core; rw [hcore]
      have hlen := stores_length (s := s) (e := e) (g := g) (t := t) (a := a) (width := x.2)
      obtain ⟨hv, hbytes⟩ := foldl_storeD_l1 (g := e.g) hpolicy hline (s := u) (by rw [hl1]; have := hroom.resolve_left hpolicy; omega)
      generalize (e.stores s g t a x.2).foldl (e.g.storeStep e.policy) u = v at hv hbytes hgoes
      obtain ⟨hsends, hreqs, hwgs, hothers, grp, hgrp, hwent, hlanes⟩ := retire_of_stored hu hgroup (v := v) (by rw [hv])
      rw [hsends] at hgoes
      exact ⟨_, grp, hgoes, hread.of_eq (hbytes.trans (by rw [hbefore])), fun _ => retire_of_noted hu ⟨_, hv⟩,
        fun heq => absurd heq hpolicy, hreqs, hwgs, hothers, hgrp, hwent, hlanes⟩
  case releases =>
    have hrel : (o != 0 && e.act g != 0) = true := by rw [bne_iff_ne.mpr ho, bne_iff_ne.mpr hact]; rfl
    obtain ⟨hreqs, hmem, grp, hgrp, hwait, -⟩ := awaitRelease_ends (sc := e.scope sc) (after := .store (o == 2) e.policy (e.stores s g t a x.2))
      none (notesPages_noteTargets e ((lanesOf (e.storing g)).map (e.targetAt s (e.v a) x.2 .write)) s) hgroup
    exact ⟨_, _, grp, (storeGlobal_finds he hdet hfinds).trans (by rw [if_pos hrel]; rfl), hreqs, fun n hn => exists_mem_stores hfinds hn, hmem, hgrp, hwait⟩

end Sys2Proof.Machine
end

section
/-! SUPPORT. What write-backs leave as it was: of the machine they change memory, caches and what goes out, and of a context its bindings and its count of
deferred errors (10, R170, R192; 07, R117). -/

namespace Sys2Proof.Machine

/-! ### Contexts by their numbers -/

/-- A context without what a landing changes in it. -/
def Context.sansBindings (c : Context) : Context := { c with bindings := [], deferred := 0 }

/-- The machine without what a write-back changes in it. -/
def State.sansCaches (s : State) : State :=
  { s with mem := [], poison := [], contexts := s.contexts.map Context.sansBindings, dies := [], cores := [], clusters := [], outbox := [], leaving := [] }

theorem find_map_no {α : Type} (cs : List Context) (f : Context → α) (no : α → Nat) (hf : ∀ c, no (f c) = c.no) (n : Nat) :
    (cs.map f).find? (fun x => no x == n) = (cs.find? fun c => c.no == n).map f := by
  rw [List.find?_map]
  exact congrArg (Option.map f) (congrArg (List.find? · cs) (funext fun c => by rw [Function.comp_apply, hf]))

/-- Contexts that agree in a part that has their numbers are found alike. -/
theorem ctx_of_map_eq {α : Type} {s t : State} (f : Context → α) (no : α → Nat) (hf : ∀ c, no (f c) = c.no) (h : t.contexts.map f = s.contexts.map f)
    (n : Nat) : (t.ctx? n).map f = (s.ctx? n).map f := by
  rw [State.ctx?, State.ctx?, ← find_map_no _ f no hf, h, find_map_no _ f no hf]

/-- A part of the contexts that a change of some of them leaves is the same after it. -/
theorem map_mapWhere {α β : Type} (f : α → β) (p : α → Bool) (g : α → α) (h : ∀ x, f (g x) = f x) (xs : List α) : (mapWhere p g xs).map f = xs.map f := by
  rw [mapWhere, List.map_map]
  refine List.map_congr_left fun x _ => ?_
  rw [Function.comp_apply, apply_ite f, h, ite_self]

/-! ### Write-backs -/

section Caches
variable (s : State)

theorem landBytes_sansBindings (ctx : Option Nat) (bytes : List (Nat × BitVec 8)) (ps : List Nat) :
    (s.landBytes ctx bytes ps).contexts.map Context.sansBindings = s.contexts.map Context.sansBindings := by
  cases ctx with
  | none =>
    unfold State.landBytes
    dsimp only
    obtain ⟨ds, hds⟩ := countErrors _ _
    rw [hds]
  | some n =>
    obtain ⟨k, hk⟩ := landBytes_contexts s n bytes ps
    rw [hk]
    exact map_mapWhere Context.sansBindings _ (fun c => { c with deferred := c.deferred + k }) (fun _ => rfl) _

theorem land_sans (ctx : Option Nat) (ws : List (Nat × BitVec 8 × Bool)) (ps : List Nat) : (s.land ctx ws ps).sansCaches = s.sansCaches := by
  have hcontexts : (s.land ctx ws ps).contexts.map Context.sansBindings = s.contexts.map Context.sansBindings := by
    rw [← landBytes_sansBindings s ctx (ws.map fun w => (w.1, w.2.1)) ps]
    exact List.map_map.trans (List.map_congr_left fun _ _ => rfl)
  rw [land_frame]
  exact congrArg (fun cs => { s with mem := [], poison := [], contexts := cs, dies := [], cores := [], clusters := [], outbox := [], leaving := [] }) hcontexts

theorem landAny_sans (die : Nat) (ctx : Option Nat) (ws : List (Nat × BitVec 8 × Bool)) (ps : List Nat) : (s.landAny die ctx ws ps).sansCaches = s.sansCaches := by
  cases ws with
  | nil => rfl
  | cons w ws =>
    rw [State.landAny]
    split
    · rfl
    · exact land_sans s ctx _ ps

theorem backClusterIn_sans (ctx : Option Nat) (cc no : Nat) (m : BitVec 128) : (s.backClusterIn ctx cc no m).sansCaches = s.sansCaches := by
  unfold State.backClusterIn
  split
  · rfl
  · split
    · rfl
    · exact landAny_sans s ..

theorem putCluster_sans (cc : Nat) (l : Line) : (s.putCluster cc l).sansCaches = s.sansCaches := by
  unfold State.putCluster
  dsimp only
  split
  · rfl
  · split
    · rfl
    · split
      · rfl
      · exact backClusterIn_sans ..

theorem backL1In_sans (core no : Nat) (m : BitVec 128) : (s.backL1In core no m).sansCaches = s.sansCaches := by
  unfold State.backL1In
  dsimp only
  split
  · rfl
  · split
    · rfl
    · exact putCluster_sans ..

theorem pushCores_sans (ctx : Nat) (cores : List Nat) : (s.pushCores ctx cores).sansCaches = s.sansCaches := by
  unfold State.pushCores
  dsimp only
  refine (foldl_same State.sansCaches _ (fun t cc => ?_) _ _).trans (foldl_same State.sansCaches _ (fun t i => ?_) _ s)
  · exact foldl_same State.sansCaches _ (fun u l => backClusterIn_sans ..) _ t
  · exact foldl_same State.sansCaches _ (fun u l => backL1In_sans ..) _ t

theorem pushTiles_sans (g : Group) : (s.pushTiles g).sansCaches = s.sansCaches := by
  unfold State.pushTiles
  refine foldl_same State.sansCaches _ (fun t a => foldl_same State.sansCaches _ (fun u no => ?_) _ t) _ s
  dsimp only
  split
  · rfl
  · exact landAny_sans u ..

end Caches

end Sys2Proof.Machine
end

section
/-! SUPPORT. The numbers of contexts and launches, which a signal of a counter leaves as they were, though it may have its page served (11, R215; 10, R185,
R190; 06, R96). -/

namespace Sys2Proof.Machine

/-- The number of a context and those of its launches. -/
def Context.numbers (c : Context) : Nat × List Nat := (c.no, c.launches.map fun l => l.no)

def State.numbers (s : State) : List (Nat × List Nat) := s.contexts.map Context.numbers

theorem numbers_of_sans {s t : State} (h : t.sansCaches = s.sansCaches) : t.numbers = s.numbers := by
  have hcontexts : t.contexts.map Context.sansBindings = s.contexts.map Context.sansBindings := (congrArg State.contexts h :)
  have hsame : Context.numbers ∘ Context.sansBindings = Context.numbers := rfl
  rw [State.numbers, State.numbers, ← hsame, ← List.map_map, hcontexts, List.map_map]

/-- Where the numbers are the same, so are the launches that can be found. -/
theorem launch_of_numbers {s t : State} (h : t.numbers = s.numbers) {ctx n : Nat} {c : Context} {l : Launch} (hc : s.ctx? ctx = some c)
    (hl : c.launch? n = some l) : ∃ d k, t.ctx? ctx = some d ∧ d.launch? n = some k := by
  have hfound := ctx_of_map_eq Context.numbers Prod.fst (fun _ => rfl) h ctx
  rw [hc, Option.map_some, Option.map_eq_some_iff] at hfound
  obtain ⟨d, hd, hnumbers⟩ := hfound
  have hmem : n ∈ c.launches.map fun l => l.no := List.mem_map.mpr ⟨l, List.mem_of_find?_eq_some hl, launch_no hl⟩
  have hlaunches : d.launches.map (fun l => l.no) = c.launches.map fun l => l.no := congrArg Prod.snd hnumbers
  rw [← hlaunches] at hmem
  obtain ⟨k, hk, hno⟩ := List.mem_map.mp hmem
  obtain ⟨k', hk'⟩ := Option.isSome_iff_exists.mp (List.find?_isSome.mpr ⟨k, hk, beq_iff_eq.mpr hno⟩ : (d.launch? n).isSome = true)
  exact ⟨d, k', hd, hk'⟩

section Numbers
variable (s : State)

theorem numbers_updCtx {n : Nat} {f : Context → Context} (hf : ∀ c, (f c).numbers = c.numbers) : (s.updCtx n f).numbers = s.numbers :=
  map_mapWhere Context.numbers _ f hf s.contexts

theorem numbers_updLaunch {ctx n : Nat} {f : Launch → Launch} (hf : ∀ l, (f l).no = l.no) : (s.updLaunch ctx n f).numbers = s.numbers :=
  numbers_updCtx s fun c => congrArg (Prod.mk c.no) (map_mapWhere (fun l : Launch => l.no) _ f hf c.launches)

theorem countWaits_numbers (source : Nat × Nat) (pa old new : Nat) : (s.countWaits source pa old new).numbers = s.numbers := by
  unfold State.countWaits
  refine foldl_same State.numbers _ (fun t g => ?_) _ s
  exact foldl_same State.numbers _ (fun u since => numbers_updLaunch u (f := fun l => { l with wSpans := addSpan l.wSpans since u.time }) fun _ => rfl) _ t

theorem land_numbers (ctx : Option Nat) (ws : List (Nat × BitVec 8 × Bool)) (ps : List Nat) : (s.land ctx ws ps).numbers = s.numbers :=
  numbers_of_sans (land_sans s ctx ws ps)

theorem signal_numbers (ctx : Option Nat) (source : Nat × Nat) (pa : Nat) (trk : Bool) : (s.signal ctx source pa trk).numbers = s.numbers := by
  unfold State.signal
  split
  · rfl
  · exact (land_numbers _ ..).trans (countWaits_numbers s ..)

/-! ### A page that is served -/

theorem drainRange_numbers (lo size : Nat) : (s.drainRange lo size).numbers = s.numbers := by
  unfold State.drainRange
  dsimp only
  refine (foldl_same State.numbers _ (fun t c => foldl_same State.numbers _ (fun u l => ?tile) _ t) _ _).trans
    ((foldl_same State.numbers _ (fun t c => foldl_same State.numbers _ (fun u l => ?cluster) _ t) _ _).trans
      (foldl_same State.numbers _ (fun t c => foldl_same State.numbers _ (fun u l => ?l1) _ t) _ s))
  case tile => exact numbers_of_sans (landAny_sans u _ (u.lineOwner l) l.dirtyBytes l.poisonedWords)
  case cluster => exact numbers_of_sans (backClusterIn_sans ..)
  case l1 => exact numbers_of_sans (backL1In_sans ..)

theorem moveFrame_numbers (old new size : Nat) (data : List (BitVec 8)) : (s.moveFrame old new size data).numbers = s.numbers := by
  unfold State.moveFrame
  split
  · unfold State.sendFrame
    refine foldl_same State.numbers _ (fun t i => ?_) _ s
    rfl
  · split
    · exact foldl_same State.numbers _ (fun t _ => land_numbers t ..) _ s
    · split <;> rfl

theorem follow_numbers (old size new : Nat) : (s.follow old size new).numbers = s.numbers := by
  unfold State.follow
  split <;> rfl

theorem forgetRange_numbers (lo size : Nat) : (s.forgetRange lo size).numbers = s.numbers := rfl

theorem sweepTlb_numbers (ctx : Nat) (page : Option Nat) : (s.sweepTlb ctx page).numbers = s.numbers := rfl

theorem landWord_numbers (a v : Nat) : (s.landWord a v).numbers = s.numbers := land_numbers s ..

theorem migratePage_numbers (ctx va frame : Nat) (data : List (BitVec 8)) : (s.migratePage ctx va frame data).numbers = s.numbers := by
  unfold State.migratePage
  split
  · rfl
  · split
    · rfl
    · dsimp only
      rw [follow_numbers, sweepTlb_numbers, landWord_numbers, forgetRange_numbers, forgetRange_numbers, moveFrame_numbers]
      split
      · rfl
      · exact drainRange_numbers s ..

theorem servePage_numbers (ctx va : Nat) : (s.servePage ctx va).1.numbers = s.numbers := by
  unfold State.servePage
  split
  · split
    · rfl
    · split
      · rfl
      · split
        · exact numbers_updCtx s fun _ => rfl
        · exact (migratePage_numbers ..).trans (numbers_updCtx s fun _ => rfl)
  · rfl

theorem noteEngine_numbers (u : Option StopUnit) (l : Leaf) : (s.noteEngine u l).numbers = s.numbers := by
  unfold State.noteEngine
  split
  · rfl
  · split <;> rfl

variable {s}

theorem engineAccess_numbers {t : State} {u : Option StopUnit} {ctx va : Nat} {n : Need} {l : Leaf} (h : s.engineAccess u ctx va n = .ok (t, l)) :
    t.numbers = s.numbers := by
  have hserve := servePage_numbers s ctx va
  unfold State.engineAccess at h
  grind [noteEngine_numbers]

theorem signalVa_numbers {t : State} {ctx va : Nat} {source : Nat × Nat} (h : s.signalVa ctx source va = .ok t) : t.numbers = s.numbers := by
  unfold State.signalVa at h
  split at h
  · exact nomatch h
  next u l hu =>
    obtain rfl := Except.ok.inj h
    exact (signal_numbers u ..).trans (engineAccess_numbers hu)

end Numbers

end Sys2Proof.Machine
end

section
/-! SUPPORT. Proofs about LAUNCH, admissions, completion signals and placements (11, R218–R221; 06, R91–R95, R101, R102). -/

namespace Sys2Proof.Machine

/-! ### LAUNCH (R218) -/

section Launch
variable {s : State} {e : Env} {g : BitVec 3} {d a : BitVec 7} {la : BitVec 4} (he : s.env = some e)
include he

theorem launch_illegal (h : e.l.det = true ∨ e.g.isHandler = true) : Faults (.launch g d a la) s e .illegal := by
  have hbad : (e.l.det || e.g.isHandler) = true := Bool.or_eq_true_iff.mpr h
  exact inWord_error he (by rw [hbad]; rfl)

variable (hdet : e.l.det = false) (hhandler : e.g.isHandler = false)
include hdet hhandler

theorem launch_inactive (hact : e.act g = 0) : LongWord (.launch g d a la) s e la (.load [] [] [] none) :=
  longWord_of _ _ he (inWord_ok he (by simp only [hdet, hhandler, Bool.or_false, Bool.false_eq_true, if_false, uniform_of_inactive _ hact]))

theorem launch_agrees {va : DWord} (hva : e.agree g (fun l => l.dword (e.v a)) va) :
    exec (.launch g d a la) s = .next (e.awaitRelease (some la.toNat) .dev (.launch va.toNat (e.v d) (e.act g)) s) :=
  inWord_ok he (by simp only [hdet, hhandler, Bool.or_false, Bool.false_eq_true, if_false, uniform_of_agree hva])

end Launch

/-- A word that opens its window and waits for its release changes only its group and the requests. -/
theorem awaitRelease_window {s : State} {e : Env} (hgroup : s.group? e.g.gid = some e.g) (la : Nat) (sc : Scope) (after : After) :
    e.awaitRelease (some la) sc after s = { s with
        groups := (e.awaitRelease (some la) sc after s).groups, requests := s.requests ++ [e.request s (.release sc after)], fresh := s.fresh + 1, issue := none } ∧
      (∀ k, k ≠ e.g.gid → (e.awaitRelease (some la) sc after s).group? k = s.group? k) ∧
      (e.awaitRelease (some la) sc after s).group? e.g.gid = some ({ e.g with windows := e.g.windows ++ [e.window s la] }.updSlot e.iss.slotB
        fun x => { x with wait := some (.request s.fresh), redo := none }) := by
  refine ⟨rfl, fun k hk => ?_, ?_⟩
  · exact (group_await_other _ hk).trans (group_updGroup_other s _ _ _ (fun _ => rfl) hk)
  · have hopen : (e.openWindow la (.release sc after) s).group? e.g.gid = some { e.g with windows := e.g.windows ++ [e.window s la] } := by
      rw [Env.openWindow, group_submit, group_updGroup _ _ _ fun _ => by rfl, hgroup]
      rfl
    exact group_await _ hopen

/-! ### Admission (06, R95; 11, R220) -/

section Admission
variable {s : State} {id dest : Nat} {desc : List (BitVec 8)} {act : BitVec 32} {r : Request} {g : Group} {c : Context} {k : Kernel}
  (hlive : s.live? id = some r) (hjob : r.job = .launch desc dest act) (hctx : s.ctx? r.ctx = some c) (hkernel : c.kernel? (leNat (desc.take 8)) = some k)
include hlive hjob hctx hkernel

theorem launchAdmissionReply_eq : exec (.launchAdmissionReply id) s =
    .next ((if s.admission c (launchOf desc k false 0 s.time) k.regs == 0 then s.accept r.ctx (launchOf desc k false 0 s.time) else s.tick).deliver r
      ((lanesOf act).map fun i => ⟨i, dest, leBytes 8 (launchResult (s.admission c (launchOf desc k false 0 s.time) k.regs) s.promiseOf)⟩)) := by
  show execLaunchAdmissionReply id s = _
  simp only [execLaunchAdmissionReply, hlive, hjob, hctx, hkernel]

theorem launch_admitted (hgroup : s.group? r.gid = some g) (hcode : s.admission c (launchOf desc k false 0 s.time) k.regs = 0) :
    ∃ t, exec (.launchAdmissionReply id) s = .next t ∧ DeliversTo (s.accept r.ctx (launchOf desc k false 0 s.time)) t r g
      ((lanesOf act).map fun i => ⟨i, dest, leBytes 8 (s.promiseOf % 2 ^ 48)⟩) [] [] := by
  have hexec := launchAdmissionReply_eq hlive hjob hctx hkernel
  have hresult : launchResult 0 s.promiseOf = s.promiseOf % 2 ^ 48 := by rw [launchResult, Nat.zero_mul, Nat.zero_add]; rfl
  rw [hcode, hresult, if_pos (by rfl)] at hexec
  exact ⟨_, hexec, deliversTo_deliver (s := s.accept r.ctx _) hgroup _⟩

theorem launch_refused (hgroup : s.group? r.gid = some g) (hcode : s.admission c (launchOf desc k false 0 s.time) k.regs ≠ 0) :
    ∃ t, exec (.launchAdmissionReply id) s = .next t ∧ DeliversTo { s with fresh := s.fresh + 1 } t r g
      ((lanesOf act).map fun i => ⟨i, dest, leBytes 8 (s.admission c (launchOf desc k false 0 s.time) k.regs * 2 ^ 48)⟩) [] [] := by
  have hexec := launchAdmissionReply_eq hlive hjob hctx hkernel
  generalize s.admission c (launchOf desc k false 0 s.time) k.regs = code at hexec hcode ⊢
  have hresult : launchResult code s.promiseOf = code * 2 ^ 48 := by
    rw [launchResult, beq_false_of_ne hcode]
    exact Nat.add_zero _
  rw [hresult, if_neg (by simpa using hcode)] at hexec
  exact ⟨_, hexec, deliversTo_deliver (s := s.tick) hgroup _⟩

omit hlive hjob hkernel in
theorem ctx_accept (l : Launch) : ∃ x y, (s.accept r.ctx l).ctx? r.ctx = some x ∧ x.launches = c.launches ++ [y] ∧ y.no = c.nextGrid ∧
    y.reserved = l.energy ∧ y.handle = l.handle ∧ y.kernel = l.kernel ∧ y.placed = l.placed := by
  have hfound := ctx_updCtx s r.ctx (fun c => { c with
    nextGrid := (c.nextGrid + 1) % 2 ^ 32
    launches := c.launches ++ [{ l with no := c.nextGrid, promise := s.promiseOf, reserved := l.energy, r := if l.dep then none else some s.time }] }) fun _ => rfl
  rw [hctx] at hfound
  exact ⟨_, _, hfound, rfl, rfl, rfl, rfl, rfl, rfl⟩

end Admission

/-! ### The completion signal (R221) -/

theorem launchBusy_iff (s : State) (ctx n : Nat) :
    s.launchBusy ctx n = true ↔ ∃ r ∈ s.requests, r.ctx = ctx ∧ (r.launch = n ∨ r.gid = 0) ∧ r.remoteAccess = true := by
  simp [State.launchBusy, and_assoc]

section Completion
variable {s : State} {ctx n : Nat} {c : Context} {l : Launch} (hctx : s.ctx? ctx = some c) (hlaunch : c.launch? n = some l)
include hctx hlaunch

theorem launchCompletion_none (h : l.ended = false ∨ l.signalled = true ∨ c.run ≠ .running ∨ s.launchBusy ctx n = true ∨
    (∃ w ∈ s.workgroups, w.ctx = ctx ∧ w.launch = n ∧ w.freed = false)) : exec (.launchCompletionSignal ctx n .none) s = .next s := by
  have hheld : (∃ w ∈ s.workgroups, w.ctx = ctx ∧ w.launch = n ∧ w.freed = false) →
      (s.workgroups.any fun w => w.ctx == ctx && w.launch == n && !w.freed) = true := fun ⟨w, hw, h1, h2, h3⟩ =>
    List.any_eq_true.mpr ⟨w, hw, by simp [h1, h2, h3]⟩
  have hstop : (!l.ended || l.signalled || (s.workgroups.any fun w => w.ctx == ctx && w.launch == n && !w.freed) || s.launchBusy ctx n || c.run != .running) = true := by
    obtain h | h | h | h | h := h
    · simp [h]
    · simp [h]
    · simp [h]
    · simp [h]
    · simp [hheld h]
  show execLaunchCompletionSignal ctx n .none s = _
  simp only [execLaunchCompletionSignal, hctx, hlaunch, hstop, if_true]

variable (hended : l.ended = true) (hsignalled : l.signalled = false) (hrun : c.run = .running) (hbusy : s.launchBusy ctx n = false)
  (hfreed : ∀ w ∈ s.workgroups, w.ctx = ctx → w.launch = n → w.freed = true) {u : State}
  (hu : (if l.counter = 0 then Except.ok (s.pushContext c) else (s.pushContext c).signalVa ctx (ctx, n + 1) l.counter) = .ok u)
include hended hsignalled hrun hbusy hfreed hu

/-- What follows once the signal has been made, by what it has sent. -/
theorem launchCompletion_acked : exec (.launchCompletionSignal ctx n .none) s = .next (match s.acked .none l.sent u with
    | .done => { u.updLaunch ctx n (fun l => { l with signalled := true }) with
        stamps := u.stamps.filter (fun t => !(t.ctx == ctx && t.launch == n)), workgroups := u.workgroups.filter (fun w => !(w.ctx == ctx && w.launch == n)) }
    | .waits => s.updLaunch ctx n (fun l => { l with sent := some (l.sent.getD s.time) })
    | .fails a => (s.updLaunch ctx n (fun l => { l with signalled := true })).launchFault ctx l a) := by
  have hheld : (s.workgroups.any fun w => w.ctx == ctx && w.launch == n && !w.freed) = false := by
    rw [List.any_eq_false]
    intro w hw
    have := hfreed w hw
    simp only [Bool.and_eq_true, beq_iff_eq, Bool.not_eq_true', not_and, Bool.not_eq_false]
    exact fun hwg => this hwg.1 hwg.2
  have hgoes : (!l.ended || l.signalled || (s.workgroups.any fun w => w.ctx == ctx && w.launch == n && !w.freed) || s.launchBusy ctx n || c.run != .running) = false := by
    rw [hended, hsignalled, hheld, hbusy, hrun]
    rfl
  have hsame : (if l.counter == 0 then Except.ok (s.pushContext c) else (s.pushContext c).signalVa ctx (ctx, n + 1) l.counter) = .ok u :=
    (if_congr beq_iff_eq rfl rfl).trans hu
  show execLaunchCompletionSignal ctx n .none s = _
  simp only [execLaunchCompletionSignal, hctx, hlaunch, hgoes, Bool.false_eq_true, if_false, hsame]
  cases s.acked .none l.sent u <;> rfl

omit hctx hlaunch hended hsignalled hrun hbusy hfreed in
theorem signalled_numbers : u.numbers = s.numbers := by
  have hpush : (s.pushContext c).numbers = s.numbers := numbers_of_sans (pushCores_sans s ..)
  split at hu
  · exact Except.ok.inj hu ▸ hpush
  · exact (signalVa_numbers hu).trans hpush

/-- A launch whose signal sends nothing to another device has signalled. -/
theorem launchCompletion_done (hsent : u.outbox = s.outbox) : ∃ t x y, exec (.launchCompletionSignal ctx n .none) s = .next t ∧ t.ctx? ctx = some x ∧
    x.launch? n = some y ∧ y.signalled = true ∧ (∀ w ∈ t.workgroups, ¬ (w.ctx = ctx ∧ w.launch = n)) ∧ t.mem = u.mem := by
  have hdone : s.acked .none l.sent u = .done := by
    rw [State.acked, sentTo_of_nothing_sent (by rw [hsent, List.drop_length]; rfl)]
  have hexec := launchCompletion_acked hctx hlaunch hended hsignalled hrun hbusy hfreed hu
  rw [hdone] at hexec
  obtain ⟨d, k, hd, hk⟩ := launch_of_numbers (signalled_numbers hu) hctx hlaunch
  have hd' := ctx_updCtx u ctx (fun c => c.updLaunch n fun l => { l with signalled := true }) fun _ => rfl
  rw [hd] at hd'
  refine ⟨_, _, _, hexec, hd', launch_updLaunch (fun _ => rfl) hk, rfl, fun w hw => ?_, rfl⟩
  have hother := (List.mem_filter.mp hw).2
  simpa [or_iff_not_imp_left] using hother

end Completion

end Sys2Proof.Machine
end

section
/-! SUPPORT. Proofs about the placement of a cluster of one workgroup (06, R91, R92, R94, R102; 02, R21, R22, R26–R28). -/

namespace Sys2Proof.Machine

/-- The workgroup that a core takes up. -/
def newWorkgroup (s : State) (c : Context) (l : Launch) (clu wgc core : Nat) (slots : List Nat) : Workgroup :=
  ⟨s.fresh + 1, c.no, l.no, clu, wgc, core, l.ls, [], [], [], [], slots, true, false, false, false, false, none⟩

/-- Its groups, one for each slot. -/
def newGroups (s : State) (c : Context) (l : Launch) (clu wgc core : Nat) (slots : List Nat) : List Group :=
  (slots.zip (List.range slots.length)).map fun x => Group.start (s.fresh + 2 + x.2) c.no l clu wgc x.2 core x.1

theorem newGroups_length (s : State) (c : Context) (l : Launch) (clu wgc core : Nat) (slots : List Nat) :
    (newGroups s c l clu wgc core slots).length = slots.length := by
  rw [newGroups, List.length_map, List.length_zip, List.length_range, Nat.min_self]

/-- A new group stands at the kernel's first word in slot A, and its lanes at their start. -/
theorem newGroups_start {s : State} {c : Context} {l : Launch} {clu wgc core : Nat} {slots : List Nat} {g : Group}
    (hg : g ∈ newGroups s c l clu wgc core slots) : g.ctx = c.no ∧ g.launch = l.no ∧ g.core = core ∧ g.resident = true ∧ g.slotNo ∈ slots ∧
      g.frnd = l.frnd ∧ g.ftrap = l.ftrap ∧ g.exited = 0 ∧ g.count = 0 ∧ g.a.path = some ⟨BitVec.ofNat 64 l.handle, g.lanesOn, none, []⟩ ∧
      g.b.path = none ∧ ∀ i, i < 32 → g.lane i = Lane.start := by
  obtain ⟨x, hx, rfl⟩ := List.mem_map.mp hg
  refine ⟨rfl, rfl, rfl, rfl, (List.of_mem_zip hx).1, rfl, rfl, rfl, rfl, rfl, rfl, fun i hi => ?_⟩
  show (List.replicate 32 Lane.start).getD i _ = _
  rw [List.getD_eq_getElem?_getD, List.getElem?_replicate, if_pos hi]
  rfl

/-- A core that takes new groups drops clean lines, and nothing else changes. -/
theorem freshCore_frame (s : State) (core : Nat) :
    s.freshCore core = { s with cores := (s.freshCore core).cores, clusters := (s.freshCore core).clusters, dies := (s.freshCore core).dies } := by
  unfold State.freshCore
  rw [invalidate_frame]
  rfl

section Place
variable {s : State} {ctx n : Nat} {c : Context} {l : Launch} {p : CorePlace} (hctx : s.ctx? ctx = some c) (hlaunch : c.launch? n = some l)
include hctx hlaunch

theorem clusterPlacement_none (hwaiting : l.waiting = false) : exec (.clusterPlacement ctx n [p]) s = .next s := by
  show execClusterPlacement ctx n [p] s = _
  simp only [execClusterPlacement, hctx, hlaunch, hwaiting, Bool.not_false, Bool.or_true, Bool.true_or, if_true]

variable {slots : List Nat} (hmoved : s.movedClusters ctx n = []) (hhome : clusterOf p.core ∈ c.homesFor l) (hopen : p.core ∈ c.openCores)
  (hcore : c.args.cores.getLsbD p.core = true) (hsubs : p.subs.length = l.groups) (hls : l.ls ≤ s.freeLs p.core)
  (hroom : s.recipeRoom p.core l.kernel = true) (hslots : takeSlots s p.core p.subs [] = some slots)
include hmoved hhome hopen hcore hsubs hls hroom hslots

omit hctx hlaunch hmoved hhome hopen in
theorem placeWorkgroup_eq (clu wgc : Nat) : s.placeWorkgroup c l l.kernel clu wgc p = some (({ s with
    workgroups := s.workgroups ++ [newWorkgroup s c l clu wgc p.core slots], groups := s.groups ++ newGroups s c l clu wgc p.core slots,
    fresh := s.fresh + 2 + slots.length } : State).freshCore p.core) := by
  have hfits : (!c.args.cores.getLsbD p.core || p.subs.length != l.groups || decide (s.freeLs p.core < l.ls) || !s.recipeRoom p.core l.kernel) = false := by
    rw [hcore, hsubs, hroom, decide_eq_false (Nat.not_lt.mpr hls), bne_self_eq_false]
    rfl
  simp only [State.placeWorkgroup, hfits, Bool.false_eq_true, if_false, hslots]
  rfl

theorem clusterPlacement_places (hrun : c.run = .running) (hwaiting : l.waiting = true) (hwgs : l.wgs = 1) (hpassed : s.passed ctx l = false)
    (hfirst : s.firstBack c l l.nextCluster 0 = false) : ∃ t x y, exec (.clusterPlacement ctx n [p]) s = .next t ∧
      t.workgroups = s.workgroups ++ [newWorkgroup s c l l.nextCluster 0 p.core slots] ∧ t.groups = s.groups ++ newGroups s c l l.nextCluster 0 p.core slots ∧
      t.mem = s.mem ∧ t.ctx? ctx = some x ∧ x.launch? n = some y ∧ y.placed = l.placed ++ [⟨l.nextCluster, clusterOf p.core, false, false⟩] := by
  have hplace := placeWorkgroup_eq hcore hsubs hls hroom hslots l.nextCluster 0
  have hrestore : s.couldRestore c l = false := by rw [State.couldRestore, ctx_no hctx, launch_no hlaunch, hmoved]
  have hall : s.placeAll c l l.kernel l.nextCluster ((List.range 1).zip [p]) = s.placeWorkgroup c l l.kernel l.nextCluster 0 p := by
    show State.placeAll s c l l.kernel l.nextCluster [(0, p)] = _
    rw [State.placeAll, hplace]
    rfl
  have hgoes : (c.run != .running || !l.waiting || 1 != l.wgs || s.passed ctx l || s.couldRestore c l || s.firstBack c l l.nextCluster 0 ||
      !([p].all fun p => c.openCores.contains p.core)) = false := by
    rw [hrun, hwaiting, hwgs, hpassed, hrestore, hfirst, List.all_cons, List.all_nil, List.contains_iff_mem.mpr hopen]
    rfl
  have hexec : exec (.clusterPlacement ctx n [p]) s = .next ((({ s with
      workgroups := s.workgroups ++ [newWorkgroup s c l l.nextCluster 0 p.core slots], groups := s.groups ++ newGroups s c l l.nextCluster 0 p.core slots,
      fresh := s.fresh + 2 + slots.length } : State).freshCore p.core).updLaunch ctx n fun l =>
        { l with placed := l.placed ++ [⟨l.nextCluster, clusterOf p.core, false, false⟩], began := if l.placed.isEmpty then s.time else l.began }) := by
    show execClusterPlacement ctx n [p] s = _
    simp only [execClusterPlacement, hctx, hlaunch, hgoes, Bool.false_eq_true, if_false, List.map_cons, List.map_nil, List.eraseDups_cons, List.eraseDups_nil,
      List.filter_nil, List.contains_iff_mem.mpr hhome, Bool.not_true, List.length_singleton, hall, hplace]
  have hframe := freshCore_frame { s with
      workgroups := s.workgroups ++ [newWorkgroup s c l l.nextCluster 0 p.core slots], groups := s.groups ++ newGroups s c l l.nextCluster 0 p.core slots,
      fresh := s.fresh + 2 + slots.length } p.core
  generalize State.freshCore _ p.core = u at hexec hframe
  have hfound := ctx_updCtx u ctx (fun c => c.updLaunch n fun l =>
        { l with placed := l.placed ++ [⟨l.nextCluster, clusterOf p.core, false, false⟩], began := if l.placed.isEmpty then s.time else l.began }) fun _ => rfl
  have hu : u.ctx? ctx = some c := by rw [hframe]; exact hctx
  rw [hu] at hfound
  exact ⟨_, _, _, hexec, (congrArg State.workgroups hframe :), (congrArg State.groups hframe :), (congrArg State.mem hframe :), hfound,
    launch_updLaunch (fun _ => rfl) hlaunch, rfl⟩

end Place

end Sys2Proof.Machine
end

section
/-! SUPPORT. Proofs about workgroups that leave their core and return (06, R99, R104–R106; 17, R320, R323). -/

namespace Sys2Proof.Machine

/-! ### A group leaves its core (R104) -/

/-- A group changed by its number is found changed, and the others as they were. -/
theorem group_of_mapWhere {s t : State} {gid : Nat} {f : Group → Group} (ht : t.groups = mapWhere (fun x => x.gid == gid) f s.groups)
    (hf : ∀ x, x.gid = gid → (f x).gid = gid) (k : Nat) : t.group? k = if k = gid then (s.group? k).map f else s.group? k := by
  rw [State.group?, ht, find_mapWhere _ _ _ fun x hx => by rw [hf x (beq_iff_eq.mp hx), beq_iff_eq.mp hx]]
  show (s.group? k).map _ = _
  cases h : s.group? k with
  | none => simp
  | some g =>
    rw [Option.map_some, group_gid h]
    by_cases hk : k = gid
    · simp [hk]
    · simp [hk]

theorem mapWhere_mapWhere {α : Type} (p : α → Bool) (f g : α → α) (hf : ∀ x, p x = true → p (f x) = true) (xs : List α) :
    mapWhere p g (mapWhere p f xs) = mapWhere p (g ∘ f) xs := by
  rw [mapWhere, mapWhere, mapWhere, List.map_map]
  refine List.map_congr_left fun x _ => ?_
  by_cases hx : p x = true
  · simp [hx, hf x hx]
  · simp [hx]

theorem mapWhere_id {α : Type} (p : α → Bool) (xs : List α) : mapWhere p (fun x => x) xs = xs := by simp [mapWhere]

section Leave
variable (s : State) (g : Group)

theorem saveBytes_frame (ctx owner : Nat) (bs : List (BitVec 8)) :
    ∃ m p cs f, (s.saveBytes ctx owner bs).1 = { s with mem := m, poison := p, contexts := cs, fresh := f } := by
  unfold State.saveBytes
  split
  · exact ⟨_, _, _, _, rfl⟩
  · split <;> exact ⟨_, _, _, _, rfl⟩

theorem saveGroup_groups : ∃ f : Group → Group, (s.saveGroup g).groups = mapWhere (fun x => x.gid == g.gid) f s.groups ∧
    ∀ x, x.gid = g.gid → (f x).gid = g.gid := by
  unfold State.saveGroup
  split
  · exact ⟨fun x => x, (mapWhere_id _ _).symm, fun _ hx => hx⟩
  next k _ =>
    obtain ⟨m, p, cs, f, hsaved⟩ := saveBytes_frame s g.stopped.ctx g.stopped.gid (saveImage k g.stopped)
    refine ⟨fun _ => { g.stopped with saveAt := (s.saveBytes g.stopped.ctx g.stopped.gid (saveImage k g.stopped)).2 }, ?_, fun _ _ => rfl⟩
    show mapWhere _ _ (State.groups (State.saveBytes ..).1) = _
    rw [hsaved]
    rfl

theorem saveGroup_workgroups : (s.saveGroup g).workgroups = s.workgroups := by
  unfold State.saveGroup
  split
  · rfl
  next k _ =>
    obtain ⟨m, p, cs, f, hsaved⟩ := saveBytes_frame s g.stopped.ctx g.stopped.gid (saveImage k g.stopped)
    show State.workgroups (State.saveBytes ..).1 = _
    rw [hsaved]

theorem track_frame (t : State) (ctx launch : Nat) : ∃ rs f, s.track t ctx launch = { t with requests := rs, fresh := f } := by
  unfold State.track
  generalize s.unheard t = as
  induction as generalizing t with
  | nil => exact ⟨_, _, rfl⟩
  | cons a as ih =>
    obtain ⟨rs, f, h⟩ := ih ({ t with requests := t.requests ++ [⟨t.fresh, ctx, launch, 0, false, 0, 0, Hints.empty, .remoteWrite a, some t.time, none, 0xFFFF⟩] } : State).tick
    exact ⟨rs, f, h⟩

/-- What leaves before a group's image is written changes no group and no workgroup. -/
theorem pushed_frame : (s.track ((s.pushCores g.ctx [g.core]).pushTiles g) g.ctx g.launch).groups = s.groups ∧
    (s.track ((s.pushCores g.ctx [g.core]).pushTiles g) g.ctx g.launch).workgroups = s.workgroups := by
  obtain ⟨rs, f, htrack⟩ := track_frame s ((s.pushCores g.ctx [g.core]).pushTiles g) g.ctx g.launch
  have hpush := (pushTiles_sans (s.pushCores g.ctx [g.core]) g).trans (pushCores_sans s g.ctx [g.core])
  rw [htrack]
  exact ⟨(congrArg State.groups hpush :), (congrArg State.workgroups hpush :)⟩

theorem leave_workgroups : (s.leave g).workgroups = s.workgroups := by
  obtain ⟨-, hwgs⟩ := pushed_frame s g
  unfold State.leave
  dsimp only
  split
  · exact hwgs
  · exact (saveGroup_workgroups ..).trans hwgs

/-- A group that is on no core. -/
def Group.away (x : Group) : Group := { x with resident := false }

theorem leave_groups : ∃ f : Group → Group, (s.leave g).groups = mapWhere (fun x => x.gid == g.gid) f s.groups ∧
    ∀ x, x.gid = g.gid → (f x).gid = g.gid ∧ (f x).resident = false := by
  obtain ⟨hgroups, -⟩ := pushed_frame s g
  unfold State.leave
  dsimp only
  split
  · exact ⟨Group.away, congrArg (mapWhere _ _) hgroups, fun _ hx => ⟨hx, rfl⟩⟩
  · obtain ⟨f, hf, hgid⟩ := saveGroup_groups (s.track ((s.pushCores g.ctx [g.core]).pushTiles g) g.ctx g.launch) g
    have hboth := mapWhere_mapWhere (fun x : Group => x.gid == g.gid) f Group.away (fun x hx => beq_iff_eq.mpr (hgid x (beq_iff_eq.mp hx))) s.groups
    refine ⟨Group.away ∘ f, ?_, fun x hx => ⟨(hgid x hx :), rfl⟩⟩
    rw [← hboth, ← hgroups, ← hf]
    rfl

variable {s g}

theorem leave_other {k : Nat} (hk : k ≠ g.gid) : (s.leave g).group? k = s.group? k := by
  obtain ⟨f, hf, hgid⟩ := leave_groups s g
  rw [group_of_mapWhere hf (fun x hx => (hgid x hx).1), if_neg hk]

theorem leave_same {x : Group} (hx : s.group? g.gid = some x) : ∃ y, (s.leave g).group? g.gid = some y ∧ y.resident = false := by
  obtain ⟨f, hf, hgid⟩ := leave_groups s g
  rw [group_of_mapWhere hf (fun x hx => (hgid x hx).1), if_pos rfl, hx]
  exact ⟨_, rfl, (hgid x (group_gid hx)).2⟩

/-- Groups that leave one after another are all away. -/
theorem foldl_leave_away {gs : List Group} {k : Nat} {x : Group} (hx : s.group? k = some x) (haway : (∃ g ∈ gs, g.gid = k) ∨ x.resident = false) :
    ∃ y, (gs.foldl State.leave s).group? k = some y ∧ y.resident = false := by
  induction gs generalizing s x with
  | nil => exact ⟨x, hx, haway.resolve_left fun ⟨g, hg, _⟩ => nomatch hg⟩
  | cons g gs ih =>
    by_cases hk : k = g.gid
    · subst hk
      obtain ⟨y, hy, hres⟩ := leave_same hx
      exact ih hy (.inr hres)
    · refine ih ((leave_other hk).trans hx) (haway.imp_left fun ⟨h, hh, hgid⟩ => ?_)
      exact ⟨h, (List.mem_cons.mp hh).resolve_left fun heq => hk (heq ▸ hgid.symm), hgid⟩

end Leave

/-! ### Saves of waiting workgroups (R99) -/

theorem kernelOf_eq {s : State} {ctx n : Nat} {c : Context} {l : Launch} (hctx : s.ctx? ctx = some c) (hlaunch : c.launch? n = some l) :
    s.kernelOf ctx n = some l.kernel := by
  rw [State.kernelOf, hctx, Option.bind_some, hlaunch, Option.map_some]

section Save
variable {s : State} {id : Nat} {w : Workgroup} {c : Context} {l : Launch} (hwg : s.wg? id = some w) (hctx : s.ctx? w.ctx = some c)
  (hlaunch : c.launch? w.launch = some l)
include hwg hctx hlaunch

theorem waitingSave_none (hmay : s.maySave c l.kernel w = false) : exec (.waitingWorkgroupSave id) s = .next s := by
  show execWaitingWorkgroupSave id s = _
  simp only [execWaitingWorkgroupSave, hwg, hctx, kernelOf_eq hctx hlaunch, hmay, Bool.false_eq_true, if_false]

theorem waitingSave_saves (hmay : s.maySave c l.kernel w = true) : ∃ t x, exec (.waitingWorkgroupSave id) s = .next t ∧ t.wg? id = some x ∧
    x.resident = false ∧ x.ls = w.ls ∧ ∀ g ∈ s.groupsIn w, ∃ y, t.group? g.gid = some y ∧ y.resident = false := by
  have hexec : exec (.waitingWorkgroupSave id) s = .next (((s.groupsIn w).foldl State.leave s).leaveWorkgroup w) := by
    show execWaitingWorkgroupSave id s = _
    simp only [execWaitingWorkgroupSave, hwg, hctx, kernelOf_eq hctx hlaunch, hmay, if_true]
  have hwgs : ((s.groupsIn w).foldl State.leave s).workgroups = s.workgroups := foldl_same State.workgroups _ leave_workgroups _ s
  have haway {g : Group} (hg : g ∈ s.groupsIn w) : ∃ y, ((s.groupsIn w).foldl State.leave s).group? g.gid = some y ∧ y.resident = false := by
    obtain ⟨x, hx⟩ := Option.isSome_iff_exists.mp (List.find?_isSome.mpr ⟨g, (List.mem_filter.mp hg).1, beq_iff_eq.mpr rfl⟩ : (s.group? g.gid).isSome = true)
    exact foldl_leave_away hx (.inl ⟨g, hg, rfl⟩)
  generalize (s.groupsIn w).foldl State.leave s = u at hexec hwgs haway
  obtain ⟨m, p, cs, f, hsaved⟩ := saveBytes_frame u w.ctx (lsOwner w.wid) (w.ls.read 0 w.lsSize)
  have hwid : w.wid = id := by simpa using List.find?_some hwg
  subst hwid
  have hfound : (u.saveBytes w.ctx (lsOwner w.wid) (w.ls.read 0 w.lsSize)).1.wg? w.wid = some w := by
    rw [hsaved, ← hwg]
    exact congrArg (List.find? _) hwgs
  refine ⟨_, { w with resident := false, saveAt := (u.saveBytes w.ctx (lsOwner w.wid) (w.ls.read 0 w.lsSize)).2 }, hexec, ?_, rfl, rfl, fun g hg => ?_⟩
  · exact wg_updWg (fun _ => rfl) hfound
  · obtain ⟨y, hy, hres⟩ := haway hg
    refine ⟨y, ?_, hres⟩
    show (State.groups (State.saveBytes ..).1).find? _ = _
    rw [hsaved]
    exact hy

end Save

end Sys2Proof.Machine
end

section
/-! SUPPORT. Proofs about workgroups that return to a core, and about a group that a vacate stops (06, R99, R104, R105; 17, R320). -/

namespace Sys2Proof.Machine

/-! ### What a return leaves (R99, R105) -/

/-- No request is a load that would be performed again. -/
def State.quiet (s : State) : Prop := ∀ r ∈ s.requests, (∀ ws ps src acq, r.job ≠ .load ws ps src acq) ∧ ∀ ws ls, r.job ≠ .reload ws ls

/-- The workgroups, and the launches of every context. -/
def State.homes (s : State) : List Workgroup × List (Nat × List Launch) := (s.workgroups, s.contexts.map fun c => (c.no, c.launches))

theorem homes_updCtx (s : State) {n : Nat} {f : Context → Context} (hno : ∀ c, (f c).no = c.no) (hlaunches : ∀ c, (f c).launches = c.launches) :
    (s.updCtx n f).homes = s.homes :=
  congrArg (Prod.mk s.workgroups) (map_mapWhere (fun c : Context => (c.no, c.launches)) _ f (fun c => by rw [hno, hlaunches]) s.contexts)

theorem homes_freeSave (s : State) (ctx owner : Nat) : (s.freeSave ctx owner).homes = s.homes :=
  homes_updCtx s (f := fun c => { c with saves := c.saves.filter (fun x => x.1 != owner) }) (fun _ => rfl) fun _ => rfl

theorem homes_raiseLine (s : State) (ctx : Nat) (i : StopInfo) : (s.raiseLine ctx i).homes = s.homes := by
  unfold State.raiseLine
  refine homes_updCtx s (fun c => ?_) fun c => ?_
  all_goals
    split
    · rfl
    · split <;> rfl
    · rfl

theorem ctx_of_homes {s t : State} (h : t.homes.2 = s.homes.2) {ctx : Nat} {c : Context} (hc : s.ctx? ctx = some c) :
    ∃ d, t.ctx? ctx = some d ∧ d.launches = c.launches := by
  have hfound := ctx_of_map_eq (fun c : Context => (c.no, c.launches)) Prod.fst (fun _ => rfl) h ctx
  rw [hc, Option.map_some, Option.map_eq_some_iff] at hfound
  obtain ⟨d, hd, hsame⟩ := hfound
  exact ⟨d, hd, (congrArg Prod.snd hsame :)⟩

/-- Without loads in flight the machine goes on from a return with its workgroups and launches as they were put. -/
def State.returned (s t : State) : Prop := t.homes = s.homes ∧ t.quiet

section Return
variable {s t : State} (h : s.returned t)
include h

theorem returned_reloadGroup (gid : Nat) : s.returned (t.reloadGroup gid) := by
  unfold State.reloadGroup
  split
  · exact h
  · split
    · exact ⟨(homes_freeSave ..).trans h.1, h.2⟩
    · exact h

theorem returned_restoreGroup (g : Group) (core slot : Nat) : s.returned (t.restoreGroup g core slot) := returned_reloadGroup h g.gid

theorem returned_restoreHandler (g : Group) (core slot : Nat) : s.returned (t.restoreHandler g core slot) := returned_reloadGroup h g.gid

theorem returned_freshen (core : Nat) : s.returned (t.freshen core) := by
  unfold State.freshen
  dsimp only
  rw [invalidate_frame]
  exact h

theorem returned_movePool (gid core : Nat) : s.returned (t.movePool gid core) := by
  unfold State.movePool
  dsimp only
  split <;> exact h

omit h in
/-- Nothing but a load is performed again. -/
theorem reperform_quiet {r : Request} (hr : (∀ ws ps src acq, r.job ≠ .load ws ps src acq) ∧ ∀ ws ls, r.job ≠ .reload ws ls) : t.reperform r = t := by
  unfold State.reperform
  dsimp only
  split
  next hjob _ => exact absurd hjob (hr.2 _ _)
  next hjob _ => exact absurd hjob (hr.1 _ _ _ _)
  · rfl

theorem returned_completeLane {o : Origin} {v : List (BitVec 8)} {u : State} (hu : t.completeLane o v = .ok u) : s.returned u := by
  unfold State.completeLane at hu
  split at hu
  · exact Except.ok.inj hu ▸ h
  · split at hu
    · split at hu
      · exact nomatch hu
      · dsimp only at hu
        split at hu
        · exact Except.ok.inj hu ▸ h
        · obtain rfl := Except.ok.inj hu
          refine ⟨h.1, fun r hr => ?_⟩
          obtain hr | hr := List.mem_append.mp hr
          · exact h.2 r hr
          · obtain rfl := List.mem_singleton.mp hr
            exact ⟨nofun, nofun⟩
    · exact Except.ok.inj hu ▸ h

theorem returned_completeUnhandled (gid : Nat) : s.returned (t.completeUnhandled gid) := by
  unfold State.completeUnhandled
  split
  · exact h
  · split
    · exact h
    · dsimp only
      split
      · exact h
      · refine foldl_keeps (P := s.returned) _ (fun u x hu => ?_) _ _ h
        split
        next hv =>
          obtain ⟨hhomes, hquiet⟩ := returned_completeLane hu hv
          exact ⟨hhomes, hquiet⟩
        · exact ⟨(homes_raiseLine ..).trans hu.1, hu.2⟩

theorem returned_takeUp (gid core : Nat) : s.returned (t.takeUp gid core) := by
  have hmoved := returned_movePool h gid core
  refine returned_completeUnhandled ?_ gid
  have hnone (rs : List Request) (hrs : ∀ r ∈ rs, r ∈ (t.movePool gid core).requests) : rs.foldl State.reperform (t.movePool gid core) = t.movePool gid core := by
    induction rs with
    | nil => rfl
    | cons r rs ih =>
      rw [List.foldl_cons, reperform_quiet (hmoved.2 r (hrs r List.mem_cons_self))]
      exact ih fun q hq => hrs q (List.mem_cons_of_mem _ hq)
  rw [hnone _ fun r hr => (List.mem_filter.mp hr).1]
  exact hmoved

end Return

/-- A workgroup that returns stands on the core; its launch is as it was. -/
theorem returnWorkgroup_homes {s t : State} {l : Launch} {k : Kernel} {w : Workgroup} {p : CorePlace} (hquiet : s.quiet)
    (ht : s.returnWorkgroup l k w p = some t) : ∃ slots, t.homes =
      (s.updWg w.wid fun w => { w with core := p.core, slots := slots, resident := true, moved := false, saveAt := none }).homes := by
  unfold State.returnWorkgroup at ht
  dsimp only at ht
  split at ht
  · exact nomatch ht
  · split at ht
    · exact nomatch ht
    next slots _ =>
      obtain rfl := Option.some.inj ht
      refine ⟨slots, And.left (?_ : State.returned _ _)⟩
      refine foldl_keeps (P := State.returned _) _ (fun u x hu => returned_takeUp hu ..) _ _ ?_
      refine foldl_keeps (P := State.returned _) _ (fun u x hu => returned_restoreHandler hu ..) _ _ ?_
      refine foldl_keeps (P := State.returned _) _ (fun u x hu => returned_restoreGroup hu ..) _ _ (returned_freshen ?_ _)
      exact ⟨homes_freeSave .., hquiet⟩

/-! ### Restores (R99, R105) -/

section Restore
variable {s : State} {id : Nat} {w : Workgroup} {c : Context} {l : Launch} {p : CorePlace}

theorem satisfied_iff (s : State) (w : Workgroup) :
    s.satisfied w = true ↔ w.resident = false ∧ w.moved = false ∧ w.ended = false ∧ (s.groupsIn w).all s.waitsVisible = false := by
  simp only [State.satisfied, Bool.and_eq_true, Bool.not_eq_true', and_assoc]

variable (hwg : s.wg? id = some w) (hctx : s.ctx? w.ctx = some c) (hlaunch : c.launch? w.launch = some l)
include hwg hctx hlaunch

theorem waitingRestore_none (h : s.satisfied w = false ∨ s.passed c.no l = true ∨ s.firstBack c l w.clu w.wgc = true ∨ s.movedBefore c l w.clu = true) :
    exec (.waitingWorkgroupRestore id p) s = .next s := by
  have hstop : (c.run != .running || !s.satisfied w || !(s.returnHomes c l w).contains (clusterOf p.core) || !c.openCores.contains p.core ||
      s.passed c.no l || s.firstBack c l w.clu w.wgc || s.movedBefore c l w.clu) = true := by
    obtain h | h | h | h := h
    all_goals simp [h]
  show execWaitingWorkgroupRestore id p s = _
  simp only [execWaitingWorkgroupRestore, hwg, hctx, kernelOf_eq hctx hlaunch, hlaunch, hstop, if_true]

omit hctx hlaunch in
/-- The workgroup that a return has put on its core. -/
theorem wg_returned {t : State} {k : Kernel} (hquiet : s.quiet) (ht : s.returnWorkgroup l k w p = some t) :
    ∃ x, t.wg? id = some x ∧ x.resident = true ∧ x.moved = false ∧ x.core = p.core ∧ x.ls = w.ls := by
  obtain ⟨slots, hhomes⟩ := returnWorkgroup_homes hquiet ht
  have hwid : w.wid = id := by simpa using List.find?_some hwg
  have hwgs : t.workgroups = (s.updWg w.wid fun w => { w with core := p.core, slots := slots, resident := true, moved := false, saveAt := none }).workgroups :=
    congrArg Prod.fst hhomes
  refine ⟨{ w with core := p.core, slots := slots, resident := true, moved := false, saveAt := none }, ?_, rfl, rfl, rfl, rfl⟩
  rw [hwid] at hwgs
  rw [State.wg?, hwgs]
  exact wg_updWg (fun _ => rfl) hwg

theorem waitingRestore_returns {t : State} (hfirst : s.firstBack c l w.clu w.wgc = false) (hbefore : s.movedBefore c l w.clu = false) (hrun : c.run = .running)
    (hsatisfied : s.satisfied w = true) (hhome : clusterOf p.core ∈ s.returnHomes c l w) (hopen : p.core ∈ c.openCores) (hpassed : s.passed c.no l = false)
    (ht : s.returnWorkgroup l l.kernel w p = some t) :
    exec (.waitingWorkgroupRestore id p) s = .next (t.updLaunch c.no l.no (fun l => l.homeAt w.clu (clusterOf p.core))) := by
  have hgoes : (c.run != .running || !s.satisfied w || !(s.returnHomes c l w).contains (clusterOf p.core) || !c.openCores.contains p.core ||
      s.passed c.no l || s.firstBack c l w.clu w.wgc || s.movedBefore c l w.clu) = false := by
    rw [hrun, hsatisfied, List.contains_iff_mem.mpr hhome, List.contains_iff_mem.mpr hopen, hpassed, hfirst, hbefore]
    rfl
  show execWaitingWorkgroupRestore id p s = _
  simp only [execWaitingWorkgroupRestore, hwg, hctx, kernelOf_eq hctx hlaunch, hlaunch, hgoes, Bool.false_eq_true, if_false, ht]

omit hwg in
theorem clusterRestore_returns {t : State} (hquiet : s.quiet) (hfirst : s.firstBack c l w.clu 0 = false) (hrun : c.run = .running) (hresident : w.resident = false)
    (hwgs : s.clusterWgs w.ctx w.launch w.clu = [w]) (hended : w.ended = false) (hmoved : (s.movedClusters w.ctx w.launch).head? = some w.clu)
    (hopen : p.core ∈ c.openCores) (hpassed : s.passed w.ctx l = false) (ht : s.returnWorkgroup l l.kernel w p = some t) :
    exec (.clusterRestore w.ctx w.launch w.clu [p]) s = .next (t.updLaunch w.ctx w.launch (fun l => l.homeAt w.clu (clusterOf p.core))) ∧
      ∃ y z, (t.updLaunch w.ctx w.launch (fun l => l.homeAt w.clu (clusterOf p.core))).ctx? w.ctx = some y ∧ y.launch? w.launch = some z ∧
        z.placed = mapWhere (fun q => q.clu == w.clu) (fun q => { q with cc := clusterOf p.core }) l.placed := by
  have hws : ((s.clusterWgs w.ctx w.launch w.clu).filter (fun w => !w.ended)).foldl (fun l w => insertBy (fun w => w.wgc) w l) [] = [w] := by
    rw [hwgs, List.filter_cons, hended]
    rfl
  have hgoes : (c.run != .running || (s.movedClusters w.ctx w.launch).head? != some w.clu || ([w].any fun w => w.resident) || [p].length != [w].length ||
      !([p].all fun p => c.openCores.contains p.core) || s.passed w.ctx l || s.firstBack c l w.clu 0) = false := by
    rw [hrun, hmoved, List.any_cons, hresident, List.all_cons, List.contains_iff_mem.mpr hopen, hpassed, hfirst, bne_self_eq_false, bne_self_eq_false]
    rfl
  have hall : s.returnAll l l.kernel ([w].zip [p]) = some t := by
    show s.returnAll l l.kernel [(w, p)] = _
    rw [State.returnAll, ht]
    rfl
  have hexec : exec (.clusterRestore w.ctx w.launch w.clu [p]) s = .next (t.updLaunch w.ctx w.launch (fun l => l.homeAt w.clu (clusterOf p.core))) := by
    show execClusterRestore w.ctx w.launch w.clu [p] s = _
    simp only [execClusterRestore, hctx, hlaunch, hws, hgoes, Bool.false_eq_true, if_false, hall, List.map_cons, List.map_nil, List.eraseDups_cons,
      List.eraseDups_nil, List.filter_nil]
  obtain ⟨slots, hhomes⟩ := returnWorkgroup_homes hquiet ht
  obtain ⟨d, hd, hlaunches⟩ := ctx_of_homes (s := s) (congrArg Prod.snd hhomes :) hctx
  have hfound := ctx_updCtx t w.ctx (fun c => c.updLaunch w.launch fun l => l.homeAt w.clu (clusterOf p.core)) fun _ => rfl
  rw [hd] at hfound
  have hlaunch' : d.launch? w.launch = some l := by rw [Context.launch?, hlaunches]; exact hlaunch
  exact ⟨hexec, _, _, hfound, launch_updLaunch (fun _ => rfl) hlaunch', rfl⟩

end Restore

/-! ### A group that a vacate stops (R104; 18, R337) -/

section Vacate
variable {s : State} {g : Group} {c : Context} {w : Workgroup} {gid : Nat} (hgroup : s.group? gid = some g) (hctx : s.ctx? g.ctx = some c) (hwg : s.wgOf g = some w)
include hgroup hctx hwg

theorem vacateStop_handler (hhandler : g.isHandler = true) : exec (.groupVacateStop gid) s =
    .next (if c.run == .halted && g.resident && c.vacated.contains g.core then s.updGroup gid (fun x => { x with resident := false }) else s) := by
  show execGroupVacateStop gid s = _
  simp only [execGroupVacateStop, hgroup, hctx, hwg, hhandler, if_true]

variable (hhandler : g.isHandler = false)
include hhandler

theorem vacateStop_none (h : c.run = .raised ∨ w.moved = false ∨ g.resident = false ∨
    (c.run = .running ∧ (s.jointOpen w.ctx w.launch w.clu = true ∨ s.savable g false = false))) : exec (.groupVacateStop gid) s = .next s := by
  have hstop : (c.run == .raised || !w.moved || !g.resident || (!(c.run == .halted) && (s.jointOpen w.ctx w.launch w.clu || !s.savable g false))) = true := by
    obtain h | h | h | ⟨hrun, h | h⟩ := h
    · simp [h]
    · simp [h]
    · simp [h]
    · simp [h, hrun]
    · simp [h, hrun]
  show execGroupVacateStop gid s = _
  simp only [execGroupVacateStop, hgroup, hctx, hwg, hhandler, Bool.false_eq_true, if_false, hstop, if_true]

/-- While another group of the workgroup is on its core, the workgroup stays. -/
theorem vacateStop_leaves (hrun : c.run ≠ .raised) (hmoved : w.moved = true) (hresident : g.resident = true)
    (hunit : c.run = .running → s.jointOpen w.ctx w.launch w.clu = false ∧ s.savable g false = true) (hon : w.resident = true) (hended : w.ended = false)
    (hrest : ∃ x ∈ s.groupsIn w, x.gid ≠ gid ∧ x.resident = true) :
    ∃ t y, exec (.groupVacateStop gid) s = .next t ∧ t.group? gid = some y ∧ y.resident = false ∧ t.workgroups = s.workgroups := by
  have hgoes : (c.run == .raised || !w.moved || !g.resident || (!(c.run == .halted) && (s.jointOpen w.ctx w.launch w.clu || !s.savable g false))) = false := by
    rw [beq_false_of_ne hrun, hmoved, hresident]
    cases hr : c.run with
    | raised => exact absurd hr hrun
    | halted => rfl
    | running => rw [(hunit hr).1, (hunit hr).2]; rfl
  have hexec : exec (.groupVacateStop gid) s = .next ((s.leave g).leaveCluster g.ctx g.launch g.clu) := by
    show execGroupVacateStop gid s = _
    simp only [execGroupVacateStop, hgroup, hctx, hwg, hhandler, Bool.false_eq_true, if_false, hgoes]
  have hgid := group_gid hgroup
  subst hgid
  have hwgs := leave_workgroups s g
  obtain ⟨f, hf, -⟩ := leave_groups s g
  obtain ⟨y, hy, hres⟩ := leave_same hgroup
  have hstays : (s.leave g).leaveCluster g.ctx g.launch g.clu = s.leave g := by
    obtain ⟨x, hx, hne, hxres⟩ := hrest
    obtain ⟨hmem, hin⟩ := List.mem_filter.mp hx
    have hplace := List.find?_some hwg
    have hw : w ∈ ((s.leave g).clusterWgs g.ctx g.launch g.clu).filter (fun w => w.moved && w.resident && !w.ended) := by
      refine List.mem_filter.mpr ⟨List.mem_filter.mpr ⟨hwgs ▸ List.mem_of_find?_eq_some hwg, ?_⟩, by rw [hmoved, hon, hended]; rfl⟩
      simp only [Bool.and_eq_true] at hplace ⊢
      exact hplace.1
    have hx' : x ∈ (s.leave g).groupsIn w := by
      refine List.mem_filter.mpr ⟨?_, hin⟩
      rw [hf]
      exact List.mem_map.mpr ⟨x, hmem, if_neg (by simpa using hne)⟩
    exact if_pos (List.any_eq_true.mpr ⟨w, hw, List.any_eq_true.mpr ⟨x, hx', hxres⟩⟩)
  rw [hstays] at hexec
  exact ⟨_, y, hexec, hy, hres, hwgs⟩

end Vacate

end Sys2Proof.Machine
end

section
/-! SUPPORT. Proofs about the ends of a vacate and of a stop (06, R105; 17, R318, R321; 18, R337). -/

namespace Sys2Proof.Machine

/-! ### Vacates (R105) -/

theorem getLsbD_withoutCores (m : BitVec 128) (out : List Nat) {i : Nat} (hi : i < 128) :
    (withoutCores m out).getLsbD i = true ↔ m.getLsbD i = true ∧ i ∉ out := by
  induction out generalizing m with
  | nil => simp [withoutCores]
  | cons k out ih =>
    have hbit : (m &&& ~~~ (1#128 <<< k)).getLsbD i = true ↔ m.getLsbD i = true ∧ i ≠ k := by
      simp only [BitVec.getLsbD_and, BitVec.getLsbD_not, BitVec.getLsbD_shiftLeft, BitVec.getLsbD_one]
      grind
    have hstep : withoutCores m (k :: out) = withoutCores (m &&& ~~~ (1#128 <<< k)) out := rfl
    rw [hstep, ih, hbit, List.mem_cons, not_or, and_assoc]

/-- No command waits behind one that is answered. -/
theorem goOn_of_none_waiting {s : State} {ctx : Nat} {c : Context} (hctx : s.ctx? ctx = some c) (hwaiting : c.waiting = []) : s.goOn ctx = s := by
  rw [State.goOn, hctx]
  show State.drain c.waiting.length s ctx = s
  rw [hwaiting]
  rfl

section Vacate
variable {s : State} {ctx n : Nat} {c : Context} {h : CmdHead} (hctx : s.ctx? ctx = some c) (hvacating : c.vacating = some (h, n))
include hctx hvacating

theorem vacateReply_none (hdone : s.vacateDone c = false) : exec (.vacateReply ctx) s = .next s := by
  show execVacateReply ctx s = _
  simp only [execVacateReply, hctx, hvacating, hdone, Bool.false_eq_true, if_false]

theorem vacateReply_answers (hdone : s.vacateDone c = true) (hwaiting : c.waiting = []) : ∃ t x, exec (.vacateReply ctx) s = .next t ∧ t.ctx? ctx = some x ∧
    x.vacating = none ∧ (∀ i, i < 128 → (x.args.cores.getLsbD i = true ↔ c.args.cores.getLsbD i = true ∧ i ∉ c.vacated)) ∧
    t.outbox = (s.track (s.pushCores c.no c.vacated) c.no 0).outbox ++ [.reply h.node (replyBytes h 0 [])] ∧
    t.mem = (s.track (s.pushCores c.no c.vacated) c.no 0).mem := by
  have hno := ctx_no hctx
  subst hno
  have hexec : exec (.vacateReply c.no) s = .next ((s.endVacate c h).goOn c.no) := by
    show execVacateReply c.no s = _
    simp only [execVacateReply, hctx, hvacating, hdone, if_true]
  obtain ⟨rs, f, htrack⟩ := track_frame s (s.pushCores c.no c.vacated) c.no 0
  have hpush : (s.pushCores c.no c.vacated).contexts.map Context.sansBindings = s.contexts.map Context.sansBindings :=
    (congrArg State.contexts (pushCores_sans s c.no c.vacated) :)
  have hcontexts : (s.track (s.pushCores c.no c.vacated) c.no 0).contexts.map Context.sansBindings = s.contexts.map Context.sansBindings := by
    rw [htrack]; exact hpush
  have hfound := ctx_of_map_eq Context.sansBindings Context.no (fun _ => rfl) hcontexts c.no
  rw [hctx, Option.map_some, Option.map_eq_some_iff] at hfound
  obtain ⟨d, hd, hsame⟩ := hfound
  have hcores : d.args.cores = c.args.cores := (congrArg (fun c : Context => c.args.cores) hsame :)
  have hend : (s.endVacate c h).ctx? c.no = some { d with vacating := none, args := { d.args with cores := withoutCores d.args.cores c.vacated } } := by
    have hupd := ctx_updCtx (s.track (s.pushCores c.no c.vacated) c.no 0) c.no
      (fun d => { d with vacating := none, args := { d.args with cores := withoutCores d.args.cores c.vacated } }) fun _ => rfl
    rw [hd] at hupd
    exact hupd
  rw [goOn_of_none_waiting hend (show d.waiting = [] from (congrArg Context.waiting hsame :).trans hwaiting)] at hexec
  refine ⟨_, _, hexec, hend, rfl, fun i hi => ?_, rfl, rfl⟩
  rw [← hcores]
  exact getLsbD_withoutCores _ _ hi

end Vacate

/-! ### Units that stop (17, R318, R321) -/

section Stop
variable {s : State} {ctx : Nat} {c : Context} {u : StopUnit} {i : StopInfo} (hctx : s.ctx? ctx = some c)
include hctx

theorem unitStop_running (hrun : c.run = .running) : exec (.unitStop ctx u) s = .next s := by
  have hnone : s.stopUnit ctx u = none := by simp only [State.stopUnit, hctx, hrun]
  show execUnitStop ctx u s = _
  rw [execUnitStop, hnone]

variable (hrun : c.run = .raised) (hstop : c.stop = some i)
include hrun hstop

theorem unitStop_absent (hpending : u ∉ i.pending) : exec (.unitStop ctx u) s = .next s := by
  have hnone : s.stopUnit ctx u = none := by
    have hout : i.pending.contains u = false := by simpa using hpending
    simp only [State.stopUnit, hctx, hrun, hstop, hout, Bool.not_false, if_true]
  show execUnitStop ctx u s = _
  rw [execUnitStop, hnone]

/-- What the stop says once its last unit has stopped. -/
def StopInfo.over (i : StopInfo) (time : Nat) : StopInfo := { i with pending := [], lastStop := time }

variable (hpending : i.pending = [u]) (hengine : ∀ n, u ≠ .core n)
include hpending hengine

theorem stopUnit_last : s.stopUnit ctx u = some ((s.updCtx ctx fun c => { c with stop := some (i.over s.time) }).haltContext { c with stop := some (i.over s.time) }
    (i.over s.time)) := by
  have hin : i.pending.contains u = true := by rw [hpending]; simp
  have hrest : i.pending.filter (fun x => x != u) = [] := by rw [hpending]; simp
  have hfound := ctx_updCtx s ctx (fun c => { c with stop := some (i.over s.time) }) fun _ => rfl
  rw [hctx, Option.map_some] at hfound
  cases u with
  | core n => exact absurd rfl (hengine n)
  | _ =>
    simp only [State.stopUnit, hctx, hrun, hstop, hin, hrest, Bool.not_true, Bool.false_eq_true, if_false, List.foldl_nil]
    rw [StopInfo.over] at hfound ⊢
    rw [hfound]
    rfl

/-- A context that a stop has halted, with the records that its stop area holds and their number. -/
def Context.haltedWith (c : Context) (i : StopInfo) (records : List (List (BitVec 8))) (n : Nat) : Context :=
  { c with run := .halted, stop := some i, records := records, nrec := n }

/-- The records of a stop, the summary first. -/
def State.stopRecords (v : State) (d : Context) (j : StopInfo) : List (List (BitVec 8)) :=
  summaryRecord j ((v.stopSet d).length + 1) v.time (decide (d.args.stopArea.size / 64 < (v.stopSet d).length + 1)) :: v.stopSet d

omit hctx hrun hstop hpending hengine in
/-- A halted context has its summary record first, where the stop area holds one. -/
theorem ctx_haltContext {v : State} {d : Context} (hd : v.ctx? d.no = some d) (hroom : 64 ≤ d.args.stopArea.size) (j : StopInfo) :
    ∃ x, (v.haltContext d j).ctx? d.no = some x ∧ x.run = .halted ∧ x.halting = d.halting ∧ x.waiting = d.waiting ∧
      x.records.head? = some (summaryRecord j x.nrec v.time (decide (d.args.stopArea.size / 64 < x.nrec))) ∧ (v.haltContext d j).outbox = v.outbox := by
  have hfound : (v.haltContext d j).ctx? d.no = (v.ctx? d.no).map fun c => c.haltedWith { j with lastStop := v.time, pending := [] }
      ((v.stopRecords d j).take (d.args.stopArea.size / 64)) (v.stopRecords d j).length :=
    ctx_updCtx (v.ownWrite d.args.stopArea.base ((v.stopRecords d j).take (d.args.stopArea.size / 64)).flatten) d.no _ fun _ => rfl
  rw [hd, Option.map_some] at hfound
  refine ⟨_, hfound, rfl, rfl, rfl, ?_, rfl⟩
  show (List.take _ _).head? = _
  rw [List.head?_take, if_neg (by omega)]
  rfl

theorem unitStop_halts (hwaiting : c.waiting = []) (hroom : 64 ≤ c.args.stopArea.size) : ∃ t x, exec (.unitStop ctx u) s = .next t ∧ t.ctx? ctx = some x ∧
    x.run = .halted ∧ x.halting = none ∧
    x.records.head? = some (summaryRecord { i with pending := [], lastStop := s.time } x.nrec s.time (decide (c.args.stopArea.size / 64 < x.nrec))) ∧
    (c.halting = none → t.outbox = s.outbox) ∧ (∀ h, c.halting = some h → t.outbox = s.outbox ++ [.reply h.node (replyBytes h 0 [])]) := by
  have hlast := stopUnit_last hctx hrun hstop hpending hengine
  have hno := ctx_no hctx
  subst hno
  have hfound := ctx_updCtx s c.no (fun c => { c with stop := some (i.over s.time) }) fun _ => rfl
  rw [hctx, Option.map_some] at hfound
  obtain ⟨x, hx, hhalted, hhalting, hwaits, hrecords, hout⟩ := ctx_haltContext (d := { c with stop := some (i.over s.time) }) hfound hroom (i.over s.time)
  have hx : ((s.updCtx c.no fun c => { c with stop := some (i.over s.time) }).haltContext { c with stop := some (i.over s.time) } (i.over s.time)).ctx? c.no = some x := hx
  generalize (s.updCtx c.no fun c => { c with stop := some (i.over s.time) }).haltContext { c with stop := some (i.over s.time) } (i.over s.time) = v at hlast hx hout
  have hhalting : x.halting = c.halting := hhalting
  cases hh : c.halting with
  | none =>
    have hexec : exec (.unitStop c.no u) s = .next v := by
      show execUnitStop c.no u s = _
      simp only [execUnitStop, hlast, hx, hhalted, hhalting, hh]
    exact ⟨v, x, hexec, hx, hhalted, hhalting.trans hh, hrecords, fun _ => hout, nofun⟩
  | some h =>
    have hupd := ctx_updCtx v c.no (fun c => { c with halting := none }) fun _ => rfl
    rw [hx, Option.map_some] at hupd
    have hreply : ((v.updCtx c.no fun c => { c with halting := none }).reply h 0 []).ctx? c.no = some { x with halting := none } := hupd
    have hexec : exec (.unitStop c.no u) s = .next ((v.updCtx c.no fun c => { c with halting := none }).reply h 0 []) := by
      show execUnitStop c.no u s = _
      simp only [execUnitStop, hlast, hx, hhalted, hhalting, hh]
      rw [goOn_of_none_waiting hreply (hwaits.trans hwaiting)]
    refine ⟨_, _, hexec, hreply, hhalted, rfl, hrecords, nofun, fun k hk => ?_⟩
    obtain rfl := Option.some.inj hk
    exact congrArg (· ++ [Message.reply h.node (replyBytes h 0 [])]) hout

end Stop

end Sys2Proof.Machine
end

section
/-! SUPPORT. Launches, placements, saves, moves and stops together (11, R218–R221; 06, R91–R106; 17, R318). -/

namespace Sys2Proof.Machine

/-- Settles O55: each event by its own lemma; the launch and the contexts that it looks up stay where they are, since write-backs leave the numbers of
launches and returns leave the launches. -/
theorem launchesPlacementAndStops : Obligations.LaunchesPlacementAndStops := by
  unfold Obligations.LaunchesPlacementAndStops
  refine ⟨fun s e g d a la he => ⟨launch_illegal he, launch_inactive he, fun hdet hhandler va hva => ?launch⟩,
    fun s id dest desc act r g c k hlive hjob hgroup hctx hkernel => ⟨fun hcode => ?admitted, launch_refused hlive hjob hctx hkernel hgroup⟩,
    fun s ctx n c l hctx hlaunch => ⟨launchCompletion_none hctx hlaunch, launchBusy_iff s ctx n,
      fun u hended hsignalled hrun hbusy hfreed hu => ⟨launchCompletion_done hctx hlaunch hended hsignalled hrun hbusy hfreed hu, fun hwaits => ?waits⟩,
      fun p => ⟨clusterPlacement_none hctx hlaunch, ?places⟩⟩,
    fun s id w c k l hwg hctx hlaunch hk => ?moves,
    fun s g c w gid hgroup hctx hwg => ⟨fun hhandler => ?handler, vacateStop_none hgroup hctx hwg, vacateStop_leaves hgroup hctx hwg⟩,
    fun s ctx c hctx => ⟨fun h n hvacating => ⟨vacateReply_none hctx hvacating, vacateReply_answers hctx hvacating⟩,
      fun u i => ⟨unitStop_running hctx, unitStop_absent hctx, unitStop_halts hctx⟩⟩⟩
  case launch =>
    obtain ⟨hframe, hothers, hgrp⟩ := awaitRelease_window (env_group he) la.toNat .dev (.launch va.toNat (e.v d) (e.act g))
    exact ⟨_, launch_agrees he hdet hhandler hva, hframe, hothers, hgrp⟩
  case admitted =>
    obtain ⟨t, hexec, hdelivers⟩ := launch_admitted hlive hjob hctx hkernel hgroup hcode
    obtain ⟨x, y, hx, hlaunches, hno, hreserved, hhandle, hkernel, hplaced⟩ := ctx_accept hctx (launchOf desc k false 0 s.time)
    exact ⟨t, _, x, y, hexec, hdelivers, rfl, hx, hlaunches, hno, hreserved, hhandle, hkernel, hplaced⟩
  case waits => rw [launchCompletion_acked hctx hlaunch hended hsignalled hrun hbusy hfreed hu, hwaits]
  case places =>
    intro slots hrun hwaiting hwgs hpassed hmoved hfirst hopen hhome hcore hsubs hls hroom hslots
    obtain ⟨t, x, y, hexec, hworkgroups, hgroups, hmem, hx, hy, hplaced⟩ :=
      clusterPlacement_places hctx hlaunch hmoved hhome hopen hcore hsubs hls hroom hslots hrun hwaiting hwgs hpassed hfirst
    exact ⟨t, _, _, x, y, hexec, hworkgroups, hgroups, hmem, rfl, rfl, rfl, rfl, rfl, newGroups_length .., fun g hg => newGroups_start hg, hx, hy, hplaced⟩
  case moves =>
    subst hk
    refine ⟨waitingSave_none hwg hctx hlaunch, waitingSave_saves hwg hctx hlaunch, fun p => ⟨satisfied_iff s w, fun h => ?_, fun h => ?_,
      fun t hquiet hfirst hbefore hrun hsatisfied hhome hopen hpassed ht => ?returns, fun t hquiet hfirst hno hrun hresident hmoved hwgs hended hhead hopen hpassed ht => ?restores⟩⟩
    · exact waitingRestore_none hwg hctx hlaunch (.inl h)
    · exact waitingRestore_none hwg hctx hlaunch (.inr h)
    case returns =>
      obtain ⟨x, hx, hres, -, hcore, hls⟩ := wg_returned hwg hquiet ht
      exact ⟨waitingRestore_returns hwg hctx hlaunch hfirst hbefore hrun hsatisfied hhome hopen hpassed ht, x, hx, hres, hcore, hls⟩
    case restores =>
      obtain ⟨x, hx, hres, hstays, hcore, -⟩ := wg_returned hwg hquiet ht
      obtain ⟨hexec, y, z, hy, hz, hplaced⟩ := clusterRestore_returns hctx hlaunch hquiet hfirst hrun hresident hwgs hended hhead hopen hpassed ht
      exact ⟨_, x, y, z, hexec, hx, hres, hstays, hcore, rfl, hy, hz, hplaced⟩
  case handler =>
    have hexec := vacateStop_handler hgroup hctx hwg hhandler
    refine ⟨fun hrun hres hin => ?_, fun hout => ?_⟩
    · rw [hexec, hrun, hres, List.contains_iff_mem.mpr hin]
      rfl
    · have hstays : (c.run == .halted && g.resident && c.vacated.contains g.core) = false := by
        obtain h | h := hout
        · rw [beq_false_of_ne h]; rfl
        · rw [Bool.and_eq_false_iff]
          exact .inr (by simpa using h)
      rw [hexec, hstays]
      rfl

end Sys2Proof.Machine
end

section
/-! SUPPORT. The FP32 addition of an atomic (11, R202): its one rounding to the nearest, in units of 2^-149, the least positive FP32 value. -/

namespace Sys2Proof.Machine

/-! ### FP32 patterns in units of 2^-149 -/

/-- The value of a finite FP32 pattern without sign, in units of 2^-149. -/
def fp32Units (x : Nat) : Nat := (if x / 2 ^ 23 = 0 then x % 2 ^ 23 else x % 2 ^ 23 + 2 ^ 23) * 2 ^ (x / 2 ^ 23 - 1)

/-- A significand m over the binade k, also where it is one too large for that binade, and its pattern. -/
theorem fp32Units_of {k m : Nat} (hm : m ≤ 2 ^ 24) (hk : k = 0 ∨ 2 ^ 23 ≤ m) : fp32Units (2 ^ 23 * k + m) = m * 2 ^ k := by
  unfold fp32Units
  rcases Nat.lt_or_ge m (2 ^ 23) with hlow | hhigh
  · obtain rfl : k = 0 := by omega
    rw [if_pos (by omega), show (2 ^ 23 * 0 + m) / 2 ^ 23 - 1 = 0 by omega]
    omega
  · rcases Nat.lt_or_eq_of_le hm with hlt | rfl
    · rw [show (2 ^ 23 * k + m) / 2 ^ 23 = k + 1 by omega, if_neg (by omega), show (2 ^ 23 * k + m) % 2 ^ 23 + 2 ^ 23 = m by omega, Nat.add_sub_cancel]
    · rw [show (2 ^ 23 * k + 2 ^ 24) / 2 ^ 23 = k + 2 by omega, if_neg (by omega), show (2 ^ 23 * k + 2 ^ 24) % 2 ^ 23 + 2 ^ 23 = 2 ^ 23 by omega,
        show k + 2 - 1 = k + 1 by omega, Nat.pow_succ]
      omega

theorem fp32_sign_cases (neg : Bool) : fp32.sign neg = if neg then 2 ^ 31 else 0 := rfl

/-- The value of a finite pattern of either sign, by its units. -/
theorem fp32_value_finite (neg : Bool) {x : Nat} (hx : x ≤ fp32.maxBits) :
    ∃ a c, fp32.value (fp32.sign neg + x) = .num neg a c ∧ 0 < c ∧ a * 2 ^ 149 = fp32Units x * c := by
  replace hx : x < 255 * 2 ^ 23 := by
    have : fp32.maxBits = 255 * 2 ^ 23 - 1 := by decide
    omega
  have hneg : ((fp32.sign neg + x) / 2 ^ 31 % 2 == 1) = neg := by
    cases neg <;> simp only [fp32_sign_cases, beq_iff_eq, if_true, if_false, Bool.false_eq_true, beq_eq_false_iff_ne] <;> omega
  have he : (fp32.sign neg + x) / 2 ^ 23 % 2 ^ 8 = x / 2 ^ 23 := by
    cases neg <;> simp only [fp32_sign_cases, if_true, if_false, Bool.false_eq_true] <;> omega
  have hf : (fp32.sign neg + x) % 2 ^ 23 = x % 2 ^ 23 := by
    cases neg <;> simp only [fp32_sign_cases, if_true, if_false, Bool.false_eq_true] <;> omega
  have hle : x / 2 ^ 23 < 255 := by omega
  unfold Fmt.value
  simp only [show fp32.width - 1 = 31 from rfl, show fp32.p = 23 from rfl, show fp32.ebits = 8 from rfl, show fp32.emax = 255 from rfl,
    show fp32.bias = 127 from rfl, hneg, he, hf, bne_iff_ne, Bool.or_eq_true, beq_iff_eq]
  rw [if_pos (Or.inl (by omega))]
  unfold fp32Units
  generalize x / 2 ^ 23 = e, x % 2 ^ 23 = fr at *
  have hone : (if e = 0 then 1 else e) - 1 = e - 1 := by split <;> omega
  have hpos : 1 ≤ if e = 0 then 1 else e := by split <;> omega
  rw [← hone]
  generalize (if e = 0 then 1 else e) = s at *
  generalize (if e = 0 then fr else fr + 2 ^ 23) = m
  split
  · refine ⟨_, _, rfl, Nat.one_pos, ?_⟩
    rw [Nat.mul_assoc, ← Nat.pow_add, Nat.mul_one, show s - 127 - 23 + 149 = s - 1 by omega]
  · refine ⟨_, _, rfl, Nat.two_pow_pos _, ?_⟩
    rw [Nat.mul_assoc, ← Nat.pow_add, show s - 1 + (127 + 23 - s) = 149 by omega]

/-- The denominator of a value is positive. -/
theorem fp32_value_pos {x n d : Nat} {neg : Bool} (h : fp32.value x = .num neg n d) : 0 < d := by
  unfold Fmt.value at h
  simp only [show fp32.noInf = false from rfl, Bool.false_eq_true, if_false] at h
  split_ifs at h <;> obtain ⟨-, -, rfl⟩ := FVal.num.inj h
  · exact Nat.one_pos
  · exact Nat.two_pow_pos _
  · exact Nat.one_pos
  · exact Nat.two_pow_pos _

/-- An infinity is one pattern of its sign. -/
theorem fp32_value_inf {x : Word} {neg : Bool} (h : fp32.value x.toNat = .inf neg) : x = BitVec.ofNat 32 (fp32.infBits neg) := by
  have hx := x.isLt
  refine BitVec.eq_of_toNat_eq ?_
  unfold Fmt.value at h
  simp only [show fp32.width - 1 = 31 from rfl, show fp32.p = 23 from rfl, show fp32.ebits = 8 from rfl, show fp32.emax = 255 from rfl,
    show fp32.noNan = false from rfl, show fp32.noInf = false from rfl, Bool.or_false, bne_iff_ne, Bool.false_eq_true, if_false] at h
  split_ifs at h
  rename_i he hf
  simp only [ne_eq, not_not, beq_iff_eq] at he hf
  obtain rfl := FVal.inf.inj h
  rw [show fp32.infBits (x.toNat / 2 ^ 31 % 2 == 1) = (if x.toNat / 2 ^ 31 % 2 == 1 then 2 ^ 31 else 0) + 255 * 2 ^ 23 from rfl, BitVec.toNat_ofNat]
  split
  · next hs => simp only [beq_iff_eq] at hs; omega
  · next hs => simp only [beq_iff_eq] at hs; omega

/-- The next pattern is at least one unit of the binade more. -/
theorem le_fp32Units_succ {k m : Nat} (hm : m ≤ 2 ^ 24) (hk : k = 0 ∨ 2 ^ 23 ≤ m) : m * 2 ^ k + 2 ^ k ≤ fp32Units (2 ^ 23 * k + m + 1) := by
  rcases Nat.lt_or_eq_of_le hm with hlt | rfl
  · rw [Nat.add_assoc, fp32Units_of hlt (by omega), Nat.succ_mul]
  · rw [show 2 ^ 23 * k + 2 ^ 24 + 1 = 2 ^ 23 * (k + 1) + (2 ^ 23 + 1) by omega, fp32Units_of (by omega) (by omega), Nat.pow_succ]
    omega

/-- The pattern before is one unit of the binade less, but at its foot, where it is less by some other amount. -/
theorem fp32Units_pred {k m : Nat} (hm : m ≤ 2 ^ 24) (hk : k = 0 ∨ 2 ^ 23 ≤ m) (hx : 0 < 2 ^ 23 * k + m) :
    fp32Units (2 ^ 23 * k + m - 1) + 2 ^ k = m * 2 ^ k ∨ 0 < k ∧ m = 2 ^ 23 ∧ fp32Units (2 ^ 23 * k + m - 1) < m * 2 ^ k := by
  by_cases hfoot : 0 < k ∧ m = 2 ^ 23
  · obtain ⟨hpos, rfl⟩ := hfoot
    obtain ⟨j, rfl⟩ : ∃ j, k = j + 1 := ⟨k - 1, by omega⟩
    refine .inr ⟨hpos, rfl, ?_⟩
    rw [show 2 ^ 23 * (j + 1) + 2 ^ 23 - 1 = 2 ^ 23 * j + (2 ^ 24 - 1) by omega, fp32Units_of (by omega) (by omega), Nat.pow_succ]
    have := Nat.two_pow_pos j
    omega
  · obtain ⟨j, rfl⟩ : ∃ j, m = j + 1 := ⟨m - 1, by omega⟩
    rw [show 2 ^ 23 * k + (j + 1) - 1 = 2 ^ 23 * k + j by omega, fp32Units_of (by omega) (by omega), Nat.add_mul, Nat.one_mul]
    exact .inl rfl

/-- A fraction a/c that is u/t, compared with n/d. -/
theorem fraction_le_iff {a c u t : Nat} (h : a * t = u * c) (hc : 0 < c) (ht : 0 < t) (n d : Nat) :
    (a * d ≤ n * c ↔ u * d ≤ n * t) ∧ (n * c ≤ a * d ↔ n * t ≤ u * d) := by
  have hleft : a * d * t = u * d * c := by rw [Nat.mul_right_comm, h, Nat.mul_right_comm]
  have hright : n * c * t = n * t * c := Nat.mul_right_comm ..
  constructor
  · rw [← Nat.mul_le_mul_right_iff ht, hleft, hright, Nat.mul_le_mul_right_iff hc]
  · rw [← Nat.mul_le_mul_right_iff ht, hleft, hright, Nat.mul_le_mul_right_iff hc]

/-- The middle of two values, in half units. -/
theorem middle_units {a b c c' u u' : Nat} (ha : a * 2 ^ 149 = u * c) (hb : b * 2 ^ 149 = u' * c') :
    (a * c' + b * c) * 2 ^ 150 = (u + u') * (2 * c * c') := by
  calc (a * c' + b * c) * 2 ^ 150 = 2 * (c' * (a * 2 ^ 149) + c * (b * 2 ^ 149)) := by ring
    _ = (u + u') * (2 * c * c') := by rw [ha, hb]; ring

/-! ### The floor of the logarithm, the quantum, and rounding to the nearest -/

/-- The floor of log2 (n/d) is what it says. -/
theorem ilog2_bounds {n d : Nat} (hn : 0 < n) (hd : 0 < d) : (2 : ℚ) ^ ilog2 n d * d ≤ n ∧ (n : ℚ) < 2 ^ (ilog2 n d + 1) * d := by
  have hn1 : (2 : ℚ) ^ (n.log2 : Int) ≤ n := by exact_mod_cast Nat.log2_self_le hn.ne'
  have hn2 : (n : ℚ) < 2 ^ ((n.log2 : Int) + 1) := by exact_mod_cast Nat.lt_log2_self
  have hd1 : (2 : ℚ) ^ (d.log2 : Int) ≤ d := by exact_mod_cast Nat.log2_self_le hd.ne'
  have hd2 : (d : ℚ) < 2 ^ ((d.log2 : Int) + 1) := by exact_mod_cast Nat.lt_log2_self
  unfold ilog2
  generalize he : (n.log2 : Int) - (d.log2 : Int) = e
  have hless : (if 0 ≤ e then decide (n < d * 2 ^ e.toNat) else decide (n * 2 ^ (-e).toNat < d)) = true ↔ (n : ℚ) < 2 ^ e * d := by
    split
    · next h0 =>
      lift e to Nat using h0
      rw [decide_eq_true_iff, Int.toNat_natCast, zpow_natCast, mul_comm d]
      exact_mod_cast Iff.rfl
    · next h0 =>
      obtain ⟨t, rfl⟩ : ∃ t : Nat, e = -t := ⟨(-e).toNat, by omega⟩
      rw [decide_eq_true_iff, neg_neg, Int.toNat_natCast, zpow_neg, zpow_natCast, ← div_eq_inv_mul, lt_div_iff₀ (by positivity)]
      exact_mod_cast Iff.rfl
  have hpow : ∀ x y : Int, (2 : ℚ) ^ (x + y) = 2 ^ x * 2 ^ y := fun x y => zpow_add₀ two_ne_zero x y
  simp only [hless]
  split
  · next h =>
    refine ⟨?_, by rwa [Int.sub_add_cancel]⟩
    calc (2 : ℚ) ^ (e - 1) * d ≤ 2 ^ (e - 1) * 2 ^ ((d.log2 : Int) + 1) := by gcongr
      _ = 2 ^ (n.log2 : Int) := by rw [← hpow]; congr 1; omega
      _ ≤ n := hn1
  · next h =>
    refine ⟨le_of_not_gt h, hn2.trans_le ?_⟩
    calc (2 : ℚ) ^ ((n.log2 : Int) + 1) = 2 ^ (e + 1) * 2 ^ (d.log2 : Int) := by rw [← hpow]; congr 1; omega
      _ ≤ 2 ^ (e + 1) * d := by gcongr

/-- The floor of log2 (n/d), compared with j - i. -/
theorem le_ilog2_iff {n d : Nat} (hn : 0 < n) (hd : 0 < d) (i j : Nat) : (j : Int) - i ≤ ilog2 n d ↔ d * 2 ^ j ≤ n * 2 ^ i := by
  obtain ⟨hlow, hhigh⟩ := ilog2_bounds hn hd
  have hrat : d * 2 ^ j ≤ n * 2 ^ i ↔ (2 : ℚ) ^ ((j : Int) - i) * d ≤ n := by
    rw [zpow_sub₀ two_ne_zero, zpow_natCast, zpow_natCast, div_mul_eq_mul_div, div_le_iff₀ (by positivity), mul_comm ((2 : ℚ) ^ j)]
    exact_mod_cast Iff.rfl
  have hd' : (0 : ℚ) < d := by exact_mod_cast hd
  rw [hrat]
  constructor
  · intro h
    exact (mul_le_mul_of_nonneg_right (zpow_le_zpow_right₀ one_le_two h) hd'.le).trans hlow
  · intro h
    have hlt : (2 : ℚ) ^ ((j : Int) - i) < 2 ^ (ilog2 n d + 1) := lt_of_mul_lt_mul_right (h.trans_lt hhigh) hd'.le
    have := (zpow_lt_zpow_iff_right₀ one_lt_two).mp hlt
    omega

/-- n/d in units of 2^(k - i) is n·2^i over d·2^k, as a fraction a/b that a factor c may have shortened. -/
theorem quantum_units (n d k i : Nat) (hd : 0 < d) :
    ∃ a b c, quantum n d ((k : Int) - i) = (a / b, a % b, b) ∧ 0 < b ∧ 0 < c ∧ n * 2 ^ i = a * c ∧ d * 2 ^ k = b * c := by
  unfold quantum
  by_cases hq : (0 : Int) ≤ k - i
  · obtain ⟨t, rfl⟩ : ∃ t, k = i + t := ⟨k - i, by omega⟩
    refine ⟨n, d * 2 ^ t, 2 ^ i, ?_, Nat.mul_pos hd (Nat.two_pow_pos _), Nat.two_pow_pos _, rfl, by rw [Nat.pow_add]; ring⟩
    simp only [if_pos hq, show (((i + t : Nat) : Int) - (i : Int)).toNat = t by omega]
  · obtain ⟨t, rfl⟩ : ∃ t, i = k + t := ⟨i - k, by omega⟩
    refine ⟨n * 2 ^ t, d, 2 ^ k, ?_, hd, Nat.two_pow_pos _, by rw [Nat.pow_add]; ring, rfl⟩
    simp only [if_neg hq, show (-((k : Int) - ((k + t : Nat) : Int))).toNat = t by omega]

/-- The quotient that rounding to the nearest takes, an even one in a tie. -/
def nearestQuotient (neg : Bool) (a b : Nat) : Nat := if (Rounding.plain .rne).up neg (a / b) (a % b) b then a / b + 1 else a / b

/-- The rest that decides it, also where both terms have a factor more. -/
theorem nearestQuotient_rest (neg : Bool) (a : Nat) {b c : Nat} (hb : 0 < b) (hc : 0 < c) :
    ∃ r, a * c = a / b * (b * c) + r ∧ r < b * c ∧ (r = 0 ↔ a % b = 0) ∧
      (nearestQuotient neg a b = a / b + 1 ∧ (b * c < 2 * r ∨ 2 * r = b * c ∧ a / b % 2 = 1) ∨
       nearestQuotient neg a b = a / b ∧ (2 * r < b * c ∨ 2 * r = b * c ∧ a / b % 2 = 0)) := by
  have hlt : ∀ {x y : Nat}, x < y → x * c < y * c := fun h => Nat.mul_lt_mul_of_pos_right h hc
  refine ⟨a % b * c, ?_, hlt (Nat.mod_lt a hb), by simp only [Nat.mul_eq_zero, hc.ne', or_false], ?_⟩
  · rw [← Nat.mul_assoc, ← Nat.add_mul, Nat.mul_comm (a / b), Nat.div_add_mod]
  · unfold nearestQuotient Rounding.up Rounding.plain
    simp only [gt_iff_lt, Bool.or_eq_true, decide_eq_true_iff, Bool.and_eq_true, beq_iff_eq, ← Nat.mul_assoc]
    rcases Nat.lt_trichotomy (2 * (a % b)) b with hr | hr | hr
    · rw [if_neg (by omega)]
      exact .inr ⟨rfl, .inl (hlt hr)⟩
    · rw [hr]
      rcases Nat.mod_two_eq_zero_or_one (a / b) with hq | hq
      · rw [if_neg (by omega)]
        exact .inr ⟨rfl, .inr ⟨rfl, hq⟩⟩
      · rw [if_pos (.inr ⟨rfl, hq⟩)]
        exact .inl ⟨rfl, .inr ⟨rfl, hq⟩⟩
    · rw [if_pos (.inl hr)]
      exact .inl ⟨rfl, .inl (hlt hr)⟩

/-- It is the integer nearest to a/b. -/
theorem nearestQuotient_near (neg : Bool) (a : Nat) {b c : Nat} (hb : 0 < b) (hc : 0 < c) :
    RoundsInt .rne neg (a * c) (b * c) (nearestQuotient neg a b) ∧ (a % b = 0 ↔ nearestQuotient neg a b * (b * c) = a * c) := by
  obtain ⟨r, hac, hlt, hzero, hq⟩ := nearestQuotient_rest neg a hb hc
  unfold RoundsInt
  simp only [reduceCtorEq, false_and, or_self, false_imp_iff, true_imp_iff, true_or, true_and, false_or, Nat.mul_assoc 2, Nat.add_mul, Nat.one_mul]
  rw [hac, ← hzero]
  rcases hq with ⟨hq, hr⟩ | ⟨hq, hr⟩
  · rw [hq, Nat.add_mul, Nat.one_mul]
    omega
  · rw [hq]
    omega

theorem div_le_nearestQuotient (neg : Bool) (a b : Nat) : a / b ≤ nearestQuotient neg a b ∧ nearestQuotient neg a b ≤ a / b + 1 := by
  unfold nearestQuotient
  split <;> omega

/-! ### The rounding -/

/-- n/d, in units of 2^-149, lies in the binade k of 24-bit significands, or below all of them. -/
theorem ilog2_binade {n d : Nat} (hn : 0 < n) (hd : 0 < d) :
    ∃ k : Nat, (if -126 ≤ ilog2 n d then ilog2 n d else -126) - 23 = (k : Int) - (149 : Nat) ∧ n * 2 ^ 149 < 2 ^ 24 * (d * 2 ^ k) ∧
      (k = 0 ∨ 2 ^ 23 * (d * 2 ^ k) ≤ n * 2 ^ 149) := by
  have hle := le_ilog2_iff hn hd 149
  have hmul : ∀ j t, d * 2 ^ (t + j) = 2 ^ j * (d * 2 ^ t) := fun j t => by rw [Nat.pow_add]; ring
  split
  · next he =>
    obtain ⟨k, hk⟩ : ∃ k : Nat, ilog2 n d = (k : Int) - 126 := ⟨(ilog2 n d + 126).toNat, by omega⟩
    refine ⟨k, by omega, Nat.lt_of_not_le fun h => ?_, .inr ?_⟩
    · have := (hle (k + 24)).mpr (by rwa [hmul])
      omega
    · rw [← hmul]
      exact (hle (k + 23)).mp (by omega)
  · next he =>
    refine ⟨0, rfl, Nat.lt_of_not_le fun h => ?_, .inl rfl⟩
    have := (hle (0 + 24)).mpr (by rwa [hmul])
    omega

/-- The pattern that the rounding puts together from a significand in units of 2^q. -/
def fp32Pattern (m : Nat) (q : Int) : Nat :=
  let (m2, q2) := if m == 2 ^ (23 + 1) then (2 ^ 23, q + 1) else (m, q)
  if m2 < 2 ^ 23 then m2 else (q2 + (23 : Nat) + (127 : Nat)).toNat * 2 ^ 23 + (m2 - 2 ^ 23)

theorem fp32Pattern_eq {k m : Nat} (hm : m ≤ 2 ^ 24) (hk : k = 0 ∨ 2 ^ 23 ≤ m) : fp32Pattern m ((k : Int) - (149 : Nat)) = 2 ^ 23 * k + m := by
  unfold fp32Pattern
  by_cases htop : m = 2 ^ 24
  · subst htop
    rw [if_pos (by decide)]
    dsimp only
    rw [show (k : Int) - (149 : Nat) + 1 + (23 : Nat) + (127 : Nat) = (k + 2 : Nat) by omega, Int.toNat_natCast]
    simp only [lt_irrefl, if_false]
    omega
  · rw [if_neg (by simpa using htop)]
    dsimp only
    rw [show (k : Int) - (149 : Nat) + (23 : Nat) + (127 : Nat) = (k + 1 : Nat) by omega, Int.toNat_natCast]
    split
    · omega
    · omega

/-- The rounding by its quotient, its pattern and what says that it is tiny. -/
theorem fp32_round_eq (neg : Bool) {n d a b : Nat} {q : Int} (hn : 0 < n)
    (hq : (if -126 ≤ ilog2 n d then ilog2 n d else -126) - (23 : Nat) = q) (hquantum : quantum n d q = (a / b, a % b, b)) :
    ∃ tiny : Bool, fp32.round (.plain .rne) neg n d =
      if fp32Pattern (nearestQuotient neg a b) q > fp32.maxBits then (fp32.infBits neg, flagOF ||| flagNX)
      else (fp32.sign neg + fp32Pattern (nearestQuotient neg a b) q,
        (if a % b != 0 then flagNX else 0) ||| (if tiny && a % b != 0 then flagUF else 0)) := by
  unfold Fmt.round
  rw [if_neg (by simpa using hn.ne')]
  simp only [show fp32.p = 23 from rfl, show fp32.bias = 127 from rfl, show (1 : Int) - (127 : Nat) = -126 from rfl, hq, hquantum]
  exact ⟨_, rfl⟩

/-- THE ROUNDING TO THE NEAREST: the significand nearest to n/d in its binade, whose pattern overflows or is the result. -/
theorem fp32_round_nearest (neg : Bool) {n d : Nat} (hn : 0 < n) (hd : 0 < d) :
    ∃ (k m : Nat) (fl : BitVec 7), m ≤ 2 ^ 24 ∧ (k = 0 ∨ 2 ^ 23 ≤ m ∧ 2 ^ 23 * (d * 2 ^ k) ≤ n * 2 ^ 149) ∧
      RoundsInt .rne neg (n * 2 ^ 149) (d * 2 ^ k) m ∧ fl.getLsbD 2 = false ∧ (fl.getLsbD 4 = false ↔ m * (d * 2 ^ k) = n * 2 ^ 149) ∧
      fp32.round (.plain .rne) neg n d =
        if 2 ^ 23 * k + m > fp32.maxBits then (fp32.infBits neg, flagOF ||| flagNX) else (fp32.sign neg + (2 ^ 23 * k + m), fl) := by
  obtain ⟨k, hk, hhigh, hlow⟩ := ilog2_binade hn hd
  obtain ⟨a, b, c, hquantum, hb, hc, hN, hD⟩ := quantum_units n d k 149 hd
  obtain ⟨hnear, hexact⟩ := nearestQuotient_near neg a hb hc
  have hbc : 0 < b * c := Nat.mul_pos hb hc
  rw [← hN, ← hD] at hnear hexact
  have hfloor : a / b = n * 2 ^ 149 / (d * 2 ^ k) := by rw [hN, hD, Nat.mul_div_mul_right _ _ hc]
  obtain ⟨hge, hle⟩ := div_le_nearestQuotient neg a b
  have hm : nearestQuotient neg a b ≤ 2 ^ 24 := by
    have := (Nat.div_lt_iff_lt_mul (by rw [hD]; exact hbc)).mpr hhigh
    omega
  have hmlow : k = 0 ∨ 2 ^ 23 ≤ nearestQuotient neg a b ∧ 2 ^ 23 * (d * 2 ^ k) ≤ n * 2 ^ 149 := hlow.imp_right fun h =>
    ⟨((Nat.le_div_iff_mul_le (by rw [hD]; exact hbc)).mpr h).trans (hfloor ▸ hge), h⟩
  obtain ⟨tiny, hround⟩ := fp32_round_eq neg hn hk hquantum
  rw [fp32Pattern_eq hm (hmlow.imp_right And.left)] at hround
  refine ⟨k, _, _, hm, hmlow, hnear, ?_, ?_, hround⟩
  · rw [BitVec.getLsbD_or, Bool.or_eq_false_iff]
    constructor <;> split <;> rfl
  rw [← hexact]
  by_cases hr : a % b = 0
  · simp only [hr, bne_self_eq_false, Bool.and_false, Bool.false_eq_true, if_false, iff_true]
    decide
  · rw [if_pos (by simpa using hr), BitVec.getLsbD_or, iff_false_intro hr]
    simp [flagNX]

/-- What `RoundsFraction` asks of a result that has not overflowed, by its significand. -/
theorem roundsFraction_of_units {neg : Bool} {n d k m : Nat} {fl : BitVec 7} (hm : m ≤ 2 ^ 24)
    (hk : k = 0 ∨ 2 ^ 23 ≤ m ∧ 2 ^ 23 * (d * 2 ^ k) ≤ n * 2 ^ 149) (hd : 0 < d) (hnear : RoundsInt .rne neg (n * 2 ^ 149) (d * 2 ^ k) m)
    (hexact : fl.getLsbD 4 = false ↔ m * (d * 2 ^ k) = n * 2 ^ 149) (hx : 2 ^ 23 * k + m ≤ fp32.maxBits) :
    RoundsFraction fp32 .rne neg n d (fp32.sign neg + (2 ^ 23 * k + m), fl) := by
  intro _
  have hk' : k = 0 ∨ 2 ^ 23 ≤ m := hk.imp_right And.left
  obtain ⟨a, c, hvalue, hc, hac⟩ := fp32_value_finite neg hx
  have hunits : fp32Units (2 ^ 23 * k + m) * d = m * (d * 2 ^ k) := by rw [fp32Units_of hm hk']; ring
  have hmiddle : ∀ {y b c' : Nat}, y ≤ fp32.maxBits → fp32.value y = .num false b c' →
      ((a * c' + b * c) * d ≤ n * (2 * c * c') ↔ m * (d * 2 ^ k) + fp32Units y * d ≤ 2 * (n * 2 ^ 149)) ∧
      (n * (2 * c * c') ≤ (a * c' + b * c) * d ↔ 2 * (n * 2 ^ 149) ≤ m * (d * 2 ^ k) + fp32Units y * d) := by
    intro y b c' hy hb
    obtain ⟨b', c'', hvalue', hc', hbc⟩ := fp32_value_finite false hy
    rw [show fp32.sign false = 0 from rfl, Nat.zero_add, hb] at hvalue'
    obtain ⟨-, rfl, rfl⟩ := FVal.num.inj hvalue'
    have := fraction_le_iff (middle_units hac hbc) (by positivity) (by positivity) n d
    rwa [Nat.add_mul (fp32Units _) (fp32Units y), hunits, show n * 2 ^ 150 = 2 * (n * 2 ^ 149) by ring] at this
  obtain ⟨hle, hge⟩ := fraction_le_iff hac hc (by positivity) n d
  rw [hunits] at hle hge
  obtain ⟨-, -, hnear⟩ := hnear
  obtain ⟨hupper, hlower, htieUp, htieDown⟩ := hnear (.inl rfl)
  simp only [Nat.mul_assoc 2, Nat.add_mul, Nat.one_mul, reduceCtorEq, false_or, true_and] at hupper hlower htieUp htieDown
  have hD : 0 < d * 2 ^ k := by positivity
  refine ⟨2 ^ 23 * k + m, a, c, rfl, hx, hvalue, hc, ?exact, fun h => by simp at h, fun h => by simp at h, fun _ => ⟨?above, ?below⟩⟩
  case exact =>
    beta_reduce
    rw [hexact, hle, hge]; omega
  case above =>
    intro b c' hlt hb
    obtain ⟨hmle, hmge⟩ := hmiddle (y := 2 ^ 23 * k + m + 1) hlt hb
    have hsucc := Nat.mul_le_mul_right d (le_fp32Units_succ hm hk')
    rw [show (m * 2 ^ k + 2 ^ k) * d = m * (d * 2 ^ k) + d * 2 ^ k by ring] at hsucc
    beta_reduce
    rw [hmle, hmge]
    exact ⟨by omega, fun h => ⟨rfl, by omega⟩⟩
  case below =>
    intro b c' hpos hb
    obtain ⟨hmle, hmge⟩ := hmiddle (by omega) hb
    beta_reduce
    rw [hmle, hmge]
    rcases fp32Units_pred hm hk' hpos with hpred | ⟨hk0, rfl, hpred⟩
    · have hpred' : fp32Units (2 ^ 23 * k + m - 1) * d + d * 2 ^ k = m * (d * 2 ^ k) := by
        calc _ = (fp32Units (2 ^ 23 * k + m - 1) + 2 ^ k) * d := by ring
          _ = m * (d * 2 ^ k) := by rw [hpred]; ring
      omega
    · have hpred' := Nat.mul_lt_mul_of_pos_right hpred hd
      rw [show 2 ^ 23 * 2 ^ k * d = 2 ^ 23 * (d * 2 ^ k) by ring] at hpred'
      omega

/-- Where the pattern overflows, the number is above the largest finite one. -/
theorem lt_of_overflow {neg : Bool} {n d k m : Nat} (hm : m ≤ 2 ^ 24)
    (hk : k = 0 ∨ 2 ^ 23 ≤ m ∧ 2 ^ 23 * (d * 2 ^ k) ≤ n * 2 ^ 149) (hd : 0 < d) (hnear : RoundsInt .rne neg (n * 2 ^ 149) (d * 2 ^ k) m)
    (hx : 2 ^ 23 * k + m > fp32.maxBits) (a c : Nat) (hvalue : fp32.value fp32.maxBits = .num false a c) : a * d < n * c := by
  obtain ⟨a', c', hvalue', hc, hac⟩ := fp32_value_finite false (x := fp32.maxBits) le_rfl
  rw [show fp32.sign false = 0 from rfl, Nat.zero_add, hvalue] at hvalue'
  obtain ⟨-, rfl, rfl⟩ := FVal.num.inj hvalue'
  have hmax : fp32.maxBits = 2 ^ 23 * 253 + (2 ^ 24 - 1) := by decide
  rw [hmax, fp32Units_of (by omega) (by omega)] at hac
  rw [← Nat.not_le, (fraction_le_iff hac hc (by positivity) n d).2, Nat.not_le, show (2 ^ 24 - 1) * 2 ^ 253 * d = (2 ^ 24 - 1) * (d * 2 ^ 253) by ring]
  rw [hmax] at hx
  have hD : 0 < d * 2 ^ 253 := by positivity
  obtain ⟨-, -, hnear⟩ := hnear
  obtain ⟨-, hlower, -, -⟩ := hnear (.inl rfl)
  rcases Nat.lt_or_ge 253 k with hbig | hsmall
  · obtain ⟨t, rfl⟩ : ∃ t, k = 254 + t := ⟨k - 254, by omega⟩
    obtain ⟨-, hlow⟩ := hk.resolve_left (by omega)
    calc (2 ^ 24 - 1) * (d * 2 ^ 253) < 2 ^ 24 * (d * 2 ^ 253) := Nat.mul_lt_mul_of_pos_right (by decide) hD
      _ ≤ 2 ^ 24 * (d * 2 ^ 253) * 2 ^ t := Nat.le_mul_of_pos_right _ (Nat.two_pow_pos t)
      _ = 2 ^ 23 * (d * 2 ^ (254 + t)) := by ring
      _ ≤ n * 2 ^ 149 := hlow
  · obtain rfl : k = 253 := by omega
    obtain rfl : m = 2 ^ 24 := by omega
    have hsmaller : ∀ {D N : Nat}, 0 < D → 2 * 2 ^ 24 * D ≤ 2 * N + D → (2 ^ 24 - 1) * D < N := by omega
    exact hsmaller hD hlower

/-- THE ROUNDING OF FP32 to the nearest is one in the sense of 13, R239, and overflows to the infinity of its sign. -/
theorem fp32_round_rne (neg : Bool) {n d : Nat} (hn : 0 < n) (hd : 0 < d) :
    RoundsFraction fp32 .rne neg n d (fp32.round (.plain .rne) neg n d) ∧
    ((fp32.round (.plain .rne) neg n d).2.getLsbD 2 = true → (∀ a c, fp32.value fp32.maxBits = .num false a c → a * d < n * c) ∧
      (fp32.round (.plain .rne) neg n d).1 = fp32.infBits neg) ∧
    (fp32.round (.plain .rne) neg n d).1 < 2 ^ 32 := by
  obtain ⟨k, m, fl, hm, hk, hnear, hof, hexact, hround⟩ := fp32_round_nearest neg hn hd
  rw [hround]
  split
  · next hx =>
    refine ⟨fun h => absurd h (by decide : ¬ (flagOF ||| flagNX).getLsbD 2 = false), fun _ => ⟨lt_of_overflow hm hk hd hnear hx, rfl⟩, ?_⟩
    cases neg <;> decide
  · next hx =>
    refine ⟨roundsFraction_of_units hm hk hd hnear hexact (Nat.le_of_not_lt hx), fun h => (Bool.false_ne_true (hof.symm.trans h)).elim, ?_⟩
    have hmax : fp32.maxBits < 2 ^ 31 := by decide
    have hsign : fp32.sign neg ≤ 2 ^ 31 := by cases neg <;> decide
    omega

/-! ### The addition -/

theorem fp32_infBits (neg : Bool) : BitVec.ofNat 32 (fp32.infBits neg) = if neg then (0xFF800000 : Word) else 0x7F800000 := by
  cases neg <;> rfl

/-- The addition of two numbers, their exact sum by its numerator over the common denominator. -/
theorem exactAdd_num (m : Mode) (s t : Bool) (n d n' d' : Nat) :
    exactAdd m (.num s n d) (.num t n' d') =
      let z : Int := (if s then -(n : Int) else n) * d' + (if t then -(n' : Int) else n') * d
      if z = 0 then (if n = 0 ∧ n' = 0 ∧ s = t then .num s 0 1 else .num (m == .rdn) 0 1) else .num (z < 0) z.natAbs (d * d') := by
  simp only [exactAdd, beq_iff_eq, Bool.and_eq_true, and_assoc]

/-- Without NaN operands the addition delivers the exact sum. -/
theorem fadd32Rne_eq {x v : Word} (hx : (fp32.value x.toNat).isNan = false) (hv : (fp32.value v.toNat).isNan = false) :
    fadd32Rne x v = BitVec.ofNat 32 (fp32.deliver (.plain .rne) [] (exactAdd .rne (fp32.value x.toNat) (fp32.value v.toNat))).bits := by
  unfold fadd32Rne
  simp only [hx, hv, Bool.or_self, Bool.false_eq_true, if_false]

theorem fp32_deliver_num (neg : Bool) (n d : Nat) : (fp32.deliver (.plain .rne) [] (.num neg n d)).bits = (fp32.round (.plain .rne) neg n d).1 := rfl

/-- FP32 ADDITION OF AN ATOMIC (11, R202). -/
theorem fadd32Rne_adds (x v : Word) : AddsFp32 x v (fadd32Rne x v) := by
  refine ⟨fun h => ?nan, fun s t hp hq => ?infs, fun s hp hq => ?left, fun s hq hp => ?right, fun s n d t n' d' hp hq => ⟨fun hz => ?zero, fun hz => ?sum⟩⟩
  case nan =>
    unfold fadd32Rne
    rw [if_pos (by simpa using h)]
  case infs =>
    rw [fadd32Rne_eq (by rw [hp]; rfl) (by rw [hq]; rfl), hp, hq, exactAdd]
    by_cases hst : s = t
    · subst hst
      rw [if_pos (by simp), if_pos rfl, fp32_value_inf hp]
      rfl
    · rw [if_neg (by simpa using hst), if_neg hst]
      rfl
  case left =>
    obtain ⟨t, n, d, hv⟩ : ∃ t n d, fp32.value v.toNat = .num t n d := by cases h : fp32.value v.toNat <;> simp_all [FVal.isFinite]
    rw [fadd32Rne_eq (by rw [hp]; rfl) (by rw [hv]; rfl), hp, hv, fp32_value_inf hp]
    rfl
  case right =>
    obtain ⟨t, n, d, hx⟩ : ∃ t n d, fp32.value x.toNat = .num t n d := by cases h : fp32.value x.toNat <;> simp_all [FVal.isFinite]
    rw [fadd32Rne_eq (by rw [hx]; rfl) (by rw [hq]; rfl), hq, hx, fp32_value_inf hq]
    rfl
  case zero =>
    have hd := fp32_value_pos hp
    have hd' := fp32_value_pos hq
    rw [fadd32Rne_eq (by rw [hp]; rfl) (by rw [hq]; rfl), hp, hq, exactAdd_num]
    simp only [hz, if_true]
    by_cases hneg : n = 0 ∧ s = true ∧ t = true
    · obtain ⟨rfl, rfl, rfl⟩ := hneg
      have hn' : n' = 0 := by
        simp only [if_true, Nat.cast_zero, neg_zero, zero_mul, zero_add, mul_eq_zero, neg_eq_zero, Int.natCast_eq_zero] at hz
        omega
      rw [if_pos ⟨rfl, hn', rfl⟩, if_pos ⟨rfl, rfl, rfl⟩]
      rfl
    · rw [if_neg hneg]
      split
      · next hall =>
        obtain ⟨rfl, rfl, rfl⟩ := hall
        obtain rfl : s = false := by cases s <;> simp_all
        rfl
      · rfl
  case sum =>
    have hd := fp32_value_pos hp
    have hd' := fp32_value_pos hq
    rw [fadd32Rne_eq (by rw [hp]; rfl) (by rw [hq]; rfl), hp, hq, exactAdd_num]
    simp only [hz, if_false, fp32_deliver_num]
    obtain ⟨hrounds, hover, hlt⟩ := fp32_round_rne (decide ((if s then -(n : Int) else n) * d' + (if t then -(n' : Int) else n') * d < 0))
      (Int.natAbs_pos.mpr hz) (Nat.mul_pos hd hd')
    refine ⟨_, by rwa [BitVec.toNat_ofNat, Nat.mod_eq_of_lt hlt], fun hof => ?_⟩
    obtain ⟨hmax, hbits⟩ := hover hof
    refine ⟨hmax, ?_⟩
    rw [hbits, fp32_infBits]
    simp only [decide_eq_true_iff]

end Sys2Proof.Machine
end

section
/-! SUPPORT. Stores to the Local Store, its adds, and stores on the tile path (11, R198, R200, R203; 10, R175). -/

namespace Sys2Proof.Machine

/-! ### Lanes that write in workgroups -/

section Lanes
variable {wid : Nat → Nat} {f : Nat → Workgroup → Workgroup}

/-- Lanes write one after another, each in a workgroup. -/
def State.writeLanes (wid : Nat → Nat) (f : Nat → Workgroup → Workgroup) (ns : List Nat) (s : State) : State :=
  ns.foldl (fun s n => s.updWg (wid n) (f n)) s

theorem writeLanes_frame (wid : Nat → Nat) (f : Nat → Workgroup → Workgroup) (ns : List Nat) (s : State) :
    s.writeLanes wid f ns = { s with workgroups := (s.writeLanes wid f ns).workgroups } :=
  foldl_keeps (P := fun t => t = { s with workgroups := t.workgroups }) (fun s n => s.updWg (wid n) (f n)) (fun t n h => by rw [h]; rfl) ns s rfl

/-- What they make of a workgroup: those of them that write there, in their order. -/
theorem wg_writeLanes (hf : ∀ n w, (f n w).wid = w.wid) (ns : List Nat) (s : State) (id : Nat) :
    (s.writeLanes wid f ns).wg? id = (s.wg? id).map fun w => (ns.filter fun n => wid n == id).foldl (fun w n => f n w) w := by
  induction ns generalizing s with
  | nil => exact Option.map_id'.symm
  | cons n ns ih =>
    have hstep : s.writeLanes wid f (n :: ns) = (s.updWg (wid n) (f n)).writeLanes wid f ns := rfl
    rw [hstep, ih, State.wg?, State.wg?, State.updWg, find_mapWhere _ _ _ (fun w _ => by rw [hf]), Option.map_map]
    refine Option.map_congr fun w hw => ?_
    have hid : w.wid = id := by simpa using List.find?_some hw
    rw [List.filter_cons, Function.comp_apply, hid, Bool.beq_comm]
    split <;> rfl

end Lanes

/-- Some lanes have written bytes in a workgroup at their places, and nothing else of it has changed but the poison and the record of late writes. -/
structure WroteLs (off : Nat → Nat) (bs : Nat → List (BitVec 8)) (ns : List Nat) (v v' : Workgroup) : Prop where
  frame : v' = { v with ls := v'.ls, lsPoison := v'.lsPoison, late := v'.late }
  same : ∀ n ∈ ns, v'.ls.read (off n) (bs n).length = bs n
  other : ∀ b, (∀ n ∈ ns, b < off n ∨ off n + (bs n).length ≤ b) → v'.ls.get b = v.ls.get b

section Wrote
variable {off : Nat → Nat} {bs : Nat → List (BitVec 8)} {f : Nat → Workgroup → Workgroup} {v : Workgroup}

/-- Lanes whose places share no byte each leave their bytes, where each does so in a workgroup whose bytes at its place are still as before. -/
theorem wroteLs_foldl {ns : List Nat} (hnodup : ns.Nodup)
    (hapart : ∀ n ∈ ns, ∀ k ∈ ns, n ≠ k → off n + (bs n).length ≤ off k ∨ off k + (bs k).length ≤ off n)
    (hf : ∀ n ∈ ns, ∀ u, u = { v with ls := u.ls, lsPoison := u.lsPoison, late := u.late } →
      u.ls.read (off n) (bs n).length = v.ls.read (off n) (bs n).length → WroteLs off bs [n] u (f n u)) :
    WroteLs off bs ns v (ns.foldl (fun w n => f n w) v) := by
  induction ns using List.reverseRecOn with
  | nil => exact ⟨rfl, nofun, fun _ _ => rfl⟩
  | append_singleton ns n ih =>
    have hmem : ∀ k ∈ ns, k ∈ ns ++ [n] := fun k hk => List.mem_append_left _ hk
    have hn : n ∈ ns ++ [n] := List.mem_append_right _ List.mem_cons_self
    obtain ⟨hnodup', -, hdisjoint⟩ := List.nodup_append.mp hnodup
    have hne : ∀ k ∈ ns, k ≠ n := fun k hk => hdisjoint k hk n List.mem_cons_self
    obtain ⟨hframe, hsame, hother⟩ := ih hnodup' (fun j hj k hk => hapart j (hmem j hj) k (hmem k hk)) (fun k hk => hf k (hmem k hk))
    rw [List.foldl_concat]
    generalize ns.foldl (fun w n => f n w) v = u at hframe hsame hother
    obtain ⟨hframe', hsame', hother'⟩ := hf n hn u hframe (read_congr _ _ _ _ fun b h1 h2 => hother b fun k hk => by
      have := hapart k (hmem k hk) n hn (hne k hk)
      omega)
    generalize f n u = u' at hframe' hsame' hother'
    refine ⟨?_, fun k hk => ?_, fun b hb => ?_⟩
    · rw [hframe] at hframe'
      exact hframe'
    · rcases List.mem_append.mp hk with hin | hlast
      · refine (read_congr _ _ _ _ fun b h1 h2 => hother' b fun j hj => ?_).trans (hsame k hin)
        obtain rfl := List.mem_singleton.mp hj
        have := hapart k hk j hn (hne k hin)
        omega
      · exact hsame' k hlast
    · exact (hother' b fun j hj => hb j (List.mem_append_right _ hj)).trans (hother b fun k hk => hb k (hmem k hk))

/-- A write into the Local Store, its poison and the record of late writes apart. -/
theorem wroteLs_of_write {n : Nat} {u u' : Workgroup} (h : u' = { u with ls := u.ls.write (off n) (bs n), lsPoison := u'.lsPoison, late := u'.late }) :
    WroteLs off bs [n] u u' := by
  have hls : u'.ls = u.ls.write (off n) (bs n) := (congrArg Workgroup.ls h :)
  refine ⟨by rw [hls]; exact h, fun k hk => ?_, fun b hb => ?_⟩
  · obtain rfl := List.mem_singleton.mp hk
    rw [hls, read_write]
  · have := hb n List.mem_cons_self
    rw [hls, get_write, if_neg (by omega)]

end Wrote

theorem noteLate_frame (w : Workgroup) (was : Mem) (gid cls : Nat) (offs : List Nat) :
    w.noteLate was gid cls offs = { w with late := (w.noteLate was gid cls offs).late } := by
  unfold Workgroup.noteLate
  split <;> rfl

/-- ST.l outside the windows writes its bytes into the Local Store. -/
theorem lsWrite_frame {w : Workgroup} {o : Nat} (h : w.stashAt o = none) (gid : Nat) (bs : List (BitVec 8)) :
    w.lsWrite gid o bs = { w with ls := w.ls.write o bs, lsPoison := (w.lsWrite gid o bs).lsPoison, late := (w.lsWrite gid o bs).late } := by
  unfold Workgroup.lsWrite
  rw [h]
  dsimp only
  rw [noteLate_frame]

theorem lsWrite_wid (w : Workgroup) (gid o : Nat) (bs : List (BitVec 8)) : (w.lsWrite gid o bs).wid = w.wid := by
  unfold Workgroup.lsWrite
  split
  · split <;> rfl
  · rw [noteLate_frame]

/-- What an LSADD adds to a word. -/
def lsSum (f32 : Bool) (old v : Word) : Word := if f32 then fadd32Rne old v else old + v

/-- One lane of LSADD at its target. -/
def Workgroup.lsAdd (w : Workgroup) (f32 : Bool) (gid off : Nat) (v : Word) : Workgroup :=
  ({ w with ls := w.ls.write off (leBytes 4 (lsSum f32 (leWord (w.ls.read off 4)) v).toNat) } : Workgroup).noteLate w.ls gid 0 [off, off + 1, off + 2, off + 3]

theorem lsAdd_eq (s : State) (f32 : Bool) (gid wid off : Nat) (v : Word) : s.lsAdd f32 gid wid off v = s.updWg wid fun w => w.lsAdd f32 gid off v := rfl

theorem lsAdd_frame (w : Workgroup) (f32 : Bool) (gid o : Nat) (v : Word) :
    w.lsAdd f32 gid o v = { w with ls := w.ls.write o (leBytes 4 (lsSum f32 (leWord (w.ls.read o 4)) v).toNat),
                                   lsPoison := (w.lsAdd f32 gid o v).lsPoison, late := (w.lsAdd f32 gid o v).late } := by
  unfold Workgroup.lsAdd
  rw [noteLate_frame]

/-- Places that are aligned to their width share no byte where they differ. -/
theorem aligned_apart {width x y : Nat} (hwidth : width = 2 ∨ width = 4 ∨ width = 8 ∨ width = 16) (hx : x % width = 0) (hy : y % width = 0) (hne : x ≠ y) :
    x + width ≤ y ∨ y + width ≤ x := by
  obtain rfl | rfl | rfl | rfl := hwidth
  all_goals omega

/-- A target of the Local Store is aligned. -/
theorem lsTarget_aligned {e : Env} {s : State} {hi lo : Word} {width o : Nat} {w : Workgroup} (h : e.lsTarget s hi lo width = some (w, o)) : o % width = 0 := by
  unfold Env.lsTarget at h
  dsimp only at h
  split at h
  · cases h
  next hgood =>
    have halign : bits lo.toNat 0 20 % width = 0 := by
      simp only [Bool.or_eq_true, not_or, bne_iff_ne, ne_eq, not_not] at hgood
      exact hgood.2
    split at h
    · cases h
    · split_ifs at h
      obtain ⟨-, rfl⟩ := Prod.mk.inj (Option.some.inj h)
      exact halign

/-! ### ST.l and LSADD -/

section Local
variable {s : State} {e : Env} {g : BitVec 3} {t a : BitVec 7} {w : BitVec 2} {tw : Nat → Workgroup} {off : Nat → Nat}

/-- The lanes that store name places outside the stash windows, no two the same. -/
structure LsPlaces (s : State) (e : Env) (g : BitVec 3) (tw : Nat → Workgroup) (off : Nat → Nat) (word : Nat → DWord) (width : Nat) : Prop where
  target : ∀ n, (e.storing g).getLsbD n = true → e.lsTarget s ((word n >>> 32).truncate 32) ((word n).truncate 32) width = some (tw n, off n) ∧
    s.wg? (tw n).wid = some (tw n) ∧ (tw n).stashAt (off n) = none
  apart : ∀ n k, (e.storing g).getLsbD n = true → (e.storing g).getLsbD k = true → n ≠ k → (tw n).wid ≠ (tw k).wid ∨ off n ≠ off k

/-- What a word of the Local Store leaves: its bytes in the workgroups, and its slot at the next word. -/
def Env.StoresLs (e : Env) (s : State) (g : BitVec 3) (tw : Nat → Workgroup) (off : Nat → Nat) (bs : Nat → List (BitVec 8)) (t' : State) : Prop :=
  t' = { s with groups := t'.groups, workgroups := t'.workgroups, fresh := t'.fresh, issue := none } ∧
    (∀ k, k ≠ e.g.gid → t'.group? k = s.group? k) ∧ t'.group? e.g.gid = some (e.g.goto e.iss.slotB (e.iss.pc + 4)) ∧
    ∀ id v, s.wg? id = some v → ∃ v', t'.wg? id = some v' ∧ v' = { v with ls := v'.ls, lsPoison := v'.lsPoison, late := v'.late } ∧
      (∀ n, (e.storing g).getLsbD n = true → (tw n).wid = id → v'.ls.read (off n) (bs n).length = bs n) ∧
      (∀ b, (∀ n, (e.storing g).getLsbD n = true → (tw n).wid = id → b < off n ∨ off n + (bs n).length ≤ b) → v'.ls.get b = v.ls.get b)

/-- A word whose lanes write one after another at places that share no byte. -/
theorem storesLs_of_writeLanes {word : Nat → DWord} {width : Nat} {bs : Nat → List (BitVec 8)} {f : Nat → Workgroup → Workgroup} (he : s.env = some e)
    (hwidth : width = 2 ∨ width = 4 ∨ width = 8 ∨ width = 16) (h : LsPlaces s e g tw off word width) (hlen : ∀ n, (bs n).length = width)
    (hwid : ∀ n w, (f n w).wid = w.wid)
    (hf : ∀ n, (e.storing g).getLsbD n = true → ∀ u : Workgroup, u.stashes = (tw n).stashes →
      u.ls.read (off n) width = (tw n).ls.read (off n) width → WroteLs off bs [n] u (f n u)) :
    e.StoresLs s g tw off bs (e.retire (s.writeLanes (fun n => (tw n).wid) f (lanesOf (e.storing g))).tick) := by
  have hframe := writeLanes_frame (fun n => (tw n).wid) f (lanesOf (e.storing g)) s
  have hwg := wg_writeLanes (wid := fun n => (tw n).wid) hwid (lanesOf (e.storing g)) s
  generalize s.writeLanes (fun n => (tw n).wid) f (lanesOf (e.storing g)) = u at hframe hwg
  have hgroup (k : Nat) : u.tick.group? k = s.group? k := (congrArg (fun t : State => t.group? k) hframe :)
  refine ⟨by rw [hframe]; rfl, fun k hk => (group_retire_other hk).trans (hgroup k), group_retire ((hgroup _).trans (env_group he)), fun id v hv => ?_⟩
  · have hmem : ∀ n, n ∈ (lanesOf (e.storing g)).filter (fun n => (tw n).wid == id) ↔ (e.storing g).getLsbD n = true ∧ (tw n).wid = id := fun n => by
      rw [List.mem_filter, mem_lanesOf, beq_iff_eq]
    have hsame : ∀ n, (e.storing g).getLsbD n = true → (tw n).wid = id → tw n = v := fun n hn hid => by
      obtain ⟨-, htw, -⟩ := h.target n hn
      rw [hid, hv] at htw
      exact (Option.some.inj htw).symm
    have hwrote : WroteLs off bs ((lanesOf (e.storing g)).filter fun n => (tw n).wid == id) v (((lanesOf (e.storing g)).filter fun n => (tw n).wid == id).foldl (fun w n => f n w) v) := by
      refine wroteLs_foldl ((lanesOf_nodup (e.storing g)).filter _) (fun n hn k hk hne => ?apart) (fun n hn u hu hreads => ?writes)
      case apart =>
        obtain ⟨hn, hnid⟩ := (hmem n).mp hn
        obtain ⟨hk, hkid⟩ := (hmem k).mp hk
        rw [hlen, hlen]
        exact aligned_apart hwidth (lsTarget_aligned (h.target n hn).1) (lsTarget_aligned (h.target k hk).1)
          ((h.apart n k hn hk hne).resolve_left (not_not_intro (hnid.trans hkid.symm)))
      case writes =>
        obtain ⟨hn, hid⟩ := (hmem n).mp hn
        refine hf n hn u ?_ ?_
        · rw [hsame n hn hid]; exact (congrArg Workgroup.stashes hu :)
        · rw [hsame n hn hid, ← hlen n]; exact hreads
    obtain ⟨hframe', hread, hother⟩ := hwrote
    exact ⟨_, (hwg id).trans (by rw [hv]; rfl), hframe', fun n hn hid => hread n ((hmem n).mpr ⟨hn, hid⟩),
      fun b hb => hother b fun n hn => hb n ((hmem n).mp hn).1 ((hmem n).mp hn).2⟩

/-- The place that an LSADD finds for a lane. -/
def lsaddTarget (e : Env) (s : State) (a : BitVec 7) (i : Nat) : Option (Nat × Nat × Nat) :=
  match e.lsTarget s ((((e.g.lane i).dword (e.v a)) >>> 32).truncate 32) (((e.g.lane i).dword (e.v a)).truncate 32) 4 with
  | some (w, o) => if (w.stashAt o).isSome then none else some (i, w.wid, o)
  | none => none

/-- LSADD where it is legal. -/
def Env.addsLs (e : Env) (f32 : Bool) (g : BitVec 3) (t a : BitVec 7) (s : State) : Except Halt State :=
  let lanes := (lanesOf (e.act g)).filter (fun i => !e.g.isHelper i)
  let hits := lanes.filterMap (lsaddTarget e s a)
  match laneFault 0x06 (lanes.filter (fun i => (lsaddTarget e s a i).isNone)) (fun i => ((e.g.lane i).dword (e.v a)).toNat) with
  | some h => .error h
  | none =>
    match e.stamp s true none none (hits.map (fun x => ⟨x.1, lsAddr x.2.1 x.2.2, 4⟩)) with
    | .error h => .error h
    | .ok s =>
      let order := if f32 && hits.any (fun x => hits.any (fun y => x.1 != y.1 && x.2 == y.2)) then freeOrder s hits else hits
      .ok (e.retire (order.foldl (fun s x => s.lsAdd f32 e.g.gid x.2.1 x.2.2 ((e.g.lane x.1).word (e.v t))) s).tick)

variable (he : s.env = some e) (hdet : e.l.det = false) (hh : e.g.isHandler = false)
include he hdet hh

theorem stL_eq (h : LsPlaces s e g tw off (fun n => e.ea (e.v a) (e.g.lane n)) (widthBytes w)) : exec (.stL g t a w) s =
    .next (e.retire (s.writeLanes (fun n => (tw n).wid) (fun n v => v.lsWrite e.g.gid (off n) ((e.g.lane n).bytes (e.v t) (widthBytes w)))
      (lanesOf (e.storing g))).tick) := by
  have hown : ∀ n ∈ lanesOf (e.storing g), (e.storing g).getLsbD n = true := fun n hn => (mem_lanesOf _ n).mp hn
  have hwalk := lsWalk_eq (e := e) (s := s) (off := e.v a) (width := widthBytes w) (lanes := lanesOf (e.storing g)) (tw := tw) (o := off)
    (fun n hn => ⟨(h.target n (hown n hn)).1, (h.target n (hown n hn)).2.2⟩) []
  have howned : (lanesOf (e.act g)).filter (fun i => !e.g.isHelper i) = lanesOf (e.storing g) := (lanesOf_storing e g).symm
  have hapart : ((lanesOf (e.storing g)).map fun n => (n, (tw n).wid, off n)).any (fun x => ((lanesOf (e.storing g)).map fun n => (n, (tw n).wid, off n)).any
      fun y => x.1 != y.1 && x.2.1 == y.2.1 && x.2.2 < y.2.2 + widthBytes w && y.2.2 < x.2.2 + widthBytes w) = false := by
    refine Bool.eq_false_iff.mpr fun hmeet => ?_
    obtain ⟨x, hx, hmeet⟩ := List.any_eq_true.mp hmeet
    obtain ⟨y, hy, hmeet⟩ := List.any_eq_true.mp hmeet
    obtain ⟨n, hn, rfl⟩ := List.mem_map.mp hx
    obtain ⟨k, hk, rfl⟩ := List.mem_map.mp hy
    simp only [Bool.and_eq_true, bne_iff_ne, beq_iff_eq, decide_eq_true_eq] at hmeet
    obtain ⟨⟨⟨hne, hwid⟩, hlt⟩, hlt'⟩ := hmeet
    have := aligned_apart (widthBytes_cases w) (lsTarget_aligned (h.target n (hown n hn)).1) (lsTarget_aligned (h.target k (hown k hk)).1)
      ((h.apart n k (hown n hn) (hown k hk) hne).resolve_left (not_not_intro hwid))
    omega
  refine inWord_ok he ?_
  simp only [hh, howned, hwalk, LsWalk.fault, LsWalk.first, List.filter_nil, laneFault, List.isEmpty_nil, Bool.not_true, Bool.false_eq_true, if_false, if_true,
    stamp_of_not_det hdet, hapart, List.foldl_map, updGroup_setNr_nil]
  rfl

theorem lsadd_eq (f32 : Bool) (h : LsPlaces s e g tw off (fun n => (e.g.lane n).dword (e.v a)) 4) : lsadd f32 g t a s =
    .next (e.retire (s.writeLanes (fun n => (tw n).wid) (fun n v => v.lsAdd f32 e.g.gid (off n) ((e.g.lane n).word (e.v t))) (lanesOf (e.storing g))).tick) := by
  have hown : ∀ n ∈ lanesOf (e.storing g), (e.storing g).getLsbD n = true := fun n hn => (mem_lanesOf _ n).mp hn
  have howned : (lanesOf (e.act g)).filter (fun i => !e.g.isHelper i) = lanesOf (e.storing g) := (lanesOf_storing e g).symm
  have htarget : ∀ n ∈ lanesOf (e.storing g), lsaddTarget e s a n = some (n, (tw n).wid, off n) := fun n hn => by
    obtain ⟨htw, -, hstash⟩ := h.target n (hown n hn)
    rw [lsaddTarget, htw]
    dsimp only
    rw [hstash]
    rfl
  have hmissed : (lanesOf (e.storing g)).filter (fun n => (lsaddTarget e s a n).isNone) = [] :=
    List.filter_eq_nil_iff.mpr fun n hn => by rw [htarget n hn]; exact Bool.false_ne_true
  have hhits : (lanesOf (e.storing g)).filterMap (lsaddTarget e s a) = (lanesOf (e.storing g)).map fun n => (n, (tw n).wid, off n) := by
    rw [← List.filterMap_eq_map']
    exact List.filterMap_congr htarget
  have hapart : ((lanesOf (e.storing g)).map fun n => (n, (tw n).wid, off n)).any (fun x => ((lanesOf (e.storing g)).map fun n => (n, (tw n).wid, off n)).any
      fun y => x.1 != y.1 && x.2 == y.2) = false := by
    refine Bool.eq_false_iff.mpr fun hmeet => ?_
    obtain ⟨x, hx, hmeet⟩ := List.any_eq_true.mp hmeet
    obtain ⟨y, hy, hmeet⟩ := List.any_eq_true.mp hmeet
    obtain ⟨n, hn, rfl⟩ := List.mem_map.mp hx
    obtain ⟨k, hk, rfl⟩ := List.mem_map.mp hy
    simp only [Bool.and_eq_true, bne_iff_ne, beq_iff_eq, Prod.mk.injEq] at hmeet
    obtain ⟨hne, hwid, hoff⟩ := hmeet
    exact (h.apart n k (hown n hn) (hown k hk) hne).elim (fun hno => hno hwid) fun hno => hno hoff
  refine inWord_ok he ?_
  change (if e.g.isHandler || (e.l.det && f32) then .error .illegal else e.addsLs f32 g t a s) = _
  rw [hh, hdet, Bool.false_and, Bool.or_self, if_neg Bool.false_ne_true, Env.addsLs]
  simp only [howned, hmissed, hhits, hapart, Bool.and_false, laneFault, stamp_of_not_det hdet, Bool.false_eq_true, if_false, List.foldl_map]
  rfl

end Local

/-! ### The tile write buffer (10, R169; 11, R200) -/

/-- A line of the tile write buffer as a cache's copy whose valid bytes are its dirty ones: the tile path reads these alone. -/
def Line.asValid (l : Line) : Line := { l with valid := l.dirty }

/-- What the tile path reads in the write buffer of a core, its poison apart. -/
def Core.bufferedByte (c : Core) (b : Nat) : Option (BitVec 8) := (c.buffered b).map fun x => x.1

theorem findLine_asValid (ls : List Line) (no : Nat) : findLine (ls.map Line.asValid) no = (findLine ls no).map Line.asValid := List.find?_map ..

theorem bufferedByte_eq (c : Core) (b : Nat) : c.bufferedByte b = byteOf (findLine (c.tileBuf.map Line.asValid) (lineNo b)) (b % 128) := by
  rw [Core.bufferedByte, Core.buffered, findLine_asValid]
  cases findLine c.tileBuf (lineNo b) with
  | none => rfl
  | some l =>
    simp only [Option.map_some, byteOf, Option.bind_some, Line.asValid]
    split <;> rfl

theorem putLine_asValid (ls : List Line) {l : Line} (hvalid : l.valid ≠ 0) (hdirty : l.asValid.valid ≠ 0) :
    (putLine ls l).map Line.asValid = putLine (ls.map Line.asValid) l.asValid := by
  rw [putLine, putLine, if_neg (by simpa using hvalid), if_neg (by simpa using hdirty), List.map_cons, dropLine, dropLine, List.filter_map]
  rfl

/-- The core with a store on its tile path in the line `l` of its write buffer, and in the tile cache's copy. -/
def Core.storesT (c : Core) (l : Line) (gid pa : Nat) (bs : List (BitVec 8)) (trk : Bool) : Core :=
  { c with
    tileBuf := putLine c.tileBuf (l.write (pa % 128) bs true (!trk) gid)
    tiles := match findLine c.tiles (lineNo pa) with
      | some l => putLine c.tiles (l.write (pa % 128) bs false false gid)
      | none => c.tiles }

section Tile
variable {s : State} {core pa : Nat} {bs : List (BitVec 8)}

theorem putLine_length (ls : List Line) (l : Line) : (putLine ls l).length ≤ ls.length + 1 := by
  have hdrop : (dropLine ls l.no).length ≤ ls.length := List.length_filter_le ..
  rw [putLine]
  split
  · omega
  · rw [List.length_cons]; omega

/-- A store on the tile path leaves its bytes in the write buffer, where it has room. -/
theorem storeT_buffers (hfit : pa % 128 + bs.length ≤ 128) (hpos : 0 < bs.length) (hroom : (s.core core).tileBuf.length < 128) (gid : Nat) (trk : Bool) :
    ∃ c, s.storeT core gid pa bs trk = s.setCore core c ∧ c.tileBuf.length ≤ (s.core core).tileBuf.length + 1 ∧
      c.bufferedByte = readStored pa bs (s.core core).bufferedByte := by
  generalize hline : (findLine (s.core core).tileBuf (lineNo pa)).getD (Line.fresh (lineNo pa)) = l
  have hl (i : Nat) : byteOf (some l.asValid) i = byteOf (findLine ((s.core core).tileBuf.map Line.asValid) (lineNo pa)) i := by
    rw [← hline, findLine_asValid]
    cases findLine (s.core core).tileBuf (lineNo pa) with
    | none => exact byteOf_fresh _ i
    | some l => rfl
  have hno : l.asValid.no = lineNo pa := by
    rw [← hline]
    cases h : findLine (s.core core).tileBuf (lineNo pa) with
    | none => rfl
    | some l => exact (findLine_mem h).2
  refine ⟨(s.core core).storesT l gid pa bs trk, ?_, putLine_length .., funext fun b => ?_⟩
  · have hstore : s.storeT core gid pa bs trk = (s.setCore core ((s.core core).storesT l gid pa bs trk)).trimBuffer core (lineNo pa) := by
      rw [← hline]; rfl
    have hfits : ((s.core core).storesT l gid pa bs trk).tileBuf.length ≤ 128 := (putLine_length ..).trans hroom
    rw [hstore, State.trimBuffer, core_setCore, if_pos hfits]
  · have hput : (putLine (s.core core).tileBuf (l.write (pa % 128) bs true (!trk) gid)).map Line.asValid = putLine ((s.core core).tileBuf.map Line.asValid)
        (l.asValid.stored pa bs true (!trk) l.first gid) :=
      putLine_asValid _ (valid_write l true (!trk) gid hfit hpos) (valid_write l.asValid true (!trk) gid hfit hpos)
    rw [bufferedByte_eq, Core.storesT, hput, byteOf_written hfit hpos _ hno hl, funext (bufferedByte_eq (s.core core))]

/-- One access of ST.t. -/
def Group.tileStep (g : Group) (s : State) (x : Access) : State := s.storeT g.core (s.agentOf g x.lane).gid x.pa x.bytes x.trk

theorem foldl_storeT {g : Group} {as : List Access} (has : ∀ x ∈ as, x.inLine) {s : State} (hroom : (s.core g.core).tileBuf.length + as.length ≤ 128) :
    as.foldl g.tileStep s = { s with cores := (as.foldl g.tileStep s).cores } ∧
      ((as.foldl g.tileStep s).core g.core).bufferedByte = readAll as (s.core g.core).bufferedByte := by
  induction as generalizing s with
  | nil => exact ⟨rfl, rfl⟩
  | cons x as ih =>
    obtain ⟨-, hline, -, hpos⟩ := has x List.mem_cons_self
    rw [List.length_cons] at hroom
    obtain ⟨c, hstore, hlen, hread⟩ := storeT_buffers hline hpos (show (s.core g.core).tileBuf.length < 128 by omega) (s.agentOf g x.lane).gid x.trk
    obtain ⟨hframe, hbytes⟩ := ih (fun k hk => has k (List.mem_cons_of_mem _ hk)) (s := s.setCore g.core c) (by rw [core_setCore]; omega)
    have hstep : g.tileStep s x = s.setCore g.core c := hstore
    rw [List.foldl_cons, hstep]
    refine ⟨hframe, hbytes.trans ?_⟩
    rw [core_setCore, hread]
    rfl

end Tile

section Exec
variable {s : State} {e : Env} {g : BitVec 3} {t a : BitVec 7} {w : BitVec 2} (he : s.env = some e)
include he

theorem lsaddF32_illegal (hdet : e.l.det = true) : Faults (.lsaddF32 g t a) s e .illegal :=
  inWord_error he (by simp only [hdet, Bool.and_self, Bool.or_true, if_true])

variable (hdet : e.l.det = false)
include hdet

theorem stT_absent (habsent : e.absent s (e.storing g) (e.v a) (widthBytes w) .write) :
    exec (.stT g t a w) s = .next (e.retire (s.updGroup e.g.gid fun x => x.setNr (e.storing g)).tick) := by
  refine inWord_ok he ?_
  have howned : (lanesOf (e.act g)).filter (fun i => !e.g.isHelper i) = lanesOf (e.storing g) := (lanesOf_storing e g).symm
  have hnone (u : State) : laneOrder u [] = [] := rfl
  simp only [howned, targets_of_absent habsent, accesses_of_absent habsent, absentLanes_of_absent habsent, noteTargets_of_absent habsent,
    stamp_of_not_det hdet, maskOf_lanesOf, hnone, List.foldl_nil]
  rfl

variable {pa : Nat → Nat} (hfinds : e.finds s (e.storing g) (e.v a) (widthBytes w) .write pa)
include hfinds

theorem stT_finds (halign : ∀ n, (e.storing g).getLsbD n = true → pa n % widthBytes w = 0)
    (hapart : ∀ n k, (e.storing g).getLsbD n = true → (e.storing g).getLsbD k = true → n ≠ k → pa n ≠ pa k) : exec (.stT g t a w) s =
    .next (e.retire ((e.stores s g t a (widthBytes w)).foldl e.g.tileStep (e.noted s (e.storing g) (e.v a) (widthBytes w) .write)).tick) := by
  have hwidth := widthBytes_cases w
  have hord := laneOrder_stores (t := t) hfinds (.inr hwidth) halign hapart (e.noted s (e.storing g) (e.v a) (widthBytes w) .write)
  refine inWord_ok he ?_
  have howned : (lanesOf (e.act g)).filter (fun i => !e.g.isHelper i) = lanesOf (e.storing g) := (lanesOf_storing e g).symm
  simp only [howned, targets_of_finds hfinds, accesses_of_finds hfinds, absentLanes_of_finds hfinds, stamp_of_not_det hdet, updGroup_setNr_nil]
  rw [Env.noted, Env.stores] at hord
  rw [hord]
  rfl

end Exec

section Settle
variable {s : State} {e : Env} {g : BitVec 3} {t a : BitVec 7} {tw : Nat → Workgroup} {off : Nat → Nat} (he : s.env = some e) (hdet : e.l.det = false)
  (hh : e.g.isHandler = false)
include he hdet hh

theorem stL_stores {w : BitVec 2} (h : LsPlaces s e g tw off (fun n => e.ea (e.v a) (e.g.lane n)) (widthBytes w)) :
    ∃ t', exec (.stL g t a w) s = .next t' ∧ e.StoresLs s g tw off (fun n => (e.g.lane n).bytes (e.v t) (widthBytes w)) t' := by
  refine ⟨_, stL_eq he hdet hh h, storesLs_of_writeLanes he (widthBytes_cases w) h (fun n => read_length ..) (fun _ _ => lsWrite_wid ..) fun n hn u hu _ => ?_⟩
  have hstash : u.stashAt (off n) = none := by
    obtain ⟨-, -, hnone⟩ := h.target n hn
    rw [Workgroup.stashAt, hu]
    exact hnone
  exact wroteLs_of_write (lsWrite_frame hstash e.g.gid _)

theorem lsadd_stores (f32 : Bool) (h : LsPlaces s e g tw off (fun n => (e.g.lane n).dword (e.v a)) 4) :
    ∃ t', lsadd f32 g t a s = .next t' ∧
      e.StoresLs s g tw off (fun n => leBytes 4 (lsSum f32 (leWord ((tw n).ls.read (off n) 4)) ((e.g.lane n).word (e.v t))).toNat) t' := by
  refine ⟨_, lsadd_eq he hdet hh f32 h, storesLs_of_writeLanes he (.inr (.inl rfl)) h (fun n => leBytes_length ..)
    (fun n w => by rw [lsAdd_frame]) fun n hn u _ hold => wroteLs_of_write ?_⟩
  rw [← hold]
  exact lsAdd_frame ..

end Settle

/-- Settles O36: lanes at different places share no byte, so each leaves its own bytes, in the Local Stores or in the tile write buffer; LSADD.f32 adds with
the one rounding of FP32. -/
theorem localStores : Obligations.LocalStores := by
  unfold Obligations.LocalStores
  refine ⟨fadd32Rne_adds, fun s e g t a w he => ⟨lsaddF32_illegal he, fun hdet => ⟨fun tw off hh => ⟨?words, ?adds⟩, fun habsent => ?absent, ?tiles⟩⟩⟩
  case words => exact fun ⟨htarget, hapart⟩ => stL_stores he hdet hh ⟨htarget, hapart⟩
  case adds => exact fun ⟨htarget, hapart⟩ => ⟨lsadd_stores he hdet hh false ⟨htarget, hapart⟩, lsadd_stores he hdet hh true ⟨htarget, hapart⟩⟩
  case absent => exact ⟨_, stT_absent he hdet habsent, marksNr_retire he _⟩
  case tiles =>
    intro pa hfinds hroom halign hapart
    have hwidth := widthBytes_cases w
    have hu : NotesPages s (e.noted s (e.storing g) (e.v a) (widthBytes w) .write) e.g.gid := notesPages_noteTargets ..
    have hread := readAll_stores (t := t) hfinds (.inr hwidth) halign hapart
    have hline := stores_inLine (t := t) hfinds (.inr hwidth) halign
    have hlen := stores_length (s := s) (e := e) (g := g) (t := t) (a := a) (width := widthBytes w)
    have hgoes := stT_finds (t := t) he hdet hfinds halign hapart
    generalize e.noted s (e.storing g) (e.v a) (widthBytes w) .write = u at hu hgoes
    obtain ⟨tlb, hcore⟩ := hu.core e.g.core
    have hbuf : (u.core e.g.core).tileBuf = (s.core e.g.core).tileBuf := by rw [hcore]
    have hbefore : (u.core e.g.core).bufferedByte = (s.core e.g.core).bufferedByte := by rw [hcore]; rfl
    obtain ⟨hv, hbytes⟩ := foldl_storeT (g := e.g) hline (s := u) (by rw [hbuf]; omega)
    generalize (e.stores s g t a (widthBytes w)).foldl e.g.tileStep u = v at hv hbytes hgoes
    obtain ⟨-, -, -, hothers, grp, hgrp, hwent, hlanes⟩ := retire_of_stored hu (env_group he) (v := v) (by rw [hv])
    obtain ⟨hstored, hkept⟩ := hread.of_eq (hbytes.trans (by rw [hbefore]))
    exact ⟨_, grp, hgoes, retire_of_noted hu ⟨_, hv⟩, hstored, hkept, hothers, hgrp, hwent, hlanes⟩

end Sys2Proof.Machine
end
